-- ==== Sys2Proof/Word.lean ====
section
/-! DEFINITION. Word: the word types of the EL-940 and their plainest arithmetic. -/

namespace Sys2Proof

/-- A byte of memory. -/
abbrev Byte := BitVec 8
/-- A register of the device (R9). -/
abbrev Word := BitVec 32
/-- A scalar register of Iscon, or a register pair (R10, R200). -/
abbrev DWord := BitVec 64
/-- A device physical or virtual address (R29, R200). -/
abbrev Addr := BitVec 48

end Sys2Proof
end

