-- ==== Sys2Proof/Syntax.lean ====
section
/-! DEFINITION. Syntax: the commands of the EL-940 block, one constructor for each row of
spec/opcode_table.json. An operand holds what the sender of the command decides; where a row is an
event of the hardware's own (an error, a reading, an arrival), its operands hold the facts of that
event that no state of the device decides. -/

namespace Sys2Proof

/-- Compute die C0–C3 (R17). -/
abbrev CDie := Fin 4
/-- Die C0–C3 (0–3), X0 (4), X1 (5) (R17). -/
abbrev Die := Fin 6
/-- I/O die X0 (0), X1 (1) (R17). -/
abbrev IoDie := Fin 2
/-- Global course number g = 8d + k (R24). -/
abbrev Course := Fin 32
/-- HBM4 stack and its near-memory controller, 0–7 (R17, R18). -/
abbrev Stack := Fin 8
/-- CXL link and its far-memory controller, 0–7 (R31). -/
abbrev LinkId := Fin 8
/-- Ethernet port ETH0–ETH11 (R17). -/
abbrev PortId := Fin 12
/-- Engine queue 0–7 (R211). -/
abbrev QueueId := Fin 8
/-- Stream of a course, 0–2,047 (R245). -/
abbrev StreamId := Fin 2048

/-- An agent that reads and writes registers (R10): the host through the BAR0 of a function
(0 the physical function, 1–4 VF1–VF4), a course controller, or the plinth controller. That each function's
BAR0 is an agent of its own, with a latch and captured words of its own, is the model's choice (log entry 115). -/
inductive Agent where
  | host (fn : Fin 5)
  | course (g : Course)
  | plinth
  deriving DecidableEq, Repr


/-- What a near-memory controller finds when it accesses a line (R310, R314, R317). -/
inductive LineErr where
  /-- No error. -/
  | ok
  /-- An error confined to the symbol of one channel, corrected. -/
  | corrected (c : Fin 32)
  /-- An error that cannot be corrected. -/
  | uncorrectable
  deriving DecidableEq, Repr

/-- What an access finds in a word of staging SRAM or control storage (R515). -/
inductive WordErr where
  | ok
  | corrected
  | uncorrectable
  deriving DecidableEq, Repr


/-- A checker of a course's arrays that fails as a block enters (R110): the parity of its row at stage 1, or the
CHECK field of a table-memory line at stage 3. -/
inductive ArrayErr where
  | chain
  | tableRead
  deriving DecidableEq, Repr

/-- What waits for a stream past STR_STALL_LIMIT (R276): a stream that waits on credit, the tbl.build in progress, or the
consumer of index rows. -/
inductive StallWaiter where
  | stream (n : StreamId)
  | build
  | rows
  deriving DecidableEq, Repr

/-- Whose next transfer is formed (R252, R383, R391): a stream's, a red.send's or red.accum's, or the ring's. -/
inductive TransferSrc where
  | stream (n : StreamId)
  | red
  | ring
  deriving DecidableEq, Repr

/-- A check that fails as an engine instruction starts (R214): the residue of a source (R447) or a row's parity or table read
(R110) of an msn.parity, by logical array and segment (R449); a lane group of the vector engine, three times (R513); the
generator, `more` mismatches after the first (R185); the encoder of upd.pass2 on the pieces named, counted from 0, each as often
as it is listed (R295). -/
inductive EngineErr where
  | residue (j : Fin 8) (seg : Nat)
  | chain (j : Fin 8) (seg : Nat)
  | tableRead (j : Fin 8) (seg : Nat)
  | lane (group : Fin 9)
  | rng (more : Nat)
  | encoder (pieces : List Nat)
  deriving DecidableEq, Repr

/-- What a self-test covers (R496): the groups of a course, or groups 6 and 7 of a die. -/
inductive TestOwner where
  | course (g : Course)
  | die (d : Die)
  deriving DecidableEq, Repr

/-- What a self-test finds (R498): the groups with a checker that fails, and the part that each such checker guards. -/
structure TestFault where
  groups : BitVec 8
  array : Fin 8
  half : Fin 2
  lane : Fin 9
  copy : Fin 3
  deriving DecidableEq, Repr
/-- A failed part as a repair entry or a ledger FAILURE record names it (R534, R544). -/
structure FailRec where
  die : Nat
  unit : Nat
  inst : Nat
  sub : Nat
  detail : Nat
  deriving DecidableEq, Repr

/-- How a path of a boot step fares in what the device measures or tests (R539, R540). -/
inductive PathResult where
  | pass | fail | hang
  deriving DecidableEq, Repr

/-- A path that does not pass: the step, the number of the unit within the step, the path, and how it fares. -/
structure PathFinding where
  step : Nat
  unit : Nat
  path : Nat
  result : PathResult
  deriving DecidableEq, Repr

/-- Width of a trained PCIe link (R546). -/
inductive LinkWidth where
  | x16 | x8 | x4
  deriving DecidableEq, Repr

/-- What a boot finds outside the plinth controller's own data (R539, R540): the paths that do not pass, the failed parts that
the tests of steps 2 to 12 find, the capacity of each CXL link's device or 0, the ports with a link partner, the lanes of the
PCIe link, and whether the flash takes writes. -/
structure BootEnv where
  paths : List PathFinding
  parts : List FailRec
  far : List (LinkId × Nat)
  partners : BitVec 12
  width : LinkWidth
  flashOk : Bool
  deriving DecidableEq, Repr

/-- A write to PCIe configuration space that the model holds (R546, R548): Bus Master Enable, MSI-X Enable and Function Mask,
the number of enabled virtual functions, and the size of BAR2 as a power of two. -/
inductive CfgWrite where
  | busMaster (on : Bool)
  | msix (enable mask : Bool)
  | vfs (n : Fin 5)
  | bar2Size (log2 : Nat)
  deriving DecidableEq, Repr


/-- The commands of the block, one constructor for each row of spec/opcode_table.json, in its order. -/
inductive Instr where
  /-- REGISTER_WRITE (R12): An aligned 32-bit write to a register that has no row of its own, including W1C and W1S fields, acts as its access code gives. -/
  | registerWrite (a : Agent) (off : BitVec 32) (v : Word)
  /-- REG_PAIR_LOW_WRITE (R10): A write to the low word of a 64-bit register pair is latched until the high word is written. -/
  | regPairLowWrite (a : Agent) (off : BitVec 32) (v : Word)
  /-- REG_PAIR_HIGH_WRITE (R10): A write to the high word of a register pair applies both words together, the low word as last latched. -/
  | regPairHighWrite (a : Agent) (off : BitVec 32) (v : Word)
  /-- REG_PAIR_LOW_READ (R10): A read of the low word captures the high word for the reading agent. -/
  | regPairLowRead (a : Agent) (off : BitVec 32)
  /-- REG_PAIR_HIGH_READ (R10): A read of the high word returns the captured value and releases the capture, or returns the live value when nothing is captured. -/
  | regPairHighRead (a : Agent) (off : BitVec 32)
  /-- HOST_BAR0_MISALIGNED (R9): A host BAR0 access of the wrong size or alignment completes with no effect, reads return 0, and HST_ACCESS is raised. -/
  | hostBar0Misaligned (fn : Fin 5) (off : BitVec 32) (size : Nat) (write : Bool)
  /-- COUNTER_CLEAR (R113): Writing CLEAR to a counter-control register sets its counters to 0 before any count of that cycle. -/
  | counterClear (a : Agent) (off : BitVec 32) (freeze : Bool)
  /-- ADD (R207): sD := sA + sB. -/
  | add (g : Course) (w : BitVec 56)
  /-- SUB (R207): sD := sA - sB. -/
  | sub (g : Course) (w : BitVec 56)
  /-- AND (R207): sD := sA AND sB. -/
  | and (g : Course) (w : BitVec 56)
  /-- OR (R207): sD := sA OR sB. -/
  | or (g : Course) (w : BitVec 56)
  /-- XOR (R207): sD := sA XOR sB. -/
  | xor (g : Course) (w : BitVec 56)
  /-- SHL (R207): Shifts sA left by sB[5:0]. -/
  | shl (g : Course) (w : BitVec 56)
  /-- SHR (R207): Shifts sA right by sB[5:0], filling with zeros. -/
  | shr (g : Course) (w : BitVec 56)
  /-- SRA (R207): Shifts sA right by sB[5:0], filling with the sign. -/
  | sra (g : Course) (w : BitVec 56)
  /-- MUL (R207): Writes the low 64 bits of the product. -/
  | mul (g : Course) (w : BitVec 56)
  /-- MULHU (R207): Writes the unsigned high 64 bits of the product. -/
  | mulhu (g : Course) (w : BitVec 56)
  /-- MIN (R207): Writes the signed minimum. -/
  | min (g : Course) (w : BitVec 56)
  /-- MAX (R207): Writes the signed maximum. -/
  | max (g : Course) (w : BitVec 56)
  /-- MINU (R207): Writes the unsigned minimum. -/
  | minu (g : Course) (w : BitVec 56)
  /-- MAXU (R207): Writes the unsigned maximum. -/
  | maxu (g : Course) (w : BitVec 56)
  /-- ADDI (R207): sD := sA + sext(IMM). -/
  | addi (g : Course) (w : BitVec 56)
  /-- ANDI (R207): sD := sA AND sext(IMM). -/
  | andi (g : Course) (w : BitVec 56)
  /-- ORI (R207): sD := sA OR sext(IMM). -/
  | ori (g : Course) (w : BitVec 56)
  /-- XORI (R207): sD := sA XOR sext(IMM). -/
  | xori (g : Course) (w : BitVec 56)
  /-- SHLI (R207): Shifts sA left by IMM[5:0]. -/
  | shli (g : Course) (w : BitVec 56)
  /-- SHRI (R207): Shifts sA right logically by IMM[5:0]. -/
  | shri (g : Course) (w : BitVec 56)
  /-- SRAI (R207): Shifts sA right arithmetically by IMM[5:0]. -/
  | srai (g : Course) (w : BitVec 56)
  /-- LI (R207): sD := sext(IMM). -/
  | li (g : Course) (w : BitVec 56)
  /-- LUI (R207): sD := IMM x 2^32 OR sA[31:0]. -/
  | lui (g : Course) (w : BitVec 56)
  /-- LD (R209): A 64-bit load from a device physical address into sD. -/
  | ld (g : Course) (w : BitVec 56)
  /-- LDW (R209): A 32-bit zero-extended load into sD. -/
  | ldw (g : Course) (w : BitVec 56)
  /-- ST (R209): A 64-bit store of sD. -/
  | st (g : Course) (w : BitVec 56)
  /-- STW (R209): A 32-bit store of sD[31:0]. -/
  | stw (g : Course) (w : BitVec 56)
  /-- AMOV (R207): aD := sB[47:0]. -/
  | amov (g : Course) (w : BitVec 56)
  /-- AADDI (R207): aD := aB + sext(IMM) mod 2^48. -/
  | aaddi (g : Course) (w : BitVec 56)
  /-- AADD (R207): aD := aB + sB mod 2^48. -/
  | aadd (g : Course) (w : BitVec 56)
  /-- SMOV (R207): sB := aB, zero-extended. -/
  | smov (g : Course) (w : BitVec 56)
  /-- TALLY_READ (R207): Reads a tally's value and poison bit into sD. -/
  | tallyRead (g : Course) (w : BitVec 56)
  /-- CMP (R207): pD := sA CC sB. -/
  | cmp (g : Course) (w : BitVec 56)
  /-- CMPI (R207): pD := sA CC sext(IMM). -/
  | cmpi (g : Course) (w : BitVec 56)
  /-- PLOG (R207): pD := pA FN pB. -/
  | plog (g : Course) (w : BitVec 56)
  /-- JMP (R207): Links and jumps PC-relative. -/
  | jmp (g : Course) (w : BitVec 56)
  /-- JR (R207): Links and jumps to sA[47:0]. -/
  | jr (g : Course) (w : BitVec 56)
  /-- ERET (R238): Clears IN_TRAP and continues at CCR_EPC. -/
  | eret (g : Course) (w : BitVec 56)
  /-- HALT (R207): Enters HALTED once every earlier instruction has issued. -/
  | halt (g : Course) (w : BitVec 56)
  /-- BRK (R207): Faults ISCON_BREAK. -/
  | brk (g : Course) (w : BitVec 56)
  /-- NOP (R207): Has no effect. -/
  | nop (g : Course) (w : BitVec 56)
  /-- TALLY_ADD (R223): Adds a value to a local tally, or to a remote course's tally as a mortar message when REM = 1. -/
  | tallyAdd (g : Course) (w : BitVec 56)
  /-- TALLY_SET (R223): Sets V of a local tally and clears its P. -/
  | tallySet (g : Course) (w : BitVec 56)
  /-- TALLY_WAIT (R225): Waits in the controller or in a queue until a tally reaches a target, or until a timeout. -/
  | tallyWait (g : Course) (w : BitVec 56)
  /-- FENCE (R225): Waits until earlier instructions of the named queues have completed and earlier stores are visible. -/
  | fence (g : Course) (w : BitVec 56)
  /-- LEAVE_HOLD (R236): Requests a block of leave credits for the course. -/
  | leaveHold (g : Course) (w : BitVec 56)
  /-- LEAVE_REL (R236): Releases the active leave hold and returns its unused credits. -/
  | leaveRel (g : Course) (w : BitVec 56)
  /-- LOCK_ACQ (R328): Checks a region and sends a hold request to the lock table of its stack, then waits for the outcome. -/
  | lockAcq (g : Course) (w : BitVec 56)
  /-- LOCK_REL (R330): Sends a release of a hold to its controller. -/
  | lockRel (g : Course) (w : BitVec 56)
  /-- RNG_BIND (R182): Binds a rounding stream in the course's binding table at issue. -/
  | rngBind (g : Course) (w : BitVec 56)
  /-- RNG_RELEASE (R182): Frees a rounding stream's binding at issue. -/
  | rngRelease (g : Course) (w : BitVec 56)
  /-- DIAG_SELFTEST (R497): Starts a self-test of the selected checker groups outside the queues. -/
  | diagSelftest (g : Course) (w : BitVec 56)
  /-- MSN_PASS (R83): Checks and queues a lookup pass over one N-tile. -/
  | msnPass (g : Course) (w : BitVec 56)
  /-- MSN_TILE (R141): Checks and queues the opening of tile slots with an E_ref. -/
  | msnTile (g : Course) (w : BitVec 56)
  /-- MSN_PARITY_ENCODE (R446): Checks and queues a Reed-Solomon parity encode over source shards. -/
  | msnParityEncode (g : Course) (w : BitVec 56)
  /-- MSN_PARITY_DECODE (R446): Checks and queues a Reed-Solomon rebuild of shards from a source set. -/
  | msnParityDecode (g : Course) (w : BitVec 56)
  /-- TBL_BUILD (R117): Checks and queues a build of tables, slice words or bits into row table memory. -/
  | tblBuild (g : Course) (w : BitVec 56)
  /-- STR_ARM (R260): Checks and queues the arming of a stream from a descriptor. -/
  | strArm (g : Course) (w : BitVec 56)
  /-- STR_REARM (R262): Checks and queues a new base address for a persistent stream. -/
  | strRearm (g : Course) (w : BitVec 56)
  /-- STR_RESUME (R274): Checks and queues a retranslation of a halted stream's failed transfer. -/
  | strResume (g : Course) (w : BitVec 56)
  /-- WALK_LOAD (R258): Checks and queues the attachment of a walker program to a stream. -/
  | walkLoad (g : Course) (w : BitVec 56)
  /-- VEC_ADD (R164): Checks and queues an elementwise FP32 addition. -/
  | vecAdd (g : Course) (w : BitVec 56)
  /-- VEC_MUL (R164): Checks and queues an elementwise FP32 multiplication. -/
  | vecMul (g : Course) (w : BitVec 56)
  /-- VEC_FMA (R164): Checks and queues an elementwise fused multiply-add. -/
  | vecFma (g : Course) (w : BitVec 56)
  /-- VEC_MAX (R164): Checks and queues an elementwise maximum. -/
  | vecMax (g : Course) (w : BitVec 56)
  /-- VEC_MIN (R164): Checks and queues an elementwise minimum. -/
  | vecMin (g : Course) (w : BitVec 56)
  /-- VEC_CVT (R164): Checks and queues a conversion of FP32 to BF16 or FP8. -/
  | vecCvt (g : Course) (w : BitVec 56)
  /-- VEC_PADD (R165): Checks and queues an exact sum of full-width partials. -/
  | vecPadd (g : Course) (w : BitVec 56)
  /-- VEC_SUM (R169): Checks and queues a compensated FP32 summation. -/
  | vecSum (g : Course) (w : BitVec 56)
  /-- VEC_FN (R172): Checks and queues a nonlinear function over FP32 elements. -/
  | vecFn (g : Course) (w : BitVec 56)
  /-- VEC_QBW16 (R175): Checks and queues a quantization into BW16 blocks. -/
  | vecQbw16 (g : Course) (w : BitVec 56)
  /-- VEC_QIDX (R177): Checks and queues a quantization into an index image and its scale array. -/
  | vecQidx (g : Course) (w : BitVec 56)
  /-- FWU_MM (R187): Checks and queues a BF16/FP32 matrix product for the fine-work unit. -/
  | fwuMm (g : Course) (w : BitVec 56)
  /-- DRN_OUT (R146): Checks and queues a converting drain of tile slots. -/
  | drnOut (g : Course) (w : BitVec 56)
  /-- DRN_PARTIAL (R150): Checks and queues a drain of tile slots as full-width partials. -/
  | drnPartial (g : Course) (w : BitVec 56)
  /-- RED_SEND (R380): Checks and queues sending of BW16 contributions to an owner's adders. -/
  | redSend (g : Course) (w : BitVec 56)
  /-- RED_ACCUM (R387): Checks and queues adding local contributions into accumulation blocks. -/
  | redAccum (g : Course) (w : BitVec 56)
  /-- RED_RING (R388): Checks and queues a ring reduction over an exchange group. -/
  | redRing (g : Course) (w : BitVec 56)
  /-- UPD_PASS1 (R351): Checks and queues pass 1 of an update step: norm, exchange and decision. -/
  | updPass1 (g : Course) (w : BitVec 56)
  /-- UPD_PASS2 (R361): Checks and queues pass 2 of an update step, which applies a COMMIT decision. -/
  | updPass2 (g : Course) (w : BitVec 56)
  /-- QUEUE_APPEND (R212): A stalled engine instruction enters its queue once an entry frees. -/
  | queueAppend (g : Course)
  /-- ENGINE_INSTR_START (R213): The instruction at a queue head starts when its engine can accept it and any leave is granted. -/
  | engineInstrStart (g : Course) (q : QueueId) (e : Option EngineErr)
  /-- INSTR_COMPLETE (R213): An engine instruction completes in queue order, updates its tally, writes NOTIFY and returns its credits. -/
  | instrComplete (g : Course) (q : QueueId)
  /-- COMPLETION_RECORD_WRITE (R233): A completion record waiting for space or EN is written to the ring and the tail advances. -/
  | completionRecordWrite (g : Course)
  /-- WAIT_EXPIRY (R226): A controller wait reaches its timeout, writes its status and makes a watch or withdraws its request. -/
  | waitExpiry (g : Course)
  /-- QUEUE_WAIT_EXPIRY (R229): A queue-held tally wait expires and halts its queue. -/
  | queueWaitExpiry (g : Course) (q : QueueId)
  /-- CCR_START (R243): CCR_CTRL.START runs the controller from CCR_START_PC. -/
  | ccrStart (a : Agent) (g : Course)
  /-- CCR_STOP (R585): CCR_CTRL.STOP halts a running controller at the next instruction boundary, ending any controller wait. -/
  | ccrStop (a : Agent) (g : Course)
  /-- COURSE_RESET (R231): CCR_CTRL.RESET resets the course's controller, queues, tallies, streams and engine state. -/
  | courseReset (a : Agent) (g : Course)
  /-- IBUF_INV (R199): CCR_CTRL.IBUF_INV invalidates the instruction buffer. -/
  | ibufInv (a : Agent) (g : Course)
  /-- QUEUE_RESUME (R229): CCR_QCTRL.RESUME restarts a halted queue. -/
  | queueResume (a : Agent) (g : Course) (mask : BitVec 8)
  /-- QUEUE_FLUSH (R229): CCR_QCTRL.FLUSH discards a queue's entries while the controller is not running. -/
  | queueFlush (a : Agent) (g : Course) (mask : BitVec 8)
  /-- TALLY_ADD_REG (R221): A write to CCR_TALLY_ADD adds INC to a tally. -/
  | tallyAddReg (a : Agent) (g : Course) (v : Word)
  /-- TALLY_POISON_CLEAR (R221): Writing 1 to a CCR_TALLY_POISON bit clears P of that tally. -/
  | tallyPoisonClear (a : Agent) (g : Course) (k : Fin 8) (v : Word)
  /-- CQ_ENABLE (R233): An EN write to CCR_CQ_CTRL enables the completion queue or sets BADBASE. -/
  | cqEnable (a : Agent) (g : Course) (v : Word)
  /-- TALLY_ADD_REMOTE (R223): A remote tally.add message arrives and adds to the target tally. -/
  | tallyAddRemote (src : Course) (dst : Course)
  /-- LOCKSTEP_MISMATCH (R509): The controller pair's outputs or state differ; it retries from its checkpoint or is adopted. -/
  | lockstepMismatch (g : Course) (persists : Bool)
  /-- PASS_BLOCK_ENTER (R98): A pass block enters logical array 0 once its run is READY and its slot free, and is tested for zero-skip. -/
  | passBlockEnter (g : Course) (e : List (Fin 8 × ArrayErr))
  /-- CREDIT_EARLY_RETURN (R473): An msn.pass returns L of its credits early once its remaining blocks are skipped. -/
  | creditEarlyReturn (g : Course)
  /-- ACCUMULATION_STEP (R137): A tile slot adds a step's two contributions into its accumulator. -/
  | accumulationStep (g : Course) (j : Fin 8)
  /-- RESIDUE_CHECK_VISIT (R156): A cell's periodic visit compares RES with A mod 7 for one slot. -/
  | residueCheckVisit (g : Course) (slot : Fin 32) (upset : List (Fin 8))
  /-- REPLAY_BEGIN (R502): After the repointing checks, the kept builds and the replay log execute again. With the course come the
  arrays that fail the checks. -/
  | replayBegin (g : Course × List (Fin 8))
  /-- REPLAY_END (R502): Replay ends and the queues start instructions again. -/
  | replayEnd (g : Course)
  /-- TBL_RUN_WRITTEN (R126): The builder writes a run's last line and the run becomes READY. -/
  | tblRunWritten (g : Course) (bad : Option (Fin 2))
  /-- SLOT_SWAP (R144): A slot swaps its active set into the shadow set once earlier steps are added and the shadow set is empty. -/
  | slotSwap (g : Course) (j : Fin 8) (slot : Fin 32)
  /-- DRAIN_ROW_READ (R152): A drain path reads one shadow-set row, checks it, converts it and writes it. -/
  | drainRowRead (g : Course) (j : Fin 8) (upset : Bool)
  /-- DRAIN_COMPLETE (R152): A drn.* signals completion after its last write in the last logical array. -/
  | drainComplete (g : Course)
  /-- FWU_ACCEPT (R186): The fine-work unit takes an fwu.mm into its holding when space frees. -/
  | fwuAccept (g : Course)
  /-- FWU_MM_RUN (R188): The fine-work unit starts the next held fwu.mm once leave is granted. -/
  | fwuMmRun (d : CDie) (fails : List (Fin 4))
  /-- TRANSFER_FORM (R252): A stream forms and translates its next transfer when its share, credit and outstanding limit allow. -/
  | transferForm (g : Course) (src : TransferSrc)
  /-- TRANSFER_COMPLETE (R261): A transfer completes, returns ring credit and advances the tallies. -/
  | transferComplete (g : Course) (n : StreamId)
  /-- RING_CREDIT (R253): Ring credit arrives from the partner stream. -/
  | ringCredit (g : Course) (n : StreamId)
  /-- STR_CMD_RESUME (R274): STR_CMD RESUME retranslates a halted stream. -/
  | strCmdResume (a : Agent) (g : Course) (n : StreamId)
  /-- STR_CMD_RELEASE (R263): STR_CMD RELEASE makes a stream FREE. -/
  | strCmdRelease (a : Agent) (g : Course) (n : StreamId)
  /-- TLB_INVALIDATE (R271): A write to STR_TLB_INV invalidates the TLB. -/
  | tlbInvalidate (a : Agent) (g : Course) (v : Word)
  /-- PT_BASE_WRITE (R271): A write to STR_PT_BASE sets the table base and invalidates the TLB. -/
  | ptBaseWrite (a : Agent) (g : Course) (v : DWord)
  /-- BW_SPLIT_WRITE (R264): A write to STR_BW_SPLIT takes effect only while quiesced and valid. -/
  | bwSplitWrite (a : Agent) (g : Course) (v : Word)
  /-- OUTSTANDING_WRITE (R265): A write to STR_OUTSTANDING sets the per-queue limits or is refused. -/
  | outstandingWrite (a : Agent) (g : Course) (v : Word)
  /-- STALL_LIMIT_EXPIRY (R276): A credit wait passes STR_STALL_LIMIT and starts a wait-for check. -/
  | stallLimitExpiry (g : Course) (w : StallWaiter)
  /-- DEADLOCK_PROBE_HOP (R277): A wait-for probe reaches the next credit owner. -/
  | deadlockProbeHop (g : Course)
  /-- BAMONG_BLOCK_DECODED (R297): An expander lane finishes checking and decoding a block, which is released in pass order. -/
  | bamongBlockDecoded (g : Course) (tbl : Bool)
  /-- MEM_ACCESS (R314): A near-memory controller serves a read or write, correcting or poisoning the line. -/
  | memAccess (k : Stack) (line : Fin 1073741824) (data : Option (Fin 64 × List Byte × Bool)) (e : LineErr) (parity : Option (Fin 32))
  /-- PATROL_VISIT (R316): The patrol reads a line and corrects or poisons it. -/
  | patrolVisit (k : Stack) (line : Fin 1073741824) (e : LineErr) (sweep : Bool)
  /-- RETIRE_GO (R319): MEM_RETIRE_CTRL.GO removes the retirement window and starts migration. -/
  | retireGo (a : Agent) (k : Stack) (v : Word)
  /-- RETIRE_MIGRATION_DONE (R320): Migration ends and the channel is retired. -/
  | retireMigrationDone (k : Stack)
  /-- RA_REQUEST_ARRIVE (R325): A remote-accumulate request reaches a controller, is checked and requests an adder port. -/
  | raRequestArrive (k : Stack)
  /-- ADDER_ARB_PHASE (R484): An adder-port arbitration phase grants free ports by fixed priority. With the controller comes the copy of
  the arbiter that differs, if one does (R535). -/
  | adderArbPhase (k : Stack × Option (Fin 3))
  /-- RA_ADD (R378): A granted port adds a BW16 block into its accumulation block and returns the outcome. -/
  | raAdd (k : Stack) (port : Fin 4)
  /-- RA_OUTCOME_ARRIVE (R384): An addition outcome reaches the sending instruction. -/
  | raOutcomeArrive (g : Course)
  /-- RED_NOTICE_ARRIVE (R385): A red.send notice adds 1 to the target tally, setting P if a block was refused. -/
  | redNoticeArrive (g : Course)
  /-- LOCK_REQUEST_ARRIVE (R328): A lock.acq request reaches the lock table and is granted, waits or ends BROKEN. -/
  | lockRequestArrive (k : Stack)
  /-- LOCK_GRANT (R329): A waiting request is granted once its region is free. -/
  | lockGrant (k : Stack)
  /-- LOCK_WAIT_TIMEOUT (R329): A waiting lock request reaches T and ends TIMEOUT. -/
  | lockWaitTimeout (k : Stack) (g : Course)
  /-- LOCK_LEASE_EXPIRY (R329): A hold reaches its lease limit and becomes TORN. -/
  | lockLeaseExpiry (k : Stack) (i : Fin 1024) (lease : Nat)
  /-- LOCK_REL_ARRIVE (R330): A lock.rel frees its matching HELD entry. -/
  | lockRelArrive (k : Stack)
  /-- LOCK_RENEWAL_SEND (R330): A course periodically sends renewals to controllers where it owns holds. -/
  | lockRenewalSend (g : Course)
  /-- LOCK_RENEWAL_ARRIVE (R330): A renewal resets the lease of the course's holds. -/
  | lockRenewalArrive (k : Stack)
  /-- LOCK_BREAK_NOTICE (R331): A break notice makes every hold of the course TORN. -/
  | lockBreakNotice (k : Stack)
  /-- LOCK_RESET_SWEEP (R331): A course reset's sweep makes every hold of the course TORN. -/
  | lockResetSweep (k : Stack)
  /-- TORN_CLEAR (R332): MEM_TORN_CLEAR with GO frees a TORN entry. -/
  | tornClear (a : Agent) (k : Stack) (v : Word)
  /-- FAR_ACCESS (R337): A far-memory controller serves an access with encryption and window checks. -/
  | farAccess (l : LinkId) (line : Fin 8589934592) (data : Option (Fin 64 × List Byte × Bool)) (prot : Bool) (bad : Bool)
  /-- CXL_LANE_FAIL (R335): A CXL lane fails and the link retrains at x8. -/
  | cxlLaneFail (l : LinkId) (lane : Fin 16)
  /-- CXL_LINK_LOSS (R335): A link or its device is lost and its window becomes unbacked. -/
  | cxlLinkLoss (l : LinkId)
  /-- FAR_KEY_LOAD (R338): FAR_KEY_CMD LOAD unwraps a key into a slot or sets BAD. -/
  | farKeyLoad (a : Agent) (l : LinkId) (v : Word)
  /-- FAR_KEY_ERASE (R338): FAR_KEY_CMD ERASE empties a key slot. -/
  | farKeyErase (a : Agent) (l : LinkId) (v : Word)
  /-- FAR_REGION_ENABLE (R336): Setting EN of a region entry enables it, or refuses an overlap. -/
  | farRegionEnable (a : Agent) (l : LinkId) (i : Fin 16) (v : Word)
  /-- UPD_SLICE_PARTIAL (R354): A slice's pass-1 partial reaches the keystone. -/
  | updSlicePartial (k : Stack)
  /-- UPD_RECORD (R357): A member record arrives, is stored in the exchange table, and the last one triggers the decision. -/
  | updRecord (k : Stack)
  /-- UPD_ABORT (R360): UPD_CTRL.ABORT ends a waiting pass 1 with WITHHOLD. -/
  | updAbort (a : Agent) (k : Stack)
  /-- RA_BLOCKS (R413): A received RA_BLOCKS message is turned into remote-accumulate requests. -/
  | raBlocks (x : IoDie)
  /-- RA_OUTCOME (R413): A received RA_OUTCOME message delivers block outcomes to the sender. -/
  | raOutcome (x : IoDie)
  /-- RING_READY (R391): A received RING_READY lets a member start its ring sends. -/
  | ringReady (x : IoDie)
  /-- RING_PART (R392): A matching received ring partial is added at the member's own controller. -/
  | ringPart (x : IoDie)
  /-- RING_COPY (R391): A matching received ALLGATHER copy replaces a whole accumulation block. -/
  | ringCopy (x : IoDie)
  /-- PRIV (R556): A received PRIV payload goes to the mailbox ring or a manifest window. -/
  | priv (x : IoDie)
  /-- RING_WAIT_EXPIRY (R394): A red.ring wait reaches RTIMEOUT and the ring ends. -/
  | ringWaitExpiry (g : Course)
  /-- MAXCLR (R377): RED_CTRL.MAXCLR clears a course's RED_MAXMAG. -/
  | maxclr (a : Agent) (g : Course)
  /-- MC_MAXCLR (R377): RED_MC_CTRL.MAXCLR clears a controller's RED_MC_MAXMAG. -/
  | mcMaxclr (a : Agent) (k : Stack)
  /-- PORT_LANE_FAIL (R405): A port loses lanes and retrains at a lower rate or goes down. -/
  | portLaneFail (p : PortId) (lane : Fin 8)
  /-- ROCE_FRAME_RECEIVE (R406): A RoCEv2 frame for an open queue pair is processed. -/
  | roceFrameReceive (p : PortId) (dst src : BitVec 48) (tag : Option (BitVec 16)) (packet : List Byte) (fcs : Bool)
  /-- PLINTH_FRAME (R404): A frame not for an open connection is passed to the plinth controller's mailbox. -/
  | plinthFrame (p : PortId) (frame : List Byte) (fcs : Bool)
  /-- LCT_DATA_RECEIVE (R425): A DATA frame is authenticated, decoded and delivered, and its messages are applied. -/
  | lctDataReceive (p : PortId) (frame : List Byte) (fcs : Bool)
  /-- LCT_SACK_RECEIVE (R432): A SACK acknowledges segments and updates RTT and cwnd. -/
  | lctSackReceive (p : PortId) (frame : List Byte) (fcs : Bool)
  /-- LCT_NACK_RECEIVE (R430): A NACK marks a segment lost for retransmission. -/
  | lctNackReceive (p : PortId) (frame : List Byte) (fcs : Bool)
  /-- LCT_PROBE_RECEIVE (R425): A PROBE is answered with a PROBE_REPLY. -/
  | lctProbeReceive (p : PortId) (frame : List Byte) (fcs : Bool)
  /-- LCT_PROBE_REPLY_RECEIVE (R430): A PROBE_REPLY acknowledges a probe. -/
  | lctProbeReplyReceive (p : PortId) (frame : List Byte) (fcs : Bool)
  /-- LCT_ACK_DELAY_EXPIRY (R428): The ACK delay passes and a SACK is sent. -/
  | lctAckDelayExpiry (x : IoDie) (c : Fin 4096)
  /-- LCT_RTO_EXPIRY (R430): A segment's RTO expires and it is retransmitted, or the connection fails at the retry limit. With it
  come the segment (none: the PROBE) and the pieces the encoder fails on, each as often as it is listed (R295). -/
  | lctRtoExpiry (x : IoDie) (c : Fin 4096) (e : Option Nat × List Nat)
  /-- LCT_IDLE_EXPIRY (R430): An idle connection sends a PROBE. -/
  | lctIdleExpiry (x : IoDie) (c : Fin 4096)
  /-- LCT_SEGMENT_SEND (R432): A segment is encoded, encrypted and sent when the window and pacing allow. -/
  | lctSegmentSend (x : IoDie) (c : Fin 4096) (upset : List Nat)
  /-- CONN_OPEN (R417): NET_CONN_CMD OPEN opens a connection or is refused. -/
  | connOpen (a : Agent) (x : IoDie) (v : Word)
  /-- CONN_CLOSE (R417): NET_CONN_CMD CLOSE closes a connection and ends its messages as unreachable. -/
  | connClose (a : Agent) (x : IoDie) (v : Word)
  /-- CONN_SWITCH (R424): NET_CONN_CMD SWITCH changes the TX key phase. -/
  | connSwitch (a : Agent) (x : IoDie) (v : Word)
  /-- NET_KEY_LOAD (R423): NET_KEY_CMD LOAD unwraps a connection key into a slot. -/
  | netKeyLoad (a : Agent) (x : IoDie) (v : Word)
  /-- NET_KEY_ERASE (R423): NET_KEY_CMD ERASE empties a slot. -/
  | netKeyErase (a : Agent) (x : IoDie) (v : Word)
  /-- ARBITRATION_PHASE (R477): A quoin-arbiter phase applies any latched map and grants leave by fixed priority within credits and step
  allowance. With the die comes the copy of the arbiter that differs, if one does (R535). -/
  | arbitrationPhase (d : CDie × Option (Fin 3))
  /-- BUDGET_WRITE (R470): A write to a budget register is applied, or refused with BUDGET_REFUSED. -/
  | budgetWrite (a : Agent) (off : BitVec 32) (v : Word)
  /-- THERMAL_READING (R485): A sensor reading updates TJ_MAX and the throttle factor F. -/
  | thermalReading (d : Die) (sensor : Fin 16) (celsius : Int)
  /-- PKG_CAP_CHANGE (R487): The PKG_CAP_N input changes level. -/
  | pkgCapChange (level : Bool)
  /-- POWER_CAP_APPLY (R487): At least 64 CTRL cycles after a cap change, the new V applies from an arbitration phase. -/
  | powerCapApply (d : CDie)
  /-- PLL_LOST (R465): A PLL is declared lost; a lost active PLL switches to the standby. -/
  | pllLost (d : Die) (pllB : Bool)
  /-- PLL_RELOCK_END (R466): A lost PLL's relock and qualification ends; it becomes the standby or stays out. -/
  | pllRelockEnd (d : Die) (pllB : Bool) (ok : Bool)
  /-- PLL_SWITCH_CMD (R468): PWR_CLK_CTRL.SWITCH switches to a locked standby. -/
  | pllSwitchCmd (a : Agent) (d : Die)
  /-- REFCLK_LOSS (R467): The reference stops or leaves tolerance and each die enters holdover. -/
  | refclkLoss
  /-- REFCLK_RESTORED (R467): The reference is in tolerance for 2^16 cycles and tracking resumes. -/
  | refclkRestored
  /-- SELFTEST_PERIODIC (R496): The self-test count is reached and a full self-test starts. -/
  | selftestPeriodic (t : TestOwner)
  /-- SELFTEST_COMPLETE (R497): A self-test ends and records its outcome. -/
  | selftestComplete (t : TestOwner) (f : TestFault)
  /-- COURSE_FENCE (R511): REL_COURSE_CMD.FENCE fences the course. -/
  | courseFence (a : Agent) (g : Course)
  /-- ARRAY_READMIT (R508): REL_COURSE_CMD.READMIT self-tests a failed array and readmits it if it passes. -/
  | arrayReadmit (a : Agent) (g : Course) (p : Fin 16) (pass : Bool)
  /-- SRAM_SCRUB_VISIT (R515): Scrub reads a staging SRAM word, correcting or poisoning its line. -/
  | sramScrubVisit (g : Course) (word : Option (Fin 3145728)) (e : WordErr) (scrub : Bool)
  /-- MORTAR_LANE_FAIL (R516): A mortar lane fails and is repaired, or its module leaves service. -/
  | mortarLaneFail (d : Die) (edge : Fin 3) (m : Fin 16) (lane : Fin 8)
  /-- FLIT_CRC_FAIL (R516): A flit that fails its CRC is replayed. -/
  | flitCrcFail (d : Die) (edge : Fin 3)
  /-- ERROR_REPORT (R519): A die accepts an error report, numbers it and queues or buffers it. -/
  | errorReport (d : Die)
  /-- ERROR_RING_WRITE (R520): A queued error record is written to the ring. -/
  | errorRingWrite (d : Die)
  /-- ERROR_RING_ENABLE (R520): An EN write to REL_RING_CTRL enables the ring or sets BADBASE. -/
  | errorRingEnable (a : Agent) (d : Die) (v : Word)
  /-- OVERFLOW_FLUSH (R521): When the queue drains below 32, lost counts and the buffered report are queued. -/
  | overflowFlush (d : Die)
  /-- PACKAGE_RESET (R579): PKG_RST_N falls and every die loses all state. -/
  | packageReset
  /-- BOOT_START (R539): PKG_RST_N rises and the plinth controller runs the boot steps. -/
  | bootStart (env : BootEnv)
  /-- BOOT_STEP_TIMEOUT (R539): A boot path runs past its limit and fails. -/
  | bootStepTimeout
  /-- PCIE_RETRAIN_TIMER (R540): After a failed PCIe step, training is retried at 3.0 periodically. -/
  | pcieRetrainTimer (width : Option LinkWidth)
  /-- FAILURE_RECORD (R545): An in-service failure is written to the boot ledger. -/
  | failureRecord (ok : Bool)
  /-- RETRY_PRIMARY (R545): BOOT_LEDGER_CMD.RETRY_PRIMARY writes a CLEAR record. -/
  | retryPrimary (a : Agent) (ok : Bool)
  /-- PERST (R548): PERST# resets only the host interface, and training restarts. -/
  | perst (low : Bool) (link : Option (Fin 4 × LinkWidth))
  /-- FLR (R548): A function-level reset resets the function and course-resets its courses. -/
  | flr (fn : Fin 5)
  /-- HOST_BAR2_ACCESS (R549): A host BAR2 access reaches near memory at BASE plus offset. -/
  | hostBar2Access (fn : Fin 5) (off : BitVec 39) (len : Fin 4097) (data : Option (List Byte))
  /-- DOORBELL_WRITE (R550): A BAR4 doorbell write adds to a course tally once earlier posted writes are visible. -/
  | doorbellWrite (fn : Fin 5) (off : BitVec 32) (v : Word)
  /-- HOST_READ_COMPLETION (R552): A completion for a device read of host memory arrives. -/
  | hostReadCompletion (g : Course) (n : StreamId) (data : Option (List Byte × Bool))
  /-- HOST_CPL_TIMEOUT (R552): A device read of host memory reaches HST_CPL_TIMEOUT and its data is delivered poisoned. -/
  | hostCplTimeout (g : Course) (n : StreamId)
  /-- KWK_DERIVE (R537): BOOT_KWK_CMD.DERIVE starts deriving the key-wrapping key. -/
  | kwkDerive (a : Agent)
  /-- KWK_DERIVE_DONE (R537): Derivation ends, BUSY clears and the new KWK takes effect or BAD is set. -/
  | kwkDeriveDone
  /-- KWK_CLEAR (R537): BOOT_KWK_CMD.CLEAR empties the KWK. -/
  | kwkClear (a : Agent)
  /-- MBOX_RING_ENABLE (R556): An EN write to a mailbox ring control enables it or sets BADBASE. -/
  | mboxRingEnable (a : Agent) (rx : Bool) (v : Word)
  /-- MBOX_TX_SEND (R557): The plinth controller sends the next transmit-ring slot when it has room. -/
  | mboxTxSend
  /-- THERMTRIP_ANALOG (R577): A junction reaches 125 °C and the independent comparator asserts THERMTRIP_N. -/
  | thermtripAnalog (d : Die)
  /-- LOCAL_ACK_TIMEOUT (R406): A RoCEv2 queue pair's local ACK timeout expires, and it retransmits go-back-N or, with its retry count exhausted, enters the error state and its connection becomes FAILED (R407). -/
  | localAckTimeout (x : IoDie) (q : Fin 8192)
  /-- UNPLANNED_POWER_LOSS (R580): Power is lost without a package reset, the rails fall in any order, all state is lost and any ledger write in progress is cut short. -/
  | unplannedPowerLoss
  /-- COMPARATOR_RELEASE (R581): The independent thermal comparator releases once no junction is at 125 °C or above, and a boot held at step 1 proceeds. -/
  | comparatorRelease
  /-- CONFIGURATION_SPACE_WRITE (R552): A host write to PCIe configuration space changes Bus Master Enable, VF enable or BAR sizes, which changes whether partitions run (R41) and whether device writes to host memory are dropped. -/
  | configurationSpaceWrite (fn : Fin 5) (c : CfgWrite)
  /-- MSIX_TABLE_WRITE (R555): A host write to the MSI-X table or PBA in BAR4 masks or unmasks a vector; unmasking a vector whose PBA bit is set sends its message. -/
  | msixTableWrite (fn : Fin 5) (v : Fin 2048) (addr : DWord) (data : Word) (masked : Bool)
  /-- PCIE_LANE_FAILURE (R546): PCIe lanes fail in service and the host link retrains at x8 or x4. -/
  | pcieLaneFailure (width : Option LinkWidth)
  deriving DecidableEq, Repr

end Sys2Proof
end

