-- ==== Sys2Proof/Decode.lean ====
section
/-! DEFINITION. Decode: the command that a word of the table spells, none since spec/opcode_table.json gives no row any bits;
and the instruction that a 64-bit word of a course's program is (R205). -/

namespace Sys2Proof

/-- The command a table word spells: none, since no row of spec/opcode_table.json has bits. -/
def decodeTableWord (_nbits _w : Nat) : Option Instr := none

/-- The instruction of course g that the 64 bits of its program spell, by OP in bits [63:56] (R201, R205); none where OP is reserved.
rng.bind and msn.parity have a command for each OPN; a reserved OPN of msn.parity faults under either. -/
def decodeInstr (g : Course) (w : BitVec 64) : Option Instr :=
  let x : BitVec 56 := w.setWidth 56
  match (w >>> 56).toNat with
  | 0x00 => some (.add g x)
  | 0x01 => some (.sub g x)
  | 0x02 => some (.and g x)
  | 0x03 => some (.or g x)
  | 0x04 => some (.xor g x)
  | 0x05 => some (.shl g x)
  | 0x06 => some (.shr g x)
  | 0x07 => some (.sra g x)
  | 0x08 => some (.mul g x)
  | 0x09 => some (.mulhu g x)
  | 0x0A => some (.min g x)
  | 0x0B => some (.max g x)
  | 0x0C => some (.minu g x)
  | 0x0D => some (.maxu g x)
  | 0x10 => some (.addi g x)
  | 0x11 => some (.andi g x)
  | 0x12 => some (.ori g x)
  | 0x13 => some (.xori g x)
  | 0x14 => some (.shli g x)
  | 0x15 => some (.shri g x)
  | 0x16 => some (.srai g x)
  | 0x17 => some (.li g x)
  | 0x18 => some (.lui g x)
  | 0x20 => some (.ld g x)
  | 0x21 => some (.ldw g x)
  | 0x22 => some (.st g x)
  | 0x23 => some (.stw g x)
  | 0x24 => some (.amov g x)
  | 0x25 => some (.aaddi g x)
  | 0x26 => some (.aadd g x)
  | 0x27 => some (.smov g x)
  | 0x28 => some (.tallyRead g x)
  | 0x30 => some (.cmp g x)
  | 0x31 => some (.cmpi g x)
  | 0x32 => some (.plog g x)
  | 0x33 => some (.jmp g x)
  | 0x34 => some (.jr g x)
  | 0x35 => some (.eret g x)
  | 0x36 => some (.halt g x)
  | 0x37 => some (.brk g x)
  | 0x38 => some (.nop g x)
  | 0x40 => some (.tallyAdd g x)
  | 0x41 => some (.tallySet g x)
  | 0x42 => some (.tallyWait g x)
  | 0x43 => some (.fence g x)
  | 0x44 => some (.leaveHold g x)
  | 0x45 => some (.leaveRel g x)
  | 0x46 => some (.lockAcq g x)
  | 0x47 => some (.lockRel g x)
  | 0x48 => some (if w.getLsbD 51 then .rngRelease g x else .rngBind g x)
  | 0x49 => some (.diagSelftest g x)
  | 0x80 => some (.msnPass g x)
  | 0x81 => some (.msnTile g x)
  | 0x82 => some (if w.getLsbD 41 || w.getLsbD 40 then .msnParityDecode g x else .msnParityEncode g x)
  | 0x90 => some (.tblBuild g x)
  | 0xA0 => some (.strArm g x)
  | 0xA1 => some (.strRearm g x)
  | 0xA2 => some (.strResume g x)
  | 0xA3 => some (.walkLoad g x)
  | 0xB0 => some (.vecAdd g x)
  | 0xB1 => some (.vecMul g x)
  | 0xB2 => some (.vecFma g x)
  | 0xB3 => some (.vecMax g x)
  | 0xB4 => some (.vecMin g x)
  | 0xB5 => some (.vecCvt g x)
  | 0xB6 => some (.vecPadd g x)
  | 0xB7 => some (.vecSum g x)
  | 0xB8 => some (.vecFn g x)
  | 0xB9 => some (.vecQbw16 g x)
  | 0xBA => some (.vecQidx g x)
  | 0xC0 => some (.fwuMm g x)
  | 0xD0 => some (.drnOut g x)
  | 0xD1 => some (.drnPartial g x)
  | 0xE0 => some (.redSend g x)
  | 0xE1 => some (.redAccum g x)
  | 0xE2 => some (.redRing g x)
  | 0xF0 => some (.updPass1 g x)
  | 0xF1 => some (.updPass2 g x)
  | _ => none

end Sys2Proof
end

