-- ==== Sys2Proof/Machine/SMap.lean ====
section
/-! DEFINITION. SMap: a sparse map, a list of (key, value) pairs in one canonical form: keys strictly
rising, no entry equal to what an unlisted key reads as. Memory, the register file and the sparse
tables of the block are maps of this kind. -/

namespace Sys2Proof.Machine

/-- A sparse map from Nat keys. -/
abbrev SMap (V : Type) := List (Nat × V)

/-- The entry of key `k`, if one is listed. -/
def SMap.find {V : Type} : SMap V → Nat → Option V
  | [], _ => none
  | (k', v) :: m, k => if k = k' then some v else SMap.find m k

/-- The value of key `k`: its entry, or `d`, what an unlisted key reads as. -/
def SMap.get {V : Type} (m : SMap V) (k : Nat) (d : V) : V := (SMap.find m k).getD d

/-- List `v` at key `k`, keeping the keys strictly rising. -/
def SMap.ins {V : Type} : SMap V → Nat → V → SMap V
  | [], k, v => [(k, v)]
  | (k', v') :: m, k, v =>
    if k < k' then (k, v) :: (k', v') :: m
    else if k = k' then (k, v) :: m
    else (k', v') :: SMap.ins m k v

/-- Unlist key `k`. -/
def SMap.del {V : Type} : SMap V → Nat → SMap V
  | [], _ => []
  | (k', v') :: m, k => if k = k' then SMap.del m k else (k', v') :: SMap.del m k

/-- Set key `k` to `v`, where `d` is what `k` reads as while unlisted. -/
def SMap.put {V : Type} [DecidableEq V] (m : SMap V) (k : Nat) (v d : V) : SMap V :=
  if v = d then SMap.del m k else SMap.ins m k v

/-- Every key of the map is above `b`, and the keys are strictly rising. -/
def SMap.above {V : Type} : Nat → SMap V → Bool
  | _, [] => true
  | b, (k, _) :: m => decide (b < k) && SMap.above k m

/-- The keys are strictly rising. -/
def SMap.sorted {V : Type} : SMap V → Bool
  | [] => true
  | (k, _) :: m => SMap.above k m

/-- The canonical form: keys strictly rising, and no entry equal to what its key reads as unlisted. -/
def SMap.wf {V : Type} [DecidableEq V] (d : Nat → V) (m : SMap V) : Bool :=
  SMap.sorted m && m.all fun e => decide (e.2 ≠ d e.1)

end Sys2Proof.Machine
end

