-- ==== Sys2Proof/Machine/RegMap.lean ====
section
/-! DEFINITION. RegMap: where every register lies, which of its bits software writes, and its reset value
(R14, R24, R563, R564 and the register tables of every chapter). -/

namespace Sys2Proof.Machine

/-- A register block (R563). -/
inductive Blk where
  | course (g : Course)
  | die (d : Die)
  | mortar (d : Die)
  | fwu (d : CDie)
  | mem (s : Stack)
  | far (l : LinkId)
  | net (x : IoDie)
  | port (p : PortId)
  | host
  | pkg
  deriving DecidableEq, Repr

/-- BAR0 offset of a block (R14, R18, R24, R343, R438, R563). -/
def Blk.base : Blk → Nat
  | .course g => (g.val / 8) * 0x4000000 + 0x100000 * (g.val % 8 + 1)
  | .die d => d.val * 0x4000000
  | .mortar d => d.val * 0x4000000 + 0x1800000
  | .fwu d => d.val * 0x4000000 + 0x1C00000
  | .mem s => (s.val / 2) * 0x4000000 + 0x1000000 + (s.val % 2) * 0x200000
  | .far l => (4 + l.val / 4) * 0x4000000 + 0x1000000 + (l.val % 4) * 0x100000
  | .net x => (4 + x.val) * 0x4000000 + 0x2000000
  | .port p => (4 + p.val / 6) * 0x4000000 + 0x2100000 + (p.val % 6) * 0x10000
  | .host => 0x10000000 + 0x3000000
  | .pkg => 0x18000000

/-- The die a block lies on; the package-wide block and the host interface belong to X0. -/
def Blk.dieOf : Blk → Die
  | .course g => ⟨g.val / 8, by omega⟩
  | .die d => d
  | .mortar d => d
  | .fwu d => ⟨d.val, by omega⟩
  | .mem s => ⟨s.val / 2, by omega⟩
  | .far l => ⟨4 + l.val / 4, by omega⟩
  | .net x => ⟨4 + x.val, by omega⟩
  | .port p => ⟨4 + p.val / 6, by omega⟩
  | .host => 4
  | .pkg => 4

/-- The block a BAR0 offset lies in, and the offset within it (R563); none where no block lies. -/
def locate (off : Nat) : Option (Blk × Nat) :=
  let d := off / 0x4000000
  let r := off % 0x4000000
  if h : d < 4 then
    if r < 0x100000 then some (.die ⟨d, by omega⟩, r)
    else if hk : r < 0x900000 then
      some (.course ⟨8 * d + (r / 0x100000 - 1), by omega⟩, r % 0x100000)
    else if r < 0x1000000 then none
    else if r < 0x1200000 then some (.mem ⟨2 * d, by omega⟩, r - 0x1000000)
    else if r < 0x1400000 then some (.mem ⟨2 * d + 1, by omega⟩, r - 0x1200000)
    else if r < 0x1800000 then none
    else if r < 0x1C00000 then some (.mortar ⟨d, by omega⟩, r - 0x1800000)
    else if r < 0x2000000 then some (.fwu ⟨d, h⟩, r - 0x1C00000)
    else none
  else if h6 : d < 6 then
    if r < 0x100000 then some (.die ⟨d, by omega⟩, r)
    else if r < 0x1000000 then none
    else if hf : r < 0x1400000 then
      some (.far ⟨4 * (d - 4) + (r - 0x1000000) / 0x100000, by omega⟩, r % 0x100000)
    else if r < 0x1800000 then none
    else if r < 0x1C00000 then some (.mortar ⟨d, by omega⟩, r - 0x1800000)
    else if r < 0x2000000 then none
    else if r < 0x2100000 then some (.net ⟨d - 4, by omega⟩, r - 0x2000000)
    else if hp : r < 0x2160000 then
      some (.port ⟨6 * (d - 4) + (r - 0x2100000) / 0x10000, by omega⟩, r % 0x10000)
    else if r < 0x3000000 then none
    else if d = 4 then some (.host, r - 0x3000000)
    else none
  else if d = 6 then some (.pkg, r)
  else none

/-- A register, or a run of registers at a stride: its offset in the block, whether it is a 64-bit pair
(R10), which bits a write sets (RW), which a written 1 clears (W1C), whether it reads 0 (WO), and its
reset value. -/
structure RegRow where
  off : Nat
  stride : Nat
  count : Nat
  wide : Bool
  mask : Nat
  w1c : Nat
  wo : Bool
  reset : Nat
  deriving DecidableEq, Repr

/-- One 32-bit register. -/
def reg32 (off mask reset : Nat) : RegRow := ⟨off, 4, 1, false, mask, 0, false, reset⟩
/-- One register pair. -/
def reg64 (off mask reset : Nat) : RegRow := ⟨off, 8, 1, true, mask, 0, false, reset⟩
/-- One 32-bit register with W1C bits. -/
def regW1c (off mask w1c reset : Nat) : RegRow := ⟨off, 4, 1, false, mask, w1c, false, reset⟩
/-- One 32-bit write-only register. -/
def regWo (off mask : Nat) : RegRow := ⟨off, 4, 1, false, mask, 0, true, 0⟩
/-- A run of 32-bit registers. -/
def regRun (off stride count mask reset : Nat) : RegRow := ⟨off, stride, count, false, mask, 0, false, reset⟩

def full32 : Nat := 0xFFFFFFFF
def full64 : Nat := 0xFFFFFFFFFFFFFFFF

/-- Course block (ch. 18; R243, R112, R134, R160, R193, R281, R307, R399, R458, R525, R526). -/
def courseRegs : List RegRow := [
  regWo 0x0000 0, reg32 0x0004 0 0x20, reg64 0x0008 0xFFFFFFFFFFFFFFF8 0, reg64 0x0010 0 0,
  reg32 0x0018 1 0, reg32 0x001C 0 0, reg64 0x0020 0xFFFFFFFFFFFFFFF8 0, reg32 0x0028 0 0,
  reg32 0x002C 1 0, reg64 0x0030 0xFFFFFFFFFFFFFFF8 0, reg64 0x0038 0 0,
  regW1c 0x0040 0 0x80000000 0, reg64 0x0048 0 0, reg64 0x0050 full64 0, reg32 0x0058 0x3F 0,
  reg32 0x005C full32 0, reg32 0x0060 0 0, reg32 0x0064 0 0, reg32 0x0068 full32 full32,
  regRun 0x0080 4 8 0 0, regWo 0x00A0 0, reg64 0x00C0 0 0, reg64 0x00C8 0 0, reg64 0x00D0 0 0,
  reg32 0x00D8 1 0, regRun 0x0800 4 256 0 0, regRun 0x0C00 4 8 0 0, regWo 0x0C20 0,
  reg32 0x1000 0 8, reg32 0x1004 3 3, reg64 0x1008 0 0, reg64 0x1010 0 0, reg64 0x1018 0 0,
  reg64 0x1020 0 0, reg64 0x1028 0 0, reg32 0x1030 1 0, regW1c 0x1040 0 0x80000000 0,
  reg64 0x1048 0 0, regRun 0x1050 4 4 0 0, reg64 0x1060 0 0, reg64 0x1068 0 0, reg32 0x1070 1 0] ++ [
  reg32 0x1100 0 3, reg64 0x1108 0 0, reg64 0x1110 0 0, reg64 0x1118 0 0, reg64 0x1120 0 0,
  reg32 0x1128 1 0, reg32 0x1200 0 0, reg64 0x1208 0 0, reg32 0x1210 1 0, reg64 0x1220 0 0,
  reg64 0x1228 0 0, reg64 0x1230 0 0, regW1c 0x1238 0 0x80000000 0, reg64 0x1240 0 0, reg32 0x1248 1 0,
  reg32 0x1300 0 0, regW1c 0x1304 0 7 0, reg32 0x1308 0 0, reg32 0x130C 0 0, reg64 0x1310 0 0,
  reg64 0x1318 0 0, reg64 0x1320 0 0, reg32 0x1328 0 0, reg32 0x132C 1 0,
  reg32 0x1400 0 0, regW1c 0x1404 0 3 0, reg32 0x1408 0xFFFF 0, reg32 0x140C 0 0, reg64 0x1410 0 0,
  reg64 0x1418 0 0, reg64 0x1420 0 0, reg32 0x1428 1 0] ++ [
  reg32 0x2000 0 0, reg32 0x2004 0xFFF 0x448, reg32 0x2008 0x3FFFFFFF 0x10040100,
  reg32 0x200C full32 0x400000, reg64 0x2010 0xFFFFFFE00001 0, regWo 0x2018 0, regWo 0x201C 0,
  reg32 0x2020 0x7FF 0, reg32 0x2024 0 0, reg64 0x2028 0 0, reg64 0x2030 0 0,
  regW1c 0x2038 0 0x80000000 0, reg64 0x2040 0 0, regW1c 0x2048 0 7 0, regRun 0x2050 4 8 0 0,
  reg64 0x2070 0 0, reg64 0x2078 0 0, reg64 0x2080 0 0, reg64 0x2088 0 0, reg32 0x2090 1 0,
  reg32 0x3000 0 0, regW1c 0x3004 0 0xF 0, reg32 0x3008 0 0, regWo 0x300C 0,
  regW1c 0x3010 0 0x80000000 0, reg64 0x3018 0 0, reg64 0x3020 0 0, reg64 0x3028 0 0, reg64 0x3030 0 0,
  reg32 0x3038 1 0, reg64 0x3400 0 0, reg64 0x3408 0 0, reg64 0x3410 0 0,
  regW1c 0x3418 0 0x80000000 0, reg32 0x341C 1 0, reg32 0x3800 0 0x76543210, reg32 0x3804 0 0x1FF,
  reg32 0x3808 0 0, regWo 0x380C 0, reg32 0x3810 0 0, regW1c 0x3814 0 0x80000000 0,
  reg64 0x3818 0 0, reg64 0x3820 0 0, reg32 0x3828 1 0]

/-- Die control block, registers of every die (R490, R524). -/
def dieRegs : List RegRow := [
  regW1c 0x2000 0 0x80000000 0, reg32 0x2004 0x3F 0, reg64 0x2008 full64 0, reg32 0x2010 full32 0,
  reg32 0x2014 0 0, regRun 0x2020 4 8 0 0, regRun 0x2040 4 8 0 0, regRun 0x2080 4 16 0 0,
  reg64 0x20C0 0 0, reg64 0x20C8 0 0, reg32 0x20D0 0xFFFF 0, regW1c 0x20D4 0 0x80000000 0,
  regW1c 0x20D8 0 0x80000000 0, reg32 0x20DC 1 0, reg32 0x4000 0 0, regWo 0x4004 0,
  reg32 0x4020 0xFFFF 0x6E5F, regW1c 0x4024 0 0x200 0]

/-- Die control registers that exist on compute dies only (R196, R490, R549, R561). -/
def computeDieRegs : List RegRow := [
  reg32 0x4008 0 0, reg64 0x4010 full64 0xFEDCBA9876543210, regW1c 0x4018 0 2 0, reg32 0x401C 0 0,
  reg32 0x4028 1 0, reg32 0x402C 0x7FF 0x50, ⟨0x4100, 16, 16, true, 0, 0, false, 0⟩,
  regRun 0x4108 16 16 0 0, regRun 0x410C 16 16 0 0, reg64 0x6000 full64 0, reg64 0x7000 full64 0]

/-- Mortar block (R527). -/
def mortarRegs : List RegRow := [
  regRun 0x0000 4 3 0 0, ⟨0x0010, 8, 3, true, 0, 0, false, 0⟩, reg32 0x0028 1 0]

/-- Fine-work block (R195). -/
def fwuRegs : List RegRow := [
  reg32 0x0000 0 0x40, reg64 0x0008 0 0, reg64 0x0010 0 0, reg32 0x0018 1 0]

/-- Near-memory controller block (R342, R373, R400, R492). -/
def memRegs : List RegRow := [
  reg32 0x0000 0 0, reg32 0x0004 1 0, reg32 0x0008 0 0, reg32 0x000C full32 0x100,
  reg32 0x0010 full32 0x1000, reg32 0x0014 0 0, reg32 0x0018 0x3FF 0, reg64 0x0020 0 0,
  reg32 0x0028 0 0, reg32 0x002C 0 0, regWo 0x0030 0, reg64 0x0038 0 0, reg64 0x0040 0 0,
  reg64 0x0048 0 0, reg64 0x0050 0 0, reg64 0x0058 0 0, reg64 0x0060 0 0, reg32 0x0068 1 0,
  reg64 0x0070 full64 0xFEDCBA9876543210, reg64 0x0080 0 0, regW1c 0x0088 0 0x80000000 0,
  regW1c 0x00F0 0 2 0, reg32 0x00F4 0 0, reg32 0x00F8 1 0, ⟨0x0100, 16, 16, true, 0, 0, false, 0⟩,
  regRun 0x0108 16 16 0 0, regRun 0x010C 16 16 0 0] ++ [
  reg32 0x1000 0 0, reg32 0x1004 1 0, reg64 0x1008 full64 0, reg32 0x1010 full32 0, regWo 0x1014 0,
  reg32 0x1018 0 0, reg64 0x1020 0 0, reg64 0x1028 0 0, reg64 0x1030 0 0, reg32 0x1038 0 0,
  reg64 0x1040 0 0, reg64 0x1048 0 0, regW1c 0x1050 0 3 0, reg64 0x1058 0 0, reg64 0x1060 0 0,
  reg64 0x1068 0 0, reg32 0x1070 1 0, regW1c 0x2000 0 7 0, reg32 0x2004 0 0, regWo 0x2008 0,
  reg64 0x2010 0 0, regW1c 0x2018 0 0x80000000 0, reg64 0x2020 0 0, reg64 0x2028 0 0,
  reg64 0x2030 0 0, reg32 0x2038 1 0]

/-- Far-memory controller block (R343). -/
def farRegs : List RegRow := [
  reg32 0x0000 0 0, reg64 0x0008 0 0, reg64 0x0010 0 0, reg64 0x0018 0 0, reg32 0x0020 1 0,
  ⟨0x0100, 4, 18, false, full32, 0, true, 0⟩, regWo 0x0148 0, regW1c 0x014C 0 0x80000000 0,
  ⟨0x0200, 0x20, 16, true, 0xFFFFFFFFFFE00000, 0, false, 0⟩,
  ⟨0x0208, 0x20, 16, true, 0xFFFFFFFFFFE00000, 0, false, 0⟩, regRun 0x0210 0x20 16 0xF7 0]

/-- Network block (R437). The group directory registers are on X0 only (R408). -/
def netRegs : List RegRow := [
  ⟨0x0000, 8, 4, true, full64, 0, false, 0⟩, reg64 0x0020 full64 0, reg64 0x0028 full64 0,
  regWo 0x0030 0, reg32 0x0034 0x3FFF 0, reg32 0x0038 0 0, reg64 0x0040 0 0, reg32 0x0048 0 0,
  reg32 0x004C 0 0, reg32 0x0050 0xFFFF 0xB7A2, reg32 0x0054 0xFFC0 0x1C0,
  reg32 0x0058 full32 0x200000, reg32 0x005C 0xF 8, reg32 0x0060 full32 0x10000,
  reg32 0x0064 full32 0x80000000, regW1c 0x0068 0 1 0, ⟨0x0070, 4, 12, false, full32, 0, true, 0⟩,
  regWo 0x00A0 0, regW1c 0x00A4 0 0x80000000 0, reg64 0x00B0 0 0, reg64 0x00B8 0 0,
  reg64 0x00C0 0 0, reg64 0x00C8 0 0, reg32 0x00D0 1 0]

/-- Ethernet port block (R438). -/
def portRegs : List RegRow := [
  reg32 0x0000 0x1FFF 0x14, reg32 0x0004 0 0, reg64 0x0008 0xFFFFFFFFFFFF 0, reg64 0x0010 0 0,
  reg64 0x0018 0 0, reg64 0x0020 0 0, reg64 0x0028 0 0, reg32 0x0030 1 0]

/-- Host interface block (R560). -/
def hostRegs : List RegRow := [
  reg32 0x0000 0 0, reg64 0x0008 full64 0, regW1c 0x0010 0 0x80000000 0, reg64 0x0018 0 0,
  reg64 0x0020 0 0, reg32 0x0028 1 0, reg32 0x0040 full32 0x1000000]

/-- Package-wide block (R491, R559). -/
def pkgRegs : List RegRow := [
  reg32 0x0000 0 0, reg32 0x0004 0 0, reg64 0x0008 0 0, regW1c 0x0010 0 0x80000000 0,
  reg64 0x0018 0 0, regRun 0x0020 4 24 0 0, regRun 0x0080 4 24 0 0, regWo 0x00E0 0, reg32 0x00E4 0 0,
  ⟨0x0100, 4, 24, false, full32, 0, true, 0⟩, regWo 0x0160 0, regW1c 0x0164 0 0x80000000 0,
  reg64 0x0200 full64 0, reg32 0x0208 0x2F 0, reg32 0x020C full32 0, reg32 0x0210 0 0,
  reg64 0x0220 full64 0, reg32 0x0228 0xF 0, reg32 0x022C 0 0, reg32 0x0230 full32 0,
  reg64 0x0240 full64 0, reg64 0x0248 0 0, reg32 0x0250 1 0, reg32 0x1000 0x7FF 0x5DC,
  reg32 0x1004 0x7FF 0x384, reg32 0x1008 0x7FF 0x2A8, regRun 0x1010 4 4 0x7FF 0xCD,
  reg32 0x1020 0 0, regW1c 0x1024 0 1 0]

/-- The registers of a block. -/
def Blk.rows : Blk → List RegRow
  | .course _ => courseRegs
  | .die d => if d.val < 4 then dieRegs ++ computeDieRegs else dieRegs
  | .mortar _ => mortarRegs
  | .fwu _ => fwuRegs
  | .mem _ => memRegs
  | .far _ => farRegs
  | .net _ => netRegs
  | .port _ => portRegs
  | .host => hostRegs
  | .pkg => pkgRegs

/-- Whether row `r` holds block offset `o`. -/
def RegRow.holds (r : RegRow) (o : Nat) : Bool :=
  decide (r.off ≤ o) && decide ((o - r.off) / r.stride < r.count) &&
    (decide ((o - r.off) % r.stride = 0) || (r.wide && decide ((o - r.off) % r.stride = 4)))

/-- The reset values that depend on the index: HST_IRQ_MAP0–135 (R555), HST_VF_IRQ_MAP0–31 (R561). -/
def irqRow (b : Blk) (o : Nat) : Option RegRow :=
  match b with
  | .host =>
    if 0x1000 ≤ o ∧ o < 0x1000 + 4 * 136 then
      some (regRun o 4 1 0x87FF (0x8000 + (o - 0x1000) / 4))
    else none
  | .die d =>
    if d.val < 4 ∧ 0x7100 ≤ o ∧ o < 0x7100 + 4 * 32 then
      some (regRun o 4 1 0x87FF (0x8000 + (o - 0x7100) / 4))
    else none
  | _ => none

/-- The row of a block offset; none where ch. 18 lists no register (R564). -/
def regRow (b : Blk) (o : Nat) : Option RegRow :=
  match b.rows.find? (fun r => r.holds o) with
  | some r => if b = Blk.net 1 ∧ o < 0x20 then none else some r
  | none => irqRow b o

/-- Reset value of the 32-bit register, or of the pair whose low word is, at a BAR0 offset. -/
def regReset (off : Nat) : Nat :=
  match locate off with
  | some (b, o) => match regRow b o with
    | some r => r.reset
    | none => 0
  | none => 0

end Sys2Proof.Machine
end

