-- ==== Sys2Proof/Config.lean ====
section
/-! DEFINITION. Config: what the specification leaves open. Every constant here is opaque: nothing
can evaluate it, so a claim about the model holds for every value of it. -/

namespace Sys2Proof.Config

/-- A value the manual leaves open, for the n-th use of a free value (log entry 1). -/
opaque freeValue : Nat → DWord

/-- What an attached CXL device holds in a byte of its media that nothing has written (R31; log entry 4). -/
opaque farByte : Nat → Byte

/-- The result bits of vec.fn function fn on input x where R172 gives only an error bound; they count where they lie within
it (R172, R174: the same bits for the same input; log entry 8). -/
opaque vecFnBits : Nat → Word → Word

/-- The code lengths a device encoder chooses for a piece: mode (1 PREFIX, 2 ZRUN), NIBBLE or not,
and the bytes (R296: depends on these only, method not published; log entry 9). -/
opaque encoderLengths : Nat → Bool → List Byte → List Nat

/-- vec.max (false) and vec.min (true) of two inputs on which the editions of IEEE 754 differ: one NaN of two, or zeros
of both signs. Bit 0 tells which of the results the editions allow is given (R164; log entry 16). -/
opaque maxMinBits : Bool → Word → Word → Word

/-- The 384-bit value V that correcting the PUF with helper data gives (R536; log entry 27). -/
opaque pufValue : List Byte → BitVec 384

/-- The hash of Perval's root key in the ROM of the plinth controller (R540 step 4; log entry 27). -/
opaque romKeyHash : BitVec 384

/-- Lane i of an accumulation block, with the value added to it, once the lanes carry no guarantee (R68; log entry 28). -/
opaque rabLane : Nat → Int → Int → Int

/-- The exponent field of a block or accumulation block whose exponent was read as 0xFF: the device writes no 0xFF there
and the elements are poisoned, so R46 leaves its value open (log entry 102). -/
opaque poisonedExp : Byte

/-- A parameter of RoCEv2 queue pair q in its context in near memory: the memory, NET_ROCE_CTX_BASE, the queue pair, and the
number of the parameter. R406 gives no layout (log entry 108). -/
opaque qpField : List (Nat × Byte) → Nat → Nat → Nat → Nat

end Sys2Proof.Config
end

