-- ==== Sys2Proof/Machine/Types.lean ====
section
/-! DEFINITION. Types: the plain data the state of a course is made of (chapters 3 to 9, 14, 16). -/

namespace Sys2Proof.Machine

/-! ### Error reports (R517, R518, R583) -/

/-- One report presented to a die's reliability unit, before it has a number (R517, R519). -/
structure Report where
  code : BitVec 16
  srcUnit : Byte
  srcInst : Byte
  sub : BitVec 4
  precise : Bool
  tallyPoisoned : Bool
  pcValid : Bool
  epochValid : Bool
  epoch : BitVec 16
  pc : Addr
  info : DWord
  deriving DecidableEq, Repr

/-- A numbered error record in a die's queue (R517, R521). -/
structure ErrRec where
  seq : Word
  rep : Report
  afterOverflow : Bool
  deriving DecidableEq, Repr

/-! ### Engine instructions (R215): captured operands (R204) -/

/-- The rounding rows given to a consumer at issue (R181, R183). -/
structure Rows where
  k0 : Word
  k1 : Word
  stream : BitVec 16
  row : DWord
  deriving DecidableEq, Repr

/-- Mode of an msn.pass (R83). -/
inductive PassMode where
  | table | shift | popcount
  deriving DecidableEq, Repr

/-- Index operand format (R50). -/
inductive IdxFmt where
  | b1 | t2 | i2 | i4 | l4
  deriving DecidableEq, Repr

/-- Table operand format (R57, R217). -/
inductive TblFmt where
  | bs8 | bs16 | b1
  deriving DecidableEq, Repr

/-- What a tbl.build writes, and the kind tag of a run (R116, R117). -/
inductive RunKind where
  | subset | signed | sword | bits
  deriving DecidableEq, Repr

/-- Output format (R147). -/
inductive OutFmt where
  | fp32 | bf16 | e4m3 | e5m2 | bs8 | bs16
  deriving DecidableEq, Repr

/-- Elementwise vector operation (R164). -/
inductive VecEl where
  | add | mul | fma | max | min
  deriving DecidableEq, Repr

/-- The operands of an msn.pass (R83, R215). -/
structure PassOp where
  mode : PassMode
  ifmt : IdxFmt
  tfmt : TblFmt
  plane : Nat
  slice : Nat
  slot : Nat
  t : Nat
  xopAnd : Bool
  tbase : Nat
  g : Nat
  iscale : Nat
  half : Bool
  deriving DecidableEq, Repr

/-- The operands of a tbl.build (R117, R216). -/
structure BuildOp where
  kind : RunKind
  tfmt : TblFmt
  expand : Bool
  slice : Nat
  drun : Nat
  t : Nat
  g : Nat
  tok0 : Nat
  addr : Nat
  stream : Nat
  tstride : Nat
  saddr : Nat
  deriving DecidableEq, Repr

/-- The operands of a drn.out or drn.partial (R146, R150). -/
structure DrainOp where
  slot : Nat
  count : Nat
  part : Bool
  ofmt : OutFmt
  sr : Bool
  nsat : Bool
  eadj : Int
  dst : Nat
  rstride : Nat
  istride : Nat
  deriving DecidableEq, Repr

/-- The operands of an msn.parity (R443). -/
structure ParityOp where
  decode : Bool
  kd : Nat
  mp : Nat
  src : Nat
  dst : Nat
  len : Nat
  stride : Nat
  desc : Nat
  deriving DecidableEq, Repr

/-- The operands of a vec.padd (R165). -/
structure PaddOp where
  src : Nat
  sstride : Nat
  parts : Nat
  elems : Nat
  convert : Bool
  dst : Nat
  ofmt : OutFmt
  sr : Bool
  nsat : Bool
  eadj : Int
  deriving DecidableEq, Repr

/-- The operands of a vec.qbw16 (R175). -/
structure Qbw16Op where
  src : Nat
  partialSrc : Bool
  agreed : Bool
  xsrc : Nat
  kind : Nat
  sr : Bool
  dst : Nat
  nb : Nat
  deriving DecidableEq, Repr

/-- The operands of a vec.qidx (R177). -/
structure QidxOp where
  ifmt : IdxFmt
  bw16 : Bool
  src : Nat
  rstride : Nat
  n : Nat
  k : Nat
  dst : Nat
  sdst : Nat
  sr : Bool
  deriving DecidableEq, Repr

/-- The operands of an fwu.mm (R187, R219). -/
structure MmOp where
  fp32In : Bool
  bf16Out : Bool
  m : Nat
  n : Nat
  k : Nat
  a : Nat
  lda : Nat
  b : Nat
  ldb : Nat
  c : Nat
  ldc : Nat
  d : Nat
  ldd : Nat
  deriving DecidableEq, Repr

/-- An engine instruction with its captured operands (R204, R215), or a tally.wait that a queue holds (R225). -/
inductive EngineOp where
  | msnPass (o : PassOp)
  | msnTile (slot count : Nat) (eref : Int) (discard : Bool)
  | msnParity (o : ParityOp)
  | tblBuild (o : BuildOp)
  | strArm (n : StreamId) (desc : Nat) (persist : Bool)
  | strRearm (n : StreamId) (base : Nat)
  | strResume (n : StreamId)
  | walkLoad (n : StreamId) (src len : Nat)
  | vecEl (f : VecEl) (d a b c e : Nat)
  | vecCvt (d a : Nat) (ofmt : OutFmt) (sr nsat : Bool) (e : Nat)
  | vecPadd (o : PaddOp)
  | vecSum (d src n rows rstride : Nat) (sq : Bool)
  | vecFn (d src fn e : Nat)
  | vecQbw16 (o : Qbw16Op)
  | vecQidx (o : QidxOp)
  | fwuMm (o : MmOp)
  | drain (o : DrainOp)
  | redSend (src blocks target : Nat)
  | redAccum (src dst blocks : Nat) (init : Bool)
  | redRing (desc blocks phase : Nat)
  | updPass (second : Bool) (desc : Nat) (smask : BitVec 8)
  | queueWait (t : Fin 256) (x : Word) (once : Bool)
  deriving DecidableEq, Repr

/-- One entry of an engine queue (R212): the instruction, its issue number, and what completion does. -/
structure QEntry where
  serial : Nat
  pc : Addr
  op : EngineOp
  te : Bool
  tally : Fin 256
  ntf : Bool
  rows : Option Rows
  skipEn : Bool
  zadvEn : Bool
  deriving DecidableEq, Repr

/-- Where the credits of a started instruction were drawn (R236, R473). -/
inductive CreditSrc where
  | none
  | pool
  | hold (id : Nat)
  deriving DecidableEq, Repr

/-- An instruction that has started and not completed (R213). `prog` counts its pass blocks entered,
its runs written or its blocks moved, and `lead` tells that a zero mark has carried the first row of the block after those (R103); `already` marks a replayed instruction that had completed (R503);
`orphan` one that a course reset has overtaken (R231); `restart` one that must start again in replay (R502). -/
structure Started where
  e : QEntry
  credits : Nat
  src : CreditSrc
  earlyReturned : Bool
  prog : Nat
  lead : Bool
  done : Bool
  poison : Bool
  code : BitVec 16
  killed : Bool
  already : Bool
  orphan : Bool
  restart : Bool
  deriving DecidableEq, Repr

/-- Why a queue is halted (R229, R232). -/
inductive QHalt where
  | no | qwait | watchFull | powerNeed | arraysReduced
  deriving DecidableEq, Repr

/-- An engine queue (R212, R213): its waiting entries, the instructions that have started, why it is halted, the request for
leave that its head presents (R476), a grant delivered to its head and not yet used (R477), and the issue number of the last head seen with its place in the order of
events (R345). -/
structure QueueState where
  entries : List QEntry
  started : List Started
  halt : QHalt
  waitStamp : Option Nat
  waitPhases : Nat
  granted : Option (Nat × CreditSrc)
  head : Option (Nat × Nat)
  deriving DecidableEq, Repr

/-- State of a course controller (R198). -/
inductive CtlState where
  | halted | running | faulted | fenced
  deriving DecidableEq, Repr

/-- The condition a watch awaits (R227). -/
inductive WatchKind where
  | tally (t : Fin 256) (x : Word)
  | qwait (q : QueueId) (t : Fin 256) (x : Word)
  | fence (mask : BitVec 8) (limit : Nat)
  deriving DecidableEq, Repr

/-- A watch of an expired wait (R227, R228). -/
structure Watch where
  pc : Addr
  kind : WatchKind
  deriving DecidableEq, Repr

/-- What a controller wait awaits (R225). -/
inductive WaitKind where
  | tally (t : Fin 256) (x : Word)
  | fence (mask : BitVec 8) (limit : Nat)
  | leave (need stamp phases : Nat)
  | lock (base len id : Nat)
  deriving DecidableEq, Repr

/-- A controller wait in progress; `sd` is the register its status goes to (R225). -/
structure Wait where
  sd : Fin 32
  kind : WaitKind
  deriving DecidableEq, Repr

/-- A completion record waiting for the ring (R233, R234), before it has a number. -/
structure CqRecord where
  pc : Addr
  kind : Byte
  flags : Byte
  tally : Byte
  queue : Byte
  code : BitVec 16
  deriving DecidableEq, Repr

/-- An active leave hold (R236). -/
structure Hold where
  id : Nat
  free : Nat
  deriving DecidableEq, Repr

/-- A line of the instruction buffer (R199): PC[47:16] of the line it holds, which of its four 64-byte lines were read
poisoned, and its 256 bytes as they were when it was filled. -/
structure IbufLine where
  tag : Nat
  poison : Nat
  bytes : List Byte
  deriving DecidableEq, Repr

/-- A bound rounding stream (R181, R182). -/
structure Binding where
  stream : BitVec 16
  replica : Bool
  k0 : Word
  k1 : Word
  pos : DWord
  deriving DecidableEq, Repr

/-! ### Arrays, tables and slots (chapters 3 to 5) -/

/-- A line of row table memory (R115). -/
structure TblLine where
  data : BitVec 128
  res : BitVec 96
  poison : Byte
  exp : Byte
  check : Byte
  deriving DecidableEq, Repr

/-- A build accepted for a run: its issue number, kind tag and slice number (R116). -/
structure RunTag where
  serial : Nat
  kind : RunKind
  slice : Nat
  deriving DecidableEq, Repr

/-- The state of one run: what it holds, and the builds accepted for it and not yet written (R116, R125). -/
structure RunState where
  cur : Option RunTag
  pend : List RunTag
  deriving DecidableEq, Repr

/-- One tile-slot element of one cell (R136). -/
structure Cell where
  a : BitVec 96
  res : Nat
  poison : Bool
  underflow : Bool
  lengthF : Bool
  window : Bool
  steps : Nat
  deriving DecidableEq, Repr

/-- A tile in an active or shadow set of one logical array: 256 cells, cell (r, c) at 16 r + c, with the
E_ref they share, the msn.tile that opened it, and whether ACC_WINDOW was raised (R136, R137). -/
structure Tile where
  serial : Nat
  eref : Int
  cells : Vector Cell 256
  windowHit : Bool
  deriving DecidableEq, Repr

/-- A shadow set that is FULL: the tile and the drain that took it (R144, R152); `lost` where the tile was
lost with its replay window, so that the drain writes nothing for it (R505). -/
structure Shadow where
  tile : Tile
  drain : Nat
  lost : Bool
  deriving DecidableEq, Repr

/-- One row on the weight chain (R130): channel c's word in bits [64c+63:64c], its parity, the zero flag and the zero count of a
mark, and the code of the damage it holds or 0 (R300). -/
structure ChainRow where
  data : BitVec 1024
  par : BitVec 16
  zero : Bool
  zcount : BitVec 3
  damaged : BitVec 16
  deriving DecidableEq, Repr

/-- What travels down the pipeline of a logical array, in issue order (R98). `step` is one accumulation
step of a pass block: the pass, its block, its sub-step, its rows and scale entries; a skipped block
carries only poison (R102). `openTile` opens the slots of an msn.tile (R141). -/
inductive Token where
  | step (serial : Nat) (o : PassOp) (blk sub : Nat) (rows : List (BitVec 1024)) (scales : List (BitVec 128))
      (skip poisonAll : Bool)
  | openTile (serial slot count : Nat) (eref : Int) (discard : Bool)
  deriving DecidableEq, Repr

/-- The drain path of one logical array: the drain it serves, its next read, and the row it holds while the second
row of a BS pair is still to be read, none where that tile is lost (R152). -/
structure DrainPath where
  drain : Nat
  pos : Nat
  held : Option (List Cell × Int)
  deriving DecidableEq, Repr

/-- An instruction of the replay log, with the index rows it consumed and the EXPAND bytes it read, each with the
code of the damage it holds or 0 (R500). -/
structure LogEntry where
  q : QueueId
  e : QEntry
  rows : List ChainRow
  bytes : List (Byte × BitVec 16)
  completed : Bool
  deriving DecidableEq, Repr

/-- Phase of a repointing (R502): stopped, with the pass replaying, or none. -/
inductive Repoint where
  | none
  | stopped (array : Nat)
  | replaying (array : Nat)
  deriving DecidableEq, Repr

/-- The array side of a course. `tables` holds line l of row r of physical array p at 16384 p + 1024 r + l;
`active` and `shadow` hold slot k of logical array j at 32 j + k. `pendOpen` lists the tiles that wait for a swap
(array, slot, issue number, E_ref), `healthy` and `mapped` the physical arrays that have not failed and that hold logical arrays
or are the spare, `swaps` the swaps that started drains have made (drain, array, slot) and
`drained` the arrays they have finished (drain, array). -/
structure ArrayState where
  tables : SMap TblLine
  runs : SMap RunState
  active : SMap Tile
  shadow : SMap Shadow
  pendOpen : List (Nat × Nat × Nat × Int)
  fifo : Vector (List Token) 8
  paths : Vector (Option DrainPath) 8
  swaps : List (Nat × Nat × Nat)
  drained : List (Nat × Nat)
  progOpen : BitVec 32
  healthy : BitVec 9
  mapped : BitVec 9
  half0 : Bool
  half1 : Bool
  log : List LogEntry
  overflow : Bool
  repoint : Repoint
  deriving DecidableEq, Repr

/-! ### Expanders (chapters 4, 9) -/

/-- A byte that an expander has read of a FEED pass: its value, whether its line was poisoned, and its offset in the
course's slice (R254, R255). -/
structure FeedByte where
  b : Byte
  bad : Bool
  off : Nat
  deriving DecidableEq, Repr

/-- A FEED pass in an expander (R254, R297): its stream, its format, the bytes read and not released, whether its
last byte has been read, whether a release cut it short (R299), the code under which the rest of the pass is
damaged, or 0 (R301), and the last poisoned line of a RAW pass that has been reported (R300). -/
structure FeedPass where
  stream : Nat
  bamong : Bool
  inp : List FeedByte
  ended : Bool
  cut : Bool
  rest : BitVec 16
  noted : Option Nat
  deriving DecidableEq, Repr

/-- An expander, or the part of the table-operand expander that serves one stream: the bytes released and not consumed,
each with the code of the damage it holds or 0 (R297, R300), and the passes being read, oldest first. -/
structure ExpState where
  bytes : List (Byte × BitVec 16)
  passes : List FeedPass
  deriving DecidableEq, Repr

/-! ### Streams (chapter 8) -/

/-- Kind of a stream (R246). -/
inductive StrKind where
  | load | store | feedIdx | feedTbl
  deriving DecidableEq, Repr

/-- State of a stream (R259). -/
inductive StrState where
  | free | active | halted | parked | done | deadlocked
  deriving DecidableEq, Repr

/-- Halt cause of a stream (R272). -/
inductive HaltCause where
  | none | notPresent | permission | malformed | noTable | address | emit
  deriving DecidableEq, Repr

/-- A stream descriptor (R248). -/
structure Desc where
  faddr : Nat
  kind : StrKind
  esize : Nat
  bamong : Bool
  phys : Bool
  walk : Bool
  nring : Bool
  fring : Bool
  noff : Nat
  nrsize : Nat
  frsize : Nat
  nlink : BitVec 16
  flink : BitVec 16
  etally : Fin 256
  een : Bool
  pen : Bool
  ptally : Fin 256
  pshift : Nat
  freeze : BitVec 8
  counts : List Nat
  strides : List Int
  deriving DecidableEq, Repr

/-- Walker registers and place (R256, R257). -/
structure Walker where
  pcw : Nat
  w : List Nat
  c : List Nat
  ended : Bool
  deriving DecidableEq, Repr

/-- A transfer formed and not complete (R252): its device physical far address, its device physical near address, its
length, its share (0 read, 1 write, 2 remote; 3 for a FEED stream), whether it is a STORE's, whether its stream has been
released since (R263), and what the host has returned of a read of host memory (R552), each byte with its poison. -/
structure Transfer where
  far : Nat
  near : Nat
  len : Nat
  share : Nat
  store : Bool
  stale : Bool
  got : List (Byte × Bool)
  deriving DecidableEq, Repr

/-- One stream of a course (R245 to R263). `emit` is the descriptor whose elements are being moved: for a walker stream
the emitted one. `formed` counts the bytes of `emit` formed into transfers, `prevBytes` those of the emits before it in
the pass, `passDone` the bytes of the pass completed. `nearPos` and `farPos` are the ring pointers, `nearAvail` and
`farAvail` the space a producer, or the data a consumer, has credit for. `early` holds the credit that came from a stream
that no descriptor here names (log entry 18). `rearmStalls` is the counter of R281, and `rearmWait` tells that the wait in
progress has been counted. -/
structure Stream where
  st : StrState
  persist : Bool
  desc : Option Desc
  base : Nat
  shadow : Option Nat
  prog : List DWord
  walker : Walker
  emit : Option Desc
  formed : Nat
  prevBytes : Nat
  passDone : Nat
  nearPos : Nat
  farPos : Nat
  nearAvail : Nat
  farAvail : Nat
  early : List (Nat × Nat)
  inflight : List Transfer
  cause : HaltCause
  stallReported : Bool
  rearmStalls : Nat
  rearmWait : Bool
  deriving DecidableEq, Repr

/-- A TLB entry: a leaf page of a course's table (R270, R271). -/
structure TlbEntry where
  page : Nat
  giant : Bool
  base : Nat
  r : Bool
  w : Bool
  deriving DecidableEq, Repr

/-- A wait-for probe of the stall check (R277): its head, and the streams it has visited after the head, in order, as
(global course, stream). -/
structure Probe where
  head : Nat
  path : List (Nat × Nat)
  deriving DecidableEq, Repr

/-- The stream engine of a course. `buildStall` and `rowStall` name the demand without a stream (R276) whose stall has
been reported, by issue number and progress. -/
structure StreamEngine where
  streams : SMap Stream
  tlb : List TlbEntry
  frozenDl : Bool
  probes : List Probe
  buildStall : Option (Nat × Nat)
  rowStall : Option (Nat × Nat)
  deriving DecidableEq, Repr

end Sys2Proof.Machine
end

