-- ==== Sys2Proof/Machine/Units.lean ====
section
/-! DEFINITION. Units: the plain data of the units outside a course (chapters 10 to 17): near- and
far-memory controllers, reduction and update, network, power, reliability, boot and host interface. -/

namespace Sys2Proof.Machine

/-! ### Arbiters (R475 to R484) -/

/-- A quoin arbiter: the map in force, the latched map, and the numbers that holders keep (R482); the copy of its grant logic
that boot leaves out of the vote, and the copy that was out-voted last with the phases in succession (R535). -/
structure Arb where
  force : DWord
  latched : Option DWord
  kept : List (Nat × Nat)
  out : Option (Fin 3)
  odd : Option (Fin 3 × Nat)
  deriving DecidableEq, Repr

/-! ### Near memory (chapter 10) -/

/-- Why a hold was broken (R327). -/
inductive TornCause where
  | reset | fault | lease
  deriving DecidableEq, Repr

/-- A lock-table entry that is not FREE: HELD, or TORN with its cause (R327); `id` names the request that made it (R585). -/
structure LockEntry where
  base : Nat
  len : Nat
  owner : Course
  epoch : BitVec 16
  id : Nat
  torn : Option TornCause
  deriving DecidableEq, Repr

/-- A lock.acq request (R328); `id` tells it from every other. -/
structure LockReq where
  base : Nat
  len : Nat
  owner : Course
  epoch : BitVec 16
  id : Nat
  once : Bool
  deriving DecidableEq, Repr

/-- Who is told the outcome of a remote-accumulate request (R384, R393, R413). -/
inductive RaFrom where
  | instr (g : Course) (serial : Nat)
  | net (x : IoDie) (job : Nat) (j : Nat)
  deriving DecidableEq, Repr

/-- A remote-accumulate request (R323): its adder source, block address, BW16 slot, whether it initialises
the block (R379), and who is told its outcome. -/
structure RaReq where
  src : Nat
  addr : Nat
  blk : List Byte
  init : Bool
  origin : RaFrom
  deriving DecidableEq, Repr

/-- Registers that upd.pass1 captures in a slice (R351). -/
structure UpdCapture where
  expected : DWord
  stepSize : Word
  policy : Bool
  deriving DecidableEq, Repr

/-- A near-memory controller and its stack. -/
structure MemState where
  backed : Bool
  slow : Bool
  removed : Nat
  failing : List (Fin 32)
  cur : Option (Fin 32 × Bool)
  overLimit : List (Fin 32)
  corrected : List (Nat × Nat)
  locks : SMap (Option LockEntry)
  waiters : List LockReq
  raQueue : List (RaReq × Nat × Nat)
  raPorts : List RaReq
  arb : Arb
  upd : UpdCapture
  deriving DecidableEq, Repr

/-! ### Far memory (chapter 10) -/

/-- A key in a far-memory key slot (R338). -/
structure FarKey where
  key : List Byte
  prot : Bool
  deriving DecidableEq, Repr

/-- A far-memory controller, its link with its failed lanes, and its attached device. A media byte is listed once it has been
written. -/
structure FarState where
  bad : BitVec 16
  keys : Vector (Option FarKey) 16
  media : SMap Byte
  poison : SMap Bool
  deriving DecidableEq, Repr

/-! ### Messages on the mortar fabric (R21) -/

/-- A unit that sends or receives messages. -/
inductive Node where
  | course (g : Course)
  | mem (s : Stack)
  | net (x : IoDie)
  deriving DecidableEq, Repr

/-- What a message carries. -/
inductive MsgBody where
  | tallyAdd (t : Fin 256) (v : Word)
  | notice (t : Fin 256) (refused : Bool)
  | lockReq (r : LockReq)
  | lockRel (base : Nat) (g : Course) (epoch : BitVec 16)
  | lockWithdraw (base : Nat) (g : Course) (epoch : BitVec 16) (id : Nat)
  | renewal (g : Course)
  | breakNotice (g : Course)
  | resetSweep (g : Course)
  | raReq (r : RaReq)
  | raOutcome (g : Course) (serial : Nat) (code : BitVec 16)
  | ringCredit (dst frm : StreamId) (len : Nat)
  deriving DecidableEq, Repr

/-- A message in transit. -/
structure Msg where
  src : Node
  dst : Node
  body : MsgBody
  deriving DecidableEq, Repr

/-! ### Reduction and rings (chapter 12) -/

/-- What the blocks of a job belong to: a red.send, a red.accum, or the first additions of a red.ring (R391). -/
inductive RedKind where
  | send | accum | ring
  deriving DecidableEq, Repr

/-- The blocks of a started red.send or red.accum, or the first additions of a red.ring: the descriptor as read at the
start (R382), the blocks formed into transfers, and the outcomes returned (R384). `dst` is an address of the target's
map; `peer` is the target's rank in `group`, none for this package or partition. -/
structure RedJob where
  serial : Nat
  kind : RedKind
  src : Nat
  dst : Nat
  blocks : Nat
  init : Bool
  group : Nat
  peer : Option Nat
  nen : Bool
  ncourse : Nat
  ntally : Fin 256
  formed : Nat
  returned : Nat
  refused : Bool
  lens : List Nat
  deriving DecidableEq, Repr

/-- What a ring waits for (R391, R395): its first additions, READY, the blocks of a step, or the outcomes of its sends. -/
inductive RingWait where
  | initAdds | ready | chunk | finish
  deriving DecidableEq, Repr

/-- A running red.ring (R388 to R395). `both` tells that an ALLGATHER follows; `gather` that the ring is in it; `step` is the
step s of the phase; `sent` counts the blocks of its chunk that have been sent; `got` lists (step tag, block) of what has its
outcome or is written; `marked` the blocks of R393; `acks` the sent blocks whose outcomes are still out, `lens` their lengths,
and `flight` the messages that carry them. -/
structure Ring where
  serial : Nat
  rseq : DWord
  group : Nat
  src : Nat
  dst : Nat
  blocks : Nat
  r : Nat
  pos : Nat
  ranks : List Nat
  rtimeout : Nat
  both : Bool
  gather : Bool
  step : Nat
  wait : RingWait
  sent : Nat
  readySeen : Bool
  got : List (Nat × Nat)
  marked : List Nat
  acks : Nat
  flight : Nat
  refused : Bool
  range : Bool
  lens : List Nat
  deriving DecidableEq, Repr

/-! ### Parameter update (chapter 11) -/

/-- A slice's result of pass 1 (R353): its sums, whether its shard's STEP or STATE withholds, the STEP it found, and whether
its shard holds more than 2^24 blocks (R354). -/
structure UpdPartial where
  stack : Stack
  sq : Nat
  poisoned : Nat
  overrange : Nat
  mismatch : Bool
  updating : Bool
  found : DWord
  long : Bool
  deriving DecidableEq, Repr

/-- A running upd.pass1 (R345, R353 to R360): its instruction, its slices in stack order, its descriptor, whether a slice
found UPD_DESC, the partials on their way to the keystone and those that have reached it, and whether the keystone waits
for records. An upd.pass2 writes everything as it starts. -/
structure UpdRun where
  g : Course
  serial : Nat
  slices : List Stack
  desc : List Byte
  fault : Bool
  sent : List UpdPartial
  arrived : List UpdPartial
  exchanging : Bool
  deriving DecidableEq, Repr

/-! ### Network (chapter 13) -/

/-- State of a connection or queue pair (R437). -/
inductive ConnState where
  | closed | opened | failed
  deriving DecidableEq, Repr

/-- Where a network message came from, and is told if it ends unreachable (R433). -/
inductive MsgOrigin where
  | red (g : Course) (serial : Nat)
  | ring (g : Course) (serial : Nat)
  | record | answer | plinth
  deriving DecidableEq, Repr

/-- What a message is formed from (R415): the engine's own state; BW16 slots, accumulation blocks that are packed or copied, and a
record of the exchange table, by device physical address. -/
inductive MsgSrc where
  | state
  | slots (l : List Nat)
  | packs (l : List (Nat × Bool))
  | copies (l : List Nat)
  | record (a : Nat)
  deriving DecidableEq, Repr

/-- A network message of this device (R412): the partition it leaves, the group and rank it goes to, its bytes as last formed, its
origin, and what it is formed from. -/
structure NetMsg where
  part : Nat
  group : Nat
  rank : Nat
  bytes : List Byte
  origin : MsgOrigin
  src : MsgSrc
  deriving DecidableEq, Repr

/-- A received and valid network message that has not been applied (R414): the partition that received it, the channel
of its connection, and its bytes. -/
structure RxMsg where
  part : Nat
  conn : Nat
  bytes : List Byte
  deriving DecidableEq, Repr

/-- A segment sent and not acknowledged (R425 to R432), or a PROBE (R430). `passed` lists the segments sent after it that
SACKs cover, and `lost` marks it for a retransmission. -/
structure Seg where
  seq : Nat
  pn : Nat
  msg : Option NetMsg
  plain : List Byte
  sends : Nat
  passed : List Nat
  lost : Bool
  deriving DecidableEq, Repr

/-- A control frame that waits for a SWITCH (R424): its type, its ECE bit and its plaintext. -/
structure HeldFrame where
  type : Nat
  ece : Bool
  plain : List Byte
  deriving DecidableEq, Repr

/-- An LCT connection (R416 to R432): the context as read at OPEN, sending state, and receiving state. `ctl` lists the control
frames that wait for a SWITCH (R424). -/
structure Conn where
  st : ConnState
  ctx : List Byte
  phase : Bool
  held : Bool
  ctl : List HeldFrame
  seq : Nat
  pn : Nat
  unacked : List Seg
  probe : Option Seg
  cum : Nat
  srtt : Nat
  rttvar : Nat
  sampled : Bool
  cwnd : Nat
  ssthresh : Nat
  cut : Bool
  rxCum : Nat
  rxSet : List Nat
  rxUnacked : Nat
  ceSeen : Bool
  ceCount : Nat
  lastCtl : Option Nat
  lostRaised : Bool
  authRaised : Bool
  deriving DecidableEq, Repr

/-- A connection key slot (R423). -/
structure NetKey where
  key : List Byte
  salt : List Byte
  used : Nat
  deriving DecidableEq, Repr

/-- What a RoCEv2 acknowledgement says (R406): ACK, NAK for a sequence error, NAK remote-invalid-request. -/
inductive AckKind where
  | ack | sequence | invalid
  deriving DecidableEq, Repr

/-- The path of a queue pair, from its context (R406): IPv6 or IPv4, the addresses, the next hop, a VLAN tag, the traffic class or
type of service without its ECN bits, whether packets are sent ECN-capable, the UDP source port, the P_Key and the peer's queue pair. -/
structure QpPath where
  v6 : Bool
  ownIp : List Byte
  peerIp : List Byte
  nextHop : List Byte
  vlan : Option Nat
  tclass : Nat
  ect : Bool
  udpSrc : Nat
  pkey : Nat
  peer : Nat
  deriving DecidableEq, Repr

/-- A RoCEv2 queue pair (R406, R407). `unacked` lists the messages sent and not acknowledged: first PSN, packets,
message; `msn` counts the messages received. -/
structure Qp where
  st : ConnState
  path : QpPath
  msn : Nat
  port : Nat
  mtu : Nat
  sendPsn : Nat
  recvPsn : Nat
  retry : Nat
  retryMax : Nat
  partialMsg : List Byte
  unacked : List (Nat × Nat × NetMsg)
  lostRaised : Bool
  deriving DecidableEq, Repr

/-- A received RA_BLOCKS or RING_PART message whose blocks are not all decided (R413): where its RA_OUTCOME goes, and the
codes so far; for a ring message its course and step tag. -/
structure NetJob where
  id : Nat
  part : Nat
  group : Nat
  rank : Nat
  tag : DWord
  atype : Nat
  first : Nat
  codes : List (Option (BitVec 16))
  ring : Option (Course × Nat)
  deriving DecidableEq, Repr

/-- The outcomes of one red.send counted at its target (R385, R413). -/
structure RaTotal where
  part : Nat
  group : Nat
  rank : Nat
  tag : DWord
  total : Nat
  counted : Nat
  refused : Bool
  ncourse : Nat
  nen : Bool
  ntally : Fin 256
  deriving DecidableEq, Repr

/-- The network engines of an I/O die. `queue` lists messages that wait for their connection, an LCT connection c as c and
a queue pair q as 4096 + q; `keys` holds TX and RX key slots at 4 c + 2 dir + phase; `turn` the next connection of a
rank; `applied` what R414 has let through. -/
structure NetState where
  conns : SMap Conn
  keys : SMap (Option NetKey)
  qps : SMap Qp
  queue : List (Nat × NetMsg)
  nextJob : Nat
  turn : SMap Nat
  inbox : List RxMsg
  jobs : List NetJob
  totals : List RaTotal
  applied : List (Nat × List Byte)
  deriving DecidableEq, Repr

/-- A port (R402, R405): whether its link is up, its rate as RATE codes it, the lanes in use, whether it runs at reduced
rate, its failed lanes, and whether it has a link partner. -/
structure PortState where
  up : Bool
  rate : Nat
  lanes : BitVec 8
  degraded : Bool
  bad : BitVec 8
  partner : Bool
  deriving DecidableEq, Repr

/-! ### Power (chapter 15) -/

/-- An fwu.mm in the holding of a fine-work unit (R186): its course, its issue number, its place in the order of arrival, the
tiles of D that are written (R191), the order in which it asked for leave, and its grant. -/
structure FwuEntry where
  g : Course
  serial : Nat
  arr : Nat
  tile : Nat
  stamp : Nat
  phases : Nat
  granted : Option (Nat × CreditSrc)
  deriving DecidableEq, Repr

/-- What a compute die holds beside its courses: its arbiter and credits, fine-work unit, and the applied
power-cap state (R475 to R487, R186, R514). `inUse` counts the credits outstanding by requester. -/
structure CDieState where
  arb : Arb
  inUse : Vector Nat 16
  capApplied : Bool
  fwuHeld : List FwuEntry
  fwuRun : Option FwuEntry
  fwuOk : Bool
  deriving DecidableEq, Repr

/-- One direction of a mortar edge: a mask of the failed lanes of each of its 16 modules (R516, R534). -/
abbrev MortarDir := Vector Nat 16

/-- A PLL of a die (R464 to R466). -/
inductive PllState where
  | locked | relocking | out
  deriving DecidableEq, Repr

/-- A self-test that a course has asked for, by diag.selftest or its schedule, with the groups still to test (R496, R497). -/
structure SelfTest where
  id : Nat
  pc : Addr
  left : BitVec 8
  te : Bool
  tally : Fin 256
  ntf : Bool
  deriving DecidableEq, Repr

/-- A self-test of a die's groups 6 and 7 and the course's test it belongs to, none for the die's own schedule (R497). -/
structure DieTest where
  owner : Option (Course × Nat)
  groups : BitVec 8
  deriving DecidableEq, Repr

/-! ### Host and boot (chapter 17) -/

/-- An MSI-X table entry (R555): address, data, and masked. -/
structure MsixEntry where
  addr : DWord
  data : Word
  masked : Bool
  deriving DecidableEq, Repr

/-- The PCIe endpoint (R546 to R555). Functions are 0 (PF) to 4. -/
structure HostState where
  gen : Nat
  width : Nat
  up : Bool
  bme : Vector Bool 5
  vfEnabled : Vector Bool 5
  msixEn : Vector Bool 5
  fnMask : Vector Bool 5
  msix : SMap MsixEntry
  pba : SMap Bool
  bar2Size : Vector Nat 5
  deriving DecidableEq, Repr

/-- A boot under way (R539): what it finds, the step and its units that are still to run with the paths still to try for the first
(none before it starts), the boot number, the path on which each unit that does not begin on its primary path begins, and
the parts that step 5 has mapped out. -/
structure BootRun where
  env : BootEnv
  step : Nat
  units : List Nat
  paths : Option (List Nat)
  number : Nat
  begins : List (Nat × Nat × Nat)
  ledger : List FailRec
  parts : List FailRec
  deriving DecidableEq, Repr

/-- The plinth controller, boot flash and identity (R529 to R545). `kwkBusy` holds the result of a derivation that runs, none for
an invalid point; `helper` the PUF helper data that step 3 used; `failures` those whose record is not yet written. -/
structure BootState where
  flash : SMap Byte
  kwk : Option (List Byte)
  kwkBusy : Option (Option (List Byte))
  helper : Option (List Byte)
  failures : List FailRec
  run : Option BootRun
  booted : Bool
  faultPin : Bool
  tripPin : Bool
  rstLow : Bool
  capPin : Bool
  perst : Bool
  hold : Bool
  dropRaised : Bool
  deriving DecidableEq, Repr

end Sys2Proof.Machine
end

