-- ==== Sys2Proof/Machine/State.lean ====
section
/-! DEFINITION. State: everything the specification gives the device, as plain data, the outcomes a
command can stop with, and the state at package reset. INVENTORY.md lists each field with its rule. -/

namespace Sys2Proof.Machine

/-- Why the model stops with a fault: no command does, since the manual gives each of them an effect. -/
inductive Fault where
  /-- Raised by no command of this block; here so that the type has a value. Safe: it stops the run. -/
  | none
  deriving DecidableEq, Repr

/-- Why the model refuses a command. -/
inductive Refusal where
  /-- Raised only by exec, for a command that has no meaning yet. Safe: it stops the run. -/
  | notModelled (mnemonic : String)
  deriving DecidableEq, Repr

/-- What leaves the package, in order. -/
inductive OutMsg where
  /-- A register read answered to an agent (R9, R10). -/
  | regRead (a : Agent) (off : Nat) (v : Word)
  /-- An MSI-X message (R555): the function, and the entry's address and data. -/
  | msix (fn : Fin 5) (addr : DWord) (data : Word)
  /-- A write to host memory (R33, R552), with EP set where it carries a byte of a poisoned line. -/
  | hostWrite (bus : Nat) (bytes : List Byte) (ep : Bool)
  /-- A read of host memory asked for (R552). -/
  | hostRead (bus : Nat) (len : Nat)
  /-- The completion of a host read of a BAR (R549, R552): unsupported, poisoned or with data. -/
  | completion (fn : Fin 5) (unsupported poisoned : Bool) (bytes : List Byte)
  /-- An LCT frame (R419): port, the connection it belongs to, and the frame up to its FCS. -/
  | lctFrame (p : PortId) (conn : Nat) (frame : List Byte)
  /-- A RoCEv2 packet (R406): port, queue pair, PSN, and the frame up to its FCS; an acknowledgement; a CNP. -/
  | rocePacket (p : PortId) (qp psn : Nat) (frame : List Byte)
  | roceAck (p : PortId) (qp psn : Nat) (kind : AckKind) (frame : List Byte)
  | roceCnp (p : PortId) (qp : Nat) (frame : List Byte)
  /-- A frame sent by the plinth controller (R557). -/
  | plinthFrame (p : PortId) (bytes : List Byte)
  deriving DecidableEq, Repr

/-- One course (R23): its controller (chapter 7), arrays (3 to 5, 16), expanders (4, 9) and streams (8). -/
structure CourseState where
  ctl : CtlState
  inTrap : Bool
  nested : Bool
  pc : Addr
  sregs : Vector DWord 32
  aregs : Vector Addr 16
  pregs : Vector Bool 8
  tallyV : SMap Word
  tallyP : SMap Bool
  v1 : Bool
  wait : Option Wait
  stalled : Option (QueueId × QEntry)
  stopReq : Bool
  serial : Nat
  queues : Vector QueueState 8
  watches : List Watch
  records : List CqRecord
  hold : Option Hold
  holdNext : Nat
  ibuf : SMap IbufLine
  bindings : List Binding
  arr : ArrayState
  idx : ExpState
  tbl : SMap ExpState
  str : StreamEngine
  ctrlFailed : Bool
  adopted : Bool
  adopting : Bool
  vecFailed : BitVec 9
  jobs : List RedJob
  ring : Option Ring
  selfTests : List SelfTest
  deriving DecidableEq, Repr

/-- What every die holds: its error reporter (R517 to R522), PLLs (R464 to R468), sensors (R485, R577),
mortar edges (R516) and the self-tests of its groups 6 and 7 (R497). -/
structure DieState where
  presented : List Report
  errQueue : List ErrRec
  lastBuf : Option ErrRec
  seqNext : Word
  ufirst : SMap (BitVec 16)
  pllA : PllState
  pllB : PllState
  activeB : Bool
  started : Bool
  dead : Bool
  refOk : Bool
  temps : SMap Nat
  factor : Nat
  hot : Bool
  critical : Bool
  comparator : Bool
  tx : Vector MortarDir 3
  trained : Bool
  selfTests : List DieTest
  deriving DecidableEq, Repr

/-- The device. -/
structure State where
  courses : Vector CourseState 32
  dies : Vector DieState 6
  regs : SMap Word
  wide : SMap DWord
  latch : SMap Word
  capture : List ((Agent × Nat) × Word)
  mem : SMap Byte
  memPoison : SMap Bool
  msgs : List Msg
  mems : Vector MemState 8
  fars : Vector FarState 8
  cdies : Vector CDieState 4
  nets : Vector NetState 2
  ports : Vector PortState 12
  host : HostState
  boot : BootState
  upds : List UpdRun
  ticking : List Nat
  freeCtr : Nat
  stamp : Nat
  out : List OutMsg
  pending : List Instr
  deriving DecidableEq, Repr

/-- What a command's meaning answers. -/
abbrev Out := Host.Outcome State Fault Refusal

/-! ### Reset -/

def Cell.zero : Cell := ⟨0, 0, false, false, false, false, 0⟩

def QueueState.reset : QueueState := ⟨[], [], .no, none, 0, none, none⟩

def ArrayState.reset : ArrayState :=
  { tables := [], runs := [], active := [], shadow := [], pendOpen := []
    fifo := Vector.replicate 8 [], paths := Vector.replicate 8 none, swaps := [], drained := []
    progOpen := 0, healthy := 0x1FF, mapped := 0x1FF, half0 := true, half1 := true, log := [], overflow := false, repoint := .none }

def ExpState.reset : ExpState := ⟨[], []⟩

def StreamEngine.reset : StreamEngine := ⟨[], [], false, [], none, none⟩

/-- A course at package reset: HALTED (R198), every s, a and p register 0 apart from p0 (R200), every tally
0 (R221), queues empty, every stream FREE (R259), every run EMPTY and slot CLOSED (R116, R142). -/
def CourseState.reset : CourseState :=
  { ctl := .halted, inTrap := false, nested := false, pc := 0
    sregs := Vector.replicate 32 0, aregs := Vector.replicate 16 0
    pregs := (Vector.replicate 8 false).set 0 true
    tallyV := [], tallyP := [], v1 := false, wait := none, stalled := none, stopReq := false, serial := 0
    queues := Vector.replicate 8 QueueState.reset
    watches := [], records := [], hold := none, holdNext := 0
    ibuf := [], bindings := [], arr := ArrayState.reset, idx := ExpState.reset, tbl := []
    str := StreamEngine.reset, ctrlFailed := false, adopted := false, adopting := false, vecFailed := 0
    jobs := [], ring := none, selfTests := [] }

def DieState.reset : DieState :=
  { presented := [], errQueue := [], lastBuf := none, seqNext := 0, ufirst := []
    pllA := .out, pllB := .out, activeB := false, started := false, dead := false, refOk := true
    temps := [], factor := 8, hot := false, critical := false, comparator := false
    tx := Vector.replicate 3 (Vector.replicate 16 0), trained := false
    selfTests := [] }

/-- The reset value of an arbiter map: requester r has input r (R475, R324). -/
def Arb.reset : Arb := ⟨0xFEDCBA9876543210, none, [], none, none⟩

def MemState.reset : MemState :=
  { backed := true, slow := false, removed := 0, failing := [], cur := none, overLimit := [], corrected := []
    locks := [], waiters := [], raQueue := [], raPorts := [], arb := Arb.reset, upd := ⟨0, 0, false⟩ }

def FarState.reset : FarState := ⟨0, Vector.replicate 16 none, [], []⟩

def CDieState.reset : CDieState :=
  { arb := Arb.reset, inUse := Vector.replicate 16 0, capApplied := false
    fwuHeld := [], fwuRun := none, fwuOk := true }

def NetState.reset : NetState := ⟨[], [], [], [], 0, [], [], [], [], []⟩

def PortState.reset : PortState := ⟨false, 0, 0, false, 0, false⟩

def HostState.reset : HostState :=
  { gen := 0, width := 0, up := false, bme := Vector.replicate 5 false
    vfEnabled := (Vector.replicate 5 false).set 0 true
    msixEn := Vector.replicate 5 false, fnMask := Vector.replicate 5 false, msix := [], pba := []
    bar2Size := Vector.replicate 5 0x40000000 }

def BootState.reset : BootState :=
  { flash := [], kwk := none, kwkBusy := none, helper := none, failures := [], run := none, booted := false, faultPin := false
    tripPin := false, rstLow := true, capPin := false, perst := true, hold := false
    dropRaised := false }

/-- The device at package reset, with no command waiting. -/
def State.reset : State :=
  { courses := Vector.replicate 32 CourseState.reset
    dies := Vector.replicate 6 DieState.reset
    regs := [], wide := [], latch := [], capture := [], mem := [], memPoison := []
    msgs := [], mems := Vector.replicate 8 MemState.reset, fars := Vector.replicate 8 FarState.reset
    cdies := Vector.replicate 4 CDieState.reset, nets := Vector.replicate 2 NetState.reset
    ports := Vector.replicate 12 PortState.reset, host := HostState.reset, boot := BootState.reset
    upds := []
    ticking := [], freeCtr := 0, stamp := 0, out := [], pending := [] }

end Sys2Proof.Machine
end

