-- ==== Sys2Proof/Machine/Ops.lean ====
section
/-! DEFINITION. Ops: the named operations over the state that every command's meaning is built from:
parts of the state, registers and counters, memory bytes and poison, reports, and taking a precise
exception. -/

namespace Sys2Proof.Machine

/-! ### Parts of the state -/

def State.course (s : State) (g : Course) : CourseState := s.courses.get g
def State.setCourse (s : State) (g : Course) (c : CourseState) : State :=
  { s with courses := s.courses.set g c }
def State.modCourse (s : State) (g : Course) (f : CourseState → CourseState) : State :=
  s.setCourse g (f (s.course g))
def State.die (s : State) (d : Die) : DieState := s.dies.get d
def State.setDie (s : State) (d : Die) (x : DieState) : State := { s with dies := s.dies.set d x }
def State.modDie (s : State) (d : Die) (f : DieState → DieState) : State := s.setDie d (f (s.die d))
def CourseState.queue (c : CourseState) (q : QueueId) : QueueState := c.queues.get q
def CourseState.setQueue (c : CourseState) (q : QueueId) (x : QueueState) : CourseState :=
  { c with queues := c.queues.set q x }
def CourseState.modQueue (c : CourseState) (q : QueueId) (f : QueueState → QueueState) : CourseState :=
  c.setQueue q (f (c.queue q))

/-- The compute die of a course (R24). -/
def courseDie (g : Course) : Die := ⟨g.val / 8, by omega⟩

/-! ### Free values (log entry 1) -/

/-- The next free value. -/
def State.fresh (s : State) : DWord := Config.freeValue s.freeCtr
/-- The state once a free value has been taken. -/
def State.used (s : State) : State := { s with freeCtr := s.freeCtr + 1 }
/-- Bytes whose values are open. -/
def State.freeBytes (s : State) (n : Nat) : List Byte × State :=
  ((List.range n).map fun i => (Config.freeValue (s.freeCtr + i)).setWidth 8, { s with freeCtr := s.freeCtr + n })
/-- A new place in the order of events (R476: which operation began waiting first). -/
def State.tick (s : State) : State := { s with stamp := s.stamp + 1 }
/-- Send a message out of the package. -/
def State.emit (s : State) (m : OutMsg) : State := { s with out := s.out ++ [m] }

/-- A failure of R499 that the plinth controller records in the ledger (R545). -/
def State.failed (s : State) (f : FailRec) : State :=
  { s with boot := { s.boot with failures := s.boot.failures ++ [f] } }

/-! ### Registers -/

def State.reg (s : State) (off : Nat) : Word := SMap.get s.regs off (BitVec.ofNat 32 (regReset off))
def State.setReg (s : State) (off : Nat) (v : Word) : State :=
  { s with regs := SMap.put s.regs off v (BitVec.ofNat 32 (regReset off)) }
def State.reg64 (s : State) (off : Nat) : DWord := SMap.get s.wide off (BitVec.ofNat 64 (regReset off))
def State.setReg64 (s : State) (off : Nat) (v : DWord) : State :=
  { s with wide := SMap.put s.wide off v (BitVec.ofNat 64 (regReset off)) }
/-- Set the bits of `m` of a register. -/
def State.orReg (s : State) (off : Nat) (m : Word) : State := s.setReg off (s.reg off ||| m)
/-- Clear the bits of `m` of a register. -/
def State.clrReg (s : State) (off : Nat) (m : Word) : State := s.setReg off (s.reg off &&& ~~~m)

/-- BAR0 offset of a register of course `g`. -/
def cr (g : Course) (o : Nat) : Nat := (Blk.course g).base + o
/-- BAR0 offset of a register of a die's control block. -/
def dr (d : Die) (o : Nat) : Nat := (Blk.die d).base + o
/-- BAR0 offset of a register of a near-memory controller. -/
def mr (k : Stack) (o : Nat) : Nat := (Blk.mem k).base + o

/-- Count `n` events in a 64-bit counter of the block at `base`, whose control register is at `ctrl`:
nothing while FREEZE is 1, and never past the largest value (R113). -/
def State.count (s : State) (base ctrl cnt n : Nat) : State :=
  if (s.reg (base + ctrl)).getLsbD 0 then s
  else s.setReg64 (base + cnt) (BitVec.ofNat 64 (min ((s.reg64 (base + cnt)).toNat + n) full64))

/-- Count in a 32-bit counter under the same rule. -/
def State.count32 (s : State) (base ctrl cnt n : Nat) : State :=
  if (s.reg (base + ctrl)).getLsbD 0 then s
  else s.setReg (base + cnt) (BitVec.ofNat 32 (min ((s.reg (base + cnt)).toNat + n) full32))

/-- Count in a counter of a course's register block. -/
def State.countC (s : State) (g : Course) (ctrl cnt n : Nat) : State :=
  s.count (Blk.course g).base ctrl cnt n

/-- From here on the cycle counter at BAR0 offset `off` may have counted when it is next read (log entry 7). -/
def State.startTicks (s : State) (off : Nat) : State :=
  if s.ticking.contains off then s else { s with ticking := off :: s.ticking }

/-- The cycles that a counter has counted since it was last read are added, as far as FREEZE allows: how many is timing, and so a
free value. It goes on counting while what it counts goes on. -/
def State.elapse (s : State) (base ctrl cnt : Nat) (on : Bool) : State :=
  if s.ticking.contains (base + cnt) then
    let t := (s.used).count base ctrl cnt s.fresh.toNat
    if on then t else { t with ticking := t.ticking.filter fun o => o != base + cnt }
  else s

/-! ### Memory: near memory and the staging SRAM slices, by device physical address -/

/-- What a byte of near memory or staging SRAM reads as while nothing has written it: 0 (R586; log entry 2). -/
def memDefault (_a : Nat) : Byte := 0

def State.byte (s : State) (a : Nat) : Byte := SMap.get s.mem a (memDefault a)
def State.setByte (s : State) (a : Nat) (v : Byte) : State :=
  { s with mem := SMap.put s.mem a v (memDefault a) }

/-- The bytes at `a`, `a + 1`, …, `n` of them. -/
def State.bytes (s : State) (a : Nat) : Nat → List Byte
  | 0 => []
  | n + 1 => s.byte a :: s.bytes (a + 1) n

/-- Write consecutive bytes from `a`. -/
def State.putBytes (s : State) (a : Nat) : List Byte → State
  | [] => s
  | b :: bs => (s.setByte a b).putBytes (a + 1) bs

/-- The little-endian integer of a list of bytes (R45). -/
def leNat : List Byte → Nat
  | [] => 0
  | b :: bs => b.toNat + 256 * leNat bs

/-- The `n` bytes of an integer, little-endian (R45). -/
def leBytes : Nat → Nat → List Byte
  | 0, _ => []
  | n + 1, v => BitVec.ofNat 8 v :: leBytes n (v / 256)

/-- Little-endian read of `n` bytes. -/
def State.rdN (s : State) (a n : Nat) : Nat := leNat (s.bytes a n)
/-- Little-endian write of `n` bytes. -/
def State.wrN (s : State) (a n v : Nat) : State := s.putBytes a (leBytes n v)

/-- The poison mark of the 64-byte line that holds `a` (R255, R315, R515). -/
def State.poisoned (s : State) (a : Nat) : Bool := SMap.get s.memPoison (a / 64) false
def State.setPoison (s : State) (a : Nat) (v : Bool) : State :=
  { s with memPoison := SMap.put s.memPoison (a / 64) v false }
/-- Some byte of `n` bytes from `a` lies in a poisoned line. -/
def State.anyPoison (s : State) (a n : Nat) : Bool :=
  (List.range ((a + n + 63) / 64 - a / 64)).any fun i => s.poisoned (64 * (a / 64 + i))

/-- Lines wholly inside `[a, a + n)` lose their poison mark: all 64 bytes are written (R315, R515). -/
def State.cleanLines (s : State) (a n : Nat) : State :=
  (List.range ((a + n) / 64 - (a + 63) / 64)).foldl
    (fun t i => t.setPoison (64 * ((a + 63) / 64 + i)) false) s

/-- A write by an engine to near memory or a slice: the bytes change, and a line all of whose bytes are
written is no longer poisoned; a poisoned line written in part stays poisoned (R315, R515). -/
def State.store (s : State) (a : Nat) (bs : List Byte) : State :=
  (s.putBytes a bs).cleanLines a bs.length

/-- Little-endian store. -/
def State.storeN (s : State) (a n v : Nat) : State := s.store a (leBytes n v)

/-! ### The address map (R29 to R32) -/

def nearEnd : Nat := 0x8000000000
def sramBase : Nat := 0x100000000000
def regBase : Nat := 0x1F0000000000
def hostBase : Nat := 0x200000000000
def farBase : Nat := 0x10000000000
def sliceSize : Nat := 0x1800000

/-- Base of the staging SRAM window of a course (R32). -/
def windowBase (g : Course) : Nat := sramBase + g.val * 0x2000000
/-- The `n` bytes from `a` lie in the course's slice (R32). -/
def inSlice (g : Course) (a n : Nat) : Bool :=
  decide (windowBase g ≤ a) && decide (a + n ≤ windowBase g + sliceSize)
/-- The `n` bytes from `a` lie in some slice of the compute die. -/
def inDieSlice (d : Nat) (a n : Nat) : Bool :=
  (List.range 8).any fun k =>
    decide (sramBase + (8 * d + k) * 0x2000000 ≤ a) &&
      decide (a + n ≤ sramBase + (8 * d + k) * 0x2000000 + sliceSize)

/-! ### Reports (R517 to R519, R583) -/

/-- Present a report to a die's reliability unit (R519). -/
def State.raise (s : State) (d : Die) (r : Report) : State :=
  s.modDie d fun x => { x with presented := x.presented ++ [r] }

/-- Present a report whose INFO the manual does not state: it is a free value (log entry 11). -/
def State.raiseWith (s : State) (d : Die) (r : Report) (info : Option DWord) : State :=
  match info with
  | some v => s.raise d { r with info := v }
  | none => (s.used).raise d { r with info := s.fresh }

/-- A report that names no instruction (R583). -/
def plainReport (code : BitVec 16) (unit inst : Byte) (sub : BitVec 4) : Report :=
  { code := code, srcUnit := unit, srcInst := inst, sub := sub, precise := false, tallyPoisoned := false
    pcValid := false, epochValid := false, epoch := 0, pc := 0, info := 0 }

/-- SRC_INST of a course: its number within the die (R517). -/
def courseInst (g : Course) : Byte := BitVec.ofNat 8 (g.val % 8)

/-- A report of a unit of course `g` that names no instruction. -/
def State.raiseCourse (s : State) (g : Course) (code : BitVec 16) (unit : Byte) (sub : BitVec 4)
    (info : Option DWord) : State :=
  s.raiseWith (courseDie g) (plainReport code unit (courseInst g) sub) info

/-- A report that names an instruction of course `g`: PC_VALID and EPOCH_VALID are set (R583). -/
def State.raiseInstr (s : State) (g : Course) (code : BitVec 16) (unit : Byte) (sub : BitVec 4)
    (precise tp : Bool) (pc : Addr) (info : Option DWord) : State :=
  s.raiseWith (courseDie g)
    { code := code, srcUnit := unit, srcInst := courseInst g, sub := sub, precise := precise
      tallyPoisoned := tp, pcValid := true, epochValid := true
      epoch := (s.reg (cr g 0x1C)).setWidth 16, pc := pc, info := 0 } info

/-- A fault that is not precise captures CCR_EFIRST and CCR_EFIRST_PC while VALID is 0 (R239, R243). -/
def State.efirst (s : State) (g : Course) (code : BitVec 16) (queue : Nat) (pc : Addr) : State :=
  if (s.reg (cr g 0x40)).getLsbD 31 then s
  else (s.setReg (cr g 0x40) (BitVec.ofNat 32 (0x80000000 + queue * 65536 + code.toNat))).setReg64
    (cr g 0x48) (pc.setWidth 64)

/-! ### Controller registers (R200) -/

/-- s0 reads 0. -/
def CourseState.rs (c : CourseState) (i : Fin 32) : DWord := if i = 0 then 0 else c.sregs.get i
/-- Writes to s0 are discarded. -/
def CourseState.ws (c : CourseState) (i : Fin 32) (v : DWord) : CourseState :=
  if i = 0 then c else { c with sregs := c.sregs.set i v }
def CourseState.ra (c : CourseState) (i : Fin 16) : Addr := c.aregs.get i
def CourseState.wa (c : CourseState) (i : Fin 16) (v : Addr) : CourseState :=
  { c with aregs := c.aregs.set i v }
/-- p0 reads 1. -/
def CourseState.rp (c : CourseState) (i : Fin 8) : Bool := if i = 0 then true else c.pregs.get i
/-- Writes to p0 are discarded. -/
def CourseState.wp (c : CourseState) (i : Fin 8) (v : Bool) : CourseState :=
  if i = 0 then c else { c with pregs := c.pregs.set i v }

def CourseState.tallyVal (c : CourseState) (t : Fin 256) : Word := SMap.get c.tallyV t.val 0
def CourseState.tallyPoi (c : CourseState) (t : Fin 256) : Bool := SMap.get c.tallyP t.val false
def CourseState.setTally (c : CourseState) (t : Fin 256) (v : Word) (p : Bool) : CourseState :=
  { c with tallyV := SMap.put c.tallyV t.val v 0, tallyP := SMap.put c.tallyP t.val p false }

/-- A tally wait for target X is satisfied when P = 1 or V has reached X in wrap-around order (R220). -/
def CourseState.reached (c : CourseState) (t : Fin 256) (x : Word) : Bool :=
  c.tallyPoi t || decide ((c.tallyVal t - x).toNat < 2147483648)

/-! ### Fields of an instruction word (R202, R206, R215) -/

/-- Field [hi:lo] of an instruction word. -/
def fld (w : BitVec 56) (hi lo : Nat) : Nat := (w.toNat / 2 ^ lo) % 2 ^ (hi - lo + 1)
def fldS (w : BitVec 56) (lo : Nat) : Fin 32 := ⟨fld w (lo + 4) lo % 32, by omega⟩
def fldA (w : BitVec 56) (lo : Nat) : Fin 16 := ⟨fld w (lo + 3) lo % 16, by omega⟩
def fldP (w : BitVec 56) (lo : Nat) : Fin 8 := ⟨fld w (lo + 2) lo % 8, by omega⟩
/-- IMM or OFF of bits [31:0], sign-extended to 64 bits (R206). -/
def imm64 (w : BitVec 56) : DWord := (w.setWidth 32).signExtend 64
/-- The two's complement value of an n-bit field. -/
def sext (n v : Nat) : Int := if v < 2 ^ (n - 1) then (v : Int) else (v : Int) - 2 ^ n

end Sys2Proof.Machine
end

