-- ==== Sys2Proof/Machine/Formats.lean ====
section
/-! DEFINITION. Formats: the number formats of chapter 2: exact values, the one rounding (R47 to R49), block
exponents (R61), BW16 and reduction accumulation blocks (R62 to R69), and the floating-point formats (R70 to R72). -/

namespace Sys2Proof.Machine

/-! ### Exact values and rounding -/

/-- The exact value n / d × 2^e, with d not 0. -/
structure Exact where
  n : Int
  d : Nat
  e : Int
  deriving DecidableEq, Repr

/-- The exact value m × 2^e. -/
def Exact.dy (m e : Int) : Exact := ⟨m, 1, e⟩

/-- x / 2^l as a fraction: numerator and denominator. -/
def Exact.scaledBy (x : Exact) (l : Int) : Int × Nat :=
  if l ≤ x.e then (x.n * 2 ^ (x.e - l).toNat, x.d) else (x.n, x.d * 2 ^ (l - x.e).toNat)

/-- Rounding mode with the draw of the element (R48, R49). -/
inductive Rnd where
  | rne
  | sr (draw : Nat)
  deriving DecidableEq, Repr

/-- Round the fraction n / d to an integer (R47 to R49). -/
def roundFrac (r : Rnd) (n : Int) (d : Nat) : Int :=
  let u := n / (d : Int)
  let f := (n % (d : Int)).toNat
  match r with
  | .rne => if 2 * f > d ∨ (2 * f = d ∧ u % 2 = 1) then u + 1 else u
  | .sr draw => if f * 16777216 / d > draw then u + 1 else u

/-- Round x to a multiple of 2^l, and give the multiple. -/
def Exact.round (x : Exact) (r : Rnd) (l : Int) : Int := roundFrac r (x.scaledBy l).1 (x.scaledBy l).2

/-- floor(log2 |x|), for x not 0. -/
def Exact.log2 (x : Exact) : Int :=
  let k : Int := (Nat.log2 x.n.natAbs : Int) - (Nat.log2 x.d : Int)
  let below := if 0 ≤ k then decide (x.n.natAbs < x.d * 2 ^ k.toNat) else decide (x.n.natAbs * 2 ^ (-k).toNat < x.d)
  (if below then k - 1 else k) + x.e

/-! ### Floating point (R70 to R72) -/

/-- A floating-point datum: not a number, an infinity, or ±m × 2^e. -/
inductive Fp where
  | nan
  | inf (neg : Bool)
  | num (neg : Bool) (m : Nat) (e : Int)
  deriving DecidableEq, Repr

/-- A floating-point format: precision, exponent of the smallest subnormal, largest finite, infinity where it
has one, and canonical NaN (R70). -/
structure FpFmt where
  prec : Nat
  qmin : Int
  bits : Nat
  maxFin : Nat
  infBits : Option Nat
  nanBits : Nat
  deriving DecidableEq, Repr

def fp32 : FpFmt := ⟨24, -149, 32, 0x7F7FFFFF, some 0x7F800000, 0x7FC00000⟩
def bf16 : FpFmt := ⟨8, -133, 16, 0x7F7F, some 0x7F80, 0x7FC0⟩
def e4m3 : FpFmt := ⟨4, -9, 8, 0x7E, none, 0x7F⟩
def e5m2 : FpFmt := ⟨3, -16, 8, 0x7B, some 0x7C, 0x7E⟩

/-- Read a value of FP32 or BF16 (IEEE 754). -/
def fpRead (f : FpFmt) (w : Nat) : Fp :=
  let mag := w % 2 ^ (f.bits - 1)
  let neg := decide (2 ^ (f.bits - 1) ≤ w % 2 ^ f.bits)
  let ex := mag / 2 ^ (f.prec - 1)
  let man := mag % 2 ^ (f.prec - 1)
  match f.infBits with
  | some i => if mag > i then .nan else if mag = i then .inf neg
    else if ex = 0 then .num neg man f.qmin
    else .num neg (2 ^ (f.prec - 1) + man) (f.qmin + ex - 1)
  | none => if mag = f.nanBits then .nan
    else if ex = 0 then .num neg man f.qmin
    else .num neg (2 ^ (f.prec - 1) + man) (f.qmin + ex - 1)

/-- Read an FP32 word. -/
def f32 (w : Nat) : Fp := fpRead fp32 w

def Fp.isFinite : Fp → Bool
  | .num _ _ _ => true
  | _ => false

/-- The exact value of a finite datum; 0 for the others. -/
def Fp.exact : Fp → Exact
  | .num neg m e => .dy (if neg then -(m : Int) else m) e
  | _ => .dy 0 0

/-- The sign bit of a format. -/
def signBit (f : FpFmt) (neg : Bool) : Nat := if neg then 2 ^ (f.bits - 1) else 0

/-- Round an exact value once into a format (R47); `nsat` selects non-saturating FP8 conversion (R72). A zero
has the sign `zneg`. -/
def fpWrite (f : FpFmt) (r : Rnd) (nsat zneg : Bool) (x : Exact) : Nat :=
  if x.n = 0 then signBit f zneg
  else
    let neg := decide (x.n < 0)
    let l := max (x.log2 - (f.prec - 1 : Int)) f.qmin
    let mag := (l - f.qmin).toNat * 2 ^ (f.prec - 1) + (x.round r l).natAbs
    if mag > f.maxFin then
      match f.infBits with
      | some i => if f.bits = 8 ∧ !nsat then signBit f neg + f.maxFin else signBit f neg + i
      | none => if nsat then f.nanBits else signBit f neg + f.maxFin
    else signBit f neg + mag

/-- Round to FP32 in RNE. -/
def toF32 (x : Exact) : Nat := fpWrite fp32 .rne false false x
def nan32 : Nat := 0x7FC00000
def inf32 (neg : Bool) : Nat := if neg then 0xFF800000 else 0x7F800000

def Exact.neg (x : Exact) : Exact := ⟨-x.n, x.d, x.e⟩
def Exact.mul (x y : Exact) : Exact := ⟨x.n * y.n, x.d * y.d, x.e + y.e⟩
def Exact.add (x y : Exact) : Exact :=
  let e := min x.e y.e
  ⟨x.n * 2 ^ (x.e - e).toNat * y.d + y.n * 2 ^ (y.e - e).toNat * x.d, x.d * y.d, e⟩
/-- x / y for y not 0. -/
def Exact.div (x y : Exact) : Exact :=
  ⟨x.n * y.d * (if y.n < 0 then -1 else 1), x.d * y.n.natAbs, x.e - y.e⟩
/-- x ≤ y. -/
def Exact.le (x y : Exact) : Bool := decide (0 ≤ (y.add x.neg).n)
def Exact.lt (x y : Exact) : Bool := decide (0 < (y.add x.neg).n)

def Fp.neg? : Fp → Bool
  | .num n _ _ => n
  | .inf n => n
  | .nan => false

def Fp.isZero : Fp → Bool
  | .num _ m _ => decide (m = 0)
  | _ => false

/-- FP32 product plus addend, rounded once, RNE, with IEEE 754 special cases (R70). -/
def fma32 (a b c : Nat) : Nat :=
  match f32 a, f32 b, f32 c with
  | .nan, _, _ => nan32
  | _, .nan, _ => nan32
  | _, _, .nan => nan32
  | x, y, z =>
    let pneg := x.neg? != y.neg?
    if !x.isFinite || !y.isFinite then
      if x.isZero || y.isZero then nan32
      else match z with
        | .inf n => if n == pneg then inf32 pneg else nan32
        | _ => inf32 pneg
    else match z with
      | .inf n => inf32 n
      | _ =>
        let p := x.exact.mul y.exact
        let t := p.add z.exact
        let zneg := if p.n = 0 ∧ z.isZero then pneg && z.neg? else false
        fpWrite fp32 .rne false zneg t

/-- FP32 sum, RNE. -/
def add32 (a b : Nat) : Nat := fma32 a 0x3F800000 b
/-- FP32 difference, RNE. -/
def sub32 (a b : Nat) : Nat := add32 a (b ^^^ 0x80000000)
/-- FP32 product, RNE. -/
def mul32 (a b : Nat) : Nat :=
  match f32 a, f32 b with
  | .nan, _ => nan32
  | _, .nan => nan32
  | x, y =>
    let pneg := x.neg? != y.neg?
    if !x.isFinite || !y.isFinite then (if x.isZero || y.isZero then nan32 else inf32 pneg)
    else fpWrite fp32 .rne false pneg (x.exact.mul y.exact)
/-- FP32 quotient, RNE. -/
def div32 (a b : Nat) : Nat :=
  match f32 a, f32 b with
  | .nan, _ => nan32
  | _, .nan => nan32
  | .inf n, y => if y.isFinite then inf32 (n != y.neg?) else nan32
  | x, .inf n => signBit fp32 (x.neg? != n)
  | x, y =>
    let neg := x.neg? != y.neg?
    if y.isZero then (if x.isZero then nan32 else inf32 neg)
    else fpWrite fp32 .rne false neg (x.exact.div y.exact)

/-- floor(sqrt(n)) by bits: `k` more bits to find below the root `r`. -/
def isqrtGo (n : Nat) : Nat → Nat → Nat
  | 0, r => r
  | k + 1, r => if (r + 2 ^ k) * (r + 2 ^ k) ≤ n then isqrtGo n k (r + 2 ^ k) else isqrtGo n k r

/-- A dyadic value whose rounding to FP32 is that of the square root of m × 2^e: the root to 64 bits, with a
sticky bit below. -/
def sqrtExact (m : Nat) (e : Int) : Exact :=
  let e2 := if e % 2 = 0 then e - 128 else e - 129
  let n := m * 2 ^ (e - e2).toNat
  let r := isqrtGo n (Nat.log2 n / 2 + 1) 0
  ⟨2 * r + (if r * r = n then 0 else 1), 1, e2 / 2 - 1⟩

/-- FP32 square root, RNE. -/
def sqrt32 (a : Nat) : Nat :=
  match f32 a with
  | .nan => nan32
  | .inf neg => if neg then nan32 else inf32 false
  | .num neg m e => if m = 0 then signBit fp32 neg else if neg then nan32 else toF32 (sqrtExact m e)

/-- The order of finite or infinite FP32 data: a < b. -/
def lt32 (a b : Nat) : Bool :=
  match f32 a, f32 b with
  | .nan, _ => false
  | _, .nan => false
  | .inf n, .inf n' => n && !n'
  | .inf n, _ => n
  | _, .inf n => !n
  | x, y => x.exact.lt y.exact

/-! ### Choosing a block exponent (R61) -/

/-- An input of a block: an exact finite value, or none for a non-finite one; and its draw. -/
abbrev BlockIn := Option Exact × Rnd

/-- The largest magnitude exponent floor(log2 m) among the finite nonzero inputs. -/
def maxLog2 (xs : List BlockIn) : Option Int :=
  xs.foldl (fun acc x => match x.1 with
    | some v => if v.n = 0 then acc else some (match acc with | some a => max a v.log2 | none => v.log2)
    | none => acc) none

/-- Round every finite input at exponent e. -/
def roundAll (xs : List BlockIn) (e : Int) : List (Option Int) :=
  xs.map fun x => x.1.map fun v => v.round x.2 e

/-- The rule of R61: exponent field and mantissas, none for a poisoned element; at most `fuel` rounds of the
repetition at e = 127. -/
def blockRule (w : Nat) : Nat → List BlockIn → Nat × List (Option Int)
  | 0, xs => (254, xs.map fun _ => none)
  | fuel + 1, xs =>
    let top : Int := 2 ^ (w - 1)
    let e := min 127 (match maxLog2 xs with
      | none => -127
      | some l => max (-127) (l - (w - 2 : Int)))
    let q := roundAll xs e
    let raise := decide (e < 127) && q.any fun v => v == some top
    let e := if raise then e + 1 else e
    let q := if raise then roundAll xs e else q
    let out (v : Option Int) : Bool := match v with
      | some i => decide (i < -top) || decide (i > top - 1)
      | none => false
    if e = 127 ∧ q.any out then
      blockRule w fuel ((xs.zip q).map fun p => if out p.2 then (none, p.1.2) else p.1)
    else ((e + 127).toNat, q)

/-- The rule with as many repetitions as inputs can be poisoned. -/
def blockChoose (w : Nat) (xs : List BlockIn) : Nat × List (Option Int) := blockRule w (xs.length + 1) xs

/-! ### Two's complement fields -/

/-- The low `n` bits of an integer. -/
def twos (n : Nat) (v : Int) : Nat := (v % (2 ^ n : Int)).toNat
/-- Sixteen-bit little-endian bytes of an integer. -/
def le16 (v : Int) : List Byte := leBytes 2 (twos 16 v)

/-! ### BW16 blocks (R62 to R66) -/

/-- A BW16 block as read: values, none for a poisoned element. -/
structure Bw where
  exp : Nat
  flags : Nat
  overrange : Nat
  vals : List (Option Int)
  deriving DecidableEq, Repr

def byteAt (bs : List Byte) (i : Nat) : Nat := (bs.getD i 0).toNat
def natAt (bs : List Byte) (i n : Nat) : Nat := leNat ((bs.drop i).take n)

/-- Read the elements from `i` on, with the next extension lane at `x` (R64, R65). -/
def bwElems (bs : List Byte) (poison esc : Nat) : Nat → Nat → Nat → List (Option Int)
  | 0, _, _ => []
  | n + 1, i, x =>
    let m := natAt bs (24 + 2 * i) 2
    let e := esc.testBit i
    let v := if poison.testBit i then none
      else if e then some (sext 32 (natAt bs x 2 * 65536 + m)) else some (sext 16 m)
    v :: bwElems bs poison esc n (i + 1) (if e then x + 2 else x)

/-- Read a BW16 block from its slot. -/
def bwRead (bs : List Byte) : Bw :=
  ⟨byteAt bs 0, byteAt bs 1, natAt bs 2 2, bwElems bs (natAt bs 8 8) (natAt bs 16 8) 64 0 152⟩

/-- FLAGS of a valid block (R63). -/
def bwFlagsOk (flags : Nat) : Bool := decide (flags < 3)

/-- The mask of the elements that `p` accepts. -/
def maskOf {α : Type} (p : α → Bool) : List α → Nat
  | [] => 0
  | x :: xs => (if p x then 1 else 0) + 2 * maskOf p xs

def isEscape (v : Option Int) : Bool := match v with
  | some i => decide (i < -32768) || decide (i > 32767)
  | none => false

/-- A value outside the 32-bit range, which no element can hold (R66). -/
def outOf32 (v : Option Int) : Bool := match v with
  | some i => decide (i < -2147483648) || decide (i > 2147483647)
  | none => false

/-- The exponent field of a block the device forms: never 0xFF (R46). Where 0xFF was read, everything under it is poisoned
and the field written is open (log entry 102). -/
def expOut (e : Nat) : Nat := if e = 255 then min 254 Config.poisonedExp.toNat else e

/-- Write a BW16 block at its own length (R62, R65): values within the 32-bit range. -/
def bwWrite (exp kind overrange : Nat) (vals : List (Option Int)) : List Byte :=
  leBytes 1 exp ++ leBytes 1 kind ++ leBytes 2 overrange ++ leBytes 4 0 ++
  leBytes 8 (maskOf Option.isNone vals) ++ leBytes 8 (maskOf isEscape vals) ++
  (vals.flatMap fun v => le16 (v.getD 0)) ++
  ((vals.filter isEscape).flatMap fun v => leBytes 2 (twos 32 (v.getD 0) / 65536))

/-- Length of the BW16 block that starts a list of bytes (R62). -/
def bwLen (bs : List Byte) : Nat :=
  152 + 2 * ((List.range 64).filter fun i => (natAt bs 16 8).testBit i).length

/-- The block a poisoned slot is sent as (R383). -/
def bwPoisoned (bs : List Byte) : List Byte :=
  bwWrite (byteAt bs 0) 0 (natAt bs 2 2) (List.replicate 64 none)

/-! ### Reduction accumulation blocks (R67 to R69, R378, R379) -/

/-- A reduction accumulation block as read; lanes keep their bits when poisoned. -/
structure Rab where
  exp : Nat
  exceeded : Bool
  count : Nat
  overrange : Nat
  poison : Nat
  lanes : List Int
  deriving DecidableEq, Repr

def rabRead (bs : List Byte) : Rab :=
  ⟨byteAt bs 0, decide (byteAt bs 1 % 2 = 1), natAt bs 4 4, natAt bs 8 4, natAt bs 16 8,
    (List.range 64).map fun i => sext 48 (natAt bs (32 + 6 * i) 6)⟩

def rabWrite (b : Rab) : List Byte :=
  leBytes 1 b.exp ++ leBytes 1 (if b.exceeded then 1 else 0) ++ leBytes 2 0 ++ leBytes 4 b.count ++
  leBytes 4 b.overrange ++ leBytes 4 0 ++ leBytes 8 b.poison ++ leBytes 8 0 ++
  b.lanes.flatMap fun l => leBytes 6 (twos 48 l)

def rabZero : Rab := ⟨0, false, 0, 0, 0, List.replicate 64 0⟩

/-- Lane i is poisoned: by its bit, or under an exponent field of 0xFF (R46). -/
def Rab.pz (b : Rab) (i : Nat) : Bool := decide (b.exp = 255) || b.poison.testBit i

/-- The value of lane i, none where it is poisoned. -/
def Rab.lane (b : Rab) (i : Nat) : Option Int := if b.pz i then none else some (b.lanes.getD i 0)

/-- The exponents of a block and of what arrives do not agree (R378 row 1). -/
def rabMismatch (b : Rab) (w : Bw) : Bool := decide (w.exp = 255) || (decide (1 ≤ b.count) && decide (w.exp ≠ b.exp))

/-- Lane i after V is added to L: the exact sum, or an open value once COUNT_EXCEEDED leaves no guarantee, or where 48 bits do
not hold the sum (R68; log entry 28). -/
def rabSum (exceeded : Bool) (i : Nat) (l v : Int) : Int :=
  if !exceeded && decide (-(2 ^ 47) ≤ l + v) && decide (l + v < 2 ^ 47) then l + v
  else sext 48 (twos 48 (Config.rabLane i l v))

/-- An addition at the owner (R68, R378). -/
def rabAdd (b : Rab) (w : Bw) : Rab :=
  let sumOver := min (b.overrange + w.overrange) 0xFFFFFFFF
  let cnt := min (b.count + 1) 0xFFFFFFFF
  let exceeded := b.exceeded || decide (cnt > 65536)
  if rabMismatch b w then
    { b with poison := 2 ^ 64 - 1, lanes := List.replicate 64 0, overrange := sumOver, count := cnt, exceeded := exceeded }
  else
    let poison := b.poison ||| maskOf Option.isNone w.vals
    { exp := if b.count = 0 then w.exp else b.exp, exceeded := exceeded, count := cnt, overrange := sumOver
      poison := poison
      lanes := (List.range 64).map fun i =>
        if poison.testBit i then 0
        else rabSum exceeded i (b.lanes.getD i 0) ((w.vals.getD i none).getD 0) }

/-- A pack (R390): the BW16 block, how many elements escaped, and whether a lane left the 32-bit range. -/
def rabPack (b : Rab) (allPoison : Bool) : List Byte × Nat × Bool :=
  let raw := (List.range 64).map fun i => if allPoison then none else b.lane i
  let bad := (raw.filter outOf32).length
  let vals := raw.map fun v => if outOf32 v then none else v
  let esc := (vals.filter isEscape).length
  (bwWrite (expOut b.exp) 1 (min (b.overrange + esc + bad) 0xFFFF) vals, esc, decide (0 < bad))

/-! ### Largest magnitudes (R377) -/

/-- Round a non-negative exact value toward +∞ into FP32. -/
def toF32Up (x : Exact) : Nat :=
  if x.n = 0 then 0
  else
    let l := max (x.log2 - 23) (-149)
    let f := x.scaledBy l
    let q := -((-f.1) / (f.2 : Int))
    let mag := (l + 149).toNat * 2 ^ 23 + q.natAbs
    if mag > 0x7F7FFFFF then 0x7F800000 else mag

end Sys2Proof.Machine
end

