-- ==== Sys2Proof/Machine/Crypto.lean ====
section
/-! DEFINITION. Crypto: the published algorithms that the manual names: GF(2^8) arithmetic (R440), CRC-32C
(R284), AES-256 with its XTS (R337), key-wrap (R338, R423) and GCM (R420) modes. Bytes are Nats below 256. -/

namespace Sys2Proof.Machine

/-! ### GF(2^8) -/

/-- Double an element (a byte) of GF(2^8) under polynomial `p`. -/
def gfDbl (p a : Nat) : Nat := (2 * a) ^^^ (p * (a / 128))

/-- Product in GF(2^8), taking `n` bits of `b` from its top. -/
def gfMulN (p a b : Nat) : Nat → Nat
  | 0 => 0
  | n + 1 => gfDbl p (gfMulN p a (b / 2) n) ^^^ (a * (b % 2))

/-- Product in GF(2^8) under the field polynomial `p` (R440). -/
def gfMul (p a b : Nat) : Nat := gfMulN p a b 8

/-! ### CRC-32C (R284) -/

/-- Eight steps, by the reflected polynomial `p`, of the division that a CRC makes. -/
def crcByte (p c : Nat) : Nat → Nat
  | 0 => c
  | n + 1 => crcByte p (if c % 2 = 1 then (c / 2) ^^^ p else c / 2) n

/-- A 32-bit CRC of a list of bytes: all ones in, all ones XORed out. -/
def crc32Of (p : Nat) (bs : List Nat) : Nat := (bs.foldl (fun c b => crcByte p (c ^^^ b) 8) 0xFFFFFFFF) ^^^ 0xFFFFFFFF

/-- CRC-32C of a list of bytes: reflected polynomial 0x82F6_3B78, all ones in, all ones XORed out. -/
def crc32c (bs : List Nat) : Nat := crc32Of 0x82F63B78 bs

/-- CRC-32 of Ethernet, which the ICRC of RoCEv2 uses (R406). -/
def crc32 (bs : List Nat) : Nat := crc32Of 0xEDB88320 bs

/-! ### AES-256 (FIPS 197) -/

/-- Figure 7 of FIPS 197, the S-box: row x has the values of bytes 16 x to 16 x + 15, byte 16 x lowest. -/
def sboxRows : List Nat :=
  [0x76abd7fe2b670130c56f6bf27b777c63, 0xc072a49cafa2d4adf04759fa7dc982ca,
   0x1531d871f1e5a534ccf73f362693fdb7, 0x75b227ebe28012079a059618c323c704,
   0x842fe329b3d63b52a05a6e1b1a2c8309, 0xcf584c4a39becb6a5bb1fc20ed00d153,
   0xa89f3c507f02f94585334d43fbaaefd0, 0xd2f3ff1021dab6bcf5389d928f40a351,
   0x73195d643d7ea7c41744975fec130ccd, 0xdb0b5ede14b8ee4688902a22dc4f8160,
   0x79e4959162acd3c25c2406490a3a32e0, 0x08ae7a65eaf4566ca94ed58d6d37c8e7,
   0x8a8bbd4b1f74dde8c6b4a61c2e2578ba, 0x9e1dc186b95735610ef6034866b53e70,
   0xdf2855cee9871e9b948ed9691198f8e1, 0x16bb54b00f2d99416842e6bf0d89a18c]

/-- The AES S-box. -/
def sboxOf (a : Nat) : Nat := sboxRows.getD (a / 16) 0 / 2 ^ (8 * (a % 16)) % 256

/-- Figure 14 of FIPS 197, the inverse S-box, laid out as `sboxRows`. -/
def invSboxRows : List Nat :=
  [0xfbd7f3819ea340bf38a53630d56a0952, 0xcbe9dec444438e3487ff2f9b8239e37c,
   0x4ec3fa420b954cee3d23c2a632947b54, 0x25d18b6d49a25b76b224d92866a12e08,
   0x92b6655dcc5ca4d41698688664f6f872, 0x849d8da75746155edab9edfd5048706c,
   0x0645b3b80558e4f70ad3bc8c00abd890, 0x6b8a130103bdafc1020f3fca8f1e2cd0,
   0x73e6b4f0cecff297eadc674f4111913a, 0x6edf751ce837f9e28535ade72274ac96,
   0x1bbe18aa0e62b76f89c5291d711af147, 0xf45acd78fec0db9a2079d2c64b3e56fc,
   0x5fec8027591012b131c7078833a8dd1f, 0xef9cc9939f7ae52d0d4ab519a97f5160,
   0x619953833cbbebc8b0f52aae4d3be0a0, 0x7d0c2155631469e126d677ba7e042b17]

/-- The inverse S-box. -/
def invSboxOf (a : Nat) : Nat := invSboxRows.getD (a / 16) 0 / 2 ^ (8 * (a % 16)) % 256

def xorL : List Nat → List Nat → List Nat := List.zipWith (· ^^^ ·)

/-- Key expansion of AES-256: the 60 words of the schedule from the last eight, oldest first. -/
def aesExpand : Nat → Nat → Nat → List (List Nat) → List (List Nat)
  | 0, _, _, ws => ws
  | n + 1, i, rcon, ws =>
    let prev := (ws.getLast?).getD []
    let old := ws.getD (i - 8) []
    let t :=
      if i % 8 = 0 then
        match prev with
        | [a, b, c, d] => [sboxOf b ^^^ rcon, sboxOf c, sboxOf d, sboxOf a]
        | l => l
      else if i % 8 = 4 then prev.map sboxOf
      else prev
    aesExpand n (i + 1) (if i % 8 = 0 then gfDbl 0x11B rcon else rcon) (ws ++ [xorL old t])

/-- Cut a list into pieces of `n`, at most `k` pieces. -/
def chunksOf (n : Nat) : Nat → List Nat → List (List Nat)
  | 0, _ => []
  | k + 1, l => l.take n :: chunksOf n k (l.drop n)

/-- The 15 round keys of a 32-byte key. -/
def aesKeys (key : List Nat) : List (List Nat) :=
  (chunksOf 16 15 ((aesExpand 52 8 1 (chunksOf 4 8 key)).flatten))

/-- Byte i of the state after ShiftRows comes from byte `shiftSrc i`. -/
def shiftSrc (i : Nat) : Nat := (i + 4 * (i % 4)) % 16
def invShiftSrc (i : Nat) : Nat := (i + 12 * (i % 4)) % 16

def permute (f : Nat → Nat) (st : List Nat) : List Nat := (List.range 16).map fun i => st.getD (f i) 0

/-- A byte times a coefficient below 16, in the field of AES. -/
def mixMul (k b : Nat) : Nat := gfMulN 0x11B b k 4

/-- MixColumns with the circulant coefficients `k`. -/
def mixWith (k : List Nat) (st : List Nat) : List Nat :=
  (List.range 16).map fun i =>
    (List.range 4).foldl
      (fun acc j => acc ^^^ mixMul (k.getD ((4 + j - i % 4) % 4) 0) (st.getD (4 * (i / 4) + j) 0)) 0

/-- AES-256 encryption of a 16-byte block. -/
def aesEnc (key blk : List Nat) : List Nat :=
  let ks := aesKeys key
  let s0 := xorL blk (ks.getD 0 [])
  let s13 := (List.range 13).foldl
    (fun st r => xorL (mixWith [2, 3, 1, 1] (permute shiftSrc (st.map sboxOf))) (ks.getD (r + 1) [])) s0
  xorL (permute shiftSrc (s13.map sboxOf)) (ks.getD 14 [])

/-- AES-256 decryption of a 16-byte block. -/
def aesDec (key blk : List Nat) : List Nat :=
  let ks := aesKeys key
  let s0 := xorL blk (ks.getD 14 [])
  let s13 := (List.range 13).foldl
    (fun st r =>
      mixWith [14, 11, 13, 9] (xorL ((permute invShiftSrc st).map invSboxOf) (ks.getD (13 - r) []))) s0
  xorL ((permute invShiftSrc s13).map invSboxOf) (ks.getD 0 [])

/-- The bytes of a number, little-endian. -/
def natLe : Nat → Nat → List Nat
  | 0, _ => []
  | n + 1, v => v % 256 :: natLe n (v / 256)
def leVal : List Nat → Nat
  | [] => 0
  | b :: bs => b + 256 * leVal bs
/-- The bytes of a number, big-endian. -/
def natBe (n v : Nat) : List Nat := (natLe n v).reverse
def beVal (l : List Nat) : Nat := leVal l.reverse

/-! ### XTS-AES-256 on a 64-byte line (IEEE 1619, R337) -/

/-- Multiply the tweak by the primitive element of GF(2^128). -/
def xtsNext (t : Nat) : Nat := if 2 * t < 2 ^ 128 then 2 * t else (2 * t) % 2 ^ 128 ^^^ 0x87

/-- One data unit of 64 bytes: `enc` encrypts, `key` is the 64-byte key, `line` the line number. -/
def xtsLine (enc : Bool) (key : List Nat) (line : Nat) (data : List Nat) : List Nat :=
  let k1 := key.take 32
  let t0 := leVal (aesEnc (key.drop 32) (natLe 16 line))
  let go := fun (t : Nat) (blk : List Nat) =>
    xorL (if enc then aesEnc k1 (xorL blk (natLe 16 t)) else aesDec k1 (xorL blk (natLe 16 t))) (natLe 16 t)
  let t1 := xtsNext t0
  let t2 := xtsNext t1
  let t3 := xtsNext t2
  go t0 (data.take 16) ++ go t1 ((data.drop 16).take 16) ++ go t2 ((data.drop 32).take 16)
    ++ go t3 ((data.drop 48).take 16)

/-! ### AES key wrap (RFC 3394) -/

/-- One unwrap step at count `t` on register `i` (from 1). -/
def kwStep (kek : List Nat) (n : Nat) (st : List Nat × List (List Nat)) (t : Nat) : List Nat × List (List Nat) :=
  let i := (t - 1) % n
  let b := aesDec kek (xorL st.1 (natBe 8 t) ++ st.2.getD i [])
  (b.take 8, st.2.set i (b.drop 8))

/-- Unwrap under `kek`: the key bytes, or none where the integrity check fails. -/
def kwUnwrap (kek wrapped : List Nat) : Option (List Nat) :=
  let n := wrapped.length / 8 - 1
  let r := ((List.range (6 * n)).map fun j => 6 * n - j).foldl (kwStep kek n)
    (wrapped.take 8, chunksOf 8 n (wrapped.drop 8))
  if r.1 = List.replicate 8 0xA6 then some r.2.flatten else none

/-! ### AES-256-GCM (NIST SP 800-38D) -/

/-- Product in GF(2^128) of GCM: `n` bits of `x` from its top bit on, `v` the shifted other factor. -/
def ghMul : Nat → Nat → Nat → Nat → Nat
  | 0, _, _, z => z
  | n + 1, x, v, z =>
    ghMul n x (if v % 2 = 1 then (v / 2) ^^^ (0xE1 * 2 ^ 120) else v / 2)
      (if (x / 2 ^ n) % 2 = 1 then z ^^^ v else z)

def pad16 (l : List Nat) : List Nat := l ++ List.replicate ((16 - l.length % 16) % 16) 0

/-- GHASH over whole 16-byte blocks. -/
def ghash (h : Nat) (l : List Nat) : Nat :=
  (chunksOf 16 (l.length / 16) l).foldl (fun y b => ghMul 128 (y ^^^ beVal b) h 0) 0

/-- The key stream of `n` blocks from counter `c`. -/
def gcmStream (key iv : List Nat) : Nat → Nat → List Nat
  | 0, _ => []
  | n + 1, c => aesEnc key (iv ++ natBe 4 c) ++ gcmStream key iv n (c + 1)

/-- Encrypt or decrypt with the counter stream of a 12-byte IV. -/
def gcmCrypt (key iv data : List Nat) : List Nat :=
  xorL data (gcmStream key iv ((data.length + 15) / 16) 2)

/-- The 16-byte tag over the additional data and the ciphertext. -/
def gcmTag (key iv aad ct : List Nat) : List Nat :=
  let h := beVal (aesEnc key (List.replicate 16 0))
  let s := ghash h (pad16 aad ++ pad16 ct ++ natBe 8 (8 * aad.length) ++ natBe 8 (8 * ct.length))
  xorL (natBe 16 s) (aesEnc key (iv ++ natBe 4 1))

end Sys2Proof.Machine
end

