-- ==== Sys2Proof/Machine/Mem.lean ====
section
/-! DEFINITION. Mem: the memories behind the address map: partitions (R37 to R40), backing (R30 to R36, R318),
TORN regions (R331), near-memory and far-memory access (R315, R335 to R339). -/

namespace Sys2Proof.Machine

/-! ### Access to the units of the state -/

def State.memc (s : State) (k : Stack) : MemState := s.mems.get k
def State.modMem (s : State) (k : Stack) (f : MemState → MemState) : State :=
  { s with mems := s.mems.set k (f (s.memc k)) }
def State.farc (s : State) (l : LinkId) : FarState := s.fars.get l
def State.modFar (s : State) (l : LinkId) (f : FarState → FarState) : State :=
  { s with fars := s.fars.set l (f (s.farc l)) }
def State.cdie (s : State) (d : CDie) : CDieState := s.cdies.get d
def State.modCDie (s : State) (d : CDie) (f : CDieState → CDieState) : State :=
  { s with cdies := s.cdies.set d (f (s.cdie d)) }
def State.net (s : State) (x : IoDie) : NetState := s.nets.get x
def State.modNet (s : State) (x : IoDie) (f : NetState → NetState) : State :=
  { s with nets := s.nets.set x (f (s.net x)) }

/-- The compute die of a course as a compute die. -/
def courseCDie (g : Course) : CDie := ⟨g.val / 8, by omega⟩
/-- The die of a near-memory controller (R18). -/
def stackDie (k : Stack) : Die := ⟨k.val / 2, by omega⟩
/-- The I/O die of a CXL link (R17). -/
def linkDie (l : LinkId) : Die := ⟨4 + l.val / 4, by omega⟩
def ioDie (x : IoDie) : Die := ⟨4 + x.val, by omega⟩

/-- BAR0 offset of a register of a far-memory controller. -/
def fr (l : LinkId) (o : Nat) : Nat := (Blk.far l).base + o
/-- BAR0 offset of a register of the package-wide block. -/
def pr (o : Nat) : Nat := Blk.pkg.base + o

/-- A report of near-memory controller `k` (R583). -/
def State.raiseMem (s : State) (k : Stack) (code : BitVec 16) (info : Option DWord) : State :=
  s.raiseWith (stackDie k) (plainReport code 0x0A (BitVec.ofNat 8 (k.val % 2)) 0xF) info

/-- A report of far-memory controller `l` (R583). -/
def State.raiseFar (s : State) (l : LinkId) (code : BitVec 16) (info : Option DWord) : State :=
  s.raiseWith (linkDie l) (plainReport code 0x0F (BitVec.ofNat 8 (l.val % 4)) 0xF) info

/-! ### Modes and partitions (R37 to R42) -/

/-- Partitioned mode: BOOT_STATUS.MODE (R37, R559). -/
def State.parted (s : State) : Bool := (s.reg (pr 0)).getLsbD 10

/-- CXL links of partition d, in increasing order (R38). -/
def partLink (d : Nat) : Nat :=
  match d with
  | 0 => 0
  | 1 => 4
  | 2 => 2
  | _ => 6

/-- The partition that a stack belongs to, and a link (R38). -/
def linkPart (l : Nat) : Nat :=
  match l / 2 with
  | 0 => 0
  | 1 => 2
  | 2 => 1
  | _ => 3

/-- A device physical address for an address of compute die `d`'s map: the same address in whole-package
mode, and in partitioned mode the address that R39 gives it, or none. -/
def State.physOf (s : State) (d : Nat) (a : Nat) : Option Nat :=
  if s.parted then
    if a < 0x2000000000 then some (d * 0x2000000000 + a)
    else if farBase ≤ a ∧ a < farBase + 0x10000000000 then some (a + partLink d * 0x8000000000)
    else if sramBase ≤ a ∧ a < sramBase + 0x10000000 then some (a + d * 0x10000000)
    else if hostBase ≤ a then some a
    else none
  else some a

/-- The address of die `d`'s map that a device physical address has; the inverse of `physOf`. -/
def State.viewOf (s : State) (d : Nat) (a : Nat) : Nat :=
  if s.parted then
    if a < nearEnd then a - d * 0x2000000000
    else if a < sramBase then a - partLink d * 0x8000000000
    else if a < hostBase then a - d * 0x10000000
    else a
  else a

/-! ### Regions (R29 to R36) -/

/-- The region of R29 that an address lies in. -/
inductive Region where
  | near (k : Stack)
  | far (l : LinkId)
  | sram (g : Course)
  | regs
  | host
  | none
  deriving DecidableEq, Repr

def regionOf (a : Nat) : Region :=
  if h : a < nearEnd then .near ⟨a / 0x1000000000, by
    have : nearEnd = 8 * 0x1000000000 := rfl
    omega⟩
  else if h : farBase ≤ a ∧ a < farBase + 0x40000000000 then .far ⟨(a - farBase) / 0x8000000000, by
    have : farBase = 0x10000000000 := rfl
    omega⟩
  else if h : sramBase ≤ a ∧ a < sramBase + 0x40000000 then .sram ⟨(a - sramBase) / 0x2000000, by omega⟩
  else if regBase ≤ a ∧ a < regBase + 0x20000000 then .regs
  else if hostBase ≤ a ∧ a < 0x1000000000000 then .host
  else .none

/-- Bytes of a stack that are backed: 64 GiB less 2 GiB for each retirement at or past GO (R318, R319);
none where boot left the stack unbacked (R540). -/
def State.stackBytes (s : State) (k : Stack) : Nat :=
  if (s.memc k).backed then 0x1000000000 - (s.memc k).removed * 0x80000000 else 0

/-- Bytes backed in a link's window (R31, R335). -/
def State.linkBytes (s : State) (l : LinkId) : Nat :=
  if (s.reg (fr l 0)).getLsbD 7 then (s.reg64 (fr l 8)).toNat else 0

/-- The `n` bytes from `a` lie in one stack and are backed (R35, R36). -/
def State.nearOk (s : State) (a n : Nat) : Bool :=
  match regionOf a with
  | .near k => decide (a % 0x1000000000 + n ≤ s.stackBytes k)
  | _ => false

/-- The `n` bytes from `a` lie in one far-memory window and are backed. -/
def State.farOk (s : State) (a n : Nat) : Bool :=
  match regionOf a with
  | .far l => decide ((a - farBase) % 0x8000000000 + n ≤ s.linkBytes l)
  | _ => false

/-- The `n` bytes from `a` lie in one staging SRAM slice (R32). -/
def sramOk (a n : Nat) : Bool :=
  match regionOf a with
  | .sram _ => decide ((a - sramBase) % 0x2000000 + n ≤ sliceSize)
  | _ => false

/-- The `n` bytes from `a` are host bus addresses that can be reached (R33). -/
def hostOk (a n : Nat) : Bool :=
  decide (hostBase ≤ a) && decide (a + n ≤ hostBase + 0xE00000000000)

/-- The stack of a near-memory address. -/
def stackOf (a : Nat) : Stack := ⟨a / 0x1000000000 % 8, by omega⟩

/-! ### Near memory: TORN regions and poison (R315, R331) -/

/-- Some TORN region overlaps the `n` bytes from `a` (R331). -/
def State.tornAt (s : State) (a n : Nat) : Bool :=
  (s.memc (stackOf a)).locks.any fun e =>
    match e.2 with
    | some l => l.torn.isSome && decide (l.base < a + n) && decide (a < l.base + l.len)
    | none => false

/-- A read of the `n` bytes returns poisoned data: a poisoned line (R315), or a byte of a TORN region of near
memory (R331). -/
def State.dirty (s : State) (a n : Nat) : Bool :=
  s.anyPoison a n || (decide (a < nearEnd) && s.tornAt a n)

/-- Write bytes and, where the data is poisoned, mark every line written (R255, R315). -/
def State.storeP (s : State) (a : Nat) (bs : List Byte) (poison : Bool) : State :=
  if poison then
    (List.range ((a + bs.length + 63) / 64 - a / 64)).foldl
      (fun t i => t.setPoison (64 * (a / 64 + i)) true) (s.putBytes a bs)
  else s.store a bs

/-! ### Far memory (R335 to R339) -/

/-- An enabled region entry of a link that holds address `a` (R336). -/
def State.farRegion (s : State) (l : LinkId) (a : Nat) : Option (Fin 16) :=
  (List.finRange 16).find? fun i =>
    (s.reg (fr l (0x210 + 0x20 * i.val))).getLsbD 0 &&
      decide ((s.reg64 (fr l (0x200 + 0x20 * i.val))).toNat ≤ a) &&
      decide (a ≤ (s.reg64 (fr l (0x208 + 0x20 * i.val))).toNat + 0x1FFFFF)

/-- How an access to far address `a` is served (R336 to R339): unencrypted, with a key, or not at all. -/
inductive FarMode where
  | plain
  | key (k : List Byte) (prot : Bool)
  | invalid (prot : Bool)
  deriving DecidableEq, Repr

def State.farMode (s : State) (l : LinkId) (a : Nat) : FarMode :=
  match s.farRegion l a with
  | none => .plain
  | some i =>
    let c := s.reg (fr l (0x210 + 0x20 * i.val))
    let prot := c.getLsbD 2
    if prot || c.getLsbD 1 then
      match (s.farc l).keys.get ⟨c.toNat / 16 % 16, by omega⟩ with
      | some k => if prot && !k.prot then .invalid prot else .key k.key prot
      | none => .invalid prot
    else .plain

/-- The media bytes of the attached device: what it was last given, or what it holds (log entry 4). -/
def FarState.media64 (f : FarState) (line : Nat) : List Byte :=
  (List.range 64).map fun i => (SMap.find f.media (64 * line + i)).getD (Config.farByte (64 * line + i))

/-- Give the device the 64 bytes of a line. Every written byte is listed. -/
def FarState.putMedia (f : FarState) (line : Nat) (bs : List Byte) (poison : Bool) : FarState :=
  { f with
    media := (List.range 64).foldl (fun m i => SMap.ins m (64 * line + i) (bs.getD i 0)) f.media
    poison := SMap.put f.poison line poison false }

def toNats (l : List Byte) : List Nat := l.map (·.toNat)
def ofNats (l : List Nat) : List Byte := l.map (BitVec.ofNat 8 ·)

/-- Encrypt or decrypt one line under XTS-AES-256 with the line number as tweak (R337). -/
def farCrypt (enc : Bool) (key : List Byte) (line : Nat) (bs : List Byte) : List Byte :=
  ofNats (xtsLine enc (toNats key) line (toNats bs))

/-- FAR_STATUS.UP: the link is trained and its window backed. -/
def State.farUp (s : State) (l : LinkId) : Bool := (s.reg (fr l 0)).getLsbD 7

/-- Read one line of far memory: its bytes, whether they are poisoned, and the state with the counts and
reports of R335, R338 and R341. The bytes of a line that is not read are open. -/
def State.farReadLine (s : State) (l : LinkId) (line : Nat) : List Byte × Bool × State :=
  let f := s.farc l
  let free := s.freeBytes 64
  if !s.farUp l then (free.1, true, free.2)
  else match s.farMode l (64 * line) with
  | .invalid _ => (free.1, true, free.2.raiseFar l 0x0905 (some (BitVec.ofNat 64 (64 * line))))
  | m =>
    let p := SMap.get f.poison line false
    let raw := f.media64 line
    let data := match m with
      | .key k _ => farCrypt false k line raw
      | _ => raw
    if p then
      (data, true, (s.raiseFar l 0x0903 (some (BitVec.ofNat 64 (64 * line)))).count (fr l 0) 0x20 0x10 1)
    else (data, false, s)

/-- Write part of one line of far memory, bytes `[o, o + bs.length)` of it; `priv` for the writers that R339
admits to a FAR_PROT window. A part of an encrypted line is read, merged and written (R337). A line held in
poisoned form stays poisoned unless all of it is written (log entry 12). -/
def State.farWriteLine (s : State) (l : LinkId) (line o : Nat) (bs : List Byte) (poison priv : Bool) : State :=
  let f := s.farc l
  let addr : DWord := BitVec.ofNat 64 (64 * line)
  let merge (old : List Byte) : List Byte := old.take o ++ bs ++ old.drop (o + bs.length)
  let full := decide (o = 0) && decide (bs.length = 64)
  let p := poison || (!full && SMap.get f.poison line false)
  let drop (code : BitVec 16) : State := (s.raiseFar l code (some addr)).count (fr l 0) 0x20 0x18 1
  if !s.farUp l then s.count (fr l 0) 0x20 0x18 1
  else match s.farMode l (64 * line) with
  | .plain => s.modFar l fun f => f.putMedia line (merge (f.media64 line)) p
  | .invalid prot => if prot && !priv then drop 0x0904 else drop 0x0905
  | .key k prot =>
    if prot && !priv then drop 0x0904
    else s.modFar l fun f =>
      f.putMedia line (farCrypt true k line (merge (farCrypt false k line (f.media64 line)))) p

/-- Read `n` bytes of far memory from `a`, line by line. -/
def State.farRead (s : State) (a : Nat) : Nat → List Byte × Bool × State
  | 0 => ([], false, s)
  | n + 1 =>
    let count := (a + (n + 1) + 63) / 64 - a / 64
    let r := (List.range count).foldl (fun (acc : List Byte × Bool × State) i =>
      let (bs, p, t) := acc
      let (ls, q, t') := t.farReadLine ⟨(a - farBase) / 0x8000000000 % 8, by omega⟩ (a / 64 + i)
      (bs ++ ls, p || q, t')) ([], false, s)
    ((r.1.drop (a % 64)).take (n + 1), r.2.1, r.2.2)

/-- Write bytes to far memory from `a`, line by line. -/
def State.farWrite (s : State) (a : Nat) (bs : List Byte) (poison priv : Bool) : State :=
  (List.range ((a + bs.length + 63) / 64 - a / 64)).foldl (fun t i =>
    let line := a / 64 + i
    let lo := max a (64 * line)
    let hi := min (a + bs.length) (64 * line + 64)
    t.farWriteLine ⟨(a - farBase) / 0x8000000000 % 8, by omega⟩ line (lo - 64 * line)
      ((bs.drop (lo - a)).take (hi - lo)) poison priv) s

/-! ### Reads and writes anywhere a unit may reach -/

/-- Read `n` backed bytes of near memory, staging SRAM or far memory: bytes, poisoned, state. -/
def State.readAny (s : State) (a n : Nat) : List Byte × Bool × State :=
  match regionOf a with
  | .far _ => s.farRead a n
  | _ => (s.bytes a n, s.dirty a n, s)

/-- Write backed bytes of near memory, staging SRAM or far memory. -/
def State.writeAny (s : State) (a : Nat) (bs : List Byte) (poison priv : Bool) : State :=
  match regionOf a with
  | .far _ => s.farWrite a bs poison priv
  | _ => s.storeP a bs poison

/-! ### The mortar fabric (R19, R21, R516) -/

/-- The die at the far end of an edge of a die, and that die's number for the edge (R17, R527). -/
def edgeFar (d e : Nat) : Option (Nat × Nat) :=
  match d, e with
  | 0, 0 => some (1, 0) | 1, 0 => some (0, 0) | 2, 0 => some (3, 0) | 3, 0 => some (2, 0)
  | 0, 1 => some (2, 1) | 2, 1 => some (0, 1) | 1, 1 => some (3, 1) | 3, 1 => some (1, 1)
  | 0, 2 => some (4, 0) | 2, 2 => some (4, 1) | 1, 2 => some (5, 0) | 3, 2 => some (5, 1)
  | 4, 0 => some (0, 2) | 4, 1 => some (2, 2) | 5, 0 => some (1, 2) | 5, 1 => some (3, 2)
  | _, _ => none

/-- The dies that a message from die `a` to die `b` passes, both included (R19). -/
def route (a b : Nat) : List Nat :=
  match a, b with
  | 0, 3 => [0, 1, 3] | 3, 0 => [3, 2, 0] | 1, 2 => [1, 0, 2] | 2, 1 => [2, 3, 1]
  | 4, 1 => [4, 0, 1] | 1, 4 => [1, 0, 4] | 4, 3 => [4, 2, 3] | 3, 4 => [3, 2, 4]
  | 5, 0 => [5, 1, 0] | 0, 5 => [0, 1, 5] | 5, 2 => [5, 3, 2] | 2, 5 => [2, 3, 5]
  | 4, 5 => [4, 0, 1, 5] | 5, 4 => [5, 1, 0, 4]
  | a, b => if a = b then [a] else [a, b]

/-- Lanes set in a mask of 8. -/
def laneCount (m : Nat) : Nat := ((List.range 8).filter fun i => m.testBit i).length

/-- Modules in service of the direction that a die sends on an edge: a module with more than 2 failed lanes has
left service (R516). -/
def State.modules (s : State) (d : Die) (e : Fin 3) : Nat :=
  ((s.die d).tx.get e).toList.countP fun m => decide (laneCount m ≤ 2)

/-- The direction from one die to the next of a route has a module in service. -/
def State.hopUp (s : State) (a b : Nat) : Bool :=
  if h : a < 6 then
    (List.finRange 3).any fun e => decide ((edgeFar a e.val).map (·.1) = some b) && decide (0 < s.modules ⟨a, h⟩ e)
  else false

def hopsUp (s : State) : List Nat → Bool
  | a :: b :: r => s.hopUp a b && hopsUp s (b :: r)
  | _ => true

/-- The die of a unit. -/
def Node.die : Node → Nat
  | .course g => g.val / 8
  | .mem k => k.val / 2
  | .net x => 4 + x.val

/-- The route from a unit to a unit has a module in service on every hop (R19, R516). -/
def State.linked (s : State) (src dst : Node) : Bool := hopsUp s (route src.die dst.die)

/-- A message's route has a module in service on every hop (R516). -/
def State.reachable (s : State) (m : Msg) : Bool := s.linked m.src m.dst

/-- Send a message from a unit to a unit; over an edge that is down it is lost (R516). -/
def State.send (s : State) (src dst : Node) (body : MsgBody) : State :=
  let m : Msg := ⟨src, dst, body⟩
  if s.reachable m then { s with msgs := s.msgs ++ [m] } else s

/-- The first message to `dst` that `p` accepts and that no earlier message of the same source to the same
destination precedes: the message, and the messages left once it is taken (R21). `seen` lists the sources
with an earlier message to `dst`. -/
def takeMsg (dst : Node) (p : MsgBody → Bool) : List Node → List Msg → Option (Msg × List Msg)
  | _, [] => none
  | seen, m :: ms =>
    if m.dst = dst && !seen.contains m.src then
      if p m.body then some (m, ms)
      else (takeMsg dst p (m.src :: seen) ms).map fun r => (r.1, m :: r.2)
    else (takeMsg dst p seen ms).map fun r => (r.1, m :: r.2)

end Sys2Proof.Machine
end

