-- ==== Sys2Proof/Machine/Irq.lean ====
section
/-! DEFINITION. Irq: interrupts (R555), captures of a first event (R161), and the end of a controller wait (R225). -/

namespace Sys2Proof.Machine

/-! ### Parts that cannot run (R41, R466; log entry 90) -/

/-- The die has a clock: a die whose last PLL is lost cannot run (R466). -/
def State.dieRuns (s : State) (d : Die) : Bool := !(s.die d).dead

/-- The course runs: its die does, and in partitioned mode its partition's virtual function is enabled (R41). -/
def State.courseRuns (s : State) (g : Course) : Bool :=
  s.dieRuns (courseDie g) && (!s.parted || s.host.vfEnabled.get ⟨g.val / 8 + 1, by omega⟩)

/-- What a unit of a die does, and what a course does, each only while it runs. -/
def State.ifDie (s : State) (d : Die) (act : State → State) : State := if s.dieRuns d then act s else s
def State.ifCourse (s : State) (g : Course) (act : State → State) : State := if s.courseRuns g then act s else s

/-! ### Interrupts (R555) -/

/-- Vectors in the MSI-X table of a function (R555). -/
def State.vectors (s : State) (fn : Fin 5) : Nat :=
  if s.parted then (if fn.val = 0 then 512 else 384) else (if fn.val = 0 then 2048 else 0)

/-- An MSI-X entry; masked at reset, as the PCIe specification has it (log entry 6). -/
def State.msixEntry (s : State) (fn : Fin 5) (v : Nat) : MsixEntry :=
  SMap.get s.host.msix (2048 * fn.val + v) ⟨0, 0, true⟩

/-- An event on a vector: a message, or, while the vector is masked or the function may send none, its PBA bit. -/
def State.vector (s : State) (fn : Fin 5) (v : Nat) : State :=
  let e := s.msixEntry fn v
  if e.masked || s.host.fnMask.get fn || !(s.host.msixEn.get fn) || !(s.host.bme.get fn) then
    { s with host := { s.host with pba := SMap.put s.host.pba (2048 * fn.val + v) true false } }
  else s.emit (.msix fn e.addr e.data)

/-- An event of a source through a map register (R555, R561). -/
def State.irqMap (s : State) (fn : Fin 5) (mapOff : Nat) : State :=
  let m := (s.reg mapOff).toNat
  if m / 32768 % 2 = 1 ∧ m % 2048 < s.vectors fn then s.vector fn (m % 2048) else s

/-- An interrupt source of the physical function. -/
def State.irqPf (s : State) (src : Nat) : State := s.irqMap 0 (Blk.host.base + 0x1000 + 4 * src)

/-- Interrupt k of a course: 0 completion, 1 fault, 2 stream fault (R555). In partitioned mode it goes to
the die's virtual function while that is enabled. -/
def State.irqCourse (s : State) (g : Course) (k : Nat) : State :=
  if s.parted then
    let fn : Fin 5 := ⟨g.val / 8 + 1, by omega⟩
    if s.host.vfEnabled.get fn then s.irqMap fn (dr (courseDie g) (0x7100 + 4 * (4 * (g.val % 8) + k))) else s
  else s.irqPf (4 * g.val + k)

/-- The error interrupt of a die (R520, R555). -/
def State.irqDie (s : State) (d : Die) : State := s.irqPf (128 + d.val)

/-! ### First-event captures (R161) -/

/-- Capture into an information register whose bit 31 is VALID, and its address pair, while VALID is 0. -/
def State.capture1 (s : State) (infoOff : Nat) (info : Nat) (addrOff : Option Nat) (addr : Nat) : State :=
  if (s.reg infoOff).getLsbD 31 then s
  else
    let t := s.setReg infoOff (BitVec.ofNat 32 (0x80000000 + info))
    match addrOff with
    | some a => t.setReg64 a (BitVec.ofNat 64 addr)
    | none => t

/-! ### Controller waits (R225) -/

/-- A controller wait ends with a status: sD is written, and the controller goes on after the wait. -/
def CourseState.endWait (c : CourseState) (status : Nat) : CourseState :=
  match c.wait with
  | some w => { c.ws w.sd (BitVec.ofNat 64 status) with wait := none, pc := c.pc + 8 }
  | none => c

/-- The outcome of a request of lock.acq goes to its course: it ends the wait of that request, if it is in progress. No row of the
table tells its arrival, so it arrives at once; over an edge that is down it is lost (R516; log entry 85). -/
def State.lockOutcome (s : State) (k : Stack) (g : Course) (id status : Nat) : State :=
  if s.linked (.mem k) (.course g) then
    s.modCourse g fun c => match c.wait with
      | some ⟨_, .lock _ _ i⟩ => if i = id then c.endWait status else c
      | _ => c
  else s

end Sys2Proof.Machine
end

