-- ==== Sys2Proof/Machine/NearMem.lean ====
section
/-! DEFINITION. NearMem: what a near-memory controller does with lines, channels and holds (R309 to R333). -/

namespace Sys2Proof.Machine

/-- BAR0 offset of the block of a near-memory controller. -/
def mbase (k : Stack) : Nat := (Blk.mem k).base

/-! ### Lines and channels (R309 to R317) -/

/-- The quad of a stack offset (R309). -/
def quadOf (o : Nat) : Nat := (o / 256 % 8) ^^^ (o / 524288 % 8) ^^^ (o / 1073741824 % 8)

/-- Where a line lies (R309): its quad, the pseudo-channel used in each of the quad's four channels, and its place in its
256-byte unit. -/
structure LinePlace where
  quad : Nat
  pseudo : Nat
  unitLine : Nat
  deriving DecidableEq, Repr

def placeOf (o : Nat) : LinePlace := ⟨quadOf o, (o / 2048 % 2) ^^^ (o / 4194304 % 2), o / 64 % 4⟩

/-- Channel c is retired, or its migration runs. -/
def State.channelGone (s : State) (k : Stack) (c : Nat) : Bool :=
  (s.reg (mr k 0)).getLsbD c || decide ((s.memc k).cur.map (fun p => (p.1.val, p.2)) = some (c, true))

/-- A channel in service may hold a symbol of the line at offset `o`: it belongs to the line's quad (R309), or a channel of that
quad has lost its symbols to a retirement, and the manual does not say to which healthy channel they moved (R320; log entry 86). -/
def State.holdsLine (s : State) (k : Stack) (c : Fin 32) (o : Nat) : Bool :=
  let q := (placeOf o).quad
  !(s.reg (mr k 0)).getLsbD c.val &&
    (decide (q = c.val / 4) || (List.range 4).any fun i => s.channelGone k (4 * q + i))

/-- Start the retirement of a channel at GO (R319, R320): the window leaves the map. -/
def State.retireGo (s : State) (k : Stack) : State :=
  match (s.memc k).cur with
  | some (c, false) => s.modMem k fun m => { m with removed := m.removed + 1, cur := some (c, true) }
  | _ => s

/-- The next failing channel begins its retirement when none is pending or migrating (R319, R321). -/
def State.retireNext (s : State) (k : Stack) : State :=
  match (s.memc k).cur, (s.memc k).failing with
  | none, c :: cs =>
    let t := s.modMem k fun m => { m with failing := cs, cur := some (c, false) }
    if (s.reg (mr k 4)).getLsbD 0 then t.retireGo k else t
  | _, _ => s

/-- A channel is declared failing (R317): its failure is noted for the boot ledger (R499, R545; log entry 87), and its retirement
begins or waits, or the limit is reached (R318). -/
def State.channelFailing (s : State) (k : Stack) (c : Fin 32) : State :=
  let m := s.memc k
  let known := (s.reg (mr k 0)).getLsbD c.val || m.failing.contains c || m.overLimit.contains c ||
    decide (m.cur.map (·.1) = some c)
  if known then s
  else
    let t := (s.raiseMem k 0x0801 none).failed ⟨k.val / 2, 0x0A, k.val % 2, 0, c.val⟩
    let used := m.removed + m.failing.length + (match m.cur with | some (_, false) => 1 | _ => 0)
    if used ≥ 4 then
      (t.raiseMem k 0x0804 none).modMem k fun m => { m with overLimit := c :: m.overLimit }
    else (t.modMem k fun m => { m with failing := m.failing ++ [c] }).retireNext k

/-- A corrected error (R314, R317): counted, and the line listed for its channel. More than
MEM_CH_THRESHOLD distinct lines make the channel failing. -/
def State.lineCorrected (s : State) (k : Stack) (line : Nat) (c : Fin 32) : State :=
  let t := s.count (mbase k) 0x68 0x38 1
  let t := if (s.memc k).corrected.contains (c.val, line) then t
    else t.modMem k fun m => { m with corrected := (c.val, line) :: m.corrected }
  if ((t.memc k).corrected.filter fun e => e.1 == c.val).length > (t.reg (mr k 0xC)).toNat then
    t.channelFailing k c
  else t

/-- A line found uncorrectable (R314): poisoned, reported, counted and captured, once. -/
def State.lineUncorrectable (s : State) (k : Stack) (line : Nat) (patrol : Bool) : State :=
  let a := k.val * 0x1000000000 + 64 * line
  if s.poisoned a then s
  else
    let t := ((s.setPoison a true).raiseMem k 0x0802 (some (BitVec.ofNat 64 a))).count (mbase k) 0x68 0x40 1
    t.capture1 (mr k 0x88) (if patrol then 1 else 0) (some (mr k 0x80)) a

/-- What an access or a patrol visit finds in a line. -/
def State.lineFound (s : State) (k : Stack) (line : Nat) (e : LineErr) (patrol : Bool) : State :=
  match e with
  | .ok => s
  | .corrected c =>
    if s.holdsLine k c (64 * line) then s.lineCorrected k line c else s
  | .uncorrectable => s.lineUncorrectable k line patrol

/-- A line of the stack is backed. -/
def State.lineBacked (s : State) (k : Stack) (line : Nat) : Bool := decide (64 * line + 64 ≤ s.stackBytes k)

/-- An access to one line of a stack (R314, R315): what the controller finds, then a write of the bytes that
`data` gives (their offset in the line, the bytes, and whether they are poisoned). A write of the whole line
reads nothing of it. A command or address parity error that persists makes its channel failing (R317). -/
def State.memAccess (s : State) (k : Stack) (line : Nat) (data : Option (Nat × List Byte × Bool)) (e : LineErr)
    (parity : Option (Fin 32)) : State :=
  if s.lineBacked k line then
    let a := k.val * 0x1000000000 + 64 * line
    let t := match parity with
      | some c => s.channelFailing k c
      | none => s
    match data with
    | none => t.lineFound k line e false
    | some (o, bs, p) =>
      let w := (bs.take (64 - o % 64))
      if o % 64 = 0 ∧ w.length = 64 then t.storeP a w p
      else (t.lineFound k line e false).storeP (a + o % 64) w p
  else s

/-- A patrol visit (R316); the patrol runs once boot step 8 has written every line (R540). `sweep` marks the first visit of a sweep,
which begins the count of R317 again. -/
def State.patrolVisit (s : State) (k : Stack) (line : Nat) (e : LineErr) (sweep : Bool) : State :=
  if decide (9 ≤ (s.reg (pr 0)).toNat % 16) && s.lineBacked k line then
    let t := if sweep then s.modMem k fun m => { m with corrected := [] } else s
    t.lineFound k line e true
  else s

/-- A write of MEM_RETIRE_CTRL (R319, R321): MODE, and GO for a pending retirement. -/
def State.wrRetireCtrl (s : State) (k : Stack) (v : Word) : State :=
  let t := s.setReg (mr k 4) (v &&& 1)
  if v.getLsbD 1 then t.retireGo k else t

/-- Migration ends (R320): the channel is retired, and the next failing channel begins (R321). -/
def State.migrationDone (s : State) (k : Stack) : State :=
  match (s.memc k).cur with
  | some (c, true) =>
    let t := (s.orReg (mr k 0) (BitVec.ofNat 32 (2 ^ c.val))).raiseMem k 0x0803 none
    (t.modMem k fun m => { m with cur := none }).retireNext k
  | _ => s

/-- MEM_RETIRE_STATUS (R342). -/
def State.retireStatus (s : State) (k : Stack) : Nat :=
  let m := s.memc k
  let retired := m.removed - (match m.cur with | some (_, true) => 1 | _ => 0)
  (match m.cur with
    | some (c, p) => c.val + (if p then 64 else 32)
    | none => 0) + 128 * retired

/-! ### The lock table (R327 to R333) -/

def overlap (b l b' l' : Nat) : Bool := decide (b < b' + l') && decide (b' < b + l)

/-- The test of a request against the table (R329). -/
inductive LockTest where
  | broken | wait | grant
  deriving DecidableEq, Repr

def MemState.lockTest (m : MemState) (ahead : List LockReq) (r : LockReq) : LockTest :=
  let hit (p : LockEntry → Bool) : Bool := m.locks.any fun e =>
    match e.2 with
    | some l => p l && overlap l.base l.len r.base r.len
    | none => false
  if hit (fun l => l.torn.isSome) then .broken
  else if hit (fun l => l.torn.isNone) || ahead.any (fun q => overlap q.base q.len r.base r.len) ||
      decide (m.locks.length ≥ 1024) then .wait
  else .grant

/-- The lowest FREE entry of the table, among the first `n` indices from `i` (log entry 13). -/
def lowestFree (m : SMap (Option LockEntry)) (i : Nat) : Nat → Nat
  | 0 => i
  | n + 1 => if (SMap.find m i).isNone then i else lowestFree m (i + 1) n

/-- Make a HELD entry for a request and end it with EVENT (R329). -/
def State.lockGrant (s : State) (k : Stack) (r : LockReq) : State :=
  let t := s.modMem k fun m => { m with
    locks := SMap.put m.locks (lowestFree m.locks 0 1024) (some ⟨r.base, r.len, r.owner, r.epoch, r.id, none⟩) none }
  (t.count (mbase k) 0x68 0x58 1).lockOutcome k r.owner r.id 0

/-- A lock.acq request reaches the table (R328, R329): granted, BROKEN, or waiting; with T = 0 it is tested
once (R226). -/
def State.lockArrive (s : State) (k : Stack) (r : LockReq) : State :=
  match (s.memc k).lockTest (s.memc k).waiters r with
  | .broken => s.lockOutcome k r.owner r.id 3
  | .grant => s.lockGrant k r
  | .wait =>
    if r.once then s.lockOutcome k r.owner r.id 1
    else s.modMem k fun m => { m with waiters := m.waiters ++ [r] }

/-- The first waiting request, in order of arrival, that the table can grant: those ahead of it, it, and
those behind. -/
def MemState.grantable (m : MemState) : List LockReq → List LockReq → Option (List LockReq × LockReq × List LockReq)
  | _, [] => none
  | ahead, r :: rs =>
    if m.lockTest ahead r = .grant then some (ahead, r, rs) else m.grantable (ahead ++ [r]) rs

/-- A waiting request whose region has become free is granted (R329). -/
def State.lockGrantNext (s : State) (k : Stack) : State :=
  match (s.memc k).grantable [] (s.memc k).waiters with
  | some (ahead, r, rs) => (s.modMem k fun m => { m with waiters := ahead ++ rs }).lockGrant k r
  | none => s

/-- A waiting request of a course reaches T (R226, R333): granted if it can be at that moment, else TIMEOUT. -/
def State.lockTimeout (s : State) (k : Stack) (g : Course) : State :=
  match (s.memc k).waiters.find? (fun r => r.owner == g) with
  | none => s
  | some r =>
    let ahead := (s.memc k).waiters.takeWhile (fun q => q.owner != g)
    let t := s.modMem k fun m => { m with waiters := m.waiters.filter (fun q => q.owner != g) }
    if (s.memc k).lockTest ahead r = .grant then t.lockGrant k r else t.lockOutcome k g r.id 1

/-- Entry `i` becomes TORN: counted and reported, and every waiting request that overlaps it ends BROKEN
(R329, R331). -/
def State.breakEntry (s : State) (k : Stack) (cause : TornCause) (i : Nat) : State :=
  match SMap.get (s.memc k).locks i none with
  | some l =>
    if l.torn.isSome then s
    else
      let hit := (s.memc k).waiters.filter fun r => overlap l.base l.len r.base r.len
      let t := s.modMem k fun m => { m with
        locks := SMap.put m.locks i (some { l with torn := some cause }) none
        waiters := m.waiters.filter fun r => !overlap l.base l.len r.base r.len }
      let t := (t.raiseMem k 0x0805 none).count (mbase k) 0x68 0x60 1
      hit.foldl (fun u r => u.lockOutcome k r.owner r.id 3) t
  | none => s

/-- Every hold of a course in the controller becomes TORN (R331). -/
def State.breakHolds (s : State) (k : Stack) (g : Course) (cause : TornCause) : State :=
  ((s.memc k).locks.filter fun e => match e.2 with
    | some l => l.owner == g
    | none => false).foldl (fun t e => t.breakEntry k cause e.1) s

/-- A lock.rel reaches the table (R330): it frees the matching HELD entry, or raises MEM_LOCK_NOT_HELD. -/
def State.lockRelease (s : State) (k : Stack) (base : Nat) (g : Course) (epoch : BitVec 16) (quiet : Bool) : State :=
  match (s.memc k).locks.find? (fun e => match e.2 with
      | some l => l.base == base && l.owner == g && l.epoch == epoch && l.torn.isNone
      | none => false) with
  | some e => s.modMem k fun m => { m with locks := SMap.put m.locks e.1 none none }
  | none => if quiet then s else s.raiseMem k 0x0806 none

/-- The hold of a course that request `id` made is still HELD. -/
def MemState.holdOf (m : MemState) (g : Course) (id : Nat) : Bool := m.locks.any fun e => match e.2 with
  | some l => l.owner == g && l.id == id && l.torn.isNone
  | none => false

/-- The withdrawal of a request (R227, R585): the waiting request goes, or the hold that it was granted is released; a request that
has ended otherwise leaves nothing. -/
def State.lockWithdrawn (s : State) (k : Stack) (base : Nat) (g : Course) (epoch : BitVec 16) (id : Nat) : State :=
  if (s.memc k).waiters.any (fun r => r.owner == g && r.id == id) then
    s.modMem k fun m => { m with waiters := m.waiters.filter fun r => !(r.owner == g && r.id == id) }
  else if (s.memc k).holdOf g id then s.lockRelease k base g epoch true
  else s

/-- A write of MEM_TORN_CLEAR (R332). -/
def State.wrTornClear (s : State) (k : Stack) (v : Word) : State :=
  let i := v.toNat % 1024
  match SMap.get (s.memc k).locks i none with
  | some l => if v.getLsbD 31 && l.torn.isSome
    then s.modMem k fun m => { m with locks := SMap.put m.locks i none none } else s
  | none => s

/-- MEM_LOCK_STATUS (R342). -/
def State.lockStatus (s : State) (k : Stack) : Nat :=
  let m := s.memc k
  let n (p : LockEntry → Bool) : Nat := (m.locks.filter fun e => match e.2 with
    | some l => p l
    | none => false).length
  n (fun l => l.torn.isNone) + 2048 * n (fun l => l.torn.isSome) + 4194304 * m.waiters.length

/-- The entry that MEM_TORN_SEL selects, if it is HELD or TORN (R342). -/
def State.tornSel (s : State) (k : Stack) : Option LockEntry :=
  SMap.get (s.memc k).locks ((s.reg (mr k 0x18)).toNat % 1024) none

/-- MEM_TORN_OWNER (R342): CAUSE and VALID while the entry is TORN. -/
def State.tornOwner (s : State) (k : Stack) : Nat :=
  match s.tornSel k with
  | some l => l.owner.val + 32 * l.epoch.toNat +
      (match l.torn with
        | some .reset => 0x80000000
        | some .fault => 0x80200000
        | some .lease => 0x80400000
        | none => 0)
  | none => 0

/-! ### Messages to the table -/

/-- Take the next message to controller `k` that `p` accepts, and act on it. -/
def State.arrive (s : State) (dst : Node) (p : MsgBody → Bool) (f : State → Msg → State) : State :=
  match takeMsg dst p [] s.msgs with
  | some (m, rest) => f { s with msgs := rest } m
  | none => s

/-- The stacks of the package, or of the course's partition (R331). -/
def State.courseStacks (s : State) (g : Course) : List Stack :=
  (List.finRange 8).filter fun k => !s.parted || decide (k.val / 2 = g.val / 8)

/-- Send a message of a course to every controller it may hold regions in. -/
def State.toStacks (s : State) (g : Course) (b : MsgBody) : State :=
  (s.courseStacks g).foldl (fun t k => t.send (.course g) (.mem k) b) s

/-- The next renewals of a course (R330): none while FAULTED or FENCED. -/
def State.renewals (s : State) (g : Course) : State :=
  match (s.course g).ctl with
  | .running | .halted =>
    ((List.finRange 8).filter fun k => (s.memc k).locks.any fun e => match e.2 with
      | some l => l.owner == g && l.torn.isNone
      | none => false).foldl (fun t k => t.send (.course g) (.mem k) (.renewal g)) s
  | _ => s

/-! ### The commands -/

def memAccess (k : Stack) (line : Fin 1073741824) (data : Option (Fin 64 × List Byte × Bool)) (e : LineErr)
    (parity : Option (Fin 32)) (s : State) : State :=
  s.memAccess k line.val (data.map fun d => (d.1.val, d.2.1, d.2.2)) e parity

def lockRequestArrive (k : Stack) (s : State) : State :=
  s.arrive (.mem k) (fun b => match b with | .lockReq _ => true | _ => false) fun t m =>
    match m.body with
    | .lockReq r => t.lockArrive k r
    | _ => t

def lockRelArrive (k : Stack) (s : State) : State :=
  s.arrive (.mem k) (fun b => match b with | .lockRel .. => true | .lockWithdraw .. => true | _ => false) fun t m =>
    match m.body with
    | .lockRel b g e => t.lockRelease k b g e false
    | .lockWithdraw b g e i => t.lockWithdrawn k b g e i
    | _ => t

def lockRenewalArrive (k : Stack) (s : State) : State :=
  s.arrive (.mem k) (fun b => match b with | .renewal _ => true | _ => false) fun t _ => t

def lockBreakNotice (k : Stack) (s : State) : State :=
  s.arrive (.mem k) (fun b => match b with | .breakNotice _ => true | _ => false) fun t m =>
    match m.body with
    | .breakNotice g => t.breakHolds k g .fault
    | _ => t

def lockResetSweep (k : Stack) (s : State) : State :=
  s.arrive (.mem k) (fun b => match b with | .resetSweep _ => true | _ => false) fun t m =>
    match m.body with
    | .resetSweep g => t.breakHolds k g .reset
    | _ => t

/-- A hold reaches the lease limit, MEM_LOCK_LEASE × 2^10 MEM cycles since its last renewal (R330, R331);
`lease` is the count it has reached. -/
def lockLeaseExpiry (k : Stack) (i : Fin 1024) (lease : Nat) (s : State) : State :=
  if (s.reg (mr k 0x10)).toNat * 1024 ≤ lease then s.breakEntry k .lease i.val else s

/-! ### The commands -/

def execMemAccess (k : Stack) (line : Fin 1073741824) (data : Option (Fin 64 × List Byte × Bool)) (e : LineErr)
    (parity : Option (Fin 32)) (s : State) : Out := .next (memAccess k line data e parity s)
def execPatrolVisit (k : Stack) (line : Fin 1073741824) (e : LineErr) (sweep : Bool) (s : State) : Out :=
  .next (s.ifDie (stackDie k) fun s => s.patrolVisit k line.val e sweep)
def execRetireMigrationDone (k : Stack) (s : State) : Out := .next (s.ifDie (stackDie k) fun s => s.migrationDone k)
def execLockRequestArrive (k : Stack) (s : State) : Out := .next (lockRequestArrive k s)
def execLockGrant (k : Stack) (s : State) : Out := .next (s.ifDie (stackDie k) fun s => s.lockGrantNext k)
def execLockWaitTimeout (k : Stack) (g : Course) (s : State) : Out := .next (s.ifDie (stackDie k) fun s => s.lockTimeout k g)
def execLockLeaseExpiry (k : Stack) (i : Fin 1024) (lease : Nat) (s : State) : Out :=
  .next (s.ifDie (stackDie k) (lockLeaseExpiry k i lease))
def execLockRelArrive (k : Stack) (s : State) : Out := .next (lockRelArrive k s)
def execLockRenewalSend (g : Course) (s : State) : Out := .next (s.ifCourse g fun s => s.renewals g)
def execLockRenewalArrive (k : Stack) (s : State) : Out := .next (lockRenewalArrive k s)
def execLockBreakNotice (k : Stack) (s : State) : Out := .next (lockBreakNotice k s)
def execLockResetSweep (k : Stack) (s : State) : Out := .next (lockResetSweep k s)

end Sys2Proof.Machine
end

