-- ==== Sys2Proof/Machine/Arbiter.lean ====
section
/-! DEFINITION. Arbiter: the quoin arbiter's rules (R475 to R484). -/

namespace Sys2Proof.Machine

/-! ### Maps and input numbers (R482, R483) -/

/-- Field r of a map. -/
def mapNum (m : DWord) (r : Nat) : Nat := m.toNat / 16 ^ r % 16

/-- The input number of requester r: the one it keeps while it holds grants, or the map's. -/
def Arb.num (a : Arb) (r : Nat) : Nat := match a.kept.lookup r with
  | some n => n
  | none => mapNum a.force r

/-- Requesters that hold nothing keep no number. -/
def Arb.prune (a : Arb) (holds : Nat → Bool) : Arb := { a with kept := a.kept.filter fun e => holds e.1 }

/-- The map gives two requesters one number, or a requester a number that another holds (R483). -/
def Arb.conflict (a : Arb) (holds : Nat → Bool) (m : DWord) : Bool :=
  (List.range 16).any fun r => (List.range 16).any fun q =>
    r != q && (mapNum m r == mapNum m q || (holds q && mapNum m r == a.num q))

/-- The start of a phase: the latched map is applied or refused (R482, R483). -/
def Arb.phase (a : Arb) (holds : Nat → Bool) : Arb × Bool :=
  let a := a.prune holds
  match a.latched with
  | none => (a, false)
  | some m =>
    if a.conflict holds m then ({ a with latched := none }, true)
    else ({ force := m, latched := none,
            kept := ((List.range 16).filter fun r => holds r && a.num r != mapNum m r).map fun r => (r, a.num r)
            out := a.out, odd := a.odd }, false)

/-- The vote of a phase, where `upset` is a copy of the grant logic whose grants differ: the arbiter after it, whether the phase
stands, and whether the copy has now been out-voted in 3 phases in succession. Of two copies that remain neither is out-voted: a
disagreement repeats the phase (R499, R535). -/
def Arb.vote (a : Arb) (upset : Option (Fin 3)) : Arb × Bool × Bool :=
  match upset, a.out with
  | none, _ => ({ a with odd := none }, true, false)
  | some c, some x => if c = x then ({ a with odd := none }, true, false) else ({ a with odd := none }, false, false)
  | some c, none =>
    let n := match a.odd with
      | some (k, m) => if k = c then m + 1 else 1
      | none => 1
    ({ a with odd := some (c, n) }, true, n == 3)

/-- Requesters in order of decreasing input number (R477). -/
def Arb.order (a : Arb) : List Nat :=
  (List.range 16).reverse.filterMap fun n => (List.range 16).find? fun r => a.num r == n

/-- The DEFERRED bits (R482, R490): requesters that keep an old number. -/
def Arb.deferred (a : Arb) : Nat :=
  ((List.range 16).filter fun r => a.num r != mapNum a.force r).foldl (fun m r => m + 2 ^ r) 0

/-- The longest wait of a request granted after `phases` phases: two cycles for each, and a last bit that
depends on the cycle in which it was presented (R478; log entry 7). -/
def State.recordWait (s : State) (off phases : Nat) : State :=
  let w := 2 * phases + s.fresh.toNat % 2
  let t := s.used
  if (t.reg off).toNat < w then t.setReg off (BitVec.ofNat 32 (min w full32)) else t

/-- Record a grant to requester r in the counters at `o` of the block (R490, R492, R493). -/
def State.recordGrant (s : State) (base ctrl o r phases : Nat) : State :=
  let t := s.count base ctrl (o + 16 * r) 1
  if (t.reg (base + ctrl)).getLsbD 0 then t else t.recordWait (base + o + 16 * r + 12) phases

/-- Each source's request that waits in its first phase (R490 WAITSr). -/
def State.countWaits (s : State) (base ctrl o : Nat) (firsts : List Nat) : State :=
  firsts.foldl (fun t r => t.count32 base ctrl (o + 16 * r + 8) 1) s

end Sys2Proof.Machine
end

