-- ==== Sys2Proof/Machine/Window.lean ====
section
/-! DEFINITION. Window: the runs and tile slots in program order, and the replay window (R25, R114 to R118, R142,
R500, R501). -/

namespace Sys2Proof.Machine

/-! ### Logical arrays (R25, R26) -/

/-- The numbers of a mask of physical arrays, in increasing order. -/
def arraysOf (m : BitVec 9) : List Nat := (List.range 9).filter fun p => m.getLsbD p

/-- The mask without a physical array, but never fewer than 7 (R507; log entry 89). -/
def unmapped (m : BitVec 9) (p : Nat) : BitVec 9 := if 7 < (arraysOf m).length then m &&& ~~~(1#9 <<< p) else m

/-- The physical arrays that hold logical arrays or are the spare, in increasing order. -/
def ArrayState.physical (a : ArrayState) : List Nat := arraysOf a.mapped

/-- The course's number of logical arrays (R25, R26). -/
def ArrayState.logical (a : ArrayState) : Nat := min 8 a.physical.length

/-- The physical array that holds logical array j. -/
def ArrayState.phys (a : ArrayState) (j : Nat) : Nat := a.physical.getD j 15

/-! ### What passes and builds read and write (R79, R86, R90, R94, R118, R129) -/

/-- Q of a table format (R59). -/
def TblFmt.q : TblFmt → Nat
  | .bs16 => 4
  | _ => 2

/-- Pass blocks of an msn.pass, a T2 chunk and a shift chunk counting once. -/
def PassOp.blocks (o : PassOp) : Nat :=
  match o.mode with
  | .popcount => o.g
  | _ => o.g / 16

/-- Rows that one block consumes (R129). -/
def PassOp.rowsPer (o : PassOp) : Nat :=
  match o.mode, o.ifmt with
  | .table, .t2 => 2
  | .table, _ => 1
  | _, _ => 4

/-- ARITH cycles of one block (R89, R92). -/
def PassOp.cycles (o : PassOp) : Nat :=
  match o.mode, o.ifmt with
  | .table, .t2 => 2
  | .table, _ => 1
  | .shift, _ => o.t * o.tfmt.q
  | .popcount, _ => o.t

/-- The numbers from lo to hi. -/
def span (lo hi : Nat) : List Nat := (List.range (hi + 1 - lo)).map (lo + ·)

/-- The runs that block b reads. -/
def PassOp.blockRuns (o : PassOp) (b : Nat) : List Nat :=
  match o.mode with
  | .table => span ((o.tbase + 16 * b) / 16) ((o.tbase + 16 * b + 15) / 16)
  | .shift =>
    let n := o.t * o.tfmt.q * 16
    span ((o.tbase + n * b) / 128) ((o.tbase + n * b + n - 1) / 128)
  | .popcount => span ((o.tbase + o.t * b) / 8) ((o.tbase + o.t * b + o.t - 1) / 8)

/-- The runs that a pass reads. -/
def PassOp.runs (o : PassOp) : List Nat :=
  match o.mode with
  | .table => span (o.tbase / 16) ((o.tbase + o.g - 1) / 16)
  | .shift => span (o.tbase / 128) ((o.tbase + o.t * o.g * o.tfmt.q - 1) / 128)
  | .popcount => span (o.tbase / 8) ((o.tbase + o.t * o.g - 1) / 8)

/-- A tile slot that a pass adds to (R91). -/
def PassOp.names (o : PassOp) (slot : Nat) : Bool := decide (o.slot ≤ slot) && decide (slot < o.slot + o.t)

/-- Lines per row of a build (R118). -/
def BuildOp.lines (o : BuildOp) : Nat :=
  match o.kind with
  | .bits => 2 * o.t * o.g
  | .sword => o.t * o.g * o.tfmt.q / 8
  | _ => o.g

/-- Runs of a build (R118). -/
def BuildOp.count (o : BuildOp) : Nat := (o.lines + 15) / 16

/-- A build writes run k. -/
def BuildOp.writes (o : BuildOp) (k : Nat) : Bool := decide (o.drun ≤ k) && decide (k < o.drun + o.count)

/-- Runs of the tables of an msn.parity (R451). -/
def ParityOp.runs (o : ParityOp) : Nat := (o.kd + 7) / 8

/-- The operation writes run k: a build, or an msn.parity, which counts as one (R451). -/
def EngineOp.writesRun (o : EngineOp) (k : Nat) : Bool :=
  match o with
  | .tblBuild b => b.writes k
  | .msnParity p => decide (k < p.runs)
  | _ => false

/-- The operation is an msn.tile or drn.* that names a slot. -/
def EngineOp.turns (o : EngineOp) (slot : Nat) : Bool :=
  match o with
  | .msnTile sl n _ _ => decide (sl ≤ slot) && decide (slot < sl + n)
  | .drain d => decide (d.slot ≤ slot) && decide (slot < d.slot + d.count)
  | _ => false

def EngineOp.isTile : EngineOp → Bool
  | .msnTile .. => true
  | _ => false

/-- The tag of a run written by build o. -/
def BuildOp.tag (o : BuildOp) (serial : Nat) : RunTag := ⟨serial, o.kind, o.slice⟩

/-! ### Runs (R116, R125) -/

def ArrayState.run (a : ArrayState) (k : Nat) : RunState := SMap.get a.runs k ⟨none, []⟩
def ArrayState.setRun (a : ArrayState) (k : Nat) (r : RunState) : ArrayState :=
  { a with runs := SMap.put a.runs k r ⟨none, []⟩ }

/-- An accepted build is pending in each of its runs (R116). -/
def ArrayState.accept (a : ArrayState) (o : BuildOp) (serial : Nat) : ArrayState :=
  (span o.drun (o.drun + o.count - 1)).foldl (fun a k =>
    let r := a.run k
    a.setRun k { r with pend := r.pend ++ [o.tag serial] }) a

/-- The build whose contents a pass issued as `serial` reads in run k: the last one accepted before it. -/
def ArrayState.tagFor (a : ArrayState) (k serial : Nat) : Option RunTag :=
  let r := a.run k
  ((r.cur.toList ++ r.pend).filter fun t => decide (t.serial < serial)).getLast?

/-- The run is READY for a pass issued as `serial` (R125). -/
def ArrayState.readyFor (a : ArrayState) (k serial : Nat) : Bool :=
  let r := a.run k
  r.cur.isSome && r.pend.all fun t => decide (serial < t.serial)

/-! ### The replay window (R500, R501) -/

/-- The tiles that are OPEN, FULL in a shadow set, or opened and waiting for a swap. -/
def ArrayState.tileSerials (a : ArrayState) : List Nat :=
  a.active.map (fun e => e.2.serial) ++ (a.shadow.filter fun e => !e.2.lost).map (fun e => e.2.tile.serial) ++
    a.pendOpen.map fun e => e.2.2.1

def minOf : List Nat → Option Nat
  | [] => none
  | x :: xs => match minOf xs with
    | some y => some (min x y)
    | none => some x

/-- The build of the log that last wrote run k before `serial`. -/
def lastBuild (log : List LogEntry) (k serial : Nat) : Option Nat :=
  ((log.filter fun l => decide (l.e.serial < serial) && l.e.op.writesRun k).map fun l => l.e.serial).getLast?

/-- The builds that the passes issued after `m` read. -/
def buildsRead (log : List LogEntry) (m : Nat) : List Nat :=
  log.flatMap fun l => match l.e.op with
    | .msnPass o => if m < l.e.serial then o.runs.filterMap fun k => lastBuild log k l.e.serial else []
    | _ => []

/-- The replay point (R500), as an issue number; `busy` lists the instructions started and not completed. -/
def ArrayState.replayPoint (a : ArrayState) (busy : List Nat) : Option Nat :=
  match minOf a.tileSerials with
  | some m => minOf (m :: busy ++ buildsRead a.log m)
  | none => minOf busy

/-- The window's instructions. -/
def ArrayState.window (a : ArrayState) (busy : List Nat) : List LogEntry :=
  match a.replayPoint busy with
  | some p => a.log.filter fun l => decide (p ≤ l.e.serial)
  | none => []

/-- The last build of run k is `serial`, and the run is READY. -/
def ArrayState.lastOf (a : ArrayState) (serial : Nat) : Bool :=
  a.runs.any fun e => match e.2.cur with
    | some t => t.serial == serial
    | none => false

/-- The kept builds: builds before the window that last wrote a READY run (R500). -/
def ArrayState.kept (a : ArrayState) (busy : List Nat) : List LogEntry :=
  let w := (a.window busy).map fun l => l.e.serial
  a.log.filter fun l => !w.contains l.e.serial && l.completed && a.lastOf l.e.serial

/-- Log entries, index rows and EXPAND bytes that count against R501. -/
def ArrayState.level (a : ArrayState) (busy : List Nat) : Nat × Nat × Nat :=
  let w := a.window busy
  let k := a.kept busy
  (w.length + k.length, (w.map fun l => l.rows.length).sum, ((w ++ k).map fun l => l.bytes.length).sum)

def ArrayState.exceeds (a : ArrayState) (busy : List Nat) : Bool :=
  let l := a.level busy
  decide (1024 < l.1) || decide (16384 < l.2.1) || decide (2097152 < l.2.2)

/-- What neither the window nor the kept builds hold, and has completed, leaves the log. -/
def ArrayState.prune (a : ArrayState) (busy : List Nat) : ArrayState :=
  let w := (a.window busy).map fun l => l.e.serial
  { a with log := a.log.filter fun l => w.contains l.e.serial || !l.completed || a.lastOf l.e.serial }

/-- Issue numbers of the MSN-, TBL- and DRN-queue instructions started and not completed. -/
def CourseState.busySerials (c : CourseState) : List Nat :=
  ([0, 1, 5] : List QueueId).flatMap fun q => ((c.queue q).started.filter fun i => !i.orphan && !i.already).map fun i => i.e.serial

/-- The window after a change: what has left it is dropped, and REL_REPLAY_LIMIT is raised once while it exceeds
its limits (R501). -/
def State.checkWindow (s : State) (g : Course) : State :=
  let c := s.course g
  if c.arr.repoint ≠ .none then s else
  let a := c.arr.prune c.busySerials
  let overflow := a.exceeds c.busySerials
  let t := s.setCourse g { c with arr := { a with overflow := overflow } }
  if overflow && !a.overflow then t.raiseCourse g 0x0F05 0x0E 0xF none else t

/-- Change the log entry of an issue number. -/
def ArrayState.modLog (a : ArrayState) (serial : Nat) (f : LogEntry → LogEntry) : ArrayState :=
  { a with log := a.log.map fun l => if l.e.serial = serial then f l else l }

def ArrayState.findLog (a : ArrayState) (serial : Nat) : Option LogEntry := a.log.find? fun l => l.e.serial == serial

/-! ### Tile slots in program order (R142) -/

/-- Slots sl to sl + n - 1 as a mask. -/
def slotMask (sl n : Nat) : BitVec 32 := BitVec.ofNat 32 ((2 ^ n - 1) * 2 ^ sl)

/-- Every slot of the mask is OPEN in program order. -/
def ArrayState.allOpen (a : ArrayState) (m : BitVec 32) : Bool := a.progOpen &&& m == m

/-- Program-order state after an instruction issues. -/
def ArrayState.turn (a : ArrayState) (o : EngineOp) : ArrayState :=
  match o with
  | .msnTile sl n _ _ => { a with progOpen := a.progOpen ||| slotMask sl n }
  | .drain d => { a with progOpen := a.progOpen &&& ~~~slotMask d.slot d.count }
  | _ => a

/-- An instruction of the MSN, TBL or DRN queue has issued (R116, R142, R500). An msn.parity is not replayed (R452). -/
def ArrayState.issued (a : ArrayState) (q : QueueId) (e : QEntry) : ArrayState :=
  let a := a.turn e.op
  match e.op with
  | .tblBuild o => { a.accept o e.serial with log := a.log ++ [⟨q, e, [], [], false⟩] }
  | .msnPass _ => { a with log := a.log ++ [⟨q, e, [], [], false⟩] }
  | .msnTile .. => { a with log := a.log ++ [⟨q, e, [], [], false⟩] }
  | .drain _ => { a with log := a.log ++ [⟨q, e, [], [], false⟩] }
  | _ => a

/-- The state that the last msn.tile or drn.* of a log leaves slot k in. -/
def slotAfter (log : List LogEntry) (k : Nat) : Bool :=
  match (log.filter fun l => l.e.op.turns k).getLast? with
  | some l => l.e.op.isTile
  | none => false

/-- Entries that a flush discards have no effect at all: builds are no longer pending, and each slot has the state
that the instructions left give it. -/
def ArrayState.discard (a : ArrayState) (es : List QEntry) : ArrayState :=
  let gone := es.map fun e => e.serial
  let log := a.log.filter fun l => !gone.contains l.e.serial
  let slots := (List.range 32).filter fun k => es.any fun e => e.op.turns k
  { a with
    log := log
    runs := (a.runs.map fun e => (e.1, { e.2 with pend := e.2.pend.filter fun t => !gone.contains t.serial })).filter
      fun e => e.2 != ⟨none, []⟩
    progOpen := slots.foldl (fun (m : BitVec 32) (k : Nat) => if slotAfter log k then m ||| slotMask k 1 else m &&& ~~~slotMask k 1) a.progOpen }

end Sys2Proof.Machine
end

