-- ==== Sys2Proof/Machine/Queue.lean ====
section
/-! DEFINITION. Queue: the course controller's queues, tallies, waits, watches, completion records, leave credits
and exceptions (R198, R211 to R239), as operations the commands share. -/

namespace Sys2Proof.Machine

/-! ### Taking a precise exception (R237) -/

/-- The controller enters FAULTED (R237): NESTED when IN_TRAP was 1, the course's fault interrupt, and its break
notice (R331). -/
def State.enterFaulted (s : State) (g : Course) : State :=
  ((s.modCourse g fun c => { c with ctl := .faulted, nested := c.nested || c.inTrap }).irqCourse g 1).toStacks g
    (.breakNotice g)

/-- A precise exception at the instruction at `pc` (R237): CCR_EPC, CCR_ECAUSE and CCR_EINFO are written, the
record is sent from SRC_UNIT 0x01 with `sub` (the queue of an engine instruction, 0x8 otherwise, R583), and the
controller continues at CCR_TVEC with IN_TRAP set, or enters FAULTED. -/
def State.takeException (s : State) (g : Course) (code : BitVec 16) (sub : BitVec 4) (einfo : DWord) : State :=
  let pc := (s.course g).pc
  let t := ((s.setReg64 (cr g 0x20) (pc.setWidth 64)).setReg (cr g 0x28) (code.setWidth 32)).setReg64 (cr g 0x38) einfo
  let t := t.raiseInstr g code 0x01 sub true false pc (some einfo)
  if (t.reg (cr g 0x2C)).getLsbD 0 && !(t.course g).inTrap then
    t.modCourse g fun c => { c with inTrap := true, pc := (t.reg64 (cr g 0x30)).setWidth 48, wait := none }
  else (t.modCourse g fun c => { c with wait := none }).enterFaulted g

/-- A precise exception whose CCR_EINFO the manual gives, or else is a free value (log entry 11). -/
def State.precise (s : State) (g : Course) (code : BitVec 16) (sub : BitVec 4) (einfo : Option DWord) : State :=
  match einfo with
  | some v => s.takeException g code sub v
  | none => s.used.takeException g code sub s.fresh

/-! ### Faults that are not precise (R239) -/

/-- Change the started instruction of a queue that has an issue number. -/
def CourseState.modStarted (c : CourseState) (q : QueueId) (serial : Nat) (f : Started → Started) : CourseState :=
  c.modQueue q fun x => { x with started := x.started.map fun i => if i.e.serial = serial then f i else i }

/-- The started instruction of a queue that has an issue number. -/
def CourseState.findStarted (c : CourseState) (q : QueueId) (serial : Nat) : Option Started :=
  (c.queue q).started.find? fun i => i.e.serial == serial

/-- A fault of a started instruction (R239): its record, P of its tally at completion, CODE of its NOTIFY
record when it is the first, and the capture of CCR_EFIRST. -/
def State.instrFault (s : State) (g : Course) (q : QueueId) (serial : Nat) (code : BitVec 16) (unit : Byte)
    (sub : BitVec 4) (info : Option DWord) : State :=
  match (s.course g).findStarted q serial with
  | none => s
  | some i =>
    let t := s.raiseInstr g code unit sub false i.e.te i.e.pc info
    let t := t.efirst g code q.val i.e.pc
    t.modCourse g fun c => c.modStarted q serial fun i =>
      { i with poison := true, code := if i.code = 0 then code else i.code }

/-- The same, without a record of its own: the tally is poisoned and CODE is set. -/
def State.instrPoison (s : State) (g : Course) (q : QueueId) (serial : Nat) (code : BitVec 16) : State :=
  s.modCourse g fun c => c.modStarted q serial fun i =>
    { i with poison := true, code := if i.code = 0 then code else i.code }

/-- A started instruction has done everything; it completes when its turn comes (R213). -/
def State.instrDone (s : State) (g : Course) (q : QueueId) (serial : Nat) : State :=
  s.modCourse g fun c => c.modStarted q serial fun i => { i with done := true }

/-! ### Tallies (R220 to R222) -/

/-- Add to V of a tally. -/
def CourseState.tallyAdd (c : CourseState) (t : Fin 256) (v : Word) : CourseState :=
  c.setTally t (c.tallyVal t + v) (c.tallyPoi t)

/-- Set P of a tally. -/
def CourseState.tallyPoison (c : CourseState) (t : Fin 256) : CourseState := c.setTally t (c.tallyVal t) true

/-! ### Events that waits await (R220, R225) -/

/-- Every instruction issued before `limit` into a queue of the mask has completed (R225). -/
def CourseState.fenced (c : CourseState) (mask : BitVec 8) (limit : Nat) : Bool :=
  (List.finRange 8).all fun q => !mask.getLsbD q.val ||
    ((c.queue q).entries.all (fun e => decide (limit ≤ e.serial)) &&
      (c.queue q).started.all (fun i => i.orphan || decide (limit ≤ i.e.serial)))

/-- The awaited condition holds. -/
def CourseState.met (c : CourseState) : WatchKind → Bool
  | .tally t x => c.reached t x
  | .qwait _ t x => c.reached t x
  | .fence m l => c.fenced m l

/-- Watches in use, waiting records among them (R228). -/
def CourseState.watchesUsed (c : CourseState) : Nat := c.watches.length + c.records.length

/-- The record of a watch whose event has occurred (R227, R234). -/
def CourseState.lateRecord (c : CourseState) (w : Watch) : CqRecord :=
  match w.kind with
  | .tally t _ => ⟨w.pc, 2, if c.tallyPoi t then 3 else 1, BitVec.ofNat 8 t.val, 8, 0⟩
  | .qwait q t _ => ⟨w.pc, 4, if c.tallyPoi t then 3 else 1, BitVec.ofNat 8 t.val, BitVec.ofNat 8 q.val, 0⟩
  | .fence _ _ => ⟨w.pc, 3, 1, 0, 8, 0⟩

/-- Watches whose event has occurred become records (R227). -/
def CourseState.settleWatches (c : CourseState) : CourseState :=
  { c with watches := c.watches.filter fun w => !c.met w.kind
           records := c.records ++ (c.watches.filter fun w => c.met w.kind).map c.lateRecord }

/-- The status with which the controller's wait ends now, if its event is present (R225). -/
def CourseState.waitStatus (c : CourseState) : Option Nat :=
  match c.wait with
  | some ⟨_, .tally t x⟩ => if c.reached t x then some (if c.tallyPoi t then 2 else 0) else none
  | some ⟨_, .fence m l⟩ => if c.fenced m l then some 0 else none
  | _ => none

def CourseState.settleWait (c : CourseState) : CourseState :=
  match c.waitStatus with
  | some v => c.endWait v
  | none => c

/-- A queue wait expires (R228, R229): with every watch in use it stays at the head and the queue halts with
ISCON_WATCH_FULL; otherwise it makes a watch, and the queue halts after it with ISCON_QWAIT_TIMEOUT. -/
def State.qwaitExpire (s : State) (g : Course) (q : QueueId) (e : QEntry) (t : Fin 256) (x : Word)
    (rest : List QEntry) : State :=
  if (s.course g).watchesUsed ≥ 64 then
    ((s.modCourse g fun c => c.modQueue q fun y => { y with halt := .watchFull }).raiseInstr g 0x0507 0x01
      (BitVec.ofNat 4 q.val) false false e.pc none).efirst g 0x0507 q.val e.pc
  else
    let u := s.modCourse g fun c =>
      { (c.modQueue q fun y => { y with entries := rest, halt := .qwait }) with
        watches := c.watches ++ [⟨e.pc, .qwait q t x⟩] }
    (u.raiseInstr g 0x0508 0x01 (BitVec.ofNat 4 q.val) false false e.pc none).efirst g 0x0508 q.val e.pc

/-- Waits at the head of a queue that is not halted end once their event is present; a wait with T = 0 is
tested once (R226). At most `fuel` of them. -/
def State.settleQueue (s : State) (g : Course) (q : QueueId) : Nat → State
  | 0 => s
  | fuel + 1 =>
    let y := (s.course g).queue q
    match y.halt, y.entries with
    | .no, e :: rest =>
      match e.op with
      | .queueWait t x once =>
        if (s.course g).reached t x then
          (s.modCourse g fun c => c.modQueue q fun y => { y with entries := rest }).settleQueue g q fuel
        else if once then s.qwaitExpire g q e t x rest
        else s
      | _ => s
    | _, _ => s

/-- The instruction at the head of the course's UPD queue, if it is new there, takes its place in the order of events (R345). -/
def State.noteHead (s : State) (g : Course) : State :=
  let y := (s.course g).queue 7
  match y.entries with
  | e :: _ =>
    if y.head.map (·.1) = some e.serial then s
    else (s.modCourse g fun c => c.modQueue 7 fun y => { y with head := some (e.serial, s.stamp) }).tick
  | [] => s

/-- Let every wait and watch of a course see the present tallies and completions (R220 to R227). -/
def State.settle (s : State) (g : Course) : State :=
  let t := (List.finRange 8).foldl (fun u q => u.settleQueue g q 65) s
  (t.modCourse g fun c => c.settleWait.settleWatches).noteHead g

/-! ### Leave credits (R235, R236, R469 to R474) -/

/-- C_d (R469). -/
def State.dieCredits (s : State) (d : CDie) : Nat := (s.reg (pr (0x1010 + 4 * d.val))).toNat

/-- The requester on which a queue's requests are presented (R475). -/
def requester (g : Course) (q : QueueId) : Nat := 2 * (g.val % 8) + (if q.val = 0 ∨ q.val = 1 then 0 else 1)

/-- Number of slices of an SMASK. -/
def maskCount (m : BitVec 8) : Nat := ((List.range 8).filter fun i => m.getLsbD i).length

/-- Credit need of an instruction (R472); 0 where it needs no leave (R235). -/
def CourseState.need (c : CourseState) : EngineOp → Nat
  | .msnPass _ => c.arr.logical + 4
  | .msnTile .. => 1
  | .msnParity _ => c.arr.logical + 12
  | .tblBuild _ => if c.arr.half0 && c.arr.half1 then 8 else 4
  | .fwuMm _ => 20
  | .redSend .. => 4
  | .redAccum .. => 4
  | .redRing .. => 6
  | .updPass second _ m => (if second then 6 else 2) * maskCount m
  | _ => 0

/-- Credits come back to where they were drawn (R236, R473): to the hold while it is active, else to the pool. -/
def State.giveBack (s : State) (g : Course) (req n : Nat) (src : CreditSrc) : State :=
  let pool (r : Nat) : State := s.modCDie (courseCDie g) fun d =>
    { d with inUse := d.inUse.setIfInBounds r ((d.inUse.toList.getD r 0) - n) }
  match src with
  | .none => s
  | .pool => pool req
  | .hold id =>
    match (s.course g).hold with
    | some h => if h.id = id then s.modCourse g fun c => { c with hold := some { h with free := h.free + n } }
      else pool (2 * (g.val % 8))
    | none => pool (2 * (g.val % 8))

/-- leave.rel, course reset and fencing: the unused credits of the hold return to the arbiter (R236). -/
def State.releaseHold (s : State) (g : Course) : State :=
  match (s.course g).hold with
  | some h => (s.modCourse g fun c => { c with hold := none }).giveBack g (2 * (g.val % 8)) h.free .pool
  | none => s

/-- The queues that the arrays serve. -/
def arrayQueues : List QueueId := [0, 1, 5]

/-- The instruction of a queue that starts next: the head of a queue that is not halted; in replay, for a queue of the arrays,
the first that must start again; none while a repointing has stopped the arrays (R213, R502). -/
def CourseState.startNext (c : CourseState) (q : QueueId) : Option QEntry :=
  let y := c.queue q
  let head := match y.halt with
    | .no => y.entries.head?
    | _ => none
  if arrayQueues.contains q then
    match c.arr.repoint with
    | .none => head
    | .stopped _ => none
    | .replaying _ =>
      if y.halt = .powerNeed then none
      else (y.started.find? fun i => i.restart && !i.done && !i.orphan).map (·.e)
  else head

/-- The grant of a queue head that will not start goes back. -/
def State.ungrant (s : State) (g : Course) (q : QueueId) : State :=
  match ((s.course g).queue q).granted with
  | some (n, src) =>
    (s.modCourse g fun c => c.modQueue q fun y => { y with granted := none, waitStamp := none, waitPhases := 0 }).giveBack
      g (requester g q) n src
  | none => s.modCourse g fun c => c.modQueue q fun y => { y with waitStamp := none, waitPhases := 0 }

/-- A queue whose head needs more credits than its die has halts (R474). -/
def State.powerNeed (s : State) (g : Course) (q : QueueId) (pc : Addr) : State :=
  ((s.modCourse g fun c => c.modQueue q fun y => { y with halt := .powerNeed }).raiseInstr g 0x0E02 0x01
    (BitVec.ofNat 4 q.val) false false pc none).efirst g 0x0E02 q.val pc

/-- Present the request on the queue's requester (R476), or raise POWER_NEED (R474). -/
def State.present (s : State) (g : Course) (q : QueueId) (need : Nat) (pc : Addr) : State :=
  if s.dieCredits (courseCDie g) < need then s.powerNeed g q pc
  else match ((s.course g).queue q).waitStamp with
    | some _ => s
    | none => (s.modCourse g fun c => c.modQueue q fun y => { y with waitStamp := some s.stamp, waitPhases := 0 }).tick

/-- What an instruction at a queue head has of the leave it needs: nothing is needed, it is granted, or not. -/
def State.obtainLeave (s : State) (g : Course) (q : QueueId) (need : Nat) (pc : Addr) :
    State × Option (Nat × CreditSrc) :=
  if need = 0 then (s, some (0, .none))
  else
    match ((s.course g).queue q).granted with
    | some (n, src) =>
      (s.modCourse g fun c => c.modQueue q fun y => { y with granted := none, waitStamp := none, waitPhases := 0 },
        some (n, src))
    | none =>
      match (s.course g).hold with
      | some h =>
        if need ≤ h.free then
          (s.modCourse g fun c => { (c.modQueue q fun y => { y with waitStamp := none, waitPhases := 0 }) with
            hold := some { h with free := h.free - need } }, some (need, .hold h.id))
        else (s.present g q need pc, none)
      | none => (s.present g q need pc, none)

/-! ### Completion (R213, R221, R234, R236) -/

/-- The NOTIFY record of a completing instruction (R234). -/
def CourseState.notify (c : CourseState) (q : Nat) (pc : Addr) (te : Bool) (t : Fin 256) (code : BitVec 16)
    (faulted : Bool) : CqRecord :=
  ⟨pc, 1, (if te && c.tallyPoi t then 2 else 0) + (if faulted then 4 else 0), if te then BitVec.ofNat 8 t.val else 0,
    BitVec.ofNat 8 q, code⟩

/-- The tally update and NOTIFY record of a completion (R221, R234). -/
def CourseState.completeEffects (c : CourseState) (q : Nat) (pc : Addr) (te : Bool) (t : Fin 256) (ntf poison : Bool)
    (code : BitVec 16) : CourseState :=
  let c := if te then
      let d := c.tallyAdd t 1
      if poison then d.tallyPoison t else d
    else c
  if ntf then { c with records := c.records ++ [c.notify q pc te t code (decide (code ≠ 0))] } else c

/-- The instruction of a queue that completes next: an ended one that a course reset overtook, or the oldest. -/
def QueueState.nextDone (y : QueueState) : Option Started :=
  match y.started.find? (fun i => i.orphan && i.done) with
  | some i => some i
  | none => match y.started.find? (fun i => !i.orphan) with
    | some i => if i.done then some i else none
    | none => none

/-- An instruction completes in queue order (R213): it updates its tally, writes NOTIFY and returns its credits.
An NTF instruction holds its completion while no watch is free (R228). One that a course reset overtook only
returns its credits (R231). -/
def instrComplete (g : Course) (q : QueueId) (s : State) : State :=
  match ((s.course g).queue q).nextDone with
  | none => s
  | some i =>
    if !i.orphan && i.e.ntf && decide (64 ≤ (s.course g).watchesUsed) then s
    else
      let t := s.modCourse g fun c => c.modQueue q fun y =>
        { y with started := y.started.filter fun j => j.e.serial != i.e.serial }
      let t := t.giveBack g (requester g q) i.credits i.src
      if i.orphan || i.already then t
      else
        let t := (t.modCourse g fun c => c.completeEffects q.val i.e.pc i.e.te i.e.tally i.e.ntf i.poison i.code).settle g
        (t.modCourse g fun c => { c with arr := c.arr.modLog i.e.serial fun l => { l with completed := true } }).checkWindow g

/-- A diag.selftest whose groups have all finished completes; one with NTF holds its completion while no watch is free
(R228, R497). -/
def State.finishTest (s : State) (g : Course) (x : SelfTest) : State :=
  if x.left ≠ 0 ∨ (x.ntf ∧ 64 ≤ (s.course g).watchesUsed) then s
  else (s.modCourse g fun c => { (c.completeEffects 8 x.pc x.te x.tally x.ntf false 0) with
    selfTests := c.selfTests.filter fun y => y.id != x.id }).settle g

def State.finishTests (s : State) (g : Course) : State := (s.course g).selfTests.foldl (fun t x => t.finishTest g x) s

/-! ### The completion queue (R233, R234) -/

/-- The 16 bytes of a record. -/
def cqBytes (r : CqRecord) (seq : Word) : List Byte :=
  leBytes 6 r.pc.toNat ++ [r.kind, r.flags] ++ leBytes 4 seq.toNat ++ [r.tally, r.queue] ++ leBytes 2 r.code.toNat

/-- Entries of the completion queue. -/
def State.cqSize (s : State) (g : Course) : Nat := 2 ^ (6 + (s.reg (cr g 0x58)).toNat / 4 % 16)

/-- The oldest waiting record is written to the ring (R233). -/
def completionRecordWrite (g : Course) (s : State) : State :=
  match (s.course g).records with
  | [] => s
  | r :: rs =>
    let tail := s.reg (cr g 0x60)
    if (s.reg (cr g 0x58)).getLsbD 0 && decide ((tail - s.reg (cr g 0x5C)).toNat ≠ s.cqSize g) then
      let base := (s.reg64 (cr g 0x50)).toNat
      let t := match s.physOf (g.val / 8) (base + 16 * (tail.toNat % s.cqSize g)) with
        | some a => if s.nearOk a 16 then s.store a (cqBytes r tail) else s
        | none => s
      let t := (t.setReg (cr g 0x60) (tail + 1)).modCourse g fun c => { c with records := rs }
      (if (s.reg (cr g 0x58)).getLsbD 1 then t.irqCourse g 0 else t).finishTests g
    else s

/-- A write of CCR_CQ_CTRL (R233): EN takes effect only with a base in near memory aligned to 16 × size and a
SIZE that is not reserved; otherwise EN stays 0 and BADBASE is set. -/
def State.wrCqCtrl (s : State) (g : Course) (v : Word) : State :=
  let base := (s.reg64 (cr g 0x50)).toNat
  let size := v.toNat / 4 % 16
  let keep := v.toNat % 64 - v.toNat % 2
  if v.getLsbD 0 then
    let ok := decide (size ≤ 10) && decide (base % (16 * 2 ^ (6 + size)) = 0) &&
      match s.physOf (g.val / 8) base with
      | some a => s.nearOk a (16 * 2 ^ (6 + size))
      | none => false
    if ok then s.setReg (cr g 0x58) (BitVec.ofNat 32 (keep + 1)) else s.setReg (cr g 0x58) (BitVec.ofNat 32 (keep + 64))
  else s.setReg (cr g 0x58) (BitVec.ofNat 32 keep ||| (s.reg (cr g 0x58) &&& 64))

/-! ### Expiry of waits (R226 to R229) -/

/-- A controller wait reaches its timeout (R226, R227): the event wins; otherwise tally.wait and fence make a
watch, or fault ISCON_WATCH_FULL with every watch in use, and leave.hold withdraws its request. The lock table
counts the timeout of lock.acq. -/
def waitExpiry (g : Course) (s : State) : State :=
  let t := s.settle g
  let c := t.course g
  let watch (k : WatchKind) : State :=
    if c.watchesUsed ≥ 64 then t.precise g 0x0507 0x8 none
    else t.modCourse g fun c => { c.endWait 1 with watches := c.watches ++ [⟨c.pc, k⟩] }
  match c.wait with
  | some ⟨_, .tally x v⟩ => watch (.tally x v)
  | some ⟨_, .fence m l⟩ => watch (.fence m l)
  | some ⟨_, .leave _ _ _⟩ => t.modCourse g fun c => c.endWait 1
  | _ => t

/-- A queue-held tally wait at the head of its queue expires (R229). -/
def queueWaitExpiry (g : Course) (q : QueueId) (s : State) : State :=
  let t := s.settle g
  let y := (t.course g).queue q
  match y.halt, y.entries with
  | .no, e :: rest => match e.op with
    | .queueWait x v _ => t.qwaitExpire g q e x v rest
    | _ => t
  | _, _ => t

/-! ### Issue into a queue (R212) -/

/-- Append an issued instruction to its queue, or stall the controller while the queue holds 64 (R212). The
controller goes on after it once it is appended. -/
def State.enqueue (s : State) (g : Course) (q : QueueId) (e : QEntry) : State :=
  if ((s.course g).queue q).entries.length < 64 then
    (s.modCourse g fun c => { (c.modQueue q fun y => { y with entries := y.entries ++ [e] }) with
      pc := c.pc + 8, stalled := none }).settle g
  else (s.modCourse g fun c => { c with stalled := some (q, e) }).startTicks (cr g 0xC8)

/-- The stalled instruction enters its queue once an entry frees (R212). A STOP that came meanwhile takes effect. -/
def queueAppend (g : Course) (s : State) : State :=
  match (s.course g).stalled with
  | some (q, e) =>
    let t := s.enqueue g q e
    if (t.course g).stalled.isNone && (t.course g).stopReq then
      t.modCourse g fun c => { c with ctl := .halted, stopReq := false }
    else t
  | none => s

/-! ### Queue control (R221, R229) -/

/-- P of the tally of every discarded entry with TE (R221). -/
def CourseState.discardTallies (c : CourseState) (es : List QEntry) : CourseState :=
  es.foldl (fun c e => if e.te then c.tallyPoison e.tally else c) c

/-- Discard every entry of a queue (R221, R229). -/
def State.flushQueue (s : State) (g : Course) (q : QueueId) : State :=
  let es := ((s.course g).queue q).entries
  (s.ungrant g q).modCourse g fun c =>
    let c := (c.modQueue q fun y => { y with entries := [] }).discardTallies es
    { c with arr := c.arr.discard es }

/-- Restart a halted queue (R229): after the wait that expired, or at the instruction still at its head. -/
def State.resumeQueue (s : State) (g : Course) (q : QueueId) : State :=
  (s.modCourse g fun c => c.modQueue q fun y => { y with halt := .no }).settleQueue g q 65

/-- A write of CCR_QCTRL (R229): each queue is flushed first and then resumed. FLUSH acts while the controller is
HALTED, FAULTED or FENCED; RESUME has no effect while FENCED. -/
def State.wrQctrl (s : State) (g : Course) (resume flush : BitVec 8) : State :=
  let t := (List.finRange 8).foldl (fun u q =>
    let u := if flush.getLsbD q.val && decide ((u.course g).ctl ≠ .running) then u.flushQueue g q else u
    if resume.getLsbD q.val && decide ((u.course g).ctl ≠ .fenced) && decide (((u.course g).queue q).halt ≠ .no)
    then u.resumeQueue g q else u) s
  t.settle g

/-! ### Controller commands (R243, R585) -/

/-- CCR_CTRL.START (R243): from HALTED or FAULTED; the mode of R241 is taken from HALTED. -/
def State.ctlStart (s : State) (g : Course) : State :=
  let c := s.course g
  if c.ctl = .halted ∨ c.ctl = .faulted then
    s.setCourse g { c with
      ctl := .running, nested := false, inTrap := false, wait := none, stalled := none, stopReq := false
      pc := (s.reg64 (cr g 0x08)).setWidth 48
      v1 := if c.ctl = .halted then (s.reg (cr g 0x18)).getLsbD 0 else c.v1 }
  else s

/-- CCR_CTRL.STOP (R585): a wait in progress ends without effect, a lock.acq withdraws its request; a stalled
instruction still enters its queue first. -/
def State.ctlStop (s : State) (g : Course) : State :=
  let c := s.course g
  if c.ctl = .running then
    match c.stalled, c.wait with
    | some _, _ => s.setCourse g { c with stopReq := true }
    | none, some ⟨_, .lock base _ id⟩ =>
      (s.setCourse g { c with ctl := .halted, wait := none }).send (.course g) (.mem (stackOf base))
        (.lockWithdraw base g ((s.reg (cr g 0x1C)).setWidth 16) id)
    | none, _ => s.setCourse g { c with ctl := .halted, wait := none }
  else s

/-- CCR_CTRL.IBUF_INV (R199). -/
def State.ibufInv (s : State) (g : Course) : State := s.modCourse g fun c => { c with ibuf := [] }

/-! ### The commands -/

def execQueueAppend (g : Course) (s : State) : Out := .next (s.ifCourse g (queueAppend g))
def execInstrComplete (g : Course) (q : QueueId) (s : State) : Out := .next (s.ifCourse g (instrComplete g q))
def execCompletionRecordWrite (g : Course) (s : State) : Out := .next (s.ifCourse g (completionRecordWrite g))
def execWaitExpiry (g : Course) (s : State) : Out := .next (s.ifCourse g (waitExpiry g))
def execQueueWaitExpiry (g : Course) (q : QueueId) (s : State) : Out := .next (s.ifCourse g (queueWaitExpiry g q))

end Sys2Proof.Machine
end

