-- ==== Sys2Proof/Machine/Power.lean ====
section
/-! DEFINITION. Power: clocks, leave arbitration, thermal and cap inputs (chapter 15, R577). -/

namespace Sys2Proof.Machine

/-- A report of a die's clocks and power admission (R583). -/
def State.raisePower (s : State) (d : Die) (code : BitVec 16) (info : Option DWord) : State :=
  s.raiseWith d (plainReport code 0x0D 0 0xF) info

def cdieDie (d : CDie) : Die := ⟨d.val, by omega⟩

/-- Course k of compute die d (R24). -/
def courseOf (d : CDie) (k : Fin 8) : Course := ⟨8 * d.val + k.val, by omega⟩

/-! ### Budget (R469, R470, R485) -/

def State.env (s : State) : Nat := (s.reg (pr 0x1000)).toNat
def State.cap (s : State) : Nat := (s.reg (pr 0x1004)).toNat
def State.reserve (s : State) : Nat := (s.reg (pr 0x1008)).toNat

/-- The budget registers keep every condition of R470. -/
def budgetOk (env cap res : Nat) (cs : List Nat) : Bool :=
  decide (700 ≤ env) && decide (env ≤ 1500) && decide (440 ≤ res) && decide (res + 64 ≤ env) &&
  decide (res + 64 ≤ cap) && cs.all (fun c => c == 0 || (decide (48 ≤ c) && decide (c ≤ 1060))) &&
  decide (cs.sum ≤ env - res)

def State.budget (s : State) : Bool :=
  budgetOk s.env s.cap s.reserve ((List.finRange 4).map fun d => s.dieCredits d)

/-- A write of a budget register: applied, or refused with BUDGET_REFUSED (R470). -/
def State.wrBudget (s : State) (o : Nat) (v : Word) : State :=
  let t := s.setReg (pr o) (v &&& 0x7FF)
  if t.budget then t else s.orReg (pr 0x1024) 1

/-- V of R485 on a compute die. -/
def State.vOf (s : State) (d : CDie) : Nat := if (s.cdie d).capApplied then min s.cap s.env else s.env

/-- The effective pool E_d (R485). -/
def State.effective (s : State) (d : CDie) : Nat :=
  (s.dieCredits d * (s.vOf d - s.reserve) / (s.env - s.reserve)) * (s.die (cdieDie d)).factor / 8

/-- Credits granted and not returned. -/
def CDieState.inUseSum (d : CDieState) : Nat := d.inUse.toList.sum

/-! ### Requests (R475, R476) -/

/-- What a request is for. -/
inductive ReqKind where
  | leave (g : Course)
  | queue (g : Course) (q : QueueId)
  | fwu (u : CDie)
  deriving DecidableEq, Repr

/-- A waiting request: what it is for, its credits, when it began waiting, and the phases it has waited. -/
structure Req where
  kind : ReqKind
  need : Nat
  stamp : Nat
  phases : Nat
  deriving DecidableEq, Repr

/-- The waiting request of a queue head. -/
def CourseState.queueReq (c : CourseState) (g : Course) (q : QueueId) : List Req :=
  let y := c.queue q
  match y.waitStamp, y.granted, c.startNext q with
  | some st, none, some e => [⟨.queue g q, c.need e.op, st, y.waitPhases⟩]
  | _, _, _ => []

/-- The waiting requests of a requester, those that go first on a tie first (R476). -/
def State.requests (s : State) (d : CDie) (r : Nat) : List Req :=
  let g := courseOf d ⟨r / 2 % 8, by omega⟩
  let c := s.course g
  if r % 2 = 0 then
    (match c.wait with
      | some ⟨_, .leave n st ph⟩ => [⟨.leave g, n, st, ph⟩]
      | _ => []) ++ c.queueReq g 0 ++ c.queueReq g 1
  else
    ((List.finRange 4).flatMap fun u => match (s.cdie u).fwuRun with
      | some f => if f.g = g ∧ f.granted = none then [⟨.fwu u, 20, f.stamp, f.phases⟩] else []
      | none => []) ++ c.queueReq g 6 ++ c.queueReq g 7

/-- The request that a requester presents: the one that began waiting first (R476). -/
def oldestReq (rs : List Req) : Option Req :=
  rs.foldl (fun acc q => match acc with
    | some b => if q.stamp < b.stamp then some q else some b
    | none => some q) none

def State.presented (s : State) (d : CDie) (r : Nat) : Option Req := oldestReq (s.requests d r)

/-- A request is granted (R477): its credits are deducted, and the operation may start. -/
def State.grant (s : State) (d : CDie) (r : Nat) (q : Req) : State :=
  let t := s.modCDie d fun x => { x with inUse := x.inUse.setIfInBounds r (x.inUse.toList.getD r 0 + q.need) }
  let t := t.recordGrant (Blk.die (cdieDie d)).base 0x4028 0x4100 r (q.phases + 1)
  match q.kind with
  | .leave g => t.modCourse g fun c =>
      { c.endWait 0 with hold := some ⟨c.holdNext, q.need⟩, holdNext := c.holdNext + 1 }
  | .queue g k => t.modCourse g fun c => c.modQueue k fun y => { y with granted := some (q.need, .pool) }
  | .fwu u => t.modCDie u fun x => { x with fwuRun := x.fwuRun.map fun f => { f with granted := some (q.need, .pool) } }

/-- One more phase that a request waits. -/
def State.waitPhase (s : State) (q : Req) : State :=
  match q.kind with
  | .leave g =>
    let age (w : Wait) : Wait := match w.kind with
      | .leave n st ph => { w with kind := .leave n st (ph + 1) }
      | _ => w
    s.modCourse g fun c => { c with wait := c.wait.map age }
  | .queue g k => s.modCourse g fun c => c.modQueue k fun y => { y with waitPhases := y.waitPhases + 1 }
  | .fwu u => s.modCDie u fun x => { x with fwuRun := x.fwuRun.map fun f => { f with phases := f.phases + 1 } }

/-- Grant the waiting requests in order while each fits the free credits and the step allowance (R477, R480). -/
def State.grantLeave (s : State) (d : CDie) : Nat → Nat → List Nat → State
  | _, _, [] => s
  | free, step, r :: rs =>
    match s.presented d r with
    | none => s.grantLeave d free step rs
    | some q =>
      if q.need ≤ free ∧ q.need ≤ step then (s.grant d r q).grantLeave d (free - q.need) (step - q.need) rs
      else s

/-- A requester holds a grant: an operation it presented holds credits, or its course's hold does (R482). -/
def CDieState.holder (x : CDieState) (r : Nat) : Bool := decide (0 < x.inUse.toList.getD r 0)

/-- The requests of a phase that it leaves over wait (R490 WAITSr, R481). -/
def State.leftOver (s : State) (d : CDie) (left : List (Nat × Req)) : State :=
  let t := s.countWaits (Blk.die (cdieDie d)).base 0x4028 0x4100 ((left.filter fun p => p.2.phases == 0).map fun p => p.1)
  left.foldl (fun u p => u.waitPhase p.2) t

/-- The request that each requester presents in a phase. -/
def State.presentAll (s : State) (d : CDie) : List (Nat × Req) :=
  (List.range 16).filterMap fun r => (s.presented d r).map fun q => (r, q)

/-- An arbitration phase whose vote stands (R477, R478): the latched map is applied or refused, requests are granted by decreasing
input number, and those left over wait. Each requester has one request in the phase. -/
def State.phaseStands (s : State) (d : CDie) : State :=
  let x := s.cdie d
  let b := (Blk.die (cdieDie d)).base
  let (a, refused) := x.arb.phase x.holder
  let t := s.modCDie d fun x => { x with arb := a }
  let t := if refused then (t.orReg (b + 0x4018) 2).raisePower (cdieDie d) 0x0E01 none else t
  let t := t.grantLeave d (s.effective d - x.inUseSum) (s.reg (b + 0x402C)).toNat a.order
  t.leftOver d ((s.presentAll d).filter fun p => (t.requests d p.1).any fun q => q.stamp == p.2.stamp)

/-- An arbitration phase: `upset` names a copy of the grant logic that errs (R499). A copy out-voted in 3 phases in succession is
recorded; where boot has left a copy out and the others disagree, the phase makes no grant (R535). -/
def arbitrationPhase (d : CDie) (upset : Option (Fin 3)) (s : State) : State :=
  let v := (s.cdie d).arb.vote upset
  let t := s.modCDie d fun x => { x with arb := v.1 }
  let t := if v.2.2 then t.failed ⟨d.val, 0x0D, 1, 0, (upset.map (·.val)).getD 0⟩ else t
  if v.2.1 then t.phaseStands d else t.leftOver d (t.presentAll d)

/-- The requester of the oldest waiting request of a die, and the request (R481, R490). -/
def State.oldestAll (s : State) (d : CDie) : Option (Nat × Req) :=
  (s.presentAll d).foldl (fun acc q => match acc with
    | some b => if q.2.stamp < b.2.stamp then some q else some b
    | none => some q) none

/-- PWR_ARB_STATUS without REFUSED (R490). -/
def State.arbStatus (s : State) (d : CDie) : Nat :=
  let a := (s.cdie d).arb
  (if a.latched.isSome then 1 else 0) + 4 * a.deferred +
    (match s.oldestAll d with
      | some (r, _) => 0x40000 * r + 0x400000
      | none => 0)

/-! ### Thermal inputs and the cap input (R485 to R487, R577) -/

/-- TJ_MAX (R485). -/
def DieState.tjMax (x : DieState) : Nat := (x.temps.map (·.2)).foldl max 0

def State.throttleAt (s : State) (d : Die) : Nat := (s.reg (dr d 0x4020)).toNat % 256
def State.critAt (s : State) (d : Die) : Nat := (s.reg (dr d 0x4020)).toNat / 256 % 256

/-- TJ_MAX stands at THROTTLE or below, so that THROTTLING is 0 and the next reading above it is the first (R485). -/
def State.coolAt (s : State) (d : Die) : State :=
  if (s.die d).tjMax ≤ s.throttleAt d then s.modDie d fun x => { x with hot := false } else s

/-- TJ_MAX reaches CRIT: THERMAL_CRIT and the trip output, once until TJ_MAX is below CRIT again (R486). -/
def State.critCheck (s : State) (d : Die) : State :=
  if (s.die d).tjMax < s.critAt d then s.modDie d fun x => { x with critical := false }
  else if (s.die d).critical then s
  else
    let u := ((s.modDie d fun x => { x with critical := true }).raisePower d 0x0E07 none).orReg (dr d 0x4024) 0x200
    { u with boot := { u.boot with tripPin := true } }

/-- A sensor reading (R485, R486): TJ_MAX, the throttle factor of a compute die, and the reports and trip output of
passing THROTTLE and reaching CRIT. An I/O die has 8 sensors. -/
def thermalReading (d : Die) (sensor : Fin 16) (celsius : Int) (s : State) : State :=
  if d.val ≥ 4 ∧ sensor.val ≥ 8 then s
  else
    let t := s.modDie d fun x => { x with temps := SMap.put x.temps sensor.val celsius.toNat 0 }
    let now := (t.die d).tjMax
    let t := t.modDie d fun x => { x with factor := 8 - (now - t.throttleAt d) }
    let t := if now > t.throttleAt d ∧ !(t.die d).hot then
        (t.modDie d fun x => { x with hot := true }).raisePower d 0x0E06 none
      else t.coolAt d
    t.critCheck d

/-- A write of PWR_THERM_CTRL (R490): a write that breaks the ranges is ignored; F is recomputed at the next
reading (R485). A CRIT at or below TJ_MAX is reached at once (R486; log entry 83). -/
def State.wrTherm (s : State) (d : Die) (v : Word) : State :=
  let th := v.toNat % 256
  let cr := v.toNat / 256 % 256
  if 70 ≤ th ∧ th ≤ 105 ∧ th + 9 ≤ cr ∧ cr ≤ 115 then
    ((s.setReg (dr d 0x4020) (v &&& 0xFFFF)).coolAt d).critCheck d
  else s

/-- PKG_CAP_N changes level (R487); `low` is the asserted level. -/
def pkgCapChange (low : Bool) (s : State) : State := { s with boot := { s.boot with capPin := low } }

/-- The new V applies on a compute die from an arbitration phase (R487); an assertion raises POWER_CAP. Boot has
ended, so the level counts (R581). -/
def powerCapApply (d : CDie) (s : State) : State :=
  if !s.boot.booted || (s.cdie d).capApplied == s.boot.capPin then s
  else
    let t := s.modCDie d fun x => { x with capApplied := s.boot.capPin }
    if s.boot.capPin then t.raisePower (cdieDie d) 0x0E08 none else t

/-- The independent comparator of a die trips at 125 °C (R577). -/
def thermtripAnalog (d : Die) (s : State) : State :=
  let t := s.modDie d fun x => { x with comparator := true }
  { t with boot := { t.boot with tripPin := true } }

/-! ### PLLs and the reference (R464 to R468) -/

/-- The state of PLL A or B. -/
def DieState.pll (x : DieState) (b : Bool) : PllState := if b then x.pllB else x.pllA
def DieState.setPll (x : DieState) (b : Bool) (p : PllState) : DieState :=
  if b then { x with pllB := p } else { x with pllA := p }

/-- A PLL in service is declared lost (R464 to R466): the active one hands over to a locked standby, and the lost
one relocks. A die whose active PLL is lost with no standby cannot run. -/
def pllLost (d : Die) (pllB : Bool) (s : State) : State :=
  let x := s.die d
  if x.pll pllB ≠ .locked ∨ !x.started then s
  else
    let t := s.modDie d fun x => x.setPll pllB .relocking
    if x.activeB = pllB then
      if x.pll (!pllB) = .locked then (t.modDie d fun x => { x with activeB := !pllB }).raisePower d 0x0E03 none
      else t.modDie d fun x => { x with dead := true }
    else t.raisePower d 0x0E04 none

/-- Relock and qualification of a lost PLL end (R466): it becomes the standby, or stays out of service, which is
recorded in the ledger (R535). -/
def pllRelockEnd (d : Die) (pllB ok : Bool) (s : State) : State :=
  if (s.die d).pll pllB ≠ .relocking then s
  else if ok then s.modDie d fun x => x.setPll pllB .locked
  else ((s.modDie d fun x => x.setPll pllB .out).raisePower d 0x0E04 none).failed
    ⟨d.val, 0x0D, 0, 0, if pllB then 1 else 0⟩

/-- PWR_CLK_CTRL.SWITCH (R468): a switch to a locked standby, without a fault. -/
def State.pllSwitch (s : State) (d : Die) : State :=
  let x := s.die d
  if x.started ∧ x.pll (!x.activeB) = .locked then s.modDie d fun x => { x with activeB := !x.activeB } else s

/-- The reference stops or leaves tolerance (R467): every die raises REFCLK_LOST and holds over. -/
def refclkLoss (s : State) : State :=
  (List.finRange 6).foldl (fun t d => if (t.die d).refOk
    then (t.modDie d fun x => { x with refOk := false }).raisePower d 0x0E05 none else t) s

/-- The reference is back in tolerance (R467). -/
def refclkRestored (s : State) : State :=
  (List.finRange 6).foldl (fun t d => t.modDie d fun x => { x with refOk := true }) s

/-- PWR_CLK_STATUS (R490), valid from boot step 2. `a` and `b` say of a PLL under relock and qualification whether it has locked,
which is timing (R466; log entry 7). -/
def DieState.clkStatus (x : DieState) (a b : Bool) : Nat :=
  let lock (p : PllState) (early : Bool) : Bool := decide (p = .locked) || (decide (p = .relocking) && early)
  (if x.activeB then 1 else 0) + (if lock x.pllA a then 2 else 0) + (if lock x.pllB b then 4 else 0) +
  (if x.pll (!x.activeB) = .locked then 8 else 0) + (if x.refOk then 16 else 32)

/-! ### The commands -/

def execArbitrationPhase (d : CDie × Option (Fin 3)) (s : State) : Out := .next (s.ifDie (cdieDie d.1) (arbitrationPhase d.1 d.2))
def execThermalReading (d : Die) (sensor : Fin 16) (celsius : Int) (s : State) : Out :=
  .next (thermalReading d sensor celsius s)
def execPkgCapChange (level : Bool) (s : State) : Out := .next (pkgCapChange level s)
def execPowerCapApply (d : CDie) (s : State) : Out := .next (s.ifDie (cdieDie d) (powerCapApply d))
def execPllLost (d : Die) (pllB : Bool) (s : State) : Out := .next (pllLost d pllB s)
def execPllRelockEnd (d : Die) (pllB ok : Bool) (s : State) : Out := .next (pllRelockEnd d pllB ok s)
def execRefclkLoss (s : State) : Out := .next (refclkLoss s)
def execRefclkRestored (s : State) : Out := .next (refclkRestored s)
def execThermtripAnalog (d : Die) (s : State) : Out := .next (thermtripAnalog d s)

end Sys2Proof.Machine
end

