-- ==== Sys2Proof/Machine/Report.lean ====
section
/-! DEFINITION. Report: the error reporter of each die (R517 to R522) and the mortar links (R516). -/

namespace Sys2Proof.Machine

/-! ### Records (R517) -/

/-- The FLAGS byte. -/
def ErrRec.flags (r : ErrRec) : Nat :=
  (if r.rep.precise then 1 else 0) + (if r.rep.tallyPoisoned then 2 else 0) + (if r.rep.pcValid then 4 else 0) +
  (if r.rep.epochValid then 8 else 0) + (if r.afterOverflow then 16 else 0)

/-- The 32 bytes of a record of die `d`. -/
def ErrRec.bytes (r : ErrRec) (d : Die) : List Byte :=
  leBytes 4 r.seq.toNat ++ leBytes 2 r.rep.code.toNat ++ leBytes 1 d.val ++ [r.rep.srcUnit, r.rep.srcInst] ++
  leBytes 1 r.rep.sub.toNat ++ leBytes 2 r.flags ++ leBytes 4 r.rep.epoch.toNat ++
  leBytes 8 r.rep.pc.toNat ++ leBytes 8 r.rep.info.toNat

/-- Put a record's bytes in eight registers from `o`. -/
def State.setRec (s : State) (d : Die) (o : Nat) (r : ErrRec) : State :=
  (List.range 8).foldl (fun t i => t.setReg (dr d (o + 4 * i)) (BitVec.ofNat 32 (natAt (r.bytes d) (4 * i) 4))) s

/-! ### Acceptance (R519, R521, R522) -/

/-- Where a report stands among those of one cycle (R519). -/
def Report.rank (r : Report) : Nat := r.srcUnit.toNat * 65536 + r.srcInst.toNat * 256 + r.sub.toNat

/-- Put a report behind those of its rank or less. -/
def insertReport (r : Report) : List Report → List Report
  | [] => [r]
  | q :: qs => if r.rank < q.rank then r :: q :: qs else q :: insertReport r qs

/-- The class of a code (R15). -/
def codeClass (c : BitVec 16) : Nat := c.toNat / 256

/-- The key of a unit in the first-error captures (R522). -/
def unitKey (u i : Byte) : Nat := u.toNat + 256 * i.toNat

/-- A report in the last-report buffer is dropped (R521). -/
def State.dropReport (s : State) (d : Die) (r : ErrRec) : State :=
  let o := dr d (0x2080 + 4 * (codeClass r.rep.code - 1))
  (s.setReg o (BitVec.ofNat 32 (min ((s.reg o).toNat + 1) full32))).count (Blk.die d).base 0x20DC 0x20C0 1

/-- A die accepts one report (R519, R521): it is numbered, it updates REL_LAST, REL_FIRST and its unit's capture,
and it is queued or buffered. -/
def State.acceptReport (s : State) (d : Die) (r : Report) : State :=
  let e : ErrRec := ⟨(s.die d).seqNext, r, false⟩
  let t := s.modDie d fun x => { x with seqNext := x.seqNext + 1 }
  let t := t.setRec d 0x2040 e
  let t := if (t.reg (dr d 0x2000)).getLsbD 31 then t else (t.setRec d 0x2020 e).orReg (dr d 0x2000) 0x80000000
  let k := unitKey r.srcUnit r.srcInst
  let t := t.modDie d fun x =>
    if (SMap.find x.ufirst k).isSome then x else { x with ufirst := SMap.ins x.ufirst k r.code }
  let x := t.die d
  match x.lastBuf with
  | none => if x.errQueue.length < 48 then t.modDie d fun x => { x with errQueue := x.errQueue ++ [e] }
    else t.modDie d fun x => { x with lastBuf := some e }
  | some old => (t.dropReport d old).modDie d fun x => { x with lastBuf := some e }

/-- A die accepts the reports presented to it, those of one cycle in order of (SRC_UNIT, SRC_INST, SUB) (R519). -/
def errorReport (d : Die) (s : State) : State :=
  let rs := (s.die d).presented.foldl (fun acc r => insertReport r acc) []
  rs.foldl (fun t r => t.acceptReport d r) (s.modDie d fun x => { x with presented := [] })

/-- The REL_OVERFLOW record of a class (R517, R521). -/
def overflowRec (seq : Word) (c count : Nat) : ErrRec :=
  ⟨seq, { plainReport 0x0F01 0x0E 0 0xF with info := BitVec.ofNat 64 (count + 4294967296 * c) }, false⟩

/-- When the queue holds fewer than 32 records, the lost counts and the buffered report are queued (R521). -/
def overflowFlush (d : Die) (s : State) : State :=
  match (s.die d).lastBuf with
  | none => s
  | some e =>
    if (s.die d).errQueue.length < 32 then
      let lost := (List.range 16).filter fun i => s.reg (dr d (0x2080 + 4 * i)) != 0
      let recs := lost.map fun i => overflowRec e.seq (i + 1) (s.reg (dr d (0x2080 + 4 * i))).toNat
      let t := lost.foldl (fun u i => u.setReg (dr d (0x2080 + 4 * i)) 0) s
      t.modDie d fun x => { x with
        errQueue := x.errQueue ++ recs ++ [{ e with afterOverflow := !lost.isEmpty }], lastBuf := none }
    else s

/-! ### The error ring (R520) -/

def State.ringSize (s : State) (d : Die) : Nat := 2 ^ (7 + (s.reg (dr d 0x2004)).toNat / 4 % 16)

def State.ringFull (s : State) (d : Die) : Bool :=
  decide ((s.reg (dr d 0x2014) - s.reg (dr d 0x2010)).toNat = s.ringSize d)

/-- The oldest queued record is written to the ring. -/
def errorRingWrite (d : Die) (s : State) : State :=
  match (s.die d).errQueue with
  | [] => s
  | r :: rs =>
    if (s.reg (dr d 0x2004)).getLsbD 0 && !s.ringFull d then
      let tail := s.reg (dr d 0x2014)
      let a := (s.reg64 (dr d 0x2008)).toNat + 32 * (tail.toNat % s.ringSize d)
      let t := if s.nearOk a 32 then s.store a (r.bytes d) else s
      let t := ((t.setReg (dr d 0x2014) (tail + 1)).count (Blk.die d).base 0x20DC 0x20C8 1).modDie d fun x =>
        { x with errQueue := rs }
      if (s.reg (dr d 0x2004)).getLsbD 1 then t.irqDie d else t
    else s

/-- A write of REL_RING_CTRL (R520). -/
def State.wrRingCtrl (s : State) (d : Die) (v : Word) : State :=
  let base := (s.reg64 (dr d 0x2008)).toNat
  let size := v.toNat / 4 % 16
  let keep := v.toNat % 64 - v.toNat % 2
  if v.getLsbD 0 then
    if size ≤ 8 ∧ base % (32 * 2 ^ (7 + size)) = 0 ∧ s.nearOk base (32 * 2 ^ (7 + size)) then
      s.setReg (dr d 0x2004) (BitVec.ofNat 32 (keep + 1))
    else s.setReg (dr d 0x2004) (BitVec.ofNat 32 (keep + 64))
  else s.setReg (dr d 0x2004) (BitVec.ofNat 32 keep ||| (s.reg (dr d 0x2004) &&& 64))

/-- REL_STATUS (R524), FIRST_VALID as stored. -/
def State.relStatus (s : State) (d : Die) : Nat :=
  (s.die d).errQueue.length + (if (s.die d).lastBuf.isSome then 128 else 0) + (if s.ringFull d then 256 else 0)

/-! ### Mortar links (R516, R527) -/

/-- A report of a reliability unit (R583). -/
def State.raiseRel (s : State) (d : Die) (code : BitVec 16) (inst : Nat) (info : Option DWord) : State :=
  s.raiseWith d (plainReport code 0x0E (BitVec.ofNat 8 inst) 0xF) info

/-- A lane of the direction that a die sends on an edge fails (R516): repaired onto a spare lane while at most 2
lanes of the module have failed; else the module leaves service, and with the last one the direction is down and
what it carries is lost. The failure is recorded (R534). -/
def mortarLaneFail (d : Die) (edge : Fin 3) (m : Fin 16) (lane : Fin 8) (s : State) : State :=
  let old := ((s.die d).tx.get edge).get m
  if (edgeFar d.val edge.val).isNone || old.testBit lane.val || decide (laneCount old > 2) then s
  else
    let new := old + 2 ^ lane.val
    let t := s.modDie d fun x => { x with tx := x.tx.set edge ((x.tx.get edge).set m new) }
    let t := t.failed ⟨d.val, 0x0C, edge.val, 0, m.val + 16 * new⟩
    if laneCount new ≤ 2 then t.raiseRel d 0x0F0E edge.val none
    else
      let t := t.raiseRel d 0x0F0F edge.val none
      if t.modules d edge = 0 then
        let u := t.raiseRel d 0x0F10 edge.val none
        { u with msgs := u.msgs.filter fun x => u.reachable x }
      else t

/-- A flit that fails its CRC is replayed (R516). -/
def flitCrcFail (d : Die) (edge : Fin 3) (s : State) : State :=
  if (edgeFar d.val edge.val).isNone then s
  else s.count (Blk.mortar d).base 0x28 (0x10 + 8 * edge.val) 1

/-- FAB_EDGE_STATUS (R527): modules of both directions once the edge is trained (R540 step 7). -/
def State.edgeStatus (s : State) (d : Die) (e : Fin 3) : Nat :=
  match edgeFar d.val e.val with
  | some (f, fe) =>
    if (s.die d).trained then
      let txm := s.modules d e
      let rxm := s.modules ⟨f % 6, by omega⟩ ⟨fe % 3, by omega⟩
      txm + 32 * rxm + (if 0 < txm ∧ 0 < rxm then 1024 else 0)
    else 0
  | none => 0

/-! ### The commands -/

def execErrorReport (d : Die) (s : State) : Out := .next (s.ifDie d (errorReport d))
def execOverflowFlush (d : Die) (s : State) : Out := .next (s.ifDie d (overflowFlush d))
def execErrorRingWrite (d : Die) (s : State) : Out := .next (s.ifDie d (errorRingWrite d))
def execMortarLaneFail (d : Die) (edge : Fin 3) (m : Fin 16) (lane : Fin 8) (s : State) : Out :=
  .next (mortarLaneFail d edge m lane s)
def execFlitCrcFail (d : Die) (edge : Fin 3) (s : State) : Out := .next (flitCrcFail d edge s)

end Sys2Proof.Machine
end

