-- ==== Sys2Proof/Machine/Iscon.lean ====
section
/-! DEFINITION. Iscon: how a course controller issues one instruction (R197 to R204), and the scalar and control
instructions that touch no memory (R206 to R208, R238). -/

namespace Sys2Proof.Machine

/-- What an instruction does once its guard holds (R203): it goes on at the next instruction, goes on at an
address, leaves the place of the controller to the state it gives, acts once the controller stands at the next
instruction, or faults precisely; a unit that it asked may have changed its state even so. -/
inductive Act where
  | next (t : State)
  | goto (t : State) (pc : Addr)
  | stay (t : State)
  | post (t : State) (f : State → State)
  | fault (code : BitVec 16) (einfo : Option DWord)
  | faultIn (t : State) (code : BitVec 16) (einfo : Option DWord)

/-- The controller of a course issues: it is RUNNING, no wait or stall holds it, its die has a clock, and in
partitioned mode its virtual function is enabled (R41, R198, R212, R225, R466). -/
def State.issuing (s : State) (g : Course) : Bool :=
  let c := s.course g
  decide (c.ctl = .running) && c.wait.isNone && c.stalled.isNone && s.courseRuns g

/-- The poison marks of the four 64-byte lines of the 256-byte line at `a`. -/
def State.lineMask (s : State) (a : Nat) : Nat := maskOf id ((List.range 4).map fun i => s.dirty (a + 64 * i) 64)

/-- The line of the instruction buffer that holds the instruction at PC, if one does (R199). -/
def CourseState.lineAt (c : CourseState) : Option IbufLine :=
  match SMap.find c.ibuf (c.pc.toNat / 256 % 256) with
  | some v => if v.tag = c.pc.toNat / 65536 then some v else none
  | none => none

/-- Fetch at PC through the instruction buffer (R199): an address outside near memory, or poisoned data, is
ISCON_FETCH. A hit sees what the buffer took when it was filled. -/
def State.fetch (s : State) (g : Course) : State × Bool :=
  let pc := (s.course g).pc.toNat
  match s.physOf (g.val / 8) pc with
  | none => (s, false)
  | some a =>
    if !s.nearOk a 8 then (s, false)
    else
      match (s.course g).lineAt with
      | some v => (s, !v.poison.testBit (pc / 64 % 4))
      | none =>
        let m := s.lineMask (a - a % 256)
        (s.modCourse g fun c =>
          { c with ibuf := SMap.ins c.ibuf (pc / 256 % 256) ⟨pc / 65536, m, s.bytes (a - a % 256) 256⟩ }, !m.testBit (pc / 64 % 4))

/-- The word that a course fetches at PC: from its instruction buffer, which does not see later writes, or from memory (R199). -/
def State.nextWord (s : State) (g : Course) : BitVec 64 :=
  let pc := (s.course g).pc.toNat
  match (s.course g).lineAt with
  | some v => BitVec.ofNat 64 (leNat ((v.bytes.drop (pc % 256)).take 8))
  | none => match s.physOf (g.val / 8) pc with
    | some a => BitVec.ofNat 64 (s.rdN a 8)
    | none => 0

/-- The instruction that a course issues next, by the word at PC; none where its OP is reserved (R199, R205). -/
def State.nextInstr (s : State) (g : Course) : Option Instr := decodeInstr g (s.nextWord g)

/-- SUB of a fault precise at issue of the word at PC: the queue of an engine instruction, else 0x8 (R205, R583). -/
def State.opSub (s : State) (g : Course) : BitVec 4 :=
  let op := (s.nextWord g >>> 56).toNat
  if 128 ≤ op then BitVec.ofNat 4 (op / 16 % 8) else 0x8

/-- Every bit field of the list is 0. -/
def zeros (w : BitVec 56) (z : List (Nat × Nat)) : Bool := z.all fun f => fld w f.1 f.2 == 0

/-- R203 step 1: GN with GP = 0, a bit marked 0, or an instruction that Iscon v1 lacks. -/
def State.illegal (s : State) (g : Course) (w : BitVec 56) (z : List (Nat × Nat)) (v2only : Bool) : Bool :=
  (w.getLsbD 55 && fld w 54 52 == 0) || !zeros w z || (v2only && (s.course g).v1)

/-- p[GP] XOR GN (R202). -/
def CourseState.guard (c : CourseState) (w : BitVec 56) : Bool := c.rp (fldP w 52) != w.getLsbD 55

/-- The result of an instruction on its course. -/
def State.act (s : State) (g : Course) (sub : BitVec 4) : Act → State
  | .next t => t.modCourse g fun c => { c with pc := c.pc + 8 }
  | .goto t pc => t.modCourse g fun c => { c with pc := pc }
  | .stay t => t
  | .post t f => f (t.modCourse g fun c => { c with pc := c.pc + 8 })
  | .fault code einfo => s.precise g code sub einfo
  | .faultIn t code einfo => t.precise g code sub einfo

/-- Count an instruction issued (R243 CCR_ISSUED; log entry 15). -/
def State.issued (s : State) (g : Course) : State := s.countC g 0xD8 0xC0 1

/-- Issue one instruction (R203): nothing while the controller does not issue; then fetch, the checks of step 1,
the guard, and the instruction. `sub` is SUB of its precise faults (R583). The word comes with the command, and is the one at PC
(log entry 14); where OP of the word at PC is reserved, that is what is issued. -/
def State.issue (s : State) (g : Course) (w : BitVec 56) (sub : BitVec 4) (z : List (Nat × Nat)) (v2only : Bool)
    (body : State → Act) : State :=
  if !s.issuing g then s
  else
    let (t, ok) := s.fetch g
    if !ok then t.precise g 0x0505 0x8 (some ((t.course g).pc.setWidth 64))
    else if (s.nextInstr g).isNone then t.precise g 0x0501 (s.opSub g) none
    else if t.illegal g w z v2only then t.precise g 0x0501 sub none
    else if !(t.course g).guard w then (t.issued g).modCourse g fun c => { c with pc := c.pc + 8 }
    else match body t with
      | .fault code einfo => t.act g sub (.fault code einfo)
      | .faultIn u code einfo => t.act g sub (.faultIn u code einfo)
      | .next u => t.act g sub (.next (u.issued g))
      | .goto u pc => t.act g sub (.goto (u.issued g) pc)
      | .stay u => t.act g sub (.stay (u.issued g))
      | .post u f => t.act g sub (.post (u.issued g) f)

/-- The value of the first field of a list that is not 0. -/
def badField (w : BitVec 56) (z : List (Nat × Nat)) : DWord :=
  match z.find? fun f => fld w f.1 f.2 != 0 with
  | some f => BitVec.ofNat 64 (fld w f.1 f.2)
  | none => 0

/-- A field that must be 0 under R203 step 3, and is not, faults ISCON_OPERAND with its value (R237). -/
def needZero (w : BitVec 56) (z : List (Nat × Nat)) (a : Act) : Act :=
  if zeros w z then a else .fault 0x0502 (some (badField w z))

/-- An instruction that changes only its course. -/
def State.onCourse (s : State) (g : Course) (f : CourseState → CourseState) : Act := .next (s.modCourse g f)

/-! ### Formats R and I (R206, R207) -/

/-- sD := sA op sB. -/
def execR (f : DWord → DWord → DWord) (g : Course) (w : BitVec 56) (s : State) : State :=
  s.issue g w 0x8 [(36, 0)] false fun t => t.onCourse g fun c => c.ws (fldS w 47) (f (c.rs (fldS w 42)) (c.rs (fldS w 37)))

/-- sD := sA op IMM; `z` must be 0. -/
def execI (f : DWord → DWord → DWord) (z : List (Nat × Nat)) (g : Course) (w : BitVec 56) (s : State) : State :=
  s.issue g w 0x8 [(41, 32)] false fun t =>
    needZero w z (t.onCourse g fun c => c.ws (fldS w 47) (f (c.rs (fldS w 42)) (imm64 w)))

/-- A shift amount: bits [5:0] (R207). -/
def shamt (b : DWord) : Nat := b.toNat % 64

def execAdd (g : Course) (w : BitVec 56) (s : State) : Out := .next (execR (· + ·) g w s)
def execSub (g : Course) (w : BitVec 56) (s : State) : Out := .next (execR (· - ·) g w s)
def execAnd (g : Course) (w : BitVec 56) (s : State) : Out := .next (execR (· &&& ·) g w s)
def execOr (g : Course) (w : BitVec 56) (s : State) : Out := .next (execR (· ||| ·) g w s)
def execXor (g : Course) (w : BitVec 56) (s : State) : Out := .next (execR (· ^^^ ·) g w s)
def execShl (g : Course) (w : BitVec 56) (s : State) : Out := .next (execR (fun a b => a <<< shamt b) g w s)
def execShr (g : Course) (w : BitVec 56) (s : State) : Out := .next (execR (fun a b => a >>> shamt b) g w s)
def execSra (g : Course) (w : BitVec 56) (s : State) : Out := .next (execR (fun a b => a.sshiftRight (shamt b)) g w s)
def execMul (g : Course) (w : BitVec 56) (s : State) : Out := .next (execR (· * ·) g w s)
/-- The unsigned high 64 bits of the product. -/
def mulHigh (a b : DWord) : DWord := BitVec.ofNat 64 (a.toNat * b.toNat / 2 ^ 64)
def execMulhu (g : Course) (w : BitVec 56) (s : State) : Out := .next (execR mulHigh g w s)
def execMin (g : Course) (w : BitVec 56) (s : State) : Out := .next (execR (fun a b => if a.slt b then a else b) g w s)
def execMax (g : Course) (w : BitVec 56) (s : State) : Out := .next (execR (fun a b => if a.slt b then b else a) g w s)
def execMinu (g : Course) (w : BitVec 56) (s : State) : Out := .next (execR (fun a b => if a.ult b then a else b) g w s)
def execMaxu (g : Course) (w : BitVec 56) (s : State) : Out := .next (execR (fun a b => if a.ult b then b else a) g w s)
def execAddi (g : Course) (w : BitVec 56) (s : State) : Out := .next (execI (· + ·) [] g w s)
def execAndi (g : Course) (w : BitVec 56) (s : State) : Out := .next (execI (· &&& ·) [] g w s)
def execOri (g : Course) (w : BitVec 56) (s : State) : Out := .next (execI (· ||| ·) [] g w s)
def execXori (g : Course) (w : BitVec 56) (s : State) : Out := .next (execI (· ^^^ ·) [] g w s)
def execShli (g : Course) (w : BitVec 56) (s : State) : Out :=
  .next (execI (fun a b => a <<< shamt b) [(31, 6)] g w s)
def execShri (g : Course) (w : BitVec 56) (s : State) : Out :=
  .next (execI (fun a b => a >>> shamt b) [(31, 6)] g w s)
def execSrai (g : Course) (w : BitVec 56) (s : State) : Out :=
  .next (execI (fun a b => a.sshiftRight (shamt b)) [(31, 6)] g w s)
def execLi (g : Course) (w : BitVec 56) (s : State) : Out := .next (execI (fun _ b => b) [(46, 42)] g w s)
/-- IMM × 2^32 OR sA[31:0]. -/
def luiValue (a b : DWord) : DWord := (b <<< 32) ||| (a &&& 0xFFFFFFFF)
def execLui (g : Course) (w : BitVec 56) (s : State) : Out := .next (execI luiValue [] g w s)

/-! ### Format A (R206, R207) -/

/-- An instruction of format A; the fields it does not use must be 0. -/
def execA (z : List (Nat × Nat)) (f : CourseState → CourseState) (g : Course) (w : BitVec 56) (s : State) : State :=
  s.issue g w 0x8 [(47, 47), (37, 32)] false fun t => needZero w z (t.onCourse g f)

def execAmov (g : Course) (w : BitVec 56) (s : State) : Out :=
  .next (execA [(46, 43), (31, 0)] (fun c => c.wa (fldA w 48) ((c.rs (fldS w 38)).setWidth 48)) g w s)
def execAaddi (g : Course) (w : BitVec 56) (s : State) : Out :=
  .next (execA [(42, 38)] (fun c => c.wa (fldA w 48) (c.ra (fldA w 43) + (imm64 w).setWidth 48)) g w s)
def execAadd (g : Course) (w : BitVec 56) (s : State) : Out :=
  .next (execA [(31, 0)] (fun c => c.wa (fldA w 48) (c.ra (fldA w 43) + (c.rs (fldS w 38)).setWidth 48)) g w s)
def execSmov (g : Course) (w : BitVec 56) (s : State) : Out :=
  .next (execA [(51, 48), (31, 0)] (fun c => c.ws (fldS w 38) ((c.ra (fldA w 43)).setWidth 64)) g w s)

/-! ### Predicates (R207, R208) -/

/-- A comparison by its CC; none where CC is reserved. -/
def compareCC (cc : Nat) (a b : DWord) : Option Bool :=
  match cc with
  | 0 => some (a == b)
  | 1 => some (a != b)
  | 2 => some (a.slt b)
  | 3 => some (!a.slt b)
  | 4 => some (a.ult b)
  | 5 => some (!a.ult b)
  | _ => none

/-- cmp and cmpi: pD := sA CC b. -/
def execC (z : List (Nat × Nat)) (b : CourseState → DWord) (g : Course) (w : BitVec 56) (s : State) : State :=
  s.issue g w 0x8 [(35, 32)] false fun t => needZero w z <|
    match compareCC (fld w 48 46) ((t.course g).rs (fldS w 41)) (b (t.course g)) with
    | some v => t.onCourse g fun c => c.wp (fldP w 49) v
    | none => .fault 0x0502 (some (BitVec.ofNat 64 (fld w 48 46)))

def execCmp (g : Course) (w : BitVec 56) (s : State) : Out :=
  .next (execC [(31, 0)] (fun c => c.rs (fldS w 36)) g w s)
def execCmpi (g : Course) (w : BitVec 56) (s : State) : Out := .next (execC [(40, 36)] (fun _ => imm64 w) g w s)

/-- A logic function by its FN; none where FN is reserved. -/
def logicFN (fn : Nat) (a b : Bool) : Option Bool :=
  match fn with
  | 0 => some (a && b)
  | 1 => some (a || b)
  | 2 => some (a != b)
  | 3 => some (a && !b)
  | _ => none

def execPlog (g : Course) (w : BitVec 56) (s : State) : Out :=
  .next (s.issue g w 0x8 [(39, 0)] false fun t =>
    match logicFN (fld w 48 46) ((t.course g).rp (fldP w 43)) ((t.course g).rp (fldP w 40)) with
    | some v => t.onCourse g fun c => c.wp (fldP w 49) v
    | none => .fault 0x0502 (some (BitVec.ofNat 64 (fld w 48 46))))

/-! ### Jumps and control (R201, R207, R238) -/

/-- sL := PC + 8 (R207). -/
def CourseState.link (c : CourseState) (i : Fin 32) : CourseState := c.ws i ((c.pc + 8).setWidth 64)

def execJmp (g : Course) (w : BitVec 56) (s : State) : Out :=
  .next (s.issue g w 0x8 [(41, 32)] false fun t => needZero w [(46, 42)] <|
    .goto (t.modCourse g fun c => c.link (fldS w 47)) ((t.course g).pc + 8 * (imm64 w).setWidth 48))

/-- A target that is not 8-byte aligned faults ISCON_ALIGN (R201). -/
def execJr (g : Course) (w : BitVec 56) (s : State) : Out :=
  .next (s.issue g w 0x8 [(41, 32)] false fun t => needZero w [(31, 0)] <|
    let target : Addr := ((t.course g).rs (fldS w 42)).setWidth 48
    if target.toNat % 8 = 0 then .goto (t.modCourse g fun c => c.link (fldS w 47)) target
    else .fault 0x0503 (some (target.setWidth 64)))

def execEret (g : Course) (w : BitVec 56) (s : State) : Out :=
  .next (s.issue g w 0x8 [(51, 0)] false fun t =>
    .goto (t.modCourse g fun c => { c with inTrap := false }) ((t.reg64 (cr g 0x20)).setWidth 48))

def execHalt (g : Course) (w : BitVec 56) (s : State) : Out :=
  .next (s.issue g w 0x8 [(51, 0)] false fun t => t.onCourse g fun c => { c with ctl := .halted })

def execBrk (g : Course) (w : BitVec 56) (s : State) : Out :=
  .next (s.issue g w 0x8 [(51, 0)] false fun _ => .fault 0x050A none)

def execNop (g : Course) (w : BitVec 56) (s : State) : Out :=
  .next (s.issue g w 0x8 [(51, 0)] false fun t => .next t)

end Sys2Proof.Machine
end

