-- ==== Sys2Proof/Machine/Rng.lean ====
section
/-! DEFINITION. Rng: rounding streams (R180 to R184): Philox, bindings, the rows given to consumers, and rng.bind. -/

namespace Sys2Proof.Machine

/-! ### Philox-4x32-10 (R180) -/

/-- The four counter words and the two key words. -/
structure Philox where
  x0 : Word
  x1 : Word
  x2 : Word
  x3 : Word
  k0 : Word
  k1 : Word
  deriving DecidableEq, Repr

def mulHi32 (a b : Word) : Word := BitVec.ofNat 32 (a.toNat * b.toNat / 4294967296)

/-- One round on the counter. -/
def Philox.round (p : Philox) : Philox :=
  { p with x0 := mulHi32 0xCD9E8D57 p.x2 ^^^ p.x1 ^^^ p.k0, x1 := 0xCD9E8D57 * p.x2,
           x2 := mulHi32 0xD2511F53 p.x0 ^^^ p.x3 ^^^ p.k1, x3 := 0xD2511F53 * p.x0 }

/-- The key of the next round. -/
def Philox.bump (p : Philox) : Philox := { p with k0 := p.k0 + 0x9E3779B9, k1 := p.k1 + 0xBB67AE85 }

def Philox.more : Nat → Philox → Philox
  | 0, p => p
  | n + 1, p => Philox.more n p.bump.round

def philox (p : Philox) : Philox := Philox.more 9 p.round

/-- Output word i. -/
def Philox.word (p : Philox) (i : Nat) : Word :=
  match i with
  | 0 => p.x0
  | 1 => p.x1
  | 2 => p.x2
  | _ => p.x3

/-- The draw of row d and lane l (R181). -/
def drawAt (r : Rows) (g : Course) (d l : Nat) : Nat :=
  let x3 := r.stream.toNat * 65536 + (g.val / 8) * 4096 + (g.val % 8) * 512 + l % 512
  let p := philox ⟨BitVec.ofNat 32 (d / 4), BitVec.ofNat 32 (d / 4 / 4294967296), 0, BitVec.ofNat 32 x3, r.k0, r.k1⟩
  (p.word (d % 4)).toNat / 256

/-- The draw of element ordinal i of a consumer (R183). The row number is a 64-bit quantity. -/
def Rows.draw (r : Rows) (g : Course) (i : Nat) : Nat := drawAt r g ((r.row.toNat + i / 512) % 2 ^ 64) (i % 512)

/-- The rounding of element ordinal i: stochastic for a consumer that was given rows, else to nearest (R48). -/
def rndOf (rows : Option Rows) (g : Course) (i : Nat) : Rnd :=
  match rows with
  | some r => .sr (r.draw g i)
  | none => .rne

/-! ### Bindings (R181, R182) -/

/-- The binding of a stream. -/
def CourseState.binding (c : CourseState) (stream : BitVec 16) : Option Binding :=
  c.bindings.find? fun b => b.stream == stream

/-- The seed register of a course's die (R196). -/
def State.seed (s : State) (g : Course) : DWord := s.reg64 (dr (courseDie g) 0x6000)

/-- The binding that rng.bind makes (R181). -/
def State.newBinding (s : State) (g : Course) (stream : BitVec 16) (replica : Bool) (base : DWord) : Binding :=
  let k := if replica then s.seed g else s.seed g ^^^ s.reg64 (pr 8)
  ⟨stream, replica, k.setWidth 32, (k >>> 32).setWidth 32, base⟩

/-- rng.bind BIND (R182): the binding, unless the stream is bound or the table is full. -/
def State.bind (s : State) (g : Course) (stream : BitVec 16) (replica : Bool) (base : DWord) : Act :=
  let c := s.course g
  if (c.binding stream).isSome then .fault 0x0406 (some (stream.setWidth 64))
  else if 64 ≤ c.bindings.length then .fault 0x0407 (some (stream.setWidth 64))
  else .next (s.modCourse g fun c => { c with bindings := c.bindings ++ [s.newBinding g stream replica base] })

/-- rng.bind RELEASE (R182). -/
def State.unbind (s : State) (g : Course) (stream : BitVec 16) : Act :=
  if ((s.course g).binding stream).isSome then
    .next (s.modCourse g fun c => { c with bindings := c.bindings.filter fun b => b.stream != stream })
  else .fault 0x0408 (some (stream.setWidth 64))

/-- STREAM of an rng.bind (R224). -/
def rngStream (w : BitVec 56) : BitVec 16 := BitVec.ofNat 16 (fld w 44 29)

/-- The rows given to a consumer of n elements at its issue (R183): none where its stream is not bound. -/
def State.giveRows (s : State) (g : Course) (stream : BitVec 16) (n : Nat) : Option (Rows × State) :=
  match (s.course g).binding stream with
  | none => none
  | some b =>
    let rows := (n + 511) / 512
    let adv (e : Binding) : Binding := if e.stream = stream then { e with pos := e.pos + BitVec.ofNat 64 rows } else e
    some (⟨b.k0, b.k1, stream, b.pos⟩,
      (s.modCourse g fun c => { c with bindings := c.bindings.map adv }).countC g 0x1428 0x1420 rows)

/-- rng.bind with OPN = 0. Under Iscon v1 REPLICA must be 0 (R241). -/
def execRngBind (g : Course) (w : BitVec 56) (s : State) : Out :=
  .next (s.issue g w 0x8 [(28, 0)] false fun t =>
    if (t.course g).v1 && w.getLsbD 50 then .fault 0x0401 (some 1)
    else t.bind g (rngStream w) (w.getLsbD 50) ((t.course g).rs (fldS w 45)))

/-- rng.bind with OPN = 1; REPLICA and sB must be 0 (R224). -/
def execRngRelease (g : Course) (w : BitVec 56) (s : State) : Out :=
  .next (s.issue g w 0x8 [(28, 0)] false fun t =>
    if !zeros w [(50, 45)] then .fault 0x0401 (some (badField w [(50, 50), (49, 45)])) else t.unbind g (rngStream w))

end Sys2Proof.Machine
end

