-- ==== Sys2Proof/Machine/Sync.lean ====
section
/-! DEFINITION. Sync: tallies, waits, leave and locks as instructions (R220 to R236, R328, R330). -/

namespace Sys2Proof.Machine

/-- A tally number that Iscon v1 lacks (R241). -/
def CourseState.tallyBad (c : CourseState) (n : Nat) : Bool := c.v1 && decide (64 ≤ n)

def tallyNum (n : Nat) : Fin 256 := ⟨n % 256, by omega⟩

/-- tally.read (R224): sD[31:0] := value, sD[32] := poison. -/
def execTallyRead (g : Course) (w : BitVec 56) (s : State) : Out :=
  .next (s.issue g w 0x8 [(38, 0)] false fun t =>
    let n := fld w 46 39
    if (t.course g).tallyBad n then .fault 0x0502 (some (BitVec.ofNat 64 n))
    else t.onCourse g fun c => c.ws (fldS w 47)
      (BitVec.ofNat 64 ((c.tallyVal (tallyNum n)).toNat + (if c.tallyPoi (tallyNum n) then 4294967296 else 0))))

/-- The value of tally.add and tally.set (R223): IMM with IM = 1, sV[31:0] with IM = 0; the other must be 0 (R224). -/
def CourseState.tallyOperand (c : CourseState) (w : BitVec 56) : Option Word :=
  if w.getLsbD 43 then (if zeros w [(42, 38)] then some (w.setWidth 32) else none)
  else if zeros w [(31, 0)] then some ((c.rs (fldS w 38)).setWidth 32) else none

/-- The field of tally.add and tally.set that IM leaves unused (R224). -/
def tallyUnused (w : BitVec 56) : Nat := if w.getLsbD 43 then fld w 42 38 else fld w 31 0

/-- tally.add (R223): to the local tally, or with REM = 1 as a message to course GC, on the partition's die. -/
def execTallyAdd (g : Course) (w : BitVec 56) (s : State) : Out :=
  .next (s.issue g w 0x8 [] false fun t =>
    let c := t.course g
    let n := fld w 51 44
    let gc : Course := fldS w 32
    match c.tallyOperand w with
    | none => .fault 0x0502 (some (BitVec.ofNat 64 (tallyUnused w)))
    | some v =>
      if c.tallyBad n then .fault 0x0502 (some (BitVec.ofNat 64 n))
      else if w.getLsbD 37 then
        if c.v1 || (t.parted && decide (gc.val / 8 ≠ g.val / 8)) then
          .fault 0x0502 (some (BitVec.ofNat 64 (if c.v1 then 1 else gc.val)))
        else .next (t.send (.course g) (.course gc) (.tallyAdd (tallyNum n) v))
      else if gc.val ≠ 0 then .fault 0x0502 (some (BitVec.ofNat 64 gc.val))
      else .next ((t.modCourse g fun c => c.tallyAdd (tallyNum n) v).settle g))

/-- tally.set (R223, R224): V := value, P := 0; REM and GC must be 0. -/
def execTallySet (g : Course) (w : BitVec 56) (s : State) : Out :=
  .next (s.issue g w 0x8 [] false fun t =>
    let c := t.course g
    let n := fld w 51 44
    match c.tallyOperand w with
    | none => .fault 0x0502 (some (BitVec.ofNat 64 (tallyUnused w)))
    | some v =>
      if c.tallyBad n then .fault 0x0502 (some (BitVec.ofNat 64 n))
      else if !zeros w [(37, 32)] then .fault 0x0502 (some (badField w [(37, 37), (36, 32)]))
      else .next ((t.modCourse g fun c => c.setTally (tallyNum n) v false).settle g))

/-- T of a wait (R225, R241): sT[47:0] with sT[63:48] 0; under Iscon v1 sT must be s0 and T is CCR_V1_TIMEOUT. -/
def State.timeout (s : State) (g : Course) (i : Fin 32) : Option Nat :=
  let c := s.course g
  if c.v1 then (if i = 0 then some (s.reg (cr g 0x68)).toNat else none)
  else
    let v := (c.rs i).toNat
    if v < 2 ^ 48 then some v else none

/-- The operand of a wait whose timeout is not valid: sT, or under Iscon v1 its number. -/
def CourseState.badTimeout (c : CourseState) (i : Fin 32) : DWord := if c.v1 then BitVec.ofNat 64 i.val else c.rs i

/-- Begin a controller wait (R225, R226): it ends at once if its event is present, and with T = 0 it is tested once. -/
def State.beginWait (s : State) (g : Course) (sd : Fin 32) (k : WaitKind) (t : Nat) : State :=
  let u := ((s.modCourse g fun c => { c with wait := some ⟨sd, k⟩ }).startTicks (cr g 0xD0)).settle g
  if t = 0 ∧ (u.course g).wait.isSome then waitExpiry g u else u

/-- tally.wait (R224, R225): held by the controller, or by the queue that Q names. -/
def execTallyWait (g : Course) (w : BitVec 56) (s : State) : Out :=
  .next (s.issue g w 0x8 [(24, 0)] false fun t =>
    let c := t.course g
    let n := fld w 46 39
    let q := fld w 28 25
    let x : Word := (c.rs (fldS w 34)).setWidth 32
    match t.timeout g (fldS w 29) with
    | none => .fault 0x0502 (some (c.badTimeout (fldS w 29)))
    | some tm =>
      if c.tallyBad n then .fault 0x0502 (some (BitVec.ofNat 64 n))
      else if 8 < q then .fault 0x0502 (some (BitVec.ofNat 64 q))
      else if q < 8 ∧ !zeros w [(51, 47)] then .fault 0x0502 (some (badField w [(51, 47)]))
      else if q = 8 then .stay (t.beginWait g (fldS w 47) (.tally (tallyNum n) x) tm)
      else
        let e : QEntry := ⟨c.serial, c.pc, .queueWait (tallyNum n) x (decide (tm = 0)), false, 0, false, none, false, false⟩
        .stay ((t.modCourse g fun c => { c with serial := c.serial + 1 }).enqueue g ⟨q % 8, by omega⟩ e))

/-- fence (R225). -/
def execFence (g : Course) (w : BitVec 56) (s : State) : Out :=
  .next (s.issue g w 0x8 [(33, 0)] false fun t =>
    match t.timeout g (fldS w 34) with
    | none => .fault 0x0502 (some ((t.course g).badTimeout (fldS w 34)))
    | some tm => .stay (t.beginWait g (fldS w 47) (.fence (BitVec.ofNat 8 (fld w 46 39)) (t.course g).serial) tm))

/-- leave.hold (R236, R474): the request waits for its grant; with T = 0 none can be present in time. -/
def execLeaveHold (g : Course) (w : BitVec 56) (s : State) : Out :=
  .next (s.issue g w 0x8 [(36, 0)] true fun t =>
    let c := t.course g
    let n := (c.rs (fldS w 42)).toNat % 2 ^ 32
    match t.timeout g (fldS w 37) with
    | none => .fault 0x0502 (some (c.badTimeout (fldS w 37)))
    | some tm =>
      if n = 0 ∨ 65535 < n then .fault 0x0502 (some (c.rs (fldS w 42)))
      else if c.hold.isSome then .fault 0x0509 none
      else if t.dieCredits (courseCDie g) < n then .fault 0x0E02 (some (c.rs (fldS w 42)))
      else .stay ((t.tick).beginWait g (fldS w 47) (.leave n t.stamp 0) tm))

/-- leave.rel (R236). -/
def execLeaveRel (g : Course) (w : BitVec 56) (s : State) : Out :=
  .next (s.issue g w 0x8 [(51, 0)] true fun t => .next (t.releaseHold g))

/-- lock.acq (R328): the region must lie wholly in one backed stack of the partition, with BASE and LEN as R327
requires; the request goes to that stack's controller, which counts T. -/
def execLockAcq (g : Course) (w : BitVec 56) (s : State) : Out :=
  .next (s.issue g w 0x8 [(32, 0)] false fun t =>
    let c := t.course g
    let base := (c.ra (fldA w 43)).toNat
    let len := (c.rs (fldS w 38)).toNat % 2 ^ 32
    match t.timeout g (fldS w 33), t.physOf (g.val / 8) base with
    | none, _ => .fault 0x0502 (some (c.badTimeout (fldS w 33)))
    | some tm, some a =>
      if base % 64 = 0 ∧ len % 64 = 0 ∧ 64 ≤ len ∧ t.nearOk a len then
        let u := t.send (.course g) (.mem (stackOf a))
          (.lockReq ⟨a, len, g, (t.reg (cr g 0x1C)).setWidth 16, t.stamp, decide (tm = 0)⟩)
        .stay ((u.tick.modCourse g fun c => { c with wait := some ⟨fldS w 47, .lock a len t.stamp⟩ }).startTicks (cr g 0xD0))
      else .fault 0x0502 (some (BitVec.ofNat 64 base))
    | _, none => .fault 0x0502 (some (BitVec.ofNat 64 base)))

/-- lock.rel (R330): a release of the hold whose BASE is aR goes to its controller. -/
def execLockRel (g : Course) (w : BitVec 56) (s : State) : Out :=
  .next (s.issue g w 0x8 [(51, 47), (42, 0)] false fun t =>
    let base := ((t.course g).ra (fldA w 43)).toNat
    match t.physOf (g.val / 8) base with
    | some a =>
      if a < nearEnd then .next (t.send (.course g) (.mem (stackOf a)) (.lockRel a g ((t.reg (cr g 0x1C)).setWidth 16)))
      else .fault 0x0502 (some (BitVec.ofNat 64 base))
    | none => .fault 0x0502 (some (BitVec.ofNat 64 base)))

/-! ### Messages between courses (R21, R223, R385) -/

/-- The first message from one course to another, if `p` accepts it: it, and the messages left. -/
def takeFrom (src dst : Node) (p : MsgBody → Bool) : List Msg → Option (Msg × List Msg)
  | [] => none
  | m :: ms =>
    if m.src = src ∧ m.dst = dst then (if p m.body then some (m, ms) else none)
    else (takeFrom src dst p ms).map fun r => (r.1, m :: r.2)

/-- A remote tally.add arrives (R223). -/
def tallyAddRemote (src dst : Course) (s : State) : State :=
  match takeFrom (.course src) (.course dst) (fun b => match b with | .tallyAdd .. => true | _ => false) s.msgs with
  | some (m, rest) => match m.body with
    | .tallyAdd t v => (({ s with msgs := rest }).modCourse dst fun c => c.tallyAdd t v).settle dst
    | _ => s
  | none => s

/-- The notice of a red.send arrives (R385): the tally rises by 1, with P if a block was refused. -/
def redNoticeArrive (g : Course) (s : State) : State :=
  s.arrive (.course g) (fun b => match b with | .notice .. => true | _ => false) fun t m =>
    match m.body with
    | .notice x r => (t.modCourse g fun c =>
        let d := c.tallyAdd x 1
        if r then d.tallyPoison x else d).settle g
    | _ => t

def execTallyAddRemote (src dst : Course) (s : State) : Out := .next (tallyAddRemote src dst s)
def execRedNoticeArrive (g : Course) (s : State) : Out := .next (redNoticeArrive g s)

end Sys2Proof.Machine
end

