-- ==== Sys2Proof/Machine/Engine.lean ====
section
/-! DEFINITION. Engine: how engine instructions are issued (R203, R204, R211, R212), and the checks that they share. -/

namespace Sys2Proof.Machine

/-- The checks of TALLY and TE of an instruction (R211): with TE = 0 the field TALLY is unused, and a value other than 0 is the
operand fault of its class (R203 step 3; log entry 88); under Iscon v1 a tally above t63 faults ISCON_OPERAND (R241). -/
def tallyField (c : CourseState) (w : BitVec 56) (cls : BitVec 16) (a : Act) : Act :=
  let n := fld w 51 44
  if w.getLsbD 43 then (if c.tallyBad n then .fault 0x0502 (some (BitVec.ofNat 64 n)) else a)
  else if n = 0 then a
  else .fault cls (some (BitVec.ofNat 64 n))

/-- Issue an engine instruction of queue q (R203, R211): SUB of its precise faults is the queue (R583); `cls` is the operand fault
of its class. -/
def State.issueEngine (s : State) (g : Course) (w : BitVec 56) (q : QueueId) (z : List (Nat × Nat)) (v2only : Bool)
    (cls : BitVec 16) (body : State → Act) : State :=
  s.issue g w (BitVec.ofNat 4 q.val) z v2only fun t => tallyField (t.course g) w cls (body t)

/-- The queue entry of an instruction as it issues (R204, R211); MSN_ZSKIP_CTRL is captured with it (R104). -/
def State.entry (s : State) (g : Course) (w : BitVec 56) (op : EngineOp) (rows : Option Rows) : QEntry :=
  let c := s.course g
  let z := s.reg (cr g 0x1004)
  { serial := c.serial, pc := c.pc, op := op, te := w.getLsbD 43, tally := tallyNum (fld w 51 44)
    ntf := w.getLsbD 42, rows := rows, skipEn := z.getLsbD 0, zadvEn := z.getLsbD 0 && z.getLsbD 1 }

/-- Place an issued instruction in its queue (R212). -/
def State.submit (s : State) (g : Course) (w : BitVec 56) (q : QueueId) (op : EngineOp) (rows : Option Rows) : Act :=
  let e := s.entry g w op rows
  let t := s.modCourse g fun c => { c with serial := c.serial + 1, arr := c.arr.issued q e }
  .stay ((t.enqueue g q e).checkWindow g)

/-- The device physical address of `n` bytes from `a`, where they lie in the course's slice (R32, R39). -/
def State.slice (s : State) (g : Course) (a n : Nat) : Option Nat :=
  match s.physOf (g.val / 8) a with
  | some p => if inSlice g p n then some p else none
  | none => none

/-- Address register of a field, as an address. -/
def CourseState.aFld (c : CourseState) (w : BitVec 56) (lo : Nat) : Nat := (c.ra (fldA w lo)).toNat
/-- Scalar register of a field. -/
def CourseState.sFld (c : CourseState) (w : BitVec 56) (lo : Nat) : Nat := (c.rs (fldS w lo)).toNat

/-- An instruction with its rounding rows where RM is SR (R183), or the fault of an unbound stream (R203 step 6). -/
def State.withRows (s : State) (g : Course) (sr : Bool) (rng n : Nat) (unbound : BitVec 16)
    (k : State → Option Rows → Act) : Act :=
  if sr then
    match s.giveRows g (BitVec.ofNat 16 rng) n with
    | some (r, t) => k t (some r)
    | none => .fault unbound (some (BitVec.ofNat 64 rng))
  else k s none

/-- Go on if `ok`, else fault. -/
def guardAct (ok : Bool) (code : BitVec 16) (einfo : Option DWord) (a : Act) : Act := if ok then a else .fault code einfo

end Sys2Proof.Machine
end

