-- ==== Sys2Proof/Machine/ArrayIssue.lean ====
section
/-! DEFINITION. ArrayIssue: the checks at issue of msn.pass, msn.tile, tbl.build and drn.* (R83, R84, R86, R90, R94,
R117, R141, R142, R146, R149, R203, R215 to R218). -/

namespace Sys2Proof.Machine

/-! ### Enumerated fields (R217) -/

def passModeOf : Nat → Option PassMode
  | 0 => some .table
  | 1 => some .shift
  | 2 => some .popcount
  | _ => none

def idxFmtOf : Nat → Option IdxFmt
  | 0 => some .b1
  | 1 => some .t2
  | 2 => some .i2
  | 3 => some .i4
  | 4 => some .l4
  | _ => none

def tblFmtOf : Nat → Option TblFmt
  | 0 => some .bs8
  | 1 => some .bs16
  | 2 => some .b1
  | _ => none

def tokensOf : Nat → Option Nat
  | 0 => some 1
  | 1 => some 2
  | 2 => some 4
  | _ => none

def outFmtOf : Nat → Option OutFmt
  | 0 => some .fp32
  | 1 => some .bf16
  | 2 => some .e4m3
  | 3 => some .e5m2
  | 4 => some .bs8
  | 5 => some .bs16
  | _ => none

/-- Planes of an index format (R50). -/
def IdxFmt.planes : IdxFmt → Nat
  | .b1 => 1
  | .t2 => 2
  | .i2 => 2
  | .i4 => 4
  | .l4 => 4

def OutFmt.isBS : OutFmt → Bool
  | .bs8 => true
  | .bs16 => true
  | _ => false

/-- The element size of R146. -/
def OutFmt.size : OutFmt → Nat
  | .fp32 => 4
  | .bf16 => 2
  | .e4m3 => 1
  | .e5m2 => 1
  | .bs8 => 8
  | .bs16 => 8

/-- Bytes of a BS block (R57). -/
def bsBytes (wide : Bool) : Nat := if wide then 72 else 40

/-! ### msn.pass (R83, R84) -/

/-- The operands of an msn.pass, where they meet R83 and R84 (R203 step 3, R218). -/
def passOperands (c : CourseState) (w : BitVec 56) : Option PassOp :=
  match passModeOf (fld w 41 40), idxFmtOf (fld w 39 37), tblFmtOf (fld w 36 35), tokensOf (fld w 25 24) with
  | some mode, some ifmt, some tfmt, some t =>
    let plane := fld w 34 33
    let slice := fld w 32 31
    let g := c.sFld w 5
    let tbase := fld w 22 10
    let wide := decide (16 ≤ g) && decide (g % 16 = 0) && decide (tbase % 8 = 0)
    let bs := decide (tfmt ≠ .b1)
    let ok := match mode with
      | .table => decide (ifmt ≠ .l4) && bs && wide && decide (t = 1) && !w.getLsbD 23 && decide (slice < tfmt.q) &&
          (if ifmt = .t2 then decide (plane = 0) else decide (plane < ifmt.planes))
      | .shift => decide (ifmt = .l4) && bs && wide && !w.getLsbD 23 && decide (plane = 0) && decide (slice = 0)
      | .popcount => decide (ifmt = .b1) && decide (tfmt = .b1) && decide (1 ≤ g) && decide (plane = 0) &&
          decide (slice = 0) && !w.getLsbD 0
    if ok && decide (fld w 30 26 + t ≤ 32) then
      some ⟨mode, ifmt, tfmt, plane, slice, fld w 30 26, t, w.getLsbD 23, tbase, g, c.aFld w 1, w.getLsbD 0⟩
    else none
  | _, _, _, _ => none

/-- The capacity checks of R86, R90 and R94. -/
def PassOp.fits (o : PassOp) : Bool :=
  match o.mode with
  | .table => decide (o.tbase + o.g ≤ 1024)
  | .shift => decide (o.tbase + o.t * o.g * o.tfmt.q ≤ 8192)
  | .popcount => decide (o.tbase + o.t * o.g ≤ 512)

/-- msn.pass at issue: operands, capacity, slot state, and ISCALE in the slice and 16-byte aligned (R584). -/
def issuePass (g : Course) (w : BitVec 56) (t : State) : Act :=
  let c := t.course g
  match passOperands c w with
  | none => .fault 0x0101 none
  | some o =>
    if !o.fits then .fault 0x0102 none
    else if !c.arr.allOpen (slotMask o.slot o.t) then .fault 0x0302 none
    else match t.slice g o.iscale 16 with
      | some a => guardAct (decide (a % 16 = 0)) 0x0101 (some (BitVec.ofNat 64 o.iscale))
          (t.submit g w 0 (.msnPass { o with iscale := a }) none)
      | none => .fault 0x0101 (some (BitVec.ofNat 64 o.iscale))

/-! ### msn.tile (R141, R142) -/

def issueTile (g : Course) (w : BitVec 56) (t : State) : Act :=
  let c := t.course g
  let slot := fld w 41 37
  let n := fld w 36 32 + 1
  let discard := w.getLsbD 21
  if 32 < slot + n then .fault 0x0303 none
  else if !discard && (c.arr.progOpen &&& slotMask slot n != 0) then .fault 0x0302 none
  else t.submit g w 0 (.msnTile slot n (sext 10 (fld w 31 22)) discard) none

/-! ### tbl.build (R117, R118, R133, R216) -/

def runKindOf : Nat → RunKind
  | 0 => .subset
  | 1 => .signed
  | 2 => .sword
  | _ => .bits

/-- The operands of a tbl.build, where they meet R117 and R216; ADDR and SADDR as their registers hold them. -/
def buildOperands (c : CourseState) (w : BitVec 56) : Option BuildOp :=
  let kind := runKindOf (fld w 41 40)
  match tblFmtOf (fld w 39 38), tokensOf (fld w 28 27) with
  | some tfmt, some t =>
    let expand := w.getLsbD 37
    let slice := fld w 36 35
    let g := c.sFld w 22
    let tok0 := c.sFld w 7
    let bits := decide (kind = .bits)
    let table := decide (kind = .subset) || decide (kind = .signed)
    let tstride := if expand || bits then 0 else c.sFld w 12
    let ok := decide ((tfmt = .b1) ↔ (kind = .bits)) && !(bits && expand) &&
      (if table then decide (slice < tfmt.q) && decide (t = 1) else decide (slice = 0)) &&
      (if bits then decide (1 ≤ g) else decide (16 ≤ g) && decide (g % 16 = 0)) &&
      decide (tok0 < 2 ^ 20) && decide (tstride % 8 = 0) &&
      (if expand then decide (fld w 16 12 = 0) else !w.getLsbD 21 && (!bits || !w.getLsbD 16))
    if ok then
      some { kind := kind, tfmt := tfmt, expand := expand, slice := slice, drun := fld w 34 29, t := t, g := g
             tok0 := tok0, addr := if expand then 0 else c.aFld w 17
             stream := if expand then c.sFld w 17 % 2048 else 0, tstride := tstride
             saddr := if bits then c.aFld w 12 else 0 }
    else none
  | _, _ => none

/-- Channel word of channel n in plane row m of a B1 image with K = 256 G (R54, R119). -/
def BuildOp.wordAt (o : BuildOp) (n m : Nat) : Nat := o.addr + (n / 16 * (4 * o.g) + m) * 128 + 8 * (n % 16)
/-- Scale byte of channel n in 128-position chunk x of that image (R55, R119). -/
def BuildOp.scaleAt (o : BuildOp) (n x : Nat) : Nat := o.saddr + (n / 16 * (2 * o.g) + x) * 16 + n % 16

/-- A DIRECT build's source lies in the slice (R133): the build with device physical addresses. -/
def State.buildSource (s : State) (g : Course) (o : BuildOp) : Option BuildOp :=
  if o.expand then some o
  else
    let n := 16 * (s.course g).arr.logical * o.t
    match s.physOf (g.val / 8) o.addr with
    | none => none
    | some a =>
      if o.kind = .bits then
        match s.physOf (g.val / 8) o.saddr with
        | none => none
        | some b =>
          let p := { o with addr := a, saddr := b }
          let last := o.tok0 + n - 1
          let lo := p.wordAt o.tok0 0
          let slo := p.scaleAt o.tok0 0
          if inSlice g a 1 && inSlice g b 1 && inSlice g lo (p.wordAt last (4 * o.g - 1) + 8 - lo) &&
              inSlice g slo (p.scaleAt last (2 * o.g - 1) + 1 - slo) then some p else none
      else if inSlice g a ((n - 1) * o.tstride + o.g / 8 * bsBytes (decide (o.tfmt = .bs16))) then some { o with addr := a }
      else none

def issueBuild (g : Course) (w : BitVec 56) (t : State) : Act :=
  match buildOperands (t.course g) w with
  | none => .fault 0x0201 none
  | some o =>
    if 64 < o.drun + o.count then .fault 0x0202 none
    else match t.buildSource g o with
      | some p => t.submit g w 1 (.tblBuild p) none
      | none => .fault 0x0203 (some (BitVec.ofNat 64 o.addr))

/-! ### drn.out and drn.partial (R146 to R150) -/

/-- Strides of a drn.*: RSTRIDE and ISTRIDE. -/
def drainStrides (c : CourseState) (w : BitVec 56) : Nat × Nat := (c.sFld w 10 % 2 ^ 32, c.sFld w 10 / 2 ^ 32)

/-- Bytes from DST that a drn.* may write: its last byte's offset plus 1. -/
def DrainOp.extent (d : DrainOp) (arrays : Nat) : Nat :=
  let units := if d.ofmt.isBS && !d.part then d.count / 2 else d.count
  let row := if d.part then 256 else match d.ofmt with
    | .bs8 => 40
    | .bs16 => 72
    | f => 16 * f.size
  (units - 1) * d.istride + (16 * arrays - 1) * d.rstride + row

/-- Slot state and address checks of a drn.* whose operands are valid (R142, R149), then its rounding rows. -/
def issueDrain (g : Course) (w : BitVec 56) (size : Nat) (d : DrainOp) (rng : Nat) (t : State) : Act :=
  let c := t.course g
  if !c.arr.allOpen (slotMask d.slot d.count) then .fault 0x0302 none
  else match t.slice g d.dst (d.extent c.arr.logical) with
    | some a => guardAct (decide (a % size = 0)) 0x0304 (some (BitVec.ofNat 64 d.dst)) <|
        t.withRows g d.sr rng (2048 * d.count) 0x0303 fun u rows => u.submit g w 5 (.drain { d with dst := a }) rows
    | none => .fault 0x0304 (some (BitVec.ofNat 64 d.dst))

def issueDrnOut (g : Course) (w : BitVec 56) (t : State) : Act :=
  let c := t.course g
  match outFmtOf (fld w 31 29) with
  | none => .fault 0x0303 none
  | some f =>
    let (rs, is) := drainStrides c w
    let n := fld w 36 32 + 1
    let rm := fld w 28 27
    let rng := c.sFld w 5
    let ok := decide (fld w 41 37 + n ≤ 32) && decide (rm ≤ 1) && (!f.isBS || decide (n % 2 = 0)) &&
      decide (rs % f.size = 0) && decide (is % f.size = 0) && decide (rng < 65536) &&
      (decide (rm = 1) || decide (fld w 9 5 = 0))
    if ok then
      issueDrain g w f.size ⟨fld w 41 37, n, false, f, decide (rm = 1), w.getLsbD 26, sext 7 (fld w 25 19), c.aFld w 15, rs, is⟩
        rng t
    else .fault 0x0303 none

def issueDrnPartial (g : Course) (w : BitVec 56) (t : State) : Act :=
  let c := t.course g
  let (rs, is) := drainStrides c w
  let n := fld w 36 32 + 1
  if fld w 41 37 + n ≤ 32 ∧ rs % 16 = 0 ∧ is % 16 = 0 then
    issueDrain g w 16 ⟨fld w 41 37, n, true, .fp32, false, false, 0, c.aFld w 15, rs, is⟩ 0 t
  else .fault 0x0303 none

/-! ### The commands -/

def execMsnPass (g : Course) (w : BitVec 56) (s : State) : Out := .next (s.issueEngine g w 0 [] false 0x0101 (issuePass g w))
def execMsnTile (g : Course) (w : BitVec 56) (s : State) : Out := .next (s.issueEngine g w 0 [(20, 0)] false 0x0303 (issueTile g w))
def execTblBuild (g : Course) (w : BitVec 56) (s : State) : Out := .next (s.issueEngine g w 1 [(6, 0)] false 0x0201 (issueBuild g w))
def execDrnOut (g : Course) (w : BitVec 56) (s : State) : Out := .next (s.issueEngine g w 5 [(4, 0)] false 0x0303 (issueDrnOut g w))
def execDrnPartial (g : Course) (w : BitVec 56) (s : State) : Out :=
  .next (s.issueEngine g w 5 [(31, 19), (9, 0)] false 0x0303 (issueDrnPartial g w))

end Sys2Proof.Machine
end

