-- ==== Sys2Proof/Machine/Repoint.lean ====
section
/-! DEFINITION. Repoint: faults of the arrays, repointing and replay (R111, R132, R502 to R507), and fencing (R511). -/

namespace Sys2Proof.Machine

/-! ### Fencing (R511) -/

/-- The instruction that a stalled controller holds is discarded with the queue it would enter. -/
def State.dropStalled (s : State) (g : Course) : State :=
  match (s.course g).stalled with
  | some (_, e) => s.modCourse g fun c =>
      let c := c.discardTallies [e]
      { c with stalled := none, arr := c.arr.discard [e] }
  | none => s

/-- Every queue is flushed under R221. -/
def State.flushAll (s : State) (g : Course) : State :=
  (List.finRange 8).foldl (fun t q => t.flushQueue g q) (s.dropStalled g)

/-- The partner course k XOR 1 of the die (R510). -/
def partner (g : Course) : Course := if g.val % 2 = 0 then ⟨(g.val + 1) % 32, by omega⟩ else ⟨g.val - 1, by omega⟩

/-- An adoption of the course ends (R511). -/
def State.endAdoption (s : State) (g : Course) : State :=
  if (s.course g).adopted then
    (s.modCourse g fun c => { c with adopted := false }).modCourse (partner g) fun c => { c with adopting := false }
  else s

/-- A course is fenced (R511). -/
def State.fence (s : State) (g : Course) : State :=
  if (s.course g).ctl = .fenced then s
  else
    let t := (s.modCourse g fun c => { c with ctl := .fenced, wait := none, stopReq := false }).toStacks g (.breakNotice g)
    let t := (((t.flushAll g).releaseHold g).endAdoption g).settle g
    t.raiseRel (courseDie g) 0x0F08 (g.val % 8) none

/-! ### The arrays are cleared (R132, R142, R502) -/

/-- Nothing in flight, every active set CLOSED, every shadow set EMPTY. -/
def ArrayState.cleared (a : ArrayState) : ArrayState :=
  { a with active := [], shadow := [], pendOpen := [], fifo := Vector.replicate 8 []
           paths := Vector.replicate 8 none, swaps := [], drained := [] }

/-- Every run EMPTY, with the builds of the log that are still to be written pending (R116, R132). -/
def ArrayState.emptyRuns (a : ArrayState) (again : LogEntry → Bool) : ArrayState :=
  a.log.foldl (fun a l => match l.e.op with
    | .tblBuild o => if again l then a.accept o l.e.serial else a
    | _ => a) { a with runs := [] }

/-- Put a started instruction in issue order. -/
def insertStarted (i : Started) : List Started → List Started
  | [] => [i]
  | x :: xs => if i.e.serial ≤ x.e.serial then i :: x :: xs else x :: insertStarted i xs

/-- A completed instruction of the log, to be executed again (R503). -/
def LogEntry.again (l : LogEntry) : Started :=
  { e := l.e, credits := 0, src := .none, earlyReturned := false, prog := 0, lead := false, done := false, poison := false, code := 0
    killed := false, already := true, orphan := false, restart := true }

/-- A started instruction that execution in replay starts again. -/
def Started.rerun (i : Started) : Started := { i with prog := 0, lead := false, done := false, killed := false, restart := true }

/-- The queue's instructions as replay will execute them (R503): those of the window and the kept builds, in issue
order. -/
def CourseState.replayed (c : CourseState) (q : QueueId) (w : List LogEntry) : QueueState :=
  let y := c.queue q
  let again (i : Started) : Started := if w.any fun l => l.e.serial == i.e.serial then i.rerun else i
  let old := w.filter fun l => decide (l.q = q) && l.completed && !y.started.any fun i => i.e.serial == l.e.serial
  { y with started := old.foldl (fun st l => insertStarted l.again st) (y.started.map again) }

/-- Started instructions end at a fault and write nothing more, poisoned with a code (R505, R507). -/
def QueueState.ended (y : QueueState) (code : BitVec 16) : QueueState :=
  { y with started := y.started.map fun i =>
      if i.done then i else { i with done := true, poison := true, restart := false, code := if i.code = 0 then code else i.code } }

def CourseState.onArrayQueues (c : CourseState) (f : QueueId → QueueState → QueueState) : CourseState :=
  arrayQueues.foldl (fun c q => c.modQueue q (f q)) c

/-- Work in progress ends with a code (R505, R507). -/
def CourseState.endWork (c : CourseState) (code : BitVec 16) : CourseState :=
  let begun := c.busySerials
  let a := c.arr.cleared
  let log := a.log.filter fun l => !l.completed
  let a := { a with log := log }
  { (c.onArrayQueues fun _ y => y.ended code) with
    arr := a.emptyRuns fun l => !begun.contains l.e.serial }

/-- What the course repeats: the window and the kept builds, or during a repointing what it already repeats (R506). -/
def CourseState.repeats (c : CourseState) : List LogEntry :=
  if c.arr.repoint = .none then c.arr.kept c.busySerials ++ c.arr.window c.busySerials else c.arr.log

/-- The arrays stop, and the window waits to be executed again (R502). -/
def CourseState.stopForReplay (c : CourseState) : CourseState :=
  let w := c.repeats
  let d := c.onArrayQueues fun q _ => c.replayed q w
  { d with arr := c.arr.cleared.emptyRuns fun _ => true }

/-- Logical arrays fail in one cycle (R502, R506): their physical arrays are marked, and the course repoints, loses its replay, goes
on with 7 arrays, or is fenced. -/
def State.arraysLost (s : State) (g : Course) (js : List Nat) : State :=
  let c := s.course g
  let ps := js.map c.arr.phys
  let h := ps.foldl (fun m p => m &&& ~~~(1#9 <<< p)) c.arr.healthy
  let held := ps.foldl unmapped c.arr.mapped
  let mark (c : CourseState) : CourseState := { c with arr := { c.arr with healthy := h, mapped := held } }
  let t := arrayQueues.foldl (fun t q => t.ungrant g q)
    (ps.foldl (fun t p => t.failed ⟨(courseDie g).val, 0x02, g.val % 8, 0, p⟩) s)
  let left := (arraysOf h).length
  let stop (c : CourseState) : CourseState := { c with arr := { c.arr with repoint := .stopped (ps.headD 15) } }
  if 8 ≤ left then
    let t := t.count (Blk.course g).base 0x3828 0x3818 1
    if c.arr.overflow then
      (t.modCourse g fun c => stop (mark (c.endWork 0x0F06))).raiseRel (courseDie g) 0x0F06 (g.val % 8) none
    else t.modCourse g fun c => stop (mark c.stopForReplay)
  else
    let halted (y : QueueState) : QueueState := { y with halt := .arraysReduced }
    let lost (c : CourseState) : CourseState :=
      let d := mark ((c.endWork 0x0F04).onArrayQueues fun _ y => halted y)
      { d with arr := { d.arr with progOpen := 0, repoint := .none, overflow := false } }
    let u := t.modCourse g lost
    if left = 7 then u.raiseRel (courseDie g) 0x0F04 (g.val % 8) none else u.fence g

/-- Logical array j fails. -/
def State.arrayLost (s : State) (g : Course) (j : Nat) : State := s.arraysLost g [j]

/-- What logical arrays report in one cycle (R506): their records, and their failure. -/
def State.arrayReports (s : State) (g : Course) (rs : List (Nat × BitVec 16)) : State :=
  (rs.foldl (fun t r => t.raiseCourse g r.2 0x02 (BitVec.ofNat 4 r.1) none) s).arraysLost g (rs.map (·.1)).eraseDups

/-- A fault of logical array j: its record, and the failure. -/
def State.arrayFault (s : State) (g : Course) (j : Nat) (code : BitVec 16) : State := s.arrayReports g [(j, code)]

/-- Replay begins (R502): groups 0 and 1 have tested the arrays now in service, `bad` lists those whose checker failed (R498), and
with none of them the queues execute what the course repeats. -/
def replayBegin (g : Course) (bad : List (Fin 8)) (s : State) : State :=
  match (s.course g).arr.repoint with
  | .stopped p =>
    match (bad.map (·.val)).eraseDups.filter fun j => decide (j < (s.course g).arr.logical) with
    | [] => s.modCourse g fun c => { c with arr := { c.arr with repoint := .replaying p } }
    | js => (js.foldl (fun t _ => t.raiseRel (courseDie g) 0x0F09 (g.val % 8) none) s).arraysLost g js
  | _ => s

/-- Nothing is left to repeat: every instruction that replay executes has run. -/
def CourseState.replayDone (c : CourseState) : Bool :=
  arrayQueues.all fun q => (c.queue q).started.all fun i => i.orphan || i.done

/-- Replay ends with REL_REPOINTED, and the queues start instructions again (R502). Its pause is a count of cycles,
which this model leaves open (log entry 7). -/
def replayEnd (g : Course) (s : State) : State :=
  match (s.course g).arr.repoint with
  | .replaying p =>
    if (s.course g).replayDone then
      let t := (s.modCourse g fun c => { c with arr := { c.arr with repoint := .none, overflow := false } }).used
      let info : DWord := (s.fresh &&& 0xFFFFFFFF00#64) ||| BitVec.ofNat 64 p
      (t.raiseRel (courseDie g) 0x0F03 (g.val % 8) (some info)).checkWindow g
    else s
  | _ => s

def execReplayBegin (g : Course × List (Fin 8)) (s : State) : Out := .next (s.ifCourse g.1 (replayBegin g.1 g.2))
def execReplayEnd (g : Course) (s : State) : Out := .next (s.ifCourse g (replayEnd g))

end Sys2Proof.Machine
end

