-- ==== Sys2Proof/Machine/Mason.lean ====
section
/-! DEFINITION. Mason: what the Mason arrays do (chapters 3 and 5): pass blocks, contributions, accumulation steps,
zero-skip, the early return of credits, and residue visits. -/

namespace Sys2Proof.Machine

/-! ### Row table memory (R114, R115) -/

/-- Line l of row r of physical array p. -/
def ArrayState.line (a : ArrayState) (p r l : Nat) : TblLine := SMap.get a.tables (16384 * p + 1024 * r + l) ⟨0, 0, 0, 0, 0⟩

/-- The CHECK field of a line's other fields (R115). -/
def TblLine.checkOf (l : TblLine) : Byte :=
  (leBytes 16 l.data.toNat ++ leBytes 12 l.res.toNat ++ [l.poison, l.exp]).foldl (· ^^^ ·) 0

def TblLine.ok (l : TblLine) : Bool := l.check == l.checkOf

/-- Bits [lo + n - 1 : lo]. -/
def bitsAt (v lo n : Nat) : Nat := v / 2 ^ lo % 2 ^ n

/-- Entry x of a table line, and its residue tag. -/
def TblLine.entry (l : TblLine) (x : Nat) : Int × Nat := (sext 8 (bitsAt l.data.toNat (8 * x) 8), bitsAt l.res.toNat (3 * x) 3)

/-! ### Contributions (R80 to R82, R93, R95, R105) -/

/-- A contribution (R80). -/
structure Contrib where
  c : Int
  e : Int
  poison : Bool
  res : Nat
  deriving DecidableEq, Repr

/-- Shift and sign of a plane (R81). -/
def planeSign : IdxFmt → Nat → Nat × Int
  | .t2, 1 => (1, -1)
  | .i2, 1 => (1, -1)
  | .i4, 3 => (3, -1)
  | .i4, p => (p, 1)
  | _, _ => (0, 1)

/-- Channel c's word of a plane row (R130). -/
def chanWord (row : BitVec 1024) (c : Nat) : Nat := bitsAt row.toNat (64 * c) 64

/-- Scale byte of channel c. -/
def scaleByte (x : BitVec 128) (c : Nat) : Nat := bitsAt x.toNat (8 * c) 8

def res7 (v : Int) : Nat := (v % 7).toNat

/-- Lanes of half-tree h (R79). -/
def halfLanes (h : Nat) : List Nat := (List.range 8).map (8 * h + ·)

/-- Half h of table mode: the row's word of the column, the line of each lane, and the plane (R81, R82, R105). -/
def tableHalf (o : PassOp) (plane : Nat) (lines : Nat → TblLine) (word scale h : Nat) : Contrib :=
  let (sg, eps) := planeSign o.ifmt plane
  let es := (halfLanes h).map fun l => (lines l).entry (bitsAt word (4 * l) 4)
  { c := eps * (es.map (·.1)).sum
    e := (sg : Int) + 4 * o.slice + (lines (8 * h)).exp.toNat + scale - 254
    poison := decide (scale = 255) || (halfLanes h).any fun l => (lines l).poison.getLsbD 0
    res := res7 (eps * ((es.map (·.2)).sum : Int)) }

/-- An L4 code as its sign and 2^(f - 1), 0 for the zero codes (R52). -/
def l4Value (code : Nat) : Int :=
  if code % 8 = 0 then 0 else if code < 8 then 2 ^ (code % 8 - 1) else -(2 ^ (code % 8 - 1))

/-- The L4 code of element i of lane l: bit p from plane p (R50). -/
def l4Code (words : List Nat) (l i : Nat) : Nat :=
  (List.range 4).foldl (fun v p => v + bitsAt (words.getD p 0) (4 * l + i) 1 * 2 ^ p) 0

/-- Half h of shift mode for slice q: lane l's line and slice word number within it (R93, R105). -/
def shiftHalf (o : PassOp) (q : Nat) (lines : Nat → TblLine × Nat) (words : List Nat) (scale h : Nat) : Contrib :=
  let top := decide (q + 1 = o.tfmt.q)
  let terms := (halfLanes h).flatMap fun l => (List.range 4).map fun i =>
    let (ln, n) := lines l
    let v := bitsAt ln.data.toNat (16 * n + 4 * i) 4
    let f := l4Value (l4Code words l i)
    ((if top then sext 4 v else (v : Int)) * f, (bitsAt ln.res.toNat (12 * n + 3 * i) 3 : Int) * f)
  { c := (terms.map (·.1)).sum
    e := 4 * (q : Int) + (lines (8 * h)).1.exp.toNat + scale - 254
    poison := decide (scale = 255) || (halfLanes h).any fun l => (lines l).1.poison.getLsbD (lines l).2
    res := res7 (terms.map (·.2)).sum }

/-- Bits set among the low n of v. -/
def popcount (n v : Nat) : Nat := ((List.range n).filter fun i => v.testBit i).length

/-- Residue of a line of raw bits: the sum of the tags of its eight 16-bit pieces (R115). -/
def TblLine.bitTags (l : TblLine) : Int := (((List.range 8).map fun i => bitsAt l.res.toNat (3 * i) 3).sum : Nat)

/-- Residue of a popcount contribution, from the tags of the line and not from c (R80): the tags count the bits of the line, so
those that meet no index bit come off. The manual gives no circuit for it (log entry 91). -/
def popRes (o : PassOp) (line : TblLine) (word : Nat) : Nat :=
  let x := line.data.toNat
  let both := line.bitTags - (popcount 128 (x &&& (2 ^ 128 - 1 - word % 2 ^ 128)) : Int)
  if o.xopAnd then res7 both
  else res7 (2 * (128 - (popcount 128 word : Int) - line.bitTags + 2 * both) - 128)

/-- Half h of popcount mode: 128 index bits against a line of raw bits (R95). -/
def popHalf (o : PassOp) (line : TblLine) (word scale : Nat) : Contrib :=
  let x := line.data.toNat
  let c : Int := if o.xopAnd then (popcount 128 (word &&& x) : Int)
    else 2 * (popcount 128 (2 ^ 128 - 1 - (word ^^^ x)) : Int) - 128
  { c := c, e := (line.exp.toNat : Int) + scale - 254
    poison := decide (scale = 255) || line.poison.getLsbD 0, res := popRes o line word }

/-- A cycle of a block: the pass, the block, its sub-step, its rows and scale entries. -/
structure Cycle where
  o : PassOp
  blk : Nat
  sub : Nat
  rows : List (BitVec 1024)
  scales : List (BitVec 128)
  deriving DecidableEq, Repr

/-- Token and slice of a shift-mode sub-step: u outer, q inner (R92). -/
def Cycle.uq (y : Cycle) : Nat × Nat :=
  match y.o.mode with
  | .table => (0, y.o.slice)
  | .shift => (y.sub / y.o.tfmt.q, y.sub % y.o.tfmt.q)
  | .popcount => (y.sub, 0)

/-- The tile slot that the cycle adds to (R91). -/
def Cycle.slot (y : Cycle) : Nat := y.o.slot + y.uq.1

/-- The first slice word or line unit of the cycle. -/
def Cycle.base (y : Cycle) : Nat :=
  let (u, q) := y.uq
  match y.o.mode with
  | .table => y.o.tbase + 16 * y.blk
  | .shift => y.o.tbase + ((y.blk * y.o.t + u) * y.o.tfmt.q + q) * 16
  | .popcount => 2 * (y.o.tbase + y.blk * y.o.t + u)

/-- The table-memory line of lane l, or of half l in popcount mode. -/
def Cycle.lineNo (y : Cycle) (l : Nat) : Nat :=
  match y.o.mode with
  | .shift => (y.base + l) / 8
  | _ => y.base + l

/-- Lines that the cycle reads in a row. -/
def Cycle.lineNos (y : Cycle) : List Nat :=
  match y.o.mode with
  | .popcount => [y.lineNo 0, y.lineNo 1]
  | _ => (List.range 16).map y.lineNo

/-- The 64-bit word that column c forms its indices from: in the plane-1 cycle of T2, s AND m (R89). -/
def Cycle.word (y : Cycle) (c : Nat) : Nat :=
  match y.rows with
  | [r] => chanWord r c
  | [r, m] => chanWord r c &&& chanWord m c
  | _ => 0

/-- The contribution of half h of cell (r, c), given the row's lines. In popcount mode each half has its own chunk, and a scale of
0xFF there poisons that half alone (log entry 92). -/
def Cycle.half (y : Cycle) (lines : Nat → TblLine) (c h : Nat) : Contrib :=
  let sc := scaleByte (y.scales.getD 0 0) c
  match y.o.mode with
  | .table => tableHalf y.o (if y.o.ifmt = .t2 then y.sub else y.o.plane) (fun l => lines (y.lineNo l)) (y.word c) sc h
  | .shift => shiftHalf y.o y.uq.2 (fun l => (lines (y.lineNo l), (y.base + l) % 8)) (y.rows.map fun r => chanWord r c) sc h
  | .popcount =>
    popHalf y.o (lines (y.lineNo h))
      (chanWord (y.rows.getD (2 * h) 0) c + 2 ^ 64 * chanWord (y.rows.getD (2 * h + 1) 0) c) (scaleByte (y.scales.getD h 0) c)

/-! ### The tile slot (R137 to R139) -/

/-- A := A + v, with the residue r of what is added; a wrap also adjusts RES (R139). -/
def Cell.addTo (k : Cell) (v : Int) (r : Int) : Cell :=
  let sum := k.a.toInt + v
  let a := BitVec.ofInt 96 sum
  { k with a := a, res := res7 ((k.res : Int) + r - (sum - a.toInt) / 2 ^ 96) }

/-- One contribution (R137, R138). -/
def Cell.contribute (k : Cell) (eref : Int) (x : Contrib) : Cell :=
  let s := x.e - eref + 40
  if x.poison then { k with poison := true }
  else if x.c = 0 then k
  else if 48 < s then { k with window := true, poison := true }
  else if 0 ≤ s then k.addTo (x.c * 2 ^ s.toNat) ((x.res : Int) * 2 ^ (s.toNat % 3))
  else
    let n := (-s).toNat
    let low := x.c % 2 ^ n
    { k.addTo (x.c / 2 ^ n) (((x.res : Int) - low) * 4 ^ (n % 3)) with underflow := k.underflow || decide (low ≠ 0) }

/-- One accumulation step (R139). -/
def Cell.step (k : Cell) (eref : Int) (x y : Contrib) : Cell :=
  let d := (k.contribute eref x).contribute eref y
  let n := min (k.steps + 1) 16777217
  { d with steps := n, lengthF := k.lengthF || decide (16777216 < n) }

/-- The shift of a contribution that lies above the window, if it does (R137). -/
def Contrib.above (x : Contrib) (eref : Int) : Option Nat :=
  let s := x.e - eref + 40
  if !x.poison && decide (x.c ≠ 0) && decide (48 < s) then some s.toNat else none

/-! ### Blocks in flight -/

def ArrayState.tokens (a : ArrayState) (j : Nat) : List Token := a.fifo.toList.getD j []
def ArrayState.setTokens (a : ArrayState) (j : Nat) (l : List Token) : ArrayState :=
  { a with fifo := a.fifo.setIfInBounds j l }

def Token.serial : Token → Nat
  | .step n .. => n
  | .openTile n .. => n

/-- Some token of an issue number is in flight in some array. -/
def ArrayState.inFlight (a : ArrayState) (serial : Nat) : Bool := a.fifo.toList.any fun l => l.any fun t => t.serial == serial

/-- A drn.* issued before `serial` names the slot and has not swapped it in array j (R143, R144). -/
def CourseState.drainAhead (c : CourseState) (j slot serial : Nat) : Bool :=
  let y := c.queue 5
  y.entries.any (fun e => decide (e.serial < serial) && e.op.turns slot) ||
    y.started.any fun i => !i.done && decide (i.e.serial < serial) && i.e.op.turns slot &&
      !c.arr.swaps.contains (i.e.serial, j, slot)

def Tile.opened (serial : Nat) (eref : Int) : Tile := ⟨serial, eref, Vector.replicate 256 Cell.zero, false⟩

/-- An msn.tile reaches array j (R141, R143): each slot opens, or its tile waits for the swap of an earlier drn.*. -/
def CourseState.openIn (c : CourseState) (j serial slot n : Nat) (eref : Int) : CourseState :=
  (List.range n).foldl (fun c i =>
    let k := slot + i
    if c.drainAhead j k serial then { c with arr := { c.arr with pendOpen := c.arr.pendOpen ++ [(j, k, serial, eref)] } }
    else { c with arr := { c.arr with active := SMap.ins c.arr.active (32 * j + k) (Tile.opened serial eref) } }) c

/-- The msn.tile instructions at the head of array j's tokens take effect; at most `fuel` of them. -/
def CourseState.openHeads (c : CourseState) (j : Nat) : Nat → CourseState
  | 0 => c
  | fuel + 1 =>
    match c.arr.tokens j with
    | .openTile n slot cnt eref _ :: rest =>
      (({ c with arr := c.arr.setTokens j rest }).openIn j n slot cnt eref).openHeads j fuel
    | _ => c

/-- Started instructions of the MSN queue that have nothing left in flight are done (R98, R141). -/
def CourseState.settleMsn (c : CourseState) : CourseState :=
  c.modQueue 0 fun y => { y with started := y.started.map fun i =>
    match i.e.op with
    | .msnTile .. => if i.restart || c.arr.inFlight i.e.serial then i else { i with done := true }
    | .msnPass o => if i.restart || decide (i.prog < o.blocks) || c.arr.inFlight i.e.serial then i else { i with done := true }
    | _ => i }

/-- After tokens have come or gone in array j. -/
def CourseState.flow (c : CourseState) (j : Nat) : CourseState := (c.openHeads j ((c.arr.tokens j).length)).settleMsn

/-- The same in every logical array. -/
def CourseState.flowAll (c : CourseState) : CourseState :=
  (List.range c.arr.logical).foldl (fun c j => c.flow j) c

/-! ### Entry into logical array 0 (R87, R98, R101 to R103, R125, R129) -/

/-- PAR of a row: the even parity of each channel's word (R130). -/
def parityBits (data : BitVec 1024) : BitVec 16 :=
  BitVec.ofNat 16 ((List.range 16).foldl (fun m c => m + popcount 64 (chanWord data c) % 2 * 2 ^ c) 0)

/-- An ordinary row, and a zero mark that stands for n rows (R130). -/
def ChainRow.ofData (data : BitVec 1024) (damaged : BitVec 16) : ChainRow :=
  ⟨data, parityBits data, data == 0, 0, damaged⟩
def ChainRow.mark (n : Nat) : ChainRow := ⟨0, 0, true, BitVec.ofNat 3 n, 0⟩

/-- The check of stage 1: parity, and a ZCOUNT that is not reserved (R110, R130). -/
def ChainRow.ok (r : ChainRow) : Bool :=
  r.par == parityBits r.data && [0#3, 2#3, 3#3, 4#3].contains r.zcount

/-- The row as a hop may upset it. -/
def ChainRow.upset (r : ChainRow) : ChainRow := { r with par := r.par ^^^ 1 }

/-- A plane row of 128 bytes: DATA 0 where a byte of it is damaged (R300). -/
def rowOf (bs : List (Byte × BitVec 16)) : ChainRow :=
  match bs.find? fun b => b.2 != 0 with
  | some b => ChainRow.ofData 0 b.2
  | none => ChainRow.ofData (BitVec.ofNat 1024 (leNat (bs.map (·.1)))) 0

/-- Rows k to k + n - 1 of a pass: from the replay store while it holds them, then from the expander (R129, R500). -/
def CourseState.rowsAt (c : CourseState) (serial k n : Nat) : Option (List ChainRow) :=
  let old := (match c.arr.findLog serial with
    | some l => l.rows
    | none => []).drop k
  let need := n - old.length
  if 128 * need ≤ c.idx.bytes.length then
    some (old.take n ++ (List.range need).map fun i => rowOf ((c.idx.bytes.drop (128 * i)).take 128))
  else none

/-- Those rows leave the expander, and the replay store keeps them. -/
def CourseState.takeRows (c : CourseState) (serial k n : Nat) (rows : List ChainRow) : CourseState :=
  let old := (match c.arr.findLog serial with
    | some l => l.rows
    | none => []).length
  let need := n - (old - k)
  { c with idx := { c.idx with bytes := c.idx.bytes.drop (128 * need) }
           arr := c.arr.modLog serial fun l => { l with rows := l.rows ++ rows.drop (n - need) } }

def ChainRow.isZero (r : ChainRow) : Bool := r.zero

/-- A block whose rows are these is skipped (R101). -/
def PassOp.skips (o : PassOp) (skipEn : Bool) (rows : List ChainRow) : Bool :=
  skipEn && match o.mode, o.ifmt with
    | .table, .b1 => false
    | .table, .t2 => (rows.take 1).all ChainRow.isZero
    | .popcount, _ => false
    | _, _ => rows.all ChainRow.isZero

/-- The kind tag that a pass requires (R85, R87). -/
def PassOp.kind (o : PassOp) : RunKind :=
  match o.mode, o.ifmt with
  | .table, .b1 => .signed
  | .table, _ => .subset
  | .shift, _ => .sword
  | .popcount, _ => .bits

/-- The check of R87 on every run that a pass reads. -/
def ArrayState.kindOk (a : ArrayState) (o : PassOp) (serial : Nat) : Bool :=
  o.runs.all fun k => match a.tagFor k serial with
    | some t => t.kind == o.kind && (decide (o.mode ≠ .table) || t.slice == o.slice)
    | none => false

/-- The index scale entries that a block uses (R584): 0xFF in every byte where the line is poisoned; an entry past the
end of the slice is a free value (log entry 1). -/
def State.scaleEntry (s : State) (g : Course) (a : Nat) : BitVec 128 × State :=
  if inSlice g a 16 then
    (if s.dirty a 16 then BitVec.allOnes 128 else BitVec.ofNat 128 (s.rdN a 16), s)
  else
    let t := s.used
    (s.fresh ++ t.fresh, t.used)

/-- Address of an entry of the index scales of a pass. -/
def PassOp.scaleAddr (o : PassOp) (i : Nat) : Nat := o.iscale + 16 * i

/-- The entries that block b of a pass uses, by their numbers. -/
def PassOp.scaleNums (o : PassOp) (b : Nat) : List Nat :=
  match o.mode with
  | .popcount => [2 * b, 2 * b + 1]
  | _ => [(b + (if o.half then 1 else 0)) / 2]

/-- Their values, in order, and the state once they have been read. -/
def State.blockScales (s : State) (g : Course) (o : PassOp) : List Nat → List (BitVec 128)
  | [] => []
  | i :: l => (s.scaleEntry g (o.scaleAddr i)).1 :: (s.scaleEntry g (o.scaleAddr i)).2.blockScales g o l
def State.scalesRead (s : State) (g : Course) (o : PassOp) (l : List Nat) : State :=
  l.foldl (fun t i => (t.scaleEntry g (o.scaleAddr i)).2) s

/-- The tokens of a block (R89, R92, R102). -/
def blockTokens (serial : Nat) (o : PassOp) (b : Nat) (rows : List ChainRow) (scales : List (BitVec 128)) (skip : Bool) :
    List Token :=
  let pz := rows.any fun r => r.damaged != 0
  let data := rows.map (·.data)
  (List.range o.cycles).map fun k =>
    let used := match o.mode, o.ifmt with
      | .table, .t2 => if k = 0 then data.take 1 else data.reverse
      | _, _ => data
    .step serial o b k used scales skip pz

/-- The damage of the rows a pass consumes reaches its tally, its NOTIFY record and CCR_EFIRST (R300). -/
def State.damagedRows (s : State) (g : Course) (i : Started) (rows : List ChainRow) : State :=
  match rows.find? fun r => r.damaged != 0 with
  | some r => if i.already then s else (s.instrPoison g 0 i.e.serial r.damaged).efirst g r.damaged 0 i.e.pc
  | none => s

/-- Put tokens into every logical array. -/
def CourseState.pushAll (c : CourseState) (ts : List Token) : CourseState :=
  { c with arr := (List.range c.arr.logical).foldl (fun a j => a.setTokens j (a.tokens j ++ ts)) c.arr }

/-- One block enters. Each cycle of a block counts as one pass block (log entry 93). -/
def State.enterBlock (s : State) (g : Course) (i : Started) (o : PassOp) (b : Nat) (rows : List ChainRow) : State :=
  let skip := o.skips i.e.skipEn rows
  let scales := s.blockScales g o (o.scaleNums b)
  let t := (s.scalesRead g o (o.scaleNums b)).modCourse g fun c => (c.takeRows i.e.serial (b * o.rowsPer) o.rowsPer rows).pushAll
    (blockTokens i.e.serial o b rows scales skip)
  let t := t.modCourse g fun c => c.modStarted 0 i.e.serial fun x => { x with prog := b + 1 }
  let t := (t.countC g 0x1030 0x1008 o.cycles).countC g 0x1210 0x1208 o.rowsPer
  let t := if skip then t.countC g 0x1030 0x1010 o.cycles else t
  t.damagedRows g i rows

/-- The runs of block b are READY for the pass (R125). -/
def CourseState.runsReady (c : CourseState) (serial : Nat) (o : PassOp) (b : Nat) : Bool :=
  (o.blockRuns b).all fun k => c.arr.readyFor k serial

/-- Rows of the pass that have entered: those of its blocks, and the first of the next where a zero mark has carried it. -/
def Started.rowsIn (i : Started) (o : PassOp) : Nat := i.prog * o.rowsPer + (if i.lead then 1 else 0)

/-- The slots of a pass are free for it: no drn.* issued before it has still to swap one in logical array 0, which the entry waits
for (R144). -/
def CourseState.slotsFree (c : CourseState) (serial : Nat) (o : PassOp) : Bool :=
  (List.range o.t).all fun u => !c.drainAhead 0 (o.slot + u) serial

/-- How many rows a zero mark carries from the next row on (R103): 2 to 4, all zero and undamaged, held by the expander, of blocks
that may enter; 0 for none. -/
def CourseState.zeroMark (c : CourseState) (i : Started) (o : PassOp) : Nat :=
  if o.mode = .table ∧ o.ifmt ≠ .b1 ∧ i.e.skipEn ∧ i.e.zadvEn then
    let pos := i.rowsIn o
    let ok (n : Nat) : Bool := decide (2 ≤ n) && decide (pos + n ≤ o.blocks * o.rowsPer) &&
      (List.range n).all (fun k => c.runsReady i.e.serial o ((pos + k) / o.rowsPer)) &&
      match c.rowsAt i.e.serial pos n with
      | some rs => rs.all fun r => r.isZero && r.damaged == 0
      | none => false
    ((List.range 5).filter ok).foldl max 0
  else 0

/-- The msn.pass whose block enters next: the first started one with a block to enter. -/
def CourseState.entering (c : CourseState) : Option (Started × PassOp) :=
  ((c.queue 0).started.find? fun i => !i.done && !i.orphan && !i.restart && match i.e.op with
    | .msnPass o => decide (i.prog < o.blocks)
    | _ => false).bind fun i => match i.e.op with
      | .msnPass o => some (i, o)
      | _ => none

/-- The pass faults MASON_KIND (R87): it will consume its rows unused. -/
def State.kindFault (s : State) (g : Course) (i : Started) : State :=
  let t := if i.already then s else s.instrFault g 0 i.e.serial 0x0103 0x02 0xF none
  t.modCourse g fun c => c.modStarted 0 i.e.serial fun x => { x with killed := true }

/-- A faulted pass consumes the rows of one block (R87). -/
def State.dropBlock (s : State) (g : Course) (i : Started) (o : PassOp) : State :=
  match (s.course g).rowsAt i.e.serial (i.prog * o.rowsPer) o.rowsPer with
  | none => s
  | some rows =>
    let t := s.modCourse g fun c => (c.takeRows i.e.serial (i.prog * o.rowsPer) o.rowsPer rows).modStarted 0 i.e.serial
      fun x => { x with prog := x.prog + 1 }
    ((t.countC g 0x1210 0x1208 o.rowsPer).damagedRows g i rows).modCourse g CourseState.settleMsn

/-- Rows of skipped blocks enter one by one: those of a zero mark, or what a mark has left of a block whose first row it carried
(R103). Each skips its cycle. -/
def State.enterSkipped (s : State) (g : Course) (i : Started) (o : PassOp) (rows : List ChainRow) : State :=
  let pos := i.rowsIn o
  let n := rows.length
  let t := (List.range n).foldl (fun t k =>
    let b := (pos + k) / o.rowsPer
    let scales := t.blockScales g o (o.scaleNums b)
    let row := rows.getD k (ChainRow.ofData 0 0)
    (t.scalesRead g o (o.scaleNums b)).modCourse g fun c => c.pushAll
      [.step i.e.serial o b ((pos + k) % o.rowsPer) [row.data] scales true (row.damaged != 0)]) s
  let t := t.modCourse g fun c => (c.takeRows i.e.serial pos n rows).modStarted 0 i.e.serial fun x =>
    { x with prog := (pos + n) / o.rowsPer, lead := decide ((pos + n) % o.rowsPer ≠ 0) }
  let t := ((t.countC g 0x1030 0x1008 n).countC g 0x1210 0x1208 n).countC g 0x1030 0x1010 n
  t.damagedRows g i rows

/-- The rows that go on the chain next, as they travel: a zero mark, the rest of a block whose first row a mark carried, or the rows
of a block (R98, R103, R130); none while a run is not READY, a slot not free, or a row not there (R125, R129, R144). -/
def CourseState.nextHop (c : CourseState) (i : Started) (o : PassOp) : Option (List ChainRow × List ChainRow) :=
  let n := c.zeroMark i o
  if !c.runsReady i.e.serial o i.prog || !c.slotsFree i.e.serial o then none
  else
    let k := if n ≠ 0 then n else if i.lead then 1 else o.rowsPer
    (c.rowsAt i.e.serial (i.rowsIn o) k).map fun rows => (rows, if n = 0 then rows else [ChainRow.mark n])

/-- They enter: the blocks, or the skipped rows, whose mark saves cycles. -/
def State.enterNext (s : State) (g : Course) (i : Started) (o : PassOp) (rows : List ChainRow) : State :=
  let n := (s.course g).zeroMark i o
  let t := if n ≠ 0 ∨ i.lead then s.enterSkipped g i o rows else s.enterBlock g i o i.prog rows
  (if n = 0 then t else t.countC g 0x1030 0x1018 (n - 1)).modCourse g CourseState.flowAll

/-- What the checks of an entry report, by logical array: a row that fails at stage 1 of the first array it reaches upset, which
costs that array alone (R111, R506), and each failing read of stage 3. -/
def entryReports (hop : List ChainRow) (logical : Nat) (e : List (Fin 8 × ArrayErr)) : List (Nat × BitVec 16) :=
  let found (k : ArrayErr) : List Nat := ((e.filter fun x => x.2 == k && decide (x.1.val < logical)).map fun x => x.1.val).eraseDups
  let chain := (minOf (found .chain)).toList.filter fun _ => (hop.map ChainRow.upset).any fun r => !r.ok
  chain.map (fun j => (j, 0x0105)) ++ (found .tableRead).map fun j => (j, 0x0106)

/-- A pass block enters logical array 0; `e` lists the checks that fail on it, with the logical arrays where they do. -/
def passBlockEnter (g : Course) (e : List (Fin 8 × ArrayErr)) (s : State) : State :=
  let c := s.course g
  let stopped := match c.arr.repoint with
    | .stopped _ => true
    | _ => false
  match c.entering with
  | none => s
  | some (i, o) =>
    if stopped then s
    else if i.killed then (s.dropBlock g i o).checkWindow g
    else if i.rowsIn o = 0 && !c.arr.kindOk o i.e.serial then s.kindFault g i
    else match c.nextHop i o with
      | none => s.checkWindow g
      | some (rows, hop) =>
        let t := s.enterNext g i o rows
        match entryReports hop c.arr.logical e with
        | [] => t.checkWindow g
        | rs => t.arrayReports g rs

/-! ### Accumulation (R137) -/

/-- The next state of cell n = 16 r + c of a tile for a cycle: a skipped block only poisons (R102). -/
def Cycle.cell (y : Cycle) (a : ArrayState) (p : Nat) (eref : Int) (skip poisonAll : Bool) (k : Cell) (n : Nat) : Cell :=
  let lines := a.line p (n / 16)
  let x0 := y.half lines (n % 16) 0
  let x1 := y.half lines (n % 16) 1
  let d := if skip then (if x0.poison || x1.poison then { k with poison := true } else k) else k.step eref x0 x1
  if poisonAll then { d with poison := true } else d

/-- The first contribution of the cycle above the window: its cell and shift, in cell order, row by row, half 0 first
(log entry 94). -/
def Cycle.firstAbove (y : Cycle) (a : ArrayState) (p : Nat) (eref : Int) : Option (Nat × Nat) :=
  (List.range 256).findSome? fun n =>
    match (y.half (a.line p (n / 16)) (n % 16) 0).above eref with
    | some s => some (n, s)
    | none => ((y.half (a.line p (n / 16)) (n % 16) 1).above eref).map fun s => (n, s)

/-- ACC_WINDOW of a tile (R137, R161). Replay reports it again for a pass that had not completed (log entry 95). -/
def State.accWindow (s : State) (g : Course) (j slot n shift serial : Nat) : State :=
  let t := if (s.reg (cr g 0x1304)).getLsbD 2 then s
    else s.setReg (cr g 0x1328) (BitVec.ofNat 32
      (slot + 32 * j + 256 * (n / 16) + 4096 * (n % 16) + 65536 * (shift % 2048) + 0x80000000))
  let t := t.orReg (cr g 0x1304) 4
  match (s.course g).findStarted 0 serial with
  | some i => if i.already then t
    else (t.raiseInstr g 0x0301 0x02 (BitVec.ofNat 4 j) false false i.e.pc none).efirst g 0x0301 0 i.e.pc
  | none => t

/-- The cycle is added to the active tile of its slot (R136 to R139). UNDERFLOW and LENGTH of ACC_FLAGS are set as a cell's own flag
comes to 1, WINDOW at each contribution above the window (R160; log entry 96). -/
def State.addCycle (s : State) (g : Course) (j serial : Nat) (y : Cycle) (skip poisonAll : Bool) : State :=
  let a := (s.course g).arr
  let p := a.phys j
  match SMap.find a.active (32 * j + y.slot) with
  | none => s
  | some tile =>
    let cells := Vector.ofFn fun n : Fin 256 => y.cell a p tile.eref skip poisonAll (tile.cells.get n) n.val
    let above := if skip then none else y.firstAbove a p tile.eref
    let hit := tile.windowHit || above.isSome
    let t := s.modCourse g fun c => { c with arr := { c.arr with
      active := SMap.ins c.arr.active (32 * j + y.slot) { tile with cells := cells, windowHit := hit } } }
    let low := (cells.toList.zip tile.cells.toList).any fun e => e.1.underflow && !e.2.underflow
    let long := (cells.toList.zip tile.cells.toList).any fun e => e.1.lengthF && !e.2.lengthF
    let t := if low then t.orReg (cr g 0x1304) 1 else t
    let t := if long then t.orReg (cr g 0x1304) 2 else t
    match above with
    | some (n, shift) => if tile.windowHit then t.orReg (cr g 0x1304) 4 else t.accWindow g j y.slot n shift serial
    | none => t

/-- The array before array j on the chain is ahead of it: a row reaches array j after array j - 1 (R28). -/
def ArrayState.chainAhead (a : ArrayState) (j : Nat) : Bool :=
  decide (j = 0) || decide ((a.tokens (j - 1)).length < (a.tokens j).length)

/-- The next step of logical array j is added (R98, R137), once array j - 1 has used it (R28) and its slot's swap by an earlier drn.*
is made (R144). A line that fails its check is MASON_TABLE_READ (R115). -/
def accumulationStep (g : Course) (j : Nat) (s : State) : State :=
  let c := s.course g
  match c.arr.tokens j with
  | .step serial o b k rows scales skip pz :: rest =>
    let y : Cycle := ⟨o, b, k, rows, scales⟩
    let p := c.arr.phys j
    if !c.arr.chainAhead j || c.drainAhead j y.slot serial then s
    else if (List.range 16).any fun r => y.lineNos.any fun l => !(c.arr.line p r l).ok then s.arrayFault g j 0x0106
    else
      let t := s.addCycle g j serial y skip pz
      t.modCourse g fun c => ({ c with arr := c.arr.setTokens j rest }).flow j
  | _ => s

/-! ### Early return of credits (R473) -/

/-- Every block of the pass still to enter is held by the expander and will be skipped; one whose first row a zero mark has carried
is skipped (R101). -/
def CourseState.restSkips (c : CourseState) (i : Started) (o : PassOp) : Bool :=
  let b := if i.lead then i.prog + 1 else i.prog
  match c.rowsAt i.e.serial (i.rowsIn o) (o.blocks * o.rowsPer - i.rowsIn o) with
  | some rs =>
    let rs := rs.drop (b * o.rowsPer - i.rowsIn o)
    (List.range (o.blocks - b)).all fun k => o.skips i.e.skipEn ((rs.drop (k * o.rowsPer)).take o.rowsPer)
  | none => false

/-- No unskipped block of the pass is in an array. -/
def ArrayState.unskippedGone (a : ArrayState) (serial : Nat) : Bool :=
  a.fifo.toList.all fun l => l.all fun t => match t with
    | .step n _ _ _ _ _ skip _ => n != serial || skip
    | _ => true

/-- The conditions of R473 hold for a started msn.pass that has still to return L of its credits. -/
def CourseState.returnsEarly (c : CourseState) (i : Started) : Bool :=
  !i.orphan && !i.restart && !i.earlyReturned && decide (c.arr.logical + 4 ≤ i.credits) && match i.e.op with
    | .msnPass o => c.restSkips i o && c.arr.unskippedGone i.e.serial
    | _ => false

/-- The oldest msn.pass for which they hold returns L of its credits (R473), though it may have nothing left but to complete. -/
def creditEarlyReturn (g : Course) (s : State) : State :=
  let c := s.course g
  let l := c.arr.logical
  match (c.queue 0).started.find? c.returnsEarly with
  | none => s
  | some i =>
    (s.modCourse g fun c => c.modStarted 0 i.e.serial fun x => { x with credits := x.credits - l, earlyReturned := true }).giveBack
      g (requester g 0) l i.src

/-! ### Residue visits (R156, R157) -/

/-- Some cell's RES differs from A mod 7. -/
def Tile.mismatch (t : Tile) : Bool := t.cells.toList.any fun k => k.res != res7 k.a.toInt

/-- The visit of one slot: every open tile is compared; `upset` names the logical arrays whose cells have failed. -/
def residueVisit (g : Course) (slot : Fin 32) (upset : List (Fin 8)) (s : State) : State :=
  let a := (s.course g).arr
  let tiles := (List.range a.logical).filterMap fun j => (SMap.find a.active (32 * j + slot.val)).map fun t => (j, t)
  let t := s.countC g 0x132C 0x1320 (256 * tiles.length)
  match tiles.filter fun e => e.2.mismatch || upset.any fun u => u.val == e.1 with
  | [] => t
  | bad => t.arrayReports g (bad.map fun e => (e.1, 0x0104))

def execPassBlockEnter (g : Course) (e : List (Fin 8 × ArrayErr)) (s : State) : Out := .next (s.ifCourse g (passBlockEnter g e))
def execAccumulationStep (g : Course) (j : Fin 8) (s : State) : Out := .next (s.ifCourse g (accumulationStep g j.val))
def execCreditEarlyReturn (g : Course) (s : State) : Out := .next (s.ifCourse g (creditEarlyReturn g))
def execResidueCheckVisit (g : Course) (slot : Fin 32) (upset : List (Fin 8)) (s : State) : Out :=
  .next (s.ifCourse g (residueVisit g slot upset))

end Sys2Proof.Machine
end

