-- ==== Sys2Proof/Machine/Builder.lean ====
section
/-! DEFINITION. Builder: the table builder (R114 to R126): what a tbl.build writes, run by run. -/

namespace Sys2Proof.Machine

/-! ### Sources (R57 to R60, R119) -/

/-- A source byte as the builder sees it: its value, and whether it is poisoned or damaged (R119, R300). -/
abbrev SrcByte := Byte × Bool

/-- Byte i of a block. -/
def srcAt (bs : List SrcByte) (i : Nat) : SrcByte := bs.getD i (0, false)

/-- Some byte of n bytes from i is poisoned or damaged. -/
def srcBad (bs : List SrcByte) (i n : Nat) : Bool := ((bs.drop i).take n).any (·.2)

/-- Bytes of the mantissa width of a table format. -/
def TblFmt.bytes : TblFmt → Nat
  | .bs16 => 2
  | _ => 1

/-- Mantissa i of a BS block (R57). -/
def mantissa (f : TblFmt) (bs : List SrcByte) (i : Nat) : Nat :=
  leNat (((bs.drop (8 + f.bytes * i)).take f.bytes).map (·.1))

/-- Slice q of element i (R59): the top slice is signed. -/
def sliceVal (f : TblFmt) (bs : List SrcByte) (q i : Nat) : Int :=
  let v := bitsAt (mantissa f bs i) (4 * q) 4
  if q + 1 = f.q then sext 4 v else v

/-- The block's EXP field is 0xFF, its header has a poisoned byte, or one of elements i to i + 3 is poisoned. -/
def groupBad (bs : List SrcByte) (i : Nat) : Bool :=
  decide ((srcAt bs 0).1 = 0xFF) || srcBad bs 0 8 ||
    decide (bitsAt (leNat (((bs.drop 4).take 4).map (·.1))) i 4 ≠ 0)

/-! ### Lines (R115, R120 to R122) -/

/-- Put values of n bits each side by side, the first lowest. -/
def packBits (n : Nat) : List Nat → Nat
  | [] => 0
  | v :: vs => v % 2 ^ n + 2 ^ n * packBits n vs

/-- A line with its CHECK field (R115). -/
def tblLine (data res poison exp : Nat) : TblLine :=
  let l : TblLine := ⟨BitVec.ofNat 128 data, BitVec.ofNat 96 res, BitVec.ofNat 8 poison, BitVec.ofNat 8 exp, 0⟩
  { l with check := l.checkOf }

/-- Entry x of the table of a_0 to a_3 (R85): the value that the Gray walk of R120 reaches. -/
def tableEntry (kind : RunKind) (a : List Int) (x : Nat) : Int :=
  ((List.range 4).map fun i =>
    if x.testBit i then a.getD i 0 else if kind = .signed then -(a.getD i 0) else 0).sum

/-- The table of group k of a block (R120). -/
def tableLine (o : BuildOp) (bs : List SrcByte) (k : Nat) : TblLine :=
  let a := (List.range 4).map fun i => sliceVal o.tfmt bs o.slice (4 * k + i)
  let e := (List.range 16).map (tableEntry o.kind a)
  let bad := groupBad bs (4 * k) || srcBad bs (8 + o.tfmt.bytes * 4 * k) (4 * o.tfmt.bytes)
  tblLine (packBits 8 (e.map fun v => twos 8 v)) (packBits 3 (e.map res7)) (if bad then 1 else 0) (srcAt bs 0).1.toNat

/-- The slice words of slice q of the 8 groups of a block (R121). -/
def swordLine (o : BuildOp) (bs : List SrcByte) (q : Nat) : TblLine :=
  let v := (List.range 32).map fun i => sliceVal o.tfmt bs q i
  let bad (k : Nat) : Bool := groupBad bs (4 * k) ||
    (List.range 4).any fun i => (srcAt bs (8 + o.tfmt.bytes * (4 * k + i) + q / 2)).2
  tblLine (packBits 4 (v.map fun x => twos 4 x)) (packBits 3 (v.map res7))
    (packBits 1 ((List.range 8).map fun k => if bad k then 1 else 0)) (srcAt bs 0).1.toNat

/-- Half a bit block: 16 bytes of bits and the token's scale byte (R122). -/
def bitLine (bits : List SrcByte) (scale : SrcByte) : TblLine :=
  let v := leNat (bits.map (·.1))
  let bad := decide (scale.1 = 0xFF) || scale.2 || bits.any (·.2)
  tblLine v (packBits 3 ((List.range 8).map fun i => popcount 16 (bitsAt v (16 * i) 16) % 7)) (if bad then 1 else 0)
    scale.1.toNat

/-! ### What a run holds (R118, R121, R122) -/

/-- Pass block and token pairs (b, u) of one run: one for tables, 8 ÷ Q for slice words, 8 for bits. -/
def BuildOp.perRun (o : BuildOp) : Nat :=
  match o.kind with
  | .bits => 8
  | .sword => 8 / o.tfmt.q
  | _ => 1

/-- Pairs of the whole build. -/
def BuildOp.pairs (o : BuildOp) : Nat :=
  match o.kind with
  | .bits => o.t * o.g
  | _ => o.t * o.g / 16

/-- Pairs of the build's run ρ. -/
def BuildOp.pairsIn (o : BuildOp) (ρ : Nat) : List Nat :=
  (List.range o.perRun).filterMap fun i => if o.perRun * ρ + i < o.pairs then some (o.perRun * ρ + i) else none

def BuildOp.blockBytes (o : BuildOp) : Nat := bsBytes (decide (o.tfmt = .bs16))

/-- Bytes that one row of a run takes from the table-operand expander (R119). -/
def BuildOp.rowBytes (o : BuildOp) (ρ : Nat) : Nat := (o.pairsIn ρ).length * (2 * o.blockBytes)

/-- The lines of a pair, given its two BS blocks. -/
def BuildOp.bsLines (o : BuildOp) (b0 b1 : List SrcByte) : List TblLine :=
  match o.kind with
  | .sword => (List.range o.tfmt.q).flatMap fun q => [swordLine o b0 q, swordLine o b1 q]
  | _ => (List.range 8).map (tableLine o b0) ++ (List.range 8).map (tableLine o b1)

/-- n source bytes of staging SRAM from a: a byte of a poisoned line is poisoned (R119). -/
def State.srcBytes (s : State) (a n : Nat) : List SrcByte := (List.range n).map fun i => (s.byte (a + i), s.dirty (a + i) 1)

/-- The lines of pair x for row number y = 16 j + r of a course with L arrays, from staging SRAM (R118, R119). No rule asks that a
block of BS form lies 8-byte aligned there, and one is read at any byte address (log entry 98). -/
def State.directLines (s : State) (o : BuildOp) (arrays y x : Nat) : List TblLine :=
  let b := x / o.t
  let n := y + 16 * arrays * (x % o.t)
  match o.kind with
  | .bits =>
    (List.range 2).map fun h =>
      let m := 4 * b + 2 * h
      bitLine (s.srcBytes (o.wordAt (o.tok0 + n) m) 8 ++ s.srcBytes (o.wordAt (o.tok0 + n) (m + 1)) 8)
        (srcAt (s.srcBytes (o.scaleAt (o.tok0 + n) (2 * b + h)) 1) 0)
  | _ =>
    let a := o.addr + n * o.tstride + 2 * b * o.blockBytes
    o.bsLines (s.srcBytes a o.blockBytes) (s.srcBytes (a + o.blockBytes) o.blockBytes)

/-- The lines of one row of a run, given those of its pairs; the rest of the run is zero (R118), EXP too (log entry 99). -/
def fillRun (ls : List TblLine) : List TblLine := ls ++ List.replicate (16 - ls.length) (tblLine 0 0 0 0)

/-- The rows of a run from the table-operand expander's bytes (R119): two blocks for each pass block and token, the token inner
(log entry 100). -/
def BuildOp.expandRow (o : BuildOp) (ρ : Nat) (bs : List SrcByte) : List TblLine :=
  fillRun ((List.range (o.pairsIn ρ).length).flatMap fun i =>
    let p := bs.drop (i * (2 * o.blockBytes))
    o.bsLines (p.take o.blockBytes) ((p.drop o.blockBytes).take o.blockBytes))

/-- Put the 16 lines of run k in row r of physical array p. -/
def ArrayState.putRun (a : ArrayState) (p r k : Nat) (ls : List TblLine) : ArrayState :=
  { a with tables := (List.range 16).foldl (fun m i =>
      SMap.put m (16384 * p + 1024 * r + 16 * k + i) (ls.getD i ⟨0, 0, 0, 0, 0⟩) ⟨0, 0, 0, 0, 0⟩) a.tables }

/-! ### Waits (R125) -/

/-- An msn.pass issued before `serial` has still to read run k, or an earlier msn.parity has still to use it (R451). -/
def CourseState.readersOf (c : CourseState) (k serial : Nat) : Bool :=
  let waits (e : QEntry) (b : Nat) : Bool := decide (e.serial < serial) && match e.op with
    | .msnPass o => (List.range (o.blocks - b)).any fun x => (o.blockRuns (b + x)).contains k
    | .msnParity o => decide (k < o.runs)
    | _ => false
  (c.queue 0).entries.any (fun e => waits e 0) ||
    (c.queue 0).started.any (fun i => !i.done && !i.killed && waits i.e i.prog) ||
    c.arr.fifo.toList.any fun l => l.any fun t => match t with
      | .step n o b _ _ _ _ _ => decide (n < serial) && (o.blockRuns b).contains k
      | _ => false

/-- The build in progress: the oldest started and not done. -/
def CourseState.building (c : CourseState) : Option (Started × BuildOp) :=
  ((c.queue 1).started.find? fun i => !i.done && !i.orphan && !i.restart).bind fun i => match i.e.op with
    | .tblBuild o => some (i, o)
    | _ => none

/-- The build may write its next run: no earlier build writes it still, and no earlier pass has still to read it. -/
def CourseState.mayWrite (c : CourseState) (i : Started) (o : BuildOp) : Bool :=
  let k := o.drun + i.prog
  ((c.arr.run k).pend.head?.map (·.serial) == some i.e.serial) && !c.readersOf k i.e.serial

/-! ### EXPAND bytes (R119, R300, R500) -/

/-- What the table-operand expander holds of a stream (R254). -/
def CourseState.tblFor (c : CourseState) (n : Nat) : ExpState := SMap.get c.tbl n ⟨[], []⟩
def CourseState.modTbl (c : CourseState) (n : Nat) (f : ExpState → ExpState) : CourseState :=
  { c with tbl := SMap.put c.tbl n (f (c.tblFor n)) ⟨[], []⟩ }

/-- Bytes k to k + n - 1 of a build's EXPAND source: from the replay log while it holds them, then from the expander. -/
def CourseState.bytesAt (c : CourseState) (stream serial k n : Nat) : Option (List (Byte × BitVec 16)) :=
  let old := (match c.arr.findLog serial with
    | some l => l.bytes
    | none => []).drop k
  let need := n - old.length
  let have_ := (c.tblFor stream).bytes
  if need ≤ have_.length then some (old.take n ++ have_.take need) else none

/-- Those bytes leave the expander, and the replay log keeps them. -/
def CourseState.takeBytes (c : CourseState) (stream serial k n : Nat) (bs : List (Byte × BitVec 16)) : CourseState :=
  let old := (match c.arr.findLog serial with
    | some l => l.bytes
    | none => []).length
  let need := n - (old - k)
  { (c.modTbl stream fun x => { x with bytes := x.bytes.drop need }) with
           arr := c.arr.modLog serial fun l => { l with bytes := l.bytes ++ bs.drop (n - need) } }

/-- Damage of the bytes a build consumes reaches its tally, its NOTIFY record and CCR_EFIRST (R300). -/
def State.damagedBytes (s : State) (g : Course) (i : Started) (bs : List (Byte × BitVec 16)) : State :=
  match bs.find? fun b => b.2 != 0 with
  | some b => if i.already then s else (s.instrPoison g 1 i.e.serial b.2).efirst g b.2 1 i.e.pc
  | none => s

/-! ### Writing a run -/

/-- The lines of every row of run ρ of a build, row 16 j + r at place 16 j + r; with the EXPAND bytes taken. -/
def State.runLines (s : State) (g : Course) (i : Started) (o : BuildOp) : Option (List (List TblLine) × State) :=
  let c := s.course g
  let rows := 16 * c.arr.logical
  let ρ := i.prog
  if o.expand then
    let per := o.rowBytes ρ
    let k := rows * (o.perRun * ρ * (2 * o.blockBytes))
    match c.bytesAt o.stream i.e.serial k (rows * per) with
    | none => none
    | some bs =>
      let src := bs.map fun b => (b.1, b.2 != 0)
      some ((List.range rows).map fun y => o.expandRow ρ ((src.drop (y * per)).take per),
        (s.modCourse g fun c => c.takeBytes o.stream i.e.serial k (rows * per) bs).damagedBytes g i bs)
  else
    some ((List.range rows).map fun y => fillRun ((o.pairsIn ρ).flatMap fun x => s.directLines o c.arr.logical y x), s)

/-- The last line of a run is written and the run becomes READY (R126). -/
def State.writeRun (s : State) (g : Course) (i : Started) (o : BuildOp) : State :=
  match s.runLines g i o with
  | none => s
  | some (ls, t) =>
    let k := o.drun + i.prog
    let put (c : CourseState) : CourseState :=
      let a := (List.range (16 * c.arr.logical)).foldl (fun a y => a.putRun (a.phys (y / 16)) (y % 16) k (ls.getD y [])) c.arr
      let r := a.run k
      { c with arr := a.setRun k ⟨some (o.tag i.e.serial), r.pend.filter fun x => x.serial != i.e.serial⟩ }
    let t := (t.modCourse g put).countC g 0x1128 0x1110 (16 * ls.length)
    let t := t.modCourse g fun c => c.modStarted 1 i.e.serial fun x => { x with prog := x.prog + 1 }
    if i.prog + 1 = o.count then t.instrDone g 1 i.e.serial else t

/-- A half of the table builder is taken out of service (R123). -/
def State.halfLost (s : State) (g : Course) (half : Fin 2) : State :=
  let t := s.failed ⟨(courseDie g).val, 0x03, g.val % 8, 0, half.val⟩
  t.modCourse g fun c => { c with arr :=
    if half = 0 then { c.arr with half0 := false } else { c.arr with half1 := false } }

/-- TABLE_BUILD_CHECK (R123, R133): the half is out of service, and the run stays to be rewritten. -/
def State.buildCheck (s : State) (g : Course) (half : Fin 2) : State := (s.raiseCourse g 0x0204 0x03 0xF none).halfLost g half

/-- A run is written; `bad` is a half whose check of a table of the run fails. With both halves out of service nothing
is written. -/
def tblRunWritten (g : Course) (bad : Option (Fin 2)) (s : State) : State :=
  let c := s.course g
  let stopped := match c.arr.repoint with
    | .stopped _ => true
    | _ => false
  match c.building with
  | none => s
  | some (i, o) =>
    if stopped || !c.mayWrite i o || (!c.arr.half0 && !c.arr.half1) then s
    else
      let table := decide (o.kind = .subset) || decide (o.kind = .signed)
      match bad with
      | some h =>
        if table && (if h = 0 then c.arr.half0 else c.arr.half1) then s.buildCheck g h
        else (s.writeRun g i o).checkWindow g
      | none => (s.writeRun g i o).checkWindow g

def execTblRunWritten (g : Course) (bad : Option (Fin 2)) (s : State) : Out := .next (s.ifCourse g (tblRunWritten g bad))

end Sys2Proof.Machine
end

