-- ==== Sys2Proof/Machine/Drain.lean ====
section
/-! DEFINITION. Drain: swaps of tile slots, and the drain paths (R143, R144, R146 to R152, R156, R157). -/

namespace Sys2Proof.Machine

/-! ### Writing a destination format (R57, R61, R72, R75, R148, R151) -/

/-- The floating-point format of an output format. -/
def OutFmt.fp : OutFmt → FpFmt
  | .bf16 => Machine.bf16
  | .e4m3 => Machine.e4m3
  | .e5m2 => Machine.e5m2
  | _ => Machine.fp32

/-- An element in a floating-point output format; none is a poisoned element. -/
def fpElem (f : OutFmt) (nsat : Bool) (r : Rnd) (x : Option Exact) : List Byte :=
  leBytes f.size (match x with
    | some v => fpWrite f.fp r nsat false v
    | none => f.fp.nanBits)

/-- A BS block (R57): the exponent field and 32 mantissas, none for a poisoned element. -/
def bsWrite (wide : Bool) (exp : Nat) (vals : List (Option Int)) : List Byte :=
  leBytes 1 exp ++ leBytes 3 0 ++ leBytes 4 (maskOf Option.isNone vals) ++
    vals.flatMap fun v => leBytes (if wide then 2 else 1) (twos 16 (v.getD 0))

/-- The BS block that a producer makes of 32 values under R61. -/
def bsBlock (wide : Bool) (xs : List BlockIn) : List Byte :=
  let (e, vals) := blockChoose (if wide then 16 else 8) xs
  bsWrite wide e vals

/-- A full-width partial element (R151). -/
def partialBytes (a : Int) (eref : Int) (poison under length window : Bool) (res : Nat) : List Byte :=
  let flag (b : Bool) (v : Nat) : Nat := if b then v else 0
  leBytes 12 (if poison then 0 else twos 96 a) ++ leBytes 2 (twos 16 eref) ++
    leBytes 1 (flag poison 1 + flag under 2 + flag length 4 + flag window 8) ++ leBytes 1 (if poison then 0 else res)

/-! ### Swaps (R143, R144) -/

/-- Work of the MSN queue issued before `serial` on the slot is still to reach array j. -/
def CourseState.slotBusy (c : CourseState) (j slot serial : Nat) : Bool :=
  let names (o : EngineOp) : Bool := match o with
    | .msnPass p => p.names slot
    | o => o.turns slot
  (c.queue 0).entries.any (fun e => decide (e.serial < serial) && names e.op) ||
    (c.queue 0).started.any (fun i => !i.done && decide (i.e.serial < serial) && names i.e.op && (i.restart ||
      match i.e.op with
      | .msnPass o => !i.killed && decide (i.prog < o.blocks)
      | _ => false)) ||
    (c.arr.tokens j).any fun t => match t with
      | .step n o _ _ _ _ _ _ => decide (n < serial) && o.names slot
      | .openTile n sl k _ _ => decide (n < serial) && decide (sl ≤ slot) && decide (slot < sl + k)

/-- The started drn.* that swaps slot k of array j next. -/
def CourseState.nextSwap (c : CourseState) (j slot : Nat) : Option Started :=
  (c.queue 5).started.find? fun i => !i.done && !i.orphan && !i.restart && i.e.op.turns slot &&
    !c.arr.swaps.contains (i.e.serial, j, slot)

/-- Issue number of the first drn.* after `serial` that names the slot. -/
def CourseState.drainAfter (c : CourseState) (slot serial : Nat) : Option Nat :=
  minOf ((((c.queue 5).entries ++ (c.queue 5).started.map (·.e)).filter fun e =>
    decide (serial < e.serial) && e.op.turns slot).map (·.serial))

/-- The tile that a swap makes active: the last msn.tile before the next drn.* that is waiting. An msn.tile counts as issued for the
swap once it has started and reached the array (log entry 101). -/
def CourseState.nextTile (c : CourseState) (j slot serial : Nat) : Option (Nat × Int) :=
  let before (n : Nat) : Bool := match c.drainAfter slot serial with
    | some m => decide (n < m)
    | none => true
  ((c.arr.pendOpen.filter fun p => decide (p.1 = j) && decide (p.2.1 = slot) && before p.2.2.1).getLast?).map fun p => p.2.2

/-- The slot of array j swaps (R144): a tile that replay has lost leaves a shadow set that drains to nothing (R505). -/
def CourseState.swap (c : CourseState) (j slot : Nat) (i : Started) : CourseState :=
  let k := 32 * j + slot
  let sh : Shadow := match SMap.find c.arr.active k with
    | some t => ⟨t, i.e.serial, false⟩
    | none => ⟨Tile.opened 0 0, i.e.serial, true⟩
  let next := c.nextTile j slot i.e.serial
  let a := { c.arr with
    shadow := SMap.ins c.arr.shadow k sh
    swaps := c.arr.swaps ++ [(i.e.serial, j, slot)]
    active := match next with
      | some (n, eref) => SMap.ins c.arr.active k (Tile.opened n eref)
      | none => SMap.del c.arr.active k
    pendOpen := match next with
      | some (n, _) => c.arr.pendOpen.filter fun p => !(decide (p.1 = j) && decide (p.2.1 = slot) && decide (p.2.2.1 ≤ n))
      | none => c.arr.pendOpen }
  ({ c with arr := a }).flow j

def slotSwap (g : Course) (j slot : Nat) (s : State) : State :=
  let c := s.course g
  match c.nextSwap j slot with
  | some i =>
    if j < c.arr.logical ∧ (SMap.find c.arr.shadow (32 * j + slot)).isNone ∧ !c.slotBusy j slot i.e.serial then
      (s.modCourse g fun c => c.swap j slot i).checkWindow g
    else s
  | none => s

/-! ### Drain paths (R148 to R152, R156, R157) -/

def ArrayState.path (a : ArrayState) (j : Nat) : Option DrainPath := a.paths.toList.getD j none
def ArrayState.setPath (a : ArrayState) (j : Nat) (p : Option DrainPath) : ArrayState :=
  { a with paths := a.paths.setIfInBounds j p }

/-- BS output: the slots are read in pairs. -/
def DrainOp.paired (d : DrainOp) : Bool := d.ofmt.isBS && !d.part

/-- Slot offset and row of read number p (R152). -/
def DrainOp.place (d : DrainOp) (p : Nat) : Nat × Nat :=
  if d.paired then (2 * (p / 32) + p % 2, p % 32 / 2) else (p / 16, p % 16)

/-- What the drain path of array j reads next: its drn.*, and the read number. -/
def CourseState.draining (c : CourseState) (j : Nat) : Option (Started × DrainOp × Nat × Option (List Cell × Int)) :=
  let i := (c.queue 5).started.find? fun i => !i.done && !i.orphan && !i.restart && !c.arr.drained.contains (i.e.serial, j)
  i.bind fun i => match i.e.op with
    | .drain d => match c.arr.path j with
      | some p => if p.drain = i.e.serial then some (i, d, p.pos, p.held) else some (i, d, 0, none)
      | none => some (i, d, 0, none)
    | _ => none

/-- Row r of a tile. -/
def Tile.row (t : Tile) (r : Nat) : List Cell := (t.cells.toList.drop (16 * r)).take 16

/-- The exact value of a cell with EADJ (R148); none where it is poisoned. -/
def Cell.value (k : Cell) (eref eadj : Int) : Option Exact :=
  if k.poison then none else some (.dy k.a.toInt (eref - 40 + eadj))

/-- The values of a row with their rounding: ordinals from `o` (R183). -/
def drainIns (e : QEntry) (g : Course) (d : DrainOp) (o : Nat) (row : List Cell) (eref : Int) : List BlockIn :=
  row.zipIdx.map fun x => (x.1.value eref d.eadj, rndOf e.rows g (o + x.2))

/-- Ordinal of the first element of row r of slot offset u in array j (R183). -/
def drawRow (u j r : Nat) : Nat := ((u * 8 + j) * 16 + r) * 16

/-- The bytes of one row of floating-point output or partials (R148, R151). -/
def DrainOp.rowOut (d : DrainOp) (e : QEntry) (g : Course) (u j r : Nat) (row : List Cell) (eref : Int) : List Byte :=
  if d.part then row.flatMap fun k => partialBytes k.a.toInt eref k.poison k.underflow k.lengthF k.window k.res
  else (drainIns e g d (drawRow u j r) row eref).flatMap fun x => fpElem d.ofmt d.nsat x.2 x.1

/-- The block of row r of pair i (R148). -/
def DrainOp.pairOut (d : DrainOp) (e : QEntry) (g : Course) (i j r : Nat) (x y : List Cell × Int) : List Byte :=
  bsBlock (decide (d.ofmt = .bs16)) (drainIns e g d (drawRow (2 * i) j r) x.1 x.2 ++ drainIns e g d (drawRow (2 * i + 1) j r) y.1 y.2)

/-- Where unit i (a slot, or a pair) of row r of array j is written (R149). -/
def DrainOp.dstOf (d : DrainOp) (i j r : Nat) : Nat := d.dst + i * d.istride + (16 * j + r) * d.rstride

/-- The path of array j after read number p. -/
def CourseState.advance (c : CourseState) (j serial slot p reads : Nat) (lastRow : Bool) (held : Option (List Cell × Int)) :
    CourseState :=
  let a := if lastRow then { c.arr with shadow := SMap.del c.arr.shadow (32 * j + slot) } else c.arr
  { c with arr := if p + 1 = reads then { a.setPath j none with drained := a.drained ++ [(serial, j)] }
      else a.setPath j (some ⟨serial, p + 1, held⟩) }

/-- One row of a shadow set is read, checked, converted and written; `upset` is a cell that fails its check. -/
def drainRowRead (g : Course) (j : Nat) (upset : Bool) (s : State) : State :=
  let c := s.course g
  if c.arr.logical ≤ j then s else
  match c.draining j with
  | none => s
  | some (i, d, p, held) =>
    let (u, r) := d.place p
    let slot := d.slot + u
    match SMap.find c.arr.shadow (32 * j + slot) with
    | none => s
    | some sh =>
      if sh.drain ≠ i.e.serial then s
      else
        let row := sh.tile.row r
        let t := s.countC g 0x132C 0x1320 16
        if !sh.lost && (upset || row.any fun k => k.res != res7 k.a.toInt) then t.arrayFault g j 0x0104
        else
          let now : Option (List Cell × Int) := if sh.lost then none else some (row, sh.tile.eref)
          let t := match now with
            | none => t.instrPoison g 5 i.e.serial 0
            | some _ =>
              let t := if r = 0 && sh.tile.windowHit then t.instrPoison g 5 i.e.serial 0x0301 else t
              if r = 15 then t.countC g 0x132C 0x1318 1 else t
          let t := if d.paired then
              match decide (p % 2 = 1), held, now with
              | true, some x, some y => t.store (d.dstOf (u / 2) j r) (d.pairOut i.e g (u / 2) j r x y)
              | _, _, _ => t
            else match now with
              | some x => t.store (d.dstOf u j r) (d.rowOut i.e g u j r x.1 x.2)
              | none => t
          (t.modCourse g fun c => c.advance j i.e.serial slot p (16 * d.count) (decide (r = 15)) now).checkWindow g

/-- The oldest started drn.* signals completion once every logical array has drained it (R152). -/
def drainComplete (g : Course) (s : State) : State :=
  let c := s.course g
  match (c.queue 5).started.find? fun i => !i.done && !i.orphan && !i.restart with
  | some i =>
    let n := i.e.serial
    if (List.range c.arr.logical).all fun j => c.arr.drained.contains (n, j) then
      ((s.instrDone g 5 n).modCourse g fun c => { c with arr := { c.arr with
        swaps := c.arr.swaps.filter fun x => x.1 != n, drained := c.arr.drained.filter fun x => x.1 != n } }).checkWindow g
    else s
  | none => s

def execSlotSwap (g : Course) (j : Fin 8) (slot : Fin 32) (s : State) : Out := .next (s.ifCourse g (slotSwap g j.val slot.val))
def execDrainRowRead (g : Course) (j : Fin 8) (upset : Bool) (s : State) : Out := .next (s.ifCourse g (drainRowRead g j.val upset))
def execDrainComplete (g : Course) (s : State) : Out := .next (s.ifCourse g (drainComplete g))

end Sys2Proof.Machine
end

