-- ==== Sys2Proof/Machine/Parity.lean ====
section
/-! DEFINITION. Parity: msn.parity, Reed–Solomon coding on the arrays (chapter 14). -/

namespace Sys2Proof.Machine

/-! ### GF(2^8) (R440) -/

/-- a times x in the field of polynomial 0x11D. -/
def rsDouble (a : Nat) : Nat := if 128 ≤ a % 256 then (2 * (a % 256)) ^^^ 0x11D else 2 * (a % 256)

/-- The product of b's low n bits and a. -/
def rsMulN : Nat → Nat → Nat → Nat
  | 0, _, _ => 0
  | n + 1, a, b => (if b % 2 = 1 then a % 256 else 0) ^^^ rsMulN n (rsDouble a) (b / 2)

def rsMul (a b : Nat) : Nat := rsMulN 8 a b

/-- The inverse a^254 of a nonzero a. -/
def rsInv (a : Nat) : Nat :=
  let a2 := rsMul a a
  let a4 := rsMul a2 a2
  let a8 := rsMul a4 a4
  let a16 := rsMul a8 a8
  let a32 := rsMul a16 a16
  let a64 := rsMul a32 a32
  rsMul (rsMul (rsMul (rsMul (rsMul (rsMul a2 a4) a8) a16) a32) a64) (rsMul a64 a64)

/-- f times row b added to row a. -/
def rsAddRow (f : Nat) (a b : List Nat) : List Nat := a.zipWith (fun x y => x ^^^ rsMul f y) b

def rsScale (f : Nat) (a : List Nat) : List Nat := a.map (rsMul f)

/-! ### Matrices (R441, R442, R446, R447) -/

def unitRow (k i : Nat) : List Nat := (List.range k).map fun x => if x = i then 1 else 0

/-- The row of index n over k data shards; `user` gives the rows of a USER matrix. -/
def parityRow (k : Nat) (user : Option (List (List Nat))) (n : Nat) : List Nat :=
  if n < 128 then unitRow k n
  else match user with
    | some m => m.getD (n - 128) []
    | none => (List.range k).map fun i => rsInv (n ^^^ i)

/-- An accepted pivot row: its column, the row, and the combination of source rows that it is. -/
structure Pivot where
  col : Nat
  row : List Nat
  comb : List Nat
  deriving DecidableEq, Repr

/-- Gauss–Jordan elimination in list order: the pivots, and the mask of dependent rows (R447). -/
def eliminate (k : Nat) : Nat → List (List Nat) → List Pivot → Nat → List Pivot × Nat
  | _, [], ps, bad => (ps, bad)
  | s, r :: rs, ps, bad =>
    let start : List Nat × List Nat := (r, unitRow k s)
    let (row, comb) := ps.foldl (fun (x : List Nat × List Nat) p =>
      let f := x.1.getD p.col 0
      (rsAddRow f x.1 p.row, rsAddRow f x.2 p.comb)) start
    match (List.range k).find? fun c => row.getD c 0 != 0 with
    | none => eliminate k (s + 1) rs ps (bad + 2 ^ s)
    | some c =>
      let inv := rsInv (row.getD c 0)
      let p : Pivot := ⟨c, rsScale inv row, rsScale inv comb⟩
      let ps := ps.map fun q =>
        let f := q.row.getD c 0
        { q with row := rsAddRow f q.row p.row, comb := rsAddRow f q.comb p.comb }
      eliminate k (s + 1) rs (ps ++ [p]) bad

/-- G_O row times the inverse given by the pivots. -/
def timesInverse (k : Nat) (ps : List Pivot) (row : List Nat) : List Nat :=
  ps.foldl (fun acc p => rsAddRow (row.getD p.col 0) acc p.comb) (List.replicate k 0)

/-! ### Checks at issue (R443, R454) -/

/-- The operands of an msn.parity, where they meet their columns; addresses as the registers hold them. -/
def parityOperands (c : CourseState) (w : BitVec 56) : Option ParityOp :=
  let l := c.sFld w 11
  let len := l % 2 ^ 32
  let stride := l / 2 ^ 32
  let x := c.sFld w 6
  let kd := fld w 39 32
  let mp := fld w 31 24
  if fld w 41 40 ≤ 1 ∧ 1 ≤ kd ∧ kd ≤ 128 ∧ 1 ≤ mp ∧ mp ≤ 16 * c.arr.logical ∧ len % 128 = 0 ∧ 128 ≤ len ∧ len ≤ 0x800000 ∧
      stride % 128 = 0 ∧ len ≤ stride ∧ x < 2 ^ 48 then
    some ⟨w.getLsbD 40, kd, mp, c.aFld w 20, c.aFld w 16, len, stride, x⟩
  else none

/-- Two ranges of bytes meet. -/
def rangesMeet (a n b m : Nat) : Bool := decide (a < b + m) && decide (b < a + n)

/-- The address checks, of the sources, then of the outputs, then of the descriptor: the operation with device physical addresses, or
the address that faults, which for an overlap is that of the outputs. -/
def State.parityAddresses (s : State) (g : Course) (o : ParityOp) : Except Nat ParityOp :=
  let span (n : Nat) : Nat := (n - 1) * o.stride + o.len
  let place (a n align : Nat) : Option Nat := (s.slice g a n).filter fun p => decide (p % align = 0)
  match place o.src (span o.kd) 128, place o.dst (span o.mp) 128, place o.desc (16 + o.kd + o.mp) 16 with
  | none, _, _ => .error o.src
  | _, none, _ => .error o.dst
  | _, _, none => .error o.desc
  | some a, some b, some d =>
    if !rangesMeet b (span o.mp) d (16 + o.kd + o.mp) ∧
        (List.range o.kd).all (fun i => !rangesMeet b (span o.mp) (a + i * o.stride) o.len) then
      .ok { o with src := a, dst := b, desc := d }
    else .error o.dst

def issueParity (g : Course) (w : BitVec 56) (t : State) : Act :=
  let c := t.course g
  match parityOperands c w with
  | none => .fault 0x0D01 none
  | some o =>
    if c.arr.progOpen ≠ 0 then .fault 0x0302 none
    else match t.parityAddresses g o with
      | .ok p => t.submit g w 0 (.msnParity p) none
      | .error a => .fault 0x0D02 (some (BitVec.ofNat 64 a))

/-! ### The descriptor (R444, R445) -/

/-- What an msn.parity reads when it starts: source and output indices, and the USER matrix. -/
structure ParityDesc where
  sidx : List Nat
  oidx : List Nat
  user : Option (List (List Nat))
  deriving DecidableEq, Repr

/-- The descriptor, where R445 accepts it. -/
def State.parityDesc (s : State) (g : Course) (o : ParityOp) : Option ParityDesc :=
  let bs := s.bytes o.desc (16 + o.kd + o.mp)
  let gen := byteAt bs 0
  let rows := byteAt bs 1
  let gaddr := natAt bs 8 6
  let sidx := (List.range o.kd).map fun i => byteAt bs (16 + i)
  let oidx := (List.range o.mp).map fun i => byteAt bs (16 + o.kd + i)
  let idxOk (n : Nat) : Bool := if n < 128 then decide (n < o.kd) else decide (gen = 0) || decide (n < 128 + rows)
  let order := o.decode || (decide (sidx = List.range o.kd) && oidx.all fun n => decide (128 ≤ n))
  if natAt bs 2 6 = 0 ∧ natAt bs 14 2 = 0 ∧ (sidx ++ oidx).all idxOk ∧ order then
    if gen = 0 then (if rows = 0 ∧ gaddr = 0 then some ⟨sidx, oidx, none⟩ else none)
    else if gen = 1 ∧ 1 ≤ rows ∧ rows ≤ 128 then
      (s.slice g gaddr (128 * (rows - 1) + o.kd)).map fun a =>
        ⟨sidx, oidx, some ((List.range rows).map fun j => (s.bytes (a + 128 * j) o.kd).map (·.toNat))⟩
    else none
  else none

/-! ### Execution (R446 to R455) -/

/-- The coefficient matrix M, or the mask of dependent source rows (R446 to R448). -/
def parityMatrix (o : ParityOp) (d : ParityDesc) : List (List Nat) × Nat :=
  let out := d.oidx.map (parityRow o.kd d.user)
  if o.decode then
    let (ps, bad) := eliminate o.kd 0 (d.sidx.map (parityRow o.kd d.user)) [] 0
    (out.map (timesInverse o.kd ps), bad)
  else (out, 0)

/-- A table of R451: entry x is the product of a coefficient and x, or 16 x in T_hi. RES holds the even parity of entry x in the place
that a table line gives its residue (R115; log entry 97). -/
def parityTable (m : Nat) (hi : Bool) : TblLine :=
  let es := (List.range 16).map fun x => rsMul m (if hi then 16 * x else x)
  let l : TblLine :=
    { data := BitVec.ofNat 128 (es.zipIdx.foldl (fun v e => v + e.1 * 2 ^ (8 * e.2)) 0)
      res := BitVec.ofNat 96 (es.zipIdx.foldl (fun v e => v + popcount 8 e.1 % 2 * 2 ^ (3 * e.2)) 0)
      poison := 0, exp := 0, check := 0 }
  { l with check := l.checkOf }

/-- Entry x of a table of R451. -/
def TblLine.product (l : TblLine) (x : Nat) : Nat := bitsAt l.data.toNat (8 * x) 8

/-- The tables of output n, in row n mod 16 of logical array n / 16: tables 2s and 2s + 1 of source s (R450, R451). -/
def ArrayState.putTables (a : ArrayState) (n : Nat) (row : List Nat) : ArrayState :=
  let key (l : Nat) : Nat := 16384 * a.phys (n / 16) + 1024 * (n % 16) + l
  { a with tables := row.zipIdx.foldl (fun m c =>
      SMap.put (SMap.put m (key (2 * c.2)) (parityTable c.1 false) ⟨0, 0, 0, 0, 0⟩) (key (2 * c.2 + 1)) (parityTable c.1 true)
        ⟨0, 0, 0, 0, 0⟩) a.tables }

/-- T_lo and T_hi of each source, as output n reads them. -/
def ArrayState.outTables (a : ArrayState) (o : ParityOp) (n : Nat) : List (TblLine × TblLine) :=
  (List.range o.kd).map fun s => (a.line (a.phys (n / 16)) (n % 16) (2 * s), a.line (a.phys (n / 16)) (n % 16) (2 * s + 1))

/-- Bytes p to p + 63 of one output: what the lanes look up for each source, XORed in its tile slots (R450). -/
def State.parityLine (s : State) (o : ParityOp) (tables : List (TblLine × TblLine)) (p : Nat) : List Byte :=
  (List.range 64).map fun i => BitVec.ofNat 8 (tables.zipIdx.foldl (fun acc m =>
    let b := (s.byte (o.src + m.2 * o.stride + p + i)).toNat
    acc ^^^ m.1.1.product (b % 16) ^^^ m.1.2.product (b / 16)) 0)

/-- Some source line at offset p is poisoned (R455). -/
def State.parityPoison (s : State) (o : ParityOp) (p : Nat) : Bool :=
  (List.range o.kd).any fun i => s.dirty (o.src + i * o.stride + p) 64

/-- Segments of an msn.parity, and the 64-byte lines of one (R449). -/
def ParityOp.segments (o : ParityOp) : Nat := (o.len + 4095) / 4096
def ParityOp.segLines (o : ParityOp) (n : Nat) : List Nat := span (64 * n) (min (64 * n + 63) (o.len / 64 - 1))

/-- Write some lines of output j. -/
def State.parityOut (s : State) (g : Course) (o : ParityOp) (lines : List Nat) (j : Nat) : State :=
  let tables := (s.course g).arr.outTables o j
  lines.foldl (fun t k =>
    t.storeP (o.dst + j * o.stride + 64 * k) (t.parityLine o tables (64 * k)) (t.parityPoison o (64 * k))) s

/-- A segment is processed: its outputs are written, and it is counted (R449, R453, R455, R458). Its chunk rows go on the weight
chain, and each pair of its lines is a row of a tile slot. -/
def State.parityStep (s : State) (g : Course) (o : ParityOp) (n : Nat) : State :=
  let lines := o.segLines n
  let bad := (lines.filter fun k => s.parityPoison o (64 * k)).length
  let t := (List.range o.mp).foldl (fun t j => t.parityOut g o lines j) s
  let t := (t.countC g 0x1070 0x1048 (o.kd * (64 * lines.length))).countC g 0x1070 0x1060 (o.mp * bad)
  (t.countC g 0x132C 0x1318 (lines.length / 2 * ((o.mp + 15) / 16))).countC g 0x1210 0x1208 (o.kd * (lines.length / 2))

/-- The runs of the tables are EMPTY at completion (R451). -/
def ArrayState.emptyFirst (a : ArrayState) (n : Nat) : ArrayState :=
  (List.range n).foldl (fun a k => a.setRun k { a.run k with cur := none }) a

/-- A capture of dependent rows (R448, R459). -/
def State.parSing (s : State) (g : Course) (mask : Nat) : State :=
  if (s.reg (cr g 0x1040)).getLsbD 31 then s
  else ((List.range 4).foldl (fun t i => t.setReg (cr g (0x1050 + 4 * i)) (BitVec.ofNat 32 (mask / 2 ^ (32 * i)))) s).orReg
    (cr g 0x1040) 0x80000000

/-- What stops an msn.parity on its way from segment `first` on (R452): the segment, the logical array and the code. A row passes
every logical array, and only those with outputs read tables and hold slots (R450). -/
def ParityOp.stopAt (o : ParityOp) (logical first : Nat) (err : Option EngineErr) : Option (Nat × Nat × BitVec 16) :=
  let hit (j : Fin 8) (n used : Nat) (code : BitVec 16) : Option (Nat × Nat × BitVec 16) :=
    if j.val < used ∧ first ≤ n ∧ n < o.segments then some (n, j.val, code) else none
  match err with
  | some (.residue j n) => hit j n ((o.mp + 15) / 16) 0x0104
  | some (.chain j n) => hit j n logical 0x0105
  | some (.tableRead j n) => hit j n ((o.mp + 15) / 16) 0x0106
  | _ => none

/-- An msn.parity executes from the segment that it has reached: to its end, or to a segment whose check fails, which the course
repeats with the tables once it has repointed (R452). -/
def State.runParity (s : State) (g : Course) (serial : Nat) (o : ParityOp) (err : Option EngineErr) : State :=
  let finish (t : State) : State :=
    (t.modCourse g fun c => { c with arr := c.arr.emptyFirst o.runs }).instrDone g 0 serial
  match s.parityDesc g o with
  | none => finish (s.instrFault g 0 serial 0x0D03 0x02 0xF none)
  | some d =>
    let (m, bad) := parityMatrix o d
    if bad ≠ 0 then finish ((s.instrFault g 0 serial 0x0D04 0x02 0xF none).parSing g bad)
    else
      let first := ((s.course g).findStarted 0 serial).elim 0 (·.prog)
      let t := s.modCourse g fun c => { c with arr := m.zipIdx.foldl (fun a r => a.putTables r.2 r.1) c.arr }
      let t := t.countC g 0x1128 0x1110 (2 * o.kd * o.mp)
      let upTo (k : Nat) : State := (List.range (k - first)).foldl (fun t i => t.parityStep g o (first + i)) t
      match o.stopAt (s.course g).arr.logical first err with
      | some (n, j, code) =>
        ((upTo n).modCourse g fun c => c.modStarted 0 serial fun i => { i with prog := n, restart := true }).arrayFault g j code
      | none =>
        let t := upTo o.segments
        finish (if (List.range (o.len / 64)).any fun k => t.parityPoison o (64 * k) then t.instrFault g 0 serial 0x0D05 0x02 0xF none
          else t)

/-- An msn.parity may start (R451, R454): earlier instructions of the MSN queue are done, every shadow set is EMPTY,
and earlier builds into its runs are written. -/
def CourseState.parityReady (c : CourseState) (serial : Nat) (o : ParityOp) : Bool :=
  (c.queue 0).started.all (fun i => i.done || decide (serial ≤ i.e.serial)) && c.arr.shadow.isEmpty &&
    ((c.queue 5).started.all fun i => i.done || decide (serial < i.e.serial)) &&
    ((c.queue 5).entries.all fun e => decide (serial < e.serial)) &&
    (List.range o.runs).all fun k => (c.arr.run k).pend.all fun t => decide (serial < t.serial)

def execMsnParityEncode (g : Course) (w : BitVec 56) (s : State) : Out :=
  .next (s.issueEngine g w 0 [(5, 0)] true 0x0D01 (issueParity g w))
def execMsnParityDecode (g : Course) (w : BitVec 56) (s : State) : Out :=
  .next (s.issueEngine g w 0 [(5, 0)] true 0x0D01 (issueParity g w))

end Sys2Proof.Machine
end

