-- ==== Sys2Proof/Machine/VecFn.lean ====
section
/-! DEFINITION. VecFn: the values of the functions of vec.fn (R172) as integers scaled by 2^512, and the results that lie
within the maximum error of the table. The series below are cut off far below the error that R172 measures (log entry 8). -/

namespace Sys2Proof.Machine

/-- The scale: a value v is held as v × 2^512. -/
abbrev fxOne : Int := 2 ^ 512

def fxMul (a b : Int) : Int := a * b / fxOne
def fxDiv (a b : Int) : Int := a * fxOne / b

/-- a + a·q + a·q·q/2 + …: the series whose term n is the one before it times q, over (n) given by `den`. -/
def fxSeries (q : Int) (den : Nat → Nat) (terms : Nat) (first : Int) : Int :=
  ((List.range terms).foldl (fun (p : Int × Int) n =>
    let t := fxMul p.2 q / (den n : Int)
    (p.1 + t, t)) (first, first)).1

/-- e^t for |t| < 128: the series at t / 1024, squared ten times. -/
def fxExp (t : Int) : Int :=
  (List.range 10).foldl (fun v _ => fxMul v v) (fxSeries (t / 1024) (· + 1) 90 fxOne)

/-- Σ z^(2n+1) · sign^n / (2n+1): atanh z for sign 1, atan z for sign -1. -/
def fxAtan (sign z : Int) (terms : Nat) : Int :=
  ((List.range terms).foldl (fun (p : Int × Int) n => (p.1 + p.2 / (2 * n + 1 : Nat), sign * fxMul p.2 (fxMul z z))) (0, z)).1

/-- ln 2, by the series of atanh at 1/3. -/
def fxLn2 : Int := 2 * fxAtan 1 (fxOne / 3) 170

/-- ln of m × 2^e, for m not 0: the mantissa brought to [1, 2). -/
def fxLn (m : Nat) (e : Int) : Int :=
  let k := Nat.log2 m
  let x : Int := m * 2 ^ (512 - k)
  (e + k) * fxLn2 + 2 * fxAtan 1 (fxDiv (x - fxOne) (x + fxOne)) 170

/-- √v of a value that is not negative. -/
def fxSqrt (v : Int) : Int :=
  let n := v.toNat * 2 ^ 512
  isqrtGo n (Nat.log2 n / 2 + 1) 0

/-- π, by Machin's formula. -/
def fxPi : Int := 16 * fxAtan (-1) (fxOne / 5) 120 - 4 * fxAtan (-1) (fxOne / 239) 40

/-- erf z: ±1 from |z| = 11 on, below that its series at 0. -/
def fxErf (z : Int) : Int :=
  if 11 * fxOne ≤ z then fxOne
  else if z ≤ -(11 * fxOne) then -fxOne
  else
    let q := -fxMul z z
    let s := ((List.range 700).foldl (fun (p : Int × Int) n =>
      (p.1 + p.2 / (2 * n + 1 : Nat), fxMul p.2 q / (n + 1 : Nat))) (0, z)).1
    fxDiv (2 * s) (fxSqrt fxPi)

/-- e^t: 0 from -128 down, 2^256 from 128 up, which is beyond every FP32 number. -/
def fxExpAll (t : Int) : Int :=
  if 128 * fxOne ≤ t then 2 ^ 768 else if t ≤ -(128 * fxOne) then 0 else fxExp t

/-- 1 / (1 + e^-t). -/
def fxSigmoid (t : Int) : Int :=
  if 128 * fxOne ≤ t then fxOne else if t ≤ -(128 * fxOne) then 0 else fxDiv fxOne (fxOne + fxExp (-t))

/-- The definition of function fn (R172) at the finite input m × 2^e, negative or not. -/
def fnValue (fn : Nat) (neg : Bool) (m : Nat) (e : Int) : Int :=
  let x : Int := (if neg then -1 else 1) * m * 2 ^ (e + 512).toNat
  match fn with
  | 2 => fxDiv fxOne (fxSqrt x)
  | 3 => fxExpAll (fxMul x fxLn2)
  | 4 => fxDiv (fxLn m e) fxLn2
  | 5 => fxExpAll x
  | 6 => fxLn m e
  | 7 => if 64 * fxOne ≤ x then fxOne else if x ≤ -(64 * fxOne) then -fxOne
    else fxDiv (fxExp (2 * x) - fxOne) (fxExp (2 * x) + fxOne)
  | 8 => fxSigmoid x
  | 9 => fxErf x
  | 10 => fxMul x (fxSigmoid x)
  | _ => fxMul x (fxOne + fxErf (fxDiv x (fxSqrt (2 * fxOne)))) / 2

/-- The exact value of function fn at an FP32 input, for a finite one. -/
def fnExact (fn x : Nat) : Int := match f32 x with
  | .num neg m e => fnValue fn neg m e
  | _ => 0

/-- The maximum error of function fn in ulp (R172). -/
def fnUlps (fn : Nat) : Nat := if fn ≤ 4 then 1 else if fn ≤ 9 then 2 else 4

/-- One ulp at y: of FP32's numbers in its binade, and 2^-149 below 2^-126 (R172). -/
def ulpAt (y : Int) : Int := 2 ^ (max (Nat.log2 y.natAbs) (512 - 126) - 23)

/-- The FP32 result v for the exact value y: v itself where it is within n ulp of it, an infinity standing for ±2^128; else
the number nearest y. -/
def within32 (n : Nat) (y : Int) (v : Nat) : Nat :=
  let ok (a : Int) : Bool := decide ((a - y).natAbs ≤ (n * ulpAt y).natAbs)
  let near := match f32 v with
    | .nan => false
    | .inf neg => ok (if neg then -(2 ^ 640) else 2 ^ 640)
    | .num neg m e => ok ((if neg then -1 else 1) * m * 2 ^ (e + 512).toNat)
  if near then v else toF32 (.dy y (-512))

end Sys2Proof.Machine
end

