-- ==== Sys2Proof/Machine/Vector.lean ====
section
/-! DEFINITION. Vector: the vector engine (R162 to R179): the checks of vec.* at issue and what each one computes. -/

namespace Sys2Proof.Machine

/-! ### Checks at issue (R163, R165, R172, R175, R177, R203) -/

/-- The device physical address of an operand: n bytes in the course's slice, aligned (R163). -/
def State.opnd (s : State) (g : Course) (a n align : Nat) : Option Nat :=
  match s.slice g a n with
  | some p => if p % align = 0 then some p else none
  | none => none

/-- VEC_ADDRESS, with the first of the operand addresses that fails (R163, R237; log entry 103). -/
def vecAddress (l : List (Nat × Option Nat)) : Act :=
  .fault 0x0402 ((l.find? fun x => x.2.isNone).map fun x => BitVec.ofNat 64 x.1)

def vecElOf : Nat → VecEl
  | 0 => .add
  | 1 => .mul
  | 2 => .fma
  | 3 => .max
  | _ => .min

/-- vec.add, vec.mul, vec.fma, vec.max, vec.min at issue. C is read by vec.fma only. -/
def issueVecEl (g : Course) (w : BitVec 56) (f : VecEl) (t : State) : Act :=
  let c := t.course g
  let e := c.sFld w 21
  let third := if f = .fma then t.opnd g (c.aFld w 26) (4 * e) 4 else some 0
  let od := t.opnd g (c.aFld w 38) (4 * e) 4
  let oa := t.opnd g (c.aFld w 34) (4 * e) 4
  let ob := t.opnd g (c.aFld w 30) (4 * e) 4
  match od, oa, ob, third with
  | some d, some a, some b, some x => t.submit g w 3 (.vecEl f d a b x e) none
  | _, _, _, _ => vecAddress [(c.aFld w 38, od), (c.aFld w 34, oa), (c.aFld w 30, ob), (c.aFld w 26, third)]

def issueVecCvt (g : Course) (w : BitVec 56) (t : State) : Act :=
  let c := t.course g
  let e := c.sFld w 21
  let rm := fld w 30 29
  let rng := c.sFld w 16
  match outFmtOf (fld w 33 31) with
  | none => .fault 0x0401 none
  | some f =>
    if f = .fp32 ∨ f.isBS ∨ 1 < rm ∨ 65536 ≤ rng ∨ (rm = 0 ∧ fld w 20 16 ≠ 0) then .fault 0x0401 none
    else
      let od := t.opnd g (c.aFld w 38) (f.size * e) f.size
      let oa := t.opnd g (c.aFld w 34) (4 * e) 4
      match od, oa with
      | some d, some a => t.withRows g (decide (rm = 1)) rng e 0x0408 fun u rows =>
          u.submit g w 3 (.vecCvt d a f (decide (rm = 1)) (w.getLsbD 28) e) rows
      | _, _ => vecAddress [(c.aFld w 38, od), (c.aFld w 34, oa)]

/-- Bytes of the output of a vec.padd. -/
def PaddOp.outBytes (o : PaddOp) : Nat :=
  if !o.convert then 16 * o.elems
  else match o.ofmt with
    | .bs8 => o.elems / 32 * 40
    | .bs16 => o.elems / 32 * 72
    | f => o.elems * f.size

def issueVecPadd (g : Course) (w : BitVec 56) (t : State) : Act :=
  let c := t.course g
  let conv := w.getLsbD 20
  let rm := fld w 16 15
  let rng := c.sFld w 2
  let p := c.sFld w 29
  match outFmtOf (fld w 19 17) with
  | none => .fault 0x0401 none
  | some f =>
    let o : PaddOp := ⟨c.aFld w 34, p % 2 ^ 32, fld w 28 21 + 1, p / 2 ^ 32, conv, c.aFld w 38, f, decide (rm = 1), w.getLsbD 14,
      sext 7 (fld w 13 7)⟩
    let unused := if conv then decide (rm = 0) && decide (fld w 6 2 ≠ 0) else decide (fld w 19 2 ≠ 0)
    if unused ∨ 1 < rm ∨ 65536 ≤ (if conv then rng else 0) ∨ o.parts < 2 ∨ o.sstride % 16 ≠ 0 ∨ o.elems = 0 ∨
        2 ^ 20 < o.elems ∨ (conv ∧ f.isBS ∧ o.elems % 32 ≠ 0) then .fault 0x0401 none
    else
      let oa := t.opnd g o.src ((o.parts - 1) * o.sstride + 16 * o.elems) 16
      let od := t.opnd g o.dst o.outBytes (if conv then f.size else 16)
      match oa, od with
      | some a, some d => t.withRows g (conv && decide (rm = 1)) rng o.elems 0x0408 fun u rows =>
          u.submit g w 3 (.vecPadd { o with src := a, dst := d }) rows
      | _, _ => vecAddress [(o.dst, od), (o.src, oa)]

def issueVecSum (g : Course) (w : BitVec 56) (t : State) : Act :=
  let c := t.course g
  let n := c.sFld w 29
  let rs := c.sFld w 24 % 2 ^ 32
  let rows := c.sFld w 24 / 2 ^ 32
  if n = 0 ∨ 2 ^ 32 ≤ n ∨ rs % 4 ≠ 0 ∨ rows = 0 ∨ 65536 < rows then .fault 0x0401 none
  else
    let oa := t.opnd g (c.aFld w 34) ((rows - 1) * rs + 4 * n) 4
    let od := t.opnd g (c.aFld w 38) (4 * rows) 4
    match oa, od with
    | some a, some d => t.submit g w 3 (.vecSum d a n rows rs (w.getLsbD 23)) none
    | _, _ => vecAddress [(c.aFld w 38, od), (c.aFld w 34, oa)]

def issueVecFn (g : Course) (w : BitVec 56) (t : State) : Act :=
  let c := t.course g
  let fn := fld w 33 30
  let e := c.sFld w 25
  if 12 ≤ fn ∨ e = 0 ∨ 2 ^ 20 < e then .fault 0x0401 none
  else
    let oa := t.opnd g (c.aFld w 34) (4 * e) 4
    let od := t.opnd g (c.aFld w 38) (4 * e) 4
    match oa, od with
    | some a, some d => t.submit g w 3 (.vecFn d a fn e) none
    | _, _ => vecAddress [(c.aFld w 38, od), (c.aFld w 34, oa)]

def issueVecQbw16 (g : Course) (w : BitVec 56) (t : State) : Act :=
  let c := t.course g
  let part := w.getLsbD 29
  let agreed := w.getLsbD 28
  let rm := fld w 25 24
  let nb := c.sFld w 19
  let rng := c.sFld w 14
  let xs := if agreed then t.opnd g (c.aFld w 30) nb 1 else some 0
  let bad := match xs with
    | some x => agreed && (t.bytes x nb).any fun b => b == 0xFF
    | none => false
  let unused := (!agreed && decide (fld w 33 30 ≠ 0)) || (decide (rm = 0) && decide (fld w 18 14 ≠ 0))
  if unused || bad || decide (2 < fld w 27 26) || decide (1 < rm) || decide (nb = 0) || decide (65536 < nb) || decide (65536 ≤ rng)
  then .fault 0x0401 none
  else
    let oa := t.opnd g (c.aFld w 34) (64 * nb * (if part then 16 else 4)) (if part then 16 else 4)
    let od := t.opnd g (c.aFld w 38) (280 * nb) 8
    match oa, xs, od with
    | some a, some x, some d => t.withRows g (decide (rm = 1)) rng (64 * nb) 0x0408 fun u rows =>
        u.submit g w 3 (.vecQbw16 ⟨a, part, agreed, x, fld w 27 26, decide (rm = 1), d, nb⟩) rows
    | _, _, _ => vecAddress [(c.aFld w 38, od), (c.aFld w 34, oa), (c.aFld w 30, xs)]

def issueVecQidx (g : Course) (w : BitVec 56) (t : State) : Act :=
  let c := t.course g
  let bw := w.getLsbD 26
  let rm := fld w 25 24
  let n := c.sFld w 19 % 2 ^ 32
  let k := c.sFld w 19 / 2 ^ 32
  let rs := c.sFld w 14
  let rng := c.sFld w 9
  match idxFmtOf (fld w 29 27) with
  | none => .fault 0x0401 none
  | some f =>
    if 1 < rm ∨ n % 16 ≠ 0 ∨ k % 128 ≠ 0 ∨ 2 ^ 20 < n ∨ 2 ^ 20 < k ∨ rs % (if bw then 280 else 4) ≠ 0 ∨ 65536 ≤ rng ∨
        (rm = 0 ∧ fld w 13 9 ≠ 0) then .fault 0x0401 none
    else
      let row := if bw then k / 64 * 280 else 4 * k
      let oa := t.opnd g (c.aFld w 34) ((n - 1) * rs + row) (if bw then 8 else 4)
      let od := t.opnd g (c.aFld w 38) (n / 16 * f.planes * (k / 64) * 128) 128
      let oq := t.opnd g (c.aFld w 30) (n / 16 * (k / 128) * 16) 16
      match oa, od, oq with
      | some a, some d, some q => t.withRows g (decide (rm = 1)) rng (n * k) 0x0408 fun u rows =>
          u.submit g w 3 (.vecQidx ⟨f, bw, a, rs, n, k, d, q, decide (rm = 1)⟩) rows
      | _, _, _ => vecAddress [(c.aFld w 38, od), (c.aFld w 34, oa), (c.aFld w 30, oq)]

/-! ### Elementwise arithmetic (R163, R164) -/

/-- FP32 element at a: the canonical NaN where its line is poisoned. -/
def State.f32At (s : State) (a : Nat) : Nat := if s.dirty a 4 then nan32 else s.rdN a 4

/-- vec.max and vec.min (R164): where the editions of IEEE 754 differ, one of the results they allow (log entry 16). -/
def maxMin32 (isMin : Bool) (a b : Nat) : Nat :=
  let pick := (Config.maxMinBits isMin (BitVec.ofNat 32 a) (BitVec.ofNat 32 b)).getLsbD 0
  match f32 a, f32 b with
  | .nan, .nan => nan32
  | .nan, _ => if pick then nan32 else b
  | _, .nan => if pick then nan32 else a
  | x, y =>
    if x.isZero && y.isZero && (x.neg? != y.neg?) then if pick then a else b
    else if lt32 a b != isMin then b else a

def VecEl.apply (f : VecEl) (a b c : Nat) : Nat :=
  match f with
  | .add => add32 a b
  | .mul => mul32 a b
  | .fma => fma32 a b c
  | .max => maxMin32 false a b
  | .min => maxMin32 true a b

/-- The words of a list, little-endian. -/
def words32 (l : List Nat) : List Byte := l.flatMap (leBytes 4)

def State.runVecEl (s : State) (f : VecEl) (d a b c e : Nat) : State :=
  s.store d (words32 ((List.range e).map fun i =>
    f.apply (s.f32At (a + 4 * i)) (s.f32At (b + 4 * i)) (if f = .fma then s.f32At (c + 4 * i) else 0)))

/-- vec.cvt of one element (R47, R70, R72). An infinity converts as OCP has it (log entry 17). -/
def cvt32 (f : OutFmt) (nsat : Bool) (r : Rnd) (x : Nat) : List Byte :=
  match f32 x with
  | .nan => fpElem f nsat r none
  | .inf neg =>
    let top := match f.fp.infBits with
      | some i => if f = .bf16 ∨ nsat then signBit f.fp neg + i else signBit f.fp neg + f.fp.maxFin
      | none => if nsat then f.fp.nanBits else signBit f.fp neg + f.fp.maxFin
    leBytes f.size top
  | v => leBytes f.size (fpWrite f.fp r nsat v.neg? v.exact)

def State.runVecCvt (s : State) (g : Course) (rows : Option Rows) (d a : Nat) (f : OutFmt) (nsat : Bool) (e : Nat) : State :=
  s.store d ((List.range e).flatMap fun i => cvt32 f nsat (rndOf rows g i) (s.f32At (a + 4 * i)))

/-! ### vec.padd (R165 to R167) -/

/-- What one element of a vec.padd has gathered. -/
structure PaddAcc where
  sum : Int
  pz : Bool
  fl : Nat
  bad : Bool
  residue : Bool
  deriving DecidableEq, Repr

/-- Add the record at a (R166). -/
def State.paddRec (s : State) (eref a : Nat) (x : PaddAcc) : PaddAcc :=
  let bs := s.bytes a 16
  let v := sext 96 (natAt bs 0 12)
  let fl := x.fl ||| (byteAt bs 14 % 16) ||| (if s.dirty a 16 then 1 else 0)
  let bad := x.bad || decide (natAt bs 12 2 ≠ eref)
  if byteAt bs 14 % 2 = 1 ∨ s.dirty a 16 then { x with fl := fl, bad := bad, pz := true }
  else if byteAt bs 15 % 8 ≠ res7 v then { x with fl := fl, bad := bad, pz := true, residue := true }
  else { x with fl := fl, bad := bad, sum := x.sum + v }

/-- Element e: EREF of part 0 and the sum over the parts. -/
def State.paddElem (s : State) (o : PaddOp) (e : Nat) : Nat × PaddAcc :=
  let a := o.src + 16 * e
  let eref := s.rdN (a + 12) 2
  let x := (List.range o.parts).foldl (fun x p => s.paddRec eref (a + p * o.sstride) x) ⟨0, false, 0, false, false⟩
  (eref, { x with pz := x.pz || x.bad })

/-- The sum does not fit a partial record (R167). -/
def PaddAcc.wide (x : PaddAcc) : Bool := !x.pz && (decide (x.sum < -(2 ^ 95)) || decide (2 ^ 95 - 1 < x.sum))

/-- The record of R167. -/
def PaddAcc.record (x : PaddAcc) (eref : Nat) : List Byte :=
  let pz := x.pz || x.wide
  partialBytes x.sum (sext 16 eref) pz (x.fl.testBit 1) (x.fl.testBit 2 || x.wide) (x.fl.testBit 3) (res7 x.sum)

def PaddAcc.value (x : PaddAcc) (eref : Nat) (eadj : Int) : Option Exact :=
  if x.pz then none else some (.dy x.sum (sext 16 eref - 40 + eadj))

/-- Raise a code once, in order of first occurrence. -/
def State.raiseCodes (s : State) (g : Course) (q : QueueId) (serial : Nat) (unit : Byte) (sub : BitVec 4) (codes : List (BitVec 16)) :
    State :=
  codes.foldl (fun t c => t.instrFault g q serial c unit sub none) s

def State.runVecPadd (s : State) (g : Course) (serial : Nat) (rows : Option Rows) (o : PaddOp) : State :=
  let xs := (List.range o.elems).map (s.paddElem o)
  let out := if !o.convert then xs.flatMap fun x => x.2.record x.1
    else if o.ofmt.isBS then (List.range (o.elems / 32)).flatMap fun b =>
      bsBlock (decide (o.ofmt = .bs16)) (((xs.drop (32 * b)).take 32).zipIdx.map fun x =>
        (x.1.2.value x.1.1 o.eadj, rndOf rows g (32 * b + x.2)))
    else xs.zipIdx.flatMap fun x => fpElem o.ofmt o.nsat (rndOf rows g x.2) (x.1.2.value x.1.1 o.eadj)
  let codes := (xs.flatMap fun x => (if x.2.residue then [0x0404#16] else []) ++ (if x.2.bad then [0x0403#16] else []) ++
    (if !o.convert && x.2.wide then [0x0405#16] else [])).eraseDups
  ((s.store o.dst out).raiseCodes g 3 serial 0x07 0x3 codes).countC g 0x1428 0x1418 (o.parts * o.elems)

/-! ### vec.sum (R169 to R171) -/

/-- One lane: its sum and correction, and whether an infinite term or an overflow of each sign has been met. -/
structure SumLane where
  s : Nat
  c : Nat
  up : Bool
  down : Bool
  deriving DecidableEq, Repr

/-- An exact difference that FP32 holds. -/
def twoSumErr (a b s : Nat) : Nat := toF32 (((f32 a).exact.add (f32 b).exact).add (f32 s).exact.neg)

def isInf32 (v : Nat) (neg : Bool) : Bool := decide (v = inf32 neg)

/-- two_sum of the lane's sum and x; an infinity is only noted. -/
def SumLane.add (l : SumLane) (x : Nat) : SumLane × Nat :=
  if l.up || l.down || !(f32 x).isFinite then
    ({ l with up := l.up || isInf32 x false, down := l.down || isInf32 x true }, 0)
  else
    let s := add32 l.s x
    if (f32 s).isFinite then ({ l with s := s }, twoSumErr l.s x s)
    else ({ l with up := l.up || isInf32 s false, down := l.down || isInf32 s true }, 0)

/-- A term of R169: with SQ, its square as an error-free pair. -/
def SumLane.term (sq : Bool) (l : SumLane) (x : Nat) : SumLane :=
  let p := if sq then mul32 x x else x
  let (m, d) := l.add p
  let c := add32 m.c d
  { m with c := if sq && (f32 p).isFinite then add32 c (fma32 x x (p ^^^ 0x80000000)) else c }

/-- Lane a takes lane b in the tree. -/
def SumLane.join (a b : SumLane) : SumLane :=
  let (m, d) := ({ a with up := a.up || b.up, down := a.down || b.down } : SumLane).add b.s
  { m with c := add32 (add32 a.c b.c) d }

/-- The pairwise tree over 2^n lanes. -/
def sumTree : Nat → List SumLane → SumLane
  | 0, ls => ls.headD ⟨0, 0, false, false⟩
  | n + 1, ls => sumTree n ((ls.take (2 ^ n)).zipWith SumLane.join (ls.drop (2 ^ n)))

/-- The lanes once the terms are in: term i goes to lane i mod 512. -/
def sumLanes (sq : Bool) (xs : List Nat) : List SumLane :=
  (List.range 512).map fun l =>
    (List.range ((xs.length + 511 - l) / 512)).foldl (fun a k => a.term sq (xs.getD (512 * k + l) 0)) ⟨0, 0, false, false⟩

/-- The result for one vector, none where both signs overflow, which R171 leaves open. -/
def vecSum (sq : Bool) (xs : List Nat) : Option Nat :=
  let nan (x : Nat) : Bool := match f32 x with
    | .nan => true
    | _ => false
  let pinf := xs.any fun x => isInf32 x false || (sq && isInf32 x true)
  let ninf := xs.any fun x => !sq && isInf32 x true
  if xs.any nan || (pinf && ninf) then some nan32
  else
    let l := sumTree 9 (sumLanes sq xs)
    match l.up || pinf, l.down || ninf with
    | true, true => none
    | true, false => some (inf32 false)
    | false, true => some (inf32 true)
    | false, false => some (add32 l.s l.c)

/-- FP32 bits as the device writes them: every NaN is the canonical one (R72). -/
def canon32 (v : Nat) : Nat := match f32 v with
  | .nan => nan32
  | _ => v

/-- The results of sums in order; one that is not stated is a free value. -/
def State.openSums (s : State) : List (Option Nat) → List Nat × State
  | [] => ([], s)
  | some v :: l => (v :: (s.openSums l).1, (s.openSums l).2)
  | none :: l => (canon32 (s.fresh.toNat % 2 ^ 32) :: (s.used.openSums l).1, (s.used.openSums l).2)

def State.runVecSum (s : State) (g : Course) (d src n rows rstride : Nat) (sq : Bool) : State :=
  let rs := (List.range rows).map fun r => vecSum sq ((List.range n).map fun i => s.f32At (src + r * rstride + 4 * i))
  let r := s.openSums rs
  let t := r.2.store d (words32 r.1)
  if 2 ^ 24 < n then t.orReg (cr g 0x1404) 1 else t

/-! ### vec.fn (R172 to R174) -/

/-- The special results of R173. -/
def fnSpecial (fn : Nat) (x : Nat) : Option Nat :=
  match f32 x with
  | .nan => some nan32
  | .inf false =>
    if fn = 0 ∨ fn = 2 then some 0
    else if fn = 7 ∨ fn = 8 ∨ fn = 9 then some 0x3F800000
    else some (inf32 false)
  | .inf true =>
    if fn = 0 then some 0x80000000
    else if fn = 3 ∨ fn = 5 ∨ fn = 8 then some 0
    else if fn = 7 ∨ fn = 9 then some 0xBF800000
    else if fn = 10 ∨ fn = 11 then some 0x80000000
    else some nan32
  | .num neg m _ =>
    let root := fn = 1 ∨ fn = 2 ∨ fn = 4 ∨ fn = 6
    if m = 0 then
      if fn = 0 ∨ fn = 2 then some (inf32 neg)
      else if fn = 1 then some x
      else if fn = 4 ∨ fn = 6 then some (inf32 true)
      else none
    else if neg ∧ root then some nan32
    else none

/-- x < 0 for a function that has no value there (R173). -/
def fnDomain (fn x : Nat) : Bool :=
  (decide (fn = 1) || decide (fn = 2) || decide (fn = 4) || decide (fn = 6)) && match f32 x with
    | .inf neg => neg
    | .num neg m _ => neg && decide (m ≠ 0)
    | .nan => false

/-- The result of function fn: correctly rounded for RECIP and SQRT, else open within the maximum error of R172 (log entry 8). -/
def vecFn (fn x : Nat) : Nat :=
  match fnSpecial fn x with
  | some v => v
  | none =>
    if fn = 0 then div32 0x3F800000 x
    else if fn = 1 then sqrt32 x
    else within32 (fnUlps fn) (fnExact fn x) (Config.vecFnBits fn (BitVec.ofNat 32 x)).toNat

def State.runVecFn (s : State) (g : Course) (d src fn e : Nat) : State :=
  let xs := (List.range e).map fun i => s.f32At (src + 4 * i)
  let t := s.store d (words32 (xs.map (vecFn fn)))
  if xs.any (fnDomain fn) then t.orReg (cr g 0x1404) 2 else t

/-! ### vec.qbw16 (R175, R176, R376, R377) -/

/-- The exact value of a source element: none where it is not finite, or poisoned. -/
def State.qSource (s : State) (part : Bool) (a : Nat) : Option Exact :=
  if part then
    let bs := s.bytes a 16
    if s.dirty a 16 ∨ byteAt bs 14 % 2 = 1 then none
    else some (.dy (sext 96 (natAt bs 0 12)) (sext 16 (natAt bs 12 2) - 40))
  else
    let v := f32 (s.f32At a)
    if v.isFinite then some v.exact else none

/-- A block under AGREED: its elements, the escapes formed, and the elements beyond 32 bits (R176). -/
def agreedBlock (exp : Nat) (xs : List BlockIn) : List (Option Int) × Nat × Nat :=
  let q := roundAll xs ((exp : Int) - 127)
  let bad := (q.filter outOf32).length
  let vals := q.map fun v => if outOf32 v then none else v
  (vals, (vals.filter isEscape).length, bad)

/-- A block padded to its slot of 280 bytes. -/
def padSlot (bs : List Byte) : List Byte := bs ++ List.replicate (280 - bs.length) 0

/-- The largest magnitude of finite inputs, rounded toward +∞ (R377). -/
def maxMag (old : Nat) (xs : List (Option Exact)) : Nat :=
  xs.foldl (fun m x => match x with
    | some v => max m (toF32Up ⟨v.n.natAbs, v.d, v.e⟩)
    | none => m) old

/-- Block b of a vec.qbw16: its slot, escapes, elements out of range, and inputs. An exponent byte that has become 0xFF since
issue poisons the block, by R46 (log entry 102). -/
def State.qbwBlock (s : State) (g : Course) (rows : Option Rows) (o : Qbw16Op) (b : Nat) :
    List Byte × Nat × Nat × List (Option Exact) :=
  let size := if o.partialSrc then 16 else 4
  let xs := (List.range 64).map fun i => (s.qSource o.partialSrc (o.src + (64 * b + i) * size), rndOf rows g (64 * b + i))
  if o.agreed then
    let e := (s.byte (o.xsrc + b)).toNat
    let (vals, esc, bad) := agreedBlock e (if e = 255 then xs.map fun x => (none, x.2) else xs)
    (padSlot (bwWrite (expOut e) o.kind (esc + bad) vals), esc, bad, xs.map (·.1))
  else
    let (e, vals) := blockChoose 16 xs
    (padSlot (bwWrite e o.kind 0 vals), 0, 0, [])

def State.runVecQbw16 (s : State) (g : Course) (serial : Nat) (rows : Option Rows) (o : Qbw16Op) : State :=
  let bs := (List.range o.nb).map (s.qbwBlock g rows o)
  let t := s.store o.dst (bs.flatMap (·.1))
  if o.agreed then
    let t := t.setReg (cr g 0x3008) (BitVec.ofNat 32 (maxMag (t.reg (cr g 0x3008)).toNat (bs.flatMap (·.2.2.2))))
    let t := t.countC g 0x3038 0x3028 (bs.map (·.2.1)).sum
    if bs.any fun b => b.2.2.1 != 0 then (t.instrFault g 3 serial 0x0B05 0x07 0x3 none).orReg (cr g 0x3004) 1 else t
  else t

/-! ### vec.qidx (R177 to R179) -/

/-- A BW16 source block: its elements, and whether its FLAGS break R63. -/
def State.qidxBlock (s : State) (a : Nat) : List (Option Exact) × Bool :=
  let bs := s.bytes a 280
  let bad := s.dirty a (bwLen bs)
  let w := bwRead bs
  let damaged := !bad && !bwFlagsOk w.flags
  (w.vals.map fun v => if bad || damaged || w.exp == 255 then none else v.map fun i => Exact.dy i ((w.exp : Int) - 127), damaged)

/-- The 128 elements of chunk x of channel n, and whether a source block of it is damaged. -/
def State.qidxChunk (s : State) (o : QidxOp) (n x : Nat) : List (Option Exact) × Bool :=
  let a := o.src + n * o.rstride
  if o.bw16 then
    let p := s.qidxBlock (a + 280 * (2 * x))
    let q := s.qidxBlock (a + 280 * (2 * x + 1))
    (p.1 ++ q.1, p.2 || q.2)
  else ((List.range 128).map fun i => s.qSource false (a + 4 * (128 * x + i)), false)

def Exact.abs (x : Exact) : Exact := ⟨x.n.natAbs, x.d, x.e⟩

/-- ceil(log2 x), for x not 0. -/
def Exact.clog2 (x : Exact) : Int :=
  let k := x.log2
  if x.abs.le (.dy 1 k) then k else k + 1

/-- The largest of some non-negative values; 0 of none. -/
def maxExact (xs : List Exact) : Exact := xs.foldl (fun m x => if m.lt x then x else m) (.dy 0 0)

/-- Their sum. -/
def sumExact (xs : List Exact) : Exact := xs.foldl Exact.add (.dy 0 0)

/-- The grid of R179: field f stands for 0, 1, 2, 4, …, 64. -/
def gridVal (f : Nat) : Nat := if f = 0 then 0 else 2 ^ (f - 1)

/-- The field of |y| (R179). -/
def l4Field (r : Rnd) (y : Exact) : Nat :=
  let f := ((List.range 8).filter fun k => (Exact.dy (gridVal k) 0).le y).length - 1
  let lo := gridVal f
  let hi := gridVal (f + 1)
  let diff := (y.add (.dy (-(lo : Int)) 0)).scaledBy 0
  if f = 7 then 7
  else match r with
    | .rne =>
      let t := 2 * diff.1 - (hi - lo : Nat) * (diff.2 : Int)
      if t < 0 then f else if 0 < t then f + 1 else if f % 2 = 0 then f else f + 1
    | .sr draw => if (diff.1 * 16777216 / ((hi - lo : Nat) * diff.2 : Int)).toNat > draw then f + 1 else f

/-- y clamped to [-1, 1]. -/
def clamp1 (y : Exact) : Exact := if (Exact.dy 1 0).lt y then .dy 1 0 else if y.lt (.dy (-1) 0) then .dy (-1) 0 else y

/-- The code of x at exponent e (R50 to R52, R178). -/
def idxCode (f : IdxFmt) (e : Int) (x : Exact) (r : Rnd) : Nat :=
  let y : Exact := ⟨x.n, x.d, x.e - e⟩
  match f with
  | .t2 => match y.round r 0 with
    | 0 => 0
    | .ofNat _ => 1
    | .negSucc _ => 3
  | .l4 =>
    let k := l4Field r y.abs
    if k = 0 then 0 else if y.n < 0 then 8 + k else k
  | _ => match r with
    | .rne => if 0 ≤ x.n then 1 else 0
    | .sr draw =>
      let z := ((Exact.dy 1 0).add (clamp1 y)).scaledBy (-23)
      if (z.1 / (z.2 : Int)).toNat > draw then 1 else 0

/-- The exponent of a chunk of T2, L4 or B1 (R178). -/
def idxExp (f : IdxFmt) (xs : List Exact) : Int :=
  let m := maxExact (xs.map Exact.abs)
  if m.n = 0 then -127
  else max (-127) (match f with
    | .t2 => m.clog2
    | .l4 => m.clog2 - 6
    | _ => (⟨(sumExact (xs.map Exact.abs)).n, (sumExact (xs.map Exact.abs)).d, (sumExact (xs.map Exact.abs)).e - 7⟩ : Exact).log2)

/-- A chunk: its scale field and 128 codes (R73, R177, R178). -/
def idxChunk (f : IdxFmt) (xs : List BlockIn) : Nat × List Nat :=
  let poisoned : Nat × List Nat := (255, List.replicate 128 0)
  if xs.any fun x => x.1.isNone then poisoned
  else match f with
    | .i2 =>
      let (e, q) := blockChoose 2 xs
      if q.any Option.isNone then poisoned else (e, q.map fun v => twos 2 (v.getD 0))
    | .i4 =>
      let (e, q) := blockChoose 4 xs
      if q.any Option.isNone then poisoned else (e, q.map fun v => twos 4 (v.getD 0))
    | f =>
      let e := idxExp f (xs.filterMap (·.1))
      if 127 < e then poisoned
      else ((e + 127).toNat, xs.map fun x => match x.1 with
        | some v => idxCode f e v x.2
        | none => 0)

/-- The 64-bit word of plane p of 64 codes (R54). -/
def planeWord (p : Nat) (codes : List Nat) : Nat := packBits 1 (codes.map fun c => c / 2 ^ p % 2)

/-- Channel n, chunk x of a vec.qidx: its plane words and scale byte are written. -/
def State.qidxWrite (s : State) (o : QidxOp) (n x : Nat) (r : Nat × List Nat) : State :=
  let planes := o.ifmt.planes
  let t := (List.range (2 * planes)).foldl (fun (t : State) i =>
    let p := i / 2
    let h := i % 2
    t.storeN (o.dst + ((n / 16 * planes + p) * (o.k / 64) + 2 * x + h) * 128 + 8 * (n % 16)) 8
      (planeWord p ((r.2.drop (64 * h)).take 64))) s
  t.storeN (o.sdst + (n / 16 * (o.k / 128) + x) * 16 + n % 16) 1 r.1

def State.runVecQidx (s : State) (g : Course) (serial : Nat) (rows : Option Rows) (o : QidxOp) : State :=
  let chunks := (List.range o.n).flatMap fun n => (List.range (o.k / 128)).map fun x =>
    let src := s.qidxChunk o n x
    (n, x, idxChunk o.ifmt (src.1.zipIdx.map fun v => (v.1, rndOf rows g (n * o.k + 128 * x + v.2))), src.2)
  let t := chunks.foldl (fun (t : State) c => t.qidxWrite o c.1 c.2.1 c.2.2.1) s
  let t := (t.cleanLines o.dst (o.n / 16 * o.ifmt.planes * (o.k / 64) * 128)).cleanLines o.sdst (o.n / 16 * (o.k / 128) * 16)
  if chunks.any fun c => c.2.2.2 then t.instrFault g 3 serial 0x040D 0x07 0x3 none else t

/-! ### Execution -/

/-- A vec.* executes to its end. -/
def State.runVec (s : State) (g : Course) (e : QEntry) : State :=
  let t := match e.op with
    | .vecEl f d a b c n => s.runVecEl f d a b c n
    | .vecCvt d a f _ nsat n => s.runVecCvt g e.rows d a f nsat n
    | .vecPadd o => s.runVecPadd g e.serial e.rows o
    | .vecSum d src n rows rs sq => s.runVecSum g d src n rows rs sq
    | .vecFn d src fn n => s.runVecFn g d src fn n
    | .vecQbw16 o => s.runVecQbw16 g e.serial e.rows o
    | .vecQidx o => s.runVecQidx g e.serial e.rows o
    | _ => s
  t.instrDone g 3 e.serial

/-! ### The commands -/

def execVecAdd (g : Course) (w : BitVec 56) (s : State) : Out :=
  .next (s.issueEngine g w 3 [(29, 26), (20, 0)] false 0x0401 (issueVecEl g w .add))
def execVecMul (g : Course) (w : BitVec 56) (s : State) : Out :=
  .next (s.issueEngine g w 3 [(29, 26), (20, 0)] false 0x0401 (issueVecEl g w .mul))
def execVecFma (g : Course) (w : BitVec 56) (s : State) : Out :=
  .next (s.issueEngine g w 3 [(20, 0)] false 0x0401 (issueVecEl g w .fma))
def execVecMax (g : Course) (w : BitVec 56) (s : State) : Out :=
  .next (s.issueEngine g w 3 [(29, 26), (20, 0)] false 0x0401 (issueVecEl g w .max))
def execVecMin (g : Course) (w : BitVec 56) (s : State) : Out :=
  .next (s.issueEngine g w 3 [(29, 26), (20, 0)] false 0x0401 (issueVecEl g w .min))
def execVecCvt (g : Course) (w : BitVec 56) (s : State) : Out :=
  .next (s.issueEngine g w 3 [(27, 26), (15, 0)] false 0x0401 (issueVecCvt g w))
def execVecPadd (g : Course) (w : BitVec 56) (s : State) : Out := .next (s.issueEngine g w 3 [(1, 0)] false 0x0401 (issueVecPadd g w))
def execVecSum (g : Course) (w : BitVec 56) (s : State) : Out := .next (s.issueEngine g w 3 [(22, 0)] false 0x0401 (issueVecSum g w))
def execVecFn (g : Course) (w : BitVec 56) (s : State) : Out := .next (s.issueEngine g w 3 [(24, 0)] false 0x0401 (issueVecFn g w))
def execVecQbw16 (g : Course) (w : BitVec 56) (s : State) : Out :=
  .next (s.issueEngine g w 3 [(13, 0)] false 0x0401 (issueVecQbw16 g w))
def execVecQidx (g : Course) (w : BitVec 56) (s : State) : Out := .next (s.issueEngine g w 3 [(8, 0)] false 0x0401 (issueVecQidx g w))

end Sys2Proof.Machine
end

