-- ==== Sys2Proof/Machine/Fwu.lean ====
section
/-! DEFINITION. Fwu: the fine-work units (R186 to R191, R219, R514). -/

namespace Sys2Proof.Machine

/-! ### Arithmetic (R188) -/

/-- A subnormal is read, and written, as zero of the same sign. -/
def ftz32 (x : Nat) : Nat := if x / 2 ^ 23 % 256 = 0 then x / 2 ^ 31 * 2 ^ 31 else x

def fwMul (a b : Nat) : Nat := ftz32 (mul32 (ftz32 a) (ftz32 b))
def fwAdd (a b : Nat) : Nat := ftz32 (add32 (ftz32 a) (ftz32 b))

/-- Neighbouring pairs are added. -/
def pairSums : List Nat → List Nat
  | a :: b :: r => fwAdd a b :: pairSums r
  | l => l

/-- The pairwise tree of at most 2^n terms. -/
def fwTree : Nat → List Nat → Nat
  | 0, l => l.headD 0
  | n + 1, l => fwTree n (pairSums l)

/-- Chunks of 32 products are summed by the tree, and each is added to the accumulator; at most `fuel` chunks. -/
def fwDot : Nat → Nat → List Nat → Nat
  | 0, acc, _ => acc
  | fuel + 1, acc, ps => if ps.isEmpty then acc else fwDot fuel (fwAdd acc (fwTree 5 (ps.take 32))) (ps.drop 32)

/-! ### Operands (R187, R219) -/

/-- Every row of a matrix lies in a slice of the die (R187). -/
def rowsInDie (d a rows ld bytes : Nat) : Bool := (List.range rows).all fun i => inDieSlice d (a + i * ld) bytes

/-- A 16-bit field of a scalar operand. -/
def half16 (v i : Nat) : Nat := v / 65536 ^ i % 65536

/-- The operands of an fwu.mm word: dimensions and strides in units of 16 (R219). -/
def CourseState.mmOf (c : CourseState) (w : BitVec 56) : MmOp :=
  let x := c.sFld w 19
  let l := c.sFld w 14
  ⟨w.getLsbD 41, w.getLsbD 40, 16 * half16 x 0, 16 * half16 x 1, 16 * half16 x 2, c.aFld w 36, 16 * half16 l 0, c.aFld w 32,
    16 * half16 l 1, c.aFld w 28, 16 * half16 l 2, c.aFld w 24, 16 * half16 l 3⟩

/-- The dimensions are valid. -/
def CourseState.mmDims (c : CourseState) (w : BitVec 56) : Bool :=
  let x := c.sFld w 19
  ([0, 1, 2].all fun i => decide (1 ≤ half16 x i) && decide (half16 x i ≤ 4096)) && half16 x 3 == 0

/-- The physical address of a matrix of the die's slices; an address of 0 with `none0` stands for no matrix (R187). -/
def State.mmAddr (s : State) (d a rows ld bytes : Nat) (none0 : Bool) : Option Nat :=
  if none0 && a == 0 then some 0
  else match s.physOf d a with
    | some p => if rowsInDie d p rows ld bytes then some p else none
    | none => none

/-- The matrices A, B, C and D of an fwu.mm: the operand address, and the physical one where it is valid. -/
def State.mmAddrs (s : State) (d : Nat) (o : MmOp) : List (Nat × Option Nat) :=
  let insz := if o.fp32In then 4 else 2
  [(o.a, s.mmAddr d o.a o.m o.lda (insz * o.k) false), (o.b, s.mmAddr d o.b o.k o.ldb (insz * o.n) false),
    (o.c, s.mmAddr d o.c o.m o.ldc (4 * o.n) true),
    (o.d, s.mmAddr d o.d o.m o.ldd ((if o.bf16Out then 2 else 4) * o.n) false)]

/-- fwu.mm at issue. FWU_ADDRESS gives the first operand address that fails (R187, R237; log entry 103). -/
def issueFwuMm (g : Course) (w : BitVec 56) (t : State) : Act :=
  let c := t.course g
  let o := c.mmOf w
  let l := t.mmAddrs (g.val / 8) o
  if !c.mmDims w then .fault 0x040A none
  else match l.map (·.2) with
    | [some a, some b, some x, some d] => t.submit g w 4 (.fwuMm { o with a := a, b := b, c := x, d := d }) none
    | _ => .fault 0x040B ((l.find? fun x => x.2.isNone).map fun x => BitVec.ofNat 64 x.1)

/-! ### The product -/

/-- An element of a matrix as FP32. What a poisoned line reads as is not stated: a free value for each address (log
entry 1). -/
def State.fwRead (s : State) (fp32 : Bool) (a : Nat) : Nat :=
  let n := if fp32 then 4 else 2
  let v := if s.dirty a n then (Config.freeValue (s.freeCtr + a)).toNat % 256 ^ n else s.rdN a n
  if fp32 then v else v * 65536

def State.fwElem (s : State) (o : MmOp) (i j : Nat) : Nat :=
  let insz := if o.fp32In then 4 else 2
  let ps := (List.range o.k).map fun k =>
    fwMul (s.fwRead o.fp32In (o.a + i * o.lda + insz * k)) (s.fwRead o.fp32In (o.b + k * o.ldb + insz * j))
  fwDot o.k (if o.c = 0 then 0 else ftz32 (s.fwRead true (o.c + i * o.ldc + 4 * j))) ps

/-- An accumulator as D holds it. -/
def fwOut (bf16Out : Bool) (v : Nat) : List Byte :=
  if bf16Out then leBytes 2 (match f32 v with
    | .nan => bf16.nanBits
    | .inf neg => signBit bf16 neg + 0x7F80
    | x => fpWrite bf16 .rne false x.neg? x.exact)
  else leBytes 4 v

/-- Output tiles of 256 × 128, and those beside one another (R191). -/
def MmOp.across (o : MmOp) : Nat := (o.n + 127) / 128
def MmOp.tiles (o : MmOp) : Nat := (o.m + 255) / 256 * o.across

/-- The rows and the columns of tile k. -/
def MmOp.tileRows (o : MmOp) (k : Nat) : Nat × Nat := (256 * (k / o.across), min 256 (o.m - 256 * (k / o.across)))
def MmOp.tileCols (o : MmOp) (k : Nat) : Nat × Nat := (128 * (k % o.across), min 128 (o.n - 128 * (k % o.across)))

/-- Tile k of D := A × B + C is computed from what memory holds then, and written (R188, R191; log entry 104). -/
def State.runTile (s : State) (o : MmOp) (k : Nat) : State :=
  let r := o.tileRows k
  let c := o.tileCols k
  let rows := (List.range r.2).map fun i => (List.range c.2).flatMap fun j => fwOut o.bf16Out (s.fwElem o (r.1 + i) (c.1 + j))
  rows.zipIdx.foldl (fun (t : State) x =>
    t.store (o.d + (r.1 + x.2) * o.ldd + (if o.bf16Out then 2 else 4) * c.1) x.1) s

/-! ### The holding (R186, R514) -/

/-- The row partner die (R514). -/
def rowPartner (d : CDie) : CDie := if d.val % 2 = 0 then ⟨(d.val + 1) % 4, by omega⟩ else ⟨d.val - 1, by omega⟩

/-- The unit that serves a die, if one does: its own, or the row partner's (R514). That holds in partitioned mode too, where
the partner belongs to another partition: R514 makes no exception, and R42 does not name the unit (log entry 77). -/
def State.unitOf (s : State) (d : CDie) : Option CDie :=
  if (s.cdie d).fwuOk then some d else if (s.cdie (rowPartner d)).fwuOk then some (rowPartner d) else none

/-- BAR0 base of a fine-work block. -/
def fwuBase (d : CDie) : Nat := (Blk.fwu d).base

/-- An fwu.mm that no unit serves completes with its tally poisoned (R514). -/
def State.fwuDead (s : State) (g : Course) (serial : Nat) : State :=
  ((s.instrPoison g 4 serial 0x0F0D).instrDone g 4 serial).raiseRel (courseDie g) 0x0F0D 0 none

/-- Instructions that wait in a unit's holding: those held, and the one taken that has no grant yet. -/
def CDieState.fwuWaiting (x : CDieState) : Nat :=
  x.fwuHeld.length + (if x.fwuRun.any fun f => f.granted.isNone then 1 else 0)

/-- A holding with one more instruction, in arrival order (R186, R514). -/
def holdIn (f : FwuEntry) : List FwuEntry → List FwuEntry
  | [] => [f]
  | x :: xs => if f.arr < x.arr then f :: x :: xs else x :: holdIn f xs

/-- What the holding of a unit out of service still has moves to its partner's unit while that has space (R186, R514;
log entry 104). -/
def State.fwuRefill (s : State) (u : CDie) : State :=
  ((s.cdie (rowPartner u)).fwuHeld).foldl (fun (t : State) f =>
    if !(t.cdie (rowPartner u)).fwuOk && (t.cdie u).fwuOk && decide ((t.cdie u).fwuWaiting < 16) then
      (t.modCDie (rowPartner u) fun x => { x with fwuHeld := x.fwuHeld.tail }).modCDie u fun x =>
        { x with fwuHeld := holdIn f x.fwuHeld }
    else t) s

/-- The head of a course's FWU queue is delivered into the unit's holding while it has space (R186, R212). -/
def fwuAccept (g : Course) (s : State) : State :=
  let c := s.course g
  let y := c.queue 4
  match y.halt, y.entries with
  | .no, e :: rest =>
    match e.op with
    | .fwuMm _ =>
      let start (t : State) : State := t.modCourse g fun c => c.modQueue 4 fun y => { y with
        entries := rest, started := y.started ++ [⟨e, 0, .none, false, 0, false, false, false, 0, false, false, false, false⟩] }
      match s.unitOf (courseCDie g) with
      | none => (start s).fwuDead g e.serial
      | some u =>
        if s.dieRuns (cdieDie u) && decide ((s.cdie u).fwuWaiting < 16) then
          ((start s).modCDie u fun x => { x with fwuHeld := x.fwuHeld ++ [⟨g, e.serial, s.stamp, 0, 0, 0, none⟩] }).tick
        else s
    | _ => s
  | _, _ => s

/-- An fwu.mm about to run is discarded with POWER_NEED (R474): P of its tally is set as for a discarded entry. -/
def State.fwuDiscard (s : State) (g : Course) (i : Started) : State :=
  let t := s.raiseWith (courseDie g)
    { plainReport 0x0E02 0x0D 0 0xF with
      tallyPoisoned := i.e.te, pcValid := true, epochValid := true, epoch := (s.reg (cr g 0x1C)).setWidth 16, pc := i.e.pc } none
  let t := t.efirst g 0x0E02 4 i.e.pc
  (t.modCourse g fun c => (c.modQueue 4 fun y => { y with started := y.started.filter fun j => j.e.serial != i.e.serial }).discardTallies
    (if i.orphan then [] else [i.e])).settle g

/-- The same for one of a holding: what it was granted comes back at its completion (R236). -/
def State.fwuEnd (s : State) (f : FwuEntry) : State :=
  (match f.granted with
    | some (n, src) => s.modCourse f.g fun c => c.modStarted 4 f.serial fun i => { i with credits := n, src := src }
    | none => s).fwuDead f.g f.serial

/-- A fine-work unit leaves service, and its work moves to the partner's unit, or ends poisoned with what waits for that unit
(R514). An instruction that the partner's unit had taken, without leave yet, takes its place in the order of arrival again. -/
def State.fwuLost (s : State) (u : CDie) : State :=
  let p := rowPartner u
  let moved := (s.cdie u).fwuRun.toList ++ (s.cdie u).fwuHeld
  let t := (s.failed ⟨u.val, 0x09, 0, 0, 0⟩).raiseRel (cdieDie u) 0x0F0D 0 none
  let t := t.modCDie u fun x => { x with fwuOk := false, fwuRun := none, fwuHeld := moved }
  if (t.cdie p).fwuOk then
    (t.modCDie p fun x => match x.fwuRun with
      | some f => if f.granted.isNone then { x with fwuRun := none, fwuHeld := holdIn f x.fwuHeld } else x
      | none => x).fwuRefill p
  else
    (moved ++ (t.cdie p).fwuHeld).foldl (fun (t : State) f => t.fwuEnd f)
      ((t.modCDie u fun x => { x with fwuHeld := [] }).modCDie p fun x => { x with fwuHeld := [] })

/-- Failed checks of one tile (R191): each is reported, and the tile is computed again. -/
def State.fwuChecks (s : State) (u : CDie) (fails : Nat) : State :=
  (List.range fails).foldl (fun (t : State) _ =>
    (t.raiseWith (cdieDie u) (plainReport 0x040C 0x09 0 0xF) none).count (fwuBase u) 0x18 0x10 1) s

/-- The tiles that are left, from tile k on, each with its failed checks: a tile is written once its checks pass; the third
failure in succession takes the unit out of service at that tile (R191, R514). -/
def State.fwuTiles (u : CDie) (f : FwuEntry) (o : MmOp) : Nat → Nat → List (Fin 4) → State → State
  | 0, _, _, s => (s.modCDie u fun x => { x with fwuRun := none }).instrDone f.g 4 f.serial
  | n + 1, k, fails, s =>
    let t := s.fwuChecks u (fails.headD 0).val
    if fails.headD 0 = 3 then (t.modCDie u fun x => { x with fwuRun := some { f with tile := k } }).fwuLost u
    else State.fwuTiles u f o n (k + 1) fails.tail
      ((t.runTile o k).count (fwuBase u) 0x18 0x8 ((o.tileRows k).2 * (o.tileCols k).2 * o.k))

/-- Give the entry its credits and run it. -/
def State.fwuRunNow (s : State) (u : CDie) (f : FwuEntry) (o : MmOp) (n : Nat) (src : CreditSrc) (fails : List (Fin 4)) : State :=
  let t := s.modCourse f.g fun c => c.modStarted 4 f.serial fun i => { i with credits := n, src := src }
  let t := State.fwuTiles u { f with granted := some (n, src) } o (o.tiles - f.tile) f.tile fails t
  { t with freeCtr := t.freeCtr + 2 ^ 48 }

/-- The request is presented, or the need exceeds C_d (R474, R476). -/
def State.fwuPresent (s : State) (u : CDie) (f : FwuEntry) (i : Started) : State :=
  if s.dieCredits (courseCDie f.g) < 20 then (s.modCDie u fun x => { x with fwuRun := none }).fwuDiscard f.g i
  else if f.stamp = 0 then (s.modCDie u fun x => { x with fwuRun := some { f with stamp := s.stamp + 1, phases := 0 } }).tick.tick
  else s

/-- The next held fwu.mm obtains its leave and runs (R188, R235, R474, R476). -/
def State.fwuTry (s : State) (u : CDie) (f : FwuEntry) (fails : List (Fin 4)) : State :=
  match (s.course f.g).findStarted 4 f.serial with
  | none => s.modCDie u fun x => { x with fwuRun := none }
  | some i => match i.e.op with
    | .fwuMm o =>
      match f.granted with
      | some (n, src) => s.fwuRunNow u f o n src fails
      | none =>
        match (s.course f.g).hold with
        | some h =>
          if 20 ≤ h.free then
            (s.modCourse f.g fun c => { c with hold := some { h with free := h.free - 20 } }).fwuRunNow u f o 20 (.hold h.id) fails
          else s.fwuPresent u f i
        | none => s.fwuPresent u f i
    | _ => s

/-- The unit of die u goes on: it takes the next instruction of its holding when it runs none. `fails` counts, for each tile
from the next on, the checks that fail in succession. -/
def fwuMmRun (u : CDie) (fails : List (Fin 4)) (s : State) : State :=
  if !(s.cdie u).fwuOk then s
  else match (s.cdie u).fwuRun with
    | some f => (s.fwuTry u f fails).fwuRefill u
    | none => match (s.cdie u).fwuHeld with
      | f :: rest => ((s.modCDie u fun x => { x with fwuHeld := rest, fwuRun := some f }).fwuTry u f fails).fwuRefill u
      | [] => s

/-- Started instructions of a queue that have done their work and not completed, which may still have been executing at a given
moment: the model gives no cycles (log entry 7). -/
def CourseState.executed (c : CourseState) (q : QueueId) : Bool := (c.queue q).started.any fun i => i.done

/-- FWU_STATUS (R195): BUSY is open while an fwu.mm of a course the unit serves has run and not completed. -/
def State.fwuStatus (s : State) (u : CDie) : Nat :=
  let x := s.cdie u
  let ran := (List.finRange 32).any fun g =>
    decide (s.unitOf (courseCDie g) = some u) && (s.course g).executed 4
  let busy := (x.fwuRun.any fun f => f.granted.isSome) || ran
  (if busy then (s.fresh.toNat % 2) else 0) + 2 * min 16 x.fwuWaiting + (if x.fwuOk then 64 else 0)

def execFwuMm (g : Course) (w : BitVec 56) (s : State) : Out := .next (s.issueEngine g w 4 [(13, 0)] false 0x040A (issueFwuMm g w))
def execFwuMmRun (d : CDie) (fails : List (Fin 4)) (s : State) : Out :=
  .next (s.ifDie (cdieDie d) (fwuMmRun d fails))

end Sys2Proof.Machine
end

