-- ==== Sys2Proof/Machine/Streams.lean ====
section
/-! DEFINITION. Streams: the stream engine of a course (chapter 8): descriptors, walker programs, rings, translation,
transfers, halts, and the str.* and walk.load instructions. -/

namespace Sys2Proof.Machine

/-! ### Parts -/

def Walker.start (base noff : Nat) : Walker := ⟨0, [base, noff, 0, 0, 0, 0, 0, 0], [0, 0, 0, 0], false⟩

/-- A FREE stream (R259). -/
def Stream.free : Stream :=
  { st := .free, persist := false, desc := none, base := 0, shadow := none, prog := [], walker := Walker.start 0 0
    emit := none, formed := 0, prevBytes := 0, passDone := 0, nearPos := 0, farPos := 0, nearAvail := 0, farAvail := 0
    early := [], inflight := [], cause := .none, stallReported := false, rearmStalls := 0, rearmWait := false }

def CourseState.stream (c : CourseState) (n : Nat) : Stream := SMap.get c.str.streams n Stream.free
def CourseState.setStream (c : CourseState) (n : Nat) (x : Stream) : CourseState :=
  { c with str := { c.str with streams := SMap.put c.str.streams n x Stream.free } }
def State.modStream (s : State) (g : Course) (n : Nat) (f : Stream → Stream) : State :=
  s.modCourse g fun c => c.setStream n (f (c.stream n))

/-- A global course number as a course. -/
def courseAt (k : Nat) : Course := ⟨k % 32, by omega⟩
def streamAt (n : Nat) : StreamId := ⟨n % 2048, by omega⟩

def StrKind.isFeed : StrKind → Bool
  | .feedIdx => true
  | .feedTbl => true
  | _ => false

/-- A report of the stream engine that is not precise (R583). -/
def State.raiseStr (s : State) (g : Course) (code : BitVec 16) (info : Option DWord) : State :=
  s.raiseCourse g code 0x06 0xF info

/-! ### Descriptors (R248 to R251) -/

def kindOf : Nat → StrKind
  | 0 => .load
  | 1 => .store
  | 2 => .feedIdx
  | _ => .feedTbl

/-- The descriptor of 64 bytes, where its fields hold valid values and its reserved fields 0 (R248, R249). -/
def Desc.of (bs : List Byte) : Option Desc :=
  let b (i : Nat) : Nat := natAt bs i 1
  let kind := kindOf (b 6 % 8)
  let fmt := b 6 / 64
  let nring := b 7 / 4 % 2 == 1
  let fring := b 7 / 8 % 2 == 1
  let size (on : Bool) (v : Nat) : Bool := if on then decide (12 ≤ v) && decide (v ≤ 24) else decide (v = 0)
  let pen := b 19 / 2 % 2 == 1
  let ok := decide (b 6 % 8 < 4) && decide (fmt < 2) && (decide (fmt = 0) || kind.isFeed) &&
    (!kind.isFeed || decide (natAt bs 0 6 = 0)) && decide (b 7 < 16) && decide (natAt bs 8 4 < 2 ^ 25) &&
    size nring (b 12) && size fring (b 13) && decide (b 19 < 4) && decide (b 23 = 0) && decide (b 39 = 0) &&
    decide (natAt bs 56 8 = 0) && (!pen || size true (b 21))
  if ok then
    some { faddr := natAt bs 0 6, kind := kind, esize := b 6 / 8 % 8, bamong := fmt == 1, phys := b 7 % 2 == 1
           walk := b 7 / 2 % 2 == 1, nring := nring, fring := fring, noff := natAt bs 8 4, nrsize := b 12, frsize := b 13
           nlink := BitVec.ofNat 16 (natAt bs 14 2), flink := BitVec.ofNat 16 (natAt bs 16 2), etally := tallyNum (b 18)
           een := b 19 % 2 == 1, pen := pen, ptally := tallyNum (b 20), pshift := b 21, freeze := BitVec.ofNat 8 (b 22)
           counts := (List.range 5).map fun d => natAt bs (24 + 3 * d) 3 + 1
           strides := (List.range 4).map fun d => sext 32 (natAt bs (40 + 4 * d) 4) }
  else none

/-- Elements, and bytes, of a descriptor. -/
def Desc.elems (d : Desc) : Nat := d.counts.prod
def Desc.bytes (d : Desc) : Nat := 2 ^ d.esize * d.elems

/-- The course and stream of a link. -/
def linkCourse (l : BitVec 16) : Nat := l.toNat / 2048
def linkStream (l : BitVec 16) : Nat := l.toNat % 2048

/-- The checks of R250 that need more than one field. -/
def State.descOk (s : State) (g : Course) (d : Desc) : Bool :=
  let z := 2 ^ d.esize
  let mine (on : Bool) (l : BitVec 16) : Bool := !on || !s.parted || decide (linkCourse l / 8 = g.val / 8)
  decide (d.faddr % z = 0) && d.strides.all (fun x => decide (x % (z : Int) = 0)) && decide (d.bytes ≤ 2 ^ 40) &&
    (!d.kind.isFeed || (d.strides.all (fun x => decide (x = 0)) && !d.fring && decide (d.faddr = 0))) &&
    (if d.nring then decide (d.noff % 2 ^ d.nrsize = 0) && decide (d.noff + 2 ^ d.nrsize ≤ sliceSize)
     else decide (d.noff + d.bytes ≤ sliceSize)) &&
    mine d.nring d.nlink && mine d.fring d.flink

/-- Indices of element k, innermost first. -/
def indices : List Nat → Nat → List Nat
  | [], _ => []
  | c :: cs, k => k % c :: indices cs (k / c)

/-- Far address of element k (R251). -/
def Desc.addr (d : Desc) (k : Nat) : Nat :=
  let i := indices d.counts k
  let far : Int := (d.faddr : Int) + ((i.headD 0 * 2 ^ d.esize : Nat) : Int) +
    (List.zipWith (fun (x : Nat) (y : Int) => (x : Int) * y) i.tail d.strides).sum
  (far % (2 ^ 48 : Int)).toNat

/-- Elements from element k on, at most n, whose far addresses follow one another (R252). -/
def Desc.run (d : Desc) : Nat → Nat → Nat
  | 0, _ => 0
  | 1, _ => 1
  | n + 2, k => if d.addr (k + 1) = d.addr k + 2 ^ d.esize then 1 + d.run (n + 1) (k + 1) else 1

/-! ### Rings (R253) -/

/-- The producer of the ring at an end: a LOAD fills the near ring, a STORE the far ring. -/
def Desc.produces (d : Desc) (near : Bool) : Bool :=
  match d.kind with
  | .load => near
  | .store => !near
  | _ => false

/-- Credit at reset of a ring: a producer has the ring's space, a consumer no bytes. -/
def Desc.credit0 (d : Desc) (near : Bool) : Nat :=
  if d.produces near then 2 ^ (if near then d.nrsize else d.frsize) else 0

/-- Send credit for `len` bytes to the partner named by a link. -/
def State.sendCredit (s : State) (g : Course) (n : Nat) (l : BitVec 16) (len : Nat) : State :=
  s.send (.course g) (.course (courseAt (linkCourse l))) (.ringCredit (streamAt (linkStream l)) (streamAt n) len)

/-- Number of a stream among all streams of the package. -/
def pairOf (g n : Nat) : Nat := 2048 * g + n

/-- Credit that a stream receives from stream `frm` of course `src`: for its near ring where that names the sender, else
for its far ring; kept while its descriptor names the sender nowhere (log entry 18). -/
def Stream.credited (x : Stream) (src frm len : Nat) : Stream :=
  let l := BitVec.ofNat 16 (pairOf src frm)
  match x.desc with
  | some d =>
    if d.nring && d.nlink == l then { x with nearAvail := x.nearAvail + len }
    else if d.fring && d.flink == l then { x with farAvail := x.farAvail + len }
    else { x with early := x.early ++ [(pairOf src frm, len)] }
  | none => { x with early := x.early ++ [(pairOf src frm, len)] }

/-- The next transfer of a LOAD or STORE (R251, R252): its far address before translation, its near address, and its
length, 0 while the stream waits on credit. -/
def Stream.next (x : Stream) (g : Course) : Option (Nat × Nat × Nat) :=
  match x.emit with
  | none => none
  | some d =>
    if x.formed < d.bytes then
      let z := 2 ^ d.esize
      let k := x.formed / z
      let far := if d.fring then d.faddr / 2 ^ d.frsize * 2 ^ d.frsize + (d.faddr + x.farPos) % 2 ^ d.frsize else d.addr k
      let near := windowBase g + d.noff + (if d.nring then x.nearPos % 2 ^ d.nrsize else x.formed)
      let lim := min (d.bytes - x.formed) (8192 - far % 8192)
      let lim := if d.nring then min lim (min (2 ^ d.nrsize - x.nearPos % 2 ^ d.nrsize) x.nearAvail) else lim
      let lim := if d.fring then min lim (min (2 ^ d.frsize - far % 2 ^ d.frsize) x.farAvail) else lim
      some (far, near, if d.fring then lim / z * z else z * d.run (lim / z) k)
    else none

/-- The stream is waiting on credit (R253): its next transfer lacks space or data. -/
def Stream.creditWait (x : Stream) : Bool :=
  decide (x.st = .active) && match x.emit with
    | some d => decide (x.formed < d.bytes) &&
        ((d.nring && decide (x.nearAvail < 2 ^ d.esize)) || (d.fring && decide (x.farAvail < 2 ^ d.esize)))
    | none => false

/-- The credit owner of a waiting stream (R253), as (global course, stream). -/
def Stream.owner (x : Stream) : Option (Nat × Nat) :=
  match x.emit with
  | some d =>
    if x.creditWait then
      if d.nring && decide (x.nearAvail < 2 ^ d.esize) then some (linkCourse d.nlink, linkStream d.nlink)
      else some (linkCourse d.flink, linkStream d.flink)
    else none
  | none => none

/-! ### Walker programs (R256 to R258) -/

def wop (i : DWord) : Nat := i.toNat / 2 ^ 60
def wfld (i : DWord) (hi lo : Nat) : Nat := i.toNat / 2 ^ lo % 2 ^ (hi - lo + 1)

/-- Instruction number k of a program is one that walk.load accepts (R256, R258; the range of CSET, log entry 19). -/
def walkerOk (k : Nat) (i : DWord) : Bool :=
  let wd := wfld i 59 57 == 0
  let wa := wfld i 56 54 == 0
  let wb := wfld i 53 51 == 0
  let c := wfld i 50 49 == 0
  let imm := wfld i 47 0
  !i.getLsbD 48 && match wop i with
    | 0 => wd && wa && wb && c && imm == 0
    | 1 => wa && wb && c
    | 2 => wb && c
    | 3 => c && imm == 0
    | 4 => wd && wa && wb && decide (1 ≤ imm) && decide (imm < 2 ^ 32)
    | 5 => wd && wa && wb && decide (imm < k)
    | 6 => wd && c
    | _ => false

/-- Run the walker for at most `n` instructions: to an EMIT, which it gives and stays at, or to the end. -/
def walkRun (prog : List DWord) (t : Desc) : Nat → Walker → Walker × Option Desc
  | 0, w => (w, none)
  | n + 1, w =>
    match prog[w.pcw]? with
    | none => ({ w with ended := true }, none)
    | some i =>
      let d := wfld i 59 57
      let a := w.w.getD (wfld i 56 54) 0
      let b := w.w.getD (wfld i 53 51) 0
      let c := wfld i 50 49
      let imm := wfld i 47 0
      let put (v : Nat) : Walker := { w with pcw := w.pcw + 1, w := w.w.set d (v % 2 ^ 48) }
      match wop i with
      | 1 => walkRun prog t n (put imm)
      | 2 => walkRun prog t n (put (a + imm))
      | 3 => walkRun prog t n (put (a + b))
      | 4 => walkRun prog t n { w with pcw := w.pcw + 1, c := w.c.set c (imm % 2 ^ 32) }
      | 5 =>
        let v := (w.c.getD c 0 + 2 ^ 32 - 1) % 2 ^ 32
        walkRun prog t n { w with pcw := if v = 0 then w.pcw + 1 else imm, c := w.c.set c v }
      | 6 => (w, some { t with
          faddr := a, noff := if t.nring then t.noff else b % 2 ^ 25
          counts := if imm / 2 ^ 24 % 2 = 1 then t.counts.set 4 (imm % 2 ^ 24 + 1) else t.counts })
      | _ => ({ w with ended := true }, none)

/-! ### Translation (R270, R271) -/

/-- The page of an address: 1 GiB or 2 MiB. -/
def pageOf (giant : Bool) (va : Nat) : Nat := va / (if giant then 2 ^ 30 else 2 ^ 21)

def TlbEntry.holds (e : TlbEntry) (va : Nat) : Bool := e.page == pageOf e.giant va

/-- Put a leaf entry in the TLB; of a full TLB an entry of the device's choosing goes. -/
def State.fillTlb (s : State) (g : Course) (e : TlbEntry) : State :=
  if (s.course g).str.tlb.length < 512 then
    s.modCourse g fun c => { c with str := { c.str with tlb := c.str.tlb ++ [e] } }
  else
    let i := s.fresh.toNat % 512
    s.used.modCourse g fun c => { c with str := { c.str with tlb := c.str.tlb.set i e } }

/-- A table entry at an address of the die's map: its bits, or MALFORMED where it cannot be read (R270, R272). -/
def State.tableEntry (s : State) (g : Course) (a : Nat) : Except HaltCause Nat :=
  match s.physOf (g.val / 8) a with
  | none => .error .malformed
  | some p => if s.nearOk p 8 && !s.dirty p 8 then .ok (s.rdN p 8) else .error .malformed

/-- Reserved bits of an entry that are not 0. -/
def entryBad (e : Nat) : Bool := e / 2 ^ 48 != 0 || e / 16 % 256 != 0

/-- The leaf entry for an address, read from the course's table (R270). -/
def State.walkTable (s : State) (g : Course) (va : Nat) : Except HaltCause TlbEntry := do
  let base := (s.reg64 (cr g 0x2010)).toNat / 2 ^ 21 * 2 ^ 21
  let leaf (e : Nat) (giant : Bool) : Except HaltCause TlbEntry :=
    let a := e / 4096 % 2 ^ 36 * 4096
    if a % (if giant then 2 ^ 30 else 2 ^ 21) = 0 then
      .ok ⟨pageOf giant va, giant, a, e / 4 % 2 == 1, e / 8 % 2 == 1⟩
    else .error .malformed
  let e ← s.tableEntry g (base + 8 * (va / 2 ^ 30))
  if e % 2 = 0 then .error .notPresent
  else if entryBad e then .error .malformed
  else if e / 2 % 2 = 1 then leaf e true
  else
    let f ← s.tableEntry g (e / 4096 % 2 ^ 36 * 4096 + 8 * (va / 2 ^ 21 % 512))
    if f % 2 = 0 then .error .notPresent
    else if entryBad f || f / 2 % 2 == 0 then .error .malformed
    else leaf f false

/-- The address of the die's map that a virtual address has (R270): from the TLB, or from the table, which is counted. -/
def State.translate (s : State) (g : Course) (write : Bool) (va : Nat) : State × Except HaltCause Nat :=
  let use (t : State) (e : TlbEntry) : State × Except HaltCause Nat :=
    if (if write then e.w else e.r) then (t, .ok (e.base + va % (if e.giant then 2 ^ 30 else 2 ^ 21)))
    else (t, .error .permission)
  if !(s.reg64 (cr g 0x2010)).getLsbD 0 then (s, .error .noTable)
  else match (s.course g).str.tlb.find? fun e => e.holds va with
    | some e => use s e
    | none =>
      let t := s.countC g 0x2090 0x2088 1
      match s.walkTable g va with
      | .ok e => use (t.fillTlb g e) e
      | .error x => (t, .error x)

/-- The unit that an address reaches takes accesses of streams, and the bytes are backed (R29, R33, R35, R36). -/
def State.reach (s : State) (a n : Nat) : Bool :=
  match regionOf a with
  | .near _ => s.nearOk a n
  | .far _ => s.farOk a n
  | .sram _ => sramOk a n
  | .host => hostOk a n
  | _ => false

/-- The device physical address of a transfer's far end, or why the stream halts (R272). -/
def State.resolve (s : State) (g : Course) (d : Desc) (far len : Nat) : State × Except HaltCause Nat :=
  let r := if d.phys then (s, .ok far) else s.translate g (decide (d.kind = .store)) far
  match r.2 with
  | .error x => (r.1, .error x)
  | .ok a => match s.physOf (g.val / 8) a with
    | some p => (r.1, if s.reach p len then .ok p else .error .address)
    | none => (r.1, .error .address)

/-! ### Data and its poison (R255) -/

/-- Read backed memory or a slice, each byte with the poison of its line. -/
def State.readMarked (s : State) (a n : Nat) : List (Byte × Bool) × State :=
  (List.range ((a + n + 63) / 64 - a / 64)).foldl (fun (acc : List (Byte × Bool) × State) i =>
    let line := a / 64 + i
    let lo := max a (64 * line)
    let m := min (a + n) (64 * line + 64) - lo
    let (bs, p, t) := acc.2.readAny lo m
    (acc.1 ++ bs.map fun b => (b, p), t)) ([], s)

/-- The pieces of data that the 64-byte lines of its destination take: address, bytes, and poison. -/
def linePieces (a : Nat) (bs : List (Byte × Bool)) : List (Nat × List Byte × Bool) :=
  (List.range ((a + bs.length + 63) / 64 - a / 64)).map fun i =>
    let lo := max a (64 * (a / 64 + i))
    let hi := min (a + bs.length) (64 * (a / 64 + i) + 64)
    let p := (bs.drop (lo - a)).take (hi - lo)
    (lo, p.map (·.1), p.any (·.2))

/-- Write it, a line that takes a poisoned byte in poisoned form. -/
def State.writeMarked (s : State) (a : Nat) (bs : List (Byte × Bool)) : State :=
  (linePieces a bs).foldl (fun t p => t.writeAny p.1 p.2.1 p.2.2 false) s

/-- The function of a course's host accesses: the PF, or its die's VF (R37, R41). -/
def State.courseFn (s : State) (g : Course) : Fin 5 := if s.parted then ⟨g.val / 8 + 1, by omega⟩ else 0

/-- A coded outcome of R552. `bar` is 0 to 2, or 3 for a device access. -/
def State.hostFault (s : State) (code : BitVec 16) (fn : Fin 5) (bar addr : Nat) : State :=
  let b := Blk.host.base
  let t := s.raiseWith 4 (plainReport code 0x11 0 0xF) (some (BitVec.ofNat 64 addr))
  (t.count b 0x28 0x20 1).capture1 (b + 0x10) (code.toNat + 65536 * fn.val + 524288 * bar) (some (b + 0x18)) addr

/-- A write to host memory (R552), in pieces of one 64-byte line (log entry 20). -/
def State.hostWrite (s : State) (g : Course) (a : Nat) (bs : List (Byte × Bool)) : State :=
  if s.host.bme.get (s.courseFn g) then
    (linePieces (a - hostBase) bs).foldl (fun t p => t.emit (.hostWrite p.1 p.2.1 p.2.2)) s
  else s.hostFault 0x100A (s.courseFn g) 3 (a - hostBase)

/-! ### Halts (R272 to R275) -/

def HaltCause.num : HaltCause → Nat
  | .none => 0
  | .notPresent => 1
  | .permission => 2
  | .malformed => 3
  | .noTable => 4
  | .address => 5
  | .emit => 6

def HaltCause.code : HaltCause → BitVec 16
  | .address => 0x0605
  | .emit => 0x0606
  | _ => 0x0604

/-- What a FEED pass of a stream becomes when the stream is released: nothing more is read of it (R299). -/
def FeedPass.release (n : Nat) (p : FeedPass) : FeedPass :=
  if p.stream = n && !p.ended then { p with ended := true, cut := true } else p

/-- A stream becomes FREE (R263): transfers formed complete, everything else goes. -/
def CourseState.freeStream (c : CourseState) (n : Nat) : CourseState :=
  let x := c.stream n
  let d := c.setStream n { Stream.free with
    inflight := x.inflight.map fun t => { t with stale := true }, rearmStalls := x.rearmStalls, rearmWait := x.rearmWait }
  let cutAll (e : ExpState) : ExpState := { e with passes := e.passes.map fun p => p.release n }
  { d with idx := cutAll d.idx, tbl := d.tbl.map fun e => (e.1, cutAll e.2) }

/-- Streams that are not FREE. -/
def CourseState.usedStreams (c : CourseState) : List Nat := (c.str.streams.filter fun e => e.2.st ≠ .free).map (·.1)

/-- Add the bytes of a line to the pass of a stream that is being read. -/
def feedPut (n : Nat) (fb : List FeedByte) : List FeedPass → List FeedPass
  | [] => []
  | p :: ps => if p.stream = n && !p.ended then { p with inp := p.inp ++ fb } :: ps else p :: feedPut n fb ps

/-- The expander reads a line of a FEED stream (R254): what it holds now, with its poison. -/
def State.feedLine (s : State) (g : Course) (n : Nat) (tbl : Bool) (t : Transfer) : State :=
  let (bs, u) := s.readMarked t.near t.len
  let fb := (List.range bs.length).map fun i =>
    let b := bs.getD i (0, false)
    (⟨b.1, b.2, t.near - windowBase g + i⟩ : FeedByte)
  u.modCourse g fun c =>
    if tbl then c.modTbl n fun e => { e with passes := feedPut n fb e.passes }
    else { c with idx := { c.idx with passes := feedPut n fb c.idx.passes } }

/-- The transfers of a stream that belong to its present pass. -/
def Stream.live (x : Stream) : List Transfer := x.inflight.filter fun t => !t.stale

/-- Reads of an expander that are under way complete, and the stream becomes FREE. -/
def State.free (s : State) (g : Course) (n : Nat) : State :=
  let x : Stream := (s.course g).stream n
  let ts : List Transfer := x.live.filter fun t => t.share == 3
  let tbl := match x.desc with
    | some d => decide (d.kind = .feedTbl)
    | none => false
  (ts.foldl (fun u t => u.feedLine g n tbl t) s).modCourse g fun c => c.freeStream n

/-- A task abort (R242, R275): the controller enters FAULTED with the code in CCR_ECAUSE, the queues are emptied, and
every stream of the course is released without poison. -/
def State.taskAbort (s : State) (g : Course) (code : BitVec 16) : State :=
  let t := (s.course g).usedStreams.foldl (fun u n => u.free g n) s
  if (t.course g).ctl = .fenced then t
  else ((((t.setReg (cr g 0x28) (code.setWidth 32)).modCourse g fun c => { c with wait := none }).enterFaulted g).flushAll g).settle g

/-- A stream halts at its next transfer (R272); under Iscon v1 the course's task is aborted (R275). -/
def State.haltStream (s : State) (g : Course) (n : Nat) (cause : HaltCause) (addr : Nat) : State :=
  let t := s.modStream g n fun x => { x with st := .halted, cause := cause }
  let t := t.capture1 (cr g 0x2038) (n + 4096 * cause.num) (some (cr g 0x2040)) addr
  let t := (t.raiseStr g cause.code (some (BitVec.ofNat 64 addr))).irqCourse g 2
  if (t.course g).v1 then t.taskAbort g cause.code else t

/-- Queue q is frozen by a HALTED stream (R273). -/
def CourseState.haltFrozen (c : CourseState) (q : QueueId) : Bool :=
  decide (q.val ≠ 2) && c.str.streams.any fun e => decide (e.2.st = .halted) && match e.2.desc with
    | some d => d.freeze.getLsbD q.val || (decide (d.kind = .feedIdx) && decide (q.val = 0)) ||
        (decide (d.kind = .feedTbl) && decide (q.val = 1))
    | none => false

/-- No instruction of queue q starts: a halted stream freezes it, or a deadlock the course (R273, R279). -/
def CourseState.frozen (c : CourseState) (q : QueueId) : Bool := c.str.frozenDl || c.haltFrozen q

/-! ### Passes (R259 to R262) -/

/-- A pass starts: its first elements, and for a FEED stream its place in the expander (R254, R257). -/
def State.startPass (s : State) (g : Course) (n : Nat) (base : Nat) : State :=
  match ((s.course g).stream n).desc with
  | none => s
  | some d =>
    let t := s.modStream g n fun x => { x with
      st := .active, base := base, walker := Walker.start base d.noff
      emit := if d.walk then none else some { d with faddr := if d.kind.isFeed then 0 else base }
      formed := 0, prevBytes := 0, passDone := 0 }
    let p : FeedPass := ⟨n, d.bamong, [], false, false, 0, none⟩
    let add (e : ExpState) : ExpState := { e with passes := e.passes ++ [p] }
    let clear (c : CourseState) : CourseState := { c with str := { c.str with buildStall := none, rowStall := none } }
    match d.kind with
    | .feedIdx => t.modCourse g fun c => clear { c with idx := add c.idx }
    | .feedTbl => t.modCourse g fun c => clear (c.modTbl n add)
    | _ => t

/-- A str.rearm of stream n waits at the STR queue's head for the shadow slot (R262). -/
def State.rearmWaits (s : State) (g : Course) (n : Nat) : Bool :=
  let x := (s.course g).stream n
  (decide (x.st = .active) || decide (x.st = .halted)) && x.shadow.isSome && x.persist &&
    match (s.course g).startNext 2 with
    | some e => match e.op with
      | .strRearm k _ => decide (k.val = n)
      | _ => false
    | none => false

/-- The FAB cycles for which a str.rearm of stream n has waited since they were last counted are added to its REARM_STALLS, as far as
FREEZE allows (R262, R281); how many is timing, and so a free value (log entry 7). -/
def State.rearmElapse (s : State) (g : Course) (n : Nat) : State :=
  let now := s.rearmWaits g n
  if now || ((s.course g).stream n).rearmWait then
    let k := if (s.reg (cr g 0x2090)).getLsbD 0 then 0 else s.fresh.toNat
    s.used.modStream g n fun x => { x with rearmStalls := min (x.rearmStalls + k) (2 ^ 64 - 1), rearmWait := now }
  else s

/-- Every stream's REARM_STALLS as it stands now; CLEAR sets them to 0. -/
def State.rearmSettle (s : State) (g : Course) (clear : Bool) : State :=
  let t := ((s.course g).str.streams.map (·.1)).foldl (fun t n => t.rearmElapse g n) s
  if clear then
    ((t.course g).str.streams.map (·.1)).foldl (fun t n => t.modStream g n fun x => { x with rearmStalls := 0 }) t
  else t

/-- The last byte of a FEED pass has been read. -/
def FeedPass.close (n : Nat) (p : FeedPass) : FeedPass := if p.stream = n then { p with ended := true } else p

/-- Pass end (R261, R262): the end tally, and the shadow pass, PARKED or DONE. -/
def State.passEnd (s : State) (g : Course) (n : Nat) : State :=
  let x := (s.course g).stream n
  match x.desc with
  | none => s
  | some d =>
    let t := if d.een then (s.modCourse g fun c => c.tallyAdd d.etally 1).settle g else s
    let shut (e : ExpState) : ExpState := { e with passes := e.passes.map fun p => p.close n }
    let t := match d.kind with
      | .feedIdx => t.modCourse g fun c => { c with idx := shut c.idx }
      | .feedTbl => t.modCourse g fun c => c.modTbl n shut
      | _ => t
    match x.shadow with
    | some b => (t.modStream g n fun x => { x with shadow := none, rearmWait := x.rearmWait || s.rearmWaits g n }).startPass g n b
    | none => t.modStream g n fun x => { x with st := if x.persist then .parked else .done }

/-- Nothing of the pass is left to form. -/
def Stream.spent (x : Stream) : Bool :=
  (match x.emit with
    | some d => decide (d.bytes ≤ x.formed)
    | none => true) && match x.desc with
    | some d => !d.walk || x.walker.ended
    | none => true

/-- The pass ends if everything is formed and complete. -/
def State.endIfSpent (s : State) (g : Course) (n : Nat) : State :=
  let x := (s.course g).stream n
  if x.st = .active ∧ x.spent ∧ x.live.isEmpty then s.passEnd g n else s

/-! ### Forming transfers (R252, R257, R264, R265) -/

/-- W of a share (R265). -/
def State.window (s : State) (g : Course) (share : Nat) : Nat :=
  if s.parted then 8 else (s.reg (cr g 0x2008)).toNat / 2 ^ (10 * share) % 1024

/-- Transfers outstanding in a share; the remote share carries the blocks of red.*: of red.send and red.accum 29 to a transfer,
and of red.ring one message each (R247, R383, R391). -/
def CourseState.outstanding (c : CourseState) (share : Nat) : Nat :=
  (c.str.streams.map fun e => (e.2.inflight.filter fun t => t.share == share).length).sum +
    (if share = 2 then (c.jobs.map fun j => (j.formed - j.returned + 28) / 29).sum + c.ring.elim 0 (·.flight) else 0)

/-- The share of a transfer (R247). -/
def shareOf (g : Course) (d : Desc) (a : Nat) : Nat :=
  let own := match regionOf a with
    | .near k => decide (k.val / 2 = g.val / 8)
    | .sram c => decide (c.val / 8 = g.val / 8)
    | _ => false
  if own then (if d.kind = .store then 1 else 0) else 2

/-- The walker of a stream runs on when every element it has emitted is formed (R257): at most 4,096 instructions. An
emitted descriptor that fails R250 halts the stream. -/
def State.walkOn (s : State) (g : Course) (n : Nat) : State :=
  let x := (s.course g).stream n
  match x.desc with
  | some d =>
    let used := match x.emit with
      | some e => decide (e.bytes ≤ x.formed)
      | none => true
    if d.walk && used && !x.walker.ended then
      let r := walkRun x.prog { d with faddr := x.base } 4096 x.walker
      let t := s.modStream g n fun x => { x with
        walker := r.1, prevBytes := x.prevBytes + x.formed, formed := 0, emit := none }
      match r.2 with
      | none => t
      | some e =>
        if t.descOk g e then
          t.modStream g n fun x => { x with emit := some e, walker := { x.walker with pcw := x.walker.pcw + 1 } }
        else t.haltStream g n .emit e.faddr
    else s
  | none => s

/-- A transfer is formed: the stream's place moves past it. -/
def Stream.form (x : Stream) (t : Transfer) : Stream :=
  match x.emit with
  | some d => { x with
      inflight := x.inflight ++ [t], formed := x.formed + t.len
      nearPos := if d.nring then x.nearPos + t.len else x.nearPos
      farPos := if d.fring then x.farPos + t.len else x.farPos
      nearAvail := if d.nring then x.nearAvail - t.len else x.nearAvail
      farAvail := if d.fring then x.farAvail - t.len else x.farAvail }
  | none => x

/-- Form the next transfer of a LOAD or STORE. -/
def State.formMem (s : State) (g : Course) (n : Nat) (d : Desc) : State :=
  match ((s.course g).stream n).next g with
  | none => s
  | some (far, near, len) =>
    if len = 0 then s
    else
      let r := s.resolve g d far len
      match r.2 with
      | .error x => r.1.haltStream g n x far
      | .ok a =>
        let share := shareOf g d a
        if (r.1.course g).outstanding share < r.1.window g share then
          let t := r.1.modStream g n fun x => x.form ⟨a, near, len, share, decide (d.kind = .store), false, []⟩
          if hostBase ≤ a ∧ d.kind = .load ∧ t.host.bme.get (t.courseFn g) then t.emit (.hostRead (a - hostBase) len) else t
        else r.1

/-- An msn.parity of the course runs, or waits to run again in replay. -/
def CourseState.parityRuns (c : CourseState) : Bool := (c.queue 0).started.any fun i => !i.done && !i.orphan && match i.e.op with
  | .msnParity _ => true
  | _ => false

/-- The expander may read a line of a FEED stream now (R254): the index expander takes passes in the order in which they
started, the table-operand expander serves the tbl.build in progress. Neither reads further ahead than 2^17 bytes (log
entry 21). No FEED_IDX byte is read while msn.parity runs (R449). -/
def CourseState.feedTurn (c : CourseState) (n : Nat) (tbl : Bool) : Bool :=
  let e := if tbl then c.tblFor n else c.idx
  let first := e.passes.find? fun p => !p.ended
  (match first with
    | some p => decide (p.stream = n) && decide (p.inp.length < 131072)
    | none => false) && (tbl || !c.parityRuns) &&
  (!tbl || match c.building with
    | some (_, o) => o.expand && decide (o.stream = n)
    | none => false)

/-- The next line of a FEED stream: its slice offset and length (R254). -/
def Stream.nextFeed (x : Stream) : Option (Nat × Nat) :=
  match x.emit with
  | none => none
  | some d =>
    if x.formed < d.bytes then
      let off := d.noff + (if d.nring then x.nearPos % 2 ^ d.nrsize else x.formed)
      let lim := min (d.bytes - x.formed) (64 - off % 64)
      let lim := if d.nring then min lim x.nearAvail else lim
      some (off, lim)
    else none

/-- Form the read of the next line of a FEED stream. -/
def State.formFeed (s : State) (g : Course) (n : Nat) (d : Desc) : State :=
  let c := s.course g
  if c.feedTurn n (decide (d.kind = .feedTbl)) then
    match (c.stream n).nextFeed with
    | some (off, len) =>
      if len = 0 then s else s.modStream g n fun x => x.form ⟨0, windowBase g + off, len, 3, false, false, []⟩
    | none => s
  else s

/-- A stream forms its next transfer, if its state, its credit and its share let it (R252). -/
def transferForm (g : Course) (n : Nat) (s : State) : State :=
  let c := s.course g
  if (c.stream n).st ≠ .active ∨ c.str.frozenDl then s
  else
    let t := s.walkOn g n
    let x := (t.course g).stream n
    match x.desc with
    | none => t
    | some d =>
      if x.st ≠ .active then t
      else if x.spent then t.endIfSpent g n
      else if d.kind.isFeed then t.formFeed g n d
      else t.formMem g n d

/-! ### Completing transfers (R255, R261) -/

/-- Bytes of a pass gained: PTALLY and the place in the pass (R261). -/
def State.progress (s : State) (g : Course) (n len : Nat) : State :=
  let x := (s.course g).stream n
  match x.desc with
  | none => s
  | some d =>
    let t := s.modStream g n fun x => { x with passDone := x.passDone + len }
    let k := (x.passDone + len) / 2 ^ d.pshift - x.passDone / 2 ^ d.pshift
    if d.pen && decide (0 < k) then (t.modCourse g fun c => c.tallyAdd d.ptally (BitVec.ofNat 32 k)).settle g else t

/-- Ring credit that a complete transfer returns to the partners (R253). -/
def State.returnCredit (s : State) (g : Course) (n len : Nat) (d : Desc) : State :=
  let t := if d.nring then s.sendCredit g n d.nlink len else s
  if d.fring then t.sendCredit g n d.flink len else t

/-- Counter of a share (R281). -/
def shareCounter (share : Nat) : Nat := 0x2070 + 8 * share

/-- A transfer that is formed can still be served at its far end: what it reaches there is backed, or lies in the window of a link
that has been lost since, whose controller gives poisoned data and drops writes (R335). -/
def State.served (s : State) (a n : Nat) : Bool :=
  s.reach a n || match regionOf a with
    | .far l => !s.farUp l
    | _ => false

/-- The data of a transfer moves (R255). A transfer of a released stream moves as well (R263). -/
def State.moveData (s : State) (g : Course) (t : Transfer) : State :=
  if t.store then
    let (bs, u) := s.readMarked t.near t.len
    if hostBase ≤ t.far then u.hostWrite g t.far bs
    else if u.served t.far t.len then u.writeMarked t.far bs else u
  else if hostBase ≤ t.far then s.writeMarked t.near t.got
  else if s.served t.far t.len then
    let (bs, u) := s.readMarked t.far t.len
    u.writeMarked t.near bs
  else s

/-- The oldest transfer of a stream may complete: a read of host memory has all its data. -/
def Transfer.ready (t : Transfer) : Bool :=
  t.share == 3 || t.store || decide (t.far < hostBase) || decide (t.len ≤ t.got.length)

/-- The oldest transfer of a stream completes (R261). -/
def transferComplete (g : Course) (n : Nat) (s : State) : State :=
  let x := (s.course g).stream n
  match x.inflight with
  | [] => s
  | t :: rest =>
    if !t.ready then s
    else
      let u := s.modStream g n fun x => { x with inflight := rest }
      let u := if t.share = 3 then u else (u.moveData g t).countC g 0x2090 (shareCounter t.share) t.len
      if t.stale then u
      else match x.desc with
        | none => u
        | some d =>
          let u := if t.share = 3 then u.feedLine g n (decide (d.kind = .feedTbl)) t else u
          ((u.returnCredit g n t.len d).progress g n t.len).endIfSpent g n

/-- Credit from the partner stream arrives (R253): the check of which the stream is the head ends (R278). Its waiting episode ends,
and a later one reports again, once it waits no longer (R277). -/
def ringCredit (g : Course) (n : Nat) (s : State) : State :=
  s.arrive (.course g) (fun b => match b with | .ringCredit r _ _ => decide (r.val = n) | _ => false) fun t m =>
    match m.src, m.body with
    | .course src, .ringCredit _ frm len =>
      let t := t.modStream g n fun x =>
        let y := x.credited src.val frm.val len
        { y with stallReported := y.stallReported && y.creditWait }
      t.modCourse g fun c => { c with str := { c.str with probes := c.str.probes.filter fun p => p.head != n } }
    | _, _ => t

/-! ### Release (R263) and the queue instructions (R258, R260, R262, R274) -/

/-- STR_CMD RELEASE (R263). -/
def State.strRelease (s : State) (g : Course) (n : Nat) : State :=
  let x := (s.course g).stream n
  match x.st, x.desc with
  | .free, _ => s
  | st, some d =>
    let atEnd := decide (st = .parked) || decide (st = .done)
    let t := s.free g n
    if d.een && !atEnd then (t.modCourse g fun c => c.tallyPoison d.etally).settle g else t
  | _, none => s

/-- str.resume and STR_CMD RESUME (R274): the transfer that halted is tried again. -/
def State.strResume (s : State) (g : Course) (n : Nat) : State :=
  let x := (s.course g).stream n
  match x.st, x.desc with
  | .halted, some d =>
    let t := (s.modStream g n fun x => { x with st := .active, cause := .none }).walkOn g n
    let y := (t.course g).stream n
    if y.st ≠ .active ∨ d.kind.isFeed then t
    else match y.next g with
      | some (far, _, len) =>
        let r := t.resolve g d far len
        match r.2 with
        | .error e => r.1.haltStream g n e far
        | .ok _ => r.1
      | none => t
  | _, _ => s

/-- A str.* or walk.load that has started faults (R258, R260, R262). -/
def State.strFault (s : State) (g : Course) (serial : Nat) (code : BitVec 16) : State :=
  s.instrFault g 2 serial code 0x06 0xF none

/-- A str.arm that starts (R250, R260). -/
def State.strArm (s : State) (g : Course) (serial n addr : Nat) (persist : Bool) : State :=
  let x := (s.course g).stream n
  if x.st = .halted ∨ x.st = .deadlocked then s.strFault g serial 0x0603
  else
    let desc := if s.nearOk addr 64 && !s.dirty addr 64 then Desc.of (s.bytes addr 64) else none
    match desc with
    | none => s.strFault g serial 0x0602
    | some d =>
      if !s.descOk g d || (d.walk && x.prog.isEmpty) then s.strFault g serial 0x0602
      else
        let mine (b : Bool) (l : BitVec 16) : Nat :=
          if b then ((x.early.filter fun e => e.1 == l.toNat).map (·.2)).sum else 0
        let near := mine d.nring d.nlink
        let y : Stream := { Stream.free with
          persist := persist, desc := some d, prog := x.prog, inflight := x.inflight, rearmStalls := x.rearmStalls
          rearmWait := x.rearmWait
          nearAvail := d.credit0 true + near, farAvail := d.credit0 false + mine (d.fring && !(d.nring && d.nlink == d.flink)) d.flink }
        (s.modCourse g fun c => c.setStream n y).startPass g n d.faddr

/-- A str.rearm that starts (R262), or none where it waits for the shadow slot. -/
def State.strRearm (s : State) (g : Course) (serial n base : Nat) : Option State :=
  let x := (s.course g).stream n
  match x.desc with
  | none => some (s.strFault g serial 0x0603)
  | some d =>
    if !x.persist then some (s.strFault g serial 0x0603)
    else
      let ok := decide (base % 2 ^ d.esize = 0)
      match x.st with
      | .parked => some (if ok then s.startPass g n base else s.strFault g serial 0x0602)
      | .active | .halted =>
        if !ok then some (s.strFault g serial 0x0602)
        else if x.shadow.isSome then none
        else some (s.modStream g n fun x => { x with shadow := some base })
      | _ => some (s.strFault g serial 0x0603)

/-- A walk.load that starts (R258). -/
def State.walkLoad (s : State) (g : Course) (serial n addr len : Nat) : State :=
  let x := (s.course g).stream n
  match x.st with
  | .free | .done | .parked =>
    let prog := (List.range len).map fun i => BitVec.ofNat 64 (s.rdN (addr + 8 * i) 8)
    if s.nearOk addr (8 * len) && !s.dirty addr (8 * len) && (List.range len).all (fun k => walkerOk k (prog.getD k 0)) then
      s.modStream g n fun x => { x with prog := prog }
    else s.strFault g serial 0x0606
  | _ => s.strFault g serial 0x0603

/-- A STR-queue instruction that has entered the started list acts; none where it waits at the queue head (R260, R262). -/
def State.runStr (s : State) (g : Course) (e : QEntry) : Option State :=
  match e.op with
  | .strArm n addr persist =>
    if ((s.course g).stream n.val).st = .active then none else some (s.strArm g e.serial n.val addr persist)
  | .strRearm n base => s.strRearm g e.serial n.val base
  | .strResume n => some (s.strResume g n.val)
  | .walkLoad n src len => some (s.walkLoad g e.serial n.val src len)
  | _ => some s

/-- The stream number of a str.* (R260): sN with bits [63:11] 0. -/
def CourseState.streamFld (c : CourseState) (w : BitVec 56) : Option StreamId :=
  let v := c.sFld w 37
  if h : v < 2048 then some ⟨v, h⟩ else none

/-- An address register of near memory, 64-byte aligned (R260), as a device physical address. -/
def State.nearReg (s : State) (g : Course) (w : BitVec 56) (n align : Nat) : Option Nat :=
  let v := (s.course g).aFld w 33
  match s.physOf (g.val / 8) v with
  | some a => if a < nearEnd ∧ a + n ≤ nearEnd ∧ v % align = 0 then some a else none
  | none => none

/-- STREAM_OPERAND of an sN, whose value CCR_EINFO takes (R237, R260). -/
def CourseState.badStream (c : CourseState) (w : BitVec 56) : Act := .fault 0x0601 (some (BitVec.ofNat 64 (c.sFld w 37)))

def issueStr (g : Course) (w : BitVec 56) (mk : StreamId → EngineOp) (t : State) : Act :=
  match (t.course g).streamFld w with
  | some n => t.submit g w 2 (mk n) none
  | none => (t.course g).badStream w

def issueStrAt (g : Course) (w : BitVec 56) (n align : Nat) (mk : StreamId → Nat → EngineOp) (t : State) : Act :=
  match (t.course g).streamFld w, t.nearReg g w n align with
  | some k, some a => t.submit g w 2 (mk k a) none
  | none, _ => (t.course g).badStream w
  | _, none => .fault 0x0601 (some (BitVec.ofNat 64 ((t.course g).aFld w 33)))

/-! ### Stalls and deadlocks (R276 to R279) -/

/-- A stall is reported, once per episode (R277). -/
def State.stall (s : State) (g : Course) : State := (s.raiseStr g 0x0607 none).orReg (cr g 0x2048) 2

/-- Detection is on for a course: its limit is not 0, and no halt freezes it (R276). -/
def State.stallOn (s : State) (g : Course) : Bool :=
  s.reg (cr g 0x200C) != 0 && !(s.course g).str.frozenDl && (List.finRange 8).all fun q => !(s.course g).haltFrozen q

/-- The rows that the entering msn.pass awaits with no ACTIVE stream to bring them (R254, R276): its issue number and place. -/
def CourseState.rowDemand (c : CourseState) : Option (Nat × Nat) :=
  match c.entering with
  | some (i, o) =>
    let served := (c.idx.passes.any fun p => !p.ended && decide ((c.stream p.stream).st = .active)) ||
      (c.idx.passes.any fun p => !p.inp.isEmpty)
    let rows := (c.rowsAt i.e.serial (i.rowsIn o) ((i.prog + 1) * o.rowsPer - i.rowsIn o)).isSome
    if !rows && !served then some (i.e.serial, i.prog) else none
  | none => none

/-- The EXPAND build whose named stream is not ACTIVE and has not delivered its bytes. -/
def CourseState.buildDemand (c : CourseState) : Option (Nat × Nat) :=
  match c.building with
  | some (i, o) =>
    let e := c.tblFor o.stream
    if o.expand && decide ((c.stream o.stream).st ≠ .active) && e.passes.all (fun p => p.inp.isEmpty) &&
        decide (e.bytes.length < 16 * c.arr.logical * o.rowBytes i.prog) then some (i.e.serial, i.prog)
    else none
  | none => none

/-- A demand without a stream has passed the limit (R276): there is no credit owner, so it is a stall. -/
def State.demandStall (s : State) (g : Course) (d old : Option (Nat × Nat)) (mark : StreamEngine → StreamEngine) : State :=
  if d.isSome && decide (d ≠ old) then (s.stall g).modCourse g fun c => { c with str := mark c.str } else s

/-- A waiter's count passes the limit (R276, R277): a stream's probe goes out. -/
def stallLimitExpiry (g : Course) (w : StallWaiter) (s : State) : State :=
  let c := s.course g
  if !s.stallOn g then s
  else match w with
    | .stream n =>
      if (c.stream n.val).creditWait then
        s.modCourse g fun c => { c with str := { c.str with
          probes := (c.str.probes.filter fun p => p.head != n.val) ++ [⟨n.val, []⟩] } }
      else s
    | .build => s.demandStall g c.buildDemand c.str.buildStall fun e => { e with buildStall := c.buildDemand }
    | .rows => s.demandStall g c.rowDemand c.str.rowStall fun e => { e with rowStall := c.rowDemand }

/-- A stream, as (global course, stream). -/
def State.streamOf (s : State) (p : Nat × Nat) : Stream := (s.course (courseAt p.1)).stream p.2

/-- The lower of two streams (R278). -/
def lowerPair (a b : Nat × Nat) : Nat × Nat := if pairOf b.1 b.2 < pairOf a.1 a.2 then b else a

/-- Streams of a cycle from one of them on. -/
def rotateTo (a : Nat × Nat) (l : List (Nat × Nat)) : List (Nat × Nat) :=
  l.dropWhile (fun p => p != a) ++ l.takeWhile (fun p => p != a)

/-- A course of a cycle freezes (R279): it stops as under CCR_CTRL.STOP, and the streams of the cycle become
DEADLOCKED. -/
def State.freezeCourse (s : State) (k : Nat) (cycle : List (Nat × Nat)) : State :=
  let g := courseAt k
  let t := (cycle.filter fun p => p.1 == k).foldl (fun u p => u.modStream g p.2 fun x => { x with st := .deadlocked }) s
  (t.ctlStop g).modCourse g fun c => { c with str := { c.str with
    frozenDl := true, probes := c.str.probes.filter fun p => !(cycle.contains (k, p.head)) } }

/-- A deadlock is found (R277 to R279). Of the streams of the cycle whose checks are under way, the lowest reports; its
registers name the cycle from itself on. -/
def State.deadlock (s : State) (head : Nat × Nat) (cycle : List (Nat × Nat)) : State :=
  let deciding := cycle.filter fun p => p == head || (s.course (courseAt p.1)).str.probes.any fun q => q.head == p.2
  let r := deciding.foldl lowerPair head
  let t := (cycle.map (·.1)).eraseDups.foldl (fun u k => u.freezeCourse k cycle) s
  let g := courseAt r.1
  let chain := rotateTo r cycle
  let t := (List.range 8).foldl (fun u i => u.setReg (cr g (0x2050 + 4 * i)) (match chain[i]? with
    | some p => BitVec.ofNat 32 (0x80000000 + 2048 * p.1 + p.2)
    | none => 0)) t
  (t.raiseStr g 0x0608 none).orReg (cr g 0x2048) 4

/-- The oldest probe of a course moves one hop (R277). -/
def deadlockProbeHop (g : Course) (s : State) : State :=
  match (s.course g).str.probes with
  | [] => s
  | p :: rest =>
    let head := (g.val, p.head)
    let t := s.modCourse g fun c => { c with str := { c.str with probes := rest } }
    let stalled (t : State) : State :=
      if ((t.course g).stream p.head).stallReported then t
      else (t.modStream g p.head fun x => { x with stallReported := true }).stall g
    match (s.streamOf (p.path.getLastD head)).owner with
    | none => if p.path = [] then t else stalled t
    | some o =>
      if o = head then t.deadlock head (head :: p.path)
      else if p.path.length < 7 then
        t.modCourse g fun c => { c with str := { c.str with probes := { p with path := p.path ++ [o] } :: rest } }
      else stalled t

/-! ### Registers (R264, R265, R270, R271, R281) -/

/-- A write of STR_OUTSTANDING (R265). -/
def State.wrOutstanding (s : State) (g : Course) (v : Word) : State :=
  let x := v.toNat
  if !s.parted && [x % 1024, x / 1024 % 1024, x / 1048576 % 1024].all (fun k => decide (1 ≤ k) && decide (k ≤ 512))
  then s.setReg (cr g 0x2008) (v &&& 0x3FFFFFFF) else s

/-- The TLB is invalidated (R271). -/
def State.tlbInv (s : State) (g : Course) : State :=
  s.modCourse g fun c => { c with str := { c.str with tlb := [] } }

/-- A write of STR_CMD (R281). -/
def State.wrStrCmd (s : State) (g : Course) (v : Word) : State :=
  let n := v.toNat % 2048
  match v.toNat / 4096 % 4 with
  | 1 => s.strResume g n
  | 2 => s.strRelease g n
  | _ => s

/-- STR_STATUS (R281). -/
def CourseState.strStatus (c : CourseState) : Nat :=
  let n (p : Stream → Bool) : Nat := (c.str.streams.filter fun e => p e.2).length
  n (fun x => decide (x.st = .active)) + (if 0 < n (fun x => decide (x.st = .halted)) then 4096 else 0) +
    (if c.str.frozenDl then 8192 else 0) + 65536 * maskOf c.haltFrozen (List.finRange 8)

def StrState.num : StrState → Nat
  | .free => 0
  | .active => 1
  | .halted => 2
  | .parked => 3
  | .done => 4
  | .deadlocked => 5

/-- STR_SSTATE of a stream (R281). -/
def Stream.sstate (x : Stream) : Nat :=
  let bit (b : Bool) (k : Nat) : Nat := if b then k else 0
  x.st.num + bit x.persist 8 + bit x.shadow.isSome 16 + bit (!x.prog.isEmpty) 32 + bit x.creditWait 64 +
    256 * (if x.st = .halted then x.cause.num else 0)

/-- STR_SPOS of a stream (R281). -/
def Stream.spos (x : Stream) : Nat := if x.st = .halted then x.prevBytes + x.formed else x.passDone

/-! ### The commands -/

def execStrArm (g : Course) (w : BitVec 56) (s : State) : Out :=
  .next (s.issueEngine g w 2 [(31, 0)] false 0x0601 (issueStrAt g w 64 64 fun n a => .strArm n a (w.getLsbD 32)))
def execStrRearm (g : Course) (w : BitVec 56) (s : State) : Out :=
  .next (s.issueEngine g w 2 [(32, 0)] false 0x0601 fun t =>
    issueStr g w (fun n => .strRearm n ((t.course g).aFld w 33)) t)
def execStrResume (g : Course) (w : BitVec 56) (s : State) : Out :=
  .next (s.issueEngine g w 2 [(36, 0)] true 0x0601 (issueStr g w .strResume))
def execWalkLoad (g : Course) (w : BitVec 56) (s : State) : Out :=
  .next (s.issueEngine g w 2 [(27, 0)] true 0x0601
    (issueStrAt g w (8 * (fld w 32 28 + 1)) 64 fun n a => .walkLoad n a (fld w 32 28 + 1)))
def execTransferComplete (g : Course) (n : StreamId) (s : State) : Out :=
  .next (s.ifDie (courseDie g) (transferComplete g n.val))
def execRingCredit (g : Course) (n : StreamId) (s : State) : Out := .next (ringCredit g n.val s)
def execStallLimitExpiry (g : Course) (w : StallWaiter) (s : State) : Out := .next (s.ifCourse g (stallLimitExpiry g w))
def execDeadlockProbeHop (g : Course) (s : State) : Out := .next (s.ifCourse g (deadlockProbeHop g))

end Sys2Proof.Machine
end

