-- ==== Sys2Proof/Machine/Bamong.lean ====
section
/-! DEFINITION. Bamong: block compression (chapter 9): the decoder with its checks, the device encoder, and the expanders
of a course. -/

namespace Sys2Proof.Machine

/-! ### Headers (R283 to R286) -/

inductive BMode where
  | stored | prefixed | zrun
  deriving DecidableEq, Repr

/-- A block header that passes check 2 of R293. -/
structure BHeader where
  mode : BMode
  nibble : Bool
  dlen : Nat
  clen : Nat
  tlen : Nat
  crc : Nat
  deriving DecidableEq, Repr

/-- Literal symbols, and the alphabet of a mode (R287). -/
def litCount (nibble : Bool) : Nat := if nibble then 16 else 256
def alphabet (mode : BMode) (nibble : Bool) : Nat := litCount nibble + (if mode = .zrun then 12 else 0)

/-- TLEN that a mode has (R286, R287). -/
def tlenOf (mode : BMode) (nibble : Bool) : Nat := if mode = .stored then 0 else alphabet mode nibble / 2

/-- A header, where it passes check 2 (R293). -/
def BHeader.of (bs : List Byte) : Option BHeader :=
  let b0 := natAt bs 0 1
  let mode : BMode := match b0 % 4 with
    | 0 => .stored
    | 1 => .prefixed
    | _ => .zrun
  let nibble := b0 / 4 % 4 == 1
  let h : BHeader := ⟨mode, nibble, natAt bs 2 2, natAt bs 4 2, natAt bs 6 2, natAt bs 8 4⟩
  let ok := decide (b0 % 4 < 3) && decide (b0 / 4 % 4 < 2) && decide (b0 < 16) && decide (natAt bs 1 1 = 0x5A) &&
    decide (natAt bs 12 4 = 0) && decide (1 ≤ h.dlen) && decide (h.dlen ≤ 4096) && decide (h.tlen = tlenOf mode nibble) &&
    (mode != .stored || (!nibble && decide (h.clen = h.dlen)))
  if ok then some h else none

def BHeader.bytes (h : BHeader) : List Byte :=
  leBytes 1 ((match h.mode with | .stored => 0 | .prefixed => 1 | .zrun => 2) + (if h.nibble then 4 else 0)) ++ [0x5A] ++
    leBytes 2 h.dlen ++ leBytes 2 h.clen ++ leBytes 2 h.tlen ++ leBytes 4 h.crc ++ leBytes 4 0

/-- Bytes that a block occupies (R283). -/
def BHeader.extent (h : BHeader) : Nat := 16 + (h.tlen + h.clen + 15) / 16 * 16

/-! ### Codes (R288 to R290) -/

/-- The code lengths of a descriptor: two to a byte (R288). -/
def codeLengths (bs : List Byte) : List Nat := bs.flatMap fun b => [b.toNat % 16, b.toNat / 16]

/-- Symbols of each length, lengths 1 to 12, in increasing symbol order (R289). -/
def symbolsByLength (lens : List Nat) : List (List Nat) :=
  (List.range 12).map fun n => (List.range lens.length).filter fun i => lens.getD i 0 == n + 1

/-- The lengths are valid (R290): a complete code of two or more symbols, or one symbol of length 1. -/
def lengthsOk (lens : List Nat) : Bool :=
  let used := lens.filter fun n => n != 0
  lens.all (fun n => decide (n ≤ 12)) &&
    (decide (used = [1]) || (decide (2 ≤ used.length) && decide ((used.map fun n => 2 ^ (12 - n)).sum = 2 ^ 12)))

/-- Codewords by symbol, most significant bit first (R289). -/
def codewords (lens : List Nat) : List (List Bool) :=
  let count (n : Nat) : Nat := if n = 0 then 0 else (lens.filter fun x => x == n).length
  let first (n : Nat) : Nat := (List.range n).foldl (fun c k => (c + count k) * 2) 0
  (List.range lens.length).map fun i =>
    let n := lens.getD i 0
    let code := first n + ((lens.take i).filter fun x => x == n).length
    if n = 0 then [] else (List.range n).map fun k => code.testBit (n - 1 - k)

/-! ### The bit stream (R291) -/

def byteBits (b : Byte) : List Bool := (List.range 8).map fun i => b.getLsbD i
def bitsNat : List Bool → Nat
  | [] => 0
  | b :: bs => (if b then 1 else 0) + 2 * bitsNat bs
/-- Bytes of a bit stream, the last filled up with 0 bits. -/
def bitBytes : Nat → List Bool → List Byte
  | 0, _ => []
  | n + 1, bs => BitVec.ofNat 8 (bitsNat (bs.take 8)) :: bitBytes n (bs.drop 8)

/-- What reading a codeword gives: a symbol and the bits after it, no match, or the end of the data inside it. -/
inductive SymRead where
  | sym (v : Nat) (rest : List Bool)
  | noMatch
  | short

/-- Read one codeword: `code` of the bits so far, `first` and `count` of the length before (R289). -/
def readSym : List (List Nat) → Nat → Nat → Nat → List Bool → SymRead
  | [], _, _, _, _ => .noMatch
  | _ :: _, _, _, _, [] => .short
  | syms :: tab, code, first, count, b :: bs =>
    let first' := 2 * (first + count)
    let code' := 2 * code + (if b then 1 else 0)
    if first' ≤ code' ∧ code' - first' < syms.length then .sym (syms.getD (code' - first') 0) bs
    else readSym tab code' first' syms.length bs

/-- The decode loop of R293: the symbols, in reverse, or the code of the check that fails. -/
def decodeLoop (tab : List (List Nat)) (lits need : Nat) : Nat → Nat → List Nat → List Bool → Except (BitVec 16) (List Nat)
  | 0, _, acc, _ => .ok acc
  | n + 1, out, acc, bits =>
    if need ≤ out then
      if 8 ≤ bits.length ∨ bits.any id then .error 0x0705 else .ok acc
    else if bits = [] then .error 0x0705
    else match readSym tab 0 0 0 bits with
      | .noMatch => .error 0x0704
      | .short => .error 0x0705
      | .sym v rest =>
        if v < lits then decodeLoop tab lits need n (out + 1) (v :: acc) rest
        else
          let k := v - lits
          if rest.length < k + 1 then .error 0x0705
          else
            let run := 2 ^ (k + 1) + bitsNat (rest.take (k + 1))
            if need < out + run then .error 0x0705
            else decodeLoop tab lits need n (out + run) (List.replicate run 0 ++ acc) (rest.drop (k + 1))

/-- Bytes of symbols: two nibbles to a byte, the low one first (R285). -/
def symbolBytes (nibble : Bool) : List Nat → List Byte
  | a :: b :: r => if nibble then BitVec.ofNat 8 (a + 16 * b) :: symbolBytes nibble r
    else BitVec.ofNat 8 a :: BitVec.ofNat 8 b :: symbolBytes nibble r
  | [a] => [BitVec.ofNat 8 a]
  | [] => []

/-- Levels of the code that hold symbols: after the last one nothing can match. -/
def usedLevels (tab : List (List Nat)) : List (List Nat) := ((tab.reverse).dropWhile List.isEmpty).reverse

/-- Checks 3 to 7 of R293 on a block's descriptor and coded data: its bytes, or the code of the first that fails. -/
def BHeader.decode (h : BHeader) (body : List Byte) : Except (BitVec 16) (List Byte) :=
  let data := (body.drop h.tlen).take h.clen
  let check (out : List Byte) : Except (BitVec 16) (List Byte) :=
    if crc32c (toNats out) = h.crc then .ok out else .error 0x0706
  if h.mode = .stored then check data
  else if 7 * h.dlen < 8 * (h.tlen + h.clen) ∨ h.dlen < 1024 then .error 0x0703
  else
    let lens := codeLengths (body.take h.tlen)
    if !lengthsOk lens then .error 0x0704
    else
      let need := if h.nibble then 2 * h.dlen else h.dlen
      match decodeLoop (usedLevels (symbolsByLength lens)) (litCount h.nibble) need (need + 1) 0 [] (data.flatMap byteBits) with
      | .error e => .error e
      | .ok acc => check (symbolBytes h.nibble acc.reverse)

/-! ### The device encoder (R294 to R296) -/

/-- Symbols of bytes. -/
def bytesSymbols (nibble : Bool) (bs : List Byte) : List Nat :=
  bs.flatMap fun b => if nibble then [b.toNat % 16, b.toNat / 16] else [b.toNat]

/-- A symbol to code, with its extra bits. -/
abbrev Tok := Nat × List Bool

/-- The token of a run of n zeros, n at least 1 and at most 8,191 (R287). -/
def runToken (lits n : Nat) : Tok :=
  if n = 1 then (0, [])
  else
    let k := Nat.log2 n - 1
    (lits + k, (List.range (k + 1)).map fun i => (n - 2 ^ (k + 1)).testBit i)

/-- ZRUN tokens of symbols: `z` zeros have been met and not coded (log entry 9). -/
def zrunTokens (lits : Nat) : Nat → List Nat → List Tok
  | z, [] => if z = 0 then [] else [runToken lits z]
  | z, v :: vs =>
    if v = 0 then
      if z = 8191 then runToken lits z :: zrunTokens lits 1 vs else zrunTokens lits (z + 1) vs
    else (if z = 0 then [] else [runToken lits z]) ++ (v, []) :: zrunTokens lits 0 vs

def tokens (mode : BMode) (nibble : Bool) (bs : List Byte) : List Tok :=
  let v := bytesSymbols nibble bs
  if mode = .zrun then zrunTokens (litCount nibble) 0 v else v.map fun x => (x, [])

/-- A piece coded in a mode with the lengths the device chooses, where they are valid and code every symbol of it. -/
def codedBlock (mode : BMode) (nibble : Bool) (bs : List Byte) : Option (BHeader × List Byte) :=
  let lens := Config.encoderLengths (if mode = .prefixed then 1 else 2) nibble bs
  let ts := tokens mode nibble bs
  if decide (lens.length = alphabet mode nibble) && lengthsOk lens && ts.all (fun t => lens.getD t.1 0 != 0) then
    let words := codewords lens
    let bits := ts.flatMap fun t => words.getD t.1 [] ++ t.2
    let data := bitBytes ((bits.length + 7) / 8) bits
    let table := (List.range (lens.length / 2)).map fun i => BitVec.ofNat 8 (lens.getD (2 * i) 0 + 16 * lens.getD (2 * i + 1) 0)
    some (⟨mode, nibble, bs.length, data.length, table.length, crc32c (toNats bs)⟩, table ++ data)
  else none

/-- A block's bytes with its padding (R283). -/
def blockBytes (h : BHeader) (body : List Byte) : List Byte :=
  h.bytes ++ body ++ List.replicate (h.extent - 16 - body.length) 0

/-- A piece as a STORED block (R286). -/
def storedBlock (bs : List Byte) : List Byte :=
  blockBytes ⟨.stored, false, bs.length, bs.length, 0, crc32c (toNats bs)⟩ bs

/-- The smaller of two coded blocks; on a tie the first (R294). -/
def smaller (a b : Option (BHeader × List Byte)) : Option (BHeader × List Byte) :=
  match a, b with
  | some x, some y => if y.2.length < x.2.length then some y else some x
  | some x, none => some x
  | none, y => y

/-- One piece encoded (R294, R295): the block, and whether its check failed, so that it is STORED. `upset` tells that the
encoder of this piece went wrong. -/
def encodePiece (pre zr nibble upset : Bool) (bs : List Byte) : List Byte × Bool :=
  if bs.length < 1024 then (storedBlock bs, false)
  else
    let pick := smaller (if pre then codedBlock .prefixed nibble bs else none) (if zr then codedBlock .zrun nibble bs else none)
    match pick with
    | none => (storedBlock bs, false)
    | some (h, body) =>
      if 7 * bs.length < 8 * body.length then (storedBlock bs, false)
      else if upset then (storedBlock bs, true)
      else if BHeader.of h.bytes ≠ some h then (storedBlock bs, true)
      else match h.decode body with
        | .ok out => if out = bs then (blockBytes h body, false) else (storedBlock bs, true)
        | .error _ => (storedBlock bs, true)

/-- Pieces of BLEN bytes, at most n of them (R294). -/
def pieces (blen : Nat) : Nat → List Byte → List (List Byte)
  | 0, _ => []
  | n + 1, bs => if bs = [] then [] else bs.take blen :: pieces blen n (bs.drop blen)

/-! ### The expanders (R297 to R301) -/

/-- n bytes of damaged data: their values are open (log entry 22). -/
def State.damage (s : State) (n : Nat) (code : BitVec 16) : List (Byte × BitVec 16) × State :=
  ((List.range n).map fun i => ((Config.freeValue (s.freeCtr + i)).setWidth 8, code), { s with freeCtr := s.freeCtr + n })

/-- One damaged unit (R300): its record, capture and count. -/
def State.damagedUnit (s : State) (g : Course) (tbl : Bool) (stream off : Nat) (code : BitVec 16) : State :=
  let t := s.raiseCourse g code (if tbl then 0x05 else 0x04) 0xF none
  (t.capture1 (cr g 0x1238) (code.toNat + (if tbl then 65536 else 0) + 131072 * stream) (some (cr g 0x1240)) off).countC
    g 0x1248 0x1230 1

/-- The expander, or the part that serves a stream. -/
def CourseState.exp (c : CourseState) (tbl : Bool) (n : Nat) : ExpState := if tbl then c.tblFor n else c.idx
def State.modExp (s : State) (g : Course) (tbl : Bool) (n : Nat) (f : ExpState → ExpState) : State :=
  s.modCourse g fun c => if tbl then c.modTbl n f else { c with idx := f c.idx }

/-- What an expander does next with a pass: bytes read that it uses up, what it releases for them, and the code of a
damaged unit that begins there. -/
inductive ExpStep where
  /-- Nothing yet. -/
  | wait
  /-- The pass is over. -/
  | finish
  /-- Bytes of one line of the slice, delivered as they are, with their code of damage (RAW, R297, R300). -/
  | raw (n : Nat) (code : BitVec 16) (line : Nat)
  /-- A block decoded to bytes (R297). -/
  | good (n : Nat) (out : List Byte)
  /-- A damaged block of n bytes read, which gives `len` bytes of damaged data (R300). -/
  | bad (n len : Nat) (code : BitVec 16)
  /-- The rest of the pass is damaged from here on (R301); `first` with the failing block. -/
  | rest (n : Nat) (code : BitVec 16) (first : Bool)

def anyBad (l : List FeedByte) : Bool := l.any (·.bad)

/-- The next step of a pass (R293, R297, R299 to R301). -/
def FeedPass.step (p : FeedPass) : ExpStep :=
  match p.inp with
  | [] => if p.ended then .finish else .wait
  | b :: _ =>
    if !p.bamong then
      let n := (p.inp.takeWhile fun x => x.off / 64 == b.off / 64).length
      .raw n (if anyBad (p.inp.take n) then 0x0701 else 0) (b.off / 64)
    else if p.rest ≠ 0 then .rest (min 4096 p.inp.length) p.rest false
    else
      let head := p.inp.take 16
      if head.length < 16 then
        if !p.ended then .wait
        else if p.cut then .finish
        else .bad head.length head.length (if anyBad head then 0x0701 else 0x0707)
      else if anyBad head then .rest (min 4096 p.inp.length) 0x0701 true
      else match BHeader.of (head.map (·.b)) with
        | none => .rest (min 4096 p.inp.length) 0x0702 true
        | some h =>
          let body := (p.inp.drop 16).take (h.extent - 16)
          if body.length < h.extent - 16 then
            if !p.ended then .wait
            else if p.cut then .finish
            else .bad (16 + body.length) h.dlen (if anyBad body then 0x0701 else 0x0707)
          else if anyBad body then .bad h.extent h.dlen 0x0701
          else match h.decode (body.map (·.b)) with
            | .ok out => .good h.extent out
            | .error e => .bad h.extent h.dlen e

/-- Use up n bytes of the first pass and release what they give. -/
def ExpState.release (e : ExpState) (n : Nat) (code : BitVec 16) (out : List (Byte × BitVec 16)) : ExpState :=
  match e.passes with
  | p :: ps => ⟨e.bytes ++ out, { p with inp := p.inp.drop n, rest := code } :: ps⟩
  | [] => e

/-- The first pass notes which line of a RAW pass it has delivered last as a damaged one, so that a poisoned line counts once
though it may arrive in parts (R300). -/
def ExpState.note (e : ExpState) (line : Option Nat) : ExpState :=
  match e.passes with
  | p :: ps => { e with passes := { p with noted := line } :: ps }
  | [] => e

/-- One more block of an expander (R307). -/
def State.countBlock (s : State) (g : Course) (tbl : Bool) : State := s.countC g 0x1248 (if tbl then 0x1228 else 0x1220) 1

/-- An expander has room for what its next step releases: the index expander for a row of the 32 that it buffers ahead (R129; log
entry 105), the table-operand expander while no 61,440 bytes wait for their consumer (log entry 21). -/
def ExpState.room (e : ExpState) (tbl : Bool) : Bool := if tbl then decide (e.bytes.length ≤ 61440) else decide (e.bytes.length < 4096)

/-- An expander takes its next step on its first pass (R297), while it has room. -/
def State.expand (s : State) (g : Course) (tbl : Bool) (n : Nat) : State :=
  let e := (s.course g).exp tbl n
  match e.passes with
  | [] => s
  | p :: ps =>
    let off := (p.inp.headD ⟨0, false, 0⟩).off
    match p.step with
    | .wait => s
    | .finish => s.modExp g tbl n fun e => { e with passes := ps }
    | .raw k code line =>
      if !e.room tbl then s
      else
        let known := decide (p.noted = some line)
        let t := if code = 0 ∨ known then s else s.damagedUnit g tbl p.stream (64 * line) code
        t.modExp g tbl n fun e => (e.release k 0 ((p.inp.take k).map fun b => (b.b, code))).note
          (if code ≠ 0 ∨ known then some line else none)
    | .good k out =>
      if !e.room tbl then s
      else (s.countBlock g tbl).modExp g tbl n fun e => e.release k 0 (out.map fun b => (b, 0))
    | .bad k len code =>
      if !e.room tbl then s
      else
        let (out, t) := ((s.countBlock g tbl).damagedUnit g tbl p.stream off code).damage len code
        t.modExp g tbl n fun e => e.release k 0 out
    | .rest k code first =>
      if !e.room tbl then s
      else
        let t := if first then (s.countBlock g tbl).damagedUnit g tbl p.stream off code else s
        let (out, u) := t.damage k code
        u.modExp g tbl n fun e => e.release k code out

/-- BAMONG_BLOCK_DECODED: the table-operand expander serves the stream of the tbl.build in progress (R254); the index expander takes
nothing while msn.parity runs (R449). -/
def bamongBlockDecoded (g : Course) (tbl : Bool) (s : State) : State :=
  if tbl then
    match (s.course g).building with
    | some (_, o) => if o.expand then s.expand g true o.stream else s
    | none => s
  else if (s.course g).parityRuns then s
  else s.expand g false 0

def execBamongBlockDecoded (g : Course) (tbl : Bool) (s : State) : Out :=
  .next (s.ifCourse g (bamongBlockDecoded g tbl))

end Sys2Proof.Machine
end

