-- ==== Sys2Proof/Machine/Frame.lean ====
section
/-! DEFINITION. Frame: Ethernet frames of the ports as they arrive and as they leave (R403, R404, R406, R419): a frame is the list of
its bytes from the destination address up to the FCS. -/

namespace Sys2Proof.Machine

/-! ### Ports -/

/-- A port, and a count in a register of its block (R438). -/
def portAt (x : IoDie) (n : Nat) : PortId := ⟨(6 * x.val + n) % 12, by omega⟩
def State.countPort (s : State) (p : PortId) (o n : Nat) : State := s.count (Blk.port p).base 0x30 o n

/-- An I/O die by number. -/
def ioAt (n : Nat) : IoDie := ⟨n % 2, by omega⟩

/-- The MAC address of a port, first byte in bits [7:0] (log entry 25). -/
def State.portMac (s : State) (p : PortId) : List Byte := leBytes 6 (s.reg64 ((Blk.port p).base + 8)).toNat

/-- A frame leaves a port; nothing leaves a port that is off or down (R438). -/
def State.frameOut (s : State) (p : PortId) (m : OutMsg) : State :=
  if (s.ports.get p).up then (s.emit m).countPort p 0x10 1 else s

/-! ### Fields -/

/-- A big-endian field of a frame, and the bytes of one. -/
def frameField (f : List Byte) (i n : Nat) : Nat := beVal (toNats ((f.drop i).take n))
def beBytes (n v : Nat) : List Byte := ofNats (natBe n v)

/-- A frame from its addresses, its tag and what follows them, from the EtherType on. -/
def ethFrame (dst src : BitVec 48) (tag : Option (BitVec 16)) (packet : List Byte) : List Byte :=
  beBytes 6 dst.toNat ++ beBytes 6 src.toNat ++ (match tag with
    | some t => [0x81, 0x00] ++ beBytes 2 t.toNat
    | none => []) ++ packet

/-- Offset of the EtherType: past at most one 802.1Q tag. -/
def etherAt (f : List Byte) : Nat := if frameField f 12 2 = 0x8100 then 16 else 12

/-- IPv6 next-header values that name an extension header. -/
def isExtension (n : Nat) : Bool := [0, 43, 44, 50, 51, 60, 135, 139, 140].contains n

/-- What R403 discards: a bad FCS or length, PAUSE, and IP packets with options, fragments or extension headers. PAUSE is
not counted. -/
inductive FrameFate where
  | ok | counted | silent
  deriving DecidableEq, Repr

def frameFate (f : List Byte) (fcs : Bool) : FrameFate :=
  let o := etherAt f
  let ty := frameField f o 2
  if !fcs || decide (f.length + 4 < 64) || decide (9216 < f.length + 4) then .counted
  else if ty = 0x8808 then .silent
  else if ty = 0x8100 then .counted
  else if ty = 0x0800 ∧ (frameField f (o + 2) 1 % 16 ≠ 5 ∨ frameField f (o + 8) 2 % 0x4000 ≠ 0) then .counted
  else if ty = 0x86DD ∧ isExtension (frameField f (o + 8) 1) then .counted
  else .ok

/-- A frame is CE-marked: both ECN bits of its IP header are set (R403, RFC 3168). -/
def frameCe (f : List Byte) : Bool :=
  let o := etherAt f
  let ty := frameField f o 2
  if ty = 0x0800 then decide (frameField f (o + 3) 1 % 4 = 3)
  else if ty = 0x86DD then decide (frameField f (o + 2) 2 / 16 % 4 = 3)
  else false

/-- A frame goes to the plinth controller: it is addressed to the port, or is broadcast, or goes to an IPv6
neighbour-discovery group (R404): all nodes, all routers, or a solicited node. -/
def State.forPlinth (s : State) (p : PortId) (f : List Byte) : Bool :=
  let d := f.take 6
  decide (d = s.portMac p) || d.all (· == 0xFF) || decide (d.take 3 = [0x33, 0x33, 0xFF]) ||
    decide (d = [0x33, 0x33, 0, 0, 0, 1]) || decide (d = [0x33, 0x33, 0, 0, 0, 2])

/-! ### UDP over IPv4 and IPv6 -/

/-- The sum of 16-bit words, carries added in; an odd byte at the end counts as the high one. -/
def inetSum : List Byte → Nat
  | a :: b :: l =>
    let v := inetSum l + 256 * a.toNat + b.toNat
    v % 65536 + v / 65536
  | [a] => 256 * a.toNat
  | [] => 0

/-- The checksum that makes the sum all ones; as UDP has it, never 0. -/
def inetCheck (bs : List Byte) : Nat := 65535 - inetSum bs
def udpCheck (bs : List Byte) : Nat := if inetCheck bs = 0 then 65535 else inetCheck bs

/-- A UDP datagram in a frame: its IP header, its UDP header, and what follows it. -/
structure Udp where
  v6 : Bool
  ip : List Byte
  hdr : List Byte
  body : List Byte
  deriving DecidableEq, Repr

def Udp.src (u : Udp) : List Byte := if u.v6 then (u.ip.drop 8).take 16 else (u.ip.drop 12).take 4
def Udp.dst (u : Udp) : List Byte := if u.v6 then (u.ip.drop 24).take 16 else (u.ip.drop 16).take 4
def Udp.dport (u : Udp) : Nat := frameField u.hdr 2 2

/-- The pseudo-header of the UDP checksum. -/
def pseudoHeader (v6 : Bool) (src dst : List Byte) (len : Nat) : List Byte :=
  src ++ dst ++ (if v6 then beBytes 4 len ++ [0, 0, 0, 17] else [0, 17] ++ beBytes 2 len)

/-- The UDP checksum is right; over IPv6 it must be there. -/
def Udp.sumOk (u : Udp) : Bool :=
  decide (inetSum (pseudoHeader u.v6 u.src u.dst (8 + u.body.length) ++ u.hdr ++ u.body) = 65535) &&
    decide (frameField u.hdr 6 2 ≠ 0)

/-- The UDP datagram of a frame, where it holds one: over IPv6 without extension headers, or IPv4 without options. -/
def udpOf (f : List Byte) : Option Udp :=
  let i := etherAt f + 2
  let ty := frameField f (etherAt f) 2
  let v6 := decide (ty = 0x86DD)
  let h := if v6 then 40 else 20
  let ip := (f.drop i).take h
  let len := if v6 then frameField ip 4 2 else frameField ip 2 2 - 20
  let u := (f.drop (i + h)).take len
  let n := frameField u 4 2
  let ok := if v6 then decide (frameField ip 0 1 / 16 = 6) && decide (frameField ip 6 1 = 17)
    else decide (ty = 0x0800) && decide (frameField ip 0 1 = 0x45) && decide (frameField ip 9 1 = 17) &&
      decide (frameField ip 6 2 % 0x4000 = 0) && decide (inetSum ip = 65535)
  if ok && decide (ip.length = h) && decide (u.length = len) && decide (8 ≤ n) && decide (n ≤ len) then
    some ⟨v6, ip, u.take 8, (u.take n).drop 8⟩
  else none

/-! ### Frames that leave -/

/-- The IP header of a packet that is sent. Hop limit, flow label, identification and the bit against fragments are open (log entry
107). -/
def ipHeader (p : QpPath) (len free : Nat) : List Byte :=
  let tc := p.tclass / 4 * 4 + (if p.ect then 2 else 0)
  if p.v6 then
    beBytes 4 (0x60000000 + tc * 1048576 + free % 1048576) ++ beBytes 2 len ++ [17, BitVec.ofNat 8 (free / 1048576)] ++ p.ownIp ++
      p.peerIp
  else
    let h (sum : Nat) : List Byte := beBytes 2 (0x4500 + tc) ++ beBytes 2 (20 + len) ++ beBytes 2 free ++
      beBytes 2 (if free.testBit 16 then 0x4000 else 0) ++ [BitVec.ofNat 8 (free / 1048576), 17] ++ beBytes 2 sum ++ p.ownIp ++ p.peerIp
    h (inetCheck (h 0))

/-- The Ethernet header: next hop, own address, the tag where there is one, the EtherType. -/
def etherHeader (mac : List Byte) (p : QpPath) : List Byte :=
  p.nextHop ++ mac ++ (match p.vlan with
    | some v => [0x81, 0x00] ++ beBytes 2 v
    | none => []) ++ (if p.v6 then [0x86, 0xDD] else [0x08, 0x00])

/-- The UDP header. -/
def udpHeader (p : QpPath) (dport : Nat) (body : List Byte) (sum : Bool) : List Byte :=
  let n := 8 + body.length
  let h (c : Nat) : List Byte := beBytes 2 p.udpSrc ++ beBytes 2 dport ++ beBytes 2 n ++ beBytes 2 c
  h (if sum then udpCheck (pseudoHeader p.v6 p.ownIp p.peerIp n ++ h 0 ++ body) else 0)

/-- A frame with an LCT header, ciphertext and tag (R419). -/
def lctFrame (mac : List Byte) (p : QpPath) (dport free : Nat) (body : List Byte) : List Byte :=
  etherHeader mac p ++ ipHeader p (8 + body.length) free ++ udpHeader p dport body true ++ body

/-! ### RoCEv2 (R406; the formats of IBTA, log entry 108) -/

/-- The base transport header: opcode, padding, P_Key, BECN in a CNP, queue pair, whether an acknowledgement is asked for, PSN. -/
def bthBytes (op pad pkey qp psn : Nat) (areq : Bool) : List Byte :=
  leBytes 1 op ++ leBytes 1 (16 * pad) ++ beBytes 2 pkey ++ [if op = 0x81 then 0x40 else 0] ++
    beBytes 3 qp ++ [if areq then 0x80 else 0] ++ beBytes 3 psn

/-- The ICRC: over the packet with the fields that a router may change as ones. -/
def icrcOf (v6 : Bool) (ip hdr body : List Byte) : List Byte :=
  let ip := if v6 then [(ip.getD 0 0) ||| 0x0F, 0xFF, 0xFF, 0xFF] ++ ((ip.drop 4).take 3) ++ [0xFF] ++ ip.drop 8
    else ip.take 1 ++ [0xFF] ++ ((ip.drop 2).take 6) ++ [0xFF] ++ ((ip.drop 9).take 1) ++ [0xFF, 0xFF] ++ ip.drop 12
  leBytes 4 (crc32 (toNats (List.replicate 8 0xFF ++ ip ++ hdr.take 6 ++ [0xFF, 0xFF] ++ body.take 4 ++ [0xFF] ++ body.drop 5)))

/-- A RoCEv2 packet: its payload is filled up to a multiple of four bytes. -/
def roceFrame (mac : List Byte) (p : QpPath) (free op psn : Nat) (areq : Bool) (payload : List Byte) : List Byte :=
  let pad := (4 - payload.length % 4) % 4
  let body := bthBytes op pad p.pkey p.peer psn areq ++ payload ++ List.replicate pad 0
  let ip := ipHeader p (12 + body.length) free
  let hdr := udpHeader p 4791 (body ++ List.replicate 4 0) false
  etherHeader mac p ++ ip ++ hdr ++ body ++ icrcOf p.v6 ip hdr body

/-- What a RoCEv2 packet is to its queue pair (R406): one packet of a SEND, with an immediate or not; an acknowledgement; a NAK,
fatal or for a sequence error; a request that is not supported; a CNP; or nothing that is acted on. -/
inductive RoceOp where
  | send (first last : Bool) (payload : List Byte)
  | ack
  | nak (invalid : Bool)
  | unsupported
  | cnp
  | other
  deriving DecidableEq, Repr

/-- What a packet is by its base transport header and what follows it. -/
def bthOp (b : List Byte) : RoceOp :=
  let pad := byteAt b 1 / 16 % 4
  let data (h : Nat) : List Byte := (b.take (b.length - pad)).drop h
  match byteAt b 0 with
  | 0x00 => .send true false (data 12)
  | 0x01 => .send false false (data 12)
  | 0x02 => .send false true (data 12)
  | 0x03 => .send false true (data 16)
  | 0x04 => .send true true (data 12)
  | 0x05 => .send true true (data 16)
  | 0x11 => match byteAt b 12 / 32 with
    | 0 => .ack
    | 3 => .nak (decide (byteAt b 12 % 32 ≠ 0))
    | _ => .other
  | 0x81 => .cnp
  | n => if (6 ≤ n ∧ n ≤ 12) ∨ n = 0x13 ∨ n = 0x14 ∨ n = 0x16 ∨ n = 0x17 then .unsupported else .other

/-- The queue pair, PSN and meaning of a RoCEv2 packet whose ICRC is right. -/
def roceOf (u : Udp) : Option (Nat × Nat × RoceOp) :=
  let b := u.body.take (u.body.length - 4)
  if u.body.length < 16 ∨ icrcOf u.v6 u.ip u.hdr b ≠ u.body.drop (u.body.length - 4) then none
  else some (frameField b 5 3, frameField b 9 3, bthOp b)

end Sys2Proof.Machine
end

