-- ==== Sys2Proof/Machine/NetQueue.lean ====
section
/-! DEFINITION. NetQueue: exchange groups (R408 to R411), network messages on their way out (R411 to R413, R433), and the
outcomes that end a red.* (R384 to R386). -/

namespace Sys2Proof.Machine

/-- A report of a network engine (R583). -/
def State.raiseNet (s : State) (x : IoDie) (code : BitVec 16) (port : Nat) (info : Option DWord) : State :=
  s.raiseWith (ioDie x) (plainReport code 0x10 (BitVec.ofNat 8 port) 0xF) info

/-- BAR0 offset of a register of a network block. -/
def nr (x : IoDie) (o : Nat) : Nat := (Blk.net x).base + o

/-! ### Partitions of the network (R38, R408) -/

/-- The partition of a course, by its compute die; 0 in whole-package mode. -/
def State.partOf (s : State) (g : Course) : Nat := if s.parted then g.val / 8 else 0

/-- The compute die whose partition holds port ETHn (R38). -/
def portDie (n : Nat) : Nat :=
  match n / 3 with
  | 0 => 0
  | 1 => 2
  | 2 => 1
  | _ => 3

def State.partOfPort (s : State) (n : Nat) : Nat := if s.parted then portDie n else 0

/-- A course lies in a partition, or in the package. -/
def State.inPart (s : State) (part c : Nat) : Bool := !s.parted || decide (c / 8 = part)

/-! ### Group descriptors (R408 to R410) -/

/-- Unpoisoned bytes of near memory at an address of a partition's map. -/
def State.readNear (s : State) (part a n : Nat) : Option (List Byte) :=
  match s.physOf part a with
  | some p => if s.nearOk p n && !s.dirty p n then some (s.bytes p n) else none
  | none => none

/-- A member entry of a group (R409). -/
structure Member where
  transport : Nat
  port : Nat
  nconn : Nat
  conn : Nat
  deriving DecidableEq, Repr

/-- The bytes of a group's descriptor, where the directory names one that is valid (R408, R409). -/
def State.groupDesc (s : State) (part group : Nat) : Option (List Byte) := do
  let base := (s.reg64 (nr 0 (if s.parted then 8 * part else 0))).toNat
  if group = 0 ∨ 256 ≤ group then none
  else
    let a := leNat (← s.readNear part (base + 8 * group) 8)
    if a = 0 ∨ a % 64 ≠ 0 then none
    else
      let head ← s.readNear part a 16
      let n := natAt head 0 2
      if n = 0 ∨ 4096 < n ∨ natAt head 4 12 ≠ 0 then none else s.readNear part a (16 + 16 * n)

/-- Own rank in a group. -/
def State.ownRank (s : State) (part group : Nat) : Option Nat := (s.groupDesc part group).map fun d => natAt d 2 2
def State.groupSize (s : State) (part group : Nat) : Nat := ((s.groupDesc part group).map fun d => natAt d 0 2).getD 0

/-- CHANNEL of a connection that is not CLOSED; 0 is DATA (R416, R418). -/
def Conn.channel (c : Conn) : Nat := natAt c.ctx 41 1

def Conn.closed : Conn :=
  { st := .closed, ctx := [], phase := false, held := false, ctl := [], seq := 0, pn := 0, unacked := [], probe := none, cum := 0
    srtt := 0, rttvar := 0, sampled := false, cwnd := 0, ssthresh := 0, cut := false, rxCum := 0, rxSet := []
    rxUnacked := 0, ceSeen := false, ceCount := 0, lastCtl := none, lostRaised := false, authRaised := false }

def NetState.conn (x : NetState) (c : Nat) : Conn := SMap.get x.conns c Conn.closed
def State.modConn (s : State) (x : IoDie) (c : Nat) (f : Conn → Conn) : State :=
  s.modNet x fun n => { n with conns := SMap.put n.conns c (f (n.conn c)) Conn.closed }

def Qp.closed : Qp :=
  ⟨.closed, ⟨false, [], [], [], none, 0, false, 0, 0, 0⟩, 0, 0, 1024, 0, 0, 0, 0, [], [], false⟩
def NetState.qp (x : NetState) (q : Nat) : Qp := SMap.get x.qps q Qp.closed
def State.modQp (s : State) (x : IoDie) (q : Nat) (f : Qp → Qp) : State :=
  s.modNet x fun n => { n with qps := SMap.put n.qps q (f (n.qp q)) Qp.closed }

/-- The entry of a rank, where the rank is a member of the group (R410). -/
def State.member (s : State) (part group rank : Nat) : Option Member :=
  match s.groupDesc part group with
  | none => none
  | some d =>
    let e := (d.drop (16 + 16 * rank)).take 16
    let m : Member := ⟨natAt e 0 1, natAt e 1 1, natAt e 2 2, natAt e 4 4⟩
    let self := decide (rank = natAt d 2 2)
    let data := (List.range m.nconn).all fun i => ((s.net (ioAt (m.port / 6))).conn (m.conn + i)).channel == 0
    let ok := decide (rank < natAt d 0 2) && decide (natAt e 12 4 = 0) && match m.transport with
      | 0 => self
      | 1 => !self && decide (m.port < 12) && decide (m.nconn = 1) && decide (m.conn < 8192) &&
          decide (s.partOfPort m.port = part)
      | 2 => !self && decide (m.port < 12) && decide (1 ≤ m.nconn) && decide (m.nconn ≤ 16) &&
          decide (m.conn + m.nconn ≤ 4096) && decide (s.partOfPort m.port = part) && data
      | _ => false
    if ok then some m else none

/-! ### Instructions of the RED queue end (R384, R386) -/

def CourseState.job (c : CourseState) (serial : Nat) : Option RedJob := c.jobs.find? fun j => j.serial == serial
def CourseState.modJob (c : CourseState) (serial : Nat) (f : RedJob → RedJob) : CourseState :=
  { c with jobs := c.jobs.map fun j => if j.serial = serial then f j else j }

/-- A fault of a started instruction of the RED queue (R398, R583). -/
def State.redFault (s : State) (g : Course) (serial : Nat) (code : BitVec 16) : State :=
  s.instrFault g 6 serial code 0x06 0x6 none

/-- RED_REFUSED (R384, R393): once for the instruction, with its flag and capture. -/
def State.redRefused (s : State) (g : Course) (serial : Nat) (code : BitVec 16) (remote first : Bool) : State :=
  if first then
    ((s.redFault g serial 0x0B03).orReg (cr g 0x3004) 2).capture1 (cr g 0x3010)
      (code.toNat + (if remote then 65536 else 0)) none 0
  else s

/-- Messages of an origin that still wait for their connection are given up. -/
def State.dropQueued (s : State) (o : MsgOrigin) : State :=
  (List.finRange 2).foldl (fun t x => t.modNet x fun n => { n with queue := n.queue.filter fun m => m.2.origin != o }) s

/-- A message ends unreachable (R433): its red.send or red.ring ends with RED_PEER_LOST (R386, R394). -/
def State.unreachable (s : State) (o : MsgOrigin) : State :=
  match o with
  | .red g n =>
    if ((s.course g).job n).isSome then
      let t := ((s.redFault g n 0x0B06).orReg (cr g 0x3004) 4).modCourse g fun c =>
        { c with jobs := c.jobs.filter fun j => j.serial != n }
      (t.instrDone g 6 n).dropQueued o
    else s
  | .ring g n =>
    match (s.course g).ring with
    | some r => if r.serial = n then
        let t := ((s.redFault g n 0x0B06).orReg (cr g 0x3004) 4).modCourse g fun c => { c with ring := none }
        (t.instrDone g 6 n).dropQueued o
      else s
    | none => s
  | _ => s

/-! ### What a message is formed from (R383, R390, R415) -/

/-- A contribution slot as it is sent (R383): every element poisoned where a byte of the slot lies in a poisoned line. -/
def State.slotBlock (s : State) (a : Nat) : List Byte :=
  let bs := s.bytes a 280
  if s.dirty a 280 then bwPoisoned bs else bs.take (bwLen bs)

/-- An accumulation block packed (R390), all of it poisoned where it is marked or read poisoned: its bytes, how many elements
escaped, and whether a lane left the 32-bit range. -/
def State.packedBlock (s : State) (a : Nat) (marked : Bool) : List Byte × Nat × Bool :=
  rabPack (rabRead (s.bytes a 416)) (marked || s.dirty a 416)

/-- An accumulation block as ALLGATHER copies it: unchanged, or poisoned where a line of it is read poisoned (R415). -/
def State.copiedBlock (s : State) (a : Nat) : List Byte :=
  let bs := s.bytes a 416
  if s.dirty a 416 then rabWrite { rabRead bs with poison := 2 ^ 64 - 1, lanes := List.replicate 64 0 } else bs

/-- Where the source's part of a body begins, and that part formed from the source as it is now. -/
def State.sourceOf (s : State) : MsgSrc → Option (Nat × List (List Byte))
  | .state => none
  | .slots l => some (20, l.map s.slotBlock)
  | .packs l => some (12, l.map fun x => (s.packedBlock x.1 x.2).1)
  | .copies l => some (12, l.map s.copiedBlock)
  | .record a => some (0, [s.bytes a 64])

/-- A message formed again from its source (R415). -/
def State.reform (s : State) (m : NetMsg) : NetMsg :=
  match s.sourceOf m.src with
  | none => m
  | some (n, bs) =>
    let body := ((m.bytes.drop 16).take n) ++ bs.flatten
    { m with bytes := m.bytes.take 4 ++ leBytes 2 (16 + body.length) ++ leBytes 2 0 ++ ((m.bytes.drop 8).take 8) ++ body }

/-! ### RoCEv2 packets (R406) -/

/-- Packets of a message over a queue pair: SEND of the path MTU, all packet positions (R406). -/
def packets (mtu : Nat) : Nat → List Byte → List (List Byte)
  | 0, _ => []
  | n + 1, bs => if bs.length ≤ mtu then [bs] else bs.take mtu :: packets mtu n (bs.drop mtu)

/-- A RoCEv2 packet of a queue pair leaves. -/
def State.roceOut (s : State) (x : IoDie) (q op psn : Nat) (areq : Bool) (payload : List Byte) (mk : List Byte → OutMsg) : State :=
  let p := (s.net x).qp q
  let port := portAt x p.port
  s.used.frameOut port (mk (roceFrame (s.portMac port) p.path s.fresh.toNat op psn areq payload))

/-- An acknowledgement, or a NAK: its AETH holds the kind and the messages received (R406; log entry 108). -/
def State.roceAnswer (s : State) (p : PortId) (x : IoDie) (q psn : Nat) (kind : AckKind) : State :=
  let syn : Byte := match kind with
    | .ack => 0x1F
    | .sequence => 0x60
    | .invalid => 0x61
  s.roceOut x q 0x11 psn false ([syn] ++ beBytes 3 ((s.net x).qp q).msn) fun f => .roceAck p q psn kind f

/-- Opcode of packet i of n of a SEND (R406). -/
def sendOp (i n : Nat) : Nat :=
  if n = 1 then 4 else if i = 0 then 0 else if i + 1 = n then 2 else 1

/-- The packets of a message leave from a PSN on. -/
def State.sendPackets (s : State) (x : IoDie) (q psn : Nat) (bs : List Byte) : State :=
  let p := (s.net x).qp q
  let ps := packets p.mtu 8 bs
  (List.range ps.length).foldl (fun t i =>
    let n := (psn + i) % 2 ^ 24
    t.roceOut x q (sendOp i ps.length) n (decide (i + 1 = ps.length)) (ps.getD i []) (.rocePacket (portAt x p.port) q n)) s

/-- A message goes out on an open queue pair. -/
def State.roceSend (s : State) (x : IoDie) (q : Nat) (m : NetMsg) : State :=
  let m := s.reform m
  let p := (s.net x).qp q
  let n := (packets p.mtu 8 m.bytes).length
  (s.sendPackets x q p.sendPsn m.bytes).modQp x q fun p =>
    { p with sendPsn := (p.sendPsn + n) % 2 ^ 24, unacked := p.unacked ++ [(p.sendPsn, n, m)] }

/-! ### Sending (R411, R412, R433) -/

/-- State of the connection that a code of the queue names. -/
def NetState.connSt (x : NetState) (via : Nat) : ConnState :=
  if via < 4096 then (x.conn via).st else (x.qp (via - 4096)).st

def Conn.maxSeg (c : Conn) : Nat := natAt c.ctx 46 2

/-- The largest message that a connection takes: MAXSEG while it is OPEN, 8,192 over RoCEv2 (R412). -/
def NetState.holds (x : NetState) (via : Nat) : Nat :=
  if via < 4096 ∧ (x.conn via).st = .opened then (x.conn via).maxSeg else 8192

/-- The connections of a rank, from the one whose turn it is on (R411). -/
def turnOrder (first n turn : Nat) : List Nat := (List.range n).map fun i => first + (turn + i) % n

/-- Key of a rank in the record of turns. -/
def rankKey (part group rank : Nat) : Nat := (part * 256 + group) * 4096 + rank

/-- Give a message to one of the connections of its rank that can take it, `not` excepted (R411, R412, R433; log entry 109): from the
unit that sends it to the engine of the connection's port, unless an edge on the way is down, which loses it (R516). A message to this
device itself is received by the engines of the partition's I/O die (log entry 23). -/
def State.netSend (s : State) (src : Node) (m : NetMsg) (not : Option Nat) : State :=
  match s.member m.part m.group m.rank with
  | none => s.unreachable m.origin
  | some e =>
    if e.transport = 0 then
      let x := ioAt (m.part % 2)
      if s.linked src (.net x) then s.modNet x fun n => { n with inbox := n.inbox ++ [⟨m.part, 0, m.bytes⟩] } else s
    else
      let x := ioAt (e.port / 6)
      let base := if e.transport = 1 then 4096 + e.conn else e.conn
      let key := rankKey m.part m.group m.rank
      let turn := SMap.get (s.net x).turn key 0
      match (turnOrder base e.nconn turn).find? fun v => decide ((s.net x).connSt v ≠ .failed) && decide (some v ≠ not) &&
          decide (m.bytes.length ≤ (s.net x).holds v) with
      | none => s.unreachable m.origin
      | some v =>
        if s.linked src (.net x) then
          let t := s.modNet x fun n => { n with turn := SMap.put n.turn key ((v - base + 1) % e.nconn) 0 }
          if 4096 ≤ v ∧ (s.net x).connSt v = .opened then t.roceSend x (v - 4096) m
          else t.modNet x fun n => { n with queue := n.queue ++ [(v, m)] }
        else s

/-- The header of a network message with its body (R412). -/
def netBytes (mtype group rank : Nat) (tag : DWord) (body : List Byte) : List Byte :=
  leBytes 1 mtype ++ leBytes 1 group ++ leBytes 2 rank ++ leBytes 2 (16 + body.length) ++ leBytes 2 0 ++
    leBytes 8 tag.toNat ++ body

/-- Send a message of a type to a rank of a group. -/
def State.netMessage (s : State) (src : Node) (part group rank mtype : Nat) (tag : DWord) (body : List Byte) (o : MsgOrigin)
    (source : MsgSrc) : State :=
  s.netSend src ⟨part, group, rank, netBytes mtype group ((s.ownRank part group).getD 0) tag body, o, source⟩ none

/-- Bytes of messages that the next connection of a rank takes: MAXSEG, or 8,192 over RoCEv2 (R412); for an LCT connection that is
not OPEN yet, the least that R416 allows. -/
def State.maxMessage (s : State) (part group rank : Nat) : Nat :=
  match s.member part group rank with
  | some e =>
    if e.transport = 2 then
      let x := ioAt (e.port / 6)
      match (turnOrder e.conn e.nconn (SMap.get (s.net x).turn (rankKey part group rank) 0)).find?
          fun v => decide ((s.net x).connSt v ≠ .failed) with
      | some v => if (s.net x).connSt v = .opened then ((s.net x).conn v).maxSeg else 1024
      | none => 1024
    else 8192
  | none => 1024

end Sys2Proof.Machine
end

