-- ==== Sys2Proof/Machine/Ring.lean ====
section
/-! DEFINITION. Ring: the steps of a red.ring (R388 to R395), and the outcomes of additions that reach their sender
(R384, R385, R413). -/

namespace Sys2Proof.Machine

/-! ### Chunks and steps (R389, R391) -/

/-- First block of chunk k. -/
def Ring.lo (r : Ring) (k : Nat) : Nat := k * r.blocks / r.r
/-- Blocks of chunk k. -/
def Ring.size (r : Ring) (k : Nat) : Nat := r.lo (k + 1) - r.lo k

/-- The chunk that the present step sends. -/
def Ring.sendChunk (r : Ring) : Nat := (r.pos + r.r + (if r.gather then 1 else 0) - r.step) % r.r

/-- The chunk that arrives with a step tag. -/
def Ring.chunkOf (r : Ring) (tag : Nat) : Nat :=
  if tag < r.r - 1 then (r.pos + r.r - tag - 1) % r.r else (r.pos + r.r - (tag - (r.r - 1))) % r.r

/-- The tag of the present step. -/
def Ring.tag (r : Ring) : Nat := if r.gather then r.r - 1 + r.step else r.step

/-- Tags that the ring still awaits: the present one, and the later ones of its phases. -/
def Ring.awaits (r : Ring) (tag : Nat) : Bool :=
  decide (r.tag ≤ tag) && decide (tag < (if r.gather || r.both then 2 * (r.r - 1) else r.r - 1)) &&
    (r.wait == .ready || r.wait == .chunk)

/-- Every block of the present step has arrived. -/
def Ring.received (r : Ring) : Bool :=
  let k := r.chunkOf r.tag
  (List.range (r.size k)).all fun i => r.got.contains (r.tag, r.lo k + i)

/-- The rank of a position. -/
def Ring.rank (r : Ring) (p : Nat) : Nat := r.ranks.getD (p % r.r) 0
def Ring.next (r : Ring) : Nat := r.rank (r.pos + 1)
def Ring.prev (r : Ring) : Nat := r.rank (r.pos + r.r - 1)

def State.modRing (s : State) (g : Course) (f : Ring → Ring) : State :=
  s.modCourse g fun c => { c with ring := c.ring.map f }

/-- The ring goes on as far as what has arrived lets it: at most `fuel` turns. -/
def State.ringAdvance (s : State) (g : Course) : Nat → State
  | 0 => s
  | fuel + 1 =>
    match (s.course g).ring with
    | none => s
    | some r =>
      match r.wait with
      | .initAdds => s
      | .ready => if r.readySeen then (s.modRing g fun r => { r with wait := .chunk, sent := 0 }).ringAdvance g fuel else s
      | .chunk =>
        if r.sent < r.size r.sendChunk ∨ !r.received then s
        else if r.step + 2 < r.r then (s.modRing g fun r => { r with step := r.step + 1, sent := 0 }).ringAdvance g fuel
        else if !r.gather && r.both then
          (s.modRing g fun r => { r with gather := true, step := 0, sent := 0 }).ringAdvance g fuel
        else (s.modRing g fun r => { r with wait := .finish }).ringAdvance g fuel
      | .finish =>
        if r.acks = 0 then (s.modCourse g fun c => { c with ring := none }).instrDone g 6 r.serial else s

/-- The first additions are done, or there are none (R391): READY, the first copies, or the end of a ring of one. -/
def State.ringBegin (s : State) (g : Course) : State :=
  match (s.course g).ring with
  | none => s
  | some r =>
    if r.r ≤ 1 then (s.modRing g fun r => { r with wait := .finish }).ringAdvance g 4
    else if r.gather then (s.modRing g fun r => { r with wait := .chunk, sent := 0 }).ringAdvance g 4
    else
      ((s.modRing g fun r => { r with wait := .ready }).netMessage (.course g) (s.partOf g) r.group r.prev 0x03 r.rseq
        (leBytes 2 r.pos ++ leBytes 6 0) (.ring g r.serial) .state).ringAdvance g 4

/-- A block of a step has its outcome or is written (R391, R393): a refused one is marked, and RED_REFUSED raised. -/
def State.ringGot (s : State) (g : Course) (tag b : Nat) (code : BitVec 16) : State :=
  match (s.course g).ring with
  | none => s
  | some r =>
    let t := if code = 0 then s else s.redRefused g r.serial code false (!r.refused)
    (t.modRing g fun r => { r with
      got := r.got ++ [(tag, b)], refused := r.refused || code != 0
      marked := if code = 0 then r.marked else r.marked ++ [b] }).ringAdvance g 4

/-! ### Outcomes at the sender (R384) -/

/-- A job has all its outcomes: its notice (R385), and the end of its instruction or the next part of its ring. -/
def State.jobDone (s : State) (g : Course) (j : RedJob) : State :=
  let t := s.modCourse g fun c => { c with jobs := c.jobs.filter fun i => i.serial != j.serial }
  match j.kind with
  | .send =>
    let t := if j.nen && j.peer.isNone then
        t.send (.course g) (.course (courseAt j.ncourse)) (.notice j.ntally j.refused)
      else t
    t.instrDone g 6 j.serial
  | .accum => t.instrDone g 6 j.serial
  | .ring =>
    match (t.course g).ring with
    | some r => if r.serial = j.serial then t.ringBegin g else t
    | none => t

/-- The outcome of one block of a red.send, a red.accum or the first additions of a ring; with it the block's bytes count as moved
by the remote share (R247, R281; log entry 106). -/
def State.redOutcome (s : State) (g : Course) (serial : Nat) (code : BitVec 16) (remote : Bool) : State :=
  match (s.course g).job serial with
  | none => s
  | some j =>
    let t := (s.countC g 0x3038 0x3018 1).countC g 0x2090 0x2080 (j.lens.headD 0)
    let t := if code = 0 then t else (t.countC g 0x3038 0x3020 1).redRefused g serial code remote (!j.refused)
    let j := { j with returned := j.returned + 1, refused := j.refused || code != 0, lens := j.lens.tail }
    let t := t.modCourse g fun c => c.modJob serial fun _ => j
    if j.returned = j.blocks then t.jobDone g j else t

/-- The outcome of one block that a ring has sent (R393, R395). -/
def State.ringOutcome (s : State) (g : Course) (code : BitVec 16) : State :=
  match (s.course g).ring with
  | none => s
  | some r =>
    let t := (s.countC g 0x3038 0x3018 1).countC g 0x2090 0x2080 (r.lens.headD 0)
    let t := if code = 0 then t else (t.countC g 0x3038 0x3020 1).redRefused g r.serial code true (!r.refused)
    (t.modRing g fun r => { r with acks := r.acks - 1, refused := r.refused || code != 0, lens := r.lens.tail }).ringAdvance g 4

/-- RA_OUTCOME_ARRIVE: the next outcome that a controller of this package returns. -/
def raOutcomeArrive (g : Course) (s : State) : State :=
  s.arrive (.course g) (fun b => match b with | .raOutcome .. => true | _ => false) fun t m =>
    match m.body with
    | .raOutcome _ serial code => t.redOutcome g serial code false
    | _ => t

/-! ### Outcomes at a receiving engine (R385, R413) -/

/-- The I/O die that holds a total, and the total: the messages of one red.send may come in at both dies (R385, R411, R413). -/
def State.totalAt (s : State) (mine : RaTotal → Bool) : Option (IoDie × RaTotal) :=
  (List.finRange 2).findSome? fun y => ((s.net y).totals.find? mine).map fun t => (y, t)

/-- The outcomes of a finished RA_BLOCKS message count toward its red.send; the last one sends the notice (R385). -/
def State.countTotal (s : State) (x : IoDie) (j : NetJob) : State :=
  let mine (t : RaTotal) : Bool := t.part == j.part && t.group == j.group && t.rank == j.rank && t.tag == j.tag
  match s.totalAt mine with
  | none => s
  | some (y, t) =>
    let bad := j.codes.any fun c => c != some 0
    let u := { t with counted := t.counted + j.codes.length, refused := t.refused || bad }
    let s := s.modNet y fun n => { n with totals := (n.totals.filter fun t => !mine t) ++ (if u.counted < u.total then [u] else []) }
    if u.total ≤ u.counted ∧ u.nen ∧ s.inPart u.part u.ncourse then
      s.send (.net x) (.course (courseAt u.ncourse)) (.notice u.ntally u.refused)
    else s

/-- Every block of a received message is decided: its RA_OUTCOME goes back (R413). -/
def State.netJobDone (s : State) (x : IoDie) (j : NetJob) : State :=
  let t := s.modNet x fun n => { n with jobs := n.jobs.filter fun b => b.id != j.id }
  let body := leBytes 1 j.atype ++ leBytes 1 j.codes.length ++ leBytes 2 0 ++ leBytes 4 j.first ++
    j.codes.flatMap fun c => leBytes 2 (c.getD 0).toNat
  (t.netMessage (.net x) j.part j.group j.rank 0x02 j.tag body .answer .state).countTotal x j

/-- The outcome of block i of a received message. -/
def State.netDecided (s : State) (x : IoDie) (id i : Nat) (code : BitVec 16) : State :=
  match (s.net x).jobs.find? fun j => j.id == id with
  | none => s
  | some j =>
    let j := { j with codes := j.codes.set i (some code) }
    let t := s.modNet x fun n => { n with jobs := n.jobs.map fun b => if b.id = id then j else b }
    let t := match j.ring with
      | some (g, tag) => t.ringGot g tag (j.first + i) code
      | none => t
    if j.codes.all Option.isSome then t.netJobDone x j else t

def execRaOutcomeArrive (g : Course) (s : State) : Out := .next (s.ifDie (courseDie g) (raOutcomeArrive g))

end Sys2Proof.Machine
end

