-- ==== Sys2Proof/Machine/Adder.lean ====
section
/-! DEFINITION. Adder: remote-accumulate requests at a near-memory controller and its adder ports (R323 to R326, R378,
R379). -/

namespace Sys2Proof.Machine

/-! ### Remote-accumulate requests (R323 to R325) -/

/-- The adder source of a course at a controller (R324). -/
def raSource (g : Course) (k : Stack) : Nat :=
  let d := g.val / 8
  let own := k.val / 2
  if d = own then g.val % 8 else if d < own then 8 + d else 7 + d

/-- The outcome of an addition goes back to who asked for it (R384). -/
def State.raOutcome (s : State) (k : Stack) (o : RaFrom) (code : BitVec 16) : State :=
  match o with
  | .instr g n => s.send (.mem k) (.course g) (.raOutcome g n code)
  | .net x id j => s.netDecided x id j code

/-- The first check of R325 that a request fails, or none. -/
def State.raCheck (s : State) (k : Stack) (r : RaReq) : Option (BitVec 16) :=
  if r.addr % 32 ≠ 0 ∨ stackOf r.addr ≠ k ∨ !s.nearOk r.addr 416 then some 0x0807
  else if !bwFlagsOk (byteAt r.blk 1) then some 0x0808
  else if s.tornAt r.addr 416 then some 0x0809
  else if s.anyPoison r.addr 416 then some 0x080A
  else none

/-- A request reaches a controller (R325): refused, or waiting for an adder port. -/
def State.raArrive (s : State) (k : Stack) (r : RaReq) : State :=
  match s.raCheck k r with
  | some code => ((s.count (mbase k) 0x68 0x50 1).raiseMem k code (some (BitVec.ofNat 64 r.addr))).raOutcome k r.origin code
  | none => (s.modMem k fun m => { m with raQueue := m.raQueue ++ [(r, s.stamp, 0)] }).tick

def raRequestArrive (k : Stack) (s : State) : State :=
  s.arrive (.mem k) (fun b => match b with | .raReq _ => true | _ => false) fun t m =>
    match m.body with
    | .raReq r => t.raArrive k r
    | _ => t

/-! ### The adder ports (R324, R484) -/

def MemState.holder (m : MemState) (r : Nat) : Bool := m.raPorts.any fun p => p.src == r

/-- A request waits for one that arrived before it and adds to the same block (R323). -/
def MemState.behind (m : MemState) (q : RaReq × Nat × Nat) : Bool :=
  m.raQueue.any fun e => e.1.addr == q.1.addr && decide (e.2.1 < q.2.1)

/-- The request that a source presents: its oldest (R476), once no earlier one adds to the same block (log entry 84). -/
def MemState.presents (m : MemState) (r : Nat) : Option (RaReq × Nat × Nat) :=
  match m.raQueue.find? fun q => q.1.src == r with
  | some q => if m.behind q then none else some q
  | none => none

/-- Grant the requests of the sources in order while a port is free (R484). -/
def State.grantPorts (s : State) (k : Stack) : List Nat → State
  | [] => s
  | r :: rs =>
    match (s.memc k).presents r with
    | none => s.grantPorts k rs
    | some (q, st, ph) =>
      if (s.memc k).raPorts.length < 4 then
        let t := s.modMem k fun m => { m with
          raQueue := m.raQueue.filter (fun e => e.2.1 != st), raPorts := m.raPorts ++ [q] }
        (t.recordGrant (mbase k) 0xF8 0x100 r (ph + 1)).grantPorts k rs
      else s

/-- The requests present in a phase. -/
def MemState.present (m : MemState) : List (RaReq × Nat × Nat) := (List.range 16).filterMap m.presents

/-- The requests of a phase that it leaves over wait. -/
def State.portsLeft (s : State) (k : Stack) (left : List (RaReq × Nat × Nat)) : State :=
  let t := s.countWaits (mbase k) 0xF8 0x100 ((left.filter fun q => q.2.2 == 0).map fun q => q.1.src)
  let age (q : RaReq × Nat × Nat) : RaReq × Nat × Nat :=
    if left.any (fun e => e.2.1 == q.2.1) then (q.1, q.2.1, q.2.2 + 1) else q
  t.modMem k fun m => { m with raQueue := m.raQueue.map age }

/-- An adder-port arbitration phase whose vote stands (R324, R484): the latched map is applied or refused, free ports are granted
by decreasing input number, and the requests left over wait. -/
def State.portPhase (s : State) (k : Stack) : State :=
  let m := s.memc k
  let (a, refused) := m.arb.phase m.holder
  let t := s.modMem k fun m => { m with arb := a }
  let t := if refused then
      (t.orReg (mr k 0xF0) 2).raiseWith (stackDie k) (plainReport 0x0E01 0x0D 0 0xF) none
    else t
  let t := t.grantPorts k a.order
  t.portsLeft k (m.present.filter fun p => (t.memc k).raQueue.any fun q => q.2.1 == p.2.1)

/-- An adder-port arbitration phase; `upset` as for a die's arbiter (R484, R499, R535). -/
def adderArbPhase (k : Stack) (upset : Option (Fin 3)) (s : State) : State :=
  let v := (s.memc k).arb.vote upset
  let t := s.modMem k fun m => { m with arb := v.1 }
  let t := if v.2.2 then t.failed ⟨k.val / 2, 0x0D, 1, 0, (upset.map (·.val)).getD 0 + 4 * (1 + k.val % 2)⟩ else t
  if v.2.1 then t.portPhase k else t.portsLeft k (t.memc k).present

/-- The addition of one granted request (R326, R378, R379): one indivisible read, add and write, its counts,
flags and reports, and its outcome. -/
def State.raAdd (s : State) (k : Stack) (r : RaReq) : State :=
  let old := if r.init then rabZero else rabRead (s.bytes r.addr 416)
  let w := bwRead r.blk
  let b := rabAdd old w
  let t := (s.storeP r.addr (rabWrite b) false).count (mbase k) 0x68 0x48 1
  let t := if b.exceeded && !old.exceeded then t.orReg (mr k 0x2000) 4 else t
  let t := if rabMismatch old w then
      let u := (t.orReg (mr k 0x2000) 1).count (mbase k) 0x2038 0x2030 1
      let u := u.capture1 (mr k 0x2018) (old.exp + 256 * w.exp) (some (mr k 0x2010)) r.addr
      if old.poison = 2 ^ 64 - 1 then u else u.raiseMem k 0x0B04 none
    else t
  t.raOutcome k r.origin 0

/-- A granted port adds (R323). Requests for one block are granted, and so added, in the order in which they arrived. -/
def raAddPort (k : Stack) (port : Fin 4) (s : State) : State :=
  let m := s.memc k
  match m.raPorts[port.val]? with
  | none => s
  | some r =>
    if (m.raPorts.take port.val).any fun q => q.addr == r.addr then s
    else (s.raAdd k r).modMem k fun m => { m with raPorts := m.raPorts.eraseIdx port.val }

/-- The number, age and presence of the oldest waiting request (R481, R490, R492). -/
def MemState.oldest (m : MemState) : Option (RaReq × Nat × Nat) :=
  m.present.foldl (fun acc q => match acc with
    | some b => if q.2.1 < b.2.1 then some q else some b
    | none => some q) none

/-- MEM_RA_ARB_STATUS without REFUSED (R492). -/
def MemState.arbStatus (m : MemState) : Nat :=
  (if m.arb.latched.isSome then 1 else 0) + 4 * m.arb.deferred +
    (match m.oldest with
      | some q => 0x40000 * q.1.src + 0x400000
      | none => 0)

/-! ### The commands -/

def execRaRequestArrive (k : Stack) (s : State) : Out := .next (raRequestArrive k s)
def execAdderArbPhase (k : Stack × Option (Fin 3)) (s : State) : Out := .next (s.ifDie (stackDie k.1) (adderArbPhase k.1 k.2))
def execRaAdd (k : Stack) (port : Fin 4) (s : State) : Out := .next (s.ifDie (stackDie k) (raAddPort k port))

end Sys2Proof.Machine
end

