-- ==== Sys2Proof/Machine/Mbox.lean ====
section
/-! DEFINITION. Mbox: the plinth mailbox (R404, R418, R556, R557). -/

namespace Sys2Proof.Machine

/-- A report of the plinth controller (R583). -/
def State.raiseBoot (s : State) (code : BitVec 16) (info : Option DWord) : State :=
  s.raiseWith 4 (plainReport code 0x12 0 0xF) info

/-- Slots of a ring, by its control register (R556). -/
def State.mboxSize (s : State) (ctrl : Nat) : Nat := 2 ^ (4 + (s.reg (pr ctrl)).toNat / 2 % 8)

/-- A write of BOOT_MBOX_RX_CTRL or BOOT_MBOX_TX_CTRL (R556, R559): an EN write needs a base aligned to 64 bytes, a ring that
lies wholly in near memory, and a SIZE that is not reserved. -/
def State.wrMbox (s : State) (rx : Bool) (v : Word) : State :=
  let ctrl := if rx then 0x208 else 0x228
  let base := (s.reg64 (pr (if rx then 0x200 else 0x220))).toNat
  let size := v.toNat / 2 % 8
  let keep := 2 * size + (if rx && v.getLsbD 5 then 32 else 0)
  if v.getLsbD 0 then
    if size < 7 ∧ base % 64 = 0 ∧ s.nearOk base (10240 * 2 ^ (4 + size)) then s.setReg (pr ctrl) (BitVec.ofNat 32 (keep + 1))
    else s.setReg (pr ctrl) (BitVec.ofNat 32 (keep + 16))
  else s.setReg (pr ctrl) (BitVec.ofNat 32 keep ||| (s.reg (pr ctrl) &&& 16))

/-- Free slots of the receive ring; none while EN is 0. -/
def State.mboxRoom (s : State) : Nat :=
  if (s.reg (pr 0x208)).getLsbD 0 then s.mboxSize 0x208 - (s.reg (pr 0x210) - s.reg (pr 0x20C)).toNat else 0

/-- Fill the next slot of the receive ring: source 135 of R555. -/
def State.mboxPut (s : State) (kind port conn : Nat) (payload : List Byte) : State :=
  let tail := s.reg (pr 0x210)
  let a := (s.reg64 (pr 0x200)).toNat + 10240 * (tail.toNat % s.mboxSize 0x208)
  let bs := leBytes 1 kind ++ leBytes 1 port ++ leBytes 2 conn ++ leBytes 2 payload.length ++ leBytes 10 0 ++ payload
  let t := if s.nearOk a 10240 then s.store a bs else s
  (t.setReg (pr 0x210) (tail + 1)).irqPf 135

/-- A frame or slot is dropped: counted, and BOOT_MBOX_DROP raised, at most once per 2^24 FAB cycles (R556). When that time
has passed is left open. -/
def State.mboxDrop (s : State) : State :=
  let t := s.count Blk.pkg.base 0x250 0x248 1
  if t.boot.dropRaised then
    let u := t.used
    if t.fresh.getLsbD 0 then u.raiseBoot 0x100B none else u
  else { t with boot := { t.boot with dropRaised := true } }.raiseBoot 0x100B none

/-! ### PRIV payloads (R418, R556) -/

/-- Where a payload of a MANIFEST connection goes: a range that lies wholly in one FAR_PROT window. -/
def State.manifestAt (s : State) (payload : List Byte) : Option Nat :=
  if (s.reg (pr 0x208)).getLsbD 5 ∧ 8 ≤ payload.length then
    let a := (s.reg64 (pr 0x240)).toNat + natAt payload 0 8
    match regionOf a with
    | .far l =>
      match s.farRegion l a with
      | some i =>
        let last := (s.reg64 (fr l (0x208 + 0x20 * i.val))).toNat + 0x200000
        if (s.reg (fr l (0x210 + 0x20 * i.val))).getLsbD 2 ∧ a + payload.length ≤ last ∧ s.farOk a payload.length then some a
        else none
      | none => none
    | _ => none
  else none

/-- The payload of a PRIV message. -/
def privPayload (m : RxMsg) : List Byte := m.bytes.drop 16

/-- Address of the payload's manifest window, where it takes one: only on a MANIFEST connection. -/
def State.privTarget (s : State) (x : IoDie) (conn : Nat) (payload : List Byte) : Option Nat :=
  if ((s.net x).conn conn).channel = 3 then s.manifestAt payload else none

/-- PRIV payloads that wait for a slot of the receive ring. -/
def State.privWaiting (s : State) : Nat :=
  ((List.finRange 2).map fun x => ((s.net x).inbox.filter fun m =>
    byteAt m.bytes 0 == 7 && (s.privTarget x m.conn (privPayload m)).isNone).length).sum

/-- PRIV: the next payload goes to the ring, or to its manifest window as the network write that R339 admits. -/
def privReceive (x : IoDie) (s : State) : State :=
  match (s.net x).inbox.find? fun m => byteAt m.bytes 0 == 7 with
  | none => s
  | some m =>
    let t := s.modNet x fun n => { n with inbox := n.inbox.erase m }
    match s.privTarget x m.conn (privPayload m) with
    | some a => t.writeAny a (privPayload m) false true
    | none =>
      if !t.linked (.net x) (.net 0) then t
      else if 0 < t.mboxRoom then t.mboxPut 2 0 (m.conn + (if x.val = 1 then 32768 else 0)) (privPayload m) else s

/-! ### The transmit ring (R557) -/

/-- PRIV payloads that the plinth controller holds unacknowledged. -/
def State.privHeld (s : State) : Nat :=
  ((List.finRange 2).map fun x =>
    ((s.net x).queue.filter fun m => m.2.origin == .plinth).length +
      ((s.net x).conns.map fun c => (c.2.unacked.filter fun g => (g.msg.map (·.origin)) == some MsgOrigin.plinth).length).sum).sum

/-- MBOX_TX_SEND: the next slot of the transmit ring is sent, or skipped. A payload that MAXSEG does not admit is skipped like one whose
connection is absent (R412; log entry 109); one for a FAILED connection ends unreachable at once (R433). -/
def mboxTxSend (s : State) : State :=
  let head := s.reg (pr 0x22C)
  if !(s.reg (pr 0x228)).getLsbD 0 || head == s.reg (pr 0x230) || decide (64 ≤ s.privHeld) then s
  else
    let a := (s.reg64 (pr 0x220)).toNat + 10240 * (head.toNat % s.mboxSize 0x228)
    let slot := s.bytes a 10240
    let len := natAt slot 4 2
    let t := s.setReg (pr 0x22C) (head + 1)
    let port := byteAt slot 1
    let conn := natAt slot 2 2
    let x := ioAt (conn / 32768)
    let c := conn % 4096
    if !s.nearOk a 10240 then t.mboxDrop
    else if byteAt slot 0 = 1 ∧ port < 12 then
      let p := portAt (ioAt (port / 6)) (port % 6)
      t.frameOut p (.plinthFrame p ((slot.drop 16).take (min len 9216)))
    else
      let k := (s.net x).conn c
      if byteAt slot 0 = 2 ∧ k.st ≠ .closed ∧ k.channel ≠ 0 ∧ 16 + len ≤ k.maxSeg then
        let part := s.partOfPort (6 * x.val + natAt k.ctx 40 1)
        let m : NetMsg := ⟨part, 0, 0, netBytes 0x07 0 0xFFFF 0 ((slot.drop 16).take len), .plinth, .state⟩
        if k.st = .failed ∨ !s.linked (.net 0) (.net x) then t
        else t.modNet x fun n => { n with queue := n.queue ++ [(c, m)] }
      else t.mboxDrop

def execPriv (x : IoDie) (s : State) : Out := .next (s.ifDie (ioDie x) (privReceive x))
def execMboxTxSend (s : State) : Out := .next (s.ifDie 4 mboxTxSend)

end Sys2Proof.Machine
end

