-- ==== Sys2Proof/Machine/Lct.lean ====
section
/-! DEFINITION. Lct: network messages as they arrive (R412 to R414), and the long-course transport (R416 to R433). -/

namespace Sys2Proof.Machine

/-! ### Checks of received messages (R414) -/

/-- Bodies of blocks packed one after another: `n` of them take exactly the bytes given. -/
def blocksFit : Nat → List Byte → Bool
  | 0, bs => bs.isEmpty
  | n + 1, bs => decide (152 ≤ bs.length) && decide (bwLen bs ≤ bs.length) && blocksFit n (bs.drop (bwLen bs))

/-- The body of a message of a type is well formed (R413). -/
def bodyOk (mtype : Nat) (b : List Byte) : Bool :=
  match mtype with
  | 1 => decide (20 ≤ b.length) && decide (byteAt b 6 / 32 % 4 = 0) && decide (1 ≤ byteAt b 16) && decide (byteAt b 16 ≤ 29) &&
      zeroAt3 b 17 && blocksFit (byteAt b 16) (b.drop 20)
  | 2 => decide (8 ≤ b.length) && decide (natAt b 2 2 = 0) && decide (b.length = 8 + 2 * byteAt b 1)
  | 3 => decide (b.length = 8) && decide (natAt b 2 6 = 0)
  | 4 => decide (12 ≤ b.length) && decide (1 ≤ byteAt b 8) && decide (byteAt b 8 ≤ 29) && zeroAt3 b 9 &&
      blocksFit (byteAt b 8) (b.drop 12)
  | 5 => decide (1 ≤ byteAt b 8) && decide (byteAt b 8 ≤ 19) && zeroAt3 b 9 && decide (b.length = 12 + 416 * byteAt b 8)
  | 6 => decide (b.length = 64) && decide (byteAt b 50 < 64) && decide (byteAt b 51 = 0) && decide (natAt b 60 4 = 0)
  | 7 => true
  | _ => false
where
  /-- Three reserved bytes. -/
  zeroAt3 (b : List Byte) (i : Nat) : Bool := decide (natAt b i 3 = 0)

/-- A message may be applied: it is well formed, its group is configured, and its sender is a member. PRIV messages come on
privileged channels only, and nothing else does (R418). -/
def State.messageOk (s : State) (part : Nat) (privileged : Bool) (m : List Byte) : Bool :=
  let ty := byteAt m 0
  let group := byteAt m 1
  let rank := natAt m 2 2
  decide (16 ≤ m.length) && decide (natAt m 4 2 = m.length) && decide (natAt m 6 2 = 0) && bodyOk ty (m.drop 16) &&
    (privileged == decide (ty = 7)) &&
    (if ty = 7 then decide (rank = 0xFFFF) && decide (natAt m 8 8 = 0)
     else (s.groupDesc part group).isSome && (s.member part group rank).isSome)

/-- A message is discarded (R414). -/
def State.netDiscard (s : State) (x : IoDie) (port : Nat) : State :=
  (s.count (Blk.net x).base 0xD0 0xC8 1).raiseNet x 0x0C08 port none

/-- What tells one message of a partition from another, so that each is applied once (R414): its type, group, sender and TAG, and what
names its part of a request. The data of its blocks does not count, which a retransmission may form with poison (R415; log entry
109). -/
def messageKey (m : List Byte) : List Byte :=
  let n := match byteAt m 0 with
    | 1 => 20
    | 4 => 12
    | 5 => 12
    | _ => m.length
  m.take 4 ++ (m.drop 8).take (8 + n)

/-- A message is received over connection `conn`: applied once whatever the number of its copies, which two connections of a
rank may bring. A PRIV message has one connection, on which a segment is delivered once. -/
def State.netMessageIn (s : State) (x : IoDie) (port part conn : Nat) (privileged : Bool) (m : List Byte) : State :=
  if !s.messageOk part privileged m then s.netDiscard x port
  else if privileged then s.modNet x fun n => { n with inbox := n.inbox ++ [⟨part, conn, m⟩] }
  else if (List.finRange 2).any fun y => (s.net y).applied.contains (part, messageKey m) then s
  else s.modNet x fun n => { n with inbox := n.inbox ++ [⟨part, conn, m⟩], applied := n.applied ++ [(part, messageKey m)] }

/-- The messages of a segment: cut by MLEN; what no length cuts is one malformed message. -/
def splitMessages : Nat → List Byte → List (List Byte)
  | 0, _ => []
  | n + 1, bs =>
    if bs = [] then []
    else
      let len := natAt bs 4 2
      if len < 16 ∨ bs.length < len then [bs] else bs.take len :: splitMessages n (bs.drop len)

/-! ### Contexts (R416) -/

def Conn.port (c : Conn) : Nat := natAt c.ctx 40 1
def Conn.peer (c : Conn) : Nat := natAt c.ctx 36 4
def Conn.compress (c : Conn) : Bool := byteAt c.ctx 42 % 2 == 1
/-- WINDOW in bytes, and in 1 KiB segments (R425, R432). -/
def Conn.window (c : Conn) : Nat := natAt c.ctx 48 4 * 65536
def Conn.segs (c : Conn) : Nat := natAt c.ctx 48 4 * 64

/-- An IPv6 unicast address: neither multicast nor unspecified. -/
def unicast (b : List Byte) : Bool := decide (byteAt b 0 ≠ 0xFF) && b.any (· != 0)

/-- A context that meets R416. -/
def ctxOk (b : List Byte) : Bool :=
  let flags := byteAt b 42
  let seg := natAt b 46 2
  let win := natAt b 48 4
  unicast (b.take 16) && unicast ((b.drop 16).take 16) && decide (natAt b 34 2 = 0) && decide (natAt b 36 4 < 4096) &&
    decide (byteAt b 40 < 6) && decide (byteAt b 41 < 4) && decide (flags < 8) &&
    (decide (flags % 2 = 0) || decide (byteAt b 41 = 0)) && decide (byteAt b 43 % 4 = 0) &&
    decide (1024 ≤ seg) && decide (seg ≤ 8192) && decide (seg % 64 = 0) && decide (1 ≤ win) && decide (win ≤ 16384) &&
    decide (1 ≤ natAt b 52 4) && decide (natAt b 52 4 ≤ win) && decide (1 ≤ natAt b 56 4) && decide (natAt b 56 4 ≤ 2 ^ 31) &&
    (b.drop 66).all (· == 0)

/-- Bytes in flight (R432). -/
def Conn.inflight (c : Conn) : Nat := (c.unacked.map fun g => g.plain.length).sum

/-! ### Keys (R423) -/

def keyAt (c dir phase : Nat) : Nat := 4 * c + 2 * dir + phase
def phaseNum (b : Bool) : Nat := if b then 1 else 0
def NetState.key (n : NetState) (c dir phase : Nat) : Option NetKey := SMap.get n.keys (keyAt c dir phase) none
def State.setKey (s : State) (x : IoDie) (c dir phase : Nat) (k : Option NetKey) : State :=
  s.modNet x fun n => { n with keys := SMap.put n.keys (keyAt c dir phase) k none }

/-! ### Frames (R419 to R422) -/

/-- The LCT header. -/
def lctHeader (type : Nat) (kphase bamong ece : Bool) (plen dconn pn seq ulen : Nat) : List Byte :=
  leBytes 1 (1 + 16 * type) ++ leBytes 1 (phaseNum kphase + 2 * phaseNum bamong + 4 * phaseNum ece) ++ leBytes 2 plen ++
    leBytes 4 dconn ++ leBytes 8 pn ++ leBytes 8 seq ++ leBytes 2 ulen ++ leBytes 6 0

/-- The IV of a packet number (R422). -/
def lctIv (k : NetKey) (pn : Nat) : List Nat := toNats k.salt ++ natLe 8 pn

/-- Header, ciphertext and tag. -/
def sealFrame (k : NetKey) (pn : Nat) (hdr plain : List Byte) : List Byte :=
  let ct := gcmCrypt (toNats k.key) (lctIv k pn) (toNats plain)
  hdr ++ ofNats ct ++ ofNats (gcmTag (toNats k.key) (lctIv k pn) (toNats hdr) ct)

/-- The plaintext of a frame whose tag verifies. -/
def openFrame (k : NetKey) (frame : List Byte) : Option (List Byte) :=
  let hdr := frame.take 32
  let n := frame.length - 48
  let ct := toNats ((frame.drop 32).take n)
  let iv := lctIv k (natAt hdr 8 8)
  if frame.length < 48 then none
  else if ofNats (gcmTag (toNats k.key) iv (toNats hdr) ct) = frame.drop (32 + n) then
    some (ofNats (gcmCrypt (toNats k.key) iv ct))
  else none

/-- The path of a connection's frames, by its context (R416, R419). -/
def Conn.path (k : Conn) (c : Nat) : QpPath :=
  let b := k.ctx
  { v6 := true, ownIp := b.take 16, peerIp := (b.drop 16).take 16, nextHop := (b.drop 60).take 6
    vlan := if (byteAt b 42).testBit 2 then some (natAt b 44 2) else none, tclass := byteAt b 43, ect := (byteAt b 42).testBit 1
    udpSrc := natAt b 32 2 ^^^ (c % 4096), pkey := 0, peer := k.peer }

/-- Send a frame of a connection under the TX key of its phase, with the next PN (R422, R424), and tell whether it is formed. It is
not without a key or with its port off. A key that has sent 2^48 frames holds the connection; the control frames that are formed then
wait for a SWITCH. -/
def State.lctSend (s : State) (x : IoDie) (c type : Nat) (bamong ece : Bool) (seq ulen : Nat) (plain : List Byte) :
    State × Bool :=
  let k := (s.net x).conn c
  let p := portAt x k.port
  let hold (t : State) : State × Bool :=
    if type = 1 then (t, false) else (t.modConn x c fun k => { k with ctl := k.ctl ++ [⟨type, ece, plain⟩] }, true)
  if k.held then hold s
  else match (s.net x).key c 0 (phaseNum k.phase) with
  | none => (s, false)
  | some key =>
    if 2 ^ 48 ≤ key.used then hold ((s.modConn x c fun k => { k with held := true }).raiseNet x 0x0C07 k.port none)
    else if !(s.ports.get p).up then (s, false)
    else
      let hdr := lctHeader type k.phase bamong ece plain.length k.peer k.pn seq ulen
      let t := s.used.frameOut p (.lctFrame p c (lctFrame (s.portMac p) (k.path c) (natAt k.ctx 32 2) s.fresh.toNat
        (sealFrame key k.pn hdr plain)))
      let t := t.setKey x c 0 (phaseNum k.phase) (some { key with used := key.used + 1 })
      let t := if type = 3 then t.count (Blk.net x).base 0xD0 0xC0 1 else t
      (t.modConn x c fun k => { k with pn := k.pn + 1 }, true)

/-- The connection can send: OPEN, not held, and its port is up. -/
def State.connReady (s : State) (x : IoDie) (c : Nat) : Bool :=
  let k := (s.net x).conn c
  decide (k.st = .opened) && !k.held && (s.ports.get (portAt x k.port)).up

/-! ### Segments (R426, R430, R432) -/

/-- BLEN of the network encoders (R294, R437): 0 acts as 64, and so does a value outside 16 to 64 (log entry 110). -/
def State.netBlen (s : State) (x : IoDie) : Nat :=
  let v := (s.reg (nr x 0x54)).toNat / 512 % 128
  64 * (if 16 ≤ v ∧ v ≤ 64 then v else 64)

/-- The bytes a segment is sent as: encoded under R294 on a connection with COMPRESS, but for UPD_RECORD and PRIV; whether it is
encoded, and how many of its pieces failed their check (R295). `upset` names the pieces whose encoder went wrong. -/
def State.lctEncode (s : State) (x : IoDie) (k : Conn) (upset : List Nat) (plain : List Byte) : List Byte × Bool × Nat :=
  let ty := byteAt plain 0
  if k.compress ∧ ty ≠ 6 ∧ ty ≠ 7 then
    let v := s.reg (nr x 0x54)
    let bs := (pieces (s.netBlen x) plain.length plain).zipIdx.map fun p =>
      encodePiece (v.getLsbD 6) (v.getLsbD 7) (v.getLsbD 8) (upset.contains p.2) p.1
    (bs.flatMap (·.1), true, (bs.filter (·.2)).length)
  else (plain, false, 0)

/-- Transmit a segment, for the first time or again. -/
def State.lctSegment (s : State) (x : IoDie) (c seq : Nat) (plain : List Byte) (upset : List Nat) : State × Bool :=
  let k := (s.net x).conn c
  let e := s.lctEncode x k upset plain
  let r := s.lctSend x c 1 e.2.1 false seq plain.length e.1
  if r.2 then ((List.range e.2.2).foldl (fun t _ => t.raiseNet x 0x0708 k.port none) r.1, true) else r

/-- One more retransmission (R437). -/
def State.countResend (s : State) (x : IoDie) : State := s.count (Blk.net x).base 0xD0 0xB8 1

/-- A lost segment is sent again, with a new PN, formed again from its source (R415, R430). -/
def State.lctResend (s : State) (x : IoDie) (c : Nat) (g : Seg) (upset : List Nat) : State :=
  let pn := ((s.net x).conn c).pn
  let msg := g.msg.map s.reform
  let plain := (msg.map (·.bytes)).getD g.plain
  let r := s.lctSegment x c g.seq plain upset
  if r.2 then
    (r.1.modConn x c fun k => { k with unacked := k.unacked.map fun h =>
      if h.seq = g.seq then { h with pn := pn, msg := msg, plain := plain, sends := h.sends + 1, lost := false, passed := [] } else h
      }).countResend x
  else r.1

/-- The first message that waits for a connection, and the others. -/
def takeQueued (via : Nat) : List (Nat × NetMsg) → Option (NetMsg × List (Nat × NetMsg))
  | [] => none
  | m :: ms => if m.1 = via then some (m.2, ms) else (takeQueued via ms).map fun r => (r.1, m :: r.2)

/-- Messages that a connection can bring no further go to another connection of their rank, or end unreachable (R433). -/
def State.reroute (s : State) (x : IoDie) (via : Nat) (ms : List NetMsg) : State :=
  ms.foldl (fun t m => t.netSend (.net x) m (some via)) s

/-- LCT_SEGMENT_SEND: a lost segment goes out again, or the next message in a new segment, where the window allows (R432). A message
that MAXSEG does not admit goes to another connection (R412; log entry 109). `upset` names the pieces whose encoder goes wrong. -/
def lctSegmentSend (x : IoDie) (c : Nat) (upset : List Nat) (s : State) : State :=
  if !s.connReady x c then s
  else
    let k := (s.net x).conn c
    match k.unacked.find? (·.lost) with
    | some g => s.lctResend x c g upset
    | none =>
      match takeQueued c (s.net x).queue with
      | none => s
      | some (m, rest) =>
        let m := s.reform m
        if k.maxSeg < m.bytes.length then (s.modNet x fun n => { n with queue := rest }).reroute x c [m]
        else if min k.cwnd k.window < k.inflight + m.bytes.length ∨ k.cum + k.segs ≤ k.seq then s
        else
          let r := s.lctSegment x c k.seq m.bytes upset
          if r.2 then
            (r.1.modNet x fun n => { n with queue := rest }).modConn x c fun j => { j with
              seq := j.seq + 1, unacked := j.unacked ++ [⟨k.seq, k.pn, some m, m.bytes, 1, [], false⟩] }
          else r.1

/-! ### Failed and closed connections (R405, R417, R433) -/

/-- What an LCT connection has not had acknowledged, or not sent, is given up. -/
def State.dropConn (s : State) (x : IoDie) (c : Nat) (st : ConnState) : State :=
  let k := (s.net x).conn c
  let ms := (k.unacked.filterMap (·.msg)) ++ ((s.net x).queue.filter fun m => m.1 == c).map (·.2)
  let t := s.modConn x c fun k => if st = .closed then Conn.closed else { k with st := st, unacked := [], probe := none, ctl := [] }
  (t.modNet x fun n => { n with queue := n.queue.filter fun m => m.1 != c }).reroute x c ms

/-- A connection becomes FAILED (R433): NET_PEER_LOST, once for the connection. -/
def State.failConn (s : State) (x : IoDie) (c : Nat) : State :=
  let k := (s.net x).conn c
  if k.st ≠ .opened then s
  else
    let t := if k.lostRaised then s else (s.raiseNet x 0x0C04 k.port none).modConn x c fun k => { k with lostRaised := true }
    t.dropConn x c .failed

def State.dropQp (s : State) (x : IoDie) (q : Nat) (st : ConnState) : State :=
  let p := (s.net x).qp q
  let ms := (p.unacked.map (·.2.2)) ++ ((s.net x).queue.filter fun m => m.1 == 4096 + q).map (·.2)
  let t := s.modQp x q fun p => if st = .closed then Qp.closed else { p with st := st, unacked := [], partialMsg := [] }
  (t.modNet x fun n => { n with queue := n.queue.filter fun m => m.1 != 4096 + q }).reroute x (4096 + q) ms

def State.failQp (s : State) (x : IoDie) (q : Nat) : State :=
  let p := (s.net x).qp q
  if p.st ≠ .opened then s
  else
    let t := if p.lostRaised then s else (s.raiseNet x 0x0C04 p.port none).modQp x q fun p => { p with lostRaised := true }
    t.dropQp x q .failed

/-! ### Control frames (R421, R425, R428) -/

/-- A CUM and its delivered ranges above it: START and LEN of each run of a rising list. -/
def sackRanges (cum : Nat) : List Nat → List (Nat × Nat)
  | [] => []
  | q :: qs =>
    match sackRanges cum qs with
    | (a, n) :: r => if a = q - cum + 1 then (q - cum, n + 1) :: r else (q - cum, 1) :: (a, n) :: r
    | [] => [(q - cum, 1)]

/-- The plaintext of a SACK (R421): CUM, CE_COUNT and at most 32 ranges. -/
def Conn.sackPlain (k : Conn) : List Byte :=
  let rs := (sackRanges k.rxCum k.rxSet).take 32
  leBytes 8 k.rxCum ++ leBytes 4 k.ceCount ++ leBytes 2 rs.length ++ leBytes 2 0 ++
    rs.flatMap fun r => leBytes 4 r.1 ++ leBytes 4 r.2

/-- Send a SACK (R428). -/
def State.sendSack (s : State) (x : IoDie) (c : Nat) : State :=
  let k := (s.net x).conn c
  let r := s.lctSend x c 2 false k.ceSeen 0 0 k.sackPlain
  if r.2 then r.1.modConn x c fun k => { k with rxUnacked := 0, ceSeen := false, ceCount := 0 } else r.1

/-- The plaintext of a NACK (R421). -/
def nackPlain (seq : Nat) (code : BitVec 16) : List Byte := leBytes 8 seq ++ leBytes 2 code.toNat ++ leBytes 6 0

/-- Send a NACK (R427). -/
def State.sendNack (s : State) (x : IoDie) (c seq : Nat) (code : BitVec 16) : State :=
  (s.lctSend x c 3 false false 0 0 (nackPlain seq code)).1

/-! ### Receiving (R404, R422, R424, R425) -/

/-- A frame whose tag fails or that has no key (R424). Whether NET_AUTH is due again is open once it has been raised. -/
def State.authFail (s : State) (x : IoDie) (c : Nat) : State :=
  let k := (s.net x).conn c
  let t := s.count (Blk.net x).base 0xD0 0xB0 1
  if k.authRaised then
    let u := t.used
    if t.fresh.getLsbD 0 then u.raiseNet x 0x0C03 k.port none else u
  else (t.modConn x c fun k => { k with authRaised := true }).raiseNet x 0x0C03 k.port none

/-- What a frame that arrives is for: nothing, where it is discarded or dropped; the plinth controller; an LCT connection, with the
LCT header and the plaintext; or a queue pair. -/
inductive FrameUse where
  | gone
  | plinth
  | lct (x : IoDie) (c : Nat) (hdr plain : List Byte)
  | roce (x : IoDie) (q : Nat) (u : Udp)

/-- The open connection of a port that a frame addresses: its UDP port is NET_LCT_UDP_PORT, and DCONN and the address name the
connection (R404, R419; log entry 107). -/
def State.lctTarget (s : State) (p : PortId) (u : Udp) : Option Nat :=
  let x := ioAt (p.val / 6)
  let c := natAt u.body 4 4
  let k := (s.net x).conn c
  if u.v6 && decide (u.dport = (s.reg (nr x 0x50)).toNat % 65536) && decide (32 ≤ u.body.length) && decide (c < 4096) &&
      decide (k.st = .opened) && decide (k.port = p.val % 6) && decide (u.dst = k.ctx.take 16) then some c
  else none

/-- The open queue pair of a port that a frame addresses (R404, R406). -/
def State.roceTarget (s : State) (p : PortId) (u : Udp) : Option Nat :=
  let x := ioAt (p.val / 6)
  let q := frameField u.body 5 3
  let k := (s.net x).qp q
  if decide (u.dport = 4791) && decide (16 ≤ u.body.length) && decide (q < 8192) && decide (k.st = .opened) &&
      decide (k.port = p.val % 6) && u.v6 == k.path.v6 && decide (u.dst = k.path.ownIp) then some q
  else none

/-- An LCT frame for open connection c: it is dropped unless its checksum, version, type and length are right (R419, R420) and its
tag verifies (R424). A CE mark is noted with it (R428). -/
def State.lctOpened (s : State) (x : IoDie) (c : Nat) (ce : Bool) (u : Udp) : State × FrameUse :=
  let b := u.body
  let ok := u.sumOk && decide (48 ≤ b.length) && decide (byteAt b 0 % 16 = 1) && decide (1 ≤ byteAt b 0 / 16) &&
    decide (byteAt b 0 / 16 ≤ 5) && decide (natAt b 2 2 + 48 = b.length)
  if !ok then (s, .gone)
  else
    match ((s.net x).key c 1 (byteAt b 1 % 2)).bind fun key => openFrame key b with
    | none => (s.authFail x c, .gone)
    | some plain =>
      (if ce then s.modConn x c fun k => { k with ceSeen := true, ceCount := k.ceCount + 1 } else s, .lct x c (b.take 32) plain)

/-- A frame arrives at a port (R403, R404): its counts, and what it is for. -/
def State.frameIn (s : State) (p : PortId) (f : List Byte) (fcs : Bool) : State × FrameUse :=
  if !(s.ports.get p).up then (s, .gone)
  else
    let t := s.countPort p 0x18 1
    match frameFate f fcs with
    | .counted => (t.countPort p 0x20 1, .gone)
    | .silent => (t, .gone)
    | .ok =>
      let x := ioAt (p.val / 6)
      let t := if frameCe f then t.countPort p 0x28 1 else t
      match (if f.take 6 = t.portMac p then udpOf f else none) with
      | none => (t, if t.forPlinth p f then .plinth else .gone)
      | some u =>
        match t.lctTarget p u, t.roceTarget p u with
        | some c, _ => t.lctOpened x c (frameCe f) u
        | none, some q => (t, .roce x q u)
        | none, none => (t, .plinth)

/-- LCT_DATA_RECEIVE and its like: a frame arrives, and where it is one of that type for an open connection of the port, it acts. A
frame that is for something else is not that command's. -/
def State.lctReceive (s : State) (p : PortId) (type : Nat) (f : List Byte) (fcs : Bool)
    (act : IoDie → Nat → List Byte → List Byte → State → State) : State :=
  match s.frameIn p f fcs with
  | (t, .gone) => t
  | (t, .lct x c hdr plain) => if byteAt hdr 0 / 16 = type then act x c hdr plain t else s
  | _ => s

/-- PLINTH_FRAME: a frame that is for no open connection (R404, R556). -/
def plinthFrame (p : PortId) (f : List Byte) (fcs : Bool) (s : State) : State :=
  match s.frameIn p f fcs with
  | (t, .gone) => t
  | (t, .plinth) =>
    if !t.linked (.net (ioAt (p.val / 6))) (.net 0) then t
    else if 0 < t.mboxRoom then t.mboxPut 1 p.val 0 f
    else t.mboxDrop
  | _ => s

/-- A control frame that R425 lets act: its PN exceeds that of every one accepted before. -/
def State.ctlAccept (s : State) (x : IoDie) (c pn : Nat) : Option State :=
  let newer := match ((s.net x).conn c).lastCtl with
    | some n => decide (n < pn)
    | none => true
  if newer then some (s.modConn x c fun k => { k with lastCtl := some pn }) else none

/-- A control frame of a type acts where R425 lets it. -/
def State.lctControl (s : State) (p : PortId) (type : Nat) (f : List Byte) (fcs : Bool)
    (act : IoDie → Nat → List Byte → List Byte → State → State) : State :=
  s.lctReceive p type f fcs fun x c hdr plain t =>
    match t.ctlAccept x c (natAt hdr 8 8) with
    | none => t
    | some t => act x c hdr plain t

/-- Decode a plaintext of Bamong blocks (R293, R427), or the code of the first damaged one. -/
def decodeBlocks : Nat → List Byte → Except (BitVec 16) (List Byte)
  | 0, _ => .ok []
  | n + 1, bs =>
    if bs = [] then .ok []
    else match BHeader.of (bs.take 16) with
      | none => .error 0x0702
      | some h =>
        if bs.length < h.extent then .error 0x0707
        else match h.decode ((bs.drop 16).take (h.extent - 16)) with
          | .error e => .error e
          | .ok out => match decodeBlocks n (bs.drop h.extent) with
            | .error e => .error e
            | .ok rest => .ok (out ++ rest)

/-- Put a number in a rising list. -/
def insertNat (n : Nat) : List Nat → List Nat
  | [] => [n]
  | q :: qs => if n < q then n :: q :: qs else if n = q then q :: qs else q :: insertNat n qs

/-- CUM moves over what has been delivered. -/
def advanceCum : Nat → List Nat → Nat × List Nat
  | cum, [] => (cum, [])
  | cum, q :: qs => if q = cum then advanceCum (cum + 1) qs else (cum, q :: qs)

/-- The PRIV payloads of a segment find room (R556). -/
def State.privFits (s : State) (x : IoDie) (c : Nat) (ms : List (List Byte)) : Bool :=
  let need := (ms.filter fun m => byteAt m 0 == 7 && (s.privTarget x c (m.drop 16)).isNone).length
  need == 0 || decide (need + s.privWaiting ≤ s.mboxRoom)

/-- A segment is delivered (R425): its messages are applied, and a SACK goes out as R428 says. -/
def State.deliver (s : State) (x : IoDie) (c seq : Nat) (ms : List (List Byte)) : State :=
  let k := (s.net x).conn c
  let part := s.partOfPort (6 * x.val + k.port)
  let r := advanceCum k.rxCum (insertNat seq k.rxSet)
  let t := s.modConn x c fun k => { k with rxCum := r.1, rxSet := r.2, rxUnacked := k.rxUnacked + 1 }
  let t := ms.foldl (fun t m => t.netMessageIn x k.port part c (decide (k.channel ≠ 0)) m) t
  if 2 ≤ k.rxUnacked + 1 ∨ seq ≠ k.rxCum then t.sendSack x c else t

/-- A DATA frame is delivered, or answered (R425, R427). What a privileged channel brings is not decoded (R304). -/
def State.lctData (x : IoDie) (c : Nat) (hdr plain : List Byte) (t : State) : State :=
  let k := (t.net x).conn c
  let seq := natAt hdr 16 8
  if seq < k.rxCum ∨ k.rxCum + k.segs ≤ seq ∨ k.rxSet.contains seq then t.sendSack x c
  else
    match (if byteAt hdr 1 / 2 % 2 = 1 ∧ k.channel = 0 then decodeBlocks plain.length plain else .ok plain) with
    | .error e => (t.raiseNet x e k.port none).sendNack x c seq e
    | .ok bs =>
      let ms := splitMessages bs.length bs
      if t.privFits x c ms then t.deliver x c seq ms else t

/-- LCT_DATA_RECEIVE. -/
def lctDataReceive (p : PortId) (f : List Byte) (fcs : Bool) (s : State) : State := s.lctReceive p 1 f fcs State.lctData

/-! ### Acknowledgements (R429 to R432) -/

/-- The window is cut for a loss or ECE, at most once per SRTT (R432). Whether an SRTT has passed since the last cut is open. -/
def State.cutWindow (s : State) (x : IoDie) (c : Nat) : State :=
  let cut (k : Conn) : Conn :=
    let v := max 65536 (k.cwnd / 2)
    { k with ssthresh := v, cwnd := v, cut := true }
  if ((s.net x).conn c).cut then
    let t := s.used
    if s.fresh.getLsbD 0 then t.modConn x c cut else t
  else s.modConn x c cut

/-- A round-trip sample (R429). Its value is a count of cycles, which is open (log entry 7). -/
def Conn.sample (k : Conn) (r : Nat) : Conn :=
  if k.sampled then
    let d := if r ≤ k.srtt then k.srtt - r else r - k.srtt
    { k with rttvar := (3 * k.rttvar + d) / 4, srtt := (7 * k.srtt + r) / 8 }
  else { k with sampled := true, srtt := r, rttvar := r / 2 }

/-- cwnd grows by the bytes newly covered (R432). -/
def Conn.grow (k : Conn) (a : Nat) : Conn :=
  let v := if k.cwnd < k.ssthresh then k.cwnd + a else k.cwnd + k.maxSeg * a / k.cwnd
  { k with cwnd := min v k.window }

/-- Something sent that many times may be sent again (R430). -/
def State.mayRetry (s : State) (x : IoDie) (sends : Nat) : Bool := decide (sends < (s.reg (nr x 0x5C)).toNat % 16)

/-- A connection whose segment has been sent NET_LCT_RETRY_MAX times and is lost again fails (R430). -/
def State.lctLost (s : State) (x : IoDie) (c : Nat) (sends : Nat) (mark : State → State) : State :=
  if s.mayRetry x sends then mark (s.cutWindow x c) else s.failConn x c

/-- Mark a segment lost. -/
def State.markLost (s : State) (x : IoDie) (c seq : Nat) : State :=
  s.modConn x c fun k => { k with unacked := k.unacked.map fun g => if g.seq = seq then { g with lost := true } else g }

/-- SEQs that a SACK covers. -/
def sackCovers (plain : List Byte) (seq : Nat) : Bool :=
  let cum := natAt plain 0 8
  decide (seq < cum) || (List.range (natAt plain 12 2)).any fun i =>
    let a := natAt plain (16 + 8 * i) 4
    let n := natAt plain (20 + 8 * i) 4
    decide (cum + a ≤ seq) && decide (seq < cum + a + n)

/-- What a SACK does to a connection's segments, its sample and its window. -/
def State.sackApply (s : State) (x : IoDie) (c : Nat) (plain : List Byte) (ece : Bool) : State :=
  let k := (s.net x).conn c
  let new := k.unacked.filter fun g => sackCovers plain g.seq
  let left := (k.unacked.filter fun g => !sackCovers plain g.seq).map fun g =>
    { g with passed := g.passed ++ (new.filter fun h => decide (g.pn < h.pn)).map (·.seq) }
  let a := (new.map fun g => g.plain.length).sum
  let t := s.modConn x c fun k => { k with unacked := left, cum := max k.cum (natAt plain 0 8) }
  let t := if new.any fun g => g.sends == 1 then (t.modConn x c fun k => k.sample (t.fresh.toNat % 2 ^ 32)).used else t
  let t := if 0 < a then t.modConn x c fun k => k.grow a else t
  let gone := left.filter fun g => !g.lost && decide (3 ≤ g.passed.length)
  if gone.any fun g => !t.mayRetry x g.sends then t.failConn x c
  else
    let t := if ece || !gone.isEmpty then t.cutWindow x c else t
    gone.foldl (fun t g => t.markLost x c g.seq) t

/-- LCT_SACK_RECEIVE. -/
def lctSackReceive (p : PortId) (f : List Byte) (fcs : Bool) (s : State) : State :=
  s.lctControl p 2 f fcs fun x c hdr plain t => t.sackApply x c plain (byteAt hdr 1 / 4 % 2 == 1)

/-- LCT_NACK_RECEIVE (R427, R430). -/
def lctNackReceive (p : PortId) (f : List Byte) (fcs : Bool) (s : State) : State :=
  s.lctControl p 3 f fcs fun x c _ plain t =>
    match ((t.net x).conn c).unacked.find? fun g => decide (g.seq = natAt plain 0 8) && !g.lost with
    | some g => t.lctLost x c g.sends fun u => u.markLost x c g.seq
    | none => t

/-- LCT_PROBE_RECEIVE: a PROBE is always answered (R425). -/
def lctProbeReceive (p : PortId) (f : List Byte) (fcs : Bool) (s : State) : State :=
  s.lctReceive p 4 f fcs fun x c _ _ t => (t.lctSend x c 5 false false 0 0 (leBytes 8 0)).1

/-- LCT_PROBE_REPLY_RECEIVE: it acknowledges the PROBE (R430). -/
def lctProbeReplyReceive (p : PortId) (f : List Byte) (fcs : Bool) (s : State) : State :=
  s.lctControl p 5 f fcs fun x c _ _ t => t.modConn x c fun k => { k with probe := none }

/-- LCT_ACK_DELAY_EXPIRY: a delivery has waited NET_LCT_ACK_DELAY for its SACK (R428). -/
def lctAckDelayExpiry (x : IoDie) (c : Nat) (s : State) : State :=
  let k := (s.net x).conn c
  if k.st = .opened ∧ 0 < k.rxUnacked then s.sendSack x c else s

/-- LCT_IDLE_EXPIRY: an OPEN connection with nothing unacknowledged probes its peer (R430). -/
def lctIdleExpiry (x : IoDie) (c : Nat) (s : State) : State :=
  let k := (s.net x).conn c
  if s.connReady x c && k.unacked.isEmpty && k.probe.isNone then
    let r := s.lctSend x c 4 false false 0 0 (leBytes 8 0)
    if r.2 then r.1.modConn x c fun j => { j with probe := some ⟨0, k.pn, none, [], 1, [], false⟩ } else r.1
  else s

/-- LCT_RTO_EXPIRY: of a segment, or of the PROBE (none). A held connection counts no RTO (R424). -/
def lctRtoExpiry (x : IoDie) (c : Nat) (seq : Option Nat) (upset : List Nat) (s : State) : State :=
  let k := (s.net x).conn c
  if k.st ≠ .opened ∨ k.held then s
  else match seq with
    | some q =>
      match k.unacked.find? fun g => decide (g.seq = q) with
      | some g => s.lctLost x c g.sends fun u => (u.markLost x c q).lctResend x c g upset
      | none => s
    | none =>
      match k.probe with
      | some g => s.lctLost x c g.sends fun u =>
          let r := u.lctSend x c 4 false false 0 0 (leBytes 8 0)
          if r.2 then (r.1.modConn x c fun j => { j with probe := some { g with sends := g.sends + 1 } }).countResend x else r.1
      | none => s

/-! ### The commands -/

def execLctSegmentSend (x : IoDie) (c : Fin 4096) (upset : List Nat) (s : State) : Out :=
  .next (s.ifDie (ioDie x) (lctSegmentSend x c.val upset))
def execPlinthFrame (p : PortId) (frame : List Byte) (fcs : Bool) (s : State) : Out :=
  .next (s.ifDie (ioDie (ioAt (p.val / 6))) (plinthFrame p frame fcs))
def execLctDataReceive (p : PortId) (frame : List Byte) (fcs : Bool) (s : State) : Out :=
  .next (s.ifDie (ioDie (ioAt (p.val / 6))) (lctDataReceive p frame fcs))
def execLctSackReceive (p : PortId) (frame : List Byte) (fcs : Bool) (s : State) : Out :=
  .next (s.ifDie (ioDie (ioAt (p.val / 6))) (lctSackReceive p frame fcs))
def execLctNackReceive (p : PortId) (frame : List Byte) (fcs : Bool) (s : State) : Out :=
  .next (s.ifDie (ioDie (ioAt (p.val / 6))) (lctNackReceive p frame fcs))
def execLctProbeReceive (p : PortId) (frame : List Byte) (fcs : Bool) (s : State) : Out :=
  .next (s.ifDie (ioDie (ioAt (p.val / 6))) (lctProbeReceive p frame fcs))
def execLctProbeReplyReceive (p : PortId) (frame : List Byte) (fcs : Bool) (s : State) : Out :=
  .next (s.ifDie (ioDie (ioAt (p.val / 6))) (lctProbeReplyReceive p frame fcs))
def execLctAckDelayExpiry (x : IoDie) (c : Fin 4096) (s : State) : Out :=
  .next (s.ifDie (ioDie x) (lctAckDelayExpiry x c.val))
def execLctIdleExpiry (x : IoDie) (c : Fin 4096) (s : State) : Out := .next (s.ifDie (ioDie x) (lctIdleExpiry x c.val))
def execLctRtoExpiry (x : IoDie) (c : Fin 4096) (e : Option Nat × List Nat) (s : State) : Out :=
  .next (s.ifDie (ioDie x) (lctRtoExpiry x c.val e.1 e.2))

end Sys2Proof.Machine
end

