-- ==== Sys2Proof/Machine/NetCmd.lean ====
section
/-! DEFINITION. NetCmd: connection and key commands (R417, R423, R424), RoCEv2 (R406, R407), and the ports (R405, R438). -/

namespace Sys2Proof.Machine

/-! ### NET_CONN_CMD (R417, R424, R437) -/

/-- A refused command (R417, R424). -/
def State.connRefused (s : State) (x : IoDie) : State := (s.orReg (nr x 0x68) 1).raiseNet x 0x0C05 0 none

/-- The context of an LCT connection in its table (R416), unless it lies outside backed memory or holds poison. -/
def State.lctContext (s : State) (x : IoDie) (c : Nat) : Option (List Byte) :=
  let a := (s.reg64 (nr x 0x20)).toNat + 128 * c
  if s.nearOk a 128 && !s.dirty a 128 then some (s.bytes a 128) else none

/-- A connection as OPEN leaves it (R417, R429, R432). -/
def Conn.fromContext (ctx : List Byte) : Conn :=
  { Conn.closed with
    st := .opened
    ctx := ctx
    srtt := natAt ctx 56 4
    rttvar := natAt ctx 56 4 / 2
    cwnd := natAt ctx 52 4 * 65536
    ssthresh := natAt ctx 48 4 * 65536 }

/-- OPEN of an LCT connection (R417). -/
def State.lctOpen (s : State) (x : IoDie) (c : Nat) : State :=
  match s.lctContext x c, (s.net x).key c 0 0 with
  | some ctx, some k =>
    if ctxOk ctx ∧ k.used = 0 ∧ ((s.net x).conn c).st = .closed then s.modConn x c fun _ => Conn.fromContext ctx
    else s.connRefused x
  | _, _ => s.connRefused x

/-- A queue pair as OPEN leaves it: the parameters of its context in near memory, whose layout is not given, each within its range
(R406; log entry 108). -/
def State.roceContext (s : State) (x : IoDie) (q : Nat) : Qp :=
  let v (i : Nat) : Nat := Config.qpField s.mem (s.reg64 (nr x 0x28)).toNat q i
  let v6 := (v 5).testBit 0
  let address (n : Nat) : List Byte := leBytes (if v6 then 16 else 4) n
  { Qp.closed with
    st := .opened
    port := v 0 % 6
    mtu := 1024 * 2 ^ (v 1 % 3)
    retryMax := v 2 % 8
    sendPsn := v 3 % 2 ^ 24
    recvPsn := v 4 % 2 ^ 24
    path := { v6 := v6, ownIp := address (v 6), peerIp := address (v 7), nextHop := leBytes 6 (v 8)
              vlan := if (v 9).testBit 16 then some (v 9 % 2 ^ 16) else none, tclass := v 10 % 256, ect := (v 11).testBit 0
              udpSrc := v 12 % 2 ^ 16, pkey := v 13 % 2 ^ 16, peer := v 14 % 2 ^ 24 } }

/-- OPEN of a queue pair (R406, R417): the messages that wait for it leave. -/
def State.roceOpen (s : State) (x : IoDie) (q : Nat) : State :=
  if ((s.net x).qp q).st ≠ .closed then s.connRefused x
  else
    let t := s.modQp x q fun _ => s.roceContext x q
    let ms := ((t.net x).queue.filter fun m => m.1 == 4096 + q).map (·.2)
    let t := t.modNet x fun n => { n with queue := n.queue.filter fun m => m.1 != 4096 + q }
    ms.foldl (fun t m => t.roceSend x q m) t

/-- SWITCH of an OPEN LCT connection (R424): the control frames that it held leave. -/
def State.lctSwitch (s : State) (x : IoDie) (c : Nat) : State :=
  let k := (s.net x).conn c
  if k.st ≠ .opened then s
  else match (s.net x).key c 0 (phaseNum !k.phase) with
    | none => s.connRefused x
    | some _ => k.ctl.foldl (fun t f => (t.lctSend x c f.type false f.ece 0 0 f.plain).1)
        (s.modConn x c fun k => { k with phase := !k.phase, held := false, ctl := [] })

/-- A write of NET_CONN_CMD (R437). -/
def State.wrConnCmd (s : State) (x : IoDie) (v : Word) : State :=
  let n := v.toNat % 8192
  let op := v.toNat / 65536 % 8
  if v.getLsbD 13 then
    match op with
    | 1 => s.roceOpen x n
    | 2 => s.dropQp x n .closed
    | _ => s
  else if 4096 ≤ n then (if op = 1 then s.connRefused x else s)
  else
    match op with
    | 1 => s.lctOpen x n
    | 2 => s.dropConn x n .closed
    | 3 => s.lctSwitch x n
    | _ => s

/-! ### NET_KEY_CMD (R423) -/

/-- Bytes of a run of 32-bit registers. -/
def State.regBytes (s : State) (off n : Nat) : List Byte :=
  (List.range n).flatMap fun i => leBytes 4 (s.reg (off + 4 * i)).toNat

/-- A wrapped key under the package key-wrapping key in force (R537). -/
def State.unwrapKey (s : State) (wrapped : List Byte) : Option (List Byte) :=
  match s.boot.kwk with
  | some k => (kwUnwrap (toNats k) (toNats wrapped)).map ofNats
  | none => none

/-- A write of NET_KEY_CMD; ERASE wins over LOAD. -/
def State.wrNetKey (s : State) (x : IoDie) (v : Word) : State :=
  let c := v.toNat % 4096
  let dir := v.toNat / 4096 % 2
  let phase := v.toNat / 8192 % 2
  if v.getLsbD 15 then s.setKey x c dir phase none
  else if v.getLsbD 14 then
    match s.unwrapKey (s.regBytes (nr x 0x70) 12) with
    | some b =>
      if natAt b 36 4 = 0 then s.setKey x c dir phase (some ⟨b.take 32, (b.drop 32).take 4, 0⟩)
      else ((s.setKey x c dir phase none).orReg (nr x 0xA4) 0x80000000).raiseNet x 0x0C06 ((s.net x).conn c).port none
    | none => ((s.setKey x c dir phase none).orReg (nr x 0xA4) 0x80000000).raiseNet x 0x0C06 ((s.net x).conn c).port none
  else s

/-! ### RoCEv2 (R406, R407) -/

/-- A message as it is sent again: formed from its source as it is now (R415), where that takes as many packets (log entry 109). -/
def State.resent (s : State) (mtu n : Nat) (m : NetMsg) : List Byte :=
  let bs := (s.reform m).bytes
  if (packets mtu 8 bs).length = n then bs else m.bytes

/-- The messages of a queue pair that are not acknowledged are sent again (go-back-N), unless the retry count is spent (R407). -/
def State.roceRetry (s : State) (x : IoDie) (q : Nat) : State :=
  let p := (s.net x).qp q
  if p.retryMax ≤ p.retry then s.failQp x q
  else p.unacked.foldl (fun t u => t.sendPackets x q u.1 (s.resent p.mtu u.2.1 u.2.2))
    (s.modQp x q fun p => { p with retry := p.retry + 1 })

/-- PSN distance from `a` up to `b`. -/
def psnDist (a b : Nat) : Nat := (b + 2 ^ 24 - a) % 2 ^ 24

/-- Messages whose last packet a PSN covers are acknowledged. -/
def State.roceAcked (s : State) (x : IoDie) (q psn : Nat) : State :=
  let p := (s.net x).qp q
  let left := p.unacked.filter fun u => decide (2 ^ 23 ≤ psnDist (u.1 + u.2.1 - 1) psn)
  if left.length < p.unacked.length then s.modQp x q fun p => { p with unacked := left, retry := 0 } else s

/-- One packet of a SEND: taken in PSN order, its message applied with the last one. -/
def State.roceSendIn (s : State) (x : IoDie) (p : PortId) (q psn : Nat) (first last : Bool) (payload : List Byte) : State :=
  let k := (s.net x).qp q
  let ack (t : State) (a : Nat) (kind : AckKind) : State := t.roceAnswer p x q a kind
  if psn = k.recvPsn then
    if first = k.partialMsg.isEmpty ∧ payload.length ≤ k.mtu then
      let m := k.partialMsg ++ payload
      let t := s.modQp x q fun k => { k with
        recvPsn := (psn + 1) % 2 ^ 24, partialMsg := if last then [] else m, msn := if last then (k.msn + 1) % 2 ^ 24 else k.msn }
      if last then (ack t psn .ack).netMessageIn x k.port (s.partOfPort p.val) 0 false m else t
    else ack s psn .invalid
  else if psnDist k.recvPsn psn < 2 ^ 23 then ack s k.recvPsn .sequence
  else ack s (psnDist 1 k.recvPsn) .ack

/-- What a packet does to its queue pair. -/
def State.roceAct (s : State) (x : IoDie) (p : PortId) (q psn : Nat) : RoceOp → State
  | .send first last payload => s.roceSendIn x p q psn first last payload
  | .unsupported => (s.roceAnswer p x q psn .invalid).raiseNet x 0x0C09 ((s.net x).qp q).port none
  | .ack => s.roceAcked x q psn
  | .nak false => (s.roceAcked x q (psnDist 1 psn)).roceRetry x q
  | .nak true => s.failQp x q
  | .cnp => s
  | .other => s

/-- ROCE_FRAME_RECEIVE: a frame for an open queue pair of the port, which is dropped where its ICRC is wrong; a CE mark is answered
with a CNP (R406). A frame that is for something else is not this command's. -/
def roceFrameReceive (p : PortId) (f : List Byte) (fcs : Bool) (s : State) : State :=
  match s.frameIn p f fcs with
  | (t, .gone) => t
  | (t, .roce x q u) =>
    match roceOf u with
    | none => t
    | some (_, psn, op) =>
      let t := if frameCe f then t.roceOut x q 0x81 0 false (List.replicate 16 0) (.roceCnp p q) else t
      t.roceAct x p q psn op
  | _ => s

/-- LOCAL_ACK_TIMEOUT: a queue pair's oldest message has had no acknowledgement in time. -/
def localAckTimeout (x : IoDie) (q : Nat) (s : State) : State :=
  let p := (s.net x).qp q
  if p.st = .opened ∧ !p.unacked.isEmpty then s.roceRetry x q else s

/-! ### Ports (R402, R405, R438) -/

/-- Lanes that a rate of R402 takes: RATE coding, and 53.125 Gb/s lanes. -/
def rateLanes (slow : Bool) (rate : Nat) : Nat := 2 ^ (rate - 1) * (if slow then 2 else 1)

/-- The lowest `n` good lanes of a half. -/
def goodLanes (bad : BitVec 8) (half n : Nat) : Option (BitVec 8) :=
  let ls := ((List.range 4).map (4 * half + ·)).filter fun i => !bad.getLsbD i
  if n ≤ ls.length then some ((ls.take n).foldl (fun m i => m ||| (1#8 <<< i)) 0) else none

/-- The highest rate up to one configured that the good lanes carry, and its lanes (R402, R405). -/
def bestRate (slow : Bool) (bad : BitVec 8) : Nat → Option (Nat × BitVec 8)
  | 0 => none
  | r + 1 =>
    let n := rateLanes slow (r + 1)
    let found := if n = 8 then (if bad = 0 then some 0xFF else none)
      else if 8 < n then none
      else match goodLanes bad 0 n with
        | some m => some m
        | none => goodLanes bad 1 n
    match found with
    | some m => some (r + 1, m)
    | none => bestRate slow bad r

/-- A port trains, or trains again, at its configured rate or the highest below it; none where it cannot. -/
def State.trainPort (s : State) (p : PortId) (degraded : Bool) : State × Bool :=
  let c := s.reg (Blk.port p).base
  let k := s.ports.get p
  let off (t : State) : State := { t with ports := t.ports.set p { k with up := false, rate := 0, lanes := 0, degraded := false } }
  if !k.partner then (off s, false)
  else match bestRate (c.getLsbD 3) k.bad (c.toNat % 8) with
    | some (r, m) => ({ s with ports := s.ports.set p { k with up := true, rate := r, lanes := m, degraded := degraded } }, true)
    | none => (off s, false)

/-- Every connection and queue pair bound to a port becomes FAILED (R405). -/
def State.portDown (s : State) (p : PortId) : State :=
  let x := ioAt (p.val / 6)
  let n := s.net x
  let t := (n.conns.filter fun c => decide (c.2.port = p.val % 6)).foldl (fun t c => t.failConn x c.1) s
  (n.qps.filter fun q => decide (q.2.port = p.val % 6)).foldl (fun t q => t.failQp x q.1) t

/-- PORT_LANE_FAIL (R405, R534). -/
def portLaneFail (p : PortId) (lane : Fin 8) (s : State) : State :=
  let k := s.ports.get p
  let x := ioAt (p.val / 6)
  if k.bad.getLsbD lane.val then s
  else
    let bad := k.bad ||| (1#8 <<< lane.val)
    let t := ({ s with ports := s.ports.set p { k with bad := bad } }).failed
      ⟨(ioDie x).val, 0x10, p.val % 6, 0, bad.toNat⟩
    if k.up && k.lanes.getLsbD lane.val then
      let r := t.trainPort p true
      if r.2 then r.1.raiseNet x 0x0C02 (p.val % 6) none
      else (r.1.raiseNet x 0x0C01 (p.val % 6) none).portDown p
    else t

/-- A write of NET_PORT_CTRL once the ports have trained: a reserved RATE leaves the register; another rate or lane speed makes
the port train again, and RATE 0 turns it off. -/
def State.wrPortCtrl (s : State) (p : PortId) (v : Word) : State :=
  let o := (Blk.port p).base
  let v := v &&& 0x1FFF
  if 4 < v.toNat % 8 then s
  else
    let t := s.setReg o v
    if v.toNat % 16 = (s.reg o).toNat % 16 then t else (t.trainPort p false).1

/-- NET_PORT_STATUS. -/
def PortState.status (k : PortState) : Nat :=
  k.rate + (if k.up then 8 else 0) + 16 * k.lanes.toNat + (if k.degraded then 4096 else 0)

/-! ### Live values of the connection that NET_CONN_SEL chooses (R437) -/

def ConnState.num : ConnState → Nat
  | .closed => 0 | .opened => 1 | .failed => 2

/-- NET_CONN_STATE. -/
def State.netConnState (s : State) (x : IoDie) : Nat :=
  let v := (s.reg (nr x 0x34)).toNat
  let n := v % 8192
  if 8192 ≤ v then ((s.net x).qp n).st.num
  else if 4096 ≤ n then 0
  else
    let k := (s.net x).conn n
    k.st.num + 4 * phaseNum k.phase + (if k.held then 8 else 0)

/-- NET_CONN_INFLIGHT. -/
def State.netInflight (s : State) (x : IoDie) : Nat :=
  let v := (s.reg (nr x 0x34)).toNat
  let n := v % 8192
  if 8192 ≤ v then (((s.net x).qp n).unacked.map fun u => u.2.2.bytes.length).sum
  else if 4096 ≤ n then 0 else ((s.net x).conn n).inflight

/-- A figure of the chosen LCT connection. -/
def State.netFigure (s : State) (x : IoDie) (f : Conn → Nat) : Nat :=
  let v := (s.reg (nr x 0x34)).toNat
  if 4096 ≤ v then 0 else f ((s.net x).conn v)

/-- NET_KEY_STATUS, without BAD. -/
def State.netKeyStatus (s : State) (x : IoDie) : Nat :=
  let c := (s.reg (nr x 0x34)).toNat % 8192
  if 4096 ≤ (s.reg (nr x 0x34)).toNat then 0
  else
    let held (dir phase w : Nat) : Nat := if ((s.net x).key c dir phase).isSome then w else 0
    let used (phase w : Nat) : Nat := if (((s.net x).key c 0 phase).map fun k => decide (0 < k.used)) = some true then w else 0
    held 0 0 1 + held 0 1 2 + held 1 0 4 + held 1 1 8 + used 0 16 + used 1 32

/-! ### The commands -/

def execRoceFrameReceive (p : PortId) (dst src : BitVec 48) (tag : Option (BitVec 16)) (packet : List Byte) (fcs : Bool)
    (s : State) : Out :=
  .next (s.ifDie (ioDie (ioAt (p.val / 6))) (roceFrameReceive p (ethFrame dst src tag packet) fcs))
def execLocalAckTimeout (x : IoDie) (q : Fin 8192) (s : State) : Out := .next (s.ifDie (ioDie x) (localAckTimeout x q.val))
def execPortLaneFail (p : PortId) (lane : Fin 8) (s : State) : Out :=
  .next (s.ifDie (ioDie (ioAt (p.val / 6))) (portLaneFail p lane))

end Sys2Proof.Machine
end

