-- ==== Sys2Proof/Machine/Reduce.lean ====
section
/-! DEFINITION. Reduce: the red.* instructions (R380 to R395): issue, start, the transfers they form, and the network
messages that reach this device for them (R413). -/

namespace Sys2Proof.Machine

/-! ### Issue (R380, R387, R388) -/

/-- sB of a red.*: 1 to 2^20 blocks, bits [63:32] 0. -/
def blockCount (v : Nat) : Option Nat := if 1 ≤ v ∧ v ≤ 2 ^ 20 then some v else none

/-- An address of near memory in the course's map, with an alignment. -/
def State.nearView (s : State) (g : Course) (a align : Nat) : Bool :=
  match s.physOf (g.val / 8) a with
  | some p => decide (p < nearEnd) && decide (a % align = 0)
  | none => false

/-- aS: B slots in the course's slice, 8-byte aligned. -/
def State.slots (s : State) (g : Course) (a blocks : Nat) : Option Nat :=
  if a % 8 = 0 then s.slice g a (280 * blocks) else none

/-- RED_OPERAND, with the value of the operand in CCR_EINFO (R237; log entry 103). -/
def redOperand (v : Nat) : Act := .fault 0x0B01 (some (BitVec.ofNat 64 v))

/-- sB and aS of a red.send or red.accum: B and the address of slot 0, or RED_OPERAND (R380). -/
def State.withSlots (t : State) (g : Course) (b a : Nat) (act : Nat → Nat → Act) : Act :=
  match blockCount b with
  | none => redOperand b
  | some n =>
    match t.slots g a n with
    | some src => act n src
    | none => redOperand a

def issueRedSend (g : Course) (w : BitVec 56) (t : State) : Act :=
  let c := t.course g
  let st := c.sFld w 28
  t.withSlots g (c.sFld w 33) (c.aFld w 38) fun b a =>
    if st < 2 ^ 48 ∧ t.nearView g st 32 then t.submit g w 6 (.redSend a b st) none else redOperand st

def issueRedAccum (g : Course) (w : BitVec 56) (t : State) : Act :=
  let c := t.course g
  let d := c.aFld w 34
  t.withSlots g (c.sFld w 29) (c.aFld w 38) fun b a =>
    if t.nearView g d 32 then t.submit g w 6 (.redAccum a d b (w.getLsbD 28)) none else redOperand d

def issueRedRing (g : Course) (w : BitVec 56) (t : State) : Act :=
  let c := t.course g
  let d := c.aFld w 38
  let phase := fld w 32 31
  match blockCount (c.sFld w 33) with
  | none => redOperand (c.sFld w 33)
  | some b =>
    if 3 ≤ phase then redOperand phase
    else if t.nearView g d 64 then t.submit g w 6 (.redRing d b phase) none else redOperand d

/-! ### Start (R382, R387, R389) -/

/-- A red.* with a bad descriptor sends nothing and completes with its tally poisoned. -/
def State.redDesc (s : State) (g : Course) (serial : Nat) : State := (s.redFault g serial 0x0B02).instrDone g 6 serial

def zeroBytes (bs : List Byte) (i n : Nat) : Bool := ((bs.drop i).take n).all fun b => b == 0

/-- The job of a red.send, where its target descriptor passes R382. Which courses the target has is known of this package only (log
entry 111). -/
def State.sendJob (s : State) (g : Course) (serial src blocks target : Nat) : Option RedJob := do
  let part := s.partOf g
  let d ← s.readNear (g.val / 8) target 32
  let daddr := natAt d 0 6
  let peer := natAt d 6 2
  let group := natAt d 8 1
  let nc := natAt d 9 1
  let ok := zeroBytes d 11 21 && decide (nc / 32 % 4 = 0) && decide (daddr % 32 = 0) &&
    (if peer = 0xFFFF then decide (group = 0) else (s.member part group peer).isSome) &&
    (decide (nc < 128) || decide (peer ≠ 0xFFFF ∧ s.ownRank part group ≠ some peer) || s.inPart part (nc % 32))
  if ok then
    some { serial := serial, kind := .send, src := src, dst := daddr, blocks := blocks, init := false, group := group
           peer := if peer = 0xFFFF then none else some peer, nen := decide (128 ≤ nc), ncourse := nc % 32
           ntally := tallyNum (natAt d 10 1), formed := 0, returned := 0, refused := false, lens := [] }
  else none

def State.addJob (s : State) (g : Course) (j : RedJob) : State := s.modCourse g fun c => { c with jobs := c.jobs ++ [j] }

/-- A job of additions in this package. -/
def localJob (serial : Nat) (kind : RedKind) (src dst blocks : Nat) (init : Bool) : RedJob :=
  { serial := serial, kind := kind, src := src, dst := dst, blocks := blocks, init := init, group := 0, peer := none
    nen := false, ncourse := 0, ntally := 0, formed := 0, returned := 0, refused := false, lens := [] }

/-- The ring of a red.ring, where its descriptor passes R389, and whether it adds its own contributions first. -/
def State.ringOf (s : State) (g : Course) (serial desc blocks phase : Nat) : Option (Ring × Bool) := do
  let part := s.partOf g
  let h ← s.readNear (g.val / 8) desc 64
  let r := natAt h 24 2
  let pos := natAt h 26 2
  let group := natAt h 28 1
  let skip := natAt h 29 1 == 1
  let rs := decide (phase ≠ 1)
  let dst := natAt h 16 6
  if r = 0 ∨ 4096 < r then none
  else
    let tail ← s.readNear (g.val / 8) (desc + 64) (2 * r)
    let ranks := (List.range r).map fun p => natAt tail (2 * p) 2
    let useSrc := rs && !skip
    let src := if useSrc then s.slots g (natAt h 8 6) blocks else some 0
    let ok := zeroBytes h 14 2 && zeroBytes h 22 2 && decide (natAt h 29 1 < 2) && zeroBytes h 30 2 && zeroBytes h 36 28 &&
      decide (pos < r) && decide (1 ≤ natAt h 32 4) && s.nearView g dst 32 && decide (r ≤ blocks) &&
      decide (ranks.eraseDups.length = r) && ranks.all (fun k => (s.member part group k).isSome) &&
      decide (s.ownRank part group = some (ranks.getD pos 0))
    match ok, src with
    | true, some a =>
      some ({ serial := serial, rseq := BitVec.ofNat 64 (natAt h 0 8), group := group, src := a, dst := dst
              blocks := blocks, r := r, pos := pos, ranks := ranks, rtimeout := natAt h 32 4
              both := decide (phase = 2), gather := decide (phase = 1), step := 0
              wait := if useSrc then .initAdds else .chunk, sent := 0, readySeen := false, got := [], marked := []
              acks := 0, flight := 0, refused := false, range := false, lens := [] }, useSrc)
    | _, _ => none

/-- A red.* that has entered the started list begins its work. -/
def State.runRed (s : State) (g : Course) (e : QEntry) : State :=
  match e.op with
  | .redSend src blocks target =>
    match s.sendJob g e.serial src blocks target with
    | some j => s.addJob g j
    | none => s.redDesc g e.serial
  | .redAccum src dst blocks init => s.addJob g (localJob e.serial .accum src dst blocks init)
  | .redRing desc blocks phase =>
    match s.ringOf g e.serial desc blocks phase with
    | none => s.redDesc g e.serial
    | some (r, useSrc) =>
      let t := s.modCourse g fun c => { c with ring := some r }
      if useSrc then t.addJob g (localJob e.serial .ring r.src r.dst blocks true) else t.ringBegin g
  | _ => s

/-! ### Transfers of blocks (R383, R390, R391) -/

/-- Block k of a job goes to its owner in this package, or is refused where no stack holds it (R325). -/
def State.sendBlock (s : State) (g : Course) (j : RedJob) (k : Nat) : State :=
  match s.physOf (g.val / 8) (j.dst + 416 * k) with
  | some a =>
    if a < nearEnd then
      s.send (.course g) (.mem (stackOf a))
        (.raReq ⟨raSource g (stackOf a), a, s.slotBlock (j.src + 280 * k), j.init, .instr g j.serial⟩)
    else s.redOutcome g j.serial 0x0807 false
  | none => s.redOutcome g j.serial 0x0807 false

/-- TAG of a red.send, its request number (R412; log entry 24). -/
def requestTag (g : Course) (serial : Nat) : DWord := BitVec.ofNat 64 (g.val + 32 * serial)

/-- As many of the blocks as fit a number of bytes. -/
def fitting : Nat → List (List Byte) → List (List Byte)
  | _, [] => []
  | room, b :: bs => if b.length ≤ room then b :: fitting (room - b.length) bs else []

/-- The next transfer of the oldest job with blocks left (R383): up to 29 blocks, to the controllers of this package, or
as one message to another member. -/
def formRed (g : Course) (s : State) : State :=
  match (s.course g).jobs.find? fun j => decide (j.formed < j.blocks) with
  | none => s
  | some j =>
    if s.window g 2 ≤ (s.course g).outstanding 2 then s
    else
      let n := min 29 (j.blocks - j.formed)
      let slots := (List.range n).map fun i => j.src + 280 * (j.formed + i)
      let all := slots.map s.slotBlock
      let go (bs : List (List Byte)) : State := s.modCourse g fun c => c.modJob j.serial fun j =>
        { j with formed := j.formed + bs.length, lens := j.lens ++ bs.map (·.length) }
      match j.peer with
      | none => (List.range n).foldl (fun u i => u.sendBlock g j (j.formed + i)) (go all)
      | some rank =>
        let part := s.partOf g
        let bs := fitting (s.maxMessage part j.group rank - 36) all
        (go bs).netMessage (.course g) part j.group rank 0x01 (requestTag g j.serial)
          (leBytes 6 j.dst ++ leBytes 1 (j.ncourse + (if j.nen then 128 else 0)) ++ leBytes 1 j.ntally.val ++
            leBytes 4 j.blocks ++ leBytes 4 j.formed ++ leBytes 1 bs.length ++ leBytes 3 0 ++ bs.flatten)
          (.red g j.serial) (.slots (slots.take bs.length))

/-- Keep the larger value in a magnitude register (R377). -/
def State.maxReg (s : State) (off v : Nat) : State :=
  if (s.reg off).toNat < v then s.setReg off (BitVec.ofNat 32 v) else s

/-- The largest magnitude among the lanes of a packed block (R377). -/
def rabMag (b : Rab) : Nat :=
  (List.range 64).foldl (fun m i => match b.lane i with
    | some v => max m (toF32Up (.dy (v.natAbs : Int) ((b.exp : Int) - 127)))
    | none => m) 0

/-- RED_RANGE of a pack (R376): the controller reports it, once per red.ring, and the ring's tally is poisoned. -/
def State.packRange (s : State) (g : Course) (k : Stack) (r : Ring) : State :=
  let t := s.orReg (mr k 0x2000) 2
  if r.range then t
  else
    let t := ((t.raiseMem k 0x0B05 none).orReg (cr g 0x3004) 1).instrPoison g 6 r.serial 0x0B05
    let t := match (t.course g).findStarted 6 r.serial with
      | some i => t.efirst g 0x0B05 6 i.e.pc
      | none => t
    t.modRing g fun r => { r with range := true }

/-- Where block b of a ring lies, where a stack holds it. -/
def State.ringAddr (s : State) (g : Course) (r : Ring) (b : Nat) : Option Nat :=
  (s.physOf (g.val / 8) (r.dst + 416 * b)).filter fun a => s.nearOk a 416

/-- Pack block b of a ring (R390); poisoned where no stack holds the block. -/
def State.pack (s : State) (g : Course) (r : Ring) (b : Nat) : List Byte × State :=
  match s.ringAddr g r b with
  | none => ((rabPack rabZero true).1, s)
  | some a =>
    let k := stackOf a
    let (bs, esc, bad) := s.packedBlock a (r.marked.contains b)
    let t := (s.count (mbase k) 0x2038 0x2020 1).count (mbase k) 0x2038 0x2028 esc
    let t := if s.dirty a 416 || r.marked.contains b then t else t.maxReg (mr k 0x2004) (rabMag (rabRead (s.bytes a 416)))
    (bs, if bad then t.packRange g k r else t)

/-- Pack up to n blocks from b on, as many as fit a number of bytes. -/
def State.packs (s : State) (g : Course) (b room : Nat) : Nat → List (List Byte) × State
  | 0 => ([], s)
  | n + 1 =>
    match (s.course g).ring with
    | none => ([], s)
    | some r =>
      let (x, t) := s.pack g r b
      if room < x.length then ([], s)
      else
        let (xs, u) := t.packs g (b + 1) (room - x.length) n
        (x :: xs, u)

/-- Where the blocks of a ring's message come from, when it is formed again (R415). -/
def ringSource {α : Type} (mk : List α → MsgSrc) (l : List (Option α)) : MsgSrc :=
  match l.mapM id with
  | some l => mk l
  | none => .state

/-- The next transfer of a ring (R391), against the remote share (R247): up to 29 packs, or up to 19 copies, of the chunk that this step
sends, as many as its message admits (R413). -/
def formRing (g : Course) (s : State) : State :=
  match (s.course g).ring with
  | none => s
  | some r =>
    let k := r.sendChunk
    if r.wait ≠ .chunk ∨ r.size k ≤ r.sent ∨ s.window g 2 ≤ (s.course g).outstanding 2 then s
    else
      let part := s.partOf g
      let b := r.lo k + r.sent
      let room := s.maxMessage part r.group r.next - 28
      let head (n : Nat) : List Byte := leBytes 2 r.tag ++ leBytes 2 r.pos ++ leBytes 4 b ++ leBytes 1 n ++ leBytes 3 0
      let go (t : State) (mtype : Nat) (bs : List (List Byte)) (src : MsgSrc) : State :=
        let t := t.modRing g fun r => { r with
          sent := r.sent + bs.length, acks := r.acks + bs.length, flight := r.flight + 1, lens := r.lens ++ bs.map (·.length) }
        (t.netMessage (.course g) part r.group r.next mtype r.rseq (head bs.length ++ bs.flatten) (.ring g r.serial) src).ringAdvance g 4
      if r.gather then
        let addrs := (List.range (min (min 19 (r.size k - r.sent)) (room / 416))).map fun i => s.ringAddr g r (b + i)
        go s 0x05 (addrs.map fun a => (a.map s.copiedBlock).getD (List.replicate 416 0)) (ringSource .copies addrs)
      else
        let (bs, t) := s.packs g b room (min 29 (r.size k - r.sent))
        go t 0x04 bs (ringSource .packs ((List.range bs.length).map fun i =>
          (s.ringAddr g r (b + i)).map fun a => (a, r.marked.contains (b + i))))

/-- TRANSFER_FORM: of a stream, of a red.* job, or of the ring. -/
def transferFormAny (g : Course) (src : TransferSrc) (s : State) : State :=
  match src with
  | .stream n => transferForm g n.val s
  | .red => if (s.course g).str.frozenDl then s else formRed g s
  | .ring => if (s.course g).str.frozenDl then s else formRing g s

/-! ### Messages received (R391 to R393, R413) -/

/-- Take the first message of a type from an engine's inbox. -/
def State.takeRx (s : State) (x : IoDie) (mtype : Nat) : Option (RxMsg × State) :=
  let box := (s.net x).inbox
  match box.find? fun m => byteAt m.bytes 0 == mtype with
  | none => none
  | some m => some (m, s.modNet x fun n => { n with inbox := box.erase m })

def rxGroup (m : RxMsg) : Nat := byteAt m.bytes 1
def rxRank (m : RxMsg) : Nat := natAt m.bytes 2 2
def rxTag (m : RxMsg) : DWord := BitVec.ofNat 64 (natAt m.bytes 8 8)

/-- BW16 blocks packed one after another (R62), n of them. -/
def splitBlocks : Nat → List Byte → List (List Byte)
  | 0, _ => []
  | n + 1, bs => bs.take (bwLen bs) :: splitBlocks n (bs.drop (bwLen bs))

/-- A job of received blocks begins: each is a remote-accumulate request, or is refused where no stack holds it. -/
def State.netBlocks (s : State) (x : IoDie) (m : RxMsg) (atype first : Nat) (addr : Nat → Nat) (bs : List (List Byte))
    (ring : Option (Course × Nat)) : State :=
  let id := (s.net x).nextJob
  let j : NetJob := ⟨id, m.part, rxGroup m, rxRank m, rxTag m, atype, first, bs.map fun _ => none, ring⟩
  let t := s.modNet x fun n => { n with nextJob := id + 1, jobs := n.jobs ++ [j] }
  (List.range bs.length).foldl (fun u i =>
    match u.physOf m.part (addr (first + i)) with
    | some a =>
      if a < nearEnd then
        u.send (.net x) (.mem (stackOf a)) (.raReq ⟨11 + x.val, a, bs.getD i [], false, .net x id i⟩)
      else u.netDecided x id i 0x0807
    | none => u.netDecided x id i 0x0807) t

/-- RA_BLOCKS: a received message is turned into requests, and its outcomes count toward the notice (R385). -/
def raBlocks (x : IoDie) (s : State) : State :=
  match s.takeRx x 0x01 with
  | none => s
  | some (m, t) =>
    let d := natAt m.bytes 16 6
    let nc := byteAt m.bytes 22
    let first := natAt m.bytes 28 4
    let bs := splitBlocks (byteAt m.bytes 32) (m.bytes.drop 36)
    let mine (r : RaTotal) : Bool := r.part == m.part && r.group == rxGroup m && r.rank == rxRank m && r.tag == rxTag m
    let t := if (t.totalAt mine).isSome then t
      else t.modNet x fun n => { n with totals := n.totals ++
        [⟨m.part, rxGroup m, rxRank m, rxTag m, natAt m.bytes 24 4, 0, false, nc % 32, decide (128 ≤ nc), tallyNum (byteAt m.bytes 23)⟩] }
    t.netBlocks x m 0x01 first (fun k => d + 416 * k) bs none

/-- The course of a partition whose running ring a message matches (R392). -/
def State.ringFor (s : State) (m : RxMsg) (p : Ring → Bool) : Option (Course × Ring) :=
  (List.finRange 32).findSome? fun g => match (s.course g).ring with
    | some r => if s.inPart m.part g.val && decide (r.group = rxGroup m) && r.rseq == rxTag m && p r then some (g, r) else none
    | none => none

/-- A ring message that matches nothing is discarded (R392): counted at the first course of the partition that runs a
ring of its group, else at the partition's first course (log entry 25). -/
def State.ringDiscard (s : State) (m : RxMsg) : State :=
  let g := ((List.finRange 32).find? fun g => s.inPart m.part g.val && match (s.course g).ring with
    | some r => decide (r.group = rxGroup m)
    | none => false).getD (courseAt (8 * m.part))
  s.countC g 0x3038 0x3030 1

/-- RA_OUTCOME: the outcomes reach the red.send or the ring that sent the blocks. REMOTE is not set for a refusal at this member
itself. -/
def raOutcomeReceive (x : IoDie) (s : State) : State :=
  match s.takeRx x 0x02 with
  | none => s
  | some (m, t) =>
    let codes := (List.range (byteAt m.bytes 17)).map fun i => BitVec.ofNat 16 (natAt m.bytes (24 + 2 * i) 2)
    match byteAt m.bytes 16 with
    | 1 =>
      let g := courseAt (rxTag m).toNat
      let remote := decide (t.ownRank m.part (rxGroup m) ≠ some (rxRank m))
      codes.foldl (fun u c => u.redOutcome g ((rxTag m).toNat / 32) c remote) t
    | _ =>
      match t.ringFor m fun r => decide (r.next = rxRank m) with
      | none => t.ringDiscard m
      | some (g, _) => codes.foldl (fun u c => u.ringOutcome g c) (t.modRing g fun r => { r with flight := r.flight - 1 })

/-- RING_READY: the member that follows is initialised, and the ring's sends may start (R391). -/
def ringReady (x : IoDie) (s : State) : State :=
  match s.takeRx x 0x03 with
  | none => s
  | some (m, t) =>
    match t.ringFor m fun r => decide (natAt m.bytes 16 2 = (r.pos + 1) % r.r) && decide (r.next = rxRank m) &&
        !r.readySeen && (r.wait == .initAdds || r.wait == .ready) with
    | none => t.ringDiscard m
    | some (g, _) => (t.modRing g fun r => { r with readySeen := true }).ringAdvance g 4

/-- What R392 asks of a RING_PART or RING_COPY of n blocks. -/
def ringMatch (m : RxMsg) (gather : Bool) (r : Ring) : Bool :=
  let tag := natAt m.bytes 16 2
  let first := natAt m.bytes 20 4
  let n := byteAt m.bytes 24
  let k := r.chunkOf tag
  decide (natAt m.bytes 18 2 = (r.pos + r.r - 1) % r.r) && decide (r.prev = rxRank m) && r.awaits tag &&
    (gather == decide (r.r - 1 ≤ tag)) && decide (r.lo k ≤ first) && decide (first + n ≤ r.lo k + r.size k) &&
    (List.range n).all fun i => !r.got.contains (tag, first + i)

/-- RING_PART: a matching partial is added at the member's own controllers (R391, R392). -/
def ringPart (x : IoDie) (s : State) : State :=
  match s.takeRx x 0x04 with
  | none => s
  | some (m, t) =>
    match t.ringFor m (ringMatch m false) with
    | none => t.ringDiscard m
    | some (g, r) =>
      t.netBlocks x m 0x04 (natAt m.bytes 20 4) (fun k => r.dst + 416 * k)
        (splitBlocks (byteAt m.bytes 24) (m.bytes.drop 28)) (some (g, natAt m.bytes 16 2))

/-- Why a copy of a block is refused (R325, R393), or 0. -/
def State.copyCheck (s : State) (a : Nat) : BitVec 16 :=
  if a % 32 ≠ 0 ∨ !s.nearOk a 416 then 0x0807 else if s.tornAt a 416 then 0x0809 else if s.anyPoison a 416 then 0x080A else 0

/-- A copy replaces one block, or is refused. -/
def State.ringCopyBlock (s : State) (g : Course) (r : Ring) (tag b : Nat) (bs : List Byte) : BitVec 16 × State :=
  match s.physOf (g.val / 8) (r.dst + 416 * b) with
  | none => (0x0807, s.ringGot g tag b 0x0807)
  | some a =>
    let code := s.copyCheck a
    (code, (if code = 0 then s.store a bs else s).ringGot g tag b code)

/-- RING_COPY: a matching copy replaces whole blocks (R391), and is answered, so that its sender learns the outcomes that R395 waits for
and R393 reports (log entry 26). -/
def ringCopy (x : IoDie) (s : State) : State :=
  match s.takeRx x 0x05 with
  | none => s
  | some (m, t) =>
    match t.ringFor m (ringMatch m true) with
    | none => t.ringDiscard m
    | some (g, r) =>
      let tag := natAt m.bytes 16 2
      let first := natAt m.bytes 20 4
      let n := byteAt m.bytes 24
      let (codes, u) := (List.range n).foldl (fun (acc : List (BitVec 16) × State) i =>
        let (c, u) := acc.2.ringCopyBlock g r tag (first + i) ((m.bytes.drop (28 + 416 * i)).take 416)
        (acc.1 ++ [c], u)) ([], t)
      u.netMessage (.net x) m.part (rxGroup m) (rxRank m) 0x02 (rxTag m)
        (leBytes 1 5 ++ leBytes 1 n ++ leBytes 2 0 ++ leBytes 4 first ++ codes.flatMap fun c => leBytes 2 c.toNat) .answer .state

/-- The ring waits under R394: for READY, or for the blocks of a step. -/
def Ring.waiting (r : Ring) : Bool :=
  match r.wait with
  | .ready => !r.readySeen
  | .chunk => decide (r.size r.sendChunk ≤ r.sent) && !r.received
  | _ => false

/-- RING_WAIT_EXPIRY (R394): a ring that still waits ends with RED_RING_TIMEOUT. -/
def ringWaitExpiry (g : Course) (s : State) : State :=
  match (s.course g).ring with
  | none => s
  | some r =>
    if r.waiting then
      let t := ((s.redFault g r.serial 0x0B07).orReg (cr g 0x3004) 8).modCourse g fun c => { c with ring := none }
      (t.instrDone g 6 r.serial).dropQueued (.ring g r.serial)
    else s

/-! ### Registers (R377, R399) -/

/-- A write of RED_CTRL. -/
def State.wrRedCtrl (s : State) (g : Course) (v : Word) : State := if v.getLsbD 0 then s.setReg (cr g 0x3008) 0 else s
/-- A write of RED_MC_CTRL. -/
def State.wrRedMc (s : State) (k : Stack) (v : Word) : State := if v.getLsbD 0 then s.setReg (mr k 0x2004) 0 else s

/-- RED_STATUS. -/
def CourseState.redStatus (c : CourseState) : Nat :=
  match c.ring with
  | none => 0
  | some r => 1 + (if r.gather then 2 else 0) + 4 * r.step +
      (if r.waiting then 16384 else 0)

/-! ### The commands -/

def execRedSend (g : Course) (w : BitVec 56) (s : State) : Out := .next (s.issueEngine g w 6 [(27, 0)] false 0x0B01 (issueRedSend g w))
def execRedAccum (g : Course) (w : BitVec 56) (s : State) : Out := .next (s.issueEngine g w 6 [(27, 0)] false 0x0B01 (issueRedAccum g w))
def execRedRing (g : Course) (w : BitVec 56) (s : State) : Out := .next (s.issueEngine g w 6 [(30, 0)] true 0x0B01 (issueRedRing g w))
def execTransferForm (g : Course) (src : TransferSrc) (s : State) : Out := .next (s.ifCourse g (transferFormAny g src))
def execRaBlocks (x : IoDie) (s : State) : Out := .next (s.ifDie (ioDie x) (raBlocks x))
def execRaOutcome (x : IoDie) (s : State) : Out := .next (s.ifDie (ioDie x) (raOutcomeReceive x))
def execRingReady (x : IoDie) (s : State) : Out := .next (s.ifDie (ioDie x) (ringReady x))
def execRingPart (x : IoDie) (s : State) : Out := .next (s.ifDie (ioDie x) (ringPart x))
def execRingCopy (x : IoDie) (s : State) : Out := .next (s.ifDie (ioDie x) (ringCopy x))
def execRingWaitExpiry (g : Course) (s : State) : Out := .next (s.ifCourse g (ringWaitExpiry g))

end Sys2Proof.Machine
end

