-- ==== Sys2Proof/Machine/Update.lean ====
section
/-! DEFINITION. Update: the parameter-update engine (chapter 11): upd.pass1, its exchange and decision, and upd.pass2. -/

namespace Sys2Proof.Machine

/-! ### log2 and 2^x, correctly rounded to FP32 (R362) -/

/-- Precision of the fixed-point values below: no FP32 datum has a logarithm or a power of two that lies within 2^-100 of a
rounding boundary without being on it. -/
def fixOne : Nat := 2 ^ 512

/-- The leading n bits of log2 y, for y in [1, 2) in fixed point, and what is left of y. -/
def log2Bits : Nat → Nat → Nat → Nat × Nat
  | 0, y, acc => (acc, y)
  | n + 1, y, acc =>
    let z := y * y / fixOne
    if 2 * fixOne ≤ z then log2Bits n (z / 2) (2 * acc + 1) else log2Bits n z (2 * acc)

/-- log2 of m × 2^e, for m not 0, with a last bit below that tells whether more follows. -/
def log2Exact (m : Nat) (e : Int) : Exact :=
  let k := Nat.log2 m
  let r := log2Bits 160 (m * fixOne / 2 ^ k) 0
  .dy (2 * ((e + k) * 2 ^ 160 + r.1) + (if r.2 = fixOne then 0 else 1)) (-161)

/-- log2 of a positive FP32 datum, RNE. -/
def log2f (x : Nat) : Nat :=
  match f32 x with
  | .num false m e => if m = 0 then inf32 true else toF32 (log2Exact m e)
  | .inf false => inf32 false
  | _ => nan32

/-- The product of 2^(2^-i) over the bits of f, n bits from the top, in fixed point; r is the last root. -/
def exp2Bits : Nat → Nat → Nat → Nat → Nat
  | 0, _, _, acc => acc
  | n + 1, r, f, acc =>
    let sq := r * fixOne
    let r := isqrtGo sq (Nat.log2 sq / 2 + 1) 0
    exp2Bits n r f (if f.testBit n then acc * r / fixOne else acc)

/-- 2 to the power of a non-positive FP32 datum, RNE. -/
def exp2f (x : Nat) : Nat :=
  match f32 x with
  | .nan => nan32
  | .inf neg => if neg then 0 else inf32 false
  | .num _ 0 _ => 0x3F800000
  | y =>
    let v := y.exact.round .rne (-149)
    let k := v / 2 ^ 149
    let f := (v % 2 ^ 149).toNat
    if k < -200 then 0
    else if f = 0 then toF32 (.dy 1 k)
    else toF32 (.dy (2 * exp2Bits 149 (2 * fixOne) f fixOne + 1 : Nat) (k - 513))

/-! ### Issue (R215, R218, R372) -/

/-- A selected stack outside the course's partition. -/
def State.maskOut (s : State) (g : Course) (m : BitVec 8) : Bool :=
  s.parted && (List.finRange 8).any fun k => m.getLsbD k.val && decide (k.val / 2 ≠ g.val / 8)

def issueUpd (second : Bool) (g : Course) (w : BitVec 56) (t : State) : Act :=
  let a := (t.course g).aFld w 38
  let m : BitVec 8 := BitVec.ofNat 8 (fld w 37 30)
  match t.physOf (g.val / 8) a with
  | some p => guardAct (decide (a % 64 = 0) && decide (p < nearEnd) && m != 0 && !t.maskOut g m) 0x0A01
      (some (BitVec.ofNat 64 a)) (t.submit g w 7 (.updPass second p m) none)
  | none => .fault 0x0A01 (some (BitVec.ofNat 64 a))

/-! ### Reports (R372, R583) -/

/-- A fault of an upd.*: the reporting slice's record, the capture of R239, CODE of the NOTIFY record, and P of the tally
where the code poisons it. -/
def State.updFault (s : State) (g : Course) (serial : Nat) (k : Stack) (code : BitVec 16) (poison : Bool) : State :=
  match (s.course g).findStarted 7 serial with
  | none => s
  | some i =>
    let t := s.raiseWith (stackDie k)
      { plainReport code 0x0B (BitVec.ofNat 8 (k.val % 2)) 0xF with
        tallyPoisoned := poison && i.e.te, pcValid := true, epochValid := true
        epoch := (s.reg (cr g 0x1C)).setWidth 16, pc := i.e.pc } none
    let t := t.efirst g code 7 i.e.pc
    t.modCourse g fun c => c.modStarted 7 serial fun i =>
      { i with poison := i.poison || poison, code := if i.code = 0 then code else i.code }

/-! ### Descriptors (R347, R348, R352) -/

/-- The device physical address of `n` bytes that lie wholly in backed memory of stack k. -/
def State.inStack (s : State) (part : Nat) (k : Stack) (a n : Nat) : Option Nat :=
  match s.physOf part a with
  | some p => if s.nearOk p n ∧ stackOf p = k then some p else none
  | none => none

/-- FP32 classes that R347 names. -/
def posFinite (x : Nat) : Bool := match f32 x with
  | .num neg m _ => !neg && decide (m ≠ 0)
  | _ => false
def decayOk (x : Nat) : Bool := match f32 x with
  | .num neg m _ => !neg || decide (m = 0)
  | _ => false
def betaOk (x : Nat) : Bool := posFinite x && lt32 x 0x3F800000

/-- Bytes i to i + n - 1 are 0. -/
def zeroAt (bs : List Byte) (l : List (Nat × Nat)) : Bool := l.all fun r => zeroBytes bs r.1 r.2

/-- RANK, MEMBERS and XTABLE are valid (R347, R352, R357, R410): the exchange table, by device physical address. -/
def State.updTable (s : State) (part : Nat) (key : Stack) (d : List Byte) : Option Nat :=
  let rank := natAt d 32 2
  let n := natAt d 34 2
  let group := byteAt d 39
  if 1 ≤ n ∧ n ≤ 4096 ∧ rank < n ∧ natAt d 40 6 % 64 = 0 ∧
      (n = 1 ∨ (s.groupSize part group = n ∧ s.ownRank part group = some rank)) then
    s.inStack part key (natAt d 40 6) (128 * n)
  else none

/-- The update descriptor meets R347. -/
def State.updDescOk (s : State) (part : Nat) (key : Stack) (slices : List Stack) (d : List Byte) (first : Bool) : Bool :=
  betaOk (natAt d 8 4) && betaOk (natAt d 12 4) && posFinite (natAt d 16 4) && decayOk (natAt d 20 4) &&
    (posFinite (natAt d 24 4) || natAt d 24 4 == inf32 false) && posFinite (natAt d 28 4) &&
    decide (natAt d 32 2 < natAt d 34 2) && decide (natAt d 34 2 ≤ 4096) && (!first || (s.updTable part key d).isSome) &&
    decide (16 ≤ natAt d 36 2) && decide (natAt d 36 2 ≤ 64) && decide (byteAt d 38 < 8) &&
    decide (natAt d 40 6 % 64 = 0) && (s.inStack part key (natAt d 40 6) (128 * natAt d 34 2)).isSome &&
    zeroAt d [(46, 2), (52, 12)] &&
    (List.finRange 8).all fun k =>
      let a := natAt d (64 + 8 * k.val) 6
      zeroBytes d (70 + 8 * k.val) 2 && decide (a % 64 = 0) &&
        (if slices.contains k then (s.inStack part k a 64).isSome else a == 0)

/-- An image that a tensor entry asks for (R366 to R368): channels, positions, and where it, its scales and its directory
lie. -/
structure UpdImage where
  chans : Nat
  poss : Nat
  img : Nat
  scale : Nat
  dir : Nat
  deriving DecidableEq, Repr

/-- A tensor entry (R348) with device physical addresses. -/
structure UpdTensor where
  k : Nat
  nc : Nat
  ifmt : IdxFmt
  raw : Bool
  master : Nat
  moment : Nat
  grad : Nat
  fwd : Option UpdImage
  trn : Option UpdImage
  deriving DecidableEq, Repr

/-- Update blocks of a tensor (R349). -/
def UpdTensor.blocks (t : UpdTensor) : Nat := t.nc * (t.k / 64)

/-- A shard: its header and its tensors. -/
structure UpdShard where
  hdr : Nat
  tensors : List UpdTensor
  deriving DecidableEq, Repr

/-- U of R366: unencoded bytes of a full feed unit. -/
def unitBytes (poss : Nat) : Nat := 2 * min poss 4096
/-- Segments of an image. -/
def segments (poss : Nat) : Nat := (poss + 4095) / 4096
/-- Z of R366: the size of a slot. -/
def slotSize (poss blen : Nat) : Nat := (unitBytes poss + 31 * ((unitBytes poss + blen - 1) / blen) + 63) / 64 * 64

/-- An image whose bytes, scales and directory lie in the stack. -/
def State.imageOf (s : State) (part : Nat) (k : Stack) (f : IdxFmt) (raw : Bool) (blen chans poss : Nat) (e : List Byte)
    (o : Nat) : Option UpdImage := do
  let units := chans / 16 * f.planes * segments poss
  let img ← s.inStack part k (natAt e o 6) (if raw then chans * poss * f.planes / 8 else units * slotSize poss blen)
  let scale ← s.inStack part k (natAt e (o + 8) 6) (chans * poss / 128)
  let dir ← if raw then some 0 else s.inStack part k (natAt e (o + 16) 6) (4 * units)
  return ⟨chans, poss, img, scale, dir⟩

/-- A tensor entry of 128 bytes, where it meets R348. The addresses of an image that is not written are checked too; only a DIR under
RAW is not used. -/
def State.tensorOf (s : State) (part : Nat) (k : Stack) (blen : Nat) (e : List Byte) : Option UpdTensor := do
  let n := natAt e 0 4
  let kk := natAt e 4 4
  let c0 := natAt e 8 4
  let nc := natAt e 12 4
  let b := byteAt e 16
  let f ← idxFmtOf (b % 8)
  let raw := b / 32 % 2 == 1
  let trn := b / 16 % 2 == 1
  if n % 128 = 0 ∧ kk % 128 = 0 ∧ c0 % 128 = 0 ∧ nc % 128 = 0 ∧ 128 ≤ nc ∧ c0 + nc ≤ n ∧ b < 64 ∧
      (!trn || nc % 4096 = 0 || (c0 = 0 && nc = n)) ∧
      zeroAt e [(17, 7), (30, 2), (38, 2), (46, 2), (54, 2), (62, 2), (70, 2), (78, 2), (86, 2), (94, 34)] then
    let master ← s.inStack part k (natAt e 24 6) (4 * nc * kk)
    let moment ← s.inStack part k (natAt e 32 6) (136 * (nc * (kk / 64)))
    let grad ← s.inStack part k (natAt e 40 6) (416 * (nc * (kk / 64)))
    let fi ← s.imageOf part k f raw blen nc kk e 48
    let ti ← s.imageOf part k f raw blen kk nc e 72
    return ⟨kk, nc, f, raw, master, moment, grad, if b / 8 % 2 = 1 then some fi else none, if trn then some ti else none⟩
  else none

/-- Every entry, or none where one fails. -/
def allSome {α : Type} : List (Option α) → Option (List α)
  | [] => some []
  | none :: _ => none
  | some x :: xs => (allSome xs).map fun l => x :: l

/-- The shard of stack k that the descriptor names, where it meets R348. -/
def State.shardOf (s : State) (part : Nat) (k : Stack) (d : List Byte) : Option UpdShard := do
  let a := natAt d (64 + 8 * k.val) 6
  let p ← s.inStack part k a 64
  let h := s.bytes p 64
  let nt := natAt h 8 2
  let hdr ← s.inStack part k (natAt h 0 6) 64
  if 1 ≤ nt ∧ nt ≤ 1024 ∧ zeroAt h [(6, 2), (10, 54)] ∧ (s.inStack part k a (64 + 128 * nt)).isSome ∧
      !s.dirty p (64 + 128 * nt) then
    let ts ← allSome ((List.range nt).map fun i =>
      s.tensorOf part k (64 * natAt d 36 2) (s.bytes (p + 64 + 128 * i) 128))
    return ⟨hdr, ts⟩
  else none

/-- An address in a FAR_PROT window. -/
def State.inProt (s : State) (part a : Nat) : Bool :=
  match s.physOf part a with
  | none => false
  | some p =>
    match regionOf p with
    | .far l =>
      match s.farRegion l p with
      | some i => (s.reg (fr l (0x210 + 0x20 * i.val))).getLsbD 2
      | none => false
    | _ => false

/-- A shard of stack k has an encoded image to write in a FAR_PROT window, which the encoder reports (R304) and not as a descriptor that
fails R348 (log entry 78). -/
def State.shardProt (s : State) (part : Nat) (k : Stack) (d : List Byte) : Bool :=
  let a := natAt d (64 + 8 * k.val) 6
  match s.inStack part k a 64 with
  | none => false
  | some p =>
    let nt := natAt (s.bytes p 64) 8 2
    decide (nt ≤ 1024) && (s.inStack part k a (64 + 128 * nt)).isSome && !s.dirty p (64 + 128 * nt) && (List.range nt).any fun i =>
      let e := s.bytes (p + 64 + 128 * i) 128
      let b := byteAt e 16
      !b.testBit 5 && ((b.testBit 3 && s.inProt part (natAt e 48 6)) || (b.testBit 4 && s.inProt part (natAt e 72 6)))

/-! ### Pass 1 (R351 to R354) -/

/-- Lanes of a gradient block that are poisoned (pz of R353). -/
def State.gradPz (s : State) (expect a : Nat) : Rab × Nat :=
  let b := rabRead (s.bytes a 416)
  let bad := decide (b.exp = 255) || b.exceeded || (expect != 0 && b.count != expect) || s.dirty a 416
  (b, if bad then 2 ^ 64 - 1 else b.poison)

/-- Addresses of the gradient blocks of a shard, in order. -/
def UpdShard.grads (h : UpdShard) : List Nat := h.tensors.flatMap fun t => (List.range t.blocks).map fun b => t.grad + 416 * b

/-- term[b] of R353. -/
def gradTerm (b : Rab) (pz : Nat) : Nat :=
  let q : Int := ((List.range 64).map fun i => if pz.testBit i then 0 else b.lanes.getD i 0 * b.lanes.getD i 0).sum
  toF32 (.dy q (2 * ((b.exp : Int) - 127)))

def popCount (n : Nat) : Nat := ((List.range 64).filter fun i => n.testBit i).length

/-- A sum by R169. Its terms are squares, so the case that R171 leaves open does not arise. -/
def normSum (xs : List Nat) : Nat := (vecSum false xs).getD nan32

/-- What slice k computes (R353). A poisoned header counts as a mismatch, and the STEP it shows is open (R371). -/
def State.slicePartial (s : State) (k : Stack) (expect : Nat) (h : UpdShard) : UpdPartial :=
  let gs := h.grads.map fun a => s.gradPz expect a
  let bad := s.dirty h.hdr 64
  let step : DWord := if bad then Config.freeValue (s.freeCtr + k.val) else BitVec.ofNat 64 (s.rdN h.hdr 8)
  { stack := k, sq := normSum (gs.map fun g => gradTerm g.1 g.2), poisoned := (gs.map fun g => popCount g.2).sum
    overrange := (gs.map fun g => g.1.overrange).sum
    mismatch := bad || step != (s.memc k).upd.expected, updating := !bad && s.rdN (h.hdr + 8) 1 != 0
    found := step, long := decide (2 ^ 24 < gs.length) }

/-- A slice that reads no gradient. -/
def State.emptyPartial (s : State) (k : Stack) : UpdPartial :=
  ⟨k, 0, 0, 0, false, false, (s.memc k).upd.expected, false⟩

/-- BAR0 offset of an UPD_ register. -/
def State.setUpd (s : State) (ks : List Stack) (o v : Nat) : State :=
  ks.foldl (fun t k => t.setReg (mr k o) (BitVec.ofNat 32 v)) s
def State.setUpd64 (s : State) (ks : List Stack) (o : Nat) (v : DWord) : State :=
  ks.foldl (fun t k => t.setReg64 (mr k o) v) s

/-- The registers that a slice captures (R351). -/
def State.updCapture (s : State) (k : Stack) : State :=
  s.modMem k fun m => { m with upd := ⟨s.reg64 (mr k 0x1008), s.reg (mr k 0x1010), (s.reg (mr k 0x1004)).getLsbD 0⟩ }

def slicesOf (m : BitVec 8) : List Stack := (List.finRange 8).filter fun k => m.getLsbD k.val

/-- The descriptor's bytes, none where they cannot be read. -/
def State.updDesc (s : State) (a : Nat) : Option (List Byte) :=
  if s.nearOk a 128 && !s.dirty a 128 then some (s.bytes a 128) else none

/-- A pass 1 that cannot exchange ends undecided: UPD_DECISION shows none, or WITHHOLD for its cause, which is not stated. -/
def State.updNoDecision (s : State) (slices : List Stack) : State :=
  (s.setUpd slices 0x1018 (if s.fresh.getLsbD 0 then 3 + 256 * 0x0A02 else 0)).used

/-- An upd.pass1 starts (R351 to R353). -/
def State.startPass1 (s : State) (g : Course) (serial addr : Nat) (m : BitVec 8) : State :=
  let part := s.partOf g
  let slices := slicesOf m
  let key := slices.headD 0
  let t := (slices.foldl (fun t k => t.updCapture k) s).setUpd slices 0x1018 1
  match t.updDesc addr with
  | none => ((t.updFault g serial key 0x0A02 true).updNoDecision slices).instrDone g 7 serial
  | some d =>
    let ok := t.updDescOk part key slices d true
    let shards := slices.map fun k => (k, if ok then t.shardOf part k d else none)
    let bad := shards.any fun x => x.2.isNone
    let first := ((shards.find? fun x => x.2.isNone).map (·.1)).getD key
    let u := if bad then t.updFault g serial first 0x0A02 true else t
    if (t.updTable part key d).isNone then (u.updNoDecision slices).instrDone g 7 serial
    else
      let ps : List UpdPartial := shards.map fun x => match x.2 with
        | some h => t.slicePartial x.1 (natAt d 48 4) h
        | none => t.emptyPartial x.1
      { u with upds := u.upds ++ [⟨g, serial, slices, d, bad, ps, [], false⟩], freeCtr := u.freeCtr + 8 }

/-! ### The keystone (R346, R354 to R359) -/

def UpdRun.key (r : UpdRun) : Stack := r.slices.headD 0
def UpdRun.members (r : UpdRun) : Nat := natAt r.desc 34 2
def UpdRun.rank (r : UpdRun) : Nat := natAt r.desc 32 2
def UpdRun.xseq (r : UpdRun) : Nat := natAt r.desc 0 8

/-- The running pass 1 whose keystone is k. -/
def State.keyRun (s : State) (k : Stack) : Option UpdRun := s.upds.find? fun r => decide (r.key = k)
def State.modUpd (s : State) (r : UpdRun) (f : UpdRun → UpdRun) : State :=
  { s with upds := s.upds.map fun u => if u.g = r.g ∧ u.serial = r.serial then f u else u }
def State.dropUpd (s : State) (r : UpdRun) : State :=
  { s with upds := s.upds.filter fun u => !(decide (u.g = r.g) && decide (u.serial = r.serial)) }

/-- Address of the slot of a rank for a sequence number (R357). -/
def State.updSlot (s : State) (r : UpdRun) (rank xseq : Nat) : Option Nat :=
  (s.updTable (s.partOf r.g) r.key r.desc).map fun a => a + 64 * (2 * rank + xseq % 2)

/-- The current record of a rank, if the table holds it (R357). -/
def State.updHeld (s : State) (r : UpdRun) (rank : Nat) : Option (List Byte) :=
  match s.updSlot r rank r.xseq with
  | some a => if !s.dirty a 64 && s.rdN a 8 == r.xseq then some (s.bytes a 64) else none
  | none => none

/-- Partials in stack order. -/
def UpdRun.inOrder (r : UpdRun) : List UpdPartial := r.slices.filterMap fun k => r.arrived.find? fun p => decide (p.stack = k)

/-- The member record of the keystone (R355). -/
def State.memberRecord (s : State) (r : UpdRun) : List Byte :=
  let ps := r.inOrder
  let cap := (s.memc r.key).upd
  let mis := ps.any (·.mismatch)
  let upd := ps.any (·.updating)
  let found := match ps.find? fun p => p.mismatch || p.updating with
    | some p => p.found
    | none => cap.expected
  let bit (b : Bool) (v : Nat) : Nat := if b then v else 0
  leBytes 8 r.xseq ++ leBytes 8 cap.expected.toNat ++ leBytes 8 found.toNat ++ leBytes 4 (normSum (ps.map (·.sq))) ++
    leBytes 4 cap.stepSize.toNat ++ leBytes 8 (ps.map (·.poisoned)).sum ++ leBytes 8 (ps.map (·.overrange)).sum ++
    leBytes 2 r.rank ++
    leBytes 1 (bit (mis || upd || r.fault) 1 + bit mis 2 + bit upd 4 + bit (ps.any (·.long)) 8 + bit r.fault 16 +
      bit cap.policy 32) ++
    leBytes 1 0 ++ (r.desc.drop 28).take 4 ++ (r.desc.drop 24).take 4 ++ leBytes 4 0

/-- Fields of a record. -/
def recFlag (b : List Byte) (i : Nat) : Bool := (byteAt b 50).testBit i
def recExpected (b : List Byte) : Nat := natAt b 8 8
/-- What members must agree on, in the order of R358: EXPECTED, STEP_SIZE, POLICY, GSCALE, MAXNORM. -/
def recParams (b : List Byte) : List Nat :=
  [natAt b 8 8, natAt b 28 4, if recFlag b 5 then 1 else 0, natAt b 52 4, natAt b 56 4]

/-- A decision (R358): whether it is WITHHOLD, its cause, and values A and B; none where the table gives no value. -/
structure Decision where
  withhold : Bool
  cause : Nat
  vals : Option (Nat × Nat)
  deriving DecidableEq, Repr

/-- The first two different entries of two lists. -/
def firstDiffer : List Nat → List Nat → Option (Nat × Nat)
  | a :: as, b :: bs => if a = b then firstDiffer as bs else some (a, b)
  | _, _ => none

/-- The global squared norm (R354). -/
def globalNorm (recs : List (List Byte)) (gscale : Nat) : Nat :=
  mul32 (mul32 (normSum (recs.map fun b => natAt b 24 4)) gscale) gscale

/-- The first row of R358 that applies. -/
def updDecide (recs : List (List Byte)) (gscale : Nat) : Decision :=
  let norm := globalNorm recs gscale
  let poisoned := (recs.map fun b => natAt b 32 8).sum
  match recs.find? fun b => recFlag b 4 with
  | some b => ⟨true, 0x0A06, some (0, natAt b 48 2)⟩
  | none => match recs.find? fun b => recFlag b 1 || recFlag b 2 with
    | some b => ⟨true, 0x0A03, some (recExpected b, natAt b 16 8)⟩
    | none =>
      let p0 := recParams (recs.headD [])
      match recs.findSome? fun b => firstDiffer p0 (recParams b) with
      | some v => ⟨true, 0x0A05, some v⟩
      | none =>
        if !(f32 norm).isFinite || (!recFlag (recs.headD []) 5 && decide (0 < poisoned)) then
          ⟨true, 0x0A04, some (norm, poisoned)⟩
        else ⟨false, 0, none⟩

/-- Every selected slice holds a decision, and the pass completes (R359). -/
def State.updHold (s : State) (r : UpdRun) (d : Decision) : State :=
  let t := s.setUpd r.slices 0x1018 ((if d.withhold then 3 else 2) + 256 * d.cause)
  let t := t.setUpd64 r.slices 0x1020 (BitVec.ofNat 64 r.xseq)
  let t := match d.vals with
    | some v => (t.setUpd64 r.slices 0x1028 (BitVec.ofNat 64 v.1)).setUpd64 r.slices 0x1030 (BitVec.ofNat 64 v.2)
    | none => ((t.setUpd64 r.slices 0x1028 t.fresh).used).setUpd64 r.slices 0x1030 t.used.fresh |>.used
  let t := if d.withhold then t.updFault r.g r.serial r.key (BitVec.ofNat 16 d.cause) false else t
  (t.dropUpd r).instrDone r.g 7 r.serial

/-- The keystone decides once it holds the current records of all members (R358). -/
def State.updTryDecide (s : State) (r : UpdRun) : State :=
  match allSome ((List.range r.members).map fun i => s.updHeld r i) with
  | none => s
  | some recs =>
    let gs := natAt r.desc 28 4
    let t := s.setUpd r.slices 0x1038 (globalNorm recs gs)
    let t := t.setUpd64 r.slices 0x1040 (BitVec.ofNat 64 (recs.map fun b => natAt b 32 8).sum)
    let t := t.setUpd64 r.slices 0x1048 (BitVec.ofNat 64 (recs.map fun b => natAt b 40 8).sum)
    let t := if recs.any fun b => recFlag b 3 then r.slices.foldl (fun t k => t.orReg (mr k 0x1050) 1) t else t
    t.updHold r (updDecide recs gs)

/-- The keystone has every partial: it writes its own record and sends it to every other member (R356). -/
def State.updExchange (s : State) (r : UpdRun) : State :=
  let rec0 := s.memberRecord r
  let t := match s.updSlot r r.rank r.xseq with
    | some a => s.store a rec0
    | none => s
  let t := t.modUpd r fun u => { u with exchanging := true }
  let others := (List.range r.members).filter fun i => i != r.rank
  let t := others.foldl (fun t i =>
    t.netMessage (.mem r.key) (s.partOf r.g) (byteAt r.desc 39) i 0x06 (BitVec.ofNat 64 r.xseq) rec0 .record
      (match s.updSlot r r.rank r.xseq with
        | some a => .record a
        | none => .state)) t
  match t.keyRun r.key with
  | some r => t.updTryDecide r
  | none => t

/-- The partial of slice k reaches the keystone over the mortar fabric (R346, R354). -/
def updSlicePartial (k : Stack) (s : State) : State :=
  match s.upds.find? fun r => r.sent.any fun p => decide (p.stack = k) with
  | none => s
  | some r =>
    match r.sent.find? fun p => decide (p.stack = k) with
    | none => s
    | some p =>
      if !hopsUp s (route (stackDie k).val (stackDie r.key).val) then s
      else
        let r2 : UpdRun := { r with sent := r.sent.filter (fun q => !decide (q.stack = k)), arrived := r.arrived ++ [p] }
        let t := s.modUpd r fun _ => r2
        if r2.sent.isEmpty then t.updExchange r2 else t

/-- Take the first UPD_RECORD of a partition and group from an inbox. -/
def State.takeRecord (s : State) (part group : Nat) : Option (RxMsg × State) :=
  (List.finRange 2).findSome? fun x =>
    (((s.net x).inbox.find? fun m => decide (byteAt m.bytes 0 = 6) && decide (m.part = part) && decide (rxGroup m = group))).map
      fun m => (m, s.modNet x fun n => { n with inbox := n.inbox.erase m })

/-- A member record arrives at keystone k and goes to its slot; the last current one lets the keystone decide (R357,
R358). A record that comes while no pass 1 has told where the table lies waits at the network engine. -/
def updRecord (k : Stack) (s : State) : State :=
  match s.keyRun k with
  | none => s
  | some r =>
    match s.takeRecord (s.partOf r.g) (byteAt r.desc 39) with
    | none => s
    | some (m, t) =>
      let b := (m.bytes.drop 16).take 64
      let t := match (if rxRank m < r.members then t.updSlot r (rxRank m) (natAt b 0 8) else none) with
        | some a => t.store a b
        | none => t
      if r.exchanging then t.updTryDecide r else t

/-- A write of UPD_CTRL (R360): ABORT ends a pass 1 that waits for records. What the decision's other registers then show
is not stated. -/
def State.wrUpdCtrl (s : State) (k : Stack) (v : Word) : State :=
  match s.upds.find? fun r => r.exchanging && r.slices.contains k with
  | some r =>
    if v.getLsbD 0 then
      let t := (s.setUpd r.slices 0x1038 (s.fresh.toNat % 2 ^ 32)).used
      let t := (t.setUpd64 r.slices 0x1040 t.fresh).used
      let t := (t.setUpd64 r.slices 0x1048 t.fresh).used
      t.updHold r ⟨true, 0x0A07, none⟩
    else s
  | none => s

/-- UPD_STATUS (R373). -/
def State.updStatus (s : State) (k : Stack) : Nat :=
  match s.upds.find? fun r => r.slices.contains k with
  | none => 0
  | some r =>
    let key := decide (r.key = k)
    1 + (if key then 4 else 0) + (if key && r.exchanging then 8 else 0) +
      (if key then 16 * ((List.range r.members).filter fun i => (s.updHeld r i).isSome).length else 0)

/-! ### Pass 2 (R361 to R364, R371) -/

/-- What pass 2 computes with: the descriptor's and the decision's scalars (R362). -/
structure UpdScalars where
  b1 : Nat
  b2 : Nat
  omb1 : Nat
  omb2 : Nat
  eps : Nat
  decay : Nat
  gscale : Nat
  c1 : Nat
  c2 : Nat
  clip : Nat
  step : Nat
  skip : Bool
  expect : Nat
  deriving DecidableEq, Repr

def oneF : Nat := 0x3F800000

/-- bpow of R362. -/
def bpow (t beta : Nat) : Nat := exp2f (toF32 ((f32 (log2f beta)).exact.mul (.dy t 0)))

def updScalars (d : List Byte) (norm : Nat) (cap : UpdCapture) : UpdScalars :=
  let t := cap.expected.toNat + 1
  let b1 := natAt d 8 4
  let b2 := natAt d 12 4
  let nrm := sqrt32 norm
  let q := div32 (natAt d 24 4) nrm
  { b1 := b1, b2 := b2, omb1 := sub32 oneF b1, omb2 := sub32 oneF b2, eps := natAt d 16 4, decay := natAt d 20 4
    gscale := natAt d 28 4, c1 := sub32 oneF (bpow t b1), c2 := sub32 oneF (bpow t b2)
    clip := if (f32 nrm).isZero then oneF else if lt32 q oneF then q else oneF
    step := cap.stepSize.toNat, skip := cap.policy, expect := natAt d 48 4 }

/-- One element as it is held: master bits, and moments, none where the exponent field is 0xFF (R46). -/
structure UpdElem where
  w : Nat
  m : Option Exact
  v : Option Exact
  deriving DecidableEq, Repr

/-- An FP32 product with an exact factor, rounded once. -/
def mulExact (a : Nat) (x : Option Exact) : Nat := match x with
  | some e => toF32 ((f32 a).exact.mul e)
  | none => nan32

/-- The new w', m' and v' of an element with gradient lane l at exponent exp (R363); a poisoned lane converts to the canonical NaN
(R69). -/
def UpdScalars.apply (c : UpdScalars) (exp : Nat) (l : Option Int) (x : UpdElem) : Nat × Nat × Nat :=
  let g := mul32 (mul32 ((l.map fun l => toF32 (.dy l ((exp : Int) - 127))).getD nan32) c.gscale) c.clip
  let m := add32 (mulExact c.b1 x.m) (mul32 c.omb1 g)
  let v := add32 (mulExact c.b2 x.v) (mul32 c.omb2 (mul32 g g))
  let u := div32 (div32 m c.c1) (add32 (sqrt32 (div32 v c.c2)) c.eps)
  (sub32 x.w (mul32 c.step (add32 u (mul32 c.decay x.w))), m, v)

/-- One element after the step, and whether it was kept for a result that is not finite (R363). -/
def UpdScalars.element (c : UpdScalars) (exp : Nat) (l : Option Int) (pz : Bool) (x : UpdElem) : UpdElem × Bool :=
  if pz && c.skip then (x, false)
  else
    let r := c.apply exp l x
    if (f32 r.1).isFinite && (f32 r.2.1).isFinite && (f32 r.2.2).isFinite then
      (⟨r.1, some (f32 r.2.1).exact, some (f32 r.2.2).exact⟩, false)
    else (x, true)

/-- The moments of one kind: the exponent field and 64 mantissas. A mantissa for which no value is held is open (R46). -/
def momentOut (free : Nat → Byte) (xs : List (Option Exact)) : Byte × List Byte :=
  let r := blockChoose 8 (xs.map fun x => (x, .rne))
  (BitVec.ofNat 8 r.1, r.2.zipIdx.map fun v => match v.1 with
    | some i => BitVec.ofNat 8 (twos 8 i)
    | none => free v.2)

/-- The 64 elements of block b of a tensor (R349). -/
def State.updElems (s : State) (master rec : Nat) : List UpdElem :=
  let e1 := s.rdN rec 1
  let e2 := s.rdN (rec + 1) 1
  let val (e i : Nat) : Option Exact := if e = 255 then none else some (.dy (sext 8 i) ((e : Int) - 127))
  (List.range 64).map fun i =>
    ⟨s.rdN (master + 4 * i) 4, val e1 (s.rdN (rec + 8 + i) 1), val e2 (s.rdN (rec + 72 + i) 1)⟩

/-- Update block b of a tensor (R363, R364): the new state, and how many elements were kept for their result. What depends
on a line that was poisoned in `s0`, before the pass, is written poisoned (R371; log entry 112). -/
def State.updBlock (s s0 : State) (c : UpdScalars) (t : UpdTensor) (b : Nat) : State × Nat :=
  let master := t.master + 256 * b
  let rec0 := t.moment + 136 * b
  let grad := t.grad + 416 * b
  let g := s.gradPz c.expect grad
  let pg := !c.skip && s0.dirty grad 416
  let out := (s.updElems master rec0).zipIdx.map fun x =>
    c.element g.1.exp (g.1.lane x.2) (g.2.testBit x.2) x.1
  let es := out.map (·.1)
  let m := momentOut (fun i => (Config.freeValue (s.freeCtr + i)).setWidth 8) (es.map (·.m))
  let v := momentOut (fun i => (Config.freeValue (s.freeCtr + 64 + i)).setWidth 8) (es.map (·.v))
  let pm := pg || s0.dirty rec0 136
  let t1 := (linePieces master ((es.flatMap fun e => leBytes 4 e.w).map fun x => (x, false))).foldl
    (fun (u : State) p => u.storeP p.1 p.2.1 (pm || s0.dirty p.1 p.2.1.length)) s
  let t2 := t1.storeP rec0 ([m.1, v.1] ++ List.replicate 6 0 ++ m.2 ++ v.2) (pm || s0.dirty master 256)
  ({ t2 with freeCtr := t2.freeCtr + 128 }, (out.filter (·.2)).length)

/-- Lines of `n` bytes from `a` that read poisoned. -/
def State.dirtyLines (s : State) (a n : Nat) : List Nat :=
  ((List.range ((a + n + 63) / 64 - a / 64)).map fun i => a / 64 + i).filter fun l => s.dirty (64 * l) 64

/-- Lines that pass 2 reads poisoned for the blocks of a shard. -/
def State.shardDirty (s : State) (skip : Bool) (h : UpdShard) : List Nat :=
  h.tensors.flatMap fun t => s.dirtyLines t.master (4 * t.nc * t.k) ++ s.dirtyLines t.moment (136 * t.blocks) ++
    (if skip then [] else s.dirtyLines t.grad (416 * t.blocks))

/-- Lines of new masters that pass 2 reads poisoned for the images of a shard. -/
def State.imageDirty (s : State) (h : UpdShard) : List Nat :=
  h.tensors.flatMap fun t => if t.fwd.isSome || t.trn.isSome then s.dirtyLines t.master (4 * t.nc * t.k) else []

/-! ### Weight images (R365 to R368) -/

/-- Codes of one channel's chunk: scale, codes, and whether a master it depends on is poisoned. -/
abbrev ImgChunk := (Nat × List Nat) × Bool

/-- Chunk x of channel n, with masters at `addr`. -/
def State.imgChunk (s : State) (f : IdxFmt) (addr : Nat → Nat → Nat) (n x : Nat) : ImgChunk :=
  let as := (List.range 128).map fun i => addr n (128 * x + i)
  let vals : List BlockIn := as.map fun a => match f32 (s.rdN a 4) with
    | .num neg m e => (some (Fp.num neg m e).exact, .rne)
    | _ => (none, .rne)
  (idxChunk f vals, as.any fun a => s.dirty a 4)

/-- The chunks of N-tile n: by chunk, then by channel of the tile. -/
def State.imgTile (s : State) (f : IdxFmt) (addr : Nat → Nat → Nat) (im : UpdImage) (n : Nat) : List (List ImgChunk) :=
  (List.range (im.poss / 128)).map fun x => (List.range 16).map fun c => s.imgChunk f addr (16 * n + c) x

/-- Plane row m of plane p of a tile (R54), each byte with its poison. -/
def planeRow (tile : List (List ImgChunk)) (p m : Nat) : List (Byte × Bool) :=
  (tile.getD (m / 2) []).flatMap fun c =>
    (leBytes 8 (planeWord p ((c.1.2.drop (64 * (m % 2))).take 64))).map fun b => (b, c.2)

/-- Encoding of a feed unit: its settings, and the pieces of the pass whose encoder goes wrong. -/
structure UpdEnc where
  blen : Nat
  pre : Bool
  zr : Bool
  nibble : Bool
  upset : List Nat
  deriving DecidableEq, Repr

/-- A feed unit encoded under R294 after `done` pieces of the pass: its bytes, how many of its pieces failed their check, and the
pieces formed by now. -/
def UpdEnc.unit (e : UpdEnc) (done : Nat) (bs : List Byte) : List Byte × Nat × Nat :=
  let ps := (pieces e.blen bs.length bs).zipIdx.map fun p => encodePiece e.pre e.zr e.nibble (e.upset.contains (done + p.2)) p.1
  (ps.flatMap (·.1), (ps.filter (·.2)).length, done + ps.length)

/-- Write one feed unit (R366): slot u of the image, and its directory entry. -/
def State.writeUnit (s : State) (k : Stack) (e : UpdEnc) (im : UpdImage) (u done : Nat) (rows : List (Byte × Bool)) :
    State × Nat :=
  let r := e.unit done (rows.map (·.1))
  let bad := rows.any (·.2)
  let t := s.storeP (im.img + u * slotSize im.poss e.blen) r.1 bad
  let t := t.storeP (im.dir + 4 * u) (leBytes 4 r.1.length) bad
  ((List.range r.2.1).foldl (fun (u : State) _ =>
    u.raiseWith (stackDie k) (plainReport 0x0708 0x0B (BitVec.ofNat 8 (k.val % 2)) 0xF) none) t, r.2.2)

/-- N-tile n of an image: its scales, and its planes as plane rows or feed units. -/
def State.writeTile (s : State) (k : Stack) (e : UpdEnc) (t : UpdTensor) (im : UpdImage) (tile : List (List ImgChunk))
    (n done : Nat) : State × Nat :=
  let planes := t.ifmt.planes
  let rows := im.poss / 64
  let s1 := tile.zipIdx.foldl (fun (u : State) c =>
    u.storeP (im.scale + (n * (im.poss / 128) + c.2) * 16) (c.1.map fun x => BitVec.ofNat 8 x.1.1) (c.1.any (·.2))) s
  (List.range planes).foldl (fun (acc : State × Nat) p =>
    if t.raw then
      ((List.range rows).foldl (fun (u : State) m =>
        (linePieces (im.img + ((n * planes + p) * rows + m) * 128) (planeRow tile p m)).foldl
          (fun (v : State) q => v.storeP q.1 q.2.1 q.2.2) u) acc.1, acc.2)
    else
      (List.range (segments im.poss)).foldl (fun (acc : State × Nat) g =>
        let ms := (List.range (min 64 (rows - 64 * g))).map fun i => 64 * g + i
        acc.1.writeUnit k e im ((n * planes + p) * segments im.poss + g) acc.2 (ms.flatMap fun m => planeRow tile p m)) acc)
    (s1, done)

/-- An image (R365). -/
def State.writeImage (s : State) (k : Stack) (e : UpdEnc) (t : UpdTensor) (im : UpdImage) (addr : Nat → Nat → Nat) (done : Nat) :
    State × Nat :=
  (List.range (im.chans / 16)).foldl (fun (acc : State × Nat) n =>
    acc.1.writeTile k e t im (acc.1.imgTile t.ifmt addr im n) n acc.2) (s, done)

/-- Address of the master of local channel c and position p. -/
def UpdTensor.at (t : UpdTensor) (c p : Nat) : Nat := t.master + 4 * (c * t.k + p)

/-- The images of a tensor. -/
def State.writeImages (s : State) (k : Stack) (e : UpdEnc) (t : UpdTensor) (done : Nat) : State × Nat :=
  let r := match t.fwd with
    | some im => s.writeImage k e t im (fun n p => t.at n p) done
    | none => (s, done)
  match t.trn with
  | some im => r.1.writeImage k e t im (fun n p => t.at p n) r.2
  | none => r

/-! ### Pass 2 of a slice, and of the instruction -/

/-- Slice k applies the step to its shard (R361): the state, the elements kept, the poisoned lines read, the pieces encoded. -/
def State.updSlice (s : State) (k : Stack) (d : List Byte) (e : UpdEnc) (sh : UpdShard) (done : Nat) :
    State × Nat × Nat × Nat :=
  let c := updScalars d (s.reg (mr k 0x1038)).toNat (s.memc k).upd
  let s1 := (s.storeN (sh.hdr + 8) 1 1).storeN (sh.hdr + 16) 8 (natAt d 0 8)
  let blocks := sh.tensors.flatMap fun t => (List.range t.blocks).map fun b => (t, b)
  let r := blocks.foldl (fun (acc : State × Nat) tb =>
    let x := acc.1.updBlock s c tb.1 tb.2
    (x.1, acc.2 + x.2)) (s1, 0)
  let lines := (s.shardDirty c.skip sh ++ r.1.imageDirty sh).eraseDups.length
  let im := sh.tensors.foldl (fun (acc : State × Nat) t => acc.1.writeImages k e t acc.2) (r.1, done)
  let s2 := (im.1.storeN sh.hdr 8 ((s.memc k).upd.expected.toNat + 1)).storeN (sh.hdr + 8) 1 0
  let s3 := (s2.count (mbase k) 0x1070 0x1058 blocks.length).count (mbase k) 0x1070 0x1060 r.2
  let s4 := s3.count (mbase k) 0x1070 0x1068 lines
  (if 0 < r.2 then s4.orReg (mr k 0x1050) 2 else s4, r.2, lines, im.2)

/-- Every selected slice holds a COMMIT decision for the descriptor's XSEQ (R361). -/
def State.committed (s : State) (slices : List Stack) (d : List Byte) : Bool :=
  slices.all fun k => (s.reg (mr k 0x1018)).toNat % 4 == 2 && (s.reg64 (mr k 0x1020)).toNat == natAt d 0 8

/-- An upd.pass2 starts and runs to its end (R361). `upset` names the pieces whose encoder goes wrong (R295). -/
def State.startPass2 (s : State) (g : Course) (serial addr : Nat) (m : BitVec 8) (upset : List Nat) : State :=
  let part := s.partOf g
  let slices := slicesOf m
  let key := slices.headD 0
  let stop (code : BitVec 16) : State := (s.updFault g serial key code true).instrDone g 7 serial
  match s.updDesc addr with
  | none => stop 0x0A02
  | some d =>
    if !s.committed slices d then stop 0x0A08
    else if !s.updDescOk part key slices d false then stop 0x0A02
    else
      match allSome (slices.map fun k => (s.shardOf part k d).map fun h => (k, h)) with
      | none => stop (if slices.any fun k => s.shardProt part k d then 0x0709 else 0x0A02)
      | some hs =>
        let enc := byteAt d 38
        let e : UpdEnc := ⟨64 * natAt d 36 2, enc.testBit 0, enc.testBit 1, enc.testBit 2, upset⟩
        let r := hs.foldl (fun (acc : State × List Stack × List Stack × Nat) kh =>
          let x := acc.1.updSlice kh.1 d e kh.2 acc.2.2.2
          (x.1, (if 0 < x.2.1 then acc.2.1 ++ [kh.1] else acc.2.1),
            (if 0 < x.2.2.1 then acc.2.2.1 ++ [kh.1] else acc.2.2.1), x.2.2.2)) (s, [], [], 0)
        let t := match r.2.1 with
          | k :: _ => r.1.updFault g serial k 0x0A09 true
          | [] => r.1
        let t := match r.2.2.1 with
          | k :: _ => t.updFault g serial k 0x0A0A true
          | [] => t
        t.instrDone g 7 serial

/-- When the upd.* at the head of a course's UPD queue came there. -/
def State.updTurn (s : State) (g : Course) : Option Nat :=
  let y := (s.course g).queue 7
  match y.entries, y.head with
  | e :: _, some h => if h.1 = e.serial then some h.2 else none
  | _, _ => none

/-- An upd.* may start: no other one runs in its partition, and none came to the head of its queue before it (R345). -/
def State.updFree (s : State) (g : Course) : Bool :=
  (s.upds.all fun r => decide (s.partOf r.g ≠ s.partOf g)) && (List.finRange 32).all fun h =>
    decide (s.partOf h ≠ s.partOf g) || match s.updTurn h, s.updTurn g with
      | some a, some b => decide (b < a) || decide (a = b ∧ g.val ≤ h.val)
      | _, _ => true

/-- An upd.* that has entered the started list begins. -/
def State.runUpd (s : State) (g : Course) (e : QEntry) (upset : List Nat) : State :=
  match e.op with
  | .updPass false a m => s.startPass1 g e.serial a m
  | .updPass true a m => s.startPass2 g e.serial a m upset
  | _ => s

def execUpdPass1 (g : Course) (w : BitVec 56) (s : State) : Out := .next (s.issueEngine g w 7 [(29, 0)] true 0x0A01 (issueUpd false g w))
def execUpdPass2 (g : Course) (w : BitVec 56) (s : State) : Out := .next (s.issueEngine g w 7 [(29, 0)] true 0x0A01 (issueUpd true g w))
def execUpdSlicePartial (k : Stack) (s : State) : Out := .next (s.ifDie (stackDie k) (updSlicePartial k))
def execUpdRecord (k : Stack) (s : State) : Out := .next (s.ifDie (stackDie k) (updRecord k))

end Sys2Proof.Machine
end

