-- ==== Sys2Proof/Machine/Start.lean ====
section
/-! DEFINITION. Start: the start of the instruction at a queue head (R213, R214, R235, R502, R513). -/

namespace Sys2Proof.Machine

/-! ### When an engine can accept an instruction -/

/-- Every msn.pass issued before `serial` has had its last block enter, and every msn.tile and msn.parity before it has gone
(R98, R454). -/
def CourseState.msnFree (c : CourseState) (serial : Nat) : Bool :=
  (c.queue 0).started.all fun i => i.done || i.orphan || decide (serial ≤ i.e.serial) || match i.e.op with
    | .msnPass o => i.killed || decide (o.blocks ≤ i.prog)
    | .msnParity _ => false
    | _ => !i.restart

/-- The engine of an instruction can accept it. -/
def State.accepts (s : State) (g : Course) (e : QEntry) : Bool :=
  let c := s.course g
  match e.op with
  | .msnPass _ => c.msnFree e.serial
  | .msnTile .. => c.msnFree e.serial
  | .msnParity o => c.parityReady e.serial o
  | .tblBuild _ => (c.queue 1).started.all fun i => i.done || i.orphan || decide (e.serial ≤ i.e.serial)
  | .redRing .. => c.ring.isNone
  | .updPass .. => s.updFree g
  | .fwuMm _ => false
  | .queueWait .. => false
  | _ => true

/-! ### Checks of the vector engine (R185, R513) -/

/-- Groups of the vector engine that have failed. -/
def CourseState.vecCount (c : CourseState) : Nat := ((List.range 9).filter fun i => c.vecFailed.getLsbD i).length

/-- A lane group that serves the logical lanes fails (R513): the spare takes over, or 7 groups go on. -/
def State.vecLane (s : State) (g : Course) (group : Fin 9) : State :=
  let c := s.course g
  if c.vecFailed.getLsbD group.val || (decide (group.val = 8) && decide (c.vecFailed = 0)) then s
  else
    let t := (s.modCourse g fun c => { c with vecFailed := c.vecFailed ||| (1#9 <<< group.val) }).failed
      ⟨(courseDie g).val, 0x07, g.val % 8, 0, group.val⟩
    if c.vecFailed = 0 then t.raiseRel (courseDie g) 0x0F0B (g.val % 8) none
    else t.raiseRel (courseDie g) 0x0F0C (g.val % 8) none

/-- What the vector engine finds as an instruction of its queue, or one that draws, executes. -/
def State.vecCheck (s : State) (g : Course) (q : QueueId) (e : QEntry) (err : Option EngineErr) : State :=
  match err with
  | some (.lane k) => if q = 3 then s.vecLane g k else s
  | some (.rng more) => if e.rows.isSome then
      (List.range (more + 1)).foldl (fun t _ => t.raiseCourse g 0x0409 0x07 0x3 none) s
    else s
  | _ => s

/-! ### The start -/

/-- An instruction that replay repeats: an msn.parity repeats the segment that it had reached (R452, R458). -/
def State.noteRepeat (s : State) (g : Course) (q : QueueId) (e : QEntry) : State :=
  match e.op, (s.course g).findStarted q e.serial with
  | .msnParity _, some _ => s.countC g 0x1070 0x1068 1
  | _, _ => s

/-- The counters of cycles that may count once an instruction of a queue has started (R112, R134, R160). -/
def waitCounters (q : QueueId) : List Nat :=
  match q.val with
  | 0 => [0x1020, 0x1028, 0x1310]
  | 1 => [0x1118, 0x1120]
  | 5 => [0x1310]
  | _ => []

/-- A started instruction acts, once it is in the started list; none where a str.* waits at the queue head. -/
def State.actStart (s : State) (g : Course) (q : QueueId) (e : QEntry) (err : Option EngineErr) : Option State :=
  let t := s.vecCheck g q e err
  match e.op with
  | .msnTile slot n eref discard => some (t.modCourse g fun c => (c.pushAll [.openTile e.serial slot n eref discard]).flowAll)
  | .msnParity o => some (t.runParity g e.serial o err)
  | .strArm .. | .strRearm .. | .strResume .. | .walkLoad .. => t.runStr g e
  | .vecEl .. | .vecCvt .. | .vecPadd .. | .vecSum .. | .vecFn .. | .vecQbw16 .. | .vecQidx .. => some (t.runVec g e)
  | .redSend .. | .redAccum .. | .redRing .. => some (t.runRed g e)
  | .updPass .. => some (t.runUpd g e (match err with
    | some (.encoder ps) => ps
    | _ => []))
  | _ => some t

/-- A str.* has nothing left once it has acted. -/
def State.strDone (s : State) (g : Course) (q : QueueId) (e : QEntry) : State :=
  if q = 2 then s.instrDone g 2 e.serial else s

/-- The instruction leaves the head of its queue and starts with its credits; one that replay repeats starts again. -/
def CourseState.begin (c : CourseState) (q : QueueId) (e : QEntry) (held : Bool) (n : Nat) (src : CreditSrc) : CourseState :=
  match c.findStarted q e.serial with
  | some _ => c.modStarted q e.serial fun i =>
      if held then { i with restart := false } else { i with restart := false, credits := n, src := src }
  | none => c.modQueue q fun y => { y with
      entries := y.entries.tail
      started := y.started ++ [⟨e, n, src, false, 0, false, false, false, 0, false, false, false, false⟩] }

/-- An instruction that replay repeats still holds the credits it started with. -/
def CourseState.stillHeld (c : CourseState) (q : QueueId) (e : QEntry) : Bool :=
  match c.findStarted q e.serial with
  | some i => decide (0 < i.credits)
  | none => false

/-- The leave of an instruction that is to start (R235): none while it is not granted. -/
def State.leaveFor (s : State) (g : Course) (q : QueueId) (e : QEntry) : State × Option (Nat × CreditSrc) :=
  if (s.course g).stillHeld q e then (s, some (0, CreditSrc.none))
  else s.obtainLeave g q ((s.course g).need e.op) e.pc

/-- ENGINE_INSTR_START: `err` is a check that fails as the instruction starts. -/
def instrStart (g : Course) (q : QueueId) (err : Option EngineErr) (s : State) : State :=
  let c := s.course g
  if c.frozen q then s
  else match c.startNext q with
    | none => s
    | some e =>
      if !s.accepts g e then s
      else
        match s.leaveFor g q e with
        | (t, none) => t
        | (t, some (n, src)) =>
          let t := (waitCounters q).foldl (fun t o => t.startTicks (cr g o)) (t.noteRepeat g q e)
          match (t.modCourse g fun d => d.begin q e (c.stillHeld q e) n src).actStart g q e err with
          | none => s
          | some u => ((u.strDone g q e).settle g).checkWindow g

/-- FWU_ACCEPT, unless a halted stream or a deadlock freezes the queue (R272, R279). -/
def fwuTake (g : Course) (s : State) : State := if (s.course g).frozen 4 then s else (fwuAccept g s).settle g

def execEngineInstrStart (g : Course) (q : QueueId) (e : Option EngineErr) (s : State) : Out := .next (s.ifCourse g (instrStart g q e))
def execFwuAccept (g : Course) (s : State) : Out := .next (s.ifCourse g (fwuTake g))

end Sys2Proof.Machine
end

