-- ==== Sys2Proof/Machine/Rely.lean ====
section
/-! DEFINITION. Rely: quiescence (R231), the lockstep pair (R509, R510), self-tests (R496 to R498), READMIT (R508), and the
words of staging SRAM and control storage (R515). -/

namespace Sys2Proof.Machine

/-! ### Quiescence (R231, R243) -/

/-- The origin is an instruction of course `g`. -/
def MsgOrigin.of (g : Course) : MsgOrigin → Bool
  | .red h _ => h == g
  | .ring h _ => h == g
  | _ => false

/-- Remote-accumulate work of a course, the partials that its ring has received among it, a tally addition or a notice of the course is
still in the fabric, a controller or the network. -/
def State.raBusy (s : State) (g : Course) : Bool :=
  let mine (r : RaReq) : Bool := match r.origin with
    | .instr h _ => h == g
    | .net .. => false
  s.msgs.any (fun m => match m.body with
    | .raReq r => mine r
    | .raOutcome h _ _ => h == g
    | .tallyAdd .. => m.src == .course g
    | .notice .. => m.src == .course g
    | _ => false) ||
  (s.mems.toList.any fun m => m.raPorts.any mine || m.raQueue.any fun q => mine q.1) ||
  s.nets.toList.any fun n => (n.queue.any fun m => m.2.origin.of g) ||
    (n.jobs.any fun j => j.ring.any fun r => r.1 == g) ||
    (n.conns.any fun c => c.2.unacked.any fun u => (u.msg.map fun m => m.origin.of g) == some true) ||
    n.qps.any fun q => q.2.unacked.any fun u => u.2.2.origin.of g

/-- CCR_STATUS.QUIESCED. -/
def State.quiesced (s : State) (g : Course) : Bool :=
  let c := s.course g
  decide (c.ctl ≠ .running) && c.stalled.isNone && (c.queues.toList.all fun y => y.entries.isEmpty && y.started.isEmpty) &&
    (c.str.streams.all fun e => e.2.inflight.isEmpty) && c.jobs.isEmpty && c.ring.isNone && c.selfTests.isEmpty &&
    !s.raBusy g && s.upds.all fun u => decide (u.g ≠ g)

/-- A write of STR_BW_SPLIT (R264). -/
def State.wrSplit (s : State) (g : Course) (v : Word) : State :=
  let x := v.toNat
  let p := [x % 16, x / 16 % 16, x / 256 % 16]
  if s.quiesced g && p.all (fun k => decide (1 ≤ k) && decide (k ≤ 14)) && decide (p.sum = 16)
  then s.setReg (cr g 0x2004) (v &&& 0xFFF) else s.orReg (cr g 0x2048) 1

/-! ### The lockstep pair (R509, R510) -/

/-- The controller pair of a course fails: its partner adopts the course, or the course is fenced (R510). -/
def State.pairFailed (s : State) (g : Course) : State :=
  let t := (s.modCourse g fun c => { c with ctrlFailed := true }).failed ⟨(courseDie g).val, 0x01, g.val % 8, 0, 0⟩
  let p := t.course (partner g)
  if p.adopted || p.adopting || p.ctl == .fenced then t.fence g
  else ((t.modCourse g fun c => { c with adopted := true }).modCourse (partner g) fun c => { c with adopting := true }).raiseRel
    (courseDie g) 0x0F07 (g.val % 8) none

/-- LOCKSTEP_MISMATCH: the pair returns to its checkpoint and executes again, which shows outside only as a retry; a mismatch
that `persists` declares it failed. A course that its partner runs, or that is fenced, has no pair to compare. -/
def lockstepMismatch (g : Course) (persists : Bool) (s : State) : State :=
  let c := s.course g
  if c.ctrlFailed || c.ctl == .fenced then s
  else
    let t := s.raiseWith (courseDie g) (plainReport 0x050B 0x0E (courseInst g) 0x8) none
    if persists then t.pairFailed g else t.countC g 0x3828 0x3820 1

/-! ### Self-tests (R496 to R498) -/

/-- Groups 0 to 5 of a mask, and groups 6 and 7. -/
def courseGroups (u : BitVec 8) : BitVec 8 := u &&& 0x3F
def dieGroups (u : BitVec 8) : BitVec 8 := u &&& 0xC0

/-- A self-test of the groups of a mask is asked for: each part starts when the tests before it end (R497). -/
def State.askTest (s : State) (g : Course) (units : BitVec 8) (pc : Addr) (te : Bool) (tally : Fin 256) (ntf : Bool) : State :=
  let id := s.stamp
  let t := (s.modCourse g fun c => { c with selfTests := c.selfTests ++ [⟨id, pc, units, te, tally, ntf⟩] }).tick
  if dieGroups units = 0 then t
  else t.modDie (courseDie g) fun x => { x with selfTests := x.selfTests ++ [⟨some (g, id), dieGroups units⟩] }

/-- SELFTEST_PERIODIC: all eight groups of a course, or groups 6 and 7 of a compute die. -/
def selftestPeriodic (w : TestOwner) (s : State) : State :=
  match w with
  | .course g => s.askTest g 0xFF 0 false 0 false
  | .die d => if d.val < 4 then s.modDie d fun x => { x with selfTests := x.selfTests ++ [⟨none, 0xC0⟩] } else s

/-- diag.selftest (R224, R497). -/
def issueSelftest (g : Course) (w : BitVec 56) (t : State) : Act :=
  let u := BitVec.ofNat 8 (fld w 41 34)
  tallyField (t.course g) w 0x0F02 <|
    if u = 0 then .fault 0x0F02 (some 0)
    else .next (t.askTest g u (t.course g).pc (w.getLsbD 43) (tallyNum (fld w 51 44)) (w.getLsbD 42))

/-- Capture REL_SELFTEST at an offset while VALID is 0 (R161, R528). -/
def State.testResult (s : State) (off : Nat) (groups failed : BitVec 8) : State :=
  if (s.reg off).getLsbD 31 then s
  else s.setReg off (BitVec.ofNat 32 (0x80000000 + (groups &&& ~~~failed).toNat + 256 * (groups &&& failed).toNat))

/-- Groups of a course's test have finished; once all have, the test completes (R221, R234). -/
def State.testPart (s : State) (g : Course) (id : Nat) (groups : BitVec 8) : State :=
  let part (x : SelfTest) : SelfTest := if x.id = id then { x with left := x.left &&& ~~~groups } else x
  (s.modCourse g fun c => { c with selfTests := c.selfTests.map part }).finishTests g

/-- A checker of a course's group, of the groups that fail, fails its test (R498): its unit counts as failed. Groups 0 and 1 guard
the same array, which fails once. -/
def State.latent (s : State) (g : Course) (f : TestFault) (failing : BitVec 8) (k : Nat) : State :=
  let t := s.raiseRel (courseDie g) 0x0F09 (g.val % 8) none
  let array := f.array.val
  match k with
  | 0 => if array < (t.course g).arr.logical then t.arrayLost g array else t
  | 1 => if array < (t.course g).arr.logical ∧ !failing.getLsbD 0 then t.arrayLost g array else t
  | 2 => t.halfLost g f.half
  | 3 => t.vecLane g f.lane
  | 4 => if (t.course g).ctrlFailed || (t.course g).ctl == .fenced then t else t.pairFailed g
  | _ => t

/-- A checker of a die's group fails its test. -/
def State.latentDie (s : State) (d : CDie) (f : TestFault) (k : Nat) : State :=
  let t := s.raiseRel (cdieDie d) 0x0F09 0 none
  if k = 6 then (if (t.cdie d).fwuOk then t.fwuLost d else t)
  else t.failed ⟨d.val, 0x0D, 1, 0, f.copy.val⟩

/-- The groups of a mask, in order. -/
def groupList (m : BitVec 8) : List Nat := (List.range 8).filter fun i => m.getLsbD i

/-- The course's test that runs: the first with groups 0 to 5 still to test. -/
def CourseState.testing (c : CourseState) : Option SelfTest := c.selfTests.find? fun x => courseGroups x.left != 0

/-- A test of a die waits while the course that asked for it repoints (R496). -/
def State.testWaits (s : State) (x : DieTest) : Bool :=
  match x.owner with
  | some (g, _) => (s.course g).arr.repoint != .none
  | none => false

/-- SELFTEST_COMPLETE. A test waits while the course repoints (R496). -/
def selftestComplete (w : TestOwner) (f : TestFault) (s : State) : State :=
  match w with
  | .course g =>
    match (s.course g).testing with
    | none => s
    | some x =>
      if (s.course g).arr.repoint ≠ .none then s
      else
        let m := courseGroups x.left
        let t := (s.testResult (cr g 0x3814) m f.groups).testPart g x.id m
        (groupList (m &&& f.groups)).foldl (fun t k => t.latent g f (m &&& f.groups) k) t
  | .die d =>
    if h : d.val < 4 then
      match (s.die d).selfTests.find? fun x => !s.testWaits x with
      | none => s
      | some x =>
        let t := (s.modDie d fun y => { y with selfTests := y.selfTests.erase x }).testResult (dr d 0x20D8) x.groups f.groups
        let t := match x.owner with
          | some (g, id) => t.testPart g id x.groups
          | none => t
        (groupList (x.groups &&& f.groups)).foldl (fun t k => t.latentDie ⟨d.val, h⟩ f k) t
    else s

/-! ### REL_COURSE_CMD (R508, R511, R525) -/

/-- READMIT of physical array p, whose self-test passes or not. -/
def State.readmit (s : State) (g : Course) (p : Nat) (pass : Bool) : State :=
  if s.quiesced g && decide (p < 9) && !(s.course g).arr.healthy.getLsbD p then
    let h := (s.course g).arr.healthy ||| (1#9 <<< p)
    let held := if 7 ≤ (arraysOf h).length then h else (s.course g).arr.mapped
    if pass then s.modCourse g fun c => { c with arr := { c.arr with healthy := h, mapped := held, runs := [] } }
    else s.raiseRel (courseDie g) 0x0F09 (g.val % 8) none
  else s

/-! ### Words of staging SRAM and control storage (R515) -/

/-- SRAM_SCRUB_VISIT: a read or a scrub visit of a word of the course's slice, or of its control storage (none). -/
def sramScrubVisit (g : Course) (word : Option (Fin 3145728)) (e : WordErr) (scrub : Bool) (s : State) : State :=
  match e with
  | .ok => s
  | .corrected => s.countC g 0x341C 0x3400 1
  | .uncorrectable =>
    match word with
    | none => s.fence g
    | some n =>
      let o := 8 * n.val / 64 * 64
      let a := windowBase g + o
      if s.poisoned a then s
      else
        let t := ((s.setPoison a true).countC g 0x341C 0x3408 1).capture1 (cr g 0x3418) (if scrub then 1 else 0)
          (some (cr g 0x3410)) o
        t.raiseRel (courseDie g) 0x0F0A (g.val % 8) none

/-- REL_COURSE_STATE (R525). -/
def CourseState.relState (c : CourseState) : Nat :=
  let bit (b : Bool) (n : Nat) : Nat := if b then 2 ^ n else 0
  bit (c.arr.repoint != .none) 0 + bit c.arr.overflow 1 + bit c.adopted 2 + bit c.adopting 3 + bit (decide (1 ≤ c.vecCount)) 4 +
    bit (decide (2 ≤ c.vecCount)) 5 + bit c.ctrlFailed 6

/-! ### The commands -/

def execLockstepMismatch (g : Course) (persists : Bool) (s : State) : Out := .next (s.ifCourse g (lockstepMismatch g persists))
def execDiagSelftest (g : Course) (w : BitVec 56) (s : State) : Out := .next (s.issue g w 0x8 [(33, 0)] false (issueSelftest g w))
/-- What the owner of a self-test does, while it runs. -/
def State.ifOwner (s : State) (t : TestOwner) (act : State → State) : State :=
  match t with
  | .course g => s.ifCourse g act
  | .die d => s.ifDie d act

def execSelftestPeriodic (t : TestOwner) (s : State) : Out := .next (s.ifOwner t (selftestPeriodic t))
def execSelftestComplete (t : TestOwner) (f : TestFault) (s : State) : Out := .next (s.ifOwner t (selftestComplete t f))
def execSramScrubVisit (g : Course) (word : Option (Fin 3145728)) (e : WordErr) (scrub : Bool) (s : State) : Out :=
  .next (s.ifDie (courseDie g) (sramScrubVisit g word e scrub))

end Sys2Proof.Machine
end

