-- ==== Sys2Proof/Machine/Far.lean ====
section
/-! DEFINITION. Far: the far-memory controllers (R334 to R339, R343). -/

namespace Sys2Proof.Machine

/-- FAR_ACCESS: one access to a line of a link's window, a read or a write of bytes from an offset. `prot` is set for the
writers that R339 admits to a FAR_PROT window; `bad` where the attached device finds the line poisoned. Over a link that is down it is
one that was in flight (R335; log entry 114). -/
def farAccess (l : LinkId) (line : Nat) (data : Option (Nat × List Byte × Bool)) (prot bad : Bool) (s : State) : State :=
  let n := (farBase + l.val * 0x8000000000) / 64 + line
  if s.farUp l && !s.farOk (64 * n) 64 then s
  else
    let t := if bad then s.modFar l fun f => { f with poison := SMap.put f.poison n true false } else s
    match data with
    | none => (t.farReadLine l n).2.2
    | some (o, bs, poison) => t.farWriteLine l n o (bs.take (64 - o)) poison prot

/-! ### Links (R334, R335) -/

/-- A link or its device is lost: the window is unbacked. -/
def State.linkLost (s : State) (l : LinkId) : State :=
  if s.farUp l then ((s.setReg (fr l 0) (s.reg (fr l 0) &&& 0x100)).setReg64 (fr l 8) 0).raiseFar l 0x0902 none else s

/-- FAR_STATUS.WIDTH. -/
def State.linkWidth (s : State) (l : LinkId) : Nat := (s.reg (fr l 0)).toNat / 4 % 32

/-- A lane fails in service: the link retrains at x8 on the half without failed lanes, or is lost (R335, R535). -/
def cxlLaneFail (l : LinkId) (lane : Fin 16) (s : State) : State :=
  let old := (s.farc l).bad
  if !s.farUp l || old.getLsbD lane.val then s
  else
    let bad := old ||| (1#16 <<< lane.val)
    let t := (s.modFar l fun f => { f with bad := bad }).failed ⟨(linkDie l).val, 0x0F, l.val % 4, 0, bad.toNat⟩
    if bad &&& 0xFF ≠ 0 ∧ bad &&& 0xFF00 ≠ 0 then t.linkLost l
    else if t.linkWidth l = 16 then
      (t.setReg (fr l 0) ((t.reg (fr l 0) &&& 0xFFFFFF83) ||| BitVec.ofNat 32 (4 * 8))).raiseFar l 0x0901 none
    else t

/-! ### Keys and regions (R336, R338, R343) -/

/-- A write of FAR_KEY_CMD. -/
def State.wrFarKey (s : State) (l : LinkId) (v : Word) : State :=
  let slot : Fin 16 := ⟨v.toNat % 16, by omega⟩
  let set (t : State) (k : Option FarKey) : State := t.modFar l fun f => { f with keys := f.keys.set slot k }
  if v.getLsbD 9 then set s none
  else if v.getLsbD 8 then
    let fail := (set s none).orReg (fr l 0x14C) 0x80000000
    match s.unwrapKey (s.regBytes (fr l 0x100) 18) with
    | some k => if k.take 32 = k.drop 32 then fail else set s (some ⟨k, v.getLsbD 4⟩)
    | none => fail
  else s

/-- FAR_KEY_STATUS.LOADED. -/
def FarState.loaded (f : FarState) : Nat :=
  (List.finRange 16).foldl (fun m i => m + (if (f.keys.get i).isSome then 2 ^ i.val else 0)) 0

/-- First and last byte of a region entry. -/
def State.farRange (s : State) (l : LinkId) (i : Fin 16) : Nat × Nat :=
  ((s.reg64 (fr l (0x200 + 0x20 * i.val))).toNat, (s.reg64 (fr l (0x208 + 0x20 * i.val))).toNat + 0x1FFFFF)

/-- The entry overlaps another that is enabled. -/
def State.farConflict (s : State) (l : LinkId) (i : Fin 16) : Bool :=
  let r := s.farRange l i
  (List.finRange 16).any fun j => decide (j ≠ i) && (s.reg (fr l (0x210 + 0x20 * j.val))).getLsbD 0 &&
    decide (r.1 ≤ (s.farRange l j).2) && decide ((s.farRange l j).1 ≤ r.2)

/-- A write of FAR_RGN_CTRLi. -/
def State.wrFarRegion (s : State) (l : LinkId) (i : Fin 16) (v : Word) : State :=
  let o := fr l (0x210 + 0x20 * i.val)
  if v.getLsbD 0 then
    if s.farConflict l i then (s.setReg o (v &&& 0xF6)).orReg (fr l 0) 0x100
    else (s.setReg o (v &&& 0xF7)).clrReg (fr l 0) 0x100
  else s.setReg o (v &&& 0xF6)

def execFarAccess (l : LinkId) (line : Fin 8589934592) (data : Option (Fin 64 × List Byte × Bool)) (prot bad : Bool) (s : State) :
    Out :=
  .next (s.ifDie (linkDie l) (farAccess l line.val (data.map fun d => (d.1.val, d.2)) prot bad))
def execCxlLaneFail (l : LinkId) (lane : Fin 16) (s : State) : Out := .next (s.ifDie (linkDie l) (cxlLaneFail l lane))
def execCxlLinkLoss (l : LinkId) (s : State) : Out := .next (s.ifDie (linkDie l) fun t => t.linkLost l)

end Sys2Proof.Machine
end

