-- ==== Sys2Proof/Machine/Course.lean ====
section
/-! DEFINITION. Course: course reset (R231, R244), and the writes that act on a course controller and its engines (R221, R243,
R511). -/

namespace Sys2Proof.Machine

/-! ### Course reset -/

/-- Registers of the course block that course reset keeps: CCR_MODE, CCR_EPOCH, the settings of software outside the CCR_
registers, and the controls of its counters (R244, R282). -/
def keptRegs : List Nat := [
  0x18, 0x1C, 0x1004, 0x1030, 0x1070, 0x1128, 0x1210, 0x1248, 0x132C, 0x1408, 0x1428, 0x2004, 0x2008, 0x200C, 0x2010, 0x2020,
  0x2090, 0x3038, 0x341C, 0x3828]

/-- Course reset clears the register at BAR0 offset `off`. -/
def resetClears (g : Course) (off : Nat) : Bool :=
  let b := (Blk.course g).base
  decide (b ≤ off) && decide (off < b + 0x100000) && !keptRegs.contains (off - b)

/-- The registers of the course block after its reset (R113, R161, R244, R308, R401, R459, R528). -/
def State.resetRegs (s : State) (g : Course) : State :=
  let e := s.reg (cr g 0x1C)
  { s with
    regs := SMap.put (s.regs.filter fun r => !resetClears g r.1) (cr g 0x1C) ((e + 1) &&& 0xFFFF) 0
    wide := s.wide.filter fun r => !resetClears g r.1
    ticking := s.ticking.filter fun o => !resetClears g o }

/-- A started instruction at course reset (R231): one of the arrays stops, a red.ring ends (R401), any other runs on. -/
def Started.overtaken (q : QueueId) (i : Started) : Started :=
  let stops := arrayQueues.contains q || match i.e.op with
    | .redRing .. => true
    | _ => false
  { i with orphan := true, restart := false, done := i.done || stops }

def QueueState.overtaken (q : QueueId) (y : QueueState) : QueueState :=
  { QueueState.reset with started := y.started.map (Started.overtaken q) }

/-- The arrays, tables and slots after a course reset; what repair has set stays (R116, R132, R142). -/
def ArrayState.overtaken (a : ArrayState) : ArrayState :=
  { ArrayState.reset with tables := a.tables, healthy := a.healthy, mapped := a.mapped, half0 := a.half0, half1 := a.half1
                          repoint := a.repoint, overflow := a.overflow }

/-- The course after its reset. Its TLB is empty and its streams are FREE; their transfers, its red.* work and its self-tests
go on. -/
def CourseState.overtaken (c : CourseState) : CourseState :=
  { c with
    ctl := if c.ctl = .fenced && c.ctrlFailed then .fenced else .halted
    inTrap := false
    nested := false
    pc := 0
    sregs := Vector.replicate 32 0
    aregs := Vector.replicate 16 0
    pregs := (Vector.replicate 8 false).set 0 true
    tallyV := []
    tallyP := []
    wait := none
    stalled := none
    stopReq := false
    queues := Vector.ofFn fun q => (c.queues.get q).overtaken q
    watches := []
    records := []
    ibuf := []
    bindings := []
    arr := c.arr.overtaken
    idx := ExpState.reset
    tbl := []
    str := { StreamEngine.reset with streams := c.str.streams }
    jobs := c.jobs.filter fun j => j.kind != .ring
    ring := none
    selfTests := c.selfTests.map fun x => { x with te := false, ntf := false } }

/-- A waiting lock.acq is withdrawn (R230). -/
def State.withdrawLock (s : State) (g : Course) : State :=
  match (s.course g).wait with
  | some ⟨_, .lock base _ id⟩ =>
    s.send (.course g) (.mem (stackOf base)) (.lockWithdraw base g ((s.reg (cr g 0x1C)).setWidth 16) id)
  | _ => s

/-- The requests of the course that a fine-work unit presents are discarded; an fwu.mm that runs on presents its own anew (R231,
R493). -/
def State.dropRequests (s : State) (g : Course) : State :=
  (List.finRange 4).foldl (fun t u => t.modCDie u fun x => { x with fwuRun := x.fwuRun.map fun f =>
    if f.g = g ∧ f.granted.isNone then { f with stamp := 0, phases := 0 } else f }) s

/-- Messages of the course's ring that wait are not sent (R394, R401). -/
def State.dropRing (s : State) (g : Course) : State :=
  match (s.course g).ring with
  | some r => s.dropQueued (.ring g r.serial)
  | none => s

/-- Every stream is FREE, without a program, and its counter is 0 (R282). -/
def State.freeStreams (s : State) (g : Course) : State :=
  let t := (s.course g).usedStreams.foldl (fun u n => u.free g n) s
  ((t.course g).str.streams.map (·.1)).foldl (fun u n =>
    u.modStream g n fun x => { x with prog := [], rearmStalls := 0, rearmWait := false }) t

/-- A course reset, by CCR_CTRL.RESET or by FLR (R231). -/
def State.courseReset (s : State) (g : Course) : State :=
  let t := (List.finRange 8).foldl (fun u q => u.ungrant g q) (s.withdrawLock g)
  let t := ((t.dropRequests g).dropRing g).freeStreams g
  (((t.releaseHold g).modCourse g fun c => c.overtaken).resetRegs g).toStacks g (.resetSweep g)

/-! ### Commands of the controller (R198, R243) -/

/-- A write of CCR_CTRL: RESET before STOP before START; IBUF_INV beside them; only RESET while FENCED. -/
def State.wrCtrl (s : State) (g : Course) (v : Word) : State :=
  let fenced := decide ((s.course g).ctl = .fenced)
  let t := if v.getLsbD 3 && !fenced then s.ibufInv g else s
  if v.getLsbD 2 then t.courseReset g
  else if v.getLsbD 1 then t.ctlStop g
  else if v.getLsbD 0 then t.ctlStart g
  else t

/-- CCR_STATUS. -/
def State.ccrStatus (s : State) (g : Course) : Nat :=
  let c := s.course g
  let bit (b : Bool) (n : Nat) : Nat := if b then 2 ^ n else 0
  (match c.ctl with | .halted => 0 | .running => 1 | .faulted => 2 | .fenced => 3) + bit c.inTrap 2 + bit c.wait.isSome 3 +
    bit c.nested 4 + bit (s.quiesced g) 5 + bit c.hold.isSome 6

/-- CCR_QSTATUS. -/
def QueueState.status (y : QueueState) : Nat :=
  y.entries.length + (if y.halt = .no then 0 else 128) + (if y.started.any fun i => !i.done then 256 else 0)

/-- A write of CCR_TALLY_ADD (R221). -/
def State.wrTallyAdd (s : State) (g : Course) (v : Word) : State :=
  (s.modCourse g fun c => c.tallyAdd ⟨v.toNat % 256, by omega⟩ (v >>> 8)).settle g

/-- A write of CCR_TALLY_POISONk: each 1 clears P of its tally (R221). -/
def State.wrTallyPoison (s : State) (g : Course) (k : Fin 8) (v : Word) : State :=
  let keep (e : Nat × Bool) : Bool := !(decide (e.1 / 32 = k.val) && v.getLsbD (e.1 % 32))
  s.modCourse g fun c => { c with tallyP := c.tallyP.filter keep }

/-- CCR_TALLY_POISONk. -/
def CourseState.poisonBits (c : CourseState) (k : Nat) : Nat :=
  (List.range 32).foldl (fun m i => m + (if SMap.get c.tallyP (32 * k + i) false then 2 ^ i else 0)) 0

/-! ### Other commands of the course block -/

/-- A write of REL_COURSE_CMD (R508, R511); whether a READMIT passes its self-test is free. -/
def State.wrCourseCmd (s : State) (g : Course) (v : Word) : State :=
  let t := if v.getLsbD 1 then s.used.readmit g (v.toNat / 256 % 16) (s.fresh.getLsbD 0) else s
  if v.getLsbD 0 then t.fence g else t

end Sys2Proof.Machine
end

