-- ==== Sys2Proof/Machine/Ecc.lean ====
section
/-! DEFINITION. Ecc: SHA-384 of FIPS 180-4, and the curve P-384 and ECDSA verification of FIPS 186-5, which R530, R536 and
R537 name. -/

namespace Sys2Proof.Machine

/-! ### SHA-384 -/

def w64 : Nat := 18446744073709551616

/-- Rotate a 64-bit word right. -/
def rotr (n x : Nat) : Nat := x / 2 ^ n + x % 2 ^ n * 2 ^ (64 - n)

/-- The smallest d of at least 2 that divides n; n itself where there is none below it. -/
def leastDivisor (n : Nat) : Nat := ((List.range n).find? fun d => decide (2 ≤ d) && decide (n % d = 0)).getD n

/-- The first k primes. -/
def primes (k : Nat) : List Nat := ((List.range 420).filter fun n => decide (2 ≤ n) && decide (leastDivisor n = n)).take k

/-- Floor of the e-th root of n, by bits from 2^k down. -/
def rootBits (e n : Nat) : Nat → Nat → Nat
  | 0, r => r
  | k + 1, r => rootBits e n k (if (r + 2 ^ k) ^ e ≤ n then r + 2 ^ k else r)

/-- The first 64 bits of the fraction of the e-th root of p. -/
def rootFraction (e p : Nat) : Nat := rootBits e (p * 2 ^ (64 * e)) 72 0 % w64

/-- The round constants: cube roots of the first 80 primes. -/
def shaK : List Nat := (primes 80).map (rootFraction 3)

/-- The initial hash value: square roots of the ninth to the sixteenth primes. -/
def sha384Init : List Nat := ((primes 16).drop 8).map (rootFraction 2)

/-- The message schedule, latest word first, from the 16 words of a block. -/
def shaSchedule : Nat → List Nat → List Nat
  | 0, ws => ws
  | n + 1, ws =>
    let at' (i : Nat) : Nat := ws.getD (i - 1) 0
    let a := at' 2
    let b := at' 15
    let s1 := rotr 19 a ^^^ rotr 61 a ^^^ (a / 2 ^ 6)
    let s0 := rotr 1 b ^^^ rotr 8 b ^^^ (b / 2 ^ 7)
    shaSchedule n (((s1 + at' 7 + s0 + at' 16) % w64) :: ws)

/-- One round on the working variables a to h. -/
def shaRound (v : List Nat) (k w : Nat) : List Nat :=
  match v with
  | [a, b, c, d, e, f, g, h] =>
    let t1 := h + (rotr 14 e ^^^ rotr 18 e ^^^ rotr 41 e) + ((e &&& f) ^^^ ((w64 - 1 - e) &&& g)) + k + w
    let t2 := (rotr 28 a ^^^ rotr 34 a ^^^ rotr 39 a) + ((a &&& b) ^^^ (a &&& c) ^^^ (b &&& c))
    [(t1 + t2) % w64, a, b, c, (d + t1) % w64, e, f, g]
  | _ => v

/-- One block of 16 words. -/
def shaBlock (ks hs ws : List Nat) : List Nat :=
  let sched := (shaSchedule 64 ws.reverse).reverse
  let v := (ks.zip sched).foldl (fun v p => shaRound v p.1 p.2) hs
  List.zipWith (fun a b => (a + b) % w64) hs v

/-- A message with its padding. -/
def shaPad (m : List Nat) : List Nat :=
  let z := (128 - (m.length + 17) % 128) % 128
  m ++ [0x80] ++ List.replicate z 0 ++ natBe 16 (8 * m.length)

/-- SHA-384 of a list of bytes. -/
def sha384 (m : List Nat) : List Nat :=
  let p := shaPad m
  let ks := shaK
  let hs := (chunksOf 128 (p.length / 128) p).foldl (fun h b => shaBlock ks h ((chunksOf 8 16 b).map beVal)) sha384Init
  (hs.take 6).flatMap (natBe 8)

/-! ### P-384 -/

def p384P : Nat := 2 ^ 384 - 2 ^ 128 - 2 ^ 96 + 2 ^ 32 - 1
def p384B : Nat :=
  0xb3312fa7e23ee7e4988e056be3f82d19181d9c6efe8141120314088f5013875ac656398d8a2ed19d2a85c8edd3ec2aef
/-- The order n. -/
def p384N : Nat :=
  0xffffffffffffffffffffffffffffffffffffffffffffffffc7634d81f4372ddf581a0db248b0a77aecec196accc52973
def p384Gx : Nat :=
  0xaa87ca22be8b05378eb1c71ef320ad746e1d3b628ba79b9859f741e082542a385502f25dbf55296c3a545e3872760ab7
def p384Gy : Nat :=
  0x3617de4a96262c6f5d9e98bf9292dc29f8f41dbd289a147ce9da3113b5f0b8c00a60b1ce1d7e819d7a431d7c90ea0e5f

/-- b^e mod m, for e below 2^k. -/
def powMod (b m : Nat) : Nat → Nat → Nat
  | 0, _ => 1 % m
  | k + 1, e =>
    let r := powMod b m k (e / 2)
    let r2 := r * r % m
    if e % 2 = 1 then r2 * b % m else r2

/-- The inverse modulo a prime. -/
def invMod (a m : Nat) : Nat := powMod (a % m) m 384 (m - 2)

/-- A point of the curve, none the point at infinity. -/
abbrev Point := Option (Nat × Nat)

/-- The point lies on the curve and is not the point at infinity: y^2 = x^3 - 3 x + b. -/
def onCurve (q : Nat × Nat) : Bool :=
  decide (q.1 < p384P) && decide (q.2 < p384P) &&
    decide (q.2 * q.2 % p384P = (q.1 * q.1 * q.1 + (p384P - 3) * q.1 + p384B) % p384P)

/-- The third point of a line of slope l, mirrored. -/
def chord (l : Nat) (a b : Nat × Nat) : Point :=
  let x := (l * l + 2 * p384P - a.1 - b.1) % p384P
  some (x, (l * (a.1 + p384P - x) + p384P - a.2) % p384P)

def Point.add (a b : Point) : Point :=
  match a, b with
  | none, _ => b
  | _, none => a
  | some a, some b =>
    if a.1 = b.1 then
      if (a.2 + b.2) % p384P = 0 then none
      else chord ((3 * a.1 * a.1 + p384P - 3) * invMod (2 * a.2) p384P % p384P) a b
    else chord ((b.2 + p384P - a.2) * invMod (b.1 + p384P - a.1) p384P % p384P) a b

/-- k times a point, for k below 2^n. -/
def Point.mul (q : Point) : Nat → Nat → Point
  | 0, _ => none
  | n + 1, k =>
    let h := Point.mul q n (k / 2)
    let d := Point.add h h
    if k % 2 = 1 then Point.add d q else d

def p384G : Point := some (p384Gx, p384Gy)

/-- A public key in its 97-byte uncompressed form. -/
def keyBytes (q : Nat × Nat) : List Nat := 4 :: (natBe 48 q.1 ++ natBe 48 q.2)

/-- The point of an uncompressed key, if it is one of the curve. -/
def keyPoint (k : List Nat) : Option (Nat × Nat) :=
  let q := (beVal ((k.drop 1).take 48), beVal ((k.drop 49).take 48))
  if k.length = 97 ∧ k.head? = some 4 ∧ onCurve q then some q else none

/-- ECDSA verification of a 96-byte signature, r then s, over the SHA-384 of a message. -/
def ecdsaVerify (key msg sig : List Nat) : Bool :=
  let r := beVal (sig.take 48)
  let s := beVal (sig.drop 48)
  match keyPoint key with
  | none => false
  | some q =>
    if r = 0 ∨ s = 0 ∨ p384N ≤ r ∨ p384N ≤ s ∨ sig.length ≠ 96 then false
    else
      let w := invMod s p384N
      let u := beVal (sha384 msg) * w % p384N
      let v := r * w % p384N
      match Point.add (Point.mul p384G 384 u) (Point.mul (some q) 384 v) with
      | some x => decide (x.1 % p384N = r)
      | none => false

end Sys2Proof.Machine
end

