-- ==== Sys2Proof/Machine/Ledger.lean ====
section
/-! DEFINITION. Ledger: the boot flash (R529), the boot ledger (R543 to R545), the signed image (R530 to R534), the device
identity and the key-wrapping key (R536, R537). -/

namespace Sys2Proof.Machine

/-! ### The flash (R529) -/

/-- An erased byte of the flash (log entry 5). -/
def erased : Byte := 0xFF

/-- Bytes of a sparse map from address a on, its entries below a dropped. -/
def fillBytes : SMap Byte → Nat → Nat → List Nat
  | _, _, 0 => []
  | [], a, n + 1 => 255 :: fillBytes [] (a + 1) n
  | (k, v) :: m, a, n + 1 => if k = a then v.toNat :: fillBytes m (a + 1) n else 255 :: fillBytes ((k, v) :: m) (a + 1) n

/-- The n flash bytes from a. -/
def State.flashBytes (s : State) (a n : Nat) : List Nat := fillBytes (s.boot.flash.dropWhile fun e => decide (e.1 < a)) a n

def State.flashPut (s : State) (a : Nat) (bs : List Nat) : State :=
  { s with boot := { s.boot with
    flash := bs.zipIdx.foldl (fun m b => SMap.put m (a + b.2) (BitVec.ofNat 8 b.1) erased) s.boot.flash } }

def halfSize : Nat := 0x80000

def State.flashErase (s : State) (half : Nat) : State :=
  { s with boot := { s.boot with flash := s.boot.flash.filter fun e => decide (e.1 / halfSize ≠ half) } }

/-! ### Ledger records (R544) -/

structure LedgerRec where
  kind : Nat
  step : Nat
  path : Nat
  outcome : Nat
  boot : Nat
  code : Nat
  part : FailRec
  deriving DecidableEq, Repr

def LedgerRec.bytes (r : LedgerRec) : List Nat :=
  let b := [r.kind, r.step, r.path, r.outcome] ++ natLe 4 r.boot ++ natLe 2 r.code ++
    [r.part.die, r.part.unit, r.part.inst, r.part.sub] ++ [0, 0] ++ natLe 4 r.part.detail ++ List.replicate 8 0
  b ++ natLe 4 (crc32c b)

/-- Field of n bytes from byte i, little-endian (R45). -/
def natsAt (b : List Nat) (i n : Nat) : Nat := leVal ((b.drop i).take n)

/-- A record of the flash; none where its CRC fails or its KIND is reserved. -/
def LedgerRec.of (b : List Nat) : Option LedgerRec :=
  let k := natsAt b 0 1
  if natsAt b 28 4 = crc32c (b.take 28) ∧ 1 ≤ k ∧ k ≤ 4 then
    some ⟨k, natsAt b 1 1, natsAt b 2 1, natsAt b 3 1, natsAt b 4 4, natsAt b 8 2,
      ⟨natsAt b 10 1, natsAt b 11 1, natsAt b 12 1, natsAt b 13 1, natsAt b 16 4⟩⟩
  else none

/-- Records of a half that are not free: those up to its last byte that is not erased. -/
def State.ledgerUsed (s : State) (h : Nat) : Nat :=
  match (s.boot.flash.filter fun e => decide (e.1 / halfSize = h)).getLast? with
  | some e => (e.1 - h * halfSize) / 32 + 1
  | none => 0

/-- The valid records of a half, in order. -/
def State.ledgerRecs (s : State) (h : Nat) : List LedgerRec :=
  (List.range (s.ledgerUsed h)).filterMap fun i => LedgerRec.of (s.flashBytes (h * halfSize + 32 * i) 32)

/-- The greatest BOOT of the COMPACTED records of a list. -/
def compacted (rs : List LedgerRec) : Option Nat :=
  rs.foldl (fun m r => if r.kind = 3 then some (max r.boot (m.getD 0)) else m) none

/-- The active half (R543). -/
def State.activeHalf (s : State) : Option Nat :=
  match compacted (s.ledgerRecs 0), compacted (s.ledgerRecs 1) with
  | none, none => none
  | some _, none => some 0
  | none, some _ => some 1
  | some a, some b => some (if a < b then 1 else 0)

def State.ledgerHalf (s : State) : Nat := s.activeHalf.getD 0

def State.raiseLedger (s : State) : State := s.raiseBoot 0x1005 none

/-- A record is appended to a half, or its write fails (R545). -/
def State.ledgerAppend (s : State) (ok : Bool) (half : Nat) (r : LedgerRec) : State :=
  let n := s.ledgerUsed half
  if ok ∧ n < 16384 then s.flashPut (half * halfSize + 32 * n) r.bytes else s.raiseLedger

/-- The FAILURE records that apply: those after the last CLEAR (R545). -/
def liveFailures (rs : List LedgerRec) : List LedgerRec :=
  rs.foldl (fun acc r => if r.kind = 4 then [] else if r.kind = 2 then acc ++ [r] else acc) []

/-- Two ATTEMPT records name one step and unit. -/
def LedgerRec.sameUnit (r q : LedgerRec) : Bool :=
  r.step == q.step && r.part.die == q.part.die && r.part.unit == q.part.unit && r.part.inst == q.part.inst &&
    r.part.sub == q.part.sub

/-- The latest ATTEMPT record of each step and unit (R542, R543). -/
def latestAttempts : List LedgerRec → List LedgerRec
  | [] => []
  | r :: rs => if r.kind = 1 ∧ !(rs.any fun q => q.kind == 1 && r.sameUnit q) then r :: latestAttempts rs else latestAttempts rs

/-- What a compaction copies, in order. -/
def compaction (rs : List LedgerRec) : List LedgerRec :=
  let att := latestAttempts rs
  let fl := liveFailures rs
  rs.filter fun r => (r.kind == 1 && att.contains r) || (r.kind == 2 && fl.contains r)

/-- The boot number of the running or latest boot (R559). -/
def State.bootNumber (s : State) : Nat := (s.reg (pr 4)).toNat

/-- BOOT_LEDGER_STATUS, 0 until a boot has read the ledger (R582; log entry 82). -/
def State.ledgerStatus (s : State) : Nat :=
  if s.bootNumber = 0 then 0
  else (16384 - s.ledgerUsed s.ledgerHalf) + 32768 * s.ledgerHalf + (if s.boot.failures.isEmpty then 0 else 65536)

/-- FAILURE_RECORD: the record of the oldest failure in service that has none is written (R545). -/
def failureRecord (ok : Bool) (s : State) : State :=
  match s.boot.failures with
  | [] => s
  | f :: fs =>
    ({ s with boot := { s.boot with failures := fs } }).ledgerAppend ok s.ledgerHalf ⟨2, 0, 0, 0, s.bootNumber, 0, f⟩

/-- BOOT_LEDGER_CMD.RETRY_PRIMARY: a CLEAR record (R545). -/
def State.retryPrimary (s : State) (ok : Bool) : State :=
  s.ledgerAppend ok s.ledgerHalf ⟨4, 0, 0, 0, s.bootNumber, 0, ⟨4, 0x12, 0, 0, 0⟩⟩

/-! ### The image (R530 to R533) -/

def slotBase (b : Bool) : Nat := if b then 0x2080000 else 0x100000

/-- A section: type, offset, length. -/
structure Section where
  type : Nat
  off : Nat
  len : Nat
  deriving DecidableEq, Repr

/-- A parsed body. -/
structure Image where
  body : List Nat
  sig : List Nat
  sects : List Section
  deriving DecidableEq, Repr

def allZero (l : List Nat) : Bool := l.all fun x => x == 0

/-- Bytes i to i + n - 1. -/
def cutAt (l : List Nat) (i n : Nat) : List Nat := (l.drop i).take n

/-- Two sections do not overlap. -/
def Section.apart (a b : Section) : Bool := decide (a.off + a.len ≤ b.off) || decide (b.off + b.len ≤ a.off)

def apartAll : List Section → Bool
  | [] => true
  | x :: xs => (xs.all fun y => x.apart y) && apartAll xs

/-- The image in a slot, if its header and sections are as R530 and R531 give. -/
def State.image (s : State) (b : Bool) : Option Image :=
  let h := s.flashBytes (slotBase b) 128
  let len := natsAt h 4 4
  let n := natsAt h 120 4
  if natsAt h 0 4 ≠ 1 ∨ 0x1F80000 < len + 96 ∨ len < 384 ∨ n < 4 ∨ 16 < n ∨ !allZero (cutAt h 113 7) ∨ !allZero (cutAt h 124 4) then none
  else
    let body := s.flashBytes (slotBase b) len
    let rows := (List.range n).map fun i => cutAt body (128 + 16 * i) 16
    let sects := rows.map fun r => (⟨natsAt r 0 4, natsAt r 4 4, natsAt r 8 4⟩ : Section)
    let ok := (rows.all fun r => allZero (cutAt r 12 4)) &&
      (sects.all fun x => decide (1 ≤ x.type) && decide (x.type ≤ 4) && decide (x.off % 64 = 0) && decide (384 ≤ x.off) &&
        decide (x.off + x.len ≤ len)) &&
      ([1, 2, 3, 4].all fun t => decide ((sects.filter fun x => x.type == t).length = 1)) && apartAll sects
    if ok then some ⟨body, s.flashBytes (slotBase b + len) 96, sects⟩ else none

/-- The bytes of the section of a type. -/
def Image.sect (m : Image) (t : Nat) : List Nat :=
  match m.sects.find? fun x => x.type == t with
  | some x => cutAt m.body x.off x.len
  | none => []

/-- The CONFIG section is well formed (R532). -/
def Image.configOk (m : Image) : Bool :=
  let c := m.sect 3
  decide (c.length = 64) && decide (natsAt c 0 1 < 2) && allZero (cutAt c 1 7) && decide (natsAt c 8 6 % 65536 = 0) &&
    allZero (cutAt c 14 2) && decide (natsAt c 16 4 % 8 = 0) && decide (natsAt c 16 4 < (m.sect 2).length) &&
    allZero (cutAt c 20 44)

/-- A combination of R534. -/
def validPart (f : FailRec) : Bool :=
  let course := decide (f.die < 4) && decide (f.inst < 8)
  let io := decide (f.die = 4) || decide (f.die = 5)
  (f.unit == 0x01 && course && f.sub == 0 && f.detail == 0) ||
  (f.unit == 0x02 && course && f.sub == 0 && decide (f.detail < 9)) ||
  (f.unit == 0x03 && course && f.sub == 0 && decide (f.detail < 2)) ||
  (f.unit == 0x07 && course && f.sub == 0 && decide (f.detail < 9)) ||
  (f.unit == 0x08 && course && f.sub == 0 && decide (f.detail < 2 ^ 28)) ||
  (f.unit == 0x09 && decide (f.die < 4) && f.inst == 0 && f.sub == 0 && f.detail == 0) ||
  (f.unit == 0x0A && decide (f.die < 4) && decide (f.inst < 2) && f.sub == 0 && decide (f.detail < 32)) ||
  (f.unit == 0x0C && (edgeFar f.die f.inst).isSome && decide (f.inst < 3) && decide (f.sub < 2) && decide (f.detail < 2 ^ 12)) ||
  (f.unit == 0x10 && io && decide (f.inst < 6) && f.sub == 0 && decide (f.detail < 256)) ||
  (f.unit == 0x0D && decide (f.die < 6) && f.inst == 0 && f.sub == 0 && decide (f.detail < 2)) ||
  (f.unit == 0x0D && decide (f.die < 4) && f.inst == 1 && f.sub == 0 && decide (f.detail % 4 < 3) && decide (f.detail / 4 < 3)) ||
  (f.unit == 0x0F && io && decide (f.inst < 4) && f.sub == 0 && decide (f.detail < 65536))

/-- The repair entries of a DEVICE section (R533). -/
def repairs (d : List Nat) : List FailRec :=
  (List.range (natsAt d 4368 4)).map fun j =>
    let e := cutAt d (4376 + 8 * j) 8
    ⟨natsAt e 0 1, natsAt e 1 1, natsAt e 2 1, natsAt e 3 1, natsAt e 4 4⟩

/-- The fields of a DEVICE section are as R533 gives. -/
def deviceOk (d : List Nat) : Bool :=
  decide (natsAt d 0 4 = 1) && decide (natsAt d 4 4 = d.length) && decide (natsAt d 4368 4 ≤ 4096) &&
    decide (d.length = 4472 + 8 * natsAt d 4368 4) && allZero (cutAt d 113 15) && allZero (cutAt d 4372 4)

/-! ### Identity (R536) -/

/-- The identity that helper data give: the corrected value V and the private key. -/
def pufBytes (helper : List Byte) : List Nat := natBe 48 (Config.pufValue helper).toNat
def privateKey (helper : List Byte) : Nat := beVal (sha384 (pufBytes helper ++ [1])) % (p384N - 1) + 1
def publicKey (helper : List Byte) : Nat × Nat := (Point.mul p384G 384 (privateKey helper)).getD (0, 0)
def packageId (helper : List Byte) : Nat := leVal ((sha384 (keyBytes (publicKey helper))).take 8)

/-- The DEVICE section, as long as its LEN says. -/
def Image.device (m : Image) : List Nat := (m.sect 4).take (natsAt (m.sect 4) 4 4)

/-- The helper data of a slot's DEVICE section. -/
def Image.helper (m : Image) : List Byte := ofNats (cutAt m.device 272 4096)

/-- The PUF value that a slot's helper data correct to passes its check. -/
def Image.pufOk (m : Image) : Bool := decide (sha384 (pufBytes m.helper) = cutAt m.device 224 48)

/-- The checks of step 4 on the image of a slot (R530 to R533, R536, R540). -/
def State.authentic (s : State) (m : Image) : Bool :=
  let root := cutAt m.body 16 97
  let d := m.device
  match s.boot.helper with
  | none => false
  | some h =>
    decide (sha384 root = natBe 48 Config.romKeyHash.toNat) && ecdsaVerify root m.body m.sig && m.configOk && deviceOk d &&
      ecdsaVerify root (cutAt d 8 105) (cutAt d 128 96) &&
      ecdsaVerify root (d.take (d.length - 96)) (d.drop (d.length - 96)) &&
      decide (cutAt d 16 97 = keyBytes (publicKey h)) && decide (natsAt d 8 8 = packageId h)

/-- Bytes in 24 registers, big-endian (R559). -/
def State.setBytes (s : State) (o : Nat) (bs : List Nat) : State :=
  (List.range 24).foldl (fun t i => t.setReg (pr (o + 4 * i)) (BitVec.ofNat 32 (beVal (cutAt bs (4 * i) 4)))) s

/-! ### The key-wrapping key (R537) -/

/-- The peer's public key. -/
def State.kwkPeer (s : State) : Nat × Nat :=
  let b := (List.range 24).flatMap fun i => natBe 4 (s.reg (pr (0x100 + 4 * i))).toNat
  (beVal (b.take 48), beVal (b.drop 48))

/-- The key that a derivation gives, none for an invalid point. -/
def State.kwkOf (s : State) (helper : List Byte) : Option (List Byte) :=
  let p := s.kwkPeer
  if onCurve p then
    match Point.mul (some p) 384 (privateKey helper) with
    | some z => some (ofNats ((sha384 (natBe 48 z.1 ++ natLe 8 (packageId helper) ++ [1])).take 32))
    | none => none
  else none

/-- A write of BOOT_KWK_CMD: CLEAR wins over DERIVE. A derivation starts once the identity is known and none runs. -/
def State.wrKwk (s : State) (v : Word) : State :=
  if v.getLsbD 1 then { s with boot := { s.boot with kwk := none, kwkBusy := none } }
  else if v.getLsbD 0 then
    match s.boot.helper, s.boot.kwkBusy with
    | some h, none => { s with boot := { s.boot with kwkBusy := some (s.kwkOf h) } }
    | _, _ => s
  else s

/-- KWK_DERIVE_DONE. -/
def kwkDeriveDone (s : State) : State :=
  match s.boot.kwkBusy with
  | none => s
  | some k =>
    let t := { s with boot := { s.boot with kwk := k, kwkBusy := none } }
    let t := match k with
      | some _ => t
      | none => (t.orReg (pr 0x164) 0x80000000).raiseBoot 0x1006 none
    t.irqPf 134

/-- BOOT_KWK_STATUS without BAD. -/
def BootState.kwkStatus (b : BootState) : Nat := (if b.kwk.isSome then 1 else 0) + (if b.kwkBusy.isSome then 2 else 0)

/-! ### The commands -/

def execFailureRecord (ok : Bool) (s : State) : Out := .next (s.ifDie 4 (failureRecord ok))
def execKwkDeriveDone (s : State) : Out := .next (s.ifDie 4 kwkDeriveDone)

end Sys2Proof.Machine
end

