-- ==== Sys2Proof/Machine/Boot.lean ====
section
/-! DEFINITION. Boot: package reset, the boot steps and their paths, and the board's power events (R539 to R542, R577 to R581,
R586). -/

namespace Sys2Proof.Machine

/-! ### Package reset and power loss (R579 to R581) -/

/-- The state after a package reset: all that the package holds is at its reset value. The flash, the attached far-memory
devices, the levels of the board's inputs and the comparators lie outside it. -/
def State.packageReset (s : State) : State :=
  let hot := (List.finRange 6).any fun d => (s.die d).comparator
  { State.reset with
    dies := Vector.ofFn fun d => { DieState.reset with comparator := (s.die d).comparator, refOk := (s.die d).refOk }
    fars := Vector.ofFn fun l => { FarState.reset with media := (s.farc l).media, poison := (s.farc l).poison }
    boot := { BootState.reset with
      flash := s.boot.flash
      tripPin := s.boot.tripPin && hot
      capPin := s.boot.capPin
      perst := s.boot.perst }
    freeCtr := s.freeCtr
    stamp := s.stamp
    out := s.out
    pending := s.pending }

/-- UNPLANNED_POWER_LOSS (R580): all state is lost. A record that was being written is cut short: any part of it may stand in
the flash. -/
def unplannedPowerLoss (s : State) : State :=
  let t := match s.boot.failures with
    | [] => s
    | f :: _ =>
      let h := s.ledgerHalf
      let n := s.ledgerUsed h
      let r : LedgerRec := ⟨2, 0, 0, 0, s.bootNumber, 0, f⟩
      if n < 16384 then s.used.flashPut (h * halfSize + 32 * n) (r.bytes.take (s.fresh.toNat % 33)) else s
  let u := t.packageReset
  { u with boot := { u.boot with tripPin := false } }

/-! ### The units of a step (R540) -/

/-- The units of a step: dies, courses, edge directions, stacks, links or ports; one for a step of the whole package. -/
def stepUnits : Nat → List Nat
  | 2 => List.range 6
  | 6 => List.range 32
  | 7 => (List.range 18).filter fun i => (edgeFar (i / 3) (i % 3)).isSome
  | 8 => List.range 8
  | 9 => List.range 32
  | 11 => List.range 8
  | 12 => List.range 12
  | _ => [0]

/-- The unit as an ATTEMPT record names it (R544). -/
def unitPart (step u : Nat) : FailRec :=
  match step with
  | 2 => ⟨u, 0x0D, 0, 0, 0⟩
  | 6 => ⟨u / 8, 0x08, u % 8, 0, 0⟩
  | 7 => ⟨u / 3, 0x0C, u % 3, 0, 0⟩
  | 8 => ⟨u / 2, 0x0A, u % 2, 0, 0⟩
  | 9 => ⟨u / 8, 0x02, u % 8, 0, 0⟩
  | 11 => ⟨4 + u / 4, 0x0F, u % 4, 0, 0⟩
  | 12 => ⟨4 + u / 6, 0x10, u % 6, 0, 0⟩
  | _ => ⟨4, 0x12, 0, 0, 0⟩

/-- Paths of a step, the primary among them. -/
def pathCount : Nat → Nat
  | 1 => 1 | 10 => 4 | 11 => 3 | 13 => 1 | 14 => 1 | _ => 2

/-- The parts of a list that belong to a unit of a step. An edge direction has those of its sending and its receiving end. -/
def partsOf (step u : Nat) (ps : List FailRec) : List FailRec :=
  let own := unitPart step u
  match step with
  | 7 =>
    let far := (edgeFar (u / 3) (u % 3)).getD (6, 3)
    ps.filter fun p => p.unit == 0x0C && ((p.die == own.die && p.inst == own.inst && p.sub == 0) ||
      (p.die == far.1 && p.inst == far.2 && p.sub == 1))
  | 9 => ps.filter fun p => (p.unit == 0x02 || p.unit == 0x03) && p.die == own.die && p.inst == own.inst
  | _ => ps.filter fun p => p.unit == own.unit && p.die == own.die && p.inst == own.inst

/-- Paths from p on, then those before it: every path is tried before all have failed (R540, R542). -/
def pathsFrom (n p : Nat) : List Nat := (List.range n).drop p ++ (List.range n).take p

/-! ### Results of paths -/

def BootRun.result (r : BootRun) (u p : Nat) : PathResult :=
  match r.env.paths.find? fun f => f.step == r.step && f.unit == u && f.path == p with
  | some f => f.result
  | none => .pass

/-- The parts of a unit that are known to have failed, and those that its test finds besides (R540). -/
def BootRun.known (r : BootRun) (u : Nat) : List FailRec := partsOf r.step u r.parts
def BootRun.found (r : BootRun) (u : Nat) : List FailRec :=
  (partsOf r.step u r.env.parts).filter fun p => validPart p && !(r.known u).contains p

def State.modRun (s : State) (f : BootRun → BootRun) : State := { s with boot := { s.boot with run := s.boot.run.map f } }

/-- Set bits of BOOT_STATUS. -/
def State.bootBits (s : State) (m : Word) : State := s.orReg (pr 0) m

/-- An ATTEMPT record (R545). -/
def State.attempt (s : State) (r : BootRun) (u path outcome code detail : Nat) : State :=
  s.ledgerAppend r.env.flashOk s.ledgerHalf
    ⟨1, r.step, path, outcome, r.number, code, { unitPart r.step u with detail := detail }⟩

/-- FAILURE records of parts that a step maps out (R545). -/
def State.mapOut (s : State) (r : BootRun) (ps : List FailRec) : State :=
  ps.foldl (fun t p => t.ledgerAppend r.env.flashOk t.ledgerHalf ⟨2, 0, 0, 0, r.number, 0, p⟩) s

/-- What an ATTEMPT record gives in DETAIL: the generation of steps 10 and 11, and the rate of step 8, whose coding is not
stated. -/
def State.attemptDetail (s : State) (step path : Nat) : Nat × State :=
  match step with
  | 8 => (s.fresh.toNat % 2 ^ 32, s.used)
  | 10 => (6 - path, s)
  | 11 => (3 - path, s)
  | _ => (0, s)

/-! ### The work of the steps: the state after a path that passes its checks, none where it fails -/

/-- Step 2: a die starts on PLL A with B in standby, or on one PLL alone (R462, R466, R535). -/
def State.startDie (s : State) (r : BootRun) (d : Die) (path : Nat) : Option State :=
  let out (b : Nat) : Bool := (r.known d.val).any fun p => p.inst == 0 && p.detail == b
  let run (a b : PllState) (onB : Bool) : State := s.modDie d fun x => { x with pllA := a, pllB := b, activeB := onB, started := true }
  if path = 0 then (if out 0 ∨ out 1 then none else some (run .locked .locked false))
  else
    let onB := !out 1
    if out 0 ∧ out 1 then none
    else
      let t := (run (if onB then .out else .locked) (if onB then .locked else .out) onB).raisePower d 0x0E04 none
      some (if out 0 ∨ out 1 then t else t.mapOut r [⟨d.val, 0x0D, 0, 0, 0⟩])

/-- Step 3: the identity (R536). -/
def State.bootIdentity (s : State) (slot : Bool) : Option State :=
  match s.image slot with
  | none => none
  | some m =>
    if m.pufOk then
      let q := publicKey m.helper
      let t := { s with boot := { s.boot with helper := some m.helper } }
      some ((t.setReg64 (pr 8) (BitVec.ofNat 64 (packageId m.helper))).setBytes 0x20 (natBe 48 q.1 ++ natBe 48 q.2))
    else none

/-- Step 4: authentication of a slot. -/
def State.bootAuth (s : State) (slot : Bool) : Option State :=
  match s.image slot with
  | none => none
  | some m =>
    if s.authentic m then
      let t := s.bootBits (BitVec.ofNat 32 ((if slot then 64 else 0) + 1024 * natsAt (m.sect 3) 0 1))
      some ((t.setReg64 (pr 0x18) (BitVec.ofNat 64 (natsAt m.body 8 8))).setBytes 0x80 (cutAt m.device 128 96))
    else none

/-- A course begins FENCED (R540). -/
def State.fenceAtBoot (s : State) (g : Course) : State := s.modCourse g fun c => { c with ctl := .fenced }

/-- Take a copy of an arbiter's grant logic out of its vote (R535). -/
def Arb.without (a : Arb) (copy : Nat) : Arb := { a with out := some ⟨copy % 3, by omega⟩, odd := none }

/-- A part that no test of a later step covers is mapped out (R535). -/
def State.applyPart (s : State) (p : FailRec) : State :=
  let g : Course := ⟨(8 * p.die + p.inst) % 32, by omega⟩
  match p.unit with
  | 0x01 => (s.modCourse g fun c => { c with ctrlFailed := true }).fenceAtBoot g
  | 0x07 => s.modCourse g fun c => { c with vecFailed := c.vecFailed ||| (1#9 <<< p.detail) }
  | 0x09 => s.modCDie ⟨p.die % 4, by omega⟩ fun x => { x with fwuOk := false }
  | 0x0D =>
    if p.inst = 0 then s
    else if p.detail / 4 = 0 then s.modCDie ⟨p.die % 4, by omega⟩ fun x => { x with arb := x.arb.without (p.detail % 4) }
    else s.modMem ⟨(2 * p.die + p.detail / 4 - 1) % 8, by omega⟩ fun m => { m with arb := m.arb.without (p.detail % 4) }
  | _ => s

/-- Step 5: the repair entries of a slot's DEVICE section, then the ledger's FAILURE records. -/
def State.bootRepair (s : State) (r : BootRun) (path : Nat) : Option State :=
  let slot := (s.reg (pr 0)).getLsbD 6 != decide (path = 1)
  match s.image slot with
  | none => none
  | some m =>
    let ps := repairs m.device
    if s.authentic m ∧ ps.all validPart then
      let all := ps ++ r.ledger
      some ((all.foldl State.applyPart s).modRun fun r => { r with parts := all })
    else none

/-- Step 7: an edge direction trains on the lanes that have not failed (R516). -/
def State.trainEdge (s : State) (r : BootRun) (u : Nat) : Option State :=
  let d : Die := ⟨u / 3 % 6, by omega⟩
  let e : Fin 3 := ⟨u % 3, by omega⟩
  let bad (m : MortarDir) (p : FailRec) : MortarDir := m.setIfInBounds (p.detail % 16) (m.toList.getD (p.detail % 16) 0 ||| p.detail / 16)
  let tx := (r.known u ++ r.found u).foldl bad ((s.die d).tx.get e)
  let t := s.modDie d fun x => { x with tx := x.tx.set e tx, trained := true }
  if t.modules d e = 0 then none else some t

/-- Every byte of a range of near memory or staging SRAM becomes 0, unpoisoned (R586). -/
def State.clearMemory (s : State) (lo hi : Nat) : State :=
  { s with
    mem := s.mem.filter fun e => decide (e.1 < lo) || decide (hi ≤ e.1)
    memPoison := s.memPoison.filter fun e => decide (64 * e.1 < lo) || decide (hi ≤ 64 * e.1) }

/-- Step 6: the slice of a course is tested, and every word of it written to 0 (R586). -/
def State.testSlice (s : State) (g : Course) : State := s.clearMemory (windowBase g) (windowBase g + sliceSize)

/-- Step 8: a stack trains, its failing channels are retired, the recorded ones first (R318, R540), and every line is written to 0
(R586). -/
def State.trainStack (s : State) (r : BootRun) (k : Stack) (path : Nat) : State :=
  let cs := ((r.known k.val ++ r.found k.val).map fun p => p.detail % 32).eraseDups
  let gone := cs.take 4
  let t := s.setReg (mr k 0) (BitVec.ofNat 32 (gone.foldl (fun m c => m ||| 2 ^ c) 0))
  (t.clearMemory (k.val * 0x1000000000) ((k.val + 1) * 0x1000000000)).modMem k fun m => { m with
    slow := decide (path = 1) || decide (4 < cs.length)
    removed := gone.length
    overLimit := (cs.drop 4).map fun c => ⟨c % 32, by omega⟩ }

/-- Step 9: the arrays and builder halves of a course (R26, R123): with more than two failed arrays, or no half, it is lost. -/
def State.testArrays (s : State) (r : BootRun) (g : Course) : Option State :=
  let ps := r.known g.val ++ r.found g.val
  let arrays := ((ps.filter fun p => p.unit == 0x02).map fun p => p.detail).eraseDups
  let half (h : Nat) : Bool := !(ps.any fun p => p.unit == 0x03 && p.detail == h)
  if 2 < arrays.length ∨ (!half 0 ∧ !half 1) then none
  else
    let healthy := arrays.foldl (fun m p => m &&& ~~~(1#9 <<< p)) (0x1FF#9)
    let held := arrays.foldl unmapped (0x1FF#9)
    some (s.modCourse g fun c => { c with arr := { c.arr with healthy := healthy, mapped := held, half0 := half 0, half1 := half 1 } })

def laneWidth : LinkWidth → Nat
  | .x16 => 16 | .x8 => 8 | .x4 => 4

/-- The PCIe link trains at a generation (R546). -/
def State.linkUp (s : State) (gen : Nat) (w : LinkWidth) : State :=
  { s with host := { s.host with gen := gen, width := laneWidth w, up := true } }

/-- Step 11: a CXL link trains at a generation, at x16 or on the half without failed lanes (R334, R535). -/
def State.trainLink (s : State) (r : BootRun) (l : LinkId) (path : Nat) : Option State :=
  let bad := (r.known l.val ++ r.found l.val).foldl (fun m p => m ||| BitVec.ofNat 16 p.detail) (0#16)
  let cap := min ((r.env.far.lookup l).getD 0) 0x8000000000
  if cap = 0 ∨ (bad &&& 0xFF ≠ 0 ∧ bad &&& 0xFF00 ≠ 0) then none
  else
    let w := if bad = 0 then 16 else 8
    some ((((s.modFar l fun f => { f with bad := bad }).setReg (fr l 0) (BitVec.ofNat 32 (3 - path + 4 * w + 128))).setReg64
      (fr l 8) (BitVec.ofNat 64 cap)))

/-- Step 12: a port is tested and trains if it has a link partner (R402, R405). -/
def State.testPort (s : State) (r : BootRun) (p : PortId) : State :=
  let bad := (r.known p.val ++ r.found p.val).foldl (fun m p => m ||| BitVec.ofNat 8 p.detail) (0#8)
  let t := { s with ports := s.ports.set p { s.ports.get p with partner := r.env.partners.getLsbD p.val, bad := bad } }
  (t.trainPort p (decide (bad ≠ 0))).1

/-- Step 13: the COURSE section is copied to FW_BASE, and CCR_START_PC set in every course. -/
def State.copyFirmware (s : State) : Option State :=
  match s.image ((s.reg (pr 0)).getLsbD 6) with
  | none => none
  | some m =>
    let c := m.sect 3
    let base := natsAt c 8 6
    let fw := ofNats (m.sect 2)
    if s.nearOk base fw.length then
      let t := s.store base fw
      some (((List.finRange 32).foldl (fun t g => t.setReg64 (cr g 8) (BitVec.ofNat 64 (base + natsAt c 16 4))) t).bootBits 0x80)
    else none

/-- Step 14: READY. -/
def State.bootReady (s : State) : State :=
  let t := s.bootBits 0x10
  { t with boot := { t.boot with booted := true } }.irqPf 134

/-- A path of the running step's unit, once its measurements have passed. -/
def State.runPath (s : State) (r : BootRun) (u p : Nat) : Option State :=
  match r.step with
  | 2 => s.startDie r ⟨u % 6, by omega⟩ p
  | 3 => s.bootIdentity (decide (p = 1))
  | 4 => s.bootAuth (decide (p = 1))
  | 5 => s.bootRepair r p
  | 6 => some (s.testSlice ⟨u % 32, by omega⟩)
  | 7 => s.trainEdge r u
  | 8 => some (s.trainStack r ⟨u % 8, by omega⟩ p)
  | 9 => s.testArrays r ⟨u % 32, by omega⟩
  | 10 => some (s.linkUp (6 - p) r.env.width)
  | 11 => s.trainLink r ⟨u % 8, by omega⟩ p
  | 12 => some (s.testPort r ⟨u % 12, by omega⟩)
  | 13 => s.copyFirmware
  | 14 => some s.bootReady
  | _ => some s

/-! ### Going through the steps -/

/-- The unit that the step skips: the slice and arrays of a course that begins FENCED (R540); PCIe while PERST# is asserted,
for its training begins later (R548). -/
def State.skipsUnit (s : State) (step u : Nat) : Bool :=
  match step with
  | 6 => decide ((s.course ⟨u % 32, by omega⟩).ctl = .fenced)
  | 9 => decide ((s.course ⟨u % 32, by omega⟩).ctl = .fenced)
  | 10 => s.boot.perst
  | _ => false

/-- The paths that a unit tries (R540, R542): one with known failed parts begins on the path that skips them. -/
def BootRun.pathsOf (r : BootRun) (u : Nat) : List Nat :=
  let n := pathCount r.step
  let begins := match r.begins.find? fun b => b.1 == r.step && b.2.1 == u with
    | some b => b.2.2
    | none => 0
  let skips := [6, 7, 9, 12].contains r.step && !(r.known u).isEmpty
  if r.step = 2 ∧ (r.ledger.any fun p => p.unit == 0x0D && p.inst == 0 && p.die == u) then [1]
  else pathsFrom n (if skips then 1 else begins)

/-- The known parts of step 2 come from the ledger, which the plinth controller reads before step 1 (R535, R543). -/
def BootRun.atStep (r : BootRun) (step : Nat) : BootRun :=
  { r with step := step, units := stepUnits step, paths := none, parts := if step = 2 then r.ledger else r.parts }

/-- The boot stops (R541). -/
def State.bootStop (s : State) : State :=
  let t := s.bootBits 0x20
  { t with boot := { t.boot with run := none, faultPin := true } }

/-- Every path of a unit has failed (R540). -/
def State.unitFailed (s : State) (r : BootRun) (u : Nat) : State :=
  let next := s.modRun fun r => { r with units := r.units.drop 1, paths := none }
  match r.step with
  | 6 => next.fenceAtBoot ⟨u % 32, by omega⟩
  | 8 => next.modMem ⟨u % 8, by omega⟩ fun m => { m with backed := false }
  | 9 => next.fenceAtBoot ⟨u % 32, by omega⟩
  | 10 => next
  | 11 => next
  | 12 => next
  | 13 => next
  | 14 => next
  | _ => s.bootStop

/-- A path fails (R539, R541, R558, R559): its record, its report and BOOT_LAST_FAIL; the next path follows. -/
def State.pathFailed (s : State) (r : BootRun) (u p : Nat) (ps : List Nat) (timeout : Bool) : State :=
  let code := if timeout then 0x1003 else if r.step = 4 then 0x1004 else 0x1001
  let (detail, t) := s.attemptDetail r.step p
  let t := t.attempt r u p (if timeout then 3 else 2) code detail
  let t := (t.raiseBoot (BitVec.ofNat 16 code) none).capture1 (pr 0x10) (code + 65536 * r.step) none 0
  t.modRun fun r => { r with paths := some ps }

/-- A path succeeds (R539): DEGRADED on an alternate or with a part mapped out. -/
def State.pathPassed (s : State) (r : BootRun) (u p : Nat) : State :=
  let degraded := decide (p ≠ 0) || !(r.known u).isEmpty || !(r.found u).isEmpty
  let degraded := degraded && !([1, 3, 5, 13, 14].contains r.step && p == 0)
  let (detail, t) := s.attemptDetail r.step p
  let t := (t.attempt r u p (if degraded then 1 else 0) (if degraded then 0x1002 else 0) detail).mapOut r (r.found u)
  let t := if degraded then (t.bootBits 0x200).raiseBoot 0x1002 none else t
  t.modRun fun r => { r with units := r.units.drop 1, paths := none }

/-- The boot goes on until it ends, stops, or a path runs on: at most `fuel` turns. -/
def State.bootGo : Nat → State → State
  | 0, s => s
  | fuel + 1, s =>
    match s.boot.run with
    | none => s
    | some r =>
      match r.units with
      | [] =>
        if 14 ≤ r.step then { s with boot := { s.boot with run := none } }
        else State.bootGo fuel ((s.setReg (pr 0) ((s.reg (pr 0) &&& 0xFFFFFFF0) ||| BitVec.ofNat 32 (r.step + 1))).modRun
          fun r => r.atStep (r.step + 1))
      | u :: _ =>
        match r.paths with
        | none =>
          if s.skipsUnit r.step u then
            State.bootGo fuel ((s.attempt r u 0xFE 0 0 0).modRun fun r => { r with units := r.units.drop 1 })
          else State.bootGo fuel (s.modRun fun r => { r with paths := some (r.pathsOf u) })
        | some [] => State.bootGo fuel (s.unitFailed r u)
        | some (p :: ps) =>
          match r.result u p with
          | .hang => s
          | .fail => State.bootGo fuel (s.pathFailed r u p ps false)
          | .pass =>
            match s.runPath r u p with
            | some t => State.bootGo fuel (t.pathPassed r u p)
            | none => State.bootGo fuel (s.pathFailed r u p ps false)

def bootFuel : Nat := 4096

/-- The ledger at the start of a boot (R542, R543): compaction, the boot number, and where each unit begins. -/
def State.openLedger (s : State) (env : BootEnv) : State :=
  match s.activeHalf with
  | none =>
    let t := if env.flashOk then (s.flashErase 0).flashErase 1 else s
    let t := (t.ledgerAppend env.flashOk 0 ⟨3, 0, 0, 0, 0, 0, ⟨4, 0x12, 0, 0, 0⟩⟩).raiseLedger
    let t := (t.setReg (pr 4) 1).bootBits 0x900
    { t with boot := { t.boot with run := some ⟨env, 0, [], none, 1, [], [], []⟩ } }
  | some h =>
    let rs := s.ledgerRecs h
    let n := (rs.map (·.boot)).foldl max 0 + 1
    let att := latestAttempts rs
    let primary := decide (n % 8 = 0) || rs.any fun r => r.kind == 4 && r.boot + 1 == n
    let begins := (List.range 15).flatMap fun st => (stepUnits st).filterMap fun u =>
      match att.find? fun r => r.step == st && { r.part with detail := 0 } == unitPart st u with
      | some r => if r.outcome < 2 ∧ r.path < pathCount st then some (st, u, r.path) else none
      | none => none
    let ledger := ((liveFailures rs).map (·.part)).filter validPart
    let t := if 16384 - s.ledgerUsed h < 512 then
        if env.flashOk then
          let o := 1 - h
          let c := compaction rs ++ [⟨3, 0, 0, 0, n, 0, ⟨4, 0x12, 0, 0, 0⟩⟩]
          c.foldl (fun t r => t.ledgerAppend true o r) (s.flashErase o)
        else s.raiseLedger
      else s
    let t := t.setReg (pr 4) (BitVec.ofNat 32 n)
    let t := if primary then t.bootBits 0x800 else t
    { t with boot := { t.boot with run := some ⟨env, 0, [], none, n, if primary then [] else begins, ledger, []⟩ } }

/-- BOOT_START: PKG_RST_N rises. With a junction at 125 °C or above the boot holds at step 1 (R581). -/
def bootStart (env : BootEnv) (s : State) : State :=
  if !s.boot.rstLow then s
  else
    let t := { s with boot := { s.boot with rstLow := false } }
    let t := t.openLedger env
    if (List.finRange 6).any fun d => (t.die d).comparator then
      ({ t with boot := { t.boot with hold := true } }).bootBits 1
    else t.bootGo bootFuel

/-- COMPARATOR_RELEASE: no junction is at 125 °C or above any more; a boot held at step 1 goes on. -/
def comparatorRelease (s : State) : State :=
  let t := (List.finRange 6).foldl (fun t d => t.modDie d fun x => { x with comparator := false }) s
  if t.boot.hold then ({ t with boot := { t.boot with hold := false } }).bootGo bootFuel else t

/-- BOOT_STEP_TIMEOUT: the path that runs has reached its limit (R539). -/
def bootStepTimeout (s : State) : State :=
  match s.boot.run with
  | none => s
  | some r =>
    match r.units, r.paths with
    | u :: _, some (p :: ps) => if s.boot.hold then s else (s.pathFailed r u p ps true).bootGo bootFuel
    | _, _ => s

def execPackageReset (s : State) : Out := .next s.packageReset
def execBootStart (env : BootEnv) (s : State) : Out := .next (bootStart env s)
def execBootStepTimeout (s : State) : Out := .next (bootStepTimeout s)
def execUnplannedPowerLoss (s : State) : Out := .next (unplannedPowerLoss s)
def execComparatorRelease (s : State) : Out := .next (comparatorRelease s)

end Sys2Proof.Machine
end

