-- ==== Sys2Proof/Machine/Host.lean ====
section
/-! DEFINITION. Host: the PCIe endpoint, its BARs, its resets and its reads and writes of host memory (R546 to R555). -/

namespace Sys2Proof.Machine

/-! ### Functions (R37, R546, R547) -/

/-- Boot has reached READY (R553). -/
def State.ready (s : State) : Bool := (s.reg (pr 0)).getLsbD 4

/-- A function that host requests reach: the PF, or an enabled VF of a partitioned device, over a link that is up to a die that runs. -/
def State.fnLive (s : State) (fn : Fin 5) : Bool :=
  s.host.up && s.dieRuns 4 && (decide (fn.val = 0) || (s.parted && s.host.vfEnabled.get fn))

/-- The compute die of a VF. -/
def vfDie (fn : Fin 5) : CDie := ⟨(fn.val + 3) % 4, by omega⟩

/-! ### Interrupts held in the PBA (R555) -/

/-- A vector's message is sent if its PBA bit is set and nothing holds it back. -/
def State.releaseVector (s : State) (fn : Fin 5) (v : Nat) : State :=
  if SMap.get s.host.pba (2048 * fn.val + v) false then
    ({ s with host := { s.host with pba := SMap.put s.host.pba (2048 * fn.val + v) false false } }).vector fn v
  else s

/-- The same for every vector of a function. -/
def State.releaseVectors (s : State) (fn : Fin 5) : State :=
  (s.host.pba.filter fun e => decide (e.1 / 2048 = fn.val)).foldl (fun t e => t.releaseVector fn (e.1 % 2048)) s

/-- MSIX_TABLE_WRITE: an entry of the table in BAR4; the PBA is read-only. -/
def msixTableWrite (fn : Fin 5) (v : Nat) (addr : DWord) (data : Word) (masked : Bool) (s : State) : State :=
  if s.fnLive fn && s.ready && decide (v < s.vectors fn) then
    ({ s with host := { s.host with
        msix := SMap.put s.host.msix (2048 * fn.val + v) ⟨addr, data, masked⟩ ⟨0, 0, true⟩ } }).releaseVector fn v
  else s

/-! ### Resets of functions (R548, R562) -/

/-- Put the registers of a range back to their reset values. -/
def State.resetRange (s : State) (lo hi : Nat) : State :=
  { s with regs := s.regs.filter fun e => decide (e.1 < lo) || decide (hi ≤ e.1)
           wide := s.wide.filter fun e => decide (e.1 < lo) || decide (hi ≤ e.1) }

/-- The function state of one function: its configuration space, its BAR sizes and window base, its MSI-X table and its
interrupt map; for the PF the HST_ registers of X0. -/
def State.resetFn (s : State) (fn : Fin 5) : State :=
  let b := Blk.host.base
  let d := (Blk.die (cdieDie (vfDie fn))).base
  let t := if fn.val = 0 then s.resetRange b (b + 0x2000) else s.resetRange (d + 0x7000) (d + 0x8000)
  { t with host := { t.host with
    bme := t.host.bme.set fn false
    msixEn := t.host.msixEn.set fn false
    fnMask := t.host.fnMask.set fn false
    msix := t.host.msix.filter fun e => decide (e.1 / 2048 ≠ fn.val)
    pba := t.host.pba.filter fun e => decide (e.1 / 2048 ≠ fn.val)
    bar2Size := t.host.bar2Size.set fn 0x40000000 } }

/-- The first n virtual functions are enabled; a function that ends is reset. -/
def State.enableVfs (s : State) (n : Nat) : State :=
  let t := (List.finRange 5).foldl (fun t fn =>
    if t.host.vfEnabled.get fn && decide (n < fn.val) then t.resetFn fn else t) s
  { t with host := { t.host with vfEnabled := Vector.ofFn fun fn => decide (fn.val ≤ n) } }

/-- FLR. -/
def flr (fn : Fin 5) (s : State) : State :=
  if !s.fnLive fn then s
  else if fn.val = 0 then
    let t := (s.enableVfs 0).resetFn 0
    if t.parted then t else (List.finRange 32).foldl (fun t g => t.courseReset g) t
  else (List.finRange 8).foldl (fun t k => t.courseReset (courseOf (vfDie fn) k)) (s.resetFn fn)

/-- CONFIGURATION_SPACE_WRITE (R546, R548). TotalVFs is 0 in whole-package mode (R37). A message that was held goes once
nothing holds it. -/
def configWrite (fn : Fin 5) (c : CfgWrite) (s : State) : State :=
  if !s.fnLive fn then s
  else match c with
    | .busMaster on => ({ s with host := { s.host with bme := s.host.bme.set fn on } }).releaseVectors fn
    | .msix en mask =>
      ({ s with host := { s.host with msixEn := s.host.msixEn.set fn en, fnMask := s.host.fnMask.set fn mask } }).releaseVectors fn
    | .vfs n => if fn.val = 0 ∧ s.parted then s.enableVfs n.val else s
    | .bar2Size k =>
      if 30 ≤ k ∧ k ≤ (if fn.val = 0 then 39 else 37) then
        { s with host := { s.host with bar2Size := s.host.bar2Size.set fn (2 ^ k) } }
      else s

/-! ### Reads of host memory (R552) -/

/-- A transfer that awaits data of host memory. -/
def Transfer.awaitsHost (t : Transfer) : Bool :=
  !t.store && decide (t.share ≠ 3) && decide (hostBase ≤ t.far) && decide (t.got.length < t.len)

/-- Give data to the first of a list of transfers that awaits some. -/
def fillFirst (bs : List (Byte × Bool)) : List Transfer → List Transfer
  | [] => []
  | t :: ts => if t.awaitsHost then { t with got := (t.got ++ bs).take t.len } :: ts else t :: fillFirst bs ts

/-- The first transfer of a stream that awaits host data. -/
def Stream.awaiting (x : Stream) : Option Transfer := x.inflight.find? Transfer.awaitsHost

/-- A device read ends without data: UR, CA or a timeout. The rest of the transfer is delivered poisoned. -/
def State.hostReadFails (s : State) (g : Course) (n : Nat) : State :=
  match ((s.course g).stream n).awaiting with
  | none => s
  | some t =>
    let (bs, u) := s.freeBytes (t.len - t.got.length)
    (u.modStream g n fun x => { x with inflight := fillFirst (bs.map fun b => (b, true)) x.inflight }).hostFault 0x100A
      (s.courseFn g) 3 (t.far - hostBase)

/-- HOST_READ_COMPLETION: data with or without EP, or an unsuccessful completion. -/
def hostReadCompletion (g : Course) (n : Nat) (data : Option (List Byte × Bool)) (s : State) : State :=
  match data with
  | none => s.hostReadFails g n
  | some (bs, ep) =>
    s.modStream g n fun x => { x with inflight := fillFirst (bs.map fun b => (b, ep)) x.inflight }

/-- Every device read of host memory in flight fails. -/
def State.dropHostReads (s : State) : State :=
  (List.finRange 32).foldl (fun t g => (t.course g).str.streams.foldl (fun u e =>
    e.2.inflight.foldl (fun v _ => v.hostReadFails g e.1) u) t) s

/-! ### The link (R546, R548) -/

def State.linkDown (s : State) : State := { s with host := { s.host with up := false, gen := 0, width := 0 } }

/-- PERST: asserted, it resets the host interface; deasserted, training begins at 6.0, or at step 10 where that is later. `link` is
the generation, 0 for 6.0 to 3 for 3.0, and the width that training reaches. -/
def perst (low : Bool) (link : Option (Fin 4 × LinkWidth)) (s : State) : State :=
  let t := { s with boot := { s.boot with perst := low } }
  if low then
    if s.boot.perst then s
    else
      let u := (t.dropHostReads.enableVfs 0).linkDown
      (List.finRange 5).foldl (fun v fn => v.resetFn fn) u
  else if s.boot.perst ∧ 10 ≤ (s.reg (pr 0)).toNat % 16 then
    match link with
    | some (k, w) => t.linkUp (6 - k.val) w
    | none => t
  else t

/-- PCIE_RETRAIN_TIMER: with the link untrained after step 10, training is tried again at 3.0. -/
def pcieRetrainTimer (w : Option LinkWidth) (s : State) : State :=
  match w with
  | some w => if decide (11 ≤ (s.reg (pr 0)).toNat % 16) && !s.host.up && !s.boot.perst then s.linkUp 3 w else s
  | none => s

/-- PCIE_LANE_FAILURE: the link retrains at a lower width, or is lost. -/
def pcieLaneFailure (w : Option LinkWidth) (s : State) : State :=
  if !s.host.up then s
  else match w with
    | some w => if laneWidth w < s.host.width then { s with host := { s.host with width := laneWidth w } } else s
    | none => s.linkDown

/-- HST_LINK_STATUS. -/
def HostState.linkStatus (h : HostState) : Nat := h.gen + 8 * h.width + (if h.up then 256 else 0)

/-! ### BAR2 and the doorbells (R549 to R552) -/

/-- The window base of a function; bits below the BAR size read 0. -/
def State.bar2Base (s : State) (fn : Fin 5) : Nat :=
  let o := if fn.val = 0 then Blk.host.base + 8 else (Blk.die (cdieDie (vfDie fn))).base + 0x7000
  let a := (s.reg64 o).toNat
  a - a % s.host.bar2Size.get fn

/-- Device physical address of a BAR2 request of n bytes, if all of it is backed near memory of the function's map. -/
def State.bar2Addr (s : State) (fn : Fin 5) (off n : Nat) : Option Nat :=
  let a := s.bar2Base fn + off
  let p := if fn.val = 0 then some a else s.physOf (vfDie fn).val a
  match p with
  | some a => if s.nearOk a n then some a else none
  | none => none

/-- HOST_BAR2_ACCESS: a read of `len` bytes, or a write. The completions of a read carry one 64-byte line each (log entry
20). Until READY a read returns 0 and a write is ignored (R553). -/
def bar2Access (fn : Fin 5) (off len : Nat) (data : Option (List Byte)) (s : State) : State :=
  let n := match data with
    | some bs => bs.length
    | none => len
  if !s.fnLive fn || n == 0 || decide (s.host.bar2Size.get fn < off + n) then s
  else if !s.ready then
    if data.isSome then s
    else (linePieces off (List.replicate n (0, false))).foldl (fun t p => t.emit (.completion fn false false p.2.1)) s
  else match s.bar2Addr fn off n, data with
    | none, none => (s.hostFault 0x1008 fn 1 off).emit (.completion fn true false [])
    | none, some _ => s.hostFault 0x1008 fn 1 off
    | some a, some bs => s.store a bs
    | some a, none =>
      let bs := (List.range n).map fun i => (s.byte (a + i), s.dirty (a + i) 1)
      let t := if bs.any (·.2) then s.hostFault 0x1009 fn 1 off else s
      (linePieces a bs).foldl (fun t p => t.emit (.completion fn false p.2.2
        (if p.2.2 then p.2.1.map fun _ => 0xFF else p.2.1))) t

/-- DOORBELL_WRITE (R550, R551): the posted writes before it have been applied. -/
def doorbellWrite (fn : Fin 5) (off : Nat) (v : Word) (s : State) : State :=
  let page := off / 4096
  let t : Fin 256 := ⟨off % 4096 / 4 % 256, by omega⟩
  let ring (g : Course) : State := (s.modCourse g fun c => c.tallyAdd t v).settle g
  if !s.fnLive fn || !s.ready || decide (1024 ≤ off % 4096) || decide (off % 4 ≠ 0) then s
  else if fn.val = 0 then
    if s.parted ∨ 32 ≤ page then s else ring (courseAt page)
  else if page < 8 then ring (courseOf (vfDie fn) ⟨page % 8, by omega⟩)
  else s

/-! ### The commands -/

def execFlr (fn : Fin 5) (s : State) : Out := .next (flr fn s)
def execConfigurationSpaceWrite (fn : Fin 5) (c : CfgWrite) (s : State) : Out := .next (configWrite fn c s)
def execMsixTableWrite (fn : Fin 5) (v : Fin 2048) (addr : DWord) (data : Word) (masked : Bool) (s : State) : Out :=
  .next (msixTableWrite fn v.val addr data masked s)
def execHostReadCompletion (g : Course) (n : StreamId) (data : Option (List Byte × Bool)) (s : State) : Out :=
  .next (hostReadCompletion g n.val data s)
def execHostCplTimeout (g : Course) (n : StreamId) (s : State) : Out := .next (s.hostReadFails g n.val)
def execPerst (low : Bool) (link : Option (Fin 4 × LinkWidth)) (s : State) : Out := .next (perst low link s)
def execPcieRetrainTimer (width : Option LinkWidth) (s : State) : Out := .next (pcieRetrainTimer width s)
def execPcieLaneFailure (width : Option LinkWidth) (s : State) : Out := .next (pcieLaneFailure width s)
def execHostBar2Access (fn : Fin 5) (off : BitVec 39) (len : Fin 4097) (data : Option (List Byte)) (s : State) : Out :=
  .next (bar2Access fn off.toNat len.val data s)
def execDoorbellWrite (fn : Fin 5) (off : BitVec 32) (v : Word) (s : State) : Out := .next (doorbellWrite fn off.toNat v s)

end Sys2Proof.Machine
end

