-- ==== Sys2Proof/Machine/Live.lean ====
section
/-! DEFINITION. Live: what the registers that report state read as (R112, R134, R160, R193, R195, R243, R281, R342, R399, R437,
R438, R458, R490 to R492, R524, R525, R527, R559, R560). -/

namespace Sys2Proof.Machine

/-- A value that the manual leaves open, below m. -/
def State.open (s : State) (m : Nat) : Nat × State := (s.fresh.toNat % m, s.used)

def bitIf (b : Bool) (n : Nat) : Nat := if b then 2 ^ n else 0

/-- A mask of the numbers below n for which p holds. -/
def bitsOf (n : Nat) (p : Nat → Bool) : Nat := (List.range n).foldl (fun m k => m + bitIf (p k) k) 0

/-- Some started instruction of a queue that `p` accepts has not ended. -/
def CourseState.runs (c : CourseState) (q : QueueId) (p : EngineOp → Bool) : Bool :=
  (c.queue q).started.any fun i => !i.done && p i.e.op

def EngineOp.isParity : EngineOp → Bool
  | .msnParity _ => true
  | _ => false

def EngineOp.isPass : EngineOp → Bool
  | .msnPass _ => true
  | _ => false

/-- One of several values, where the manual does not tell which. -/
def State.oneOf (s : State) (vs : List Nat) : Nat × State := (vs.getD (s.fresh.toNat % vs.length) 0, s.used)

/-! ### The course block -/

/-- MODE of a pass (R112). -/
def PassMode.num : PassMode → Nat
  | .table => 1
  | .shift => 2
  | .popcount => 3

def Token.mode : Token → Option Nat
  | .step _ o .. => some o.mode.num
  | .openTile .. => none

/-- MSN_STATUS: whether one of the passes with blocks in flight in array 0 stands in its stage 1, and which, is timing (log entry 7). -/
def State.msnStatus (s : State) (g : Course) : Nat × State :=
  let a := (s.course g).arr
  let base := a.logical + bitIf (a.fifo.toList.any fun l => l.any fun t => t.mode.isSome) 7
  let modes := (a.tokens 0).filterMap Token.mode
  if modes.isEmpty then (base, s)
  else
    let (m, t) := s.oneOf (0 :: modes)
    (base + 16 * m, t)

/-- MSN_PAR_STATUS: SETUP is timing while an msn.parity runs. -/
def State.parStatus (s : State) (g : Course) : Nat × State :=
  let v := (s.reg (cr g 0x1040)).toNat
  if (s.course g).runs 0 EngineOp.isParity then
    let (m, t) := s.open 2
    (v + 1 + 2 * m, t)
  else (v, s)

/-- TBL_STATUS: a tbl.build waits while R125 lets it write nothing; whether it writes at a moment when it may is timing (log entry
7). -/
def State.tblStatus (s : State) (g : Course) : Nat × State :=
  let c := s.course g
  let base := bitIf c.arr.half0 0 + bitIf c.arr.half1 1
  match c.building with
  | none => (base, s)
  | some (i, o) =>
    if c.mayWrite i o then
      let (m, t) := s.open 2
      (base + 4 * m, t)
    else (base + 8, s)

/-- TBL_RUN_READY (R116). -/
def ArrayState.runReady (a : ArrayState) : Nat := bitsOf 64 fun k => (a.run k).cur.isSome && (a.run k).pend.isEmpty

/-- The drain path of array j has a shadow set to read. -/
def CourseState.drainBusy (c : CourseState) (j : Nat) : Bool :=
  match c.draining j with
  | none => false
  | some (i, d, p, _) =>
    match SMap.find c.arr.shadow (32 * j + (d.slot + (d.place p).1)) with
    | some sh => sh.drain == i.e.serial
    | none => false

/-- A swap of slot k of array j waits for a FULL shadow set only. -/
def CourseState.swapWaits (c : CourseState) (j k : Nat) : Bool :=
  match c.nextSwap j k with
  | some i => (SMap.find c.arr.shadow (32 * j + k)).isSome && !c.slotBusy j k i.e.serial
  | none => false

/-- ACC_STATUS. -/
def CourseState.accStatus (c : CourseState) : Nat :=
  let js := List.range c.arr.logical
  bitIf (js.any c.drainBusy) 0 + bitIf (js.any fun j => (List.range 32).any fun k => c.swapWaits j k) 1

/-- The counters of cycles of a course block: the register with FREEZE and CLEAR, and whether what is counted may go on. -/
def CourseState.cycles (c : CourseState) : Nat → Option (Nat × Bool)
  | 0xC8 => some (0xD8, c.stalled.isSome)
  | 0xD0 => some (0xD8, c.wait.isSome)
  | 0x1020 => some (0x1030, c.runs 0 EngineOp.isPass)
  | 0x1028 => some (0x1030, c.runs 0 EngineOp.isPass)
  | 0x1118 => some (0x1128, c.runs 1 fun _ => true)
  | 0x1120 => some (0x1128, c.runs 1 fun _ => true)
  | 0x1310 => some (0x132C, (c.runs 0 EngineOp.isPass) || c.runs 5 fun _ => true)
  | _ => none

/-- A counter of cycles as it stands now: how many cycles it has counted is timing, and so a free value (log entry 7). -/
def State.cyclesNow (s : State) (g : Course) (o : Nat) : State :=
  match (s.course g).cycles o with
  | some (ctrl, on) => s.elapse (Blk.course g).base ctrl o on
  | none => s

/-- ACC_OPEN_SLOTS and ACC_SHADOW_FULL. -/
def ArrayState.openSlots (a : ArrayState) : Nat := bitsOf 32 fun k => (SMap.find a.active k).isSome
def ArrayState.shadowFull (a : ArrayState) : Nat :=
  bitsOf 32 fun k => (List.range 8).any fun j => (SMap.find a.shadow (32 * j + k)).isSome

/-- The binding that VEC_RNG_SEL selects. -/
def State.rngSel (s : State) (g : Course) : Option Binding :=
  (s.course g).bindings.find? fun b => b.stream == (s.reg (cr g 0x1408)).setWidth 16

/-- REL_ARRAY_MAP. -/
def ArrayState.mapReg (a : ArrayState) : Nat :=
  (List.range 8).foldl (fun m k => m + 16 ^ k * (if k < a.logical then a.phys k else 15)) 0

/-- REL_REPLAY_LEVEL. -/
def CourseState.replayLevel (c : CourseState) : Nat :=
  let l := c.arr.level c.busySerials
  min l.1 1024 + 4096 * min l.2.1 16384

/-- The registers of a course block that report state; none for the others. -/
def State.liveCourse (s : State) (g : Course) (o : Nat) : Option (Nat × State) :=
  let c := s.course g
  let sel := c.stream ((s.reg (cr g 0x2020)).toNat % 2048)
  if (c.cycles o).isSome then
    let t := s.cyclesNow g o
    some ((t.reg64 (cr g o)).toNat, t)
  else match o with
  | 0x04 => some (s.ccrStatus g, s)
  | 0x10 => some (if c.ctl = .halted ∨ c.ctl = .faulted then (c.pc.toNat, s) else s.open (2 ^ 48))
  | 0x64 => some (c.watchesUsed, s)
  | 0x1000 => some (s.msnStatus g)
  | 0x1040 => some (s.parStatus g)
  | 0x1100 => some (s.tblStatus g)
  | 0x1108 => some (c.arr.runReady, s)
  | 0x1200 => some (min 32 (c.idx.bytes.length / 128), s)
  | 0x1300 => some (c.accStatus, s)
  | 0x1308 => some (c.arr.openSlots, s)
  | 0x130C => some (c.arr.shadowFull, s)
  | 0x1400 => if c.executed 3 then some (s.fresh.toNat % 2 + 2 * c.bindings.length, s.used) else some (2 * c.bindings.length, s)
  | 0x140C => some (match s.rngSel g with | some b => 1 + bitIf b.replica 1 | none => 0, s)
  | 0x1410 => some (match s.rngSel g with | some b => b.pos.toNat | none => 0, s)
  | 0x2000 => some (c.strStatus, s)
  | 0x2008 => some (if s.parted then 0x00802008 else (s.reg (cr g 0x2008)).toNat, s)
  | 0x2024 => some (sel.sstate, s)
  | 0x2028 => some (sel.spos, s)
  | 0x2030 =>
    let n := (s.reg (cr g 0x2020)).toNat % 2048
    let t := s.rearmElapse g n
    some (((t.course g).stream n).rearmStalls, t)
  | 0x3000 => some (c.redStatus, s)
  | 0x3800 => some (c.arr.mapReg, s)
  | 0x3804 => some (c.arr.healthy.toNat, s)
  | 0x3808 => some (c.relState, s)
  | 0x3810 => some (c.replayLevel, s)
  | 0x3814 => some ((s.reg (cr g 0x3814)).toNat + bitIf (c.testing.isSome && c.arr.repoint == .none) 16, s)
  | _ =>
    if 0x80 ≤ o ∧ o < 0xA0 then some ((c.queues.toList.getD ((o - 0x80) / 4) QueueState.reset).status, s)
    else if 0x800 ≤ o ∧ o < 0xC00 then some ((SMap.get c.tallyV ((o - 0x800) / 4) 0).toNat, s)
    else if 0xC00 ≤ o ∧ o < 0xC20 then some (c.poisonBits ((o - 0xC00) / 4), s)
    else none

/-! ### The other blocks -/

/-- REL_UFIRST: the first code of the unit that REL_UFIRST_SEL selects (R522). -/
def State.ufirstReg (s : State) (d : Die) : Nat :=
  let v := (s.reg (dr d 0x20D0)).toNat
  match SMap.find (s.die d).ufirst (v % 65536) with
  | some c => c.toNat + 0x80000000
  | none => 0

/-- The age of a request that has waited a number of phases: two cycles for each, and a last bit that depends on the cycle in
which it was presented (R481; log entry 7). -/
def State.ageReg (s : State) (waiting : Bool) (phases : Nat) : Nat × State :=
  if waiting then
    let (b, t) := s.open 2
    (min (2 * phases + b) full32, t)
  else (0, s)

/-- PWR_CLK_STATUS, 0 until boot step 2. -/
def State.clkReg (s : State) (d : Die) : Nat × State :=
  let x := s.die d
  if !x.started then (0, s)
  else if x.pllA = .relocking ∨ x.pllB = .relocking then
    let (v, t) := s.open 4
    (x.clkStatus (v.testBit 0) (v.testBit 1), t)
  else (x.clkStatus false false, s)

/-- A map register: the map latched, or the map in force. -/
def Arb.mapReg (a : Arb) : Nat := (a.latched.getD a.force).toNat

def State.liveDie (s : State) (d : Die) (o : Nat) : Option (Nat × State) :=
  let x := s.die d
  let common := match o with
    | 0x2000 => some (s.relStatus d + (s.reg (dr d 0x2000)).toNat, s)
    | 0x20D4 => some (s.ufirstReg d, s)
    | 0x20D8 => some ((s.reg (dr d 0x20D8)).toNat + bitIf (!x.selfTests.isEmpty) 16, s)
    | 0x4000 => some (s.clkReg d)
    | 0x4024 => some (min x.tjMax 255 + bitIf (decide (s.throttleAt d < x.tjMax)) 8 + (s.reg (dr d 0x4024)).toNat, s)
    | _ => none
  if h : d.val < 4 then
    let c : CDie := ⟨d.val, h⟩
    match o with
    | 0x4008 => some (if x.started then (s.cdie c).inUseSum + 2048 * s.effective c + 4194304 * x.factor else 0, s)
    | 0x4010 => some ((s.cdie c).arb.mapReg, s)
    | 0x4018 => some (s.arbStatus c + (s.reg (dr d 0x4018)).toNat, s)
    | 0x401C => some (match s.oldestAll c with | some q => s.ageReg true q.2.phases | none => (0, s))
    | 0x7000 => some (s.bar2Base ⟨d.val + 1, by omega⟩, s)
    | _ => common
  else common

def State.liveMem (s : State) (k : Stack) (o : Nat) : Option (Nat × State) :=
  let m := s.memc k
  match o with
  | 0x08 => some (s.retireStatus k, s)
  | 0x14 => some (s.lockStatus k, s)
  | 0x20 => some (match s.tornSel k with | some l => l.base | none => 0, s)
  | 0x28 => some (match s.tornSel k with | some l => l.len | none => 0, s)
  | 0x2C => some (s.tornOwner k, s)
  | 0x70 => some (m.arb.mapReg, s)
  | 0xF0 => some (m.arbStatus + (s.reg (mr k 0xF0)).toNat, s)
  | 0xF4 => some (match m.oldest with | some q => s.ageReg true q.2.2 | none => (0, s))
  | 0x1000 => some (s.updStatus k, s)
  | _ => none

def State.liveFar (s : State) (l : LinkId) (o : Nat) : Option (Nat × State) :=
  if o = 0x14C then some ((s.farc l).loaded + (s.reg (fr l 0x14C)).toNat, s)
  else if 0x208 ≤ o ∧ o < 0x400 ∧ (o - 0x208) % 0x20 = 0 then some ((s.reg64 (fr l o)).toNat + 0x1FFFFF, s)
  else none

def State.liveNet (s : State) (x : IoDie) (o : Nat) : Option (Nat × State) :=
  match o with
  | 0x38 => some (s.netConnState x, s)
  | 0x40 => some (s.netInflight x, s)
  | 0x48 => some (s.netFigure x (·.srtt), s)
  | 0x4C => some (s.netFigure x (·.cwnd), s)
  | 0x54 =>
    let v := (s.reg (nr x 0x54)).toNat
    some (if v / 512 % 128 = 0 then v + 512 * 64 else v, s)
  | 0xA4 => some (s.netKeyStatus x + (s.reg (nr x 0xA4)).toNat, s)
  | _ => none

/-- PWR_PKG_STATUS, 0 until the compute dies have started (R582; log entry 82): V in force once every compute die has applied the cap
input (R487, R491). -/
def State.pkgStatus (s : State) : Nat :=
  if !((List.finRange 4).all fun d => (s.die (cdieDie d)).started) then 0
  else bitIf s.boot.capPin 0 + 2 * (if (List.finRange 4).all fun d => (s.cdie d).capApplied then min s.cap s.env else s.env)

/-- What a register reads as while it reports state: the value, for a pair of 64 bits, and the state once free values have been
taken; none for a register that is stored. -/
def State.live (s : State) (b : Blk) (o : Nat) : Option (Nat × State) :=
  match b with
  | .course g => s.liveCourse g o
  | .die d => s.liveDie d o
  | .mortar d => if h : o < 12 then some (s.edgeStatus d ⟨o / 4, by omega⟩, s) else none
  | .fwu d => if o = 0 then some (s.fwuStatus d, s.used) else none
  | .mem k => s.liveMem k o
  | .far l => s.liveFar l o
  | .net x => s.liveNet x o
  | .port p => if o = 4 then some ((s.ports.get p).status, s) else none
  | .host => if o = 0 then some (s.host.linkStatus, s) else if o = 8 then some (s.bar2Base 0, s) else none
  | .pkg => match o with
    | 0xE4 => some (s.ledgerStatus, s)
    | 0x164 => some (s.boot.kwkStatus + (s.reg (pr 0x164)).toNat, s)
    | 0x1020 => some (s.pkgStatus, s)
    | _ => none

end Sys2Proof.Machine
end

