-- ==== Sys2Proof/Machine/Regs.lean ====
section
/-! DEFINITION. Regs: a read or a write of a register by an agent (R9 to R14, R40, R113, R553, R563, R564), and the commands that
are writes of one field. -/

namespace Sys2Proof.Machine

/-! ### Which register an access reaches -/

/-- Where an access of an agent goes: to the register at a BAR0 offset of the device; to nothing, so that it reads 0 or is ignored;
the same with HST_ACCESS; or nowhere, because the agent has no path to the device. -/
inductive Reach where
  | at (o : Nat)
  | zero
  | fault
  | none
  deriving DecidableEq, Repr

/-- Before READY the host reaches the BOOT_ registers and HST_LINK_STATUS (R553). -/
def earlyReg (off : Nat) : Bool :=
  (decide (Blk.pkg.base ≤ off) && decide (off < Blk.pkg.base + 0x254)) || decide (off / 4 = Blk.host.base / 4)

/-- The physical function of a partitioned device reaches, in the block of a compute die that a virtual function owns, only its
error reporting (R41, R549, R552). -/
def State.pfShut (s : State) (off : Nat) : Bool :=
  let d := off / 0x4000000
  let r := off % 0x4000000
  s.parted && decide (d < 4) && s.host.vfEnabled.toList.getD (d + 1) false && !(decide (0x2000 ≤ r) && decide (r < 0x3000))

/-- The register an aligned or misaligned 32-bit access of an agent reaches. -/
def State.regReach (s : State) (a : Agent) (off : Nat) : Reach :=
  match a with
  | .plinth => if off % 4 = 0 then .at off else .zero
  | .course _ => if off % 4 = 0 ∧ !s.parted then .at off else .zero
  | .host fn =>
    if !s.fnLive fn then .none
    else if fn.val = 0 then
      if 0x20000000 ≤ off then .none
      else if !s.ready && !earlyReg off then .zero
      else if off % 4 ≠ 0 ∨ s.pfShut off then .fault
      else .at off
    else if 0x4000000 ≤ off then .none
    else if !s.ready then .zero
    else if off % 4 ≠ 0 then .fault
    else .at ((vfDie fn).val * 0x4000000 + off)

/-- The offset under which an agent addresses a register of the device; none where a virtual function has none for it (R40). -/
def agentOff (a : Agent) (o : Nat) : Option Nat :=
  match a with
  | .host fn =>
    if fn.val = 0 then some o
    else if o / 0x4000000 = (vfDie fn).val then some (o % 0x4000000)
    else none
  | _ => some o

/-! ### Reads (R10, R12) -/

/-- Some word of a register. -/
def RegRow.isHigh (r : RegRow) (o : Nat) : Bool := r.wide && decide ((o - r.off) % r.stride = 4)

/-- The value of a register, or of the pair at its low word. -/
def State.regValue (s : State) (b : Blk) (r : RegRow) (o : Nat) : Nat × State :=
  match s.live b o with
  | some p => p
  | none => (if r.wide then (s.reg64 (b.base + o)).toNat else (s.reg (b.base + o)).toNat, s)

def lowWord (v : Nat) : Word := BitVec.ofNat 32 v
def highWord (v : Nat) : Word := BitVec.ofNat 32 (v / 4294967296)

/-- The high word that an agent holds captured for the pair at a BAR0 offset. -/
def State.captured (s : State) (a : Agent) (o : Nat) : Option Word :=
  (s.capture.find? fun e => e.1 == (a, o)).map (·.2)

/-- Release an agent's capture of a pair. -/
def State.release (s : State) (a : Agent) (o : Nat) : State :=
  { s with capture := s.capture.filter fun e => e.1 != (a, o) }

/-- Capture a high word for an agent. -/
def State.captureHigh (s : State) (a : Agent) (o : Nat) (v : Word) : State :=
  { s with capture := ((a, o), v) :: (s.capture.filter fun e => e.1 != (a, o)) }

/-- An agent reads the register at a BAR0 offset of the device. -/
def State.getReg (s : State) (a : Agent) (off : Nat) : Word × State :=
  match locate off with
  | none => (0, s)
  | some (b, o) => match regRow b o with
    | none => (0, s)
    | some r =>
      if r.wo then (0, s)
      else if !r.wide then
        let p := s.regValue b r o
        (lowWord p.1, p.2)
      else if r.isHigh o then
        match s.captured a (off - 4) with
        | some v => (v, s.release a (off - 4))
        | none =>
          let p := s.regValue b r (o - 4)
          (highWord p.1, p.2)
      else
        let p := s.regValue b r o
        (lowWord p.1, p.2.captureHigh a off (highWord p.1))

/-- A read of a register by an agent: what it returns, and the state after it. -/
def State.readReg (s : State) (a : Agent) (off : Nat) : Option Word × State :=
  match s.regReach a off with
  | .none => (none, s)
  | .zero => (some 0, s)
  | .fault => (some 0, s.hostFault 0x1007 (match a with | .host fn => fn | _ => 0) 0 off)
  | .at o =>
    let p := s.getReg a o
    (some p.1, p.2)

/-- A read answered to the agent. -/
def State.readOut (s : State) (a : Agent) (off : Nat) : State :=
  match s.readReg a off with
  | (some v, t) => t.emit (.regRead a off v)
  | (none, t) => t

/-! ### Counter controls (R113) -/

/-- The 64-bit and the 32-bit counters that the CLEAR field of a control register clears: bit 1 CLEAR, bit 0 FREEZE. -/
def counters (b : Blk) (o : Nat) : Option (List Nat × List Nat) :=
  let perRequester (base : Nat) : List Nat × List Nat :=
    ((List.range 16).map fun r => base + 16 * r,
      (List.range 16).flatMap fun r => [base + 16 * r + 8, base + 16 * r + 12])
  match b with
  | .course _ => match o with
    | 0x00D8 => some ([0xC0, 0xC8, 0xD0], [])
    | 0x1030 => some ([0x1008, 0x1010, 0x1018, 0x1020, 0x1028], [])
    | 0x1070 => some ([0x1048, 0x1060, 0x1068], [])
    | 0x1128 => some ([0x1110, 0x1118, 0x1120], [])
    | 0x1210 => some ([0x1208], [])
    | 0x1248 => some ([0x1220, 0x1228, 0x1230], [])
    | 0x132C => some ([0x1310, 0x1318, 0x1320], [])
    | 0x1428 => some ([0x1418, 0x1420], [])
    | 0x2090 => some ([0x2070, 0x2078, 0x2080, 0x2088], [])
    | 0x3038 => some ([0x3018, 0x3020, 0x3028, 0x3030], [])
    | 0x341C => some ([0x3400, 0x3408], [])
    | 0x3828 => some ([0x3818, 0x3820], [])
    | _ => none
  | .die d => match o with
    | 0x20DC => some ([0x20C0, 0x20C8], [])
    | 0x4028 => if d.val < 4 then some (perRequester 0x4100) else none
    | _ => none
  | .mortar _ => if o = 0x28 then some ([0x10, 0x18, 0x20], []) else none
  | .fwu _ => if o = 0x18 then some ([0x08, 0x10], []) else none
  | .mem _ => match o with
    | 0x68 => some ([0x38, 0x40, 0x48, 0x50, 0x58, 0x60], [])
    | 0xF8 => some (perRequester 0x100)
    | 0x1070 => some ([0x1058, 0x1060, 0x1068], [])
    | 0x2038 => some ([0x2020, 0x2028, 0x2030], [])
    | _ => none
  | .far _ => if o = 0x20 then some ([0x10, 0x18], []) else none
  | .net _ => if o = 0xD0 then some ([0xB0, 0xB8, 0xC0, 0xC8], []) else none
  | .port _ => if o = 0x30 then some ([0x10, 0x18, 0x20, 0x28], []) else none
  | .host => if o = 0x28 then some ([0x20], []) else none
  | .pkg => if o = 0x250 then some ([0x248], []) else none

/-- The counters of cycles of a control register count up to its write; CLEAR sets those of the streams to 0 with the others. -/
def State.settleCycles (s : State) (b : Blk) (o : Nat) (cs : List Nat) (clear : Bool) : State :=
  match b with
  | .course g =>
    let t := cs.foldl (fun t c => t.cyclesNow g c) s
    if o = 0x2090 then t.rearmSettle g clear else t
  | _ => s

/-- A write of a counter control: CLEAR, then FREEZE. -/
def State.wrCounters (s : State) (b : Blk) (o : Nat) (cs : List Nat × List Nat) (v : Word) : State :=
  let s := s.settleCycles b o cs.1 (v.getLsbD 1)
  let t := if v.getLsbD 1 then
    cs.2.foldl (fun t c => t.setReg (b.base + c) 0) (cs.1.foldl (fun t c => t.setReg64 (b.base + c) 0) s) else s
  t.setReg (b.base + o) (v &&& 1)

/-! ### Writes (R10 to R12) -/

/-- The value of a 32-bit register after a write by its access codes (R12). -/
def RegRow.after (r : RegRow) (old v : Word) : Word :=
  let m := BitVec.ofNat 32 r.mask
  (old &&& ~~~m &&& ~~~(v &&& BitVec.ofNat 32 r.w1c)) ||| (v &&& m)

/-- Store a write by the access codes. -/
def State.putPlain (s : State) (b : Blk) (r : RegRow) (o : Nat) (v : Word) : State :=
  s.setReg (b.base + o) (r.after (s.reg (b.base + o)) v)

/-- A captured record whose VALID bit is written 1 reads wholly 0 (R161). -/
def State.dropCapture (s : State) (off : Nat) (v : Word) : State := if v.getLsbD 31 then s.setReg off 0 else s

/-- A write of an interrupt map entry that names a vector the function lacks is ignored (R555). -/
def State.putIrqMap (s : State) (b : Blk) (r : RegRow) (o : Nat) (fn : Fin 5) (v : Word) : State :=
  if v.toNat % 2048 < s.vectors fn then s.putPlain b r o v else s

/-- A write of a 32-bit register of a course block. -/
def State.putCourse (s : State) (g : Course) (r : RegRow) (o : Nat) (v : Word) : State :=
  let plain := s.putPlain (.course g) r o v
  match o with
  | 0x0000 => s.wrCtrl g v
  | 0x0058 => s.wrCqCtrl g v
  | 0x00A0 => s.wrQctrl g (v.setWidth 8) ((v >>> 8).setWidth 8)
  | 0x0C20 => s.wrTallyAdd g v
  | 0x1040 => if v.getLsbD 31 then [0x1050, 0x1054, 0x1058, 0x105C].foldl (fun t k => t.setReg (cr g k) 0) plain else plain
  | 0x1304 => if v.getLsbD 2 then plain.setReg (cr g 0x1328) 0 else plain
  | 0x2004 => s.wrSplit g v
  | 0x2008 => s.wrOutstanding g v
  | 0x2018 => if v.getLsbD 0 then s.tlbInv g else s
  | 0x201C => s.wrStrCmd g v
  | 0x300C => s.wrRedCtrl g v
  | 0x3010 | 0x3418 | 0x3814 => s.dropCapture (cr g o) v
  | 0x380C => s.wrCourseCmd g v
  | _ => if h : 0x0C00 ≤ o ∧ o < 0x0C20 then s.wrTallyPoison g ⟨(o - 0x0C00) / 4, by omega⟩ v else plain

/-- A write of a 32-bit register of a die's control block. -/
def State.putDie (s : State) (d : Die) (r : RegRow) (o : Nat) (v : Word) : State :=
  let plain := s.putPlain (.die d) r o v
  match o with
  | 0x2004 => s.wrRingCtrl d v
  | 0x20D4 =>
    if v.getLsbD 31 then
      let sel := (s.reg (dr d 0x20D0)).toNat % 65536
      s.modDie d fun x => { x with ufirst := SMap.del x.ufirst sel }
    else s
  | 0x20D8 => s.dropCapture (dr d o) v
  | 0x4004 => if v.getLsbD 0 then s.pllSwitch d else s
  | 0x4020 => s.wrTherm d v
  | 0x402C => if 48 ≤ v.toNat % 2048 ∧ v.toNat % 2048 ≤ 1060 then plain else s
  | _ =>
    if h : d.val < 4 ∧ 0x7100 ≤ o then s.putIrqMap (.die d) r o ⟨d.val + 1, by omega⟩ v else plain

/-- A write of a 32-bit register of a near-memory controller. -/
def State.putMem (s : State) (k : Stack) (r : RegRow) (o : Nat) (v : Word) : State :=
  let plain := s.putPlain (.mem k) r o v
  match o with
  | 0x0004 => s.wrRetireCtrl k v
  | 0x0010 => if v.toNat < 0x400 then s else plain
  | 0x0030 => s.wrTornClear k v
  | 0x0088 | 0x2018 => s.dropCapture (mr k o) v
  | 0x1014 => s.wrUpdCtrl k v
  | 0x2008 => s.wrRedMc k v
  | _ => plain

/-- A write of a 32-bit register of a far-memory controller. -/
def State.putFar (s : State) (l : LinkId) (r : RegRow) (o : Nat) (v : Word) : State :=
  if o = 0x148 then s.wrFarKey l v
  else if 0x210 ≤ o then s.wrFarRegion l ⟨(o - 0x210) / 0x20 % 16, by omega⟩ v
  else s.putPlain (.far l) r o v

/-- A write of a 32-bit register of a network block. -/
def State.putNet (s : State) (x : IoDie) (r : RegRow) (o : Nat) (v : Word) : State :=
  match o with
  | 0x30 => s.wrConnCmd x v
  | 0x5C => if v.toNat % 16 = 0 then s else s.putPlain (.net x) r o v
  | 0xA0 => s.wrNetKey x v
  | _ => s.putPlain (.net x) r o v

/-- A write of a 32-bit register of the host interface block. -/
def State.putHost (s : State) (r : RegRow) (o : Nat) (v : Word) : State :=
  match o with
  | 0x10 => s.dropCapture (Blk.host.base + o) v
  | 0x40 => if v.toNat < 0x10000 then s else s.putPlain .host r o v
  | _ => if 0x1000 ≤ o then s.putIrqMap .host r o 0 v else s.putPlain .host r o v

/-- A write of a 32-bit register of the package-wide block. Whether the flash accepts the CLEAR record is free. -/
def State.putPkg (s : State) (r : RegRow) (o : Nat) (v : Word) : State :=
  match o with
  | 0x10 => s.dropCapture (Blk.pkg.base + o) v
  | 0xE0 => if v.getLsbD 0 then s.used.retryPrimary (s.fresh.getLsbD 0) else s
  | 0x160 => s.wrKwk v
  | 0x208 => s.wrMbox true v
  | 0x228 => s.wrMbox false v
  | _ => if 0x1000 ≤ o ∧ o < 0x1020 then s.wrBudget o v else s.putPlain .pkg r o v

/-- A write of a 32-bit register. -/
def State.putWord (s : State) (b : Blk) (r : RegRow) (o : Nat) (v : Word) : State :=
  match counters b o with
  | some cs => s.wrCounters b o cs v
  | none => match b with
    | .course g => s.putCourse g r o v
    | .die d => s.putDie d r o v
    | .mem k => s.putMem k r o v
    | .far l => s.putFar l r o v
    | .net x => s.putNet x r o v
    | .port p => if o = 0 then s.wrPortCtrl p v else s.putPlain b r o v
    | .host => s.putHost r o v
    | .pkg => s.putPkg r o v
    | .mortar _ | .fwu _ => s.putPlain b r o v

/-- A pair takes a new value: the bits that are RW. STR_PT_BASE invalidates the TLB (R271); an arbiter map is latched until its
phase (R325, R482). -/
def State.putPair (s : State) (b : Blk) (r : RegRow) (o : Nat) (v : DWord) : State :=
  let m := BitVec.ofNat 64 r.mask
  let plain := s.setReg64 (b.base + o) ((s.reg64 (b.base + o) &&& ~~~m) ||| (v &&& m))
  match b with
  | .course g => if o = 0x2010 then plain.tlbInv g else plain
  | .die d =>
    if h : d.val < 4 ∧ o = 0x4010 then
      s.modCDie ⟨d.val, h.1⟩ fun x => { x with arb := { x.arb with latched := some v } }
    else plain
  | .mem k => if o = 0x70 then s.modMem k fun x => { x with arb := { x.arb with latched := some v } } else plain
  | _ => plain

/-- The word latched for the pair at a BAR0 offset; 0 at reset (R10). -/
def State.lowLatch (s : State) (off : Nat) : Word := SMap.get s.latch off 0

/-- A write of the register at a BAR0 offset of the device. -/
def State.putReg (s : State) (off : Nat) (v : Word) : State :=
  match locate off with
  | none => s
  | some (b, o) => match regRow b o with
    | none => s
    | some r =>
      if !r.wide then s.putWord b r o v
      else if r.isHigh o then s.putPair b r (o - 4) (v ++ s.lowLatch (off - 4))
      else { s with latch := SMap.put s.latch off v 0 }

/-- The error ring of a compute die in partitioned mode, which takes writes from the physical function only (R520). -/
def State.ringShut (s : State) (a : Agent) (o : Nat) : Bool :=
  s.parted && decide (o / 0x4000000 < 4) && decide (0x2004 ≤ o % 0x4000000) && decide (o % 0x4000000 < 0x2018) && a != .host 0

/-- A write of a register by an agent. -/
def State.writeReg (s : State) (a : Agent) (off : Nat) (v : Word) : State :=
  match s.regReach a off with
  | .none | .zero => s
  | .fault => s.hostFault 0x1007 (match a with | .host fn => fn | _ => 0) 0 off
  | .at o => if s.ringShut a o then s else s.putReg o v

/-- A write by an agent of a register that the command names by its place in the device. -/
def State.command (s : State) (a : Agent) (o : Nat) (v : Word) : State :=
  match agentOff a o with
  | some off => s.writeReg a off v
  | none => s

/-- A command that needs a path to a register, and then acts. -/
def State.through (s : State) (a : Agent) (o : Nat) (act : State → State) : State :=
  match agentOff a o with
  | some off => match s.regReach a off with
    | .at _ => act s
    | .fault => s.hostFault 0x1007 (match a with | .host fn => fn | _ => 0) 0 off
    | _ => s
  | none => s

/-! ### Register reads and writes -/

/-- HOST_BAR0_MISALIGNED (R9): no effect but HST_ACCESS; a read returns 0. An aligned 32-bit access is not this command. -/
def bar0Misaligned (fn : Fin 5) (off size : Nat) (write : Bool) (s : State) : State :=
  let span := if fn.val = 0 then 0x20000000 else 0x4000000
  if (off % 4 = 0 ∧ size = 4) ∨ !s.fnLive fn ∨ span ≤ off then s
  else
    let t := if s.ready || (decide (fn.val = 0) && earlyReg off) then s.hostFault 0x1007 fn 0 off else s
    if write then t else t.emit (.completion fn false false (List.replicate size 0))

/-- COUNTER_CLEAR: a write of 1 to CLEAR of a counter control, with FREEZE as given. -/
def counterClear (a : Agent) (off : Nat) (freeze : Bool) (s : State) : State :=
  match s.regReach a off with
  | .at o => match locate o with
    | some (b, k) => if (counters b k).isSome then s.putReg o (if freeze then 3 else 2) else s
    | none => s
  | _ => s

def execRegisterWrite (a : Agent) (off : BitVec 32) (v : Word) (s : State) : Out := .next (s.writeReg a off.toNat v)
def execRegPairLowWrite (a : Agent) (off : BitVec 32) (v : Word) (s : State) : Out := .next (s.writeReg a off.toNat v)
def execRegPairHighWrite (a : Agent) (off : BitVec 32) (v : Word) (s : State) : Out := .next (s.writeReg a off.toNat v)
def execRegPairLowRead (a : Agent) (off : BitVec 32) (s : State) : Out := .next (s.readOut a off.toNat)
def execRegPairHighRead (a : Agent) (off : BitVec 32) (s : State) : Out := .next (s.readOut a off.toNat)
def execHostBar0Misaligned (fn : Fin 5) (off : BitVec 32) (size : Nat) (write : Bool) (s : State) : Out :=
  .next (bar0Misaligned fn off.toNat size write s)
def execCounterClear (a : Agent) (off : BitVec 32) (freeze : Bool) (s : State) : Out :=
  .next (counterClear a off.toNat freeze s)

/-! ### Commands of a course -/

def execCcrStart (a : Agent) (g : Course) (s : State) : Out := .next (s.command a (cr g 0) 1)
def execCcrStop (a : Agent) (g : Course) (s : State) : Out := .next (s.command a (cr g 0) 2)
def execCourseReset (a : Agent) (g : Course) (s : State) : Out := .next (s.command a (cr g 0) 4)
def execIbufInv (a : Agent) (g : Course) (s : State) : Out := .next (s.command a (cr g 0) 8)
def execQueueResume (a : Agent) (g : Course) (mask : BitVec 8) (s : State) : Out :=
  .next (s.command a (cr g 0xA0) (mask.setWidth 32))
def execQueueFlush (a : Agent) (g : Course) (mask : BitVec 8) (s : State) : Out :=
  .next (s.command a (cr g 0xA0) (mask.setWidth 32 <<< 8))
def execTallyAddReg (a : Agent) (g : Course) (v : Word) (s : State) : Out := .next (s.command a (cr g 0xC20) v)
def execTallyPoisonClear (a : Agent) (g : Course) (k : Fin 8) (v : Word) (s : State) : Out :=
  .next (s.command a (cr g (0xC00 + 4 * k.val)) v)
def execCqEnable (a : Agent) (g : Course) (v : Word) (s : State) : Out := .next (s.command a (cr g 0x58) (v ||| 1))
def execStrCmdResume (a : Agent) (g : Course) (n : StreamId) (s : State) : Out :=
  .next (s.command a (cr g 0x201C) (BitVec.ofNat 32 (4096 + n.val)))
def execStrCmdRelease (a : Agent) (g : Course) (n : StreamId) (s : State) : Out :=
  .next (s.command a (cr g 0x201C) (BitVec.ofNat 32 (8192 + n.val)))
def execTlbInvalidate (a : Agent) (g : Course) (v : Word) (s : State) : Out := .next (s.command a (cr g 0x2018) (v ||| 1))
/-- PT_BASE_WRITE: the low word and then the high word of STR_PT_BASE. -/
def execPtBaseWrite (a : Agent) (g : Course) (v : DWord) (s : State) : Out :=
  .next ((s.command a (cr g 0x2010) (v.setWidth 32)).command a (cr g 0x2014) ((v >>> 32).setWidth 32))
def execBwSplitWrite (a : Agent) (g : Course) (v : Word) (s : State) : Out := .next (s.command a (cr g 0x2004) v)
def execOutstandingWrite (a : Agent) (g : Course) (v : Word) (s : State) : Out := .next (s.command a (cr g 0x2008) v)
def execMaxclr (a : Agent) (g : Course) (s : State) : Out := .next (s.command a (cr g 0x300C) 1)
def execCourseFence (a : Agent) (g : Course) (s : State) : Out := .next (s.command a (cr g 0x380C) 1)
/-- ARRAY_READMIT: READMIT of a physical array whose self-test passes or fails. -/
def execArrayReadmit (a : Agent) (g : Course) (p : Fin 16) (pass : Bool) (s : State) : Out :=
  .next (s.through a (cr g 0x380C) fun t => t.readmit g p.val pass)

/-! ### Commands of the memory controllers -/

def execRetireGo (a : Agent) (k : Stack) (v : Word) (s : State) : Out := .next (s.command a (mr k 0x04) (v ||| 2))
def execTornClear (a : Agent) (k : Stack) (v : Word) (s : State) : Out := .next (s.command a (mr k 0x30) (v ||| 0x80000000))
def execUpdAbort (a : Agent) (k : Stack) (s : State) : Out := .next (s.command a (mr k 0x1014) 1)
def execMcMaxclr (a : Agent) (k : Stack) (s : State) : Out := .next (s.command a (mr k 0x2008) 1)
def execFarKeyLoad (a : Agent) (l : LinkId) (v : Word) (s : State) : Out :=
  .next (s.command a (fr l 0x148) ((v &&& 0x1F) ||| 0x100))
def execFarKeyErase (a : Agent) (l : LinkId) (v : Word) (s : State) : Out :=
  .next (s.command a (fr l 0x148) ((v &&& 0x1F) ||| 0x200))
def execFarRegionEnable (a : Agent) (l : LinkId) (i : Fin 16) (v : Word) (s : State) : Out :=
  .next (s.command a (fr l (0x210 + 0x20 * i.val)) (v ||| 1))

/-! ### Commands of the network block -/

/-- NET_CONN_CMD with its operation field set. -/
def connCmd (v : Word) (op : Nat) : Word := (v &&& 0x3FFF) ||| BitVec.ofNat 32 (65536 * op)

def execConnOpen (a : Agent) (x : IoDie) (v : Word) (s : State) : Out := .next (s.command a (nr x 0x30) (connCmd v 1))
def execConnClose (a : Agent) (x : IoDie) (v : Word) (s : State) : Out := .next (s.command a (nr x 0x30) (connCmd v 2))
def execConnSwitch (a : Agent) (x : IoDie) (v : Word) (s : State) : Out := .next (s.command a (nr x 0x30) (connCmd v 3))
def execNetKeyLoad (a : Agent) (x : IoDie) (v : Word) (s : State) : Out :=
  .next (s.command a (nr x 0xA0) ((v &&& 0x3FFF) ||| 0x4000))
def execNetKeyErase (a : Agent) (x : IoDie) (v : Word) (s : State) : Out :=
  .next (s.command a (nr x 0xA0) ((v &&& 0x3FFF) ||| 0x8000))

/-! ### Commands of a die and of the package -/

/-- BUDGET_WRITE: PWR_DIE_CREDITS of a compute die, or the package's budget registers, by the offset the agent uses. -/
def execBudgetWrite (a : Agent) (off : BitVec 32) (v : Word) (s : State) : Out := .next (s.writeReg a off.toNat v)
def execPllSwitchCmd (a : Agent) (d : Die) (s : State) : Out := .next (s.command a (dr d 0x4004) 1)
def execErrorRingEnable (a : Agent) (d : Die) (v : Word) (s : State) : Out := .next (s.command a (dr d 0x2004) (v ||| 1))
/-- RETRY_PRIMARY: `ok` says whether the flash accepts the record. -/
def execRetryPrimary (a : Agent) (ok : Bool) (s : State) : Out :=
  .next (s.through a (pr 0xE0) fun t => t.retryPrimary ok)
def execKwkDerive (a : Agent) (s : State) : Out := .next (s.command a (pr 0x160) 1)
def execKwkClear (a : Agent) (s : State) : Out := .next (s.command a (pr 0x160) 2)
def execMboxRingEnable (a : Agent) (rx : Bool) (v : Word) (s : State) : Out :=
  .next (s.command a (pr (if rx then 0x208 else 0x228)) (v ||| 1))

end Sys2Proof.Machine
end

