-- ==== Sys2Proof/Machine/IsconMem.lean ====
section
/-! DEFINITION. IsconMem: the loads and stores of a course controller (R207, R209). -/

namespace Sys2Proof.Machine

/-- What an access of the controller reaches (R209): memory at a device physical address, or the register at an offset. -/
inductive Target where
  | mem (a : Nat)
  | reg (off : Nat)
  deriving DecidableEq, Repr

/-- The region check of R203 step 5 for n bytes at an address of the course's map: near memory, far memory, and for a 32-bit
access of a device in whole-package mode the register region. -/
def State.target (s : State) (g : Course) (a n : Nat) : Option Target :=
  match s.physOf (g.val / 8) a with
  | none => none
  | some p =>
    match regionOf p with
    | .near _ => if s.nearOk p n then some (.mem p) else none
    | .far _ => if s.farOk p n then some (.mem p) else none
    | .regs => if n = 4 ∧ !s.parted ∧ p + n ≤ regBase + 0x20000000 then some (.reg (p - regBase)) else none
    | _ => none

/-- aB + sext(OFF), modulo 2^48. -/
def CourseState.effAddr (c : CourseState) (w : BitVec 56) : Addr := c.ra (fldA w 43) + (imm64 w).setWidth 48

/-- An instruction of format M that moves n bytes: the checks of R203 step 5, then `body` on what it reaches. -/
def execM (n : Nat) (body : State → Target → Addr → Act) (g : Course) (w : BitVec 56) (s : State) : State :=
  s.issue g w 0x8 [(42, 32)] false fun t =>
    let a := (t.course g).effAddr w
    match t.target g a.toNat n with
    | none => .fault 0x0504 (some (a.setWidth 64))
    | some x => if a.toNat % n = 0 then body t x a else .fault 0x0503 (some (a.setWidth 64))

/-- A load of n bytes, zero-extended into sD; poisoned data faults. -/
def execLoad (n : Nat) (g : Course) (w : BitVec 56) (s : State) : State :=
  execM n (fun t x a => match x with
    | .mem p =>
      let r := t.readAny p n
      if r.2.1 then .faultIn r.2.2 0x0506 (some (a.setWidth 64))
      else r.2.2.onCourse g fun c => c.ws (fldS w 47) (BitVec.ofNat 64 (leNat r.1))
    | .reg off =>
      let r := t.readReg (.course g) off
      r.2.onCourse g fun c => c.ws (fldS w 47) ((r.1.getD 0).setWidth 64)) g w s

/-- A store of the low n bytes of sD. A write of a register acts once the controller stands at the next instruction. -/
def execStore (n : Nat) (g : Course) (w : BitVec 56) (s : State) : State :=
  execM n (fun t x _ =>
    let v := (t.course g).rs (fldS w 47)
    match x with
    | .mem p => .next (t.writeAny p (leBytes n v.toNat) false false)
    | .reg off => .post t fun u => u.writeReg (.course g) off (v.setWidth 32)) g w s

def execLd (g : Course) (w : BitVec 56) (s : State) : Out := .next (execLoad 8 g w s)
def execLdw (g : Course) (w : BitVec 56) (s : State) : Out := .next (execLoad 4 g w s)
def execSt (g : Course) (w : BitVec 56) (s : State) : Out := .next (execStore 8 g w s)
def execStw (g : Course) (w : BitVec 56) (s : State) : Out := .next (execStore 4 g w s)

end Sys2Proof.Machine
end

