-- ==== Sys2Proof/Machine/Dispatch.lean ====
section
/-! DEFINITION. Dispatch: exec, one arm for each command of spec/opcode_table.json. -/

namespace Sys2Proof.Machine

def exec (i : Instr) (s : State) : Host.Outcome State Fault Refusal :=
  match i with
  | .registerWrite a off v => Sys2Proof.Machine.execRegisterWrite a off v s
  | .regPairLowWrite a off v => Sys2Proof.Machine.execRegPairLowWrite a off v s
  | .regPairHighWrite a off v => Sys2Proof.Machine.execRegPairHighWrite a off v s
  | .regPairLowRead a off => Sys2Proof.Machine.execRegPairLowRead a off s
  | .regPairHighRead a off => Sys2Proof.Machine.execRegPairHighRead a off s
  | .hostBar0Misaligned fn off size write => Sys2Proof.Machine.execHostBar0Misaligned fn off size write s
  | .counterClear a off freeze => Sys2Proof.Machine.execCounterClear a off freeze s
  | .add g w => Sys2Proof.Machine.execAdd g w s
  | .sub g w => Sys2Proof.Machine.execSub g w s
  | .and g w => Sys2Proof.Machine.execAnd g w s
  | .or g w => Sys2Proof.Machine.execOr g w s
  | .xor g w => Sys2Proof.Machine.execXor g w s
  | .shl g w => Sys2Proof.Machine.execShl g w s
  | .shr g w => Sys2Proof.Machine.execShr g w s
  | .sra g w => Sys2Proof.Machine.execSra g w s
  | .mul g w => Sys2Proof.Machine.execMul g w s
  | .mulhu g w => Sys2Proof.Machine.execMulhu g w s
  | .min g w => Sys2Proof.Machine.execMin g w s
  | .max g w => Sys2Proof.Machine.execMax g w s
  | .minu g w => Sys2Proof.Machine.execMinu g w s
  | .maxu g w => Sys2Proof.Machine.execMaxu g w s
  | .addi g w => Sys2Proof.Machine.execAddi g w s
  | .andi g w => Sys2Proof.Machine.execAndi g w s
  | .ori g w => Sys2Proof.Machine.execOri g w s
  | .xori g w => Sys2Proof.Machine.execXori g w s
  | .shli g w => Sys2Proof.Machine.execShli g w s
  | .shri g w => Sys2Proof.Machine.execShri g w s
  | .srai g w => Sys2Proof.Machine.execSrai g w s
  | .li g w => Sys2Proof.Machine.execLi g w s
  | .lui g w => Sys2Proof.Machine.execLui g w s
  | .ld g w => Sys2Proof.Machine.execLd g w s
  | .ldw g w => Sys2Proof.Machine.execLdw g w s
  | .st g w => Sys2Proof.Machine.execSt g w s
  | .stw g w => Sys2Proof.Machine.execStw g w s
  | .amov g w => Sys2Proof.Machine.execAmov g w s
  | .aaddi g w => Sys2Proof.Machine.execAaddi g w s
  | .aadd g w => Sys2Proof.Machine.execAadd g w s
  | .smov g w => Sys2Proof.Machine.execSmov g w s
  | .tallyRead g w => Sys2Proof.Machine.execTallyRead g w s
  | .cmp g w => Sys2Proof.Machine.execCmp g w s
  | .cmpi g w => Sys2Proof.Machine.execCmpi g w s
  | .plog g w => Sys2Proof.Machine.execPlog g w s
  | .jmp g w => Sys2Proof.Machine.execJmp g w s
  | .jr g w => Sys2Proof.Machine.execJr g w s
  | .eret g w => Sys2Proof.Machine.execEret g w s
  | .halt g w => Sys2Proof.Machine.execHalt g w s
  | .brk g w => Sys2Proof.Machine.execBrk g w s
  | .nop g w => Sys2Proof.Machine.execNop g w s
  | .tallyAdd g w => Sys2Proof.Machine.execTallyAdd g w s
  | .tallySet g w => Sys2Proof.Machine.execTallySet g w s
  | .tallyWait g w => Sys2Proof.Machine.execTallyWait g w s
  | .fence g w => Sys2Proof.Machine.execFence g w s
  | .leaveHold g w => Sys2Proof.Machine.execLeaveHold g w s
  | .leaveRel g w => Sys2Proof.Machine.execLeaveRel g w s
  | .lockAcq g w => Sys2Proof.Machine.execLockAcq g w s
  | .lockRel g w => Sys2Proof.Machine.execLockRel g w s
  | .rngBind g w => Sys2Proof.Machine.execRngBind g w s
  | .rngRelease g w => Sys2Proof.Machine.execRngRelease g w s
  | .diagSelftest g w => Sys2Proof.Machine.execDiagSelftest g w s
  | .msnPass g w => Sys2Proof.Machine.execMsnPass g w s
  | .msnTile g w => Sys2Proof.Machine.execMsnTile g w s
  | .msnParityEncode g w => Sys2Proof.Machine.execMsnParityEncode g w s
  | .msnParityDecode g w => Sys2Proof.Machine.execMsnParityDecode g w s
  | .tblBuild g w => Sys2Proof.Machine.execTblBuild g w s
  | .strArm g w => Sys2Proof.Machine.execStrArm g w s
  | .strRearm g w => Sys2Proof.Machine.execStrRearm g w s
  | .strResume g w => Sys2Proof.Machine.execStrResume g w s
  | .walkLoad g w => Sys2Proof.Machine.execWalkLoad g w s
  | .vecAdd g w => Sys2Proof.Machine.execVecAdd g w s
  | .vecMul g w => Sys2Proof.Machine.execVecMul g w s
  | .vecFma g w => Sys2Proof.Machine.execVecFma g w s
  | .vecMax g w => Sys2Proof.Machine.execVecMax g w s
  | .vecMin g w => Sys2Proof.Machine.execVecMin g w s
  | .vecCvt g w => Sys2Proof.Machine.execVecCvt g w s
  | .vecPadd g w => Sys2Proof.Machine.execVecPadd g w s
  | .vecSum g w => Sys2Proof.Machine.execVecSum g w s
  | .vecFn g w => Sys2Proof.Machine.execVecFn g w s
  | .vecQbw16 g w => Sys2Proof.Machine.execVecQbw16 g w s
  | .vecQidx g w => Sys2Proof.Machine.execVecQidx g w s
  | .fwuMm g w => Sys2Proof.Machine.execFwuMm g w s
  | .drnOut g w => Sys2Proof.Machine.execDrnOut g w s
  | .drnPartial g w => Sys2Proof.Machine.execDrnPartial g w s
  | .redSend g w => Sys2Proof.Machine.execRedSend g w s
  | .redAccum g w => Sys2Proof.Machine.execRedAccum g w s
  | .redRing g w => Sys2Proof.Machine.execRedRing g w s
  | .updPass1 g w => Sys2Proof.Machine.execUpdPass1 g w s
  | .updPass2 g w => Sys2Proof.Machine.execUpdPass2 g w s
  | .queueAppend g => Sys2Proof.Machine.execQueueAppend g s
  | .engineInstrStart g q e => Sys2Proof.Machine.execEngineInstrStart g q e s
  | .instrComplete g q => Sys2Proof.Machine.execInstrComplete g q s
  | .completionRecordWrite g => Sys2Proof.Machine.execCompletionRecordWrite g s
  | .waitExpiry g => Sys2Proof.Machine.execWaitExpiry g s
  | .queueWaitExpiry g q => Sys2Proof.Machine.execQueueWaitExpiry g q s
  | .ccrStart a g => Sys2Proof.Machine.execCcrStart a g s
  | .ccrStop a g => Sys2Proof.Machine.execCcrStop a g s
  | .courseReset a g => Sys2Proof.Machine.execCourseReset a g s
  | .ibufInv a g => Sys2Proof.Machine.execIbufInv a g s
  | .queueResume a g mask => Sys2Proof.Machine.execQueueResume a g mask s
  | .queueFlush a g mask => Sys2Proof.Machine.execQueueFlush a g mask s
  | .tallyAddReg a g v => Sys2Proof.Machine.execTallyAddReg a g v s
  | .tallyPoisonClear a g k v => Sys2Proof.Machine.execTallyPoisonClear a g k v s
  | .cqEnable a g v => Sys2Proof.Machine.execCqEnable a g v s
  | .tallyAddRemote src dst => Sys2Proof.Machine.execTallyAddRemote src dst s
  | .lockstepMismatch g persists => Sys2Proof.Machine.execLockstepMismatch g persists s
  | .passBlockEnter g e => Sys2Proof.Machine.execPassBlockEnter g e s
  | .creditEarlyReturn g => Sys2Proof.Machine.execCreditEarlyReturn g s
  | .accumulationStep g j => Sys2Proof.Machine.execAccumulationStep g j s
  | .residueCheckVisit g slot upset => Sys2Proof.Machine.execResidueCheckVisit g slot upset s
  | .replayBegin g => Sys2Proof.Machine.execReplayBegin g s
  | .replayEnd g => Sys2Proof.Machine.execReplayEnd g s
  | .tblRunWritten g bad => Sys2Proof.Machine.execTblRunWritten g bad s
  | .slotSwap g j slot => Sys2Proof.Machine.execSlotSwap g j slot s
  | .drainRowRead g j upset => Sys2Proof.Machine.execDrainRowRead g j upset s
  | .drainComplete g => Sys2Proof.Machine.execDrainComplete g s
  | .fwuAccept g => Sys2Proof.Machine.execFwuAccept g s
  | .fwuMmRun d fails => Sys2Proof.Machine.execFwuMmRun d fails s
  | .transferForm g src => Sys2Proof.Machine.execTransferForm g src s
  | .transferComplete g n => Sys2Proof.Machine.execTransferComplete g n s
  | .ringCredit g n => Sys2Proof.Machine.execRingCredit g n s
  | .strCmdResume a g n => Sys2Proof.Machine.execStrCmdResume a g n s
  | .strCmdRelease a g n => Sys2Proof.Machine.execStrCmdRelease a g n s
  | .tlbInvalidate a g v => Sys2Proof.Machine.execTlbInvalidate a g v s
  | .ptBaseWrite a g v => Sys2Proof.Machine.execPtBaseWrite a g v s
  | .bwSplitWrite a g v => Sys2Proof.Machine.execBwSplitWrite a g v s
  | .outstandingWrite a g v => Sys2Proof.Machine.execOutstandingWrite a g v s
  | .stallLimitExpiry g w => Sys2Proof.Machine.execStallLimitExpiry g w s
  | .deadlockProbeHop g => Sys2Proof.Machine.execDeadlockProbeHop g s
  | .bamongBlockDecoded g tbl => Sys2Proof.Machine.execBamongBlockDecoded g tbl s
  | .memAccess k line data e parity => Sys2Proof.Machine.execMemAccess k line data e parity s
  | .patrolVisit k line e sweep => Sys2Proof.Machine.execPatrolVisit k line e sweep s
  | .retireGo a k v => Sys2Proof.Machine.execRetireGo a k v s
  | .retireMigrationDone k => Sys2Proof.Machine.execRetireMigrationDone k s
  | .raRequestArrive k => Sys2Proof.Machine.execRaRequestArrive k s
  | .adderArbPhase k => Sys2Proof.Machine.execAdderArbPhase k s
  | .raAdd k port => Sys2Proof.Machine.execRaAdd k port s
  | .raOutcomeArrive g => Sys2Proof.Machine.execRaOutcomeArrive g s
  | .redNoticeArrive g => Sys2Proof.Machine.execRedNoticeArrive g s
  | .lockRequestArrive k => Sys2Proof.Machine.execLockRequestArrive k s
  | .lockGrant k => Sys2Proof.Machine.execLockGrant k s
  | .lockWaitTimeout k g => Sys2Proof.Machine.execLockWaitTimeout k g s
  | .lockLeaseExpiry k ix lease => Sys2Proof.Machine.execLockLeaseExpiry k ix lease s
  | .lockRelArrive k => Sys2Proof.Machine.execLockRelArrive k s
  | .lockRenewalSend g => Sys2Proof.Machine.execLockRenewalSend g s
  | .lockRenewalArrive k => Sys2Proof.Machine.execLockRenewalArrive k s
  | .lockBreakNotice k => Sys2Proof.Machine.execLockBreakNotice k s
  | .lockResetSweep k => Sys2Proof.Machine.execLockResetSweep k s
  | .tornClear a k v => Sys2Proof.Machine.execTornClear a k v s
  | .farAccess l line data prot bad => Sys2Proof.Machine.execFarAccess l line data prot bad s
  | .cxlLaneFail l lane => Sys2Proof.Machine.execCxlLaneFail l lane s
  | .cxlLinkLoss l => Sys2Proof.Machine.execCxlLinkLoss l s
  | .farKeyLoad a l v => Sys2Proof.Machine.execFarKeyLoad a l v s
  | .farKeyErase a l v => Sys2Proof.Machine.execFarKeyErase a l v s
  | .farRegionEnable a l ix v => Sys2Proof.Machine.execFarRegionEnable a l ix v s
  | .updSlicePartial k => Sys2Proof.Machine.execUpdSlicePartial k s
  | .updRecord k => Sys2Proof.Machine.execUpdRecord k s
  | .updAbort a k => Sys2Proof.Machine.execUpdAbort a k s
  | .raBlocks x => Sys2Proof.Machine.execRaBlocks x s
  | .raOutcome x => Sys2Proof.Machine.execRaOutcome x s
  | .ringReady x => Sys2Proof.Machine.execRingReady x s
  | .ringPart x => Sys2Proof.Machine.execRingPart x s
  | .ringCopy x => Sys2Proof.Machine.execRingCopy x s
  | .priv x => Sys2Proof.Machine.execPriv x s
  | .ringWaitExpiry g => Sys2Proof.Machine.execRingWaitExpiry g s
  | .maxclr a g => Sys2Proof.Machine.execMaxclr a g s
  | .mcMaxclr a k => Sys2Proof.Machine.execMcMaxclr a k s
  | .portLaneFail p lane => Sys2Proof.Machine.execPortLaneFail p lane s
  | .roceFrameReceive p dst src tag packet fcs => Sys2Proof.Machine.execRoceFrameReceive p dst src tag packet fcs s
  | .plinthFrame p frame fcs => Sys2Proof.Machine.execPlinthFrame p frame fcs s
  | .lctDataReceive p frame fcs => Sys2Proof.Machine.execLctDataReceive p frame fcs s
  | .lctSackReceive p frame fcs => Sys2Proof.Machine.execLctSackReceive p frame fcs s
  | .lctNackReceive p frame fcs => Sys2Proof.Machine.execLctNackReceive p frame fcs s
  | .lctProbeReceive p frame fcs => Sys2Proof.Machine.execLctProbeReceive p frame fcs s
  | .lctProbeReplyReceive p frame fcs => Sys2Proof.Machine.execLctProbeReplyReceive p frame fcs s
  | .lctAckDelayExpiry x c => Sys2Proof.Machine.execLctAckDelayExpiry x c s
  | .lctRtoExpiry x c e => Sys2Proof.Machine.execLctRtoExpiry x c e s
  | .lctIdleExpiry x c => Sys2Proof.Machine.execLctIdleExpiry x c s
  | .lctSegmentSend x c upset => Sys2Proof.Machine.execLctSegmentSend x c upset s
  | .connOpen a x v => Sys2Proof.Machine.execConnOpen a x v s
  | .connClose a x v => Sys2Proof.Machine.execConnClose a x v s
  | .connSwitch a x v => Sys2Proof.Machine.execConnSwitch a x v s
  | .netKeyLoad a x v => Sys2Proof.Machine.execNetKeyLoad a x v s
  | .netKeyErase a x v => Sys2Proof.Machine.execNetKeyErase a x v s
  | .arbitrationPhase d => Sys2Proof.Machine.execArbitrationPhase d s
  | .budgetWrite a off v => Sys2Proof.Machine.execBudgetWrite a off v s
  | .thermalReading d sensor celsius => Sys2Proof.Machine.execThermalReading d sensor celsius s
  | .pkgCapChange level => Sys2Proof.Machine.execPkgCapChange level s
  | .powerCapApply d => Sys2Proof.Machine.execPowerCapApply d s
  | .pllLost d pllB => Sys2Proof.Machine.execPllLost d pllB s
  | .pllRelockEnd d pllB ok => Sys2Proof.Machine.execPllRelockEnd d pllB ok s
  | .pllSwitchCmd a d => Sys2Proof.Machine.execPllSwitchCmd a d s
  | .refclkLoss => Sys2Proof.Machine.execRefclkLoss s
  | .refclkRestored => Sys2Proof.Machine.execRefclkRestored s
  | .selftestPeriodic t => Sys2Proof.Machine.execSelftestPeriodic t s
  | .selftestComplete t f => Sys2Proof.Machine.execSelftestComplete t f s
  | .courseFence a g => Sys2Proof.Machine.execCourseFence a g s
  | .arrayReadmit a g p pass => Sys2Proof.Machine.execArrayReadmit a g p pass s
  | .sramScrubVisit g word e scrub => Sys2Proof.Machine.execSramScrubVisit g word e scrub s
  | .mortarLaneFail d edge m lane => Sys2Proof.Machine.execMortarLaneFail d edge m lane s
  | .flitCrcFail d edge => Sys2Proof.Machine.execFlitCrcFail d edge s
  | .errorReport d => Sys2Proof.Machine.execErrorReport d s
  | .errorRingWrite d => Sys2Proof.Machine.execErrorRingWrite d s
  | .errorRingEnable a d v => Sys2Proof.Machine.execErrorRingEnable a d v s
  | .overflowFlush d => Sys2Proof.Machine.execOverflowFlush d s
  | .packageReset => Sys2Proof.Machine.execPackageReset s
  | .bootStart env => Sys2Proof.Machine.execBootStart env s
  | .bootStepTimeout => Sys2Proof.Machine.execBootStepTimeout s
  | .pcieRetrainTimer width => Sys2Proof.Machine.execPcieRetrainTimer width s
  | .failureRecord ok => Sys2Proof.Machine.execFailureRecord ok s
  | .retryPrimary a ok => Sys2Proof.Machine.execRetryPrimary a ok s
  | .perst low link => Sys2Proof.Machine.execPerst low link s
  | .flr fn => Sys2Proof.Machine.execFlr fn s
  | .hostBar2Access fn off len data => Sys2Proof.Machine.execHostBar2Access fn off len data s
  | .doorbellWrite fn off v => Sys2Proof.Machine.execDoorbellWrite fn off v s
  | .hostReadCompletion g n data => Sys2Proof.Machine.execHostReadCompletion g n data s
  | .hostCplTimeout g n => Sys2Proof.Machine.execHostCplTimeout g n s
  | .kwkDerive a => Sys2Proof.Machine.execKwkDerive a s
  | .kwkDeriveDone => Sys2Proof.Machine.execKwkDeriveDone s
  | .kwkClear a => Sys2Proof.Machine.execKwkClear a s
  | .mboxRingEnable a rx v => Sys2Proof.Machine.execMboxRingEnable a rx v s
  | .mboxTxSend => Sys2Proof.Machine.execMboxTxSend s
  | .thermtripAnalog d => Sys2Proof.Machine.execThermtripAnalog d s
  | .localAckTimeout x q => Sys2Proof.Machine.execLocalAckTimeout x q s
  | .unplannedPowerLoss => Sys2Proof.Machine.execUnplannedPowerLoss s
  | .comparatorRelease => Sys2Proof.Machine.execComparatorRelease s
  | .configurationSpaceWrite fn c => Sys2Proof.Machine.execConfigurationSpaceWrite fn c s
  | .msixTableWrite fn v addr data masked => Sys2Proof.Machine.execMsixTableWrite fn v addr data masked s
  | .pcieLaneFailure width => Sys2Proof.Machine.execPcieLaneFailure width s

end Sys2Proof.Machine
end

