-- ==== Sys2Proof/Safety.lean ====
section
/-! DEFINITION. Safety: what counts as a safe run of the block, and the canonical form that every state keeps. -/

namespace Sys2Proof.Machine

/-- A step that goes on: neither a fault nor a refusal. -/
def StepsOn (s : State) : Prop := ∃ t, step s = .next t

/-- The memory of the device and its register file are in canonical form: keys strictly rising, and no entry equal to what
its key reads as while unlisted; so that equal memories are equal data. -/
def State.canon (s : State) : Bool :=
  SMap.wf memDefault s.mem && SMap.wf (fun _ => false) s.memPoison &&
  SMap.wf (fun o => BitVec.ofNat 32 (regReset o)) s.regs && SMap.wf (fun o => BitVec.ofNat 64 (regReset o)) s.wide &&
  SMap.wf (fun _ => 0) s.latch

end Sys2Proof.Machine
end

