-- ==== Sys2Proof/Certificates/Slice0/Obligations.lean ====
section
/-! DEFINITION. Obligations: the statements for the provers. The first part gives the words that the statements share; each
statement's docstring names the rules it follows, or says that it is derived. Where a statement says that a command leaves the
state as it is (`exec c s = .next s`), that a command which may not act has no effect is the model's choice (log entry 29). -/

open Sys2Proof

namespace Sys2Proof.Machine

/-- Command `c` answers a next state from `s`, and `p` holds of it. -/
def Completes (c : Instr) (s : State) (p : State → Prop) : Prop := ∃ t, exec c s = .next t ∧ p t

/-- Course g issues the word w (R198 to R203): its controller runs and no wait or stall holds it, the fetch at PC finds
unpoisoned near memory and a word whose OP is not reserved, the word is legal for an instruction with the bits `zero` marked 0, and
its guard holds. The word is the command's, which gives the one at PC (log entry 14). -/
structure Issues (s : State) (g : Course) (w : BitVec 56) (zero : List (Nat × Nat)) (v2only : Bool) : Prop where
  running : s.issuing g = true
  fetched : (s.fetch g).2 = true
  assigned : (s.nextInstr g).isSome = true
  legal : s.illegal g w zero v2only = false
  taken : (s.course g).guard w = true

/-- From s to t nothing has changed but course g and CCR_ISSUED, which counts one instruction (R243). -/
def OnlyCourse (s t : State) (g : Course) : Prop :=
  (∀ h, h ≠ g → t.course h = s.course h) ∧ t.wide = (s.issued g).wide ∧ { t with courses := s.courses, wide := s.wide } = s

/-- sD is v, or nothing where D is 0 (R200), the controller is at `pc`, and nothing else has changed but the instruction
buffer and CCR_ISSUED. -/
def SetsS (s t : State) (g : Course) (d : Fin 32) (v : DWord) (pc : Addr) : Prop :=
  OnlyCourse s t g ∧ (t.course g).rs d = (if d = 0 then 0 else v) ∧
    (∀ j, j ≠ d → (t.course g).rs j = (s.course g).rs j) ∧ (t.course g).pc = pc ∧
    { t.course g with sregs := (s.course g).sregs, pc := (s.course g).pc, ibuf := (s.course g).ibuf } = s.course g

/-- aD is v, and nothing else has changed but the pc, the instruction buffer and CCR_ISSUED. -/
def SetsA (s t : State) (g : Course) (d : Fin 16) (v : Addr) (pc : Addr) : Prop :=
  OnlyCourse s t g ∧ (t.course g).ra d = v ∧ (∀ j, j ≠ d → (t.course g).ra j = (s.course g).ra j) ∧ (t.course g).pc = pc ∧
    { t.course g with aregs := (s.course g).aregs, pc := (s.course g).pc, ibuf := (s.course g).ibuf } = s.course g

/-- pD is v, or nothing where D is 0 (R200), and nothing else has changed but the pc, the instruction buffer and
CCR_ISSUED. -/
def SetsP (s t : State) (g : Course) (d : Fin 8) (v : Bool) (pc : Addr) : Prop :=
  OnlyCourse s t g ∧ (t.course g).rp d = (if d = 0 then true else v) ∧
    (∀ j, j ≠ d → (t.course g).rp j = (s.course g).rp j) ∧ (t.course g).pc = pc ∧
    { t.course g with pregs := (s.course g).pregs, pc := (s.course g).pc, ibuf := (s.course g).ibuf } = s.course g

/-- The address after the instruction at PC. -/
def State.after (s : State) (g : Course) : Addr := (s.course g).pc + 8

/-- The command takes the precise exception `code` with CCR_EINFO `einfo` (R237), and has no effect of its own. -/
def Faults (c : Instr) (s : State) (g : Course) (code : BitVec 16) (sub : BitVec 4) (einfo : DWord) : Prop :=
  exec c s = .next ((s.fetch g).1.takeException g code sub einfo)

end Sys2Proof.Machine

open Sys2Proof.Machine

/-! ### The block -/

/-- The step takes the command at the front of the queue and runs it on the state with the queue's rest (the model's step). -/
def Sys2Proof.Machine.stepRunsFront : Prop :=
  ∀ (s : State) (c : Instr) (rest : List Instr), s.pending = c :: rest → step s = exec c { s with pending := rest }

/-- With no command waiting the block idles: the model's choice, log entry 10. -/
def Sys2Proof.Machine.emptyQueueIdles : Prop := ∀ s : State, s.pending = [] → step s = .next s

/-- The step: the command at the front of the queue runs on the state with the queue's rest, and with none the block idles (the model's
own; log entry 10). -/
def Obligations.StepTakesFrontCommand : Prop := stepRunsFront ∧ emptyQueueIdles


/-- No command touches the queue of waiting commands (derived: the queue is the model's own). -/
def Sys2Proof.Machine.commandsKeepQueue : Prop := ∀ (c : Instr) (s t : State), exec c s = .next t → t.pending = s.pending

/-- Every command is answered with a next state: none of them stops the block (derived from the table: the manual gives every
row an effect). -/
def Sys2Proof.Machine.commandsAnswered : Prop := ∀ (c : Instr) (s : State), ∃ t, exec c s = .next t

/-- Every command is answered with a next state whose queue is the same (derived). -/
def Obligations.CommandsAreAnswered : Prop := commandsKeepQueue ∧ commandsAnswered


/-- Package reset leaves every map of the state in canonical form (derived; the form is the model's). -/
def Sys2Proof.Machine.resetCanonical : Prop := State.reset.canon = true

/-- Every step keeps the canonical form of the memory, its poison marks, the registers and their latches (derived; the form is
the model's, and makes equal memories equal data). -/
def Obligations.StepsKeepCanonicalForm : Prop := ∀ s t : State, s.canon = true → step s = .next t → t.canon = true

/-- What package reset leaves of a course (R198, R199, R200, R220): HALTED, every s, a and p register 0 but p0, which reads 1,
every tally 0, an empty instruction buffer, PC 0 and empty queues. -/
def Sys2Proof.Machine.coursesAtReset : Prop :=
  ∀ g : Course, (State.reset.course g).ctl = .halted ∧ (∀ i, (State.reset.course g).rs i = 0) ∧
    (∀ i, (State.reset.course g).ra i = 0) ∧ (∀ i, (State.reset.course g).rp i = decide (i = 0)) ∧
    (∀ t, (State.reset.course g).tallyVal t = 0 ∧ (State.reset.course g).tallyPoi t = false) ∧
    (State.reset.course g).ibuf = [] ∧ (State.reset.course g).pc = 0 ∧
    (∀ q, ((State.reset.course g).queue q).entries = [] ∧ ((State.reset.course g).queue q).started = [])

/-- The state after package reset: canonical maps, and courses as R198 to R200 and R220 have them. -/
def Obligations.ResetState : Prop := resetCanonical ∧ coursesAtReset


/-! ### Registers of a controller, and the instructions that only compute (R200, R206 to R208) -/

/-- s0 reads 0 and p0 reads 1; writes to them are discarded, and another register reads what was written to it, the others
staying as they were (R200). -/
def Obligations.ControllerRegisters : Prop :=
  ∀ c : CourseState, c.rs 0 = 0 ∧ c.rp 0 = true ∧ (∀ v, c.ws 0 v = c) ∧ (∀ v, c.wp 0 v = c) ∧
    (∀ i v, i ≠ 0 → (c.ws i v).rs i = v ∧ ∀ j, j ≠ i → (c.ws i v).rs j = c.rs j) ∧
    (∀ i v, (c.wa i v).ra i = v ∧ ∀ j, j ≠ i → (c.wa i v).ra j = c.ra j) ∧
    (∀ i v, i ≠ 0 → (c.wp i v).rp i = v ∧ ∀ j, j ≠ i → (c.wp i v).rp j = c.rp j)

/-- The instructions of format R (R207): sD := sA op sB, PC moves on by 8, and nothing else changes but the instruction
buffer and CCR_ISSUED. -/
def Obligations.RegisterFormResults : Prop :=
  ∀ (s : State) (g : Course) (w : BitVec 56), Issues s g w [(36, 0)] false →
    let a := (s.course g).rs (fldS w 42)
    let b := (s.course g).rs (fldS w 37)
    let gives (c : Instr) (v : DWord) : Prop := Completes c s fun t => SetsS s t g (fldS w 47) v (s.after g)
    gives (.add g w) (a + b) ∧ gives (.sub g w) (a - b) ∧ gives (.and g w) (a &&& b) ∧ gives (.or g w) (a ||| b) ∧
    gives (.xor g w) (a ^^^ b) ∧ gives (.shl g w) (a <<< (b.toNat % 64)) ∧ gives (.shr g w) (a >>> (b.toNat % 64)) ∧
    gives (.sra g w) (a.sshiftRight (b.toNat % 64)) ∧ gives (.mul g w) (BitVec.ofNat 64 (a.toNat * b.toNat)) ∧
    gives (.mulhu g w) (BitVec.ofNat 64 (a.toNat * b.toNat / 2 ^ 64)) ∧
    gives (.min g w) (if a.toInt ≤ b.toInt then a else b) ∧ gives (.max g w) (if a.toInt ≤ b.toInt then b else a) ∧
    gives (.minu g w) (if a.toNat ≤ b.toNat then a else b) ∧ gives (.maxu g w) (if a.toNat ≤ b.toNat then b else a)

/-- The instructions of format I (R207), with the fields that an instruction does not use 0 (R203 step 3). -/
def Obligations.ImmediateFormResults : Prop :=
  ∀ (s : State) (g : Course) (w : BitVec 56), Issues s g w [(41, 32)] false →
    let a := (s.course g).rs (fldS w 42)
    let i : DWord := BitVec.ofInt 64 (sext 32 (fld w 31 0))
    let n := fld w 5 0
    let gives (c : Instr) (v : DWord) : Prop := Completes c s fun t => SetsS s t g (fldS w 47) v (s.after g)
    gives (.addi g w) (a + i) ∧ gives (.andi g w) (a &&& i) ∧ gives (.ori g w) (a ||| i) ∧ gives (.xori g w) (a ^^^ i) ∧
    (fld w 31 6 = 0 → gives (.shli g w) (a <<< n) ∧ gives (.shri g w) (a >>> n) ∧ gives (.srai g w) (a.sshiftRight n)) ∧
    (fld w 46 42 = 0 → gives (.li g w) i) ∧
    gives (.lui g w) (BitVec.ofNat 64 (fld w 31 0 * 2 ^ 32) ||| (a &&& 0xFFFFFFFF#64))

/-- A field that such an instruction does not use and that is not 0 faults ISCON_OPERAND, CCR_EINFO holding the value of the field
(R203 step 3, R237); where there are two, that of the higher one, log entry 103. -/
def Sys2Proof.Machine.unusedFields : Prop :=
  ∀ (s : State) (g : Course) (w : BitVec 56),
    let faults (c : Instr) (n : Nat) : Prop := Faults c s g 0x0502 0x8 (BitVec.ofNat 64 n)
    (Issues s g w [(41, 32)] false →
      (fld w 31 6 ≠ 0 → faults (.shli g w) (fld w 31 6) ∧ faults (.shri g w) (fld w 31 6) ∧ faults (.srai g w) (fld w 31 6)) ∧
      (fld w 46 42 ≠ 0 → faults (.li g w) (fld w 46 42) ∧ faults (.jmp g w) (fld w 46 42)) ∧
      (fld w 31 0 ≠ 0 → faults (.jr g w) (fld w 31 0))) ∧
    (Issues s g w [(47, 47), (37, 32)] false →
      (fld w 46 43 ≠ 0 → faults (.amov g w) (fld w 46 43)) ∧
      (fld w 46 43 = 0 → fld w 31 0 ≠ 0 → faults (.amov g w) (fld w 31 0)) ∧
      (fld w 42 38 ≠ 0 → faults (.aaddi g w) (fld w 42 38)) ∧ (fld w 31 0 ≠ 0 → faults (.aadd g w) (fld w 31 0)) ∧
      (fld w 51 48 ≠ 0 → faults (.smov g w) (fld w 51 48)) ∧
      (fld w 51 48 = 0 → fld w 31 0 ≠ 0 → faults (.smov g w) (fld w 31 0))) ∧
    (Issues s g w [(35, 32)] false →
      (fld w 31 0 ≠ 0 → faults (.cmp g w) (fld w 31 0)) ∧ (fld w 40 36 ≠ 0 → faults (.cmpi g w) (fld w 40 36)))

/-- The instructions of format A (R207). Sums of addresses are modulo 2^48. -/
def Obligations.AddressFormResults : Prop :=
  ∀ (s : State) (g : Course) (w : BitVec 56), Issues s g w [(47, 47), (37, 32)] false →
    let c := s.course g
    let i := sext 32 (fld w 31 0)
    (fld w 46 43 = 0 → fld w 31 0 = 0 → Completes (.amov g w) s fun t =>
      SetsA s t g (fldA w 48) ((c.rs (fldS w 38)).setWidth 48) (s.after g)) ∧
    (fld w 42 38 = 0 → Completes (.aaddi g w) s fun t =>
      SetsA s t g (fldA w 48) (BitVec.ofInt 48 ((c.ra (fldA w 43)).toNat + i)) (s.after g)) ∧
    (fld w 31 0 = 0 → Completes (.aadd g w) s fun t =>
      SetsA s t g (fldA w 48) (BitVec.ofNat 48 ((c.ra (fldA w 43)).toNat + (c.rs (fldS w 38)).toNat)) (s.after g)) ∧
    (fld w 51 48 = 0 → fld w 31 0 = 0 → Completes (.smov g w) s fun t =>
      SetsS s t g (fldS w 38) (BitVec.ofNat 64 (c.ra (fldA w 43)).toNat) (s.after g))

/-- Comparisons and logic of predicates: what each value of CC and FN does (R207, R208); a reserved value faults ISCON_OPERAND
with that value in CCR_EINFO (R237), unless an unused field does. -/
def Obligations.PredicateResults : Prop :=
  ∀ (s : State) (g : Course) (w : BitVec 56),
    let c := s.course g
    let compares (i : Instr) (a b : DWord) : Prop := ∀ v : Bool,
      (match fld w 48 46 with
        | 0 => v = decide (a = b)
        | 1 => v = decide (a ≠ b)
        | 2 => v = decide (a.toInt < b.toInt)
        | 3 => v = decide (b.toInt ≤ a.toInt)
        | 4 => v = decide (a.toNat < b.toNat)
        | 5 => v = decide (b.toNat ≤ a.toNat)
        | _ => False) → Completes i s fun t => SetsP s t g (fldP w 49) v (s.after g)
    let faults (i : Instr) : Prop := Faults i s g 0x0502 0x8 (BitVec.ofNat 64 (fld w 48 46))
    (Issues s g w [(35, 32)] false →
      (fld w 31 0 = 0 → compares (.cmp g w) (c.rs (fldS w 41)) (c.rs (fldS w 36))) ∧
      (fld w 40 36 = 0 → compares (.cmpi g w) (c.rs (fldS w 41)) (BitVec.ofInt 64 (sext 32 (fld w 31 0)))) ∧
      (6 ≤ fld w 48 46 → (fld w 31 0 = 0 → faults (.cmp g w)) ∧ (fld w 40 36 = 0 → faults (.cmpi g w)))) ∧
    (Issues s g w [(39, 0)] false →
      (4 ≤ fld w 48 46 → faults (.plog g w)) ∧
      let a := c.rp (fldP w 43)
      let b := c.rp (fldP w 40)
      let gives (v : Bool) : Prop := Completes (.plog g w) s fun t => SetsP s t g (fldP w 49) v (s.after g)
      (fld w 48 46 = 0 → gives (a && b)) ∧ (fld w 48 46 = 1 → gives (a || b)) ∧ (fld w 48 46 = 2 → gives (xor a b)) ∧
      (fld w 48 46 = 3 → gives (a && !b)))

/-- Jumps, eret, halt and nop (R201, R207, R238): the link register, PC, IN_TRAP and the controller's state, and nothing else
but the instruction buffer and CCR_ISSUED. -/
def Obligations.JumpAndControlResults : Prop :=
  ∀ (s : State) (g : Course) (w : BitVec 56),
    let c := s.course g
    let link : DWord := BitVec.ofNat 64 (s.after g).toNat
    let target : Addr := (c.rs (fldS w 42)).setWidth 48
    (Issues s g w [(41, 32)] false →
      (fld w 46 42 = 0 → Completes (.jmp g w) s fun t =>
        SetsS s t g (fldS w 47) link (BitVec.ofInt 48 (c.pc.toNat + 8 * sext 32 (fld w 31 0)))) ∧
      (fld w 31 0 = 0 → target.toNat % 8 = 0 → Completes (.jr g w) s fun t => SetsS s t g (fldS w 47) link target) ∧
      (fld w 31 0 = 0 → target.toNat % 8 ≠ 0 → Faults (.jr g w) s g 0x0503 0x8 (target.setWidth 64))) ∧
    (Issues s g w [(51, 0)] false →
      (Completes (.eret g w) s fun t => OnlyCourse s t g ∧ ∃ b, t.course g =
        { c with inTrap := false, pc := (s.reg64 (cr g 0x20)).setWidth 48, ibuf := b }) ∧
      (Completes (.halt g w) s fun t => OnlyCourse s t g ∧ ∃ b, t.course g =
        { c with ctl := .halted, pc := s.after g, ibuf := b }) ∧
      (Completes (.nop g w) s fun t => OnlyCourse s t g ∧ ∃ b, t.course g = { c with pc := s.after g, ibuf := b }))

/-! ### How a course issues (R198, R199, R202, R203, R237) -/

/-- The instructions of a course: the course, the word, the bits that the layout marks 0, whether Iscon v1 lacks the
instruction, and SUB of its precise faults: the queue of an engine instruction, else 0x8 (R583). -/
def Sys2Proof.Machine.wordOf : Instr → Option (Course × BitVec 56 × List (Nat × Nat) × Bool × BitVec 4)
  | .add g w | .sub g w | .and g w | .or g w | .xor g w | .shl g w | .shr g w | .sra g w | .mul g w | .mulhu g w | .min g w
  | .max g w | .minu g w | .maxu g w => some (g, w, [(36, 0)], false, 0x8)
  | .addi g w | .andi g w | .ori g w | .xori g w | .shli g w | .shri g w | .srai g w | .li g w | .lui g w | .jmp g w
  | .jr g w => some (g, w, [(41, 32)], false, 0x8)
  | .ld g w | .ldw g w | .st g w | .stw g w => some (g, w, [(42, 32)], false, 0x8)
  | .amov g w | .aaddi g w | .aadd g w | .smov g w => some (g, w, [(47, 47), (37, 32)], false, 0x8)
  | .tallyRead g w => some (g, w, [(38, 0)], false, 0x8)
  | .cmp g w | .cmpi g w => some (g, w, [(35, 32)], false, 0x8)
  | .plog g w => some (g, w, [(39, 0)], false, 0x8)
  | .eret g w | .halt g w | .brk g w | .nop g w => some (g, w, [(51, 0)], false, 0x8)
  | .tallyAdd g w | .tallySet g w => some (g, w, [], false, 0x8)
  | .tallyWait g w => some (g, w, [(24, 0)], false, 0x8)
  | .fence g w | .diagSelftest g w => some (g, w, [(33, 0)], false, 0x8)
  | .leaveHold g w => some (g, w, [(36, 0)], true, 0x8)
  | .leaveRel g w => some (g, w, [(51, 0)], true, 0x8)
  | .lockAcq g w => some (g, w, [(32, 0)], false, 0x8)
  | .lockRel g w => some (g, w, [(51, 47), (42, 0)], false, 0x8)
  | .rngBind g w | .rngRelease g w => some (g, w, [(28, 0)], false, 0x8)
  | .msnPass g w => some (g, w, [], false, 0)
  | .msnTile g w => some (g, w, [(20, 0)], false, 0)
  | .msnParityEncode g w | .msnParityDecode g w => some (g, w, [(5, 0)], true, 0)
  | .tblBuild g w => some (g, w, [(6, 0)], false, 1)
  | .strArm g w => some (g, w, [(31, 0)], false, 2)
  | .strRearm g w => some (g, w, [(32, 0)], false, 2)
  | .strResume g w => some (g, w, [(36, 0)], true, 2)
  | .walkLoad g w => some (g, w, [(27, 0)], true, 2)
  | .vecAdd g w | .vecMul g w | .vecMax g w | .vecMin g w => some (g, w, [(29, 26), (20, 0)], false, 3)
  | .vecFma g w => some (g, w, [(20, 0)], false, 3)
  | .vecCvt g w => some (g, w, [(27, 26), (15, 0)], false, 3)
  | .vecPadd g w => some (g, w, [(1, 0)], false, 3)
  | .vecSum g w => some (g, w, [(22, 0)], false, 3)
  | .vecFn g w => some (g, w, [(24, 0)], false, 3)
  | .vecQbw16 g w => some (g, w, [(13, 0)], false, 3)
  | .vecQidx g w => some (g, w, [(8, 0)], false, 3)
  | .fwuMm g w => some (g, w, [(13, 0)], false, 4)
  | .drnOut g w => some (g, w, [(4, 0)], false, 5)
  | .drnPartial g w => some (g, w, [(31, 19), (9, 0)], false, 5)
  | .redSend g w | .redAccum g w => some (g, w, [(27, 0)], false, 6)
  | .redRing g w => some (g, w, [(30, 0)], true, 6)
  | .updPass1 g w | .updPass2 g w => some (g, w, [(29, 0)], true, 7)
  | _ => none

/-- An instruction whose guard is false has no effect but that the controller goes on after it, and CCR_ISSUED counts it
(R202; the count is log entry 15). -/
def Sys2Proof.Machine.falseGuard : Prop :=
  ∀ (i : Instr) (s : State) (g : Course) (w : BitVec 56) (z : List (Nat × Nat)) (v2 : Bool) (sub : BitVec 4),
    wordOf i = some (g, w, z, v2, sub) → s.issuing g = true → (s.fetch g).2 = true → (s.nextInstr g).isSome = true →
    s.illegal g w z v2 = false → (s.course g).guard w = false →
    Completes i s fun t => OnlyCourse s t g ∧ ∃ b, t.course g = { s.course g with pc := s.after g, ibuf := b }

/-- A word at PC whose OP is reserved, and a word with GN set and GP 0, with a bit set that its layout marks 0, or that Iscon v1
lacks while the course runs v1 code, faults ISCON_ILLEGAL whatever its guard (R203 step 1, R205, R241); CCR_EINFO is free, log entry
11. A fetch that fails faults ISCON_FETCH with the address (R199). -/
def Sys2Proof.Machine.decodeFaults : Prop :=
  ∀ (i : Instr) (s : State) (g : Course) (w : BitVec 56) (z : List (Nat × Nat)) (v2 : Bool) (sub : BitVec 4),
    wordOf i = some (g, w, z, v2, sub) → s.issuing g = true →
    let u := (s.fetch g).1
    ((s.fetch g).2 = true → s.nextInstr g = none → exec i s = .next (u.used.takeException g 0x0501 (s.opSub g) u.fresh)) ∧
    ((s.fetch g).2 = true → (s.nextInstr g).isSome = true →
      ((w.getLsbD 55 = true ∧ fld w 54 52 = 0) ∨ (∃ f ∈ z, fld w f.1 f.2 ≠ 0) ∨ (v2 = true ∧ (s.course g).v1 = true)) →
      exec i s = .next (u.used.takeException g 0x0501 sub u.fresh)) ∧
    ((s.fetch g).2 = false → exec i s = .next (u.takeException g 0x0505 0x8 ((s.course g).pc.setWidth 64)))

/-- The fetch at PC succeeds, without a hit in the buffer, exactly where the 8 bytes are backed near memory and their line holds
no poisoned data; it then buffers the 256-byte line of PC. What a course fetches is the word at PC in memory, or the one in its
buffer, which does not see later writes of memory (R199). -/
def Sys2Proof.Machine.fetchReads : Prop :=
  ∀ (s : State) (g : Course) (a : Nat), s.physOf (g.val / 8) (s.course g).pc.toNat = some a →
    ((s.course g).ibuf = [] →
      ((s.fetch g).2 = true ↔ s.nearOk a 8 = true ∧
        s.dirty (a - a % 256 + 64 * ((s.course g).pc.toNat / 64 % 4)) 64 = false) ∧
      (s.nearOk a 8 = true → ∃ m, SMap.find ((s.fetch g).1.course g).ibuf ((s.course g).pc.toNat / 256 % 256) =
        some ⟨(s.course g).pc.toNat / 65536, m, s.bytes (a - a % 256) 256⟩) ∧
      s.nextWord g = BitVec.ofNat 64 (s.rdN a 8)) ∧
    (∀ v, (s.course g).lineAt = some v → ∀ m, ({ s with mem := m }).nextWord g = s.nextWord g)

/-- The opcodes of R205 with one instruction each. -/
def Sys2Proof.Machine.opcodes : List (Nat × (Course → BitVec 56 → Instr)) :=
  [ (0x00, .add), (0x01, .sub), (0x02, .and), (0x03, .or), (0x04, .xor), (0x05, .shl), (0x06, .shr), (0x07, .sra), (0x08, .mul),
    (0x09, .mulhu), (0x0A, .min), (0x0B, .max), (0x0C, .minu), (0x0D, .maxu), (0x10, .addi), (0x11, .andi), (0x12, .ori),
    (0x13, .xori), (0x14, .shli), (0x15, .shri), (0x16, .srai), (0x17, .li), (0x18, .lui), (0x20, .ld), (0x21, .ldw), (0x22, .st),
    (0x23, .stw), (0x24, .amov), (0x25, .aaddi), (0x26, .aadd), (0x27, .smov), (0x28, .tallyRead), (0x30, .cmp), (0x31, .cmpi),
    (0x32, .plog), (0x33, .jmp), (0x34, .jr), (0x35, .eret), (0x36, .halt), (0x37, .brk), (0x38, .nop), (0x40, .tallyAdd),
    (0x41, .tallySet), (0x42, .tallyWait), (0x43, .fence), (0x44, .leaveHold), (0x45, .leaveRel), (0x46, .lockAcq),
    (0x47, .lockRel), (0x49, .diagSelftest), (0x80, .msnPass), (0x81, .msnTile), (0x90, .tblBuild), (0xA0, .strArm),
    (0xA1, .strRearm), (0xA2, .strResume), (0xA3, .walkLoad), (0xB0, .vecAdd), (0xB1, .vecMul), (0xB2, .vecFma), (0xB3, .vecMax),
    (0xB4, .vecMin), (0xB5, .vecCvt), (0xB6, .vecPadd), (0xB7, .vecSum), (0xB8, .vecFn), (0xB9, .vecQbw16), (0xBA, .vecQidx),
    (0xC0, .fwuMm), (0xD0, .drnOut), (0xD1, .drnPartial), (0xE0, .redSend), (0xE1, .redAccum), (0xE2, .redRing),
    (0xF0, .updPass1), (0xF1, .updPass2) ]

/-- OP, bits [63:56] of a word, tells the instruction (R201, R205): rng.bind and msn.parity have two commands each, by OPN; every
value that is not listed is reserved. -/
def Sys2Proof.Machine.opcodesSpell : Prop :=
  ∀ (g : Course) (w : BitVec 64), let op := (w >>> 56).toNat
    (∀ r ∈ opcodes, op = r.1 → decodeInstr g w = some (r.2 g (w.setWidth 56))) ∧
    (op = 0x48 → decodeInstr g w = some (if w.getLsbD 51 then .rngRelease g (w.setWidth 56) else .rngBind g (w.setWidth 56))) ∧
    (op = 0x82 → w.getLsbD 41 = false → decodeInstr g w =
      some (if w.getLsbD 40 then .msnParityDecode g (w.setWidth 56) else .msnParityEncode g (w.setWidth 56))) ∧
    (decodeInstr g w = none ↔ op ≠ 0x48 ∧ op ≠ 0x82 ∧ ∀ r ∈ opcodes, op ≠ r.1)

/-- What a fetch reads, which instruction a word is, and the faults of fetch and of decoding (R199, R201, R203, R205, R241). -/
def Obligations.FetchAndDecodeFaults : Prop := decodeFaults ∧ fetchReads ∧ opcodesSpell


/-- A controller that is not RUNNING, or that a wait or a full queue holds, issues nothing: the command has no effect (R198,
R212, R225; that a command which may not act leaves the state is the model's choice). -/
def Sys2Proof.Machine.heldIssueNothing : Prop :=
  ∀ (i : Instr) (s : State) (g : Course) (w : BitVec 56) (z : List (Nat × Nat)) (v2 : Bool) (sub : BitVec 4),
    wordOf i = some (g, w, z, v2, sub) →
    ((s.course g).ctl ≠ .running ∨ (s.course g).wait ≠ none ∨ (s.course g).stalled ≠ none) → exec i s = .next s

/-- Instructions that have no effect: of a false guard (R202), and of a controller that does not run, or waits (R198, R226). -/
def Obligations.NothingIssues : Prop := falseGuard ∧ heldIssueNothing


/-- Taking a precise exception (R237): CCR_EPC, CCR_ECAUSE and CCR_EINFO are written, a record goes to the reliability unit
from SRC_UNIT 0x01, and the controller continues at CCR_TVEC with IN_TRAP set, or enters FAULTED, with NESTED set where
IN_TRAP was 1. Its registers and tallies stay, and so do the other courses and all of memory. -/
def Obligations.PreciseExceptions : Prop :=
  ∀ (s : State) (g : Course) (code : BitVec 16) (sub : BitVec 4) (einfo : DWord),
    let t := s.takeException g code sub einfo
    let c := s.course g
    let d := t.course g
    let handled := (s.reg (cr g 0x2C)).getLsbD 0 && !c.inTrap
    t.reg64 (cr g 0x20) = c.pc.setWidth 64 ∧ t.reg (cr g 0x28) = code.setWidth 32 ∧ t.reg64 (cr g 0x38) = einfo ∧
    (∃ r, (t.die (courseDie g)).presented = (s.die (courseDie g)).presented ++ [r] ∧ r.code = code ∧ r.srcUnit = 0x01 ∧
      r.sub = sub ∧ r.precise = true ∧ r.pc = c.pc ∧ r.info = einfo) ∧
    (handled = true → d = { c with inTrap := true, wait := none, pc := (s.reg64 (cr g 0x30)).setWidth 48 }) ∧
    (handled = false → d = { c with ctl := .faulted, wait := none, nested := c.nested || c.inTrap }) ∧
    (∀ h, h ≠ g → t.course h = s.course h) ∧ t.mem = s.mem ∧ t.memPoison = s.memPoison

/-- brk takes the exception ISCON_BREAK (R207), its CCR_EINFO free (log entry 11). -/
def Sys2Proof.Machine.breakFaults : Prop :=
  ∀ (s : State) (g : Course) (w : BitVec 56), Issues s g w [(51, 0)] false →
    exec (.brk g w) s = .next ((s.fetch g).1.used.takeException g 0x050A 0x8 (s.fetch g).1.fresh)

/-- Faults of the instructions that only compute: unused fields (R203 step 3) and brk (R237). -/
def Obligations.OperandAndBreakFaults : Prop := unusedFields ∧ breakFaults


/-! ### Loads and stores of a controller (R209) -/

/-- The address of a load or store: aB + sext(OFF) modulo 2^48. -/
def Sys2Proof.Machine.dataAddr (s : State) (g : Course) (w : BitVec 56) : Addr :=
  BitVec.ofInt 48 (((s.course g).ra (fldA w 43)).toNat + sext 32 (fld w 31 0))

/-- A load from near or far memory whose data is not poisoned: sD is the little-endian value of the bytes, zero-extended,
and nothing else changes but the pc, the instruction buffer and CCR_ISSUED. A 32-bit load of a register in whole-package
mode gives what the register reads as for the course, with what reading it does. -/
def Obligations.LoadResults : Prop :=
  ∀ (s : State) (g : Course) (w : BitVec 56) (p : Nat), Issues s g w [(42, 32)] false →
    let a := (dataAddr s g w).toNat
    let loads (i : Instr) (n : Nat) : Prop :=
      s.target g a n = some (.mem p) → a % n = 0 → (s.readAny p n).2.1 = false →
      Completes i s fun t => SetsS s t g (fldS w 47) (BitVec.ofNat 64 (leNat (s.readAny p n).1)) (s.after g)
    loads (.ld g w) 8 ∧ loads (.ldw g w) 4 ∧
    (s.target g a 4 = some (.reg p) → a % 4 = 0 →
      let r := (s.fetch g).1.readReg (.course g) p
      exec (.ldw g w) s = .next (((r.2.modCourse g fun c => c.ws (fldS w 47) ((r.1.getD 0).setWidth 64)).issued g).modCourse g
        fun c => { c with pc := c.pc + 8 }))

/-- A store to near memory: the bytes at the address are those of sD, little-endian, every other byte of memory reads as
before, and nothing else changes but the pc, the instruction buffer and CCR_ISSUED. A store to far memory writes the far
line or lines, and a 32-bit store to a register in whole-package mode writes that register. -/
def Obligations.StoreResults : Prop :=
  ∀ (s : State) (g : Course) (w : BitVec 56) (p : Nat), Issues s g w [(42, 32)] false →
    let a := (dataAddr s g w).toNat
    let v := ((s.course g).rs (fldS w 47)).toNat
    let gone (u : State) : State := (u.issued g).modCourse g fun c => { c with pc := c.pc + 8 }
    let stores (i : Instr) (n : Nat) : Prop :=
      s.target g a n = some (.mem p) → a % n = 0 →
      (p < nearEnd → Completes i s fun t =>
        (∀ b, t.byte b = if p ≤ b ∧ b < p + n then BitVec.ofNat 8 (v / 256 ^ (b - p)) else s.byte b) ∧
        t.memPoison = s.memPoison ∧ t.wide = (s.issued g).wide ∧ (∀ h, h ≠ g → t.course h = s.course h) ∧
        (∃ b, t.course g = { s.course g with pc := s.after g, ibuf := b }) ∧
        { t with courses := s.courses, wide := s.wide, mem := s.mem } = s) ∧
      (nearEnd ≤ p → exec i s = .next (gone ((s.fetch g).1.farWrite p (leBytes n v) false false)))
    stores (.st g w) 8 ∧ stores (.stw g w) 4 ∧
    (s.target g a 4 = some (.reg p) → a % 4 = 0 → exec (.stw g w) s =
      .next ((gone (s.fetch g).1).writeReg (.course g) p (BitVec.ofNat 32 v)))

/-- What an access reaches, and its faults (R209): near memory that is backed, far memory that is backed, and for a 32-bit
access in whole-package mode the register region; anything else faults ISCON_ADDRESS, a misaligned access to what it may reach
ISCON_ALIGN, and a load of poisoned near memory ISCON_POISON without writing sD. -/
def Sys2Proof.Machine.accessFaults : Prop :=
  ∀ (s : State) (g : Course) (w : BitVec 56), Issues s g w [(42, 32)] false →
    let a := dataAddr s g w
    let einfo : DWord := a.setWidth 64
    let accesses (i : Instr) (n : Nat) : Prop :=
      (s.target g a.toNat n = none → Faults i s g 0x0504 0x8 einfo) ∧
      (s.target g a.toNat n ≠ none → a.toNat % n ≠ 0 → Faults i s g 0x0503 0x8 einfo)
    let poisoned (i : Instr) (n : Nat) : Prop :=
      ∀ p, s.target g a.toNat n = some (.mem p) → a.toNat % n = 0 → p < nearEnd → s.dirty p n = true →
        Faults i s g 0x0506 0x8 einfo
    accesses (.ld g w) 8 ∧ accesses (.ldw g w) 4 ∧ accesses (.st g w) 8 ∧ accesses (.stw g w) 4 ∧
    poisoned (.ld g w) 8 ∧ poisoned (.ldw g w) 4

/-- Where an access of a course may go in whole-package mode (R209, R29, R35, R36): the bytes must be backed near or far
memory, or one register for a 32-bit access; staging SRAM, host memory and the holes are not reachable. -/
def Sys2Proof.Machine.accessReach : Prop :=
  ∀ (s : State) (g : Course) (a : Nat) (n : Nat), s.parted = false →
    (a < 0x8000000000 → s.target g a n = if s.nearOk a n then some (.mem a) else none) ∧
    (0x10000000000 ≤ a → a < 0x50000000000 → s.target g a n = if s.farOk a n then some (.mem a) else none) ∧
    (0x8000000000 ≤ a → a < 0x10000000000 → s.target g a n = none) ∧
    (0x50000000000 ≤ a → a < 0x1F0000000000 → s.target g a n = none) ∧ (0x1F0020000000 ≤ a → s.target g a n = none) ∧
    (0x1F0000000000 ≤ a → a < 0x1F0020000000 → n ≠ 4 → s.target g a n = none) ∧
    (0x1F0000000000 ≤ a → a + 4 ≤ 0x1F0020000000 → s.target g a 4 = some (.reg (a - 0x1F0000000000)))

/-- What loads and stores reach, and their faults (R209, R29, R35, R36). -/
def Obligations.LoadAndStoreReach : Prop := accessFaults ∧ accessReach

/-! ### Tallies, waits, leave, locks and rounding streams as instructions (R182, R220 to R236, R328, R330, R497) -/

/-- Nothing outside course g has changed but reports, registers that capture, the counters of wide registers, the free
values used and the place in the order of events; within the course the predicates, address registers and rounding streams are as they were, and so is its state. -/
def Sys2Proof.Machine.QuietFor (s t : State) (g : Course) : Prop :=
  (∀ h, h ≠ g → t.course h = s.course h) ∧
    { t with courses := s.courses, dies := s.dies, regs := s.regs, wide := s.wide, freeCtr := s.freeCtr, stamp := s.stamp } = s ∧
    (∀ i, (t.course g).ra i = (s.course g).ra i) ∧ (∀ i, (t.course g).rp i = (s.course g).rp i) ∧
    (t.course g).bindings = (s.course g).bindings ∧ (t.course g).ctl = (s.course g).ctl

/-- tally.add to the local tally adds the value and leaves P; tally.set sets V and clears P; the other tallies stay
(R220, R223, R224). The value is IMM where IM is 1 and sV[31:0] where it is 0. -/
def Sys2Proof.Machine.tallyUpdates : Prop :=
  ∀ (s : State) (g : Course) (w : BitVec 56) (n : Fin 256), Issues s g w [] false → fld w 51 44 = n.val →
    ((s.course g).v1 = true → n.val < 64) →
    let c := s.course g
    let x : Word := if w.getLsbD 43 then BitVec.ofNat 32 (fld w 31 0) else (c.rs (fldS w 38)).setWidth 32
    (if w.getLsbD 43 then fld w 42 38 = 0 else fld w 31 0 = 0) → fld w 37 32 = 0 →
    let rest (t : State) : Prop := (∀ m, m ≠ n → (t.course g).tallyVal m = c.tallyVal m ∧ (t.course g).tallyPoi m = c.tallyPoi m) ∧
      (t.course g).pc = s.after g ∧ (∀ i, (t.course g).rs i = c.rs i) ∧ QuietFor s t g
    (Completes (.tallyAdd g w) s fun t =>
      (t.course g).tallyVal n = c.tallyVal n + x ∧ (t.course g).tallyPoi n = c.tallyPoi n ∧ rest t) ∧
    (Completes (.tallySet g w) s fun t => (t.course g).tallyVal n = x ∧ (t.course g).tallyPoi n = false ∧ rest t)

/-- tally.add with REM 1 sends the value to a course over a route in service; the receiving course adds it when the message
arrives, leaving P (R21, R223). -/
def Obligations.RemoteTallyAdds : Prop :=
  (∀ (s : State) (g : Course) (w : BitVec 56) (n : Fin 256), Issues s g w [] false → fld w 51 44 = n.val →
    let c := s.course g
    let dest := fldS w 32
    let x : Word := if w.getLsbD 43 then BitVec.ofNat 32 (fld w 31 0) else (c.rs (fldS w 38)).setWidth 32
    (if w.getLsbD 43 then fld w 42 38 = 0 else fld w 31 0 = 0) → w.getLsbD 37 = true → c.v1 = false →
    (s.parted = true → dest.val / 8 = g.val / 8) → s.reachable ⟨.course g, .course dest, .tallyAdd n x⟩ = true →
    Completes (.tallyAdd g w) s fun t => t.msgs = s.msgs ++ [⟨.course g, .course dest, .tallyAdd n x⟩] ∧
      (∀ h, h ≠ g → t.course h = s.course h) ∧ ∃ b, t.course g = { c with pc := s.after g, ibuf := b }) ∧
  (∀ (s : State) (src dst : Course) (n : Fin 256) (x : Word) (before after : List Msg),
    s.msgs = before ++ ⟨.course src, .course dst, .tallyAdd n x⟩ :: after →
    (∀ m ∈ before, ¬(m.src = .course src ∧ m.dst = .course dst)) →
    Completes (.tallyAddRemote src dst) s fun t => (t.course dst).tallyVal n = (s.course dst).tallyVal n + x ∧
      (t.course dst).tallyPoi n = (s.course dst).tallyPoi n ∧ t.msgs = before ++ after ∧
      ∀ h, h ≠ dst → t.course h = s.course h)

/-- tally.read gives the tally's value in sD[31:0] and its poison in sD[32] (R224). -/
def Sys2Proof.Machine.tallyReads : Prop :=
  ∀ (s : State) (g : Course) (w : BitVec 56) (n : Fin 256), Issues s g w [(38, 0)] false → fld w 46 39 = n.val →
    ((s.course g).v1 = true → n.val < 64) →
    Completes (.tallyRead g w) s fun t => SetsS s t g (fldS w 47)
      (BitVec.ofNat 64 (((s.course g).tallyVal n).toNat + if (s.course g).tallyPoi n then 2 ^ 32 else 0)) (s.after g)

/-- tally.add, tally.set and tally.read (R220, R223, R224). -/
def Obligations.TallyInstructions : Prop := tallyUpdates ∧ tallyReads


/-- The test of every tally wait (R220): P is 1, or (V - X) mod 2^32 is below 2^31. V has 32 bits, and so has the target. -/
def Sys2Proof.Machine.targetsReached : Prop :=
  ∀ (c : CourseState) (n : Fin 256) (x : Word), c.reached n x = true ↔
    c.tallyPoi n = true ∨ ((c.tallyVal n).toNat + 2 ^ 32 - x.toNat) % 2 ^ 32 < 2 ^ 31

/-- A tally wait is satisfied when P is 1 or V has reached the target in wrap-around order (R220); a controller's tally.wait
whose event is present ends at once with EVENT, or POISONED where P is set, and otherwise, with T not 0, waits where it
stands (R225, R226). A wait that a queue holds enters that queue as its last entry. -/
def Sys2Proof.Machine.tallyWaits : Prop :=
  ∀ (s : State) (g : Course) (w : BitVec 56) (n : Fin 256) (tm : Nat), Issues s g w [(24, 0)] false → fld w 46 39 = n.val →
    ((s.course g).v1 = true → n.val < 64) → s.timeout g (fldS w 29) = some tm →
    let c := s.course g
    let x : Word := (c.rs (fldS w 34)).setWidth 32
    let due : Prop := c.tallyPoi n = true ∨ (c.tallyVal n - x).toNat < 2 ^ 31
    (fld w 28 25 = 8 →
      (due → Completes (.tallyWait g w) s fun t => (t.course g).wait = none ∧ (t.course g).pc = s.after g ∧
        (t.course g).rs (fldS w 47) = (if fldS w 47 = 0 then 0 else if c.tallyPoi n then 2 else 0) ∧
        ∀ i, i ≠ fldS w 47 → (t.course g).rs i = c.rs i) ∧
      (¬due → tm ≠ 0 → Completes (.tallyWait g w) s fun t => (t.course g).wait = some ⟨fldS w 47, .tally n x⟩ ∧
        (t.course g).pc = c.pc ∧ ∀ i, (t.course g).rs i = c.rs i)) ∧
    (∀ q : QueueId, fld w 28 25 = q.val → fld w 51 47 = 0 → ¬due → tm ≠ 0 → (c.queue q).entries.length < 64 →
      Completes (.tallyWait g w) s fun t => (t.course g).pc = s.after g ∧ (∀ i, (t.course g).rs i = c.rs i) ∧
        ∃ e, ((t.course g).queue q).entries.getLast? = some e ∧ e.op = .queueWait n x false ∧ e.pc = c.pc ∧ e.serial = c.serial)

/-- Tally waits (R220, R225, R226). -/
def Obligations.TallyWaits : Prop := targetsReached ∧ tallyWaits

/-- A fence whose queues have nothing left from before it ends at once with EVENT; otherwise, with T not 0, the controller
waits where it stands (R225). -/
def Sys2Proof.Machine.fenceWaits : Prop :=
  ∀ (s : State) (g : Course) (w : BitVec 56) (tm : Nat), Issues s g w [(33, 0)] false → s.timeout g (fldS w 34) = some tm →
    let c := s.course g
    let named (q : QueueId) : Prop := (fld w 46 39).testBit q.val = true
    ((∀ q, named q → (c.queue q).entries = [] ∧ (c.queue q).started = []) →
      Completes (.fence g w) s fun t => (t.course g).wait = none ∧ (t.course g).pc = s.after g ∧
        (∀ i, i ≠ fldS w 47 → (t.course g).rs i = c.rs i) ∧ (t.course g).rs (fldS w 47) = 0) ∧
    (∀ q i, named q → i ∈ (c.queue q).started → i.orphan = false → i.e.serial < c.serial → tm ≠ 0 →
      Completes (.fence g w) s fun t => (∃ m, (t.course g).wait = some ⟨fldS w 47, .fence m c.serial⟩) ∧
        (t.course g).pc = c.pc ∧ ∀ j, (t.course g).rs j = c.rs j)

/-- leave.hold asks for sV[31:0] credits and waits where it stands, with no hold active and the die's credits enough (R236,
R474); leave.rel releases the hold, whose unused credits go back (R236). -/
def Sys2Proof.Machine.leaveInstrs : Prop :=
  ∀ (s : State) (g : Course) (w : BitVec 56),
    let c := s.course g
    let n := (c.rs (fldS w 42)).toNat % 2 ^ 32
    (∀ tm, Issues s g w [(36, 0)] true → s.timeout g (fldS w 37) = some tm → tm ≠ 0 → 1 ≤ n → n ≤ 65535 → c.hold = none →
      n ≤ s.dieCredits (courseCDie g) → Completes (.leaveHold g w) s fun t =>
        (t.course g).wait = some ⟨fldS w 47, .leave n s.stamp 0⟩ ∧ (t.course g).pc = c.pc ∧ ∀ i, (t.course g).rs i = c.rs i) ∧
    (∀ h, Issues s g w [(51, 0)] true → c.hold = some h → Completes (.leaveRel g w) s fun t =>
        (t.course g).hold = none ∧ (t.course g).pc = s.after g ∧ (∀ i, (t.course g).rs i = c.rs i) ∧
        (t.cdie (courseCDie g)).inUse.toList.getD (2 * (g.val % 8)) 0 =
          (s.cdie (courseCDie g)).inUse.toList.getD (2 * (g.val % 8)) 0 - h.free)

/-- lock.acq of a region of backed near memory that the course may reach, with BASE and LEN as R327 requires, sends its
request to the region's controller and waits; lock.rel sends the release (R328, R330). Both carry the course and its epoch, and
the request its place in the order of events, by which its outcome and its withdrawal find it. -/
def Sys2Proof.Machine.lockInstrs : Prop :=
  ∀ (s : State) (g : Course) (w : BitVec 56) (a : Nat), s.physOf (g.val / 8) ((s.course g).ra (fldA w 43)).toNat = some a →
    let c := s.course g
    let base := (c.ra (fldA w 43)).toNat
    let len := (c.rs (fldS w 38)).toNat % 2 ^ 32
    let epoch : BitVec 16 := (s.reg (cr g 0x1C)).setWidth 16
    (∀ tm, Issues s g w [(32, 0)] false → s.timeout g (fldS w 33) = some tm → base % 64 = 0 → len % 64 = 0 → 64 ≤ len →
      s.nearOk a len = true →
      let m : Msg := ⟨.course g, .mem (stackOf a), .lockReq ⟨a, len, g, epoch, s.stamp, decide (tm = 0)⟩⟩
      s.reachable m = true → Completes (.lockAcq g w) s fun t => t.msgs = s.msgs ++ [m] ∧
        ∃ b, t.course g = { c with wait := some ⟨fldS w 47, .lock a len s.stamp⟩, ibuf := b }) ∧
    (Issues s g w [(51, 47), (42, 0)] false → a < 0x8000000000 →
      let m : Msg := ⟨.course g, .mem (stackOf a), .lockRel a g epoch⟩
      s.reachable m = true → Completes (.lockRel g w) s fun t => t.msgs = s.msgs ++ [m] ∧
        ∃ b, t.course g = { c with pc := s.after g, ibuf := b })

/-- fence, leave.hold, leave.rel, lock.acq and lock.rel (R225, R236, R328, R330). -/
def Obligations.WaitInstructions : Prop := fenceWaits ∧ leaveInstrs ∧ lockInstrs


/-- rng.bind binds a stream that is not bound, in a table that is not full, at the position of sB, with the seed of its die,
and the package seed folded in unless it is a replica stream; its release frees the binding (R181, R182). A stream already
bound, a full table and a stream not bound fault with the stream's number. -/
def Sys2Proof.Machine.roundingStreams : Prop :=
  ∀ (s : State) (g : Course) (w : BitVec 56), Issues s g w [(28, 0)] false →
    let c := s.course g
    let n := rngStream w
    let key := if w.getLsbD 50 then s.reg64 (dr (courseDie g) 0x6000) else s.reg64 (dr (courseDie g) 0x6000) ^^^ s.reg64 (pr 8)
    let bound : Prop := ∃ b ∈ c.bindings, b.stream = n
    (c.v1 = false →
      (¬bound → c.bindings.length < 64 → Completes (.rngBind g w) s fun t => OnlyCourse s t g ∧ ∃ b, t.course g = { c with
        bindings := c.bindings ++ [⟨n, w.getLsbD 50, key.setWidth 32, (key >>> 32).setWidth 32, c.rs (fldS w 45)⟩]
        pc := s.after g, ibuf := b }) ∧
      (bound → Faults (.rngBind g w) s g 0x0406 0x8 (n.setWidth 64)) ∧
      (¬bound → 64 ≤ c.bindings.length → Faults (.rngBind g w) s g 0x0407 0x8 (n.setWidth 64))) ∧
    (fld w 50 45 = 0 →
      (bound → Completes (.rngRelease g w) s fun t => OnlyCourse s t g ∧ ∃ b, t.course g = { c with
        bindings := c.bindings.filter fun x => x.stream != n, pc := s.after g, ibuf := b }) ∧
      (¬bound → Faults (.rngRelease g w) s g 0x0408 0x8 (n.setWidth 64)))

/-- diag.selftest asks for a self-test of the groups of UNITS, with its completion tally; UNITS 0, or a TALLY that is not used
and not 0, faults REL_OPERAND with that value in CCR_EINFO (R203 step 3, R211, R224, R237, R497). -/
def Sys2Proof.Machine.selfTestInstr : Prop :=
  ∀ (s : State) (g : Course) (w : BitVec 56), Issues s g w [(33, 0)] false → ((s.course g).v1 = true → w.getLsbD 43 = true → fld w 51 44 < 64) →
    let u := BitVec.ofNat 8 (fld w 41 34)
    let unused : Prop := w.getLsbD 43 = false ∧ fld w 51 44 ≠ 0
    (¬unused → u ≠ 0 → Completes (.diagSelftest g w) s fun t => (t.course g).pc = s.after g ∧
      ∃ x, (t.course g).selfTests = (s.course g).selfTests ++ [x] ∧ x.left = u ∧ x.pc = (s.course g).pc ∧
        x.te = w.getLsbD 43 ∧ x.tally = tallyNum (fld w 51 44) ∧ x.ntf = w.getLsbD 42) ∧
    (¬unused → u = 0 → Faults (.diagSelftest g w) s g 0x0F02 0x8 0) ∧
    (unused → Faults (.diagSelftest g w) s g 0x0F02 0x8 (BitVec.ofNat 64 (fld w 51 44)))

/-- rng.bind, rng.release and diag.selftest (R181, R182, R224, R497). -/
def Obligations.RoundingAndSelfTest : Prop := roundingStreams ∧ selfTestInstr

/-! ### Engine instructions enter their queues (R183, R203, R204, R211, R212, R215 to R219) -/

/-- Queue q has room (R212), a completion tally is one that the course's Iscon has (R241), and TALLY is 0 where TE is 0 and so
leaves it unused (R203 step 3, R211). -/
def Sys2Proof.Machine.Room (s : State) (g : Course) (w : BitVec 56) (q : QueueId) : Prop :=
  ((s.course g).queue q).entries.length < 64 ∧ ((s.course g).v1 = true → w.getLsbD 43 = true → fld w 51 44 < 64) ∧
    (w.getLsbD 43 = false → fld w 51 44 = 0)

/-- The rounding rows that a consumer of n elements is given as it issues, and the bindings it leaves (R183): where it rounds
stochastically, from the position of its stream, which moves on by one row for each 512 elements; none where the stream is not
bound. -/
def Sys2Proof.Machine.drawn (c : CourseState) (sr : Bool) (rng n : Nat) : Option (Option Rows × List Binding) :=
  if sr then (c.bindings.find? fun b => b.stream == BitVec.ofNat 16 rng).map fun b =>
    (some ⟨b.k0, b.k1, BitVec.ofNat 16 rng, b.pos⟩,
      c.bindings.map fun e => if e.stream = BitVec.ofNat 16 rng then { e with pos := e.pos + BitVec.ofNat 64 ((n + 511) / 512) } else e)
  else some (none, c.bindings)

/-- The instruction becomes the last entry of queue q with the operation `op`, the controller goes on after it, and `p` holds
of the slots that are open in program order. Registers, predicates and tallies stay, and so does everything outside the
course but reports, registers, counters, free values and the place in the order of events: waits at the head of a queue may end
at the same time. -/
def Sys2Proof.Machine.Enters (i : Instr) (s : State) (g : Course) (w : BitVec 56) (q : QueueId) (op : EngineOp)
    (rows : Option Rows × List Binding) (p : BitVec 32 → Prop) : Prop :=
  Completes i s fun t =>
    let c := s.course g
    let d := t.course g
    (∀ h, h ≠ g → t.course h = s.course h) ∧
    { t with courses := s.courses, dies := s.dies, regs := s.regs, wide := s.wide, freeCtr := s.freeCtr, stamp := s.stamp } = s ∧
    d.pc = s.after g ∧ d.serial = c.serial + 1 ∧ d.ctl = c.ctl ∧ (∀ i, d.rs i = c.rs i) ∧ (∀ i, d.ra i = c.ra i) ∧
    (∀ i, d.rp i = c.rp i) ∧ (∀ n, d.tallyVal n = c.tallyVal n ∧ d.tallyPoi n = c.tallyPoi n) ∧ d.bindings = rows.2 ∧
    (∀ r, (d.queue r).started = (c.queue r).started) ∧ p d.arr.progOpen ∧
    ∃ k e, (d.queue q).entries = (c.queue q).entries.drop k ++ [e] ∧ e.op = op ∧ e.pc = c.pc ∧ e.serial = c.serial ∧
      e.te = w.getLsbD 43 ∧ e.ntf = w.getLsbD 42 ∧ e.tally.val = fld w 51 44 ∧ e.rows = rows.1

/-- msn.pass, msn.tile, tbl.build, drn.out, drn.partial and msn.parity with valid operands enter their queues with them (R83,
R86, R90, R94, R117, R133, R141, R142, R146, R149, R150, R241, R443, R454). msn.tile opens its slots in program order, and drn.out and drn.partial close
theirs. -/
def Sys2Proof.Machine.arrayEnter : Prop :=
  ∀ (s : State) (g : Course) (w : BitVec 56),
    let c := s.course g
    let same : BitVec 32 → Prop := fun m => m = c.arr.progOpen
    let n := fld w 36 32 + 1
    let closed : BitVec 32 → Prop := fun m => m = c.arr.progOpen &&& ~~~slotMask (fld w 41 37) n
    let dst := (c.ra (fldA w 15)).toNat
    let rs := (c.rs (fldS w 10)).toNat % 2 ^ 32
    let is := (c.rs (fldS w 10)).toNat / 2 ^ 32
    (Issues s g w [] false → Room s g w 0 → ∀ o a, passOperands c w = some o → o.fits = true →
      c.arr.allOpen (slotMask o.slot o.t) = true → s.slice g o.iscale 16 = some a → a % 16 = 0 →
      Enters (.msnPass g w) s g w 0 (.msnPass { o with iscale := a }) (none, c.bindings) same) ∧
    (Issues s g w [(20, 0)] false → Room s g w 0 → fld w 41 37 + n ≤ 32 →
      (w.getLsbD 21 = false → c.arr.progOpen &&& slotMask (fld w 41 37) n = 0) →
      Enters (.msnTile g w) s g w 0 (.msnTile (fld w 41 37) n (sext 10 (fld w 31 22)) (w.getLsbD 21)) (none, c.bindings)
        fun m => m = c.arr.progOpen ||| slotMask (fld w 41 37) n) ∧
    (Issues s g w [(6, 0)] false → Room s g w 1 → ∀ o p, buildOperands c w = some o → o.drun + o.count ≤ 64 →
      s.buildSource g o = some p → Enters (.tblBuild g w) s g w 1 (.tblBuild p) (none, c.bindings) same) ∧
    (Issues s g w [(4, 0)] false → Room s g w 5 → ∀ f a r, outFmtOf (fld w 31 29) = some f → fld w 41 37 + n ≤ 32 →
      fld w 28 27 ≤ 1 → (f.isBS = true → n % 2 = 0) → rs % f.size = 0 → is % f.size = 0 → (c.rs (fldS w 5)).toNat < 65536 →
      (fld w 28 27 = 0 → fld w 9 5 = 0) → c.arr.allOpen (slotMask (fld w 41 37) n) = true →
      let o : DrainOp := ⟨fld w 41 37, n, false, f, decide (fld w 28 27 = 1), w.getLsbD 26, sext 7 (fld w 25 19), dst, rs, is⟩
      s.slice g dst (o.extent c.arr.logical) = some a → a % f.size = 0 →
      drawn c (decide (fld w 28 27 = 1)) (c.rs (fldS w 5)).toNat (2048 * n) = some r →
      Enters (.drnOut g w) s g w 5 (.drain { o with dst := a }) r closed) ∧
    (Issues s g w [(31, 19), (9, 0)] false → Room s g w 5 → ∀ a, fld w 41 37 + n ≤ 32 → rs % 16 = 0 → is % 16 = 0 →
      c.arr.allOpen (slotMask (fld w 41 37) n) = true →
      let o : DrainOp := ⟨fld w 41 37, n, true, .fp32, false, false, 0, dst, rs, is⟩
      s.slice g dst (o.extent c.arr.logical) = some a → a % 16 = 0 →
      Enters (.drnPartial g w) s g w 5 (.drain { o with dst := a }) (none, c.bindings) closed) ∧
    (Issues s g w [(5, 0)] true → Room s g w 0 → ∀ o p, parityOperands c w = some o → c.arr.progOpen = 0 →
      s.parityAddresses g o = .ok p →
      Enters (.msnParityEncode g w) s g w 0 (.msnParity p) (none, c.bindings) same ∧
      Enters (.msnParityDecode g w) s g w 0 (.msnParity p) (none, c.bindings) same)


/-- The valid operands of msn.pass (R83, R84, R217), and what of the word and registers each is: a reserved MODE, IFMT, TFMT or T,
a slot range beyond 31, an index format or table format of another mode, a PLANE or SLICE out of range, and XOP or HALF where the
mode does not have it, are all refused. -/
def Sys2Proof.Machine.passColumns : Prop :=
  ∀ (c : CourseState) (w : BitVec 56),
    let mode := fld w 41 40
    let ifmt := fld w 39 37
    let tfmt := fld w 36 35
    let plane := fld w 34 33
    let slice := fld w 32 31
    let t := fld w 25 24
    let k := (c.rs (fldS w 5)).toNat
    let wide : Prop := 16 ≤ k ∧ k % 16 = 0 ∧ fld w 22 10 % 8 = 0
    let table : Prop := mode = 0 ∧ ifmt ≤ 3 ∧ tfmt ≤ 1 ∧ wide ∧ t = 0 ∧ w.getLsbD 23 = false ∧
      slice < (if tfmt = 0 then 2 else 4) ∧ plane < (if ifmt ≤ 1 then 1 else if ifmt = 2 then 2 else 4)
    let shift : Prop := mode = 1 ∧ ifmt = 4 ∧ tfmt ≤ 1 ∧ wide ∧ t ≤ 2 ∧ w.getLsbD 23 = false ∧ plane = 0 ∧ slice = 0
    let popcount : Prop := mode = 2 ∧ ifmt = 0 ∧ tfmt = 2 ∧ t ≤ 2 ∧ 1 ≤ k ∧ plane = 0 ∧ slice = 0 ∧ w.getLsbD 0 = false
    ((passOperands c w).isSome = true ↔ (table ∨ shift ∨ popcount) ∧ fld w 30 26 + 2 ^ t ≤ 32) ∧
    ∀ o, passOperands c w = some o → o.slot = fld w 30 26 ∧ o.t = 2 ^ t ∧ o.tbase = fld w 22 10 ∧ o.g = k ∧
      o.iscale = (c.ra (fldA w 1)).toNat ∧ o.half = w.getLsbD 0 ∧ o.xopAnd = w.getLsbD 23 ∧ o.plane = plane ∧ o.slice = slice

/-- The instructions of the arrays, and the columns of msn.pass (R83, R84, R86, R90, R94, R117, R133, R141, R142, R146, R149, R150, R217, R443, R454). -/
def Obligations.ArrayInstructions : Prop := arrayEnter ∧ passColumns

/-- The instructions of streams and walkers (R258, R260, R262, R274), the fine-work unit (R187, R219), gradient reduction (R380,
R387, R388) and parameter update (R372) with valid operands enter their queues with them. -/
def Obligations.EngineInstructionsEnter : Prop :=
  ∀ (s : State) (g : Course) (w : BitVec 56),
    let c := s.course g
    let S (k : Nat) : Nat := (c.rs (fldS w k)).toNat
    let A (k : Nat) : Nat := (c.ra (fldA w k)).toNat
    let near (a n align : Nat) (p : Nat) : Prop :=
      s.physOf (g.val / 8) a = some p ∧ p + n ≤ 0x8000000000 ∧ p < 0x8000000000 ∧ a % align = 0
    let enters (i : Instr) (q : QueueId) (op : EngineOp) : Prop :=
      Enters i s g w q op (none, c.bindings) fun m => m = c.arr.progOpen
    (Room s g w 2 → ∀ n : StreamId, S 37 = n.val →
      (Issues s g w [(31, 0)] false → ∀ p, near (A 33) 64 64 p → enters (.strArm g w) 2 (.strArm n p (w.getLsbD 32))) ∧
      (Issues s g w [(32, 0)] false → enters (.strRearm g w) 2 (.strRearm n (A 33))) ∧
      (Issues s g w [(36, 0)] true → enters (.strResume g w) 2 (.strResume n)) ∧
      (Issues s g w [(27, 0)] true → ∀ p, near (A 33) (8 * (fld w 32 28 + 1)) 64 p →
        enters (.walkLoad g w) 2 (.walkLoad n p (fld w 32 28 + 1)))) ∧
    (Room s g w 4 → Issues s g w [(13, 0)] false → ∀ a b x d, c.mmDims w = true →
      (s.mmAddrs (g.val / 8) (c.mmOf w)).map (·.2) = [some a, some b, some x, some d] →
      enters (.fwuMm g w) 4 (.fwuMm { c.mmOf w with a := a, b := b, c := x, d := d })) ∧
    (Room s g w 6 →
      (Issues s g w [(27, 0)] false → 1 ≤ S 33 → S 33 ≤ 2 ^ 20 → S 28 < 2 ^ 48 → A 38 % 8 = 0 → ∀ a p,
        s.slice g (A 38) (280 * S 33) = some a → near (S 28) 0 32 p →
        enters (.redSend g w) 6 (.redSend a (S 33) (S 28))) ∧
      (Issues s g w [(27, 0)] false → 1 ≤ S 29 → S 29 ≤ 2 ^ 20 → A 38 % 8 = 0 → ∀ a p,
        s.slice g (A 38) (280 * S 29) = some a → near (A 34) 0 32 p →
        enters (.redAccum g w) 6 (.redAccum a (A 34) (S 29) (w.getLsbD 28))) ∧
      (Issues s g w [(30, 0)] true → 1 ≤ S 33 → S 33 ≤ 2 ^ 20 → fld w 32 31 < 3 → ∀ p, near (A 38) 0 64 p →
        enters (.redRing g w) 6 (.redRing (A 38) (S 33) (fld w 32 31)))) ∧
    (Room s g w 7 → Issues s g w [(29, 0)] true → ∀ p, near (A 38) 0 64 p →
      let m : BitVec 8 := BitVec.ofNat 8 (fld w 37 30)
      m ≠ 0 → s.maskOut g m = false →
      enters (.updPass1 g w) 7 (.updPass false p m) ∧ enters (.updPass2 g w) 7 (.updPass true p m))

/-- The instructions of the vector engine with valid operands enter their queue with them, and a consumer of rounding rows is given
its rows (R163 to R165, R172, R175, R177, R183). -/
def Obligations.VectorInstructionsEnter : Prop :=
  ∀ (s : State) (g : Course) (w : BitVec 56), Room s g w 3 →
    let c := s.course g
    let S (k : Nat) : Nat := (c.rs (fldS w k)).toNat
    let A (k : Nat) : Nat := (c.ra (fldA w k)).toNat
    let enters (i : Instr) (q : QueueId) (op : EngineOp) : Prop :=
      Enters i s g w q op (none, c.bindings) fun m => m = c.arr.progOpen
    let entersWith (i : Instr) (q : QueueId) (op : EngineOp) (sr : Bool) (rng n : Nat) : Prop :=
      ∀ r, drawn c sr rng n = some r → Enters i s g w q op r fun m => m = c.arr.progOpen
    (Issues s g w [(29, 26), (20, 0)] false → ∀ d a b, s.opnd g (A 38) (4 * S 21) 4 = some d →
      s.opnd g (A 34) (4 * S 21) 4 = some a → s.opnd g (A 30) (4 * S 21) 4 = some b →
      enters (.vecAdd g w) 3 (.vecEl .add d a b 0 (S 21)) ∧ enters (.vecMul g w) 3 (.vecEl .mul d a b 0 (S 21)) ∧
      enters (.vecMax g w) 3 (.vecEl .max d a b 0 (S 21)) ∧ enters (.vecMin g w) 3 (.vecEl .min d a b 0 (S 21))) ∧
    (Issues s g w [(20, 0)] false → ∀ d a b x, s.opnd g (A 38) (4 * S 21) 4 = some d →
      s.opnd g (A 34) (4 * S 21) 4 = some a → s.opnd g (A 30) (4 * S 21) 4 = some b → s.opnd g (A 26) (4 * S 21) 4 = some x →
      enters (.vecFma g w) 3 (.vecEl .fma d a b x (S 21))) ∧
    (Issues s g w [(27, 26), (15, 0)] false → ∀ f d a, outFmtOf (fld w 33 31) = some f → f ≠ .fp32 → f.isBS = false →
      fld w 30 29 ≤ 1 → S 16 < 65536 → (fld w 30 29 = 0 → fld w 20 16 = 0) → s.opnd g (A 38) (f.size * S 21) f.size = some d →
      s.opnd g (A 34) (4 * S 21) 4 = some a → entersWith (.vecCvt g w) 3
        (.vecCvt d a f (decide (fld w 30 29 = 1)) (w.getLsbD 28) (S 21)) (decide (fld w 30 29 = 1)) (S 16) (S 21)) ∧
    (Issues s g w [(22, 0)] false → ∀ d a, 1 ≤ S 29 → S 29 < 2 ^ 32 → S 24 % 2 ^ 32 % 4 = 0 → 1 ≤ S 24 / 2 ^ 32 →
      S 24 / 2 ^ 32 ≤ 65536 → s.opnd g (A 34) ((S 24 / 2 ^ 32 - 1) * (S 24 % 2 ^ 32) + 4 * S 29) 4 = some a →
      s.opnd g (A 38) (4 * (S 24 / 2 ^ 32)) 4 = some d →
      enters (.vecSum g w) 3 (.vecSum d a (S 29) (S 24 / 2 ^ 32) (S 24 % 2 ^ 32) (w.getLsbD 23))) ∧
    (Issues s g w [(24, 0)] false → ∀ d a, fld w 33 30 < 12 → 1 ≤ S 25 → S 25 ≤ 2 ^ 20 →
      s.opnd g (A 34) (4 * S 25) 4 = some a → s.opnd g (A 38) (4 * S 25) 4 = some d →
      enters (.vecFn g w) 3 (.vecFn d a (fld w 33 30) (S 25))) ∧
    (Issues s g w [(1, 0)] false → ∀ f d a, outFmtOf (fld w 19 17) = some f →
      let conv := w.getLsbD 20
      let e := S 29 / 2 ^ 32
      let o : PaddOp := ⟨a, S 29 % 2 ^ 32, fld w 28 21 + 1, e, conv, d, f, decide (fld w 16 15 = 1), w.getLsbD 14,
        sext 7 (fld w 13 7)⟩
      (if conv then (fld w 16 15 = 0 → fld w 6 2 = 0) else fld w 19 2 = 0) → fld w 16 15 ≤ 1 → (conv = true → S 2 < 65536) →
      1 ≤ fld w 28 21 → S 29 % 2 ^ 32 % 16 = 0 → 1 ≤ e → e ≤ 2 ^ 20 → (conv = true → f.isBS = true → e % 32 = 0) →
      s.opnd g (A 34) (fld w 28 21 * (S 29 % 2 ^ 32) + 16 * e) 16 = some a →
      s.opnd g (A 38) o.outBytes (if conv then f.size else 16) = some d →
      entersWith (.vecPadd g w) 3 (.vecPadd o) (conv && decide (fld w 16 15 = 1)) (S 2) e) ∧
    (Issues s g w [(13, 0)] false → ∀ a x d,
      let part := w.getLsbD 29
      let agreed := w.getLsbD 28
      let z := if part then 16 else 4
      (agreed = false → fld w 33 30 = 0 ∧ x = 0) → (fld w 25 24 = 0 → fld w 18 14 = 0) → fld w 27 26 ≤ 2 → fld w 25 24 ≤ 1 →
      1 ≤ S 19 → S 19 ≤ 65536 → S 14 < 65536 →
      (agreed = true → s.opnd g (A 30) (S 19) 1 = some x ∧ ∀ b ∈ s.bytes x (S 19), b ≠ 0xFF) →
      s.opnd g (A 34) (64 * S 19 * z) z = some a → s.opnd g (A 38) (280 * S 19) 8 = some d →
      entersWith (.vecQbw16 g w) 3 (.vecQbw16 ⟨a, part, agreed, x, fld w 27 26, decide (fld w 25 24 = 1), d, S 19⟩)
        (decide (fld w 25 24 = 1)) (S 14) (64 * S 19)) ∧
    (Issues s g w [(8, 0)] false → ∀ f a d q, idxFmtOf (fld w 29 27) = some f →
      let bw := w.getLsbD 26
      let n := S 19 % 2 ^ 32
      let k := S 19 / 2 ^ 32
      fld w 25 24 ≤ 1 → n % 16 = 0 → k % 128 = 0 → n ≤ 2 ^ 20 → k ≤ 2 ^ 20 → S 14 % (if bw then 280 else 4) = 0 →
      S 9 < 65536 → (fld w 25 24 = 0 → fld w 13 9 = 0) →
      s.opnd g (A 34) ((n - 1) * S 14 + if bw then k / 64 * 280 else 4 * k) (if bw then 8 else 4) = some a →
      s.opnd g (A 38) (n / 16 * f.planes * (k / 64) * 128) 128 = some d →
      s.opnd g (A 30) (n / 16 * (k / 128) * 16) 16 = some q →
      entersWith (.vecQidx g w) 3 (.vecQidx ⟨f, bw, a, S 14, n, k, d, q, decide (fld w 25 24 = 1)⟩)
        (decide (fld w 25 24 = 1)) (S 9) (n * k))

/-- What an instruction of the arrays, the table builder or the drain faults with, precisely at issue, in the order of R203:
its operands, the capacity of its storage, the state of its slots, its addresses, and an unbound rounding stream. It then enters
no queue, and an address fault gives the address in CCR_EINFO (R86, R90, R94, R118, R133, R142, R149, R183, R237). -/
def Obligations.ArrayInstructionFaults : Prop :=
  ∀ (s : State) (g : Course) (w : BitVec 56), ((s.course g).v1 = true → w.getLsbD 43 = true → fld w 51 44 < 64) →
    (w.getLsbD 43 = false → fld w 51 44 = 0) →
    let c := s.course g
    let n := fld w 36 32 + 1
    let u := (s.fetch g).1
    let faults (i : Instr) (q : BitVec 4) (code : BitVec 16) : Prop := ∃ (v : State) (e : DWord),
      (v = u ∨ v = u.used) ∧ exec i s = .next (v.takeException g code q e)
    (Issues s g w [] false →
      (passOperands c w = none → faults (.msnPass g w) 0 0x0101) ∧
      ∀ o, passOperands c w = some o →
        (o.fits = false → faults (.msnPass g w) 0 0x0102) ∧
        (o.fits = true → c.arr.allOpen (slotMask o.slot o.t) = false → faults (.msnPass g w) 0 0x0302) ∧
        (o.fits = true → c.arr.allOpen (slotMask o.slot o.t) = true → (∀ a, s.slice g o.iscale 16 = some a → a % 16 ≠ 0) →
          Faults (.msnPass g w) s g 0x0101 0 (BitVec.ofNat 64 o.iscale))) ∧
    (Issues s g w [(20, 0)] false →
      (32 < fld w 41 37 + n → faults (.msnTile g w) 0 0x0303) ∧
      (fld w 41 37 + n ≤ 32 → w.getLsbD 21 = false → c.arr.progOpen &&& slotMask (fld w 41 37) n ≠ 0 →
        faults (.msnTile g w) 0 0x0302)) ∧
    (Issues s g w [(6, 0)] false →
      (buildOperands c w = none → faults (.tblBuild g w) 1 0x0201) ∧
      ∀ o, buildOperands c w = some o →
        (64 < o.drun + o.count → faults (.tblBuild g w) 1 0x0202) ∧
        (o.drun + o.count ≤ 64 → s.buildSource g o = none →
          Faults (.tblBuild g w) s g 0x0203 1 (BitVec.ofNat 64 o.addr))) ∧
    (Issues s g w [(4, 0)] false →
      (outFmtOf (fld w 31 29) = none ∨ 32 < fld w 41 37 + n ∨ 1 < fld w 28 27 ∨ 65536 ≤ (c.rs (fldS w 5)).toNat →
        faults (.drnOut g w) 5 0x0303)) ∧
    (Issues s g w [(31, 19), (9, 0)] false →
      (32 < fld w 41 37 + n ∨ (c.rs (fldS w 10)).toNat % 16 ≠ 0 → faults (.drnPartial g w) 5 0x0303) ∧
      (fld w 41 37 + n ≤ 32 → (c.rs (fldS w 10)).toNat % 2 ^ 32 % 16 = 0 → (c.rs (fldS w 10)).toNat / 2 ^ 32 % 16 = 0 →
        c.arr.allOpen (slotMask (fld w 41 37) n) = false → faults (.drnPartial g w) 5 0x0302))

/-! ### Events of the queues (R212, R213, R221, R225 to R229, R233, R234) -/

/-- The effect of an instruction's completion on the tallies (R221): V of its completion tally rises by 1 where TE is set, with P
where the instruction was poisoned, and nothing else. -/
def Sys2Proof.Machine.Tallied (c d : CourseState) (te poison : Bool) (n : Fin 256) : Prop :=
  (d.tallyVal n = if te then c.tallyVal n + 1 else c.tallyVal n) ∧ d.tallyPoi n = (c.tallyPoi n || (te && poison)) ∧
    ∀ m, m ≠ n → d.tallyVal m = c.tallyVal m ∧ d.tallyPoi m = c.tallyPoi m

/-- The stalled instruction enters its queue once that holds fewer than 64, and the controller goes on after it (R212); until then
nothing changes but that the stall counts cycles. -/
def Sys2Proof.Machine.stalledEnters : Prop :=
  ∀ (s : State) (g : Course) (q : QueueId) (e : QEntry),
    let c := s.course g
    s.courseRuns g = true → c.stalled = some (q, e) →
    ((c.queue q).entries.length < 64 → (∀ n x o, e.op ≠ .queueWait n x o) → c.stopReq = false → c.wait = none →
      Completes (.queueAppend g) s fun t =>
        (t.course g).stalled = none ∧ (t.course g).pc = s.after g ∧ (t.course g).ctl = c.ctl ∧
        (∃ k, ((t.course g).queue q).entries = (c.queue q).entries.drop k ++ [e]) ∧ (∀ i, (t.course g).rs i = c.rs i) ∧
        (∀ h, h ≠ g → t.course h = s.course h) ∧ t.mem = s.mem) ∧
    ((c.queue q).entries.length = 64 → Completes (.queueAppend g) s fun t => { t with ticking := s.ticking } = s)

/-- An instruction that is done and next in its queue's order leaves the started list, updates its completion tally, writes its
NOTIFY record, and returns its credits where they were drawn from the pool (R213, R221, R234, R473). -/
def Sys2Proof.Machine.instructionsComplete : Prop :=
  ∀ (s : State) (g : Course) (q : QueueId) (i : Started),
    let c := s.course g
    s.courseRuns g = true → (c.queue q).nextDone = some i → i.orphan = false → i.already = false → (i.e.ntf = true → c.watchesUsed < 64) →
    Completes (.instrComplete g q) s fun t =>
      let d := t.course g
      let r := requester g q
      Tallied c d i.e.te i.poison i.e.tally ∧
      (d.queue q).started = (c.queue q).started.filter (fun j => j.e.serial != i.e.serial) ∧
      (∃ more, d.records = c.records ++ (if i.e.ntf then [⟨i.e.pc, 1,
        (if i.e.te && d.tallyPoi i.e.tally then 2 else 0) + (if i.code ≠ 0 then 4 else 0),
        if i.e.te then BitVec.ofNat 8 i.e.tally.val else 0, BitVec.ofNat 8 q.val, i.code⟩] else []) ++ more) ∧
      (∀ n, i.src = .pool → i.credits = n → (t.cdie (courseCDie g)).inUse.toList.getD r 0 =
        (s.cdie (courseCDie g)).inUse.toList.getD r 0 - n) ∧
      (∀ h, h ≠ g → t.course h = s.course h) ∧ t.mem = s.mem ∧ t.msgs = s.msgs

/-- The oldest waiting record is written to the completion queue, where it is enabled and not full: 16 bytes at the entry of
CCR_CQ_TAIL, with SEQ the tail, and the tail moves on by 1; every other byte of memory stays (R233, R234). Where it is disabled
or full, nothing happens. -/
def Sys2Proof.Machine.recordsWritten : Prop :=
  ∀ (s : State) (g : Course) (r : CqRecord) (rs : List CqRecord),
    let c := s.course g
    let tail := s.reg (cr g 0x60)
    let size := 2 ^ (6 + (s.reg (cr g 0x58)).toNat / 4 % 16)
    let full : Prop := (tail - s.reg (cr g 0x5C)).toNat = size
    s.courseRuns g = true → c.records = r :: rs →
    (∀ a, (s.reg (cr g 0x58)).getLsbD 0 = true → ¬full → c.selfTests = [] →
      s.physOf (g.val / 8) ((s.reg64 (cr g 0x50)).toNat + 16 * (tail.toNat % size)) = some a → s.nearOk a 16 = true →
      Completes (.completionRecordWrite g) s fun t =>
        (t.course g).records = rs ∧ t.reg (cr g 0x60) = tail + 1 ∧
        (∀ b, t.byte b = if a ≤ b ∧ b < a + 16 then
          (leBytes 6 r.pc.toNat ++ [r.kind, r.flags] ++ leBytes 4 tail.toNat ++ [r.tally, r.queue] ++ leBytes 2 r.code.toNat).getD
            (b - a) 0 else s.byte b) ∧
        (∀ h, h ≠ g → t.course h = s.course h) ∧ ∀ n, (t.course g).tallyVal n = c.tallyVal n) ∧
    ((s.reg (cr g 0x58)).getLsbD 0 = false ∨ full → exec (.completionRecordWrite g) s = .next s)

/-- A controller wait that reaches its timeout ends with TIMEOUT in sD, and a tally wait or a fence leaves a watch (R226, R227);
with every watch in use the precise fault ISCON_WATCH_FULL is taken instead, its CCR_EINFO free (R228, log entry 11). A wait that
the head of a queue holds leaves its watch, and the queue halts after it (R229). -/
def Obligations.WaitsExpire : Prop :=
  (∀ (s : State) (g : Course) (d : Fin 32) (k : WaitKind) (x : WatchKind), s.courseRuns g = true →
    let u := s.settle g
    let c := u.course g
    c.wait = some ⟨d, k⟩ →
    ((∃ n v, k = .tally n v ∧ x = .tally n v) ∨ ∃ m l, k = .fence m l ∧ x = .fence m l) →
    (c.watchesUsed < 64 → Completes (.waitExpiry g) s fun t => (t.course g).wait = none ∧ (t.course g).pc = c.pc + 8 ∧
      (t.course g).rs d = (if d = 0 then 0 else 1) ∧ (∀ j, j ≠ d → (t.course g).rs j = c.rs j) ∧
      (t.course g).watches = c.watches ++ [⟨c.pc, x⟩] ∧ ∀ h, h ≠ g → t.course h = s.course h) ∧
    (64 ≤ c.watchesUsed → exec (.waitExpiry g) s = .next (u.used.takeException g 0x0507 0x8 u.fresh))) ∧
  (∀ (s : State) (g : Course) (d : Fin 32) (n a b : Nat), s.courseRuns g = true →
    let c := (s.settle g).course g
    c.wait = some ⟨d, .leave n a b⟩ → Completes (.waitExpiry g) s fun t => (t.course g).wait = none ∧
      (t.course g).pc = c.pc + 8 ∧ (t.course g).rs d = (if d = 0 then 0 else 1) ∧ (t.course g).watches = c.watches) ∧
  (∀ (s : State) (g : Course) (q : QueueId) (e : QEntry) (rest : List QEntry) (n : Fin 256) (v : Word) (once : Bool),
    s.courseRuns g = true →
    let u := s.settle g
    let c := u.course g
    (c.queue q).halt = .no → (c.queue q).entries = e :: rest → e.op = .queueWait n v once → c.watchesUsed < 64 →
    Completes (.queueWaitExpiry g q) s fun t => ((t.course g).queue q).halt = .qwait ∧ ((t.course g).queue q).entries = rest ∧
      (t.course g).watches = c.watches ++ [⟨e.pc, .qwait q n v⟩] ∧ (∀ h, h ≠ g → t.course h = s.course h) ∧
      ∃ r, (t.die (courseDie g)).presented = (u.die (courseDie g)).presented ++ [r] ∧ r.code = 0x0508 ∧ r.pc = e.pc)

/-! ### Commands of a course controller (R198, R221, R229, R231, R233, R243, R510, R585) -/

/-- An agent's access reaches the register at offset o of the device (R9, R39, R40, R553). -/
def Sys2Proof.Machine.Reaches (s : State) (a : Agent) (o : Nat) : Prop :=
  ∃ off, agentOff a o = some off ∧ s.regReach a off = .at o

/-- START, STOP and IBUF_INV: START takes a controller that is HALTED or FAULTED to RUNNING at CCR_START_PC, with the mode of
CCR_MODE from HALTED, and does nothing in another state; STOP halts a running controller and ends its wait, withdrawing a lock.acq, and with a stalled instruction it takes effect once that has entered its queue; IBUF_INV empties the
instruction buffer. Nothing outside the course changes (R198, R199, R241, R243, R585). -/
def Obligations.ControllerStartsAndStops : Prop :=
  ∀ (s : State) (a : Agent) (g : Course), Reaches s a (cr g 0) →
    let c := s.course g
    (c.ctl = .halted ∨ c.ctl = .faulted → exec (.ccrStart a g) s = .next (s.setCourse g { c with
      ctl := .running, nested := false, inTrap := false, wait := none, stalled := none, stopReq := false
      pc := (s.reg64 (cr g 8)).setWidth 48, v1 := if c.ctl = .halted then (s.reg (cr g 0x18)).getLsbD 0 else c.v1 })) ∧
    (c.ctl = .running ∨ c.ctl = .fenced → exec (.ccrStart a g) s = .next s) ∧
    (c.ctl = .running → c.stalled = none → (∀ d b n x, c.wait ≠ some ⟨d, .lock b n x⟩) →
      exec (.ccrStop a g) s = .next (s.setCourse g { c with ctl := .halted, wait := none })) ∧
    (∀ d b n x, c.ctl = .running → c.stalled = none → c.wait = some ⟨d, .lock b n x⟩ → Completes (.ccrStop a g) s fun t =>
      t.course g = { c with ctl := .halted, wait := none } ∧
      let m : Msg := ⟨.course g, .mem (stackOf b), .lockWithdraw b g ((s.reg (cr g 0x1C)).setWidth 16) x⟩
      (s.reachable m = true → t.msgs = s.msgs ++ [m])) ∧
    (c.ctl = .running → c.stalled ≠ none → exec (.ccrStop a g) s = .next (s.setCourse g { c with stopReq := true })) ∧
    (c.ctl ≠ .running → exec (.ccrStop a g) s = .next s) ∧
    (c.ctl ≠ .fenced → exec (.ibufInv a g) s = .next (s.setCourse g { c with ibuf := [] })) ∧
    (c.ctl = .fenced → exec (.ibufInv a g) s = .next s)

/-- Course reset (R231, R244): the controller is HALTED with PC, registers, predicates and tallies as after package reset, its
queues, watches, records, buffer, bindings and hold are empty, it has no ring, its streams are FREE without a program, CCR_EPOCH has moved on by 1 modulo 2^16,
CCR_MODE stays, the other courses and memory stay, and its locks are swept. A course whose controller pair has failed stays
FENCED (R511). -/
def Obligations.CourseResetClears : Prop :=
  ∀ (s : State) (a : Agent) (g : Course), Reaches s a (cr g 0) → Completes (.courseReset a g) s fun t =>
    let c := s.course g
    let d := t.course g
    d.ctl = (if c.ctl = .fenced ∧ c.ctrlFailed = true then .fenced else .halted) ∧ d.pc = 0 ∧ d.inTrap = false ∧
    d.nested = false ∧ (∀ i, d.rs i = 0) ∧ (∀ i, d.ra i = 0) ∧ (∀ i, d.rp i = decide (i = 0)) ∧
    (∀ n, d.tallyVal n = 0 ∧ d.tallyPoi n = false) ∧
    (∀ q, (d.queue q).entries = [] ∧ (d.queue q).halt = .no ∧ ∀ i ∈ (d.queue q).started, i.orphan = true) ∧
    d.wait = none ∧ d.stalled = none ∧ d.watches = [] ∧ d.records = [] ∧ d.ibuf = [] ∧ d.bindings = [] ∧ d.hold = none ∧
    d.ring = none ∧ (∀ n : StreamId, (d.stream n.val).st = .free ∧ (d.stream n.val).prog = []) ∧
    t.reg (cr g 0x1C) = BitVec.ofNat 32 (((s.reg (cr g 0x1C)).toNat + 1) % 2 ^ 16) ∧
    t.reg (cr g 0x18) = s.reg (cr g 0x18) ∧ (∀ h, h ≠ g → t.course h = s.course h) ∧ t.mem = s.mem

/-- FLUSH of a queue discards its entries while the controller does not run, and sets P of the completion tally of each that has
TE; RESUME restarts a halted queue, unless the course is FENCED; neither changes V of a tally, memory or another course
(R221, R229). -/
def Sys2Proof.Machine.flushAndResume : Prop :=
  ∀ (s : State) (a : Agent) (g : Course) (mask : BitVec 8) (q : QueueId), Reaches s a (cr g 0xA0) → mask.getLsbD q.val = true →
    let c := s.course g
    let y := c.queue q
    let frame (t : State) : Prop := (∀ n, (t.course g).tallyVal n = c.tallyVal n) ∧ (∀ h, h ≠ g → t.course h = s.course h) ∧
      t.mem = s.mem ∧ t.msgs = s.msgs
    (c.ctl ≠ .running → Completes (.queueFlush a g mask) s fun t => ((t.course g).queue q).entries = [] ∧
      (∀ e ∈ y.entries, e.te = true → (t.course g).tallyPoi e.tally = true) ∧ frame t) ∧
    (c.ctl ≠ .fenced → y.halt ≠ .no → (∀ e ∈ y.entries.head?, ∀ n x o, e.op ≠ .queueWait n x o) →
      Completes (.queueResume a g mask) s fun t => ((t.course g).queue q).halt = .no ∧
        ((t.course g).queue q).entries = y.entries ∧ frame t) ∧
    (c.ctl = .fenced → y.halt ≠ .no → Completes (.queueResume a g mask) s fun t => ((t.course g).queue q).halt = y.halt ∧
      ((t.course g).queue q).entries = y.entries ∧ frame t)

/-- CCR_TALLY_ADD adds its value to V of its tally and leaves P; a 1 written to CCR_TALLY_POISONk clears P of its tally, and
leaves every other tally's, and every V (R221, R243). -/
def Sys2Proof.Machine.tallyRegisters : Prop :=
  ∀ (s : State) (a : Agent) (g : Course),
    let c := s.course g
    (∀ v : Word, Reaches s a (cr g 0xC20) → Completes (.tallyAddReg a g v) s fun t => ∀ n : Fin 256,
      (t.course g).tallyVal n = (if n.val = v.toNat % 256 then c.tallyVal n + BitVec.ofNat 32 (v.toNat / 256) else c.tallyVal n) ∧
      (t.course g).tallyPoi n = c.tallyPoi n ∧ ∀ h, h ≠ g → t.course h = s.course h) ∧
    (∀ (k : Fin 8) (v : Word), Reaches s a (cr g (0xC00 + 4 * k.val)) → Completes (.tallyPoisonClear a g k v) s fun t =>
      ∀ n : Fin 256, (t.course g).tallyVal n = c.tallyVal n ∧
        (t.course g).tallyPoi n = (c.tallyPoi n && !(decide (n.val / 32 = k.val) && v.getLsbD (n.val % 32))) ∧
        ∀ h, h ≠ g → t.course h = s.course h)

/-- A write of CCR_CQ_CTRL with EN takes effect only with a base in backed near memory, aligned to the queue's bytes, and a
SIZE that is not reserved; otherwise EN stays 0 and BADBASE is set. Nothing else changes (R233). -/
def Sys2Proof.Machine.queueEnabled : Prop :=
  ∀ (s : State) (a : Agent) (g : Course) (v : Word), Reaches s a (cr g 0x58) →
    let base := (s.reg64 (cr g 0x50)).toNat
    let size := v.toNat / 4 % 16
    let bytes := 16 * 2 ^ (6 + size)
    let good : Prop := size ≤ 10 ∧ base % bytes = 0 ∧ ∃ p, s.physOf (g.val / 8) base = some p ∧ s.nearOk p bytes = true
    (good → exec (.cqEnable a g v) s = .next (s.setReg (cr g 0x58) ((v &&& 0x3F) ||| 1))) ∧
    (¬good → exec (.cqEnable a g v) s = .next (s.setReg (cr g 0x58) ((v &&& 0x3E) ||| 0x40)))

/-- A lockstep mismatch raises ISCON_LOCKSTEP; one that does not persist shows only as a counted retry; one that persists
declares the pair failed: the free partner adopts the course, which goes on, and without one the course is FENCED (R509, R510). -/
def Sys2Proof.Machine.lockstep : Prop :=
  ∀ (s : State) (g : Course),
    let c := s.course g
    let p := s.course (partner g)
    let free : Prop := p.adopted = false ∧ p.adopting = false ∧ p.ctl ≠ .fenced
    s.courseRuns g = true → c.ctrlFailed = false → c.ctl ≠ .fenced →
    (Completes (.lockstepMismatch g false) s fun t => (∀ h, t.course h = s.course h) ∧
      ((s.reg (cr g 0x3828)).getLsbD 0 = false → t.reg64 (cr g 0x3820) =
        BitVec.ofNat 64 (min ((s.reg64 (cr g 0x3820)).toNat + 1) (2 ^ 64 - 1))) ∧
      ∃ r, (t.die (courseDie g)).presented = (s.die (courseDie g)).presented ++ [r] ∧ r.code = 0x050B ∧ r.srcUnit = 0x0E) ∧
    (free → Completes (.lockstepMismatch g true) s fun t =>
      t.course g = { c with ctrlFailed := true, adopted := true } ∧ t.course (partner g) = { p with adopting := true } ∧
      ∀ h, h ≠ g → h ≠ partner g → t.course h = s.course h) ∧
    (¬free → Completes (.lockstepMismatch g true) s fun t => (t.course g).ctl = .fenced ∧ (t.course g).ctrlFailed = true ∧
      ∀ q, ((t.course g).queue q).entries = [])

/-- How instructions enter a queue that was full, and leave it as they complete (R212, R213, R221, R234, R473). -/
def Obligations.QueuesFillAndDrain : Prop := stalledEnters ∧ instructionsComplete

/-- The completion queue of a course: its enable (R233) and its records (R234). -/
def Obligations.CompletionQueueWorks : Prop := queueEnabled ∧ recordsWritten

/-- CCR_QCTRL, CCR_TALLY_ADD and CCR_TALLY_POISON (R221, R229, R243). -/
def Obligations.QueueAndTallyCommands : Prop := flushAndResume ∧ tallyRegisters

/-! ### The arrays, the table builder, the drain and the fine-work units (R98, R111, R116, R125, R126, R137 to R144, R148 to
R157, R186, R188, R213, R235, R473, R476, R502 to R507) -/

/-- Where courses and arrays are (R24, R25). Course k of compute die d is course 8d + k, whose 1 MiB of registers begin at
d × 0x400_0000 + 0x10_0000 × (k + 1) of BAR0. Logical array j of a course is the physical array with j healthy ones below it, for
at most 8 logical arrays, so that with none failed logical array j is physical array j. The arrays counted are those in `mapped`,
which are the healthy ones until a third has failed (log entry 89). -/
def Obligations.CoursesAndArraysMap : Prop :=
  (∀ (d : CDie) (k : Fin 8), (courseOf d k).val = 8 * d.val + k.val ∧
    ∀ o, o < 0x100000 → locate (d.val * 0x4000000 + 0x100000 * (k.val + 1) + o) = some (.course (courseOf d k), o)) ∧
  (∀ a : ArrayState,
    a.logical = min 8 ((List.range 9).countP fun p => a.mapped.getLsbD p) ∧
    (∀ j, j < a.logical → a.mapped.getLsbD (a.phys j) = true ∧ (List.range (a.phys j)).countP (fun p => a.mapped.getLsbD p) = j) ∧
    (a.mapped = 0x1FF#9 → a.logical = 8 ∧ ∀ j, j < 8 → a.phys j = j)) ∧
  (∀ g : Course, (State.reset.course g).arr.mapped = 0x1FF#9 ∧ (State.reset.course g).arr.healthy = 0x1FF#9)

/-- One contribution to a cell (R137 to R139): within the window the accumulator takes c × 2^(E_c - E_ref + 40), exactly and
modulo 2^96; below it, the bits shifted out are dropped toward minus infinity and set UNDERFLOW; above it, or poisoned, the cell
is poisoned. RES stays the accumulator modulo 7 where it was, with a contribution's RES its c modulo 7 (R155). -/
def Obligations.CellsAccumulateExactly : Prop :=
  ∀ (k : Cell) (eref : Int) (x : Contrib), k.res = res7 k.a.toInt → x.res = res7 x.c →
    let s := x.e - eref + 40
    let d := k.contribute eref x
    d.res = res7 d.a.toInt ∧
    (x.poison = true → d = { k with poison := true }) ∧
    (x.poison = false → x.c = 0 → d = k) ∧
    (x.poison = false → x.c ≠ 0 → 48 < s → d = { k with window := true, poison := true }) ∧
    (x.poison = false → 0 ≤ s → s ≤ 48 →
      d = { k with a := k.a + BitVec.ofInt 96 (x.c * 2 ^ s.toNat), res := d.res }) ∧
    (x.poison = false → s < 0 →
      d = { k with a := k.a + BitVec.ofInt 96 (x.c / 2 ^ (-s).toNat), res := d.res
                   underflow := k.underflow || decide (x.c % 2 ^ (-s).toNat ≠ 0) })

/-- The instruction at the head of a queue that starts leaves it and joins the started ones with its credits (R213, R235). -/
def Sys2Proof.Machine.Begun (s t : State) (g : Course) (q : QueueId) (e : QEntry) (rest : List QEntry) (n : Nat) (src : CreditSrc)
    (done : Bool) : Prop :=
  (∃ k, ((t.course g).queue q).entries = rest.drop k) ∧
  ((t.course g).queue q).started =
    ((s.course g).queue q).started ++ [⟨e, n, src, false, 0, false, done, false, 0, false, false, false, false⟩] ∧
  ∀ h, h ≠ g → t.course h = s.course h

/-- An engine takes the head of its queue (R186, R212, R213, R235, R476): an instruction that needs no leave, or whose grant is
there, starts with its credits; one that needs leave and has none presents its request, and raises POWER_NEED where its die
never has so many credits (R474). A vector instruction computes as it starts, and an fwu.mm starts as the unit that serves its die
takes it into a holding with space for it (R186). -/
def Obligations.InstructionsStart : Prop :=
  ∀ (s : State) (g : Course) (q : QueueId) (e : QEntry) (rest : List QEntry),
    let c := s.course g
    let y := c.queue q
    s.courseRuns g = true → c.frozen q = false → y.halt = .no → y.entries = e :: rest → (∀ i ∈ y.started, i.e.serial ≠ e.serial) →
    (s.accepts g e = true → c.arr.repoint = .none →
      (∀ n src, (q = 0 ∨ q = 1 ∨ q = 5) → c.need e.op ≠ 0 → y.granted = some (n, src) →
        ((∃ o, e.op = .msnPass o) ∨ (∃ o, e.op = .tblBuild o)) →
        Completes (.engineInstrStart g q none) s fun t => Begun s t g q e rest n src false) ∧
      (q = 5 → (∃ o, e.op = .drain o) → Completes (.engineInstrStart g q none) s fun t => Begun s t g q e rest 0 .none false) ∧
      (∀ f d a b x n, q = 3 → e.op = .vecEl f d a b x n →
        Completes (.engineInstrStart g q none) s fun t => Begun s t g q e rest 0 .none true ∧
          t.mem = (s.runVecEl f d a b x n).mem) ∧
      (c.need e.op ≠ 0 → y.granted = none → c.hold = none → y.waitStamp = none →
        (c.need e.op ≤ s.dieCredits (courseCDie g) → Completes (.engineInstrStart g q none) s fun t =>
          ((t.course g).queue q).waitStamp = some s.stamp ∧ ((t.course g).queue q).entries = y.entries ∧
          ((t.course g).queue q).started = y.started) ∧
        (s.dieCredits (courseCDie g) < c.need e.op → Completes (.engineInstrStart g q none) s fun t =>
          ((t.course g).queue q).halt = .powerNeed ∧ ((t.course g).queue q).entries = y.entries ∧
          ∃ r, (t.die (courseDie g)).presented = (s.die (courseDie g)).presented ++ [r] ∧ r.code = 0x0E02 ∧ r.pc = e.pc))) ∧
    (∀ u o, q = 4 → e.op = .fwuMm o → s.unitOf (courseCDie g) = some u → s.dieRuns (cdieDie u) = true →
      (s.cdie u).fwuHeld.length + (if (s.cdie u).fwuRun.any fun f => f.granted.isNone then 1 else 0) < 16 →
      Completes (.fwuAccept g) s fun t => Begun s t g q e rest 0 .none false ∧
        (t.cdie u).fwuHeld = (s.cdie u).fwuHeld ++ [⟨g, e.serial, s.stamp, 0, 0, 0, none⟩])

/-- A pass block enters the arrays once the runs it reads are READY, its slots are free and its rows are there (R98, R125, R129,
R144): its steps reach every logical array, and the pass has entered one block more. A pass whose runs hold another kind faults MASON_KIND and does
nothing more but consume its rows (R87). The steps of an array are added in order, each to its slot's active tile (R137), and each
once the array before has added it (R28). A pass
whose remaining blocks are all to be skipped returns the credits of its arrays (R473). -/
def Obligations.PassesRun : Prop :=
  ∀ (s : State) (g : Course),
    let c := s.course g
    let a := c.arr
    s.courseRuns g = true → a.repoint = .none →
    (∀ i o rows, c.entering = some (i, o) → i.killed = false → i.lead = false → c.slotsFree i.e.serial o = true →
      (i.prog = 0 → a.kindOk o i.e.serial = true) → i.e.zadvEn = false → c.runsReady i.e.serial o i.prog = true →
      c.rowsAt i.e.serial (i.prog * o.rowsPer) o.rowsPer = some rows → (∀ j, a.tokens j = []) →
      Completes (.passBlockEnter g []) s fun t =>
        (∃ x, (t.course g).findStarted 0 i.e.serial = some x ∧ x.prog = i.prog + 1) ∧
        (∀ j, j < a.logical → (t.course g).arr.tokens j = blockTokens i.e.serial o i.prog rows
          (s.blockScales g o (o.scaleNums i.prog)) (o.skips i.e.skipEn rows)) ∧
        (∀ h, h ≠ g → t.course h = s.course h) ∧ t.mem = s.mem) ∧
    (∀ i o, c.entering = some (i, o) → i.killed = false → i.prog = 0 → i.lead = false → a.kindOk o i.e.serial = false → i.already = false →
      c.findStarted 0 i.e.serial = some i →
      Completes (.passBlockEnter g []) s fun t =>
        (∃ x, (t.course g).findStarted 0 i.e.serial = some x ∧ x.killed = true ∧ x.poison = true) ∧ (t.course g).arr = a ∧
        ∃ r, (t.die (courseDie g)).presented = (s.die (courseDie g)).presented ++ [r] ∧ r.code = 0x0103 ∧ r.pc = i.e.pc) ∧
    (∀ (j : Fin 8) n o b k rows scales skip pz rest tile,
      let y : Cycle := ⟨o, b, k, rows, scales⟩
      a.tokens j.val = .step n o b k rows scales skip pz :: rest → j.val < a.logical → a.chainAhead j.val = true →
      c.drainAhead j.val y.slot n = false →
      (∀ r, r < 16 → ∀ l ∈ y.lineNos, (a.line (a.phys j.val) r l).ok = true) →
      SMap.find a.active (32 * j.val + y.slot) = some tile → (∀ m p q e d, rest.head? ≠ some (.openTile m p q e d)) →
      Completes (.accumulationStep g j) s fun t => (t.course g).arr.tokens j.val = rest ∧
        (∃ u, SMap.find (t.course g).arr.active (32 * j.val + y.slot) = some u ∧ u.eref = tile.eref ∧
          ∀ m : Fin 256, u.cells.get m = y.cell a (a.phys j.val) tile.eref skip pz (tile.cells.get m) m.val) ∧
        (∀ h, h ≠ g → t.course h = s.course h) ∧ t.mem = s.mem) ∧
    (∀ (j : Fin 8) n o b k rows scales skip pz rest r l,
      let y : Cycle := ⟨o, b, k, rows, scales⟩
      a.tokens j.val = .step n o b k rows scales skip pz :: rest → a.chainAhead j.val = true → c.drainAhead j.val y.slot n = false →
      r < 16 → l ∈ y.lineNos →
      (a.line (a.phys j.val) r l).ok = false → exec (.accumulationStep g j) s = .next (s.arrayFault g j.val 0x0106)) ∧
    (∀ i o, i.orphan = false → i.restart = false → i.earlyReturned = false → a.logical + 4 ≤ i.credits → i.e.op = .msnPass o →
      c.restSkips i o = true → a.unskippedGone i.e.serial = true → (c.queue 0).started.head? = some i → Completes (.creditEarlyReturn g) s fun t =>
        (∃ x, (t.course g).findStarted 0 i.e.serial = some x ∧ x.earlyReturned = true) ∧
        (i.src = .pool → (t.cdie (courseCDie g)).inUse.toList.getD (requester g 0) 0 =
          (s.cdie (courseCDie g)).inUse.toList.getD (requester g 0) 0 - a.logical))

/-- Faults of the arrays (R115, R156, R502 to R507). A residue visit that finds every cell in order only counts its comparisons;
one that finds a cell whose RES differs faults the array. Every array that reports in one cycle fails. With 8 healthy arrays left
the course stops them and repoints, repeating its window; with 7 left the array queues halt, with fewer the course is FENCED, and
still holds 7 arrays. Replay then begins, unless the test of the arrays now in service finds another that has failed, and ends
with REL_REPOINTED naming the array once nothing is left to repeat. -/
def Obligations.ArraysRepoint : Prop :=
  ∀ (s : State) (g : Course),
    let c := s.course g
    let a := c.arr
    s.courseRuns g = true →
    (∀ slot : Fin 32, (∀ j, j < a.logical → ∀ t, SMap.find a.active (32 * j + slot.val) = some t → t.mismatch = false) →
      Completes (.residueCheckVisit g slot []) s fun t => (∀ h, t.course h = s.course h) ∧ t.mem = s.mem ∧ t.dies = s.dies ∧
        t.regs = s.regs) ∧
    (∀ (slot : Fin 32) (j : Fin 8), j.val < a.logical → (SMap.find a.active (32 * j.val + slot.val)).isSome = true →
      (∀ k, k < a.logical → k ≠ j.val → ∀ t, SMap.find a.active (32 * k + slot.val) = some t → t.mismatch = false) →
      ∃ n, exec (.residueCheckVisit g slot [j]) s = .next ((s.countC g 0x132C 0x1320 n).arrayFault g j.val 0x0104)) ∧
    (∀ (j : Nat) (code : BitVec 16) (more : List (Nat × BitVec 16)), (∀ r ∈ (j, code) :: more, r.1 < a.logical) → c.ctl ≠ .fenced →
      let reports := (j, code) :: more
      let d := (s.arrayReports g reports).course g
      let left := ((List.range 9).filter fun i => d.arr.healthy.getLsbD i).length
      (∀ p, d.arr.healthy.getLsbD p = (a.healthy.getLsbD p && !reports.any fun r => a.phys r.1 == p)) ∧
      (8 ≤ left → d.arr.repoint = .stopped (a.phys j) ∧ d.arr.active = [] ∧ d.arr.shadow = []) ∧
      (left = 7 → ∀ q ∈ [0, 1, 5], (d.queue q).halt = .arraysReduced) ∧ (left < 7 → d.ctl = .fenced) ∧
      (7 ≤ a.logical → 7 ≤ d.arr.logical) ∧ (a.mapped = a.healthy → 7 ≤ left → d.arr.mapped = d.arr.healthy)) ∧
    (∀ p, a.repoint = .stopped p →
      exec (.replayBegin (g, [])) s = .next (s.setCourse g { c with arr := { a with repoint := .replaying p } }) ∧
      ∀ j : Fin 8, j.val < a.logical → exec (.replayBegin (g, [j])) s =
        .next ((s.raiseRel (courseDie g) 0x0F09 (g.val % 8) none).arraysLost g [j.val])) ∧
    (∀ p, p < 9 → a.repoint = .replaying p → c.replayDone = true → Completes (.replayEnd g) s fun t =>
      (t.course g).arr.repoint = .none ∧ (t.course g).queues = c.queues ∧
      ∃ r more, (t.die (courseDie g)).presented = (s.die (courseDie g)).presented ++ r :: more ∧ r.code = 0x0F03 ∧
        r.info.toNat % 256 = p)

/-- Tables, slots and drains. A run that a build writes becomes READY in every row of every logical array (R116, R118, R126), a
failed check takes a half of the builder out of service instead (R123). A slot swaps its active tile into an EMPTY shadow
set once its earlier work is done (R143, R144). A drain reads, converts and writes one row (R148, R149, R152); a cell whose RES
differs faults the array (R156); the drain is done once every logical array has drained it. A fine-work unit computes
D = A × B + C for its granted instruction, tile by tile (R188, R191). -/
def Obligations.TablesSwapsAndDrains : Prop :=
  ∀ (s : State) (g : Course),
    let c := s.course g
    let a := c.arr
    s.courseRuns g = true → a.repoint = .none →
    (∀ i o, c.building = some (i, o) → c.mayWrite i o = true → a.half0 = true ∨ a.half1 = true → o.expand = false →
      o.drun + i.prog < 64 →
      Completes (.tblRunWritten g none) s fun t =>
        let k := o.drun + i.prog
        let b := (t.course g).arr
        b.run k = ⟨some (o.tag i.e.serial), (a.run k).pend.filter fun x => x.serial != i.e.serial⟩ ∧
        (∀ j r x, j < a.logical → r < 16 → x < 16 → b.line (a.phys j) r (16 * k + x) =
          (fillRun ((o.pairsIn i.prog).flatMap fun z => s.directLines o a.logical (16 * j + r) z)).getD x ⟨0, 0, 0, 0, 0⟩) ∧
        (∀ h, h ≠ g → t.course h = s.course h) ∧ t.mem = s.mem) ∧
    (∀ i o (half : Fin 2), c.building = some (i, o) → c.mayWrite i o = true → (o.kind = .subset ∨ o.kind = .signed) →
      (if half = 0 then a.half0 else a.half1) = true → Completes (.tblRunWritten g (some half)) s fun t =>
        (if half = 0 then (t.course g).arr.half0 else (t.course g).arr.half1) = false ∧ (t.course g).arr.tables = a.tables ∧
        (t.course g).arr.runs = a.runs) ∧
    (∀ (j : Fin 8) (slot : Fin 32) i tile, c.nextSwap j.val slot.val = some i → j.val < a.logical →
      SMap.find a.shadow (32 * j.val + slot.val) = none → c.slotBusy j.val slot.val i.e.serial = false →
      SMap.find a.active (32 * j.val + slot.val) = some tile → Completes (.slotSwap g j slot) s fun t =>
        SMap.find (t.course g).arr.shadow (32 * j.val + slot.val) = some ⟨tile, i.e.serial, false⟩ ∧
        (t.course g).arr.swaps = a.swaps ++ [(i.e.serial, j.val, slot.val)] ∧ (∀ h, h ≠ g → t.course h = s.course h)) ∧
    (∀ (j : Fin 8) i d p held sh, j.val < a.logical → c.draining j.val = some (i, d, p, held) →
      let u := (d.place p).1
      let r := (d.place p).2
      SMap.find a.shadow (32 * j.val + (d.slot + u)) = some sh → sh.drain = i.e.serial → sh.lost = false →
      ((∀ k ∈ sh.tile.row r, k.res = res7 k.a.toInt) → d.paired = false →
        Completes (.drainRowRead g j false) s fun t =>
          let bs := d.rowOut i.e g u j.val r (sh.tile.row r) sh.tile.eref
          let o := d.dstOf u j.val r
          (∀ b, t.byte b = if o ≤ b ∧ b < o + bs.length then bs.getD (b - o) 0 else s.byte b) ∧
          (∀ h, h ≠ g → t.course h = s.course h)) ∧
      ((∀ k ∈ sh.tile.row r, k.res = res7 k.a.toInt) → d.paired = true → p % 2 = 0 →
        Completes (.drainRowRead g j false) s fun t => t.mem = s.mem ∧ ∀ h, h ≠ g → t.course h = s.course h) ∧
      (∀ x, (∀ k ∈ sh.tile.row r, k.res = res7 k.a.toInt) → d.paired = true → p % 2 = 1 → held = some x →
        Completes (.drainRowRead g j false) s fun t =>
          let bs := d.pairOut i.e g (u / 2) j.val r x (sh.tile.row r, sh.tile.eref)
          let o := d.dstOf (u / 2) j.val r
          (∀ b, t.byte b = if o ≤ b ∧ b < o + bs.length then bs.getD (b - o) 0 else s.byte b) ∧
          (∀ h, h ≠ g → t.course h = s.course h)) ∧
      (∃ n, exec (.drainRowRead g j true) s = .next ((s.countC g 0x132C 0x1320 n).arrayFault g j.val 0x0104))) ∧
    (∀ i, (c.queue 5).started.find? (fun i => !i.done && !i.orphan && !i.restart) = some i →
      (∀ j, j < a.logical → (i.e.serial, j) ∈ a.drained) → Completes (.drainComplete g) s fun t =>
        (∃ x, (t.course g).findStarted 5 i.e.serial = some x ∧ x.done = true) ∧ t.mem = s.mem) ∧
    (∀ (u : CDie) f o n src i, s.dieRuns (cdieDie u) = true → (s.cdie u).fwuOk = true → (s.cdie u).fwuRun = some f →
      f.granted = some (n, src) → (s.course f.g).findStarted 4 f.serial = some i → i.e.op = .fwuMm o →
      ((s.cdie (rowPartner u)).fwuOk = true ∨ (s.cdie (rowPartner u)).fwuHeld = []) → Completes (.fwuMmRun u []) s fun t =>
        (t.cdie u).fwuRun = none ∧ (t.cdie u).fwuHeld = (s.cdie u).fwuHeld ∧
        (∃ x, (t.course f.g).findStarted 4 f.serial = some x ∧ x.done = true) ∧
        t.mem = ((List.range (o.tiles - f.tile)).foldl (fun v k => v.runTile o (f.tile + k)) s).mem) ∧
    (∀ (o : MmOp) k, o.bf16Out = false → 4 * o.n ≤ o.ldd →
      let r := o.tileRows k
      let l := o.tileCols k
      ∀ p q b, p < r.2 → q < l.2 → b < 4 → (s.runTile o k).byte (o.d + (r.1 + p) * o.ldd + 4 * (l.1 + q) + b) =
        BitVec.ofNat 8 (s.fwElem o (r.1 + p) (l.1 + q) / 256 ^ b))

/-! ### Stream engines (R247, R251 to R265, R270 to R279, R293 to R301) -/

/-- The oldest message for a destination is the one considered (R21): nothing before it in the fabric is for that destination. -/
def Sys2Proof.Machine.Oldest (s : State) (m : Msg) (rest : List Msg) : Prop :=
  ∃ before after, s.msgs = before ++ m :: after ∧ rest = before ++ after ∧ ∀ x ∈ before, x.dst ≠ m.dst

/-- A report of `code` from unit `unit` is the one thing presented to die d. -/
def Sys2Proof.Machine.Presents (s t : State) (d : Die) (code : BitVec 16) (unit : Byte) : Prop :=
  ∃ r, (t.die d).presented = (s.die d).presented ++ [r] ∧ r.code = code ∧ r.srcUnit = unit

/-- The stream commands of a course's registers: RELEASE and RESUME of STR_CMD (R263, R274, R281), the TLB and its table base
(R270, R271), the split of the bandwidth (R264) and the transfers outstanding (R265). -/
def Obligations.StreamCommands : Prop :=
  ∀ (s : State) (a : Agent) (g : Course),
    let c := s.course g
    (∀ n : StreamId, Reaches s a (cr g 0x201C) →
      let x := c.stream n.val
      (∀ d, x.st ≠ .free → x.desc = some d → Completes (.strCmdRelease a g n) s fun t =>
        ((t.course g).stream n.val).st = .free ∧ ((t.course g).stream n.val).desc = none ∧
        ((t.course g).stream n.val).inflight.length = x.inflight.length ∧
        (∀ m : Fin 256, (t.course g).tallyVal m = c.tallyVal m ∧ (t.course g).tallyPoi m = (c.tallyPoi m ||
          (d.een && decide (x.st ≠ .parked) && decide (x.st ≠ .done) && decide (m = d.etally)))) ∧
        (∀ h, h ≠ g → t.course h = s.course h) ∧ t.mem = s.mem) ∧
      (x.st = .free → exec (.strCmdRelease a g n) s = .next s) ∧
      (∀ d, x.st = .halted → x.desc = some d → d.walk = false → d.kind.isFeed = true →
        Completes (.strCmdResume a g n) s fun t => (t.course g).stream n.val = { x with st := .active, cause := .none } ∧
          (∀ h, h ≠ g → t.course h = s.course h) ∧ t.mem = s.mem) ∧
      (∀ d far near len p, x.st = .halted → x.desc = some d → d.walk = false → d.kind.isFeed = false →
        x.next g = some (far, near, len) → (s.resolve g d far len).2 = .ok p → Completes (.strCmdResume a g n) s fun t =>
          (t.course g).stream n.val = { x with st := .active, cause := .none } ∧ t.mem = s.mem) ∧
      (x.st ≠ .halted → exec (.strCmdResume a g n) s = .next s)) ∧
    (∀ v, Reaches s a (cr g 0x2018) →
      exec (.tlbInvalidate a g v) s = .next (s.setCourse g { c with str := { c.str with tlb := [] } })) ∧
    (∀ v : DWord, Reaches s a (cr g 0x2010) → Reaches s a (cr g 0x2014) → Completes (.ptBaseWrite a g v) s fun t =>
      t.reg64 (cr g 0x2010) = (s.reg64 (cr g 0x2010) &&& ~~~0xFFFFFFE00001) ||| (v &&& 0xFFFFFFE00001) ∧
      t.course g = { c with str := { c.str with tlb := [] } } ∧ (∀ h, h ≠ g → t.course h = s.course h) ∧ t.regs = s.regs ∧
      t.mem = s.mem) ∧
    (∀ v : Word, Reaches s a (cr g 0x2004) →
      let p (i : Nat) : Nat := v.toNat / 16 ^ i % 16
      let good : Prop := s.quiesced g = true ∧ (∀ i, i < 3 → 1 ≤ p i ∧ p i ≤ 14) ∧ p 0 + p 1 + p 2 = 16
      (good → exec (.bwSplitWrite a g v) s = .next (s.setReg (cr g 0x2004) (v &&& 0xFFF))) ∧
      (¬good → exec (.bwSplitWrite a g v) s = .next (s.setReg (cr g 0x2048) (s.reg (cr g 0x2048) ||| 1)))) ∧
    (∀ v : Word, Reaches s a (cr g 0x2008) →
      let p (i : Nat) : Nat := v.toNat / 1024 ^ i % 1024
      let good : Prop := s.parted = false ∧ ∀ i, i < 3 → 1 ≤ p i ∧ p i ≤ 512
      (good → exec (.outstandingWrite a g v) s = .next (s.setReg (cr g 0x2008) (v &&& 0x3FFFFFFF))) ∧
      (¬good → exec (.outstandingWrite a g v) s = .next s))

/-- A stream with a transfer to form and room for it forms it: address, length and place move on (R251, R252, R265); one whose far
address does not resolve halts with its cause (R272). The oldest transfer completes: a LOAD of clean near memory writes its bytes
to the slice, the pass gains them, and they are counted (R255, R261, R281). Ring credit reaches its stream, ends its check, and,
where the stream waits no longer, its waiting episode (R253, R277, R278). -/
def Obligations.TransfersFormAndComplete : Prop :=
  ∀ (s : State) (g : Course) (n : StreamId),
    let c := s.course g
    let x := c.stream n.val
    (∀ d far near len, s.courseRuns g = true → x.st = .active → c.str.frozenDl = false → x.desc = some d → d.walk = false → d.kind.isFeed = false →
      x.spent = false → x.next g = some (far, near, len) → len ≠ 0 → d.phys = true →
      (∀ p, (s.resolve g d far len).2 = .ok p → p < hostBase → c.outstanding (shareOf g d p) < s.window g (shareOf g d p) →
        Completes (.transferForm g (.stream n)) s fun t => (t.course g).stream n.val =
            x.form ⟨p, near, len, shareOf g d p, decide (d.kind = .store), false, []⟩ ∧
          (∀ h, h ≠ g → t.course h = s.course h) ∧ t.mem = s.mem ∧ t.msgs = s.msgs) ∧
      (∀ e, (s.resolve g d far len).2 = .error e → c.v1 = false → Completes (.transferForm g (.stream n)) s fun t =>
        ((t.course g).stream n.val).st = .halted ∧ ((t.course g).stream n.val).cause = e ∧ t.mem = s.mem ∧
        (t.course g).ctl = c.ctl)) ∧
    (∀ tr rest d, s.dieRuns (courseDie g) = true → x.inflight = tr :: rest → tr.store = false → tr.stale = false → tr.share < 3 → x.desc = some d →
      d.nring = false → d.fring = false →
      tr.far + tr.len ≤ nearEnd → s.nearOk tr.far tr.len = true → inSlice g tr.near tr.len = true → 1 ≤ tr.len →
      s.dirty tr.far tr.len = false →
      Completes (.transferComplete g n) s fun t =>
        (∀ b, t.byte b = if tr.near ≤ b ∧ b < tr.near + tr.len then s.byte (tr.far + (b - tr.near)) else s.byte b) ∧
        (∀ h, h ≠ g → t.course h = s.course h)) ∧
    (∀ tr rest, s.dieRuns (courseDie g) = true → x.inflight = tr :: rest → tr.stale = true → tr.share = 3 →
      exec (.transferComplete g n) s = .next (s.modStream g n.val fun x => { x with inflight := rest })) ∧
    (∀ src frm len rest, Oldest s ⟨.course src, .course g, .ringCredit n frm len⟩ rest → Completes (.ringCredit g n) s fun t =>
      (t.course g).stream n.val = { x.credited src.val frm.val len with
        stallReported := x.stallReported && (x.credited src.val frm.val len).creditWait } ∧
      (∀ p ∈ (t.course g).str.probes, p.head ≠ n.val) ∧ t.msgs = rest ∧ (∀ h, h ≠ g → t.course h = s.course h) ∧ t.mem = s.mem)

/-- Stalls and deadlocks (R276 to R279). A stream that waits on credit past the limit sends a probe; a demand that no ACTIVE stream
serves is reported as a stall. A probe that meets a stream which waits on nobody ends; one that comes back to its head has found a
deadlock, whose streams become DEADLOCKED and whose courses stop; any other goes on along the credit owners. -/
def Sys2Proof.Machine.stallsAndDeadlocks : Prop :=
  ∀ (s : State) (g : Course),
    let c := s.course g
    s.courseRuns g = true →
    (s.stallOn g = true →
      (∀ n : StreamId, (c.stream n.val).creditWait = true → Completes (.stallLimitExpiry g (.stream n)) s fun t =>
        (∃ ps, (t.course g).str.probes = ps ++ [⟨n.val, []⟩] ∧ ∀ p ∈ ps, p.head ≠ n.val) ∧
        (∀ h, h ≠ g → t.course h = s.course h) ∧ t.dies = s.dies ∧ t.regs = s.regs) ∧
      (∀ d, c.rowDemand = some d → c.str.rowStall ≠ some d → Completes (.stallLimitExpiry g .rows) s fun t =>
        (t.course g).str.rowStall = some d ∧ Presents s t (courseDie g) 0x0607 0x06 ∧
        t.reg (cr g 0x2048) = s.reg (cr g 0x2048) ||| 2) ∧
      (∀ d, c.buildDemand = some d → c.str.buildStall ≠ some d → Completes (.stallLimitExpiry g .build) s fun t =>
        (t.course g).str.buildStall = some d ∧ Presents s t (courseDie g) 0x0607 0x06)) ∧
    (∀ w, s.stallOn g = false → exec (.stallLimitExpiry g w) s = .next s) ∧
    (∀ p rest, c.str.probes = p :: rest →
      let o := (s.streamOf (p.path.getLastD (g.val, p.head))).owner
      (o = none → p.path = [] → Completes (.deadlockProbeHop g) s fun t => (t.course g).str.probes = rest ∧ t.dies = s.dies) ∧
      (∀ q, o = some q → q ≠ (g.val, p.head) → p.path.length < 7 → Completes (.deadlockProbeHop g) s fun t =>
        (t.course g).str.probes = { p with path := p.path ++ [q] } :: rest ∧ t.dies = s.dies) ∧
      (o = some (g.val, p.head) → p.head < 2048 → (∀ q ∈ p.path, q.1 < 32) → Completes (.deadlockProbeHop g) s fun t =>
        (∀ q ∈ (g.val, p.head) :: p.path, ((t.course (courseAt q.1)).stream q.2).st = .deadlocked ∧
          (t.course (courseAt q.1)).str.frozenDl = true ∧ ((s.course (courseAt q.1)).stalled = none →
            (t.course (courseAt q.1)).ctl ≠ .running)) ∧ t.mem = s.mem))

/-- The index expander takes its next step on its first pass (R293, R297, R300, R301): bytes of a RAW pass, or a decoded block,
are released as they are, while the expander has room for a row (R129, log entry 105); a damaged unit is reported under its code and
releases as many bytes marked with it. None is read while msn.parity runs (R449). -/
def Sys2Proof.Machine.expandersRelease : Prop :=
  ∀ (s : State) (g : Course) (p : FeedPass) (ps : List FeedPass),
    let e := (s.course g).idx
    s.courseRuns g = true → (s.course g).parityRuns = false → e.passes = p :: ps → e.bytes.length < 4096 →
    (∀ k out, p.step = .good k out → Completes (.bamongBlockDecoded g false) s fun t =>
      (t.course g).idx = ⟨e.bytes ++ out.map (fun b => (b, 0)), { p with inp := p.inp.drop k, rest := 0 } :: ps⟩ ∧ t.mem = s.mem ∧
      t.dies = s.dies) ∧
    (∀ k line, p.step = .raw k 0 line → Completes (.bamongBlockDecoded g false) s fun t =>
      (t.course g).idx = ⟨e.bytes ++ (p.inp.take k).map (fun b => (b.b, 0)), { p with
        inp := p.inp.drop k, rest := 0, noted := if p.noted = some line then some line else none } :: ps⟩ ∧
      t.mem = s.mem ∧ t.dies = s.dies) ∧
    (∀ k len code, p.step = .bad k len code → Completes (.bamongBlockDecoded g false) s fun t =>
      (∃ out, (t.course g).idx = ⟨e.bytes ++ out, { p with inp := p.inp.drop k, rest := 0 } :: ps⟩ ∧ out.length = len ∧
        ∀ b ∈ out, b.2 = code) ∧ Presents s t (courseDie g) code 0x04 ∧ t.mem = s.mem) ∧
    (p.step = .finish → exec (.bamongBlockDecoded g false) s =
      .next (s.modCourse g fun c => { c with idx := { c.idx with passes := ps } })) ∧
    (p.step = .wait → exec (.bamongBlockDecoded g false) s = .next s)

/-- Stalls, deadlocks and the index expander (R276 to R279, R293, R297, R300, R301). -/
def Obligations.StreamsStallAndExpand : Prop := stallsAndDeadlocks ∧ expandersRelease

/-! ### Near memory, locks and far memory (R309 to R343, R479) -/

/-- Only the near-memory block of stack k, the reports of its die, registers and free values have changed. -/
def Sys2Proof.Machine.OnlyMemBlock (s t : State) : Prop :=
  t.courses = s.courses ∧ t.mem = s.mem ∧ t.msgs = s.msgs ∧ t.fars = s.fars ∧ t.nets = s.nets ∧ t.host = s.host

/-- Lines of near memory (R314 to R317): a write of all 64 bytes of a line replaces it and clears its poison; a partial one leaves a
poisoned line poisoned; poisoned data poisons every line it writes. A read or a patrol visit that finds a line uncorrectable
poisons it, reports it with its address and captures it, once; a corrected error is counted, with no report. An address that
is not backed is untouched, and the patrol visits nothing before boot step 8 has written every line. -/
def Sys2Proof.Machine.linesOfNearMemory : Prop :=
  ∀ (s : State) (k : Stack) (line : Fin 1073741824),
    let a := k.val * 0x1000000000 + 64 * line.val
    let found (c : Instr) (p : Nat) : Prop := Completes c s fun t => OnlyMemBlock s t ∧
        (∀ b, t.poisoned b = if a ≤ b ∧ b < a + 64 then true else s.poisoned b) ∧
        (∃ r, (t.die (stackDie k)).presented = (s.die (stackDie k)).presented ++ [r] ∧ r.code = 0x0802 ∧ r.srcUnit = 0x0A ∧
          r.info = BitVec.ofNat 64 a) ∧
        ((s.reg (mr k 0x88)).getLsbD 31 = false → t.reg (mr k 0x88) = BitVec.ofNat 32 (0x80000000 + p) ∧
          t.reg64 (mr k 0x80) = BitVec.ofNat 64 a)
    s.dieRuns (stackDie k) = true → s.lineBacked k line.val = true →
    (∀ bs e, bs.length = 64 → Completes (.memAccess k line (some (0, bs, false)) e none) s fun t =>
      (∀ b, t.byte b = if a ≤ b ∧ b < a + 64 then bs.getD (b - a) 0 else s.byte b) ∧
      (∀ b, t.poisoned b = if a ≤ b ∧ b < a + 64 then false else s.poisoned b) ∧ t.courses = s.courses ∧ t.dies = s.dies) ∧
    (∀ (o : Fin 64) bs, o.val + bs.length ≤ 64 → bs.length < 64 →
      Completes (.memAccess k line (some (o, bs, false)) .ok none) s fun t =>
        (∀ b, t.byte b = if a + o.val ≤ b ∧ b < a + o.val + bs.length then bs.getD (b - (a + o.val)) 0 else s.byte b) ∧
        t.memPoison = s.memPoison ∧ t.courses = s.courses ∧ t.dies = s.dies) ∧
    (∀ (o : Fin 64) bs, o.val + bs.length ≤ 64 → 1 ≤ bs.length →
      Completes (.memAccess k line (some (o, bs, true)) .ok none) s fun t =>
        (∀ b, t.byte b = if a + o.val ≤ b ∧ b < a + o.val + bs.length then bs.getD (b - (a + o.val)) 0 else s.byte b) ∧
        (∀ b, t.poisoned b = if a ≤ b ∧ b < a + 64 then true else s.poisoned b)) ∧
    (s.poisoned a = false → found (.memAccess k line none .uncorrectable none) 0 ∧
        (9 ≤ (s.reg (pr 0)).toNat % 16 → found (.patrolVisit k line .uncorrectable false) 1)) ∧
    (s.poisoned a = true → exec (.memAccess k line none .uncorrectable none) s = .next s ∧
      (9 ≤ (s.reg (pr 0)).toNat % 16 → exec (.patrolVisit k line .uncorrectable false) s = .next s)) ∧
    ((s.reg (pr 0)).toNat % 16 < 9 → ∀ e b, exec (.patrolVisit k line e b) s = .next s) ∧
    (∀ c : Fin 32, s.holdsLine k c (64 * line.val) = true →
      ((s.memc k).corrected.filter fun e => e.1 == c.val).length < (s.reg (mr k 0xC)).toNat →
      Completes (.memAccess k line none (.corrected c) none) s fun t => OnlyMemBlock s t ∧ t.dies = s.dies ∧
        t.memPoison = s.memPoison ∧ (c.val, line.val) ∈ (t.memc k).corrected ∧
        ((s.reg (mr k 0x68)).getLsbD 0 = false → t.reg64 (mr k 0x38) =
          BitVec.ofNat 64 (min ((s.reg64 (mr k 0x38)).toNat + 1) (2 ^ 64 - 1))))

/-- A write of MEM_RETIRE_CTRL with GO begins the retirement that is pending, and its end retires the channel, raises
MEM_RETIRED and begins the next failing channel's (R319 to R321). -/
def Sys2Proof.Machine.channelsRetire : Prop :=
  ∀ (s : State) (k : Stack) (c : Fin 32), s.dieRuns (stackDie k) = true →
    (∀ a v, Reaches s a (mr k 4) → (s.memc k).cur = some (c, false) → Completes (.retireGo a k v) s fun t => OnlyMemBlock s t ∧
      (t.memc k).cur = some (c, true) ∧ (t.memc k).removed = (s.memc k).removed + 1 ∧ t.reg (mr k 4) = v &&& 1 ∧
      t.dies = s.dies) ∧
    ((s.memc k).cur = some (c, true) → (s.memc k).failing = [] → Completes (.retireMigrationDone k) s fun t => OnlyMemBlock s t ∧
      (t.memc k).cur = none ∧ t.reg (mr k 0) = s.reg (mr k 0) ||| BitVec.ofNat 32 (2 ^ c.val) ∧
      Presents s t (stackDie k) 0x0803 0x0A) ∧
    (∀ d ds, (s.memc k).cur = some (c, true) → (s.memc k).failing = d :: ds → (s.reg (mr k 4)).getLsbD 0 = false →
      Completes (.retireMigrationDone k) s fun t => (t.memc k).cur = some (d, false) ∧ (t.memc k).failing = ds)

/-- Near memory (R314 to R318): its lines, and the retirement of channels. -/
def Obligations.NearMemoryLines : Prop := linesOfNearMemory ∧ channelsRetire

/-- The outcome of lock.acq request `id` at controller k: where the course waits for it, and the route to the course is up (R516), its
wait ends with the status, and it goes on; the outcome of another request leaves its wait. -/
def Sys2Proof.Machine.Outcome (s t : State) (k : Stack) (g : Course) (id status : Nat) : Prop :=
  (∀ d b n, (s.course g).wait = some ⟨d, .lock b n id⟩ → s.linked (.mem k) (.course g) = true → (t.course g).wait = none ∧
    (t.course g).pc = (s.course g).pc + 8 ∧ (t.course g).rs d = if d = 0 then 0 else BitVec.ofNat 64 status) ∧
  (∀ d b n i, (s.course g).wait = some ⟨d, .lock b n i⟩ → i ≠ id → t.course g = s.course g) ∧ ∀ h, h ≠ g → t.course h = s.course h

/-- The lock table (R328 to R333): a request that overlaps a TORN entry ends BROKEN; one that overlaps a HELD entry or an earlier
waiting request, or finds no FREE entry, waits; any other makes a HELD entry and ends with EVENT. A waiting request is granted
once its region is free, and withdrawn with TIMEOUT at its time. A release frees the entry of its BASE, owner and epoch, or
raises MEM_LOCK_NOT_HELD. -/
def Obligations.LocksGrantAndRelease : Prop :=
  ∀ (s : State) (k : Stack) (r : LockReq) (rest : List Msg),
    s.dieRuns (stackDie k) = true →
    let m := s.memc k
    let held (t : State) : Prop := ∃ i, SMap.get m.locks i none = none ∧
      SMap.get (t.memc k).locks i none = some ⟨r.base, r.len, r.owner, r.epoch, r.id, none⟩ ∧
      ∀ j, j ≠ i → SMap.get (t.memc k).locks j none = SMap.get m.locks j none
    (∀ src, Oldest s ⟨src, .mem k, .lockReq r⟩ rest →
      (m.lockTest m.waiters r = .grant → m.locks.length < 1024 → (∀ e ∈ m.locks, e.1 < 1024) →
        Completes (.lockRequestArrive k) s fun t =>
          held t ∧ (t.memc k).waiters = m.waiters ∧ Outcome s t k r.owner r.id 0 ∧ t.msgs = rest ∧ t.mem = s.mem) ∧
      (m.lockTest m.waiters r = .broken → Completes (.lockRequestArrive k) s fun t => t.mems = s.mems ∧
        Outcome s t k r.owner r.id 3 ∧ t.msgs = rest) ∧
      (m.lockTest m.waiters r = .wait → r.once = false → Completes (.lockRequestArrive k) s fun t =>
        (t.memc k).waiters = m.waiters ++ [r] ∧ (t.memc k).locks = m.locks ∧ t.courses = s.courses ∧ t.msgs = rest) ∧
      (m.lockTest m.waiters r = .wait → r.once = true → Completes (.lockRequestArrive k) s fun t => t.mems = s.mems ∧
        Outcome s t k r.owner r.id 1 ∧ t.msgs = rest)) ∧
    (m.lockTest m.waiters r = .broken ↔ ∃ e ∈ m.locks, ∃ l, e.2 = some l ∧ l.torn ≠ none ∧ l.base < r.base + r.len ∧
      r.base < l.base + l.len) ∧
    (∀ ahead behind, m.waiters = ahead ++ r :: behind →
      m.lockTest ahead r = .grant → m.locks.length < 1024 → (∀ e ∈ m.locks, e.1 < 1024) →
      ((∀ x y, ahead = x ++ y → ∀ q z, y = q :: z → m.lockTest x q ≠ .grant) → Completes (.lockGrant k) s fun t =>
        held t ∧ (t.memc k).waiters = ahead ++ behind ∧ Outcome s t k r.owner r.id 0 ∧ t.mem = s.mem)) ∧
    (∀ ahead behind, m.waiters = ahead ++ r :: behind → (∀ q ∈ ahead, q.owner ≠ r.owner) → m.lockTest ahead r ≠ .grant →
      Completes (.lockWaitTimeout k r.owner) s fun t => (∀ q ∈ (t.memc k).waiters, q.owner ≠ r.owner) ∧
        (t.memc k).locks = m.locks ∧ Outcome s t k r.owner r.id 1 ∧ t.mem = s.mem) ∧
    (∀ src g base epoch, Oldest s ⟨src, .mem k, .lockRel base g epoch⟩ rest →
      (∀ i l, m.locks = [(i, some l)] → l.base = base → l.owner = g → l.epoch = epoch → l.torn = none →
        Completes (.lockRelArrive k) s fun t => SMap.get (t.memc k).locks i none = none ∧ t.dies = s.dies ∧ t.msgs = rest ∧
          t.courses = s.courses) ∧
      ((∀ e ∈ m.locks, ∀ l, e.2 = some l → ¬(l.base = base ∧ l.owner = g ∧ l.epoch = epoch ∧ l.torn = none)) →
        Completes (.lockRelArrive k) s fun t => t.mems = s.mems ∧ Presents s t (stackDie k) 0x0806 0x0A ∧ t.msgs = rest))

/-- Holds end (R330 to R332): an entry whose lease has run out, and every entry of a course that is reset or stops, becomes TORN with
its cause; overlapping waiters end BROKEN; the entry becomes FREE once software clears it. A running course renews its holds. -/
def Obligations.LocksBreakAndClear : Prop :=
  ∀ (s : State) (k : Stack), s.dieRuns (stackDie k) = true →
    let m := s.memc k
    (∀ (i : Fin 1024) n l, SMap.get m.locks i.val none = some l → l.torn = none → m.waiters = [] →
      (s.reg (mr k 0x10)).toNat * 1024 ≤ n → Completes (.lockLeaseExpiry k i n) s fun t =>
        SMap.get (t.memc k).locks i.val none = some { l with torn := some .lease } ∧ t.courses = s.courses ∧
        Presents s t (stackDie k) 0x0805 0x0A ∧ t.mem = s.mem) ∧
    (∀ (i : Fin 1024) n, n < (s.reg (mr k 0x10)).toNat * 1024 → exec (.lockLeaseExpiry k i n) s = .next s) ∧
    (∀ src (g : Course) rest i l, m.locks = [(i, some l)] → l.torn = none → m.waiters = [] → l.owner = g →
      (Oldest s ⟨src, .mem k, .breakNotice g⟩ rest → Completes (.lockBreakNotice k) s fun t =>
        SMap.get (t.memc k).locks i none = some { l with torn := some .fault } ∧ t.msgs = rest) ∧
      (Oldest s ⟨src, .mem k, .resetSweep g⟩ rest → Completes (.lockResetSweep k) s fun t =>
        SMap.get (t.memc k).locks i none = some { l with torn := some .reset } ∧ t.msgs = rest)) ∧
    (∀ src (g : Course) rest, (∀ e ∈ m.locks, ∀ l, e.2 = some l → l.owner ≠ g) →
      Oldest s ⟨src, .mem k, .breakNotice g⟩ rest → exec (.lockBreakNotice k) s = .next { s with msgs := rest }) ∧
    (∀ a (v : Word) l, Reaches s a (mr k 0x30) → SMap.get m.locks (v.toNat % 1024) none = some l →
      (l.torn ≠ none → Completes (.tornClear a k v) s fun t => SMap.get (t.memc k).locks (v.toNat % 1024) none = none ∧
        OnlyMemBlock s t ∧ t.dies = s.dies ∧ t.regs = s.regs) ∧
      (l.torn = none → exec (.tornClear a k v) s = .next s)) ∧
    (∀ src (g : Course) rest, Oldest s ⟨src, .mem k, .renewal g⟩ rest →
      exec (.lockRenewalArrive k) s = .next { s with msgs := rest }) ∧
    (∀ g : Course, s.courseRuns g = true → (s.course g).ctl = .running ∨ (s.course g).ctl = .halted → (∀ j, j ≠ k → (s.memc j).locks = []) →
      (∃ e ∈ m.locks, ∃ l, e.2 = some l ∧ l.owner = g ∧ l.torn = none) → s.reachable ⟨.course g, .mem k, .renewal g⟩ = true →
      exec (.lockRenewalSend g) s = .next { s with msgs := s.msgs ++ [⟨.course g, .mem k, .renewal g⟩] }) ∧
    (∀ g : Course, (s.course g).ctl = .faulted ∨ (s.course g).ctl = .fenced → exec (.lockRenewalSend g) s = .next s)

/-- Far memory (R334 to R339, R343): a write of a line in no enabled region gives the device those bytes, and a partial one keeps
the others; a poisoned line that is read raises FAR_POISON_READ and is counted. A lane that fails drops a x16 link to x8 on its half
without failed lanes, raising FAR_LINK_DEGRADED, and failures in both halves, or the loss of the device, lose the link, whose window is
then unbacked, and a write in flight is dropped and counted (R335; log entry 114). ERASE empties a key slot; LOAD of a key that unwraps to two equal halves, or does not unwrap, fails with the slot
empty. A region that overlaps an enabled one is refused and flagged. -/
def Obligations.FarMemoryWorks : Prop :=
  ∀ (s : State) (l : LinkId), s.dieRuns (linkDie l) = true →
    let f := s.farc l
    (∀ line : Fin 8589934592,
      let n := (farBase + l.val * 0x8000000000) / 64 + line.val
      s.farOk (64 * n) 64 = true → s.farUp l = true → s.farMode l (64 * n) = .plain →
      (∀ (o : Fin 64) bs p, o.val + bs.length ≤ 64 → Completes (.farAccess l line (some (o, bs, p)) false false) s fun t =>
        (∀ i, i < 64 → ((t.farc l).media64 n).getD i 0 =
          if o.val ≤ i ∧ i < o.val + bs.length then bs.getD (i - o.val) 0 else (f.media64 n).getD i 0) ∧
        SMap.get (t.farc l).poison n false = (p || (decide (bs.length < 64) && SMap.get f.poison n false)) ∧
        (∀ j, j ≠ l → t.farc j = s.farc j) ∧ t.dies = s.dies ∧ t.mem = s.mem ∧ t.courses = s.courses) ∧
      (SMap.get f.poison n false = true → Completes (.farAccess l line none false false) s fun t => t.fars = s.fars ∧
        Presents s t (linkDie l) 0x0903 0x0F ∧ t.mem = s.mem) ∧
      (SMap.get f.poison n false = false → exec (.farAccess l line none false false) s = .next s)) ∧
    (∀ (line : Fin 8589934592) d, s.farUp l = false →
      exec (.farAccess l line (some d) false false) s = .next (s.count (fr l 0) 0x20 0x18 1)) ∧
    (∀ lane : Fin 16, s.farUp l = true → f.bad = 0 → s.linkWidth l = 16 → Completes (.cxlLaneFail l lane) s fun t =>
      (t.farc l).bad = 1#16 <<< lane.val ∧ t.linkWidth l = 8 ∧ t.farUp l = true ∧ Presents s t (linkDie l) 0x0901 0x0F ∧
      t.mem = s.mem ∧ t.courses = s.courses) ∧
    (∀ lane : Fin 16, s.farUp l = true → f.bad.getLsbD lane.val = false →
      ((∃ i, i < 8 ∧ f.bad.getLsbD i = true) ∧ 8 ≤ lane.val ∨ (∃ i, 8 ≤ i ∧ f.bad.getLsbD i = true) ∧ lane.val < 8) →
      Completes (.cxlLaneFail l lane) s fun t => t.farUp l = false ∧ t.reg64 (fr l 8) = 0 ∧
        Presents s t (linkDie l) 0x0902 0x0F) ∧
    (s.farUp l = true → Completes (.cxlLinkLoss l) s fun t => t.farUp l = false ∧ t.reg64 (fr l 8) = 0 ∧ t.fars = s.fars ∧
      Presents s t (linkDie l) 0x0902 0x0F ∧ t.mem = s.mem ∧ t.courses = s.courses) ∧
    (s.farUp l = false → exec (.cxlLinkLoss l) s = .next s) ∧
    (∀ a (v : Word), Reaches s a (fr l 0x148) →
      let slot : Fin 16 := ⟨v.toNat % 16, by omega⟩
      Completes (.farKeyErase a l v) s (fun t => (t.farc l).keys = f.keys.set slot none ∧ t.regs = s.regs ∧ t.mem = s.mem) ∧
      (∀ key, s.unwrapKey (s.regBytes (fr l 0x100) 18) = some key → key.take 32 ≠ key.drop 32 →
        Completes (.farKeyLoad a l v) s fun t => (t.farc l).keys = f.keys.set slot (some ⟨key, v.getLsbD 4⟩) ∧
          t.regs = s.regs ∧ t.mem = s.mem) ∧
      ((∀ key, s.unwrapKey (s.regBytes (fr l 0x100) 18) = some key → key.take 32 = key.drop 32) →
        Completes (.farKeyLoad a l v) s fun t => (t.farc l).keys = f.keys.set slot none ∧ t.reg (fr l 0x14C) = s.reg (fr l 0x14C) ||| 0x80000000 ∧ t.mem = s.mem)) ∧
    (∀ a (i : Fin 16) (v : Word), Reaches s a (fr l (0x210 + 0x20 * i.val)) →
      let o := fr l (0x210 + 0x20 * i.val)
      (s.farConflict l i = false → Completes (.farRegionEnable a l i v) s fun t => t.reg o = (v &&& 0xF6) ||| 1 ∧
        (t.reg (fr l 0)).getLsbD 8 = false ∧ t.fars = s.fars ∧ t.mem = s.mem) ∧
      (s.farConflict l i = true → Completes (.farRegionEnable a l i v) s fun t => t.reg o = v &&& 0xF6 ∧
        (t.reg (fr l 0)).getLsbD 8 = true ∧ t.fars = s.fars ∧ t.mem = s.mem))

/-! ### Reductions (R68, R323 to R326, R377 to R395, R412 to R415, R484) -/

/-- One addition to an accumulation block (R68, R378): a block of another exponent, or of exponent 0xFF, poisons every lane and
leaves EXP; else an unpoisoned lane gains V_i exactly, EXP is set by the first, and POISON is gathered. COUNT and OVERRANGE
saturate, and COUNT past 65,536 sets COUNT_EXCEEDED. -/
def Sys2Proof.Machine.blocksAdd : Prop :=
  ∀ (b : Rab) (w : Bw),
    let d := rabAdd b w
    let other : Prop := w.exp = 0xFF ∨ (1 ≤ b.count ∧ w.exp ≠ b.exp)
    d.count = min (b.count + 1) 0xFFFFFFFF ∧ d.overrange = min (b.overrange + w.overrange) 0xFFFFFFFF ∧
    d.exceeded = (b.exceeded || decide (65536 < b.count + 1)) ∧
    (other → d.exp = b.exp ∧ ∀ i, i < 64 → d.poison.testBit i = true ∧ d.lanes.getD i 0 = 0) ∧
    (¬other → d.exp = (if b.count = 0 then w.exp else b.exp) ∧ ∀ i, i < 64 → w.vals.length = 64 →
      (d.poison.testBit i = (b.poison.testBit i || decide (w.vals.getD i none = none))) ∧
      (d.poison.testBit i = true → d.lanes.getD i 0 = 0) ∧
      (∀ v, b.poison.testBit i = false → w.vals.getD i none = some v → b.exceeded = false → b.count < 65536 →
        -(2 ^ 47) ≤ b.lanes.getD i 0 + v → b.lanes.getD i 0 + v < 2 ^ 47 → d.lanes.getD i 0 = b.lanes.getD i 0 + v))

/-- Requests at a controller (R323 to R326, R384, R484): a request that fails a check of R325 is answered with the first's code and
changes no memory; any other waits. A phase whose vote stands grants a free port to the waiting source of the highest input number
(requests for one block keep their order, log entry 84). A granted port adds its block in one step, unless an earlier port holds the same block, and answers with 0. -/
def Sys2Proof.Machine.requestsAdded : Prop :=
  ∀ (s : State) (k : Stack) (r : RaReq), s.dieRuns (stackDie k) = true →
    let m := s.memc k
    let a := r.addr
    let bad : Option (BitVec 16) :=
      if a % 32 ≠ 0 ∨ stackOf a ≠ k ∨ s.nearOk a 416 = false then some 0x0807
      else if 3 ≤ byteAt r.blk 1 then some 0x0808
      else if s.tornAt a 416 = true then some 0x0809
      else if s.anyPoison a 416 = true then some 0x080A else none
    let answer (g : Course) (n : Nat) (code : BitVec 16) : Msg := ⟨.mem k, .course g, .raOutcome g n code⟩
    (∀ src rest, Oldest s ⟨src, .mem k, .raReq r⟩ rest →
      (bad = none → exec (.raRequestArrive k) s = .next { ({ s with msgs := rest }.modMem k fun m =>
        { m with raQueue := m.raQueue ++ [(r, s.stamp, 0)] }) with stamp := s.stamp + 1 }) ∧
      (∀ code g n, bad = some code → r.origin = .instr g n → Completes (.raRequestArrive k) s fun t =>
        t.mems = s.mems ∧ t.mem = s.mem ∧ t.courses = s.courses ∧
        (∃ x, (t.die (stackDie k)).presented = (s.die (stackDie k)).presented ++ [x] ∧ x.code = code ∧ x.srcUnit = 0x0A ∧
          x.info = BitVec.ofNat 64 a) ∧
        (s.reachable (answer g n code) = true → t.msgs = rest ++ [answer g n code]))) ∧
    (∀ st ph, m.arb.latched = none → m.arb.kept = [] → r.src < 16 →
      (∀ i j, i < 16 → j < 16 → mapNum m.arb.force i = mapNum m.arb.force j → i = j) →
      (m.raQueue = [(r, st, ph)] → m.raPorts.length < 4 → Completes (.adderArbPhase (k, none)) s fun t =>
        (t.memc k).raPorts = m.raPorts ++ [r] ∧ (t.memc k).raQueue = [] ∧ t.mem = s.mem ∧ t.courses = s.courses ∧
        t.msgs = s.msgs ∧ t.dies = s.dies) ∧
      (m.raQueue = [(r, st, ph)] → 4 ≤ m.raPorts.length → Completes (.adderArbPhase (k, none)) s fun t =>
        (t.memc k).raPorts = m.raPorts ∧ (t.memc k).raQueue = [(r, st, ph + 1)] ∧ t.mem = s.mem ∧ t.courses = s.courses) ∧
      (∀ q st' ph', m.raQueue = [(r, st, ph), (q, st', ph')] → st ≠ st' → q.addr ≠ a → q.src < 16 →
        mapNum m.arb.force r.src < mapNum m.arb.force q.src → m.raPorts.length = 3 → Completes (.adderArbPhase (k, none)) s fun t =>
          (t.memc k).raPorts = m.raPorts ++ [q] ∧ (t.memc k).raQueue = [(r, st, ph + 1)] ∧ t.mem = s.mem)) ∧
    (∀ port : Fin 4, m.raPorts[port.val]? = some r →
      let old := if r.init then rabZero else rabRead (s.bytes a 416)
      let bs := rabWrite (rabAdd old (bwRead r.blk))
      ((∀ q ∈ m.raPorts.take port.val, q.addr ≠ a) → Completes (.raAdd k port) s fun t =>
        (∀ b, t.byte b = if a ≤ b ∧ b < a + bs.length then bs.getD (b - a) 0 else s.byte b) ∧
        (t.memc k).raPorts = m.raPorts.eraseIdx port.val ∧ (t.memc k).raQueue = m.raQueue ∧
        ((s.reg (mr k 0x68)).getLsbD 0 = false → t.reg64 (mr k 0x48) =
          BitVec.ofNat 64 (min ((s.reg64 (mr k 0x48)).toNat + 1) (2 ^ 64 - 1))) ∧
        ∀ g n, r.origin = .instr g n → t.courses = s.courses ∧
          (s.reachable (answer g n 0) = true → t.msgs = s.msgs ++ [answer g n 0])) ∧
      ((∃ q ∈ m.raPorts.take port.val, q.addr = a) → exec (.raAdd k port) s = .next s))

/-- MAXCLR of a course and of a controller sets its largest magnitude to 0, and nothing else (R377, R399). -/
def Sys2Proof.Machine.maximaClear : Prop :=
  ∀ (s : State) (a : Agent),
    (∀ g : Course, Reaches s a (cr g 0x300C) → exec (.maxclr a g) s = .next (s.setReg (cr g 0x3008) 0)) ∧
    (∀ k : Stack, Reaches s a (mr k 0x2008) → exec (.mcMaxclr a k) s = .next (s.setReg (mr k 0x2004) 0))

/-- Remote additions and the registers of their largest magnitudes (R68, R323 to R326, R377, R378). -/
def Obligations.RemoteAdditions : Prop := blocksAdd ∧ requestsAdded ∧ maximaClear

/-- The transfers of a red.send or red.accum (R382 to R386): up to 29 blocks leave as one transfer, each to the controller of its
block in this package, or in one message to another member, while the remote share has room for it (R247). Each outcome is counted,
and the last ends the instruction; a refused one poisons it, once. A notice adds 1 to its tally, and poisons it where a block was refused. -/
def Obligations.ReductionTransfers : Prop :=
  ∀ (s : State) (g : Course),
    let c := s.course g
    (∀ (j : RedJob) (js : List RedJob), c.jobs = j :: js → (∀ i ∈ js, i.serial ≠ j.serial) →
      let left := min 29 (j.blocks - j.formed)
      let sent (n : Nat) : RedJob := { j with formed := j.formed + n, lens := j.lens ++
        ((List.range n).map fun i => (s.slotBlock (j.src + 280 * (j.formed + i))).length) }
      (s.courseRuns g = true → c.str.frozenDl = false → j.formed < j.blocks → c.outstanding 2 < s.window g 2 →
        (∀ at_ : Nat → Nat, j.peer = none →
          (∀ i, i < left → s.physOf (g.val / 8) (j.dst + 416 * (j.formed + i)) = some (at_ i) ∧ at_ i < nearEnd) →
          let msg (i : Nat) : Msg := ⟨.course g, .mem (stackOf (at_ i)), .raReq ⟨raSource g (stackOf (at_ i)), at_ i,
            s.slotBlock (j.src + 280 * (j.formed + i)), j.init, .instr g j.serial⟩⟩
          (∀ i, i < left → s.reachable (msg i) = true) → Completes (.transferForm g .red) s fun t =>
            t.msgs = s.msgs ++ (List.range left).map msg ∧
            (t.course g).jobs = sent left :: js ∧ t.mem = s.mem ∧
            ∀ h, h ≠ g → t.course h = s.course h) ∧
        (∀ rank, j.peer = some rank →
          let slots := (List.range left).map fun i => j.src + 280 * (j.formed + i)
          let bs := fitting (s.maxMessage (s.partOf g) j.group rank - 36) (slots.map s.slotBlock)
          exec (.transferForm g .red) s = .next ((s.setCourse g { c with jobs := sent bs.length :: js }).netMessage (.course g)
              (s.partOf g) j.group rank 0x01 (requestTag g j.serial) (leBytes 6 j.dst ++ leBytes 1 (j.ncourse + (if j.nen then 128 else 0)) ++
                leBytes 1 j.ntally.val ++ leBytes 4 j.blocks ++ leBytes 4 j.formed ++ leBytes 1 bs.length ++ leBytes 3 0 ++
                bs.flatten) (.red g j.serial) (.slots (slots.take bs.length))))) ∧
      let done (r : Bool) : RedJob := { j with returned := j.returned + 1, refused := r, lens := j.lens.tail }
      (∀ src h rest, s.dieRuns (courseDie g) = true → Oldest s ⟨src, .course g, .raOutcome h j.serial 0⟩ rest →
        (j.returned + 1 < j.blocks → Completes (.raOutcomeArrive g) s fun t =>
          t.course g = { c with jobs := done j.refused :: js } ∧ t.msgs = rest ∧ t.mem = s.mem ∧
          t.dies = s.dies ∧ ∀ x, x ≠ g → t.course x = s.course x) ∧
        (∀ i, j.returned + 1 = j.blocks → j.kind = .accum → c.findStarted 6 j.serial = some i →
          Completes (.raOutcomeArrive g) s fun t => (t.course g).jobs = js ∧ t.msgs = rest ∧ t.mem = s.mem ∧
            ∃ x, (t.course g).findStarted 6 j.serial = some x ∧ x.done = true ∧ x.poison = i.poison)) ∧
      (∀ src h rest code i, s.dieRuns (courseDie g) = true → Oldest s ⟨src, .course g, .raOutcome h j.serial code⟩ rest → code ≠ 0 → j.refused = false →
        j.returned + 1 < j.blocks → c.findStarted 6 j.serial = some i → Completes (.raOutcomeArrive g) s fun t =>
          (t.course g).jobs = done true :: js ∧ t.msgs = rest ∧ t.mem = s.mem ∧
          (∃ x, (t.course g).findStarted 6 j.serial = some x ∧ x.poison = true ∧ x.done = i.done) ∧
          Presents s t (courseDie g) 0x0B03 0x06)) ∧
    (∀ src rest n refused, Oldest s ⟨src, .course g, .notice n refused⟩ rest → Completes (.redNoticeArrive g) s fun t =>
      (t.course g).tallyVal n = c.tallyVal n + 1 ∧ (t.course g).tallyPoi n = (c.tallyPoi n || refused) ∧
      (∀ m, m ≠ n → (t.course g).tallyVal m = c.tallyVal m ∧ (t.course g).tallyPoi m = c.tallyPoi m) ∧ t.msgs = rest ∧
      (∀ h, h ≠ g → t.course h = s.course h) ∧ t.mem = s.mem)

/-- The message at the head of an engine's inbox, the only one of its type. -/
def Sys2Proof.Machine.InInbox (s : State) (x : IoDie) (m : RxMsg) (rest : List RxMsg) (mtype : Nat) : Prop :=
  (s.net x).inbox = m :: rest ∧ byteAt m.bytes 0 = mtype

/-- Course g alone runs a ring, and a message of partition and group agrees with it (R392). -/
def Sys2Proof.Machine.RingOf (s : State) (g : Course) (r : Ring) (m : RxMsg) (from_ : Nat) : Prop :=
  (s.course g).ring = some r ∧ (∀ h, h ≠ g → (s.course h).ring = none) ∧ s.inPart m.part g.val = true ∧ r.group = rxGroup m ∧
    r.rseq = rxTag m ∧ rxRank m = from_

/-- A red.ring (R390 to R395, R412, R415). Its next packs or copies leave in one message to the next member, while the remote
share has room for it (R247, R265). READY from that member
starts the sends. A part that matches its step is added block by block; a copy that matches replaces its blocks; a message of no
running ring is discarded and counted. An outcome is taken off those that are out, and the ring ends when none is; the wait's
expiry ends it with RED_RING_TIMEOUT. RA_BLOCKS of another member becomes one request for each block. -/
def Obligations.RingsRun : Prop :=
  ∀ (s : State) (x : IoDie) (m : RxMsg) (rest : List RxMsg),
    let got : State := s.modNet x fun n => { n with inbox := rest }
    s.dieRuns (ioDie x) = true →
    (∀ (g : Course) (r : Ring), s.courseRuns g = true → (s.course g).ring = some r → r.wait = .chunk → (s.course g).str.frozenDl = false →
      r.sent < r.size r.sendChunk → (s.course g).outstanding 2 < s.window g 2 →
      let b := r.lo r.sendChunk + r.sent
      let room := s.maxMessage (s.partOf g) r.group r.next - 28
      let head (n : Nat) : List Byte := leBytes 2 r.tag ++ leBytes 2 r.pos ++ leBytes 4 b ++ leBytes 1 n ++ leBytes 3 0
      let leaves (u : State) (mtype : Nat) (bs : List (List Byte)) (src : MsgSrc) : State :=
        ((u.modRing g fun r => { r with sent := r.sent + bs.length, acks := r.acks + bs.length, flight := r.flight + 1
                                        lens := r.lens ++ bs.map (·.length) }).netMessage (.course g) (s.partOf g) r.group r.next mtype
          r.rseq (head bs.length ++ bs.flatten) (.ring g r.serial) src).ringAdvance g 4
      (r.gather = true → ∃ (bs : List (List Byte)) (src : MsgSrc),
        bs.length = min (min 19 (r.size r.sendChunk - r.sent)) (room / 416) ∧
        (∀ i a, i < bs.length → s.ringAddr g r (b + i) = some a → bs.getD i [] = s.copiedBlock a) ∧
        exec (.transferForm g .ring) s = .next (leaves s 0x05 bs src)) ∧
      (r.gather = false → ∃ (bs : List (List Byte)) (u : State) (src : MsgSrc),
        bs.length ≤ min 29 (r.size r.sendChunk - r.sent) ∧ (bs.map (·.length)).sum ≤ room ∧ u.mem = s.mem ∧ u.msgs = s.msgs ∧
        (∀ i a, i < bs.length → s.ringAddr g r (b + i) = some a →
          bs.getD i [] = (s.packedBlock a (r.marked.contains (b + i))).1) ∧
        exec (.transferForm g .ring) s = .next (leaves u 0x04 bs src))) ∧
    (∀ g r, InInbox s x m rest 0x03 → RingOf s g r m r.next → natAt m.bytes 16 2 = (r.pos + 1) % r.r → r.readySeen = false →
      (r.wait = .initAdds → Completes (.ringReady x) s fun t => (t.course g).ring = some { r with readySeen := true } ∧
        (t.net x).inbox = rest ∧ t.mem = s.mem) ∧
      (r.wait = .ready → 0 < r.size r.sendChunk → Completes (.ringReady x) s fun t =>
        (t.course g).ring = some { r with readySeen := true, wait := .chunk, sent := 0 } ∧ (t.net x).inbox = rest ∧
        t.mem = s.mem)) ∧
    (∀ (g : Course) (r : Ring), RingOf s g r m r.prev →
      let tag := natAt m.bytes 16 2
      let first := natAt m.bytes 20 4
      let n := byteAt m.bytes 24
      natAt m.bytes 18 2 = (r.pos + r.r - 1) % r.r → r.awaits tag = true → r.lo (r.chunkOf tag) ≤ first →
      first + n ≤ r.lo (r.chunkOf tag) + r.size (r.chunkOf tag) → (∀ i, i < n → (tag, first + i) ∉ r.got) →
      (InInbox s x m rest 0x04 → tag < r.r - 1 → exec (.ringPart x) s = .next (got.netBlocks x m 0x04 first
        (fun k => r.dst + 416 * k) (splitBlocks n (m.bytes.drop 28)) (some (g, tag)))) ∧
      (∀ a, InInbox s x m rest 0x05 → r.r - 1 ≤ tag → n = 1 → r.sent < r.size r.sendChunk → r.wait = .chunk →
        s.physOf (g.val / 8) (r.dst + 416 * first) = some a → s.copyCheck a = 0 → Completes (.ringCopy x) s fun t =>
          let bs := (m.bytes.drop 28).take 416
          (∀ b, t.byte b = if a ≤ b ∧ b < a + bs.length then bs.getD (b - a) 0 else s.byte b) ∧
          (t.course g).ring = some { r with got := r.got ++ [(tag, first)] } ∧ (∃ more, (t.net x).inbox = rest ++ more) ∧
          ∀ h, h ≠ g → t.course h = s.course h)) ∧
    ((∀ g, (s.course g).ring = none) → s.parted = false →
      (InInbox s x m rest 0x03 → exec (.ringReady x) s = .next (got.countC (courseAt (8 * m.part)) 0x3038 0x3030 1)) ∧
      (InInbox s x m rest 0x04 → exec (.ringPart x) s = .next (got.countC (courseAt (8 * m.part)) 0x3038 0x3030 1)) ∧
      (InInbox s x m rest 0x05 → exec (.ringCopy x) s = .next (got.countC (courseAt (8 * m.part)) 0x3038 0x3030 1))) ∧
    (∀ (g : Course) (r : Ring), InInbox s x m rest 0x02 → RingOf s g r m r.next → byteAt m.bytes 16 = 0x04 →
      byteAt m.bytes 17 = 1 → natAt m.bytes 24 2 = 0 → r.wait = .chunk → r.sent < r.size r.sendChunk →
      Completes (.raOutcome x) s fun t => (t.course g).ring = some { r with
        acks := r.acks - 1, flight := r.flight - 1, lens := r.lens.tail } ∧ (t.net x).inbox = rest ∧
        t.mem = s.mem) ∧
    (InInbox s x m rest 0x02 → byteAt m.bytes 16 = 0x01 → exec (.raOutcome x) s =
      .next (((List.range (byteAt m.bytes 17)).map fun i => BitVec.ofNat 16 (natAt m.bytes (24 + 2 * i) 2)).foldl
        (fun u c => u.redOutcome (courseAt (rxTag m).toNat) ((rxTag m).toNat / 32) c
        (decide (got.ownRank m.part (rxGroup m) ≠ some (rxRank m)))) got)) ∧
    (∀ at_ : Nat → Nat, InInbox s x m rest 0x01 → (∀ y, (s.net y).totals = []) →
      let first := natAt m.bytes 28 4
      let n := byteAt m.bytes 32
      (∀ i, i < n → s.physOf m.part (natAt m.bytes 16 6 + 416 * (first + i)) = some (at_ i) ∧ at_ i < nearEnd) →
      let id := (s.net x).nextJob
      let msg (i : Nat) : Msg := ⟨.net x, .mem (stackOf (at_ i)), .raReq ⟨11 + x.val, at_ i,
        (splitBlocks n (m.bytes.drop 36)).getD i [], false, .net x id i⟩⟩
      (∀ i, i < n → s.reachable (msg i) = true) → Completes (.raBlocks x) s fun t =>
        t.msgs = s.msgs ++ (List.range n).map msg ∧ (t.net x).nextJob = id + 1 ∧ (t.net x).inbox = rest ∧
        (∃ j, (t.net x).jobs = (s.net x).jobs ++ [j] ∧ j.id = id ∧ j.rank = rxRank m ∧ j.codes.length = n) ∧
        (∃ y, (t.net x).totals = [y] ∧ y.total = natAt m.bytes 24 4 ∧ y.counted = 0) ∧ t.mem = s.mem ∧ t.courses = s.courses) ∧
    (∀ (g : Course) (r : Ring) i, s.courseRuns g = true → (s.course g).ring = some r →
      (r.wait = .ready ∧ r.readySeen = false ∨ r.wait = .chunk ∧ r.size r.sendChunk ≤ r.sent ∧ r.received = false) → (s.course g).findStarted 6 r.serial = some i → Completes (.ringWaitExpiry g) s fun t =>
        (t.course g).ring = none ∧ t.mem = s.mem ∧ Presents s t (courseDie g) 0x0B07 0x06 ∧
        t.reg (cr g 0x3004) = s.reg (cr g 0x3004) ||| 8 ∧
        ∃ y, (t.course g).findStarted 6 r.serial = some y ∧ y.done = true ∧ y.poison = true) ∧
    (∀ (g : Course) (r : Ring), (s.course g).ring = some r →
      (r.wait = .initAdds ∨ r.wait = .finish ∨ r.wait = .ready ∧ r.readySeen = true ∨ r.wait = .chunk ∧ r.received = true) →
      exec (.ringWaitExpiry g) s = .next s)

/-! ### Parameter update (R346, R354 to R360) -/

/-- The decision (R354, R358): the first row that applies, the records in rank order. -/
def Sys2Proof.Machine.decisionRows : Prop :=
  ∀ (recs : List (List Byte)) (gscale : Nat),
    let d := updDecide recs gscale
    let norm := globalNorm recs gscale
    let poisoned := (recs.map fun b => natAt b 32 8).sum
    let mild (b : List Byte) : Prop := recFlag b 4 = false
    let clean (b : List Byte) : Prop := mild b ∧ recFlag b 1 = false ∧ recFlag b 2 = false
    (∀ before b after, recs = before ++ b :: after → (∀ x ∈ before, mild x) → recFlag b 4 = true →
      d = ⟨true, 0x0A06, some (0, natAt b 48 2)⟩) ∧
    (∀ before b after, recs = before ++ b :: after → (∀ x ∈ recs, mild x) → (∀ x ∈ before, clean x) → ¬clean b →
      d = ⟨true, 0x0A03, some (natAt b 8 8, natAt b 16 8)⟩) ∧
    ((∀ x ∈ recs, clean x) →
      ((∃ b ∈ recs, recParams b ≠ recParams (recs.headD [])) → d.withhold = true ∧ d.cause = 0x0A05 ∧
        ∃ i b, b ∈ recs ∧ i < 5 ∧ (∀ j, j < i → (recParams b).getD j 0 = (recParams (recs.headD [])).getD j 0) ∧
          (recParams b).getD i 0 ≠ (recParams (recs.headD [])).getD i 0 ∧
          d.vals = some ((recParams (recs.headD [])).getD i 0, (recParams b).getD i 0)) ∧
      ((∀ b ∈ recs, recParams b = recParams (recs.headD [])) →
        let bad : Prop := (f32 norm).isFinite = false ∨ (recFlag (recs.headD []) 5 = false ∧ 0 < poisoned)
        (bad → d = ⟨true, 0x0A04, some (norm, poisoned)⟩) ∧ (¬bad → d = ⟨false, 0, none⟩)))

/-- The keystone of a pass 1 (R346, R355 to R360). The partials of its slices are gathered; with the last, its record goes into its
slot, and alone it decides at once. A record of another member goes to the slot of its rank and XSEQ. Once the current records of
all members are held, every selected slice shows the decision, the instruction is done, and a WITHHOLD is reported. ABORT ends a
pass that waits for records with UPD_ABORTED, and does nothing else at any other time. -/
def Sys2Proof.Machine.keystone : Prop :=
  ∀ (s : State) (r : UpdRun), s.upds = [r] →
    let decided (t : State) (withhold : Bool) (cause : Nat) : Prop := t.upds = [] ∧
      (∀ k ∈ r.slices, t.reg (mr k 0x1018) = BitVec.ofNat 32 ((if withhold then 3 else 2) + 256 * cause) ∧
        t.reg64 (mr k 0x1020) = BitVec.ofNat 64 r.xseq) ∧
      (∃ i x, (s.course r.g).findStarted 7 r.serial = some i ∧ (t.course r.g).findStarted 7 r.serial = some x ∧
        x.done = true ∧ x.poison = i.poison) ∧
      (withhold = true → Presents s t (stackDie r.key) (BitVec.ofNat 16 cause) 0x0B) ∧
      (withhold = false → t.dies = s.dies) ∧ ∀ h, h ≠ r.g → t.course h = s.course h
    (∀ (p : UpdPartial) (ps : List UpdPartial), r.sent = p :: ps → (∀ q ∈ ps, q.stack ≠ p.stack) →
      s.dieRuns (stackDie p.stack) = true → hopsUp s (route (stackDie p.stack).val (stackDie r.key).val) = true →
      let r2 : UpdRun := { r with sent := ps, arrived := r.arrived ++ [p] }
      (ps ≠ [] → exec (.updSlicePartial p.stack) s = .next { s with upds := [r2] }) ∧
      (∀ a, ps = [] → r.members = 1 → r.desc.length = 128 → s.updSlot r2 r.rank r.xseq = some a → a % 64 = 0 →
        s.tornAt a 64 = false → ((s.course r.g).findStarted 7 r.serial).isSome = true →
        let rec0 := s.memberRecord r2
        let d := updDecide [rec0] (natAt r.desc 28 4)
        Completes (.updSlicePartial p.stack) s fun t => decided t d.withhold d.cause ∧
          ∀ b, t.byte b = if a ≤ b ∧ b < a + 64 then rec0.getD (b - a) 0 else s.byte b)) ∧
    (∀ (m : RxMsg) (rest : List RxMsg) (a : Nat), (s.net 0).inbox = m :: rest → byteAt m.bytes 0 = 0x06 →
      s.dieRuns (stackDie r.key) = true → m.part = s.partOf r.g → rxGroup m = byteAt r.desc 39 → rxRank m < r.members →
      let b := (m.bytes.drop 16).take 64
      s.updSlot r (rxRank m) (natAt b 0 8) = some a →
      let t := (s.modNet 0 fun n => { n with inbox := rest }).store a b
      (r.exchanging = false → exec (.updRecord r.key) s = .next t) ∧
      (r.exchanging = true → exec (.updRecord r.key) s = .next (t.updTryDecide r))) ∧
    (∀ recs, allSome ((List.range r.members).map fun i => s.updHeld r i) = some recs →
      ((s.course r.g).findStarted 7 r.serial).isSome = true →
      let d := updDecide recs (natAt r.desc 28 4)
      decided (s.updTryDecide r) d.withhold d.cause ∧ (s.updTryDecide r).mem = s.mem) ∧
    (allSome ((List.range r.members).map fun i => s.updHeld r i) = none → s.updTryDecide r = s) ∧
    (∀ (a : Agent) (k : Stack), Reaches s a (mr k 0x1014) →
      (r.exchanging = true → k ∈ r.slices → ((s.course r.g).findStarted 7 r.serial).isSome = true →
        Completes (.updAbort a k) s fun t => decided t true 0x0A07 ∧ t.mem = s.mem) ∧
      (r.exchanging = false ∨ k ∉ r.slices → exec (.updAbort a k) s = .next s))

/-- The exchange and the decision of upd.pass1 (R354 to R360). -/
def Obligations.UpdatesDecide : Prop := decisionRows ∧ keystone

/-! ### Network connections, the long-course transport, RoCEv2 and the mailbox (R402 to R407, R414, R416 to R433, R437, R556,
R557) -/

/-- Only connection c of network engine x has changed. -/
def Sys2Proof.Machine.OnlyConn (s t : State) (x : IoDie) (c : Nat) : Prop :=
  (∀ d, d ≠ c → (t.net x).conn d = (s.net x).conn d) ∧ (t.net x).qps = (s.net x).qps ∧ (∀ y, y ≠ x → t.net y = s.net y) ∧
    t.courses = s.courses ∧ t.mem = s.mem ∧ t.ports = s.ports

/-- A command of NET_CONN_CMD is refused: ERROR is set and NET_CTX reported (R417, R424). -/
def Sys2Proof.Machine.ConnRefused (c : Instr) (s : State) (x : IoDie) : Prop :=
  Completes c s fun t => t.nets = s.nets ∧ t.reg (nr x 0x68) = s.reg (nr x 0x68) ||| 1 ∧ Presents s t (ioDie x) 0x0C05 0x10 ∧
    t.courses = s.courses ∧ t.mem = s.mem

/-- OPEN, CLOSE and SWITCH of a connection, and LOAD and ERASE of its keys (R416, R417, R423, R424, R437). OPEN needs a CLOSED
connection, a valid context and a fresh TX key of phase 0; the connection then starts from its context. CLOSE forgets it, SWITCH
changes the phase where that has a TX key. A key slot takes a key that unwraps, with reserved bytes of 0; any other LOAD leaves
it empty, flagged and reported. -/
def Obligations.ConnectionCommands : Prop :=
  ∀ (s : State) (a : Agent) (x : IoDie) (v : Word),
    let n := v.toNat % 8192
    let k := (s.net x).conn n
    let p := (s.net x).qp n
    (Reaches s a (nr x 0x30) →
      (v.getLsbD 13 = false → n < 4096 →
        (∀ ctx key, s.lctContext x n = some ctx → (s.net x).key n 0 0 = some key → ctxOk ctx = true → key.used = 0 →
          k.st = .closed → Completes (.connOpen a x v) s fun t => OnlyConn s t x n ∧ t.dies = s.dies ∧
            (t.net x).conn n = { Conn.closed with
              st := .opened, ctx := ctx, srtt := natAt ctx 56 4, rttvar := natAt ctx 56 4 / 2
              cwnd := natAt ctx 52 4 * 65536, ssthresh := natAt ctx 48 4 * 65536 }) ∧
        ((k.st ≠ .closed ∨ s.lctContext x n = none ∨ (s.net x).key n 0 0 = none ∨ (∃ ctx, s.lctContext x n = some ctx ∧
          ctxOk ctx = false) ∨ ∃ key, (s.net x).key n 0 0 = some key ∧ key.used ≠ 0) → ConnRefused (.connOpen a x v) s x) ∧
        (k.unacked = [] → (∀ m ∈ (s.net x).queue, m.1 ≠ n) → Completes (.connClose a x v) s fun t =>
          OnlyConn s t x n ∧ (t.net x).conn n = Conn.closed ∧ (t.net x).queue = (s.net x).queue ∧ t.dies = s.dies) ∧
        (k.st = .opened → k.ctl = [] → ((s.net x).key n 0 (phaseNum !k.phase)).isSome = true → Completes (.connSwitch a x v) s fun t =>
          OnlyConn s t x n ∧ (t.net x).conn n = { k with phase := !k.phase, held := false, ctl := [] } ∧ t.dies = s.dies) ∧
        (k.st = .opened → (s.net x).key n 0 (phaseNum !k.phase) = none → ConnRefused (.connSwitch a x v) s x) ∧
        (k.st ≠ .opened → exec (.connSwitch a x v) s = .next s)) ∧
      (v.getLsbD 13 = false → 4096 ≤ n → ConnRefused (.connOpen a x v) s x ∧ exec (.connClose a x v) s = .next s ∧
        exec (.connSwitch a x v) s = .next s) ∧
      (v.getLsbD 13 = true →
        (p.st = .closed → (∀ m ∈ (s.net x).queue, m.1 ≠ 4096 + n) → Completes (.connOpen a x v) s fun t =>
          (t.net x).qp n = s.roceContext x n ∧ ((t.net x).qp n).st = .opened ∧ (t.net x).conns = (s.net x).conns ∧ t.dies = s.dies ∧ t.courses = s.courses ∧
          t.mem = s.mem) ∧
        (p.st ≠ .closed → ConnRefused (.connOpen a x v) s x) ∧
        (p.unacked = [] → (∀ m ∈ (s.net x).queue, m.1 ≠ 4096 + n) → Completes (.connClose a x v) s fun t =>
          (t.net x).qp n = Qp.closed ∧ (t.net x).conns = (s.net x).conns ∧ t.dies = s.dies ∧ t.courses = s.courses) ∧
        exec (.connSwitch a x v) s = .next s)) ∧
    (Reaches s a (nr x 0xA0) →
      let c := v.toNat % 4096
      let dir := v.toNat / 4096 % 2
      let phase := v.toNat / 8192 % 2
      let bad : Prop := Completes (.netKeyLoad a x v) s fun t => (t.net x).key c dir phase = none ∧
        t.reg (nr x 0xA4) = s.reg (nr x 0xA4) ||| 0x80000000 ∧ Presents s t (ioDie x) 0x0C06 0x10 ∧ t.mem = s.mem
      Completes (.netKeyErase a x v) s (fun t => (t.net x).key c dir phase = none ∧ t.regs = s.regs ∧ t.dies = s.dies ∧
        (t.net x).conns = (s.net x).conns ∧ t.mem = s.mem) ∧
      (s.unwrapKey (s.regBytes (nr x 0x70) 12) = none → bad) ∧
      (∀ b, s.unwrapKey (s.regBytes (nr x 0x70) 12) = some b →
        (natAt b 36 4 ≠ 0 → bad) ∧
        (natAt b 36 4 = 0 → Completes (.netKeyLoad a x v) s fun t =>
          (t.net x).key c dir phase = some ⟨b.take 32, (b.drop 32).take 4, 0⟩ ∧ t.regs = s.regs ∧ t.dies = s.dies ∧
          (t.net x).conns = (s.net x).conns ∧ t.mem = s.mem)))

/-- A frame of a port that is up and whose engine runs, addressed to the port and discarded by no rule of R403: the UDP datagram that
it holds (R403, R404). -/
structure Sys2Proof.Machine.FrameAt (s : State) (p : PortId) (x : IoDie) (f : List Byte) (u : Udp) : Prop where
  engine : x = ioAt (p.val / 6)
  runs : s.dieRuns (ioDie x) = true
  up : (s.ports.get p).up = true
  kept : frameFate f true = .ok
  mac : f.take 6 = s.portMac p
  udp : udpOf f = some u

/-- An LCT frame of a type for the open connection c: its UDP port, its address and DCONN name the connection, and its checksum and
lengths are right (R404, R419, R420). -/
structure Sys2Proof.Machine.LctAt (s : State) (p : PortId) (type : Nat) (f : List Byte) (x : IoDie) (c : Nat) (u : Udp) : Prop
    extends FrameAt s p x f u where
  target : s.lctTarget p u = some c
  sum : u.sumOk = true
  header : byteAt u.body 0 = 1 + 16 * type
  length : u.body.length = natAt u.body 2 2 + 48

/-- The same, and its tag verifies: its plaintext (R422, R424). -/
structure Sys2Proof.Machine.FrameFor (s : State) (p : PortId) (type : Nat) (f : List Byte) (x : IoDie) (c : Nat) (u : Udp)
    (plain : List Byte) : Prop extends LctAt s p type f x c u where
  verified : ∃ key, (s.net x).key c 1 (byteAt u.body 1 % 2) = some key ∧ openFrame key u.body = some plain

/-- A connection once a frame has come for it: a CE mark is noted (R428). -/
def Sys2Proof.Machine.Conn.saw (k : Conn) (f : List Byte) : Conn :=
  if frameCe f then { k with ceSeen := true, ceCount := k.ceCount + 1 } else k

/-- Connection c can send: it is not held, it has a TX key of its phase that has sent less than 2^48 frames, and its port is up
(R424, R438). -/
structure Sys2Proof.Machine.CanSend (s : State) (x : IoDie) (c : Nat) (key : NetKey) : Prop where
  free : ((s.net x).conn c).held = false
  tx : (s.net x).key c 0 (phaseNum ((s.net x).conn c).phase) = some key
  used : key.used < 2 ^ 48
  up : (s.ports.get (portAt x ((s.net x).conn c).port)).up = true

/-- One frame of connection c leaves its port: the LCT header of its type with the next PN, and the plaintext sealed under the TX key,
in a UDP datagram over IPv6 by the connection's context (R416, R419 to R422). -/
def Sys2Proof.Machine.SendsFrame (s t : State) (x : IoDie) (c : Nat) (key : NetKey) (type : Nat) (bamong ece : Bool)
    (seq ulen : Nat) (plain : List Byte) : Prop :=
  let k := (s.net x).conn c
  let p := portAt x k.port
  (∃ free, t.out = s.out ++ [.lctFrame p c (lctFrame (s.portMac p) (k.path c) (natAt k.ctx 32 2) free (sealFrame key k.pn
    (lctHeader type k.phase bamong ece plain.length k.peer k.pn seq ulen) plain))]) ∧ ((t.net x).conn c).pn = k.pn + 1

/-- A counter of network engine x at offset o has counted one more, unless it is frozen (R113, R437). -/
def Sys2Proof.Machine.NetCounts (s t : State) (x : IoDie) (o : Nat) : Prop :=
  (s.reg (nr x 0xD0)).getLsbD 0 = false → t.reg64 (nr x o) = BitVec.ofNat 64 (min ((s.reg64 (nr x o)).toNat + 1) (2 ^ 64 - 1))

/-- DATA frames (R414, R424 to R428). The next segment, new and whole, is delivered: its message is applied, CUM moves on, and each
second delivery sends a SACK. One that is a duplicate or outside the window is only answered with a SACK. One whose encoding
is damaged is reported and answered with a NACK. A frame whose tag fails is counted and reported, and nothing is delivered. -/
def Sys2Proof.Machine.dataFrames : Prop :=
  ∀ (s : State) (p : PortId) (f plain : List Byte) (x : IoDie) (c : Nat) (u : Udp) (key : NetKey),
    let k := (s.net x).conn c
    let k1 := k.saw f
    let seq := natAt u.body 16 8
    let part := s.partOfPort (6 * x.val + k.port)
    let kept (t : State) : Prop := t.mem = s.mem ∧ t.courses = s.courses ∧ (∀ y, y ≠ x → t.net y = s.net y)
    (FrameFor s p 1 f x c u plain →
      (seq = k.rxCum → 1 ≤ k.segs → k.rxSet = [] → byteAt u.body 1 / 2 % 2 = 0 → k.channel = 0 →
        s.messageOk part false plain = true → (∀ y, (part, messageKey plain) ∉ (s.net y).applied) →
        Completes (.lctDataReceive p f true) s fun t => kept t ∧
          (t.net x).inbox = (s.net x).inbox ++ [⟨part, c, plain⟩] ∧ ((t.net x).conn c).rxCum = k.rxCum + 1 ∧
          ((t.net x).conn c).rxSet = [] ∧ ((t.net x).conn c).st = .opened ∧
          (k.rxUnacked = 0 → t.out = s.out ∧ ((t.net x).conn c).rxUnacked = 1) ∧
          (1 ≤ k.rxUnacked → CanSend s x c key → ((t.net x).conn c).rxUnacked = 0 ∧ ((t.net x).conn c).ceSeen = false ∧
            SendsFrame s t x c key 2 false k1.ceSeen 0 0 { k1 with rxCum := k.rxCum + 1 }.sackPlain)) ∧
      ((seq < k.rxCum ∨ k.rxCum + k.segs ≤ seq ∨ seq ∈ k.rxSet) → CanSend s x c key →
        Completes (.lctDataReceive p f true) s fun t => kept t ∧ (t.net x).inbox = (s.net x).inbox ∧
          SendsFrame s t x c key 2 false k1.ceSeen 0 0 k1.sackPlain ∧ ((t.net x).conn c).rxCum = k.rxCum ∧
          ((t.net x).conn c).rxSet = k.rxSet ∧ ((t.net x).conn c).rxUnacked = 0) ∧
      (∀ e, k.rxCum ≤ seq → seq < k.rxCum + k.segs → seq ∉ k.rxSet → byteAt u.body 1 / 2 % 2 = 1 → k.channel = 0 →
        decodeBlocks plain.length plain = .error e → CanSend s x c key → Completes (.lctDataReceive p f true) s fun t =>
          kept t ∧ (t.net x).inbox = (s.net x).inbox ∧ SendsFrame s t x c key 3 false false 0 0 (nackPlain seq e) ∧
          Presents s t (ioDie x) e 0x10 ∧ ((t.net x).conn c).rxCum = k.rxCum ∧ ((t.net x).conn c).rxSet = k.rxSet ∧
          NetCounts s t x 0xC0)) ∧
    (∀ rx, LctAt s p 1 f x c u → (s.net x).key c 1 (byteAt u.body 1 % 2) = some rx → openFrame rx u.body = none →
      k.authRaised = false → Completes (.lctDataReceive p f true) s fun t => kept t ∧ (t.net x).inbox = (s.net x).inbox ∧
        (t.net x).conn c = { k with authRaised := true } ∧ t.out = s.out ∧ Presents s t (ioDie x) 0x0C03 0x10 ∧
        NetCounts s t x 0xB0)

/-- Control frames (R425, R427 to R432). A SACK newer than any control frame before it takes what it covers off the unacknowledged
segments, and the window grows, or is cut where the SACK carries ECE; an older one does nothing. A NACK marks its segment lost,
and the window is cut, or the connection fails where it has been sent as often as NET_LCT_RETRY_MAX. A PROBE is answered, or on a
held connection its answer waits; the answer ends the probing. -/
def Sys2Proof.Machine.controlFrames : Prop :=
  ∀ (s : State) (p : PortId) (f plain : List Byte) (x : IoDie) (c : Nat) (u : Udp),
    let k := (s.net x).conn c
    let k1 := k.saw f
    let pn := natAt u.body 8 8
    let newer : Prop := ∀ n, k.lastCtl = some n → n < pn
    let kept (t : State) : Prop := t.mem = s.mem ∧ t.courses = s.courses ∧ t.out = s.out ∧ (t.net x).inbox = (s.net x).inbox ∧
      t.dies = s.dies
    (FrameFor s p 2 f x c u plain →
      (newer → (∀ g ∈ k.unacked, sackCovers plain g.seq = true) → k.cut = false →
        let a := (k.unacked.map fun g => g.plain.length).sum
        let w := if a = 0 then k.cwnd else
          min (if k.cwnd < k.ssthresh then k.cwnd + a else k.cwnd + k.maxSeg * a / k.cwnd) k.window
        Completes (.lctSackReceive p f true) s fun t => kept t ∧ ((t.net x).conn c).unacked = [] ∧
          ((t.net x).conn c).cum = max k.cum (natAt plain 0 8) ∧ ((t.net x).conn c).lastCtl = some pn ∧
          ((t.net x).conn c).cwnd = if byteAt u.body 1 / 4 % 2 = 1 then max 65536 (w / 2) else w) ∧
      (¬newer → Completes (.lctSackReceive p f true) s fun t => OnlyConn s t x c ∧ (t.net x).conn c = k1 ∧ kept t)) ∧
    (FrameFor s p 3 f x c u plain → newer →
      (∀ g rest, k.unacked = g :: rest → g.seq = natAt plain 0 8 → g.lost = false → (∀ h ∈ rest, h.seq ≠ g.seq) →
        (g.sends < (s.reg (nr x 0x5C)).toNat % 16 → k.cut = false → Completes (.lctNackReceive p f true) s fun t =>
          kept t ∧ ((t.net x).conn c).unacked = { g with lost := true } :: rest ∧
          ((t.net x).conn c).cwnd = max 65536 (k.cwnd / 2) ∧ ((t.net x).conn c).st = .opened) ∧
        ((s.reg (nr x 0x5C)).toNat % 16 ≤ g.sends → Completes (.lctNackReceive p f true) s fun t =>
          ((t.net x).conn c).st = .failed ∧ ((t.net x).conn c).unacked = [] ∧ t.mem = s.mem))) ∧
    (FrameFor s p 4 f x c u plain →
      (∀ key, CanSend s x c key → Completes (.lctProbeReceive p f true) s fun t =>
        SendsFrame s t x c key 5 false false 0 0 (leBytes 8 0) ∧ (t.net x).inbox = (s.net x).inbox ∧
        ((t.net x).conn c).unacked = k.unacked ∧ t.mem = s.mem ∧ t.dies = s.dies) ∧
      (k.held = true → Completes (.lctProbeReceive p f true) s fun t => kept t ∧
        (t.net x).conn c = { k1 with ctl := k.ctl ++ [⟨5, false, leBytes 8 0⟩] })) ∧
    (FrameFor s p 5 f x c u plain → newer → Completes (.lctProbeReplyReceive p f true) s fun t => kept t ∧
      (t.net x).conn c = { k1 with lastCtl := some pn, probe := none })

/-- What a connection sends of itself (R412, R415, R424, R426, R428, R430, R432): the next message that waits for it, formed from its
source, in a new segment, while the window has room, or by another way where MAXSEG does not admit it; a lost segment again; a
SACK once its delay has run out; a PROBE when it is idle. An RTO sends the segment or the PROBE again, which is counted, or fails
the connection that has sent it NET_LCT_RETRY_MAX times. A held connection counts no RTO. -/
def Sys2Proof.Machine.framesSent : Prop :=
  ∀ (s : State) (x : IoDie) (c : Fin 4096) (key : NetKey) (upset : List Nat), s.dieRuns (ioDie x) = true →
    let k := (s.net x).conn c.val
    let max_ := (s.reg (nr x 0x5C)).toNat % 16
    let kept (t : State) : Prop := t.mem = s.mem ∧ t.courses = s.courses ∧ (t.net x).inbox = (s.net x).inbox
    let data (t : State) (seq : Nat) (plain : List Byte) : Prop :=
      let e := s.lctEncode x k upset plain
      SendsFrame s t x c.val key 1 e.2.1 false seq plain.length e.1
    let again (t : State) (g : Seg) (rest : List Seg) : Prop :=
      let msg := g.msg.map s.reform
      let plain := (msg.map (·.bytes)).getD g.plain
      kept t ∧ data t g.seq plain ∧ NetCounts s t x 0xB8 ∧ ((t.net x).conn c.val).unacked =
        ⟨g.seq, k.pn, msg, plain, g.sends + 1, [], false⟩ :: rest
    (CanSend s x c.val key → k.st = .opened →
      (∀ m rest, (∀ g ∈ k.unacked, g.lost = false) → (s.net x).queue = (c.val, m) :: rest →
        let m1 := s.reform m
        (m1.bytes.length ≤ k.maxSeg → k.inflight + m1.bytes.length ≤ min k.cwnd k.window → k.seq < k.cum + k.segs →
          Completes (.lctSegmentSend x c upset) s fun t => kept t ∧ data t k.seq m1.bytes ∧ (t.net x).queue = rest ∧
            ((t.net x).conn c.val).seq = k.seq + 1 ∧
            ((t.net x).conn c.val).unacked = k.unacked ++ [⟨k.seq, k.pn, some m1, m1.bytes, 1, [], false⟩]) ∧
        (m1.bytes.length ≤ k.maxSeg → (min k.cwnd k.window < k.inflight + m1.bytes.length ∨ k.cum + k.segs ≤ k.seq) →
          exec (.lctSegmentSend x c upset) s = .next s) ∧
        (k.maxSeg < m1.bytes.length → exec (.lctSegmentSend x c upset) s =
          .next ((s.modNet x fun n => { n with queue := rest }).reroute x c.val [m1]))) ∧
      (∀ g rest, k.unacked = g :: rest → g.lost = true → (∀ h ∈ rest, h.seq ≠ g.seq) →
        Completes (.lctSegmentSend x c upset) s fun t => again t g rest ∧ (t.net x).queue = (s.net x).queue) ∧
      (k.unacked = [] → k.probe = none → Completes (.lctIdleExpiry x c) s fun t => kept t ∧
        SendsFrame s t x c.val key 4 false false 0 0 (leBytes 8 0) ∧
        ((t.net x).conn c.val).probe = some ⟨0, k.pn, none, [], 1, [], false⟩) ∧
      (0 < k.rxUnacked → Completes (.lctAckDelayExpiry x c) s fun t => kept t ∧
        SendsFrame s t x c.val key 2 false k.ceSeen 0 0 k.sackPlain ∧ ((t.net x).conn c.val).rxUnacked = 0) ∧
      (∀ g rest, k.unacked = g :: rest → (∀ h ∈ rest, h.seq ≠ g.seq) → g.sends < max_ →
        Completes (.lctRtoExpiry x c (some g.seq, upset)) s fun t => again t g rest) ∧
      (∀ g, k.probe = some g → g.sends < max_ → Completes (.lctRtoExpiry x c (none, upset)) s fun t => kept t ∧
        SendsFrame s t x c.val key 4 false false 0 0 (leBytes 8 0) ∧ NetCounts s t x 0xB8 ∧
        ((t.net x).conn c.val).probe = some { g with sends := g.sends + 1 })) ∧
    (∀ g rest, k.st = .opened → k.held = false → k.unacked = g :: rest → max_ ≤ g.sends →
      Completes (.lctRtoExpiry x c (some g.seq, upset)) s fun t =>
        ((t.net x).conn c.val).st = .failed ∧ ((t.net x).conn c.val).unacked = [] ∧ t.mem = s.mem) ∧
    (s.connReady x c.val = false → exec (.lctSegmentSend x c upset) s = .next s) ∧
    (k.rxUnacked = 0 → exec (.lctAckDelayExpiry x c) s = .next s) ∧
    (∀ e, k.held = true → exec (.lctRtoExpiry x c e) s = .next s)

/-- The long-course transport (R414, R424 to R432). -/
def Obligations.LongCourseTransport : Prop := dataFrames ∧ controlFrames ∧ framesSent

/-- A RoCEv2 packet of a queue pair leaves, under some hop limit, flow label and identification (R406; log entries 107 and 108). -/
def Sys2Proof.Machine.SendsRoce (s t : State) (p : PortId) (path : QpPath) (op psn : Nat) (payload : List Byte)
    (mk : List Byte → OutMsg) : Prop :=
  ∃ free, t.out = s.out ++ [mk (roceFrame (s.portMac p) path free op psn false payload)]

/-- RoCEv2 (R406, R407). The packet of the next PSN is taken, and with a message's last one the message is applied and acknowledged;
one ahead of it is answered with a NAK, one behind it with the acknowledgement of the last. An acknowledgement takes the
messages it covers off the queue pair; a fatal NAK fails it, and another sends what it does not cover again, as the timeout does, or
fails the queue pair once the retries are spent. A CE mark is answered with a CNP; a packet whose ICRC is wrong is dropped. -/
def Sys2Proof.Machine.queuePairs : Prop :=
  (∀ (s : State) (p : PortId) (q : Nat) (dst src : BitVec 48) (tag : Option (BitVec 16)) (packet : List Byte) (u : Udp),
    let x := ioAt (p.val / 6)
    let f := ethFrame dst src tag packet
    let k := (s.net x).qp q
    let part := s.partOfPort p.val
    let kept (t : State) : Prop := t.mem = s.mem ∧ t.courses = s.courses ∧ (t.net x).conns = (s.net x).conns
    let answers (t : State) (a msn : Nat) (kind : AckKind) (syn : Byte) : Prop :=
      SendsRoce s t p k.path 0x11 a ([syn] ++ beBytes 3 msn) fun f => .roceAck p q a kind f
    let runs (d : State → Prop) : Prop := Completes (.roceFrameReceive p dst src tag packet true) s d
    (FrameAt s p x f u → s.lctTarget p u = none → s.roceTarget p u = some q →
      (roceOf u = none → runs fun t => kept t ∧ t.nets = s.nets ∧ t.out = s.out) ∧
      ∀ i psn op, roceOf u = some (i, psn, op) →
        (frameCe f = true → op = .other → runs fun t => kept t ∧ t.nets = s.nets ∧
          SendsRoce s t p k.path 0x81 0 (List.replicate 16 0) fun f => .roceCnp p q f) ∧
        (frameCe f = false →
          (∀ last pay, op = .send true last pay → psn = k.recvPsn → k.partialMsg = [] → pay.length ≤ k.mtu →
            (last = true → s.messageOk part false pay = true → (∀ y, (part, messageKey pay) ∉ (s.net y).applied) →
              runs fun t => kept t ∧ t.dies = s.dies ∧
                (t.net x).qp q = { k with
                  recvPsn := (psn + 1) % 2 ^ 24, partialMsg := [], msn := (k.msn + 1) % 2 ^ 24 } ∧
                answers t psn ((k.msn + 1) % 2 ^ 24) .ack 0x1F ∧ (t.net x).inbox = (s.net x).inbox ++ [⟨part, 0, pay⟩]) ∧
            (last = false → runs fun t => kept t ∧ t.out = s.out ∧ (t.net x).inbox = (s.net x).inbox ∧
              (t.net x).qp q = { k with recvPsn := (psn + 1) % 2 ^ 24, partialMsg := pay })) ∧
          (∀ fi l pay, op = .send fi l pay → psn ≠ k.recvPsn → psnDist k.recvPsn psn < 2 ^ 23 →
            runs fun t => kept t ∧ t.nets = s.nets ∧ answers t k.recvPsn k.msn .sequence 0x60) ∧
          (∀ fi l pay, op = .send fi l pay → psn ≠ k.recvPsn → 2 ^ 23 ≤ psnDist k.recvPsn psn →
            runs fun t => kept t ∧ t.nets = s.nets ∧ answers t (psnDist 1 k.recvPsn) k.msn .ack 0x1F) ∧
          (∀ m rest, op = .ack → k.unacked = m :: rest → psnDist (m.1 + m.2.1 - 1) psn < 2 ^ 23 →
            (∀ v ∈ rest, 2 ^ 23 ≤ psnDist (v.1 + v.2.1 - 1) psn) →
            runs fun t => kept t ∧ t.out = s.out ∧ (t.net x).qp q = { k with unacked := rest, retry := 0 }) ∧
          (op = .unsupported → runs fun t => kept t ∧ t.nets = s.nets ∧ answers t psn k.msn .invalid 0x61 ∧
            Presents s t (ioDie x) 0x0C09 0x10) ∧
          (op = .nak true → runs fun t => ((t.net x).qp q).st = .failed ∧ ((t.net x).qp q).unacked = [] ∧ t.mem = s.mem) ∧
          (op = .nak false → k.unacked ≠ [] → (∀ v ∈ k.unacked, 2 ^ 23 ≤ psnDist (v.1 + v.2.1 - 1) (psnDist 1 psn)) →
            k.retry < k.retryMax → runs fun t => kept t ∧ (t.net x).qp q = { k with retry := k.retry + 1 }) ∧
          (op = .cnp ∨ op = .other → runs fun t => kept t ∧ t.nets = s.nets ∧ t.out = s.out))) ∧
    (s.dieRuns (ioDie x) = true → (s.ports.get p).up = false →
      ∀ fcs, exec (.roceFrameReceive p dst src tag packet fcs) s = .next s)) ∧
  (∀ (s : State) (x : IoDie) (q : Fin 8192), s.dieRuns (ioDie x) = true →
    let k := (s.net x).qp q.val
    (k.st = .opened → k.unacked ≠ [] →
      (k.retry < k.retryMax → Completes (.localAckTimeout x q) s fun t => t.mem = s.mem ∧ t.courses = s.courses ∧
        t.dies = s.dies ∧ (t.net x).conns = (s.net x).conns ∧ (t.net x).qp q.val = { k with retry := k.retry + 1 } ∧
        (t.net x).inbox = (s.net x).inbox) ∧
      (k.retryMax ≤ k.retry → Completes (.localAckTimeout x q) s fun t => ((t.net x).qp q.val).st = .failed ∧
        ((t.net x).qp q.val).unacked = [] ∧ t.mem = s.mem)) ∧
    (k.unacked = [] → exec (.localAckTimeout x q) s = .next s))

/-- A failed lane of a port (R402, R405, R534): one that it does not use only counts as failed; else it trains again on lanes
that are good, degraded, with NET_LINK_DEGRADED, or goes down with NET_LINK_DOWN, its connections FAILED. -/
def Sys2Proof.Machine.portLanes : Prop :=
  ∀ (s : State) (p : PortId) (lane : Fin 8),
    let k := s.ports.get p
    let x := ioAt (p.val / 6)
    let bad := k.bad ||| (1#8 <<< lane.val)
    let c := s.reg (Blk.port p).base
    s.dieRuns (ioDie x) = true → (k.bad.getLsbD lane.val = true → exec (.portLaneFail p lane) s = .next s) ∧
    (k.bad.getLsbD lane.val = false → (∃ f, f.unit = 0x10 ∧ Completes (.portLaneFail p lane) s fun t =>
        t.boot.failures = s.boot.failures ++ [f]) ∧
      (k.lanes.getLsbD lane.val = false → Completes (.portLaneFail p lane) s fun t => t.ports.get p = { k with bad := bad } ∧
        t.nets = s.nets ∧ t.dies = s.dies) ∧
      (∀ r m, k.up = true → k.lanes.getLsbD lane.val = true → k.partner = true →
        bestRate (c.getLsbD 3) bad (c.toNat % 8) = some (r, m) → Completes (.portLaneFail p lane) s fun t =>
          t.ports.get p = ⟨true, r, m, true, bad, true⟩ ∧ t.nets = s.nets ∧ Presents s t (ioDie x) 0x0C02 0x10) ∧
      (k.up = true → k.lanes.getLsbD lane.val = true → bestRate (c.getLsbD 3) bad (c.toNat % 8) = none →
        (s.net x).conns = [] → (s.net x).qps = [] → Completes (.portLaneFail p lane) s fun t =>
          (t.ports.get p).up = false ∧ (t.ports.get p).lanes = 0 ∧ Presents s t (ioDie x) 0x0C01 0x10))

/-- RoCEv2 queue pairs and the lanes of the ports (R402, R405 to R407). -/
def Obligations.PortsAndQueuePairs : Prop := queuePairs ∧ portLanes

/-! ### Registers (R9 to R14, R39, R40, R113, R553, R563, R564) -/

/-- Bit i of a register after a write by its access codes (R12). -/
def Sys2Proof.Machine.bitAfter (r : RegRow) (old v : Word) (i : Nat) : Bool :=
  if r.mask.testBit i then v.getLsbD i else old.getLsbD i && !(r.w1c.testBit i && v.getLsbD i)

/-- A write of a register that only holds its fields (R12): RW bits take the value written, W1C bits that are written 1 become 0, and
every other bit of the register, and every other register, stays. -/
def Sys2Proof.Machine.plainWrites : Prop :=
  ∀ (s : State) (a : Agent) (off : BitVec 32) (v : Word) (o k : Nat) (b : Blk) (r : RegRow),
    s.regReach a off.toNat = .at o → locate o = some (b, k) → regRow b k = some r → r.wide = false → counters b k = none →
    ((∃ d, b = .mortar d) ∨ (∃ d, b = .fwu d) ∨
      (∃ g, b = .course g ∧ k ∉ [0x0, 0x58, 0xA0, 0xC20, 0x1040, 0x1304, 0x2004, 0x2008, 0x2018, 0x201C, 0x300C, 0x3010, 0x3418,
        0x3814, 0x380C] ∧ (k < 0xC00 ∨ 0xC20 ≤ k)) ∨
      (∃ m, b = .mem m ∧ k ∉ [0x4, 0x10, 0x30, 0x88, 0x2018, 0x1014, 0x2008])) →
    Completes (.registerWrite a off v) s fun t =>
      (∀ i, i < 32 → (t.reg o).getLsbD i = bitAfter r (s.reg o) v i) ∧ (∀ p, p ≠ o → t.reg p = s.reg p) ∧ t.wide = s.wide ∧
      { t with regs := s.regs } = s

/-- Where no register lies, a write does nothing; and so does a misaligned access of a course or of the plinth controller, an
access of a course in partitioned mode, and one of a function that the host cannot reach (R9, R13, R39, R547). -/
def Sys2Proof.Machine.noRegister : Prop :=
  ∀ (s : State) (a : Agent) (off : BitVec 32) (v : Word),
    (∀ o, s.regReach a off.toNat = .at o → (locate o = none ∨ ∃ b k, locate o = some (b, k) ∧ regRow b k = none) →
      exec (.registerWrite a off v) s = .next s) ∧
    (off.toNat % 4 ≠ 0 → (∃ g, a = .course g) ∨ a = .plinth → exec (.registerWrite a off v) s = .next s) ∧
    (∀ g, a = .course g → s.parted = true → exec (.registerWrite a off v) s = .next s) ∧
    (∀ fn, a = .host fn → s.host.up = false → exec (.registerWrite a off v) s = .next s)

/-- A 64-bit register pair (R10). A write of the low word is latched and changes no register; one of the high word applies both, the
low word as last latched, to the bits that are RW. A read of the low word captures the high word for its agent; a read of
the high word returns what is captured and releases it, or else what the register holds. -/
def Sys2Proof.Machine.pairs : Prop :=
  ∀ (s : State) (a : Agent) (off : BitVec 32) (v : Word) (o k : Nat) (b : Blk) (r : RegRow),
    s.regReach a off.toNat = .at o → locate o = some (b, k) → regRow b k = some r → r.wide = true →
    (r.isHigh k = false → s.ringShut a o = false → Completes (.regPairLowWrite a off v) s fun t => t.lowLatch o = v ∧
      (∀ p, p ≠ o → t.lowLatch p = s.lowLatch p) ∧ { t with latch := s.latch } = s) ∧
    (r.isHigh k = true → 4 ≤ k → 4 ≤ o → b.base + (k - 4) = o - 4 →
      ((∃ g, b = .course g ∧ k ≠ 0x2014) ∨ (∃ f, b = .far f) ∨ (∃ n, b = .net n) ∨ b = .host ∨ b = .pkg) →
      Completes (.regPairHighWrite a off v) s fun t =>
        let m := BitVec.ofNat 64 r.mask
        t.reg64 (o - 4) = (s.reg64 (o - 4) &&& ~~~m) ||| ((v ++ s.lowLatch (o - 4)) &&& m) ∧
        (∀ p, p ≠ o - 4 → t.reg64 p = s.reg64 p) ∧ { t with wide := s.wide } = s) ∧
    (r.wo = false → r.isHigh k = false → b.base + k = o → s.live b k = none → Completes (.regPairLowRead a off) s fun t =>
      t.out = s.out ++ [.regRead a off.toNat ((s.reg64 o).setWidth 32)] ∧
      t.captured a o = some (((s.reg64 o) >>> 32).setWidth 32) ∧
      (∀ q, q ≠ (a, o) → t.captured q.1 q.2 = s.captured q.1 q.2) ∧ { t with out := s.out, capture := s.capture } = s) ∧
    (r.wo = false → r.isHigh k = true → 4 ≤ k → 4 ≤ o → b.base + (k - 4) = o - 4 →
      (∀ c, s.captured a (o - 4) = some c → Completes (.regPairHighRead a off) s fun t =>
        t.out = s.out ++ [.regRead a off.toNat c] ∧ t.captured a (o - 4) = none ∧
        { t with out := s.out, capture := s.capture } = s) ∧
      (s.captured a (o - 4) = none → s.live b (k - 4) = none →
        exec (.regPairHighRead a off) s = .next (s.emit (.regRead a off.toNat (((s.reg64 (o - 4)) >>> 32).setWidth 32)))))

/-- CLEAR of a counter control sets every counter that it controls to 0, and FREEZE as written; the other registers stay (R113). -/
def Sys2Proof.Machine.countersClear : Prop :=
  ∀ (s : State) (a : Agent) (off : BitVec 32) (freeze : Bool) (o k : Nat) (b : Blk) (r : RegRow) (cs : List Nat × List Nat),
    s.regReach a off.toNat = .at o → locate o = some (b, k) → regRow b k = some r → r.wide = false → b.base + k = o →
    counters b k = some cs → Completes (.counterClear a off freeze) s fun t =>
      (∀ c ∈ cs.1, t.reg64 (b.base + c) = 0) ∧ (∀ c ∈ cs.2, t.reg (b.base + c) = 0) ∧ t.reg o = (if freeze then 1 else 0) ∧
      (∀ p, p ≠ o → (∀ c ∈ cs.2, p ≠ b.base + c) → t.reg p = s.reg p) ∧
      (∀ p, (∀ c ∈ cs.1, p ≠ b.base + c) → t.reg64 p = s.reg64 p) ∧
      { t with regs := s.regs, wide := s.wide, ticking := s.ticking, freeCtr := s.freeCtr, courses := s.courses } = s ∧
      ((∀ g, b ≠ .course g) → t.ticking = s.ticking ∧ t.courses = s.courses)

/-- A host access of BAR0 of another size or alignment raises HST_ACCESS and changes nothing else; a read returns zeros (R9, R552). -/
def Sys2Proof.Machine.misaligned : Prop :=
  ∀ (s : State) (fn : Fin 5) (off : BitVec 32) (size : Nat) (write : Bool),
    s.fnLive fn = true → s.ready = true → off.toNat < 0x4000000 → (off.toNat % 4 ≠ 0 ∨ size ≠ 4) →
    Completes (.hostBar0Misaligned fn off size write) s fun t =>
      Presents s t 4 0x1007 0x11 ∧ t.courses = s.courses ∧ t.mem = s.mem ∧ t.host = s.host ∧ t.boot = s.boot ∧
      t.out = s.out ++ (if write then [] else [.completion fn false false (List.replicate size 0)])

/-- Reads and writes of registers (R9, R10, R12, R13, R113). -/
def Obligations.RegisterAccess : Prop := plainWrites ∧ noRegister ∧ pairs ∧ countersClear ∧ misaligned

/-! ### The host interface and the mailbox (R37, R403, R404, R418, R546 to R557) -/

/-- Requests of a function through BAR2 (R549 to R552). A write puts its bytes in near memory, a read returns what memory holds; an
address that is not backed is Unsupported for a read, drops a write, and raises HST_UNBACKED. Before READY a read
returns zeros and a write is ignored; a request of a function that cannot be reached has no effect. -/
def Sys2Proof.Machine.bar2Requests : Prop :=
  ∀ (s : State) (fn : Fin 5) (off : BitVec 39) (len : Fin 4097),
    (s.fnLive fn = true → s.ready = true →
      (∀ bs, bs ≠ [] → off.toNat + bs.length ≤ s.host.bar2Size.get fn →
        (∀ a, s.bar2Addr fn off.toNat bs.length = some a → Completes (.hostBar2Access fn off len (some bs)) s fun t =>
          (∀ b, t.byte b = if a ≤ b ∧ b < a + bs.length then bs.getD (b - a) 0 else s.byte b) ∧
          { t with mem := s.mem, memPoison := s.memPoison } = s) ∧
        (s.bar2Addr fn off.toNat bs.length = none → Completes (.hostBar2Access fn off len (some bs)) s fun t =>
          Presents s t 4 0x1008 0x11 ∧ t.mem = s.mem ∧ t.courses = s.courses ∧ t.out = s.out)) ∧
      (0 < len.val → off.toNat + len.val ≤ s.host.bar2Size.get fn →
        (∀ a, s.bar2Addr fn off.toNat len.val = some a →
          (∀ i, i < len.val → s.dirty (a + i) 1 = false) → Completes (.hostBar2Access fn off len none) s fun t =>
            (∃ cs : List (List Byte), t.out = s.out ++ cs.map (fun c => .completion fn false false c) ∧
              cs.flatten = s.bytes a len.val) ∧ { t with out := s.out } = s) ∧
        (∀ a, s.bar2Addr fn off.toNat len.val = some a → (∃ i, i < len.val ∧ s.dirty (a + i) 1 = true) →
          Completes (.hostBar2Access fn off len none) s fun t => Presents s t 4 0x1009 0x11 ∧ t.mem = s.mem ∧
            t.courses = s.courses) ∧
        (s.bar2Addr fn off.toNat len.val = none → Completes (.hostBar2Access fn off len none) s fun t =>
          Presents s t 4 0x1008 0x11 ∧ t.mem = s.mem ∧ t.out = s.out ++ [.completion fn true false []]))) ∧
    (s.fnLive fn = false → ∀ d, exec (.hostBar2Access fn off len d) s = .next s) ∧
    (s.fnLive fn = true → s.ready = false →
      (∀ bs, exec (.hostBar2Access fn off len (some bs)) s = .next s) ∧
      (0 < len.val → off.toNat + len.val ≤ s.host.bar2Size.get fn → Completes (.hostBar2Access fn off len none) s fun t =>
        (∃ cs : List (List Byte), t.out = s.out ++ cs.map (fun c => .completion fn false false c) ∧
          cs.flatten = List.replicate len.val 0) ∧ { t with out := s.out } = s))

/-- A doorbell (R550, R551): an aligned write to word t of page c adds its value to V of tally t of course c, or of course c of the
function's die, and leaves P; other words and pages do nothing. -/
def Sys2Proof.Machine.doorbells : Prop :=
  ∀ (s : State) (fn : Fin 5) (off : BitVec 32) (v : Word) (n : Fin 256),
    let page := off.toNat / 4096
    let rings (g : Course) : Prop := Completes (.doorbellWrite fn off v) s fun t =>
      (t.course g).tallyVal n = (s.course g).tallyVal n + v ∧ (t.course g).tallyPoi n = (s.course g).tallyPoi n ∧
      (∀ m, m ≠ n → (t.course g).tallyVal m = (s.course g).tallyVal m ∧ (t.course g).tallyPoi m = (s.course g).tallyPoi m) ∧
      (∀ h, h ≠ g → t.course h = s.course h) ∧ t.mem = s.mem
    (s.fnLive fn = true → s.ready = true → off.toNat % 4096 = 4 * n.val →
      (∀ g : Course, fn = 0 → s.parted = false → page = g.val → rings g) ∧
      (∀ k : Fin 8, fn ≠ 0 → page = k.val → rings (courseOf (vfDie fn) k)) ∧
      (fn = 0 → s.parted = true ∨ 32 ≤ page → exec (.doorbellWrite fn off v) s = .next s) ∧
      (fn ≠ 0 → 8 ≤ page → exec (.doorbellWrite fn off v) s = .next s)) ∧
    (s.fnLive fn = false ∨ s.ready = false ∨ 1024 ≤ off.toNat % 4096 ∨ off.toNat % 4 ≠ 0 →
      exec (.doorbellWrite fn off v) s = .next s)

/-- Reads of host memory (R552): a completion gives its data, poisoned under EP, to the first transfer that awaits some; one that
fails or times out delivers the rest of the transfer poisoned, and raises HST_HOST_ERROR. -/
def Sys2Proof.Machine.hostReads : Prop :=
  ∀ (s : State) (g : Course) (n : StreamId),
    let x := (s.course g).stream n.val
    (∀ tr rest, x.inflight = tr :: rest → tr.awaitsHost = true →
      (∀ bs ep, Completes (.hostReadCompletion g n (some (bs, ep))) s fun t =>
        (t.course g).stream n.val =
          { x with inflight := { tr with got := (tr.got ++ bs.map fun b => (b, ep)).take tr.len } :: rest } ∧
        (∀ h, h ≠ g → t.course h = s.course h) ∧ { t with courses := s.courses } = s) ∧
      let fails (c : Instr) : Prop := Completes c s fun t =>
        (∃ bad, (t.course g).stream n.val = { x with inflight := { tr with got := tr.got ++ bad } :: rest } ∧
          tr.got.length + bad.length = tr.len ∧ ∀ b ∈ bad, b.2 = true) ∧
        Presents s t 4 0x100A 0x11 ∧ (∀ h, h ≠ g → t.course h = s.course h) ∧ t.mem = s.mem
      fails (.hostReadCompletion g n none) ∧ fails (.hostCplTimeout g n)) ∧
    (x.awaiting = none → exec (.hostCplTimeout g n) s = .next s)

/-- Requests and data between host and device (R549 to R552). -/
def Obligations.HostTraffic : Prop := bar2Requests ∧ doorbells ∧ hostReads

/-- Only the state of the host interface has changed. -/
def Sys2Proof.Machine.OnlyHost (s t : State) (h : HostState) : Prop := t = { s with host := h }

/-- Configuration space, MSI-X, resets and the link (R37, R546 to R548, R553 to R555). Writes that a function holds take effect, and a
message that was held leaves once nothing holds it. An FLR resets the function, and the courses of its die, or all of them
for the physical function of a whole package. PERST# resets the host interface alone. A link that loses lanes narrows or goes
down, and retrains at 3.0 where it did not train. -/
def Obligations.HostFunctionsAndLink : Prop :=
  ∀ (s : State) (fn : Fin 5),
    let h := s.host
    let mine (e : Nat × Bool) : Prop := e.1 / 2048 = fn.val
    let held (v : Nat) : Bool := SMap.get h.pba (2048 * fn.val + v) false
    (s.fnLive fn = true →
      ((∀ e ∈ h.pba, ¬mine e) →
        (∀ on, Completes (.configurationSpaceWrite fn (.busMaster on)) s fun t => OnlyHost s t { h with bme := h.bme.set fn on }) ∧
        (∀ en mask, Completes (.configurationSpaceWrite fn (.msix en mask)) s fun t =>
          OnlyHost s t { h with msixEn := h.msixEn.set fn en, fnMask := h.fnMask.set fn mask })) ∧
      (∀ v e, h.pba = [(2048 * fn.val + v, true)] → v < 2048 → s.msixEntry fn v = e → e.masked = false →
        h.msixEn.get fn = true → h.fnMask.get fn = false → Completes (.configurationSpaceWrite fn (.busMaster true)) s fun t =>
          t.out = s.out ++ [.msix fn e.addr e.data] ∧ t.host = { h with bme := h.bme.set fn true, pba := [] }) ∧
      (∀ n : Fin 5, fn = 0 → s.parted = true → (∀ i : Fin 5, n.val < i.val → h.vfEnabled.get i = false) →
        Completes (.configurationSpaceWrite fn (.vfs n)) s fun t =>
          (∀ i : Fin 5, t.host.vfEnabled.get i = decide (i.val ≤ n.val)) ∧ { t with host := h } = s) ∧
      (∀ k, 30 ≤ k → k ≤ (if fn.val = 0 then 39 else 37) → Completes (.configurationSpaceWrite fn (.bar2Size k)) s fun t =>
        OnlyHost s t { h with bar2Size := h.bar2Size.set fn (2 ^ k) }) ∧
      (∀ k, (k < 30 ∨ (if fn.val = 0 then 39 else 37) < k) →
        exec (.configurationSpaceWrite fn (.bar2Size k)) s = .next s) ∧
      (∀ (v : Fin 2048) addr data masked, s.ready = true → v.val < s.vectors fn → held v.val = false →
        Completes (.msixTableWrite fn v addr data masked) s fun t => t.msixEntry fn v.val = ⟨addr, data, masked⟩ ∧
          (∀ f w, (f, w) ≠ (fn, v.val) → w < 2048 → t.msixEntry f w = s.msixEntry f w) ∧ t.out = s.out ∧ t.host.pba = h.pba ∧
          t.courses = s.courses ∧ t.mem = s.mem) ∧
      (∀ (v : Fin 2048) addr data masked, s.vectors fn ≤ v.val →
        exec (.msixTableWrite fn v addr data masked) s = .next s) ∧
      (fn.val = 0 → s.parted = false → Completes (.flr fn) s fun t => (∀ g : Course,
        ((t.course g).ctl = .halted ∨ (t.course g).ctl = .fenced) ∧ (∀ i, (t.course g).rs i = 0) ∧
        (∀ n, (t.course g).tallyVal n = 0)) ∧ t.host.bme.get 0 = false ∧ t.mem = s.mem) ∧
      (fn.val ≠ 0 → Completes (.flr fn) s fun t =>
        (∀ k : Fin 8, ∀ n, (t.course (courseOf (vfDie fn) k)).tallyVal n = 0) ∧
        (∀ g : Course, g.val / 8 ≠ (vfDie fn).val → t.course g = s.course g) ∧ t.host.bme.get fn = false ∧ t.mem = s.mem)) ∧
    (s.fnLive fn = false → exec (.flr fn) s = .next s ∧ (∀ c, exec (.configurationSpaceWrite fn c) s = .next s) ∧
      ∀ v addr data masked, exec (.msixTableWrite fn v addr data masked) s = .next s) ∧
    (∀ link, s.boot.perst = false → Completes (.perst true link) s fun t => t.boot.perst = true ∧ t.host.up = false ∧
      (∀ i, t.host.bme.get i = false) ∧ (∀ i v, v < 2048 → t.msixEntry i v = ⟨0, 0, true⟩) ∧ t.mem = s.mem ∧
      ∀ g : Course, (t.course g).ctl = (s.course g).ctl ∧ (∀ i, (t.course g).rs i = (s.course g).rs i) ∧
        ∀ n, (t.course g).tallyVal n = (s.course g).tallyVal n) ∧
    (∀ (k : Fin 4) w, s.boot.perst = true → 10 ≤ (s.reg (pr 0)).toNat % 16 → Completes (.perst false (some (k, w))) s fun t =>
      t = { s with boot := { s.boot with perst := false }
                   host := { h with up := true, gen := 6 - k.val, width := laneWidth w } }) ∧
    (∀ w, 11 ≤ (s.reg (pr 0)).toNat % 16 → h.up = false → s.boot.perst = false → Completes (.pcieRetrainTimer (some w)) s fun t =>
      OnlyHost s t { h with up := true, gen := 3, width := laneWidth w }) ∧
    (∀ w, h.up = true → exec (.pcieRetrainTimer w) s = .next s) ∧
    (∀ w, h.up = true → laneWidth w < h.width → Completes (.pcieLaneFailure (some w)) s fun t =>
      OnlyHost s t { h with width := laneWidth w }) ∧
    (h.up = true → Completes (.pcieLaneFailure none) s fun t => OnlyHost s t { h with up := false, gen := 0, width := 0 }) ∧
    (∀ w, h.up = false → exec (.pcieLaneFailure w) s = .next s)

/-- Slot bytes of the mailbox (R556): the header and the payload. -/
def Sys2Proof.Machine.slotOf (kind port conn : Nat) (payload : List Byte) : List Byte :=
  leBytes 1 kind ++ leBytes 1 port ++ leBytes 2 conn ++ leBytes 2 payload.length ++ leBytes 10 0 ++ payload

/-- A frame for the plinth controller arrives at a port that is up: no rule of R403 discards it, it is addressed to the port, broadcast
or sent to a neighbour-discovery group, and it is for no open connection or queue pair (R404). -/
structure Sys2Proof.Machine.PlinthFrameAt (s : State) (p : PortId) (f : List Byte) : Prop where
  runs : s.dieRuns (ioDie (ioAt (p.val / 6))) = true
  up : (s.ports.get p).up = true
  kept : frameFate f true = .ok
  addressed : s.forPlinth p f = true
  ours : ∀ u, f.take 6 = s.portMac p → udpOf f = some u → s.lctTarget p u = none ∧ s.roceTarget p u = none
  linked : s.linked (.net (ioAt (p.val / 6))) (.net 0) = true

/-- The mailbox (R403, R404, R412, R418, R433, R556, R557). Its rings are enabled only with a base and size that R556 allows. A frame for the plinth
controller, or a PRIV payload, takes the next slot of the receive ring, with TAIL moving on; with no room a frame is
dropped and reported, and a payload waits. The transmit ring's next slot leaves as a frame on its port, where that is up, or as a
payload on its connection, which a FAILED one ends at once; any other is skipped and reported, and HEAD moves on. A frame that R403
discards counts as an error of its port. -/
def Obligations.MailboxWorks : Prop :=
  ∀ (s : State),
    (∀ (a : Agent) (rx : Bool) (v : Word), Reaches s a (pr (if rx then 0x208 else 0x228)) →
      let base := (s.reg64 (pr (if rx then 0x200 else 0x220))).toNat
      let size := v.toNat / 2 % 8
      let keep := 2 * size + (if rx && v.getLsbD 5 then 32 else 0)
      let good : Prop := size < 7 ∧ base % 64 = 0 ∧ s.nearOk base (10240 * 2 ^ (4 + size)) = true
      (good → exec (.mboxRingEnable a rx v) s = .next (s.setReg (pr (if rx then 0x208 else 0x228)) (BitVec.ofNat 32 (keep + 1)))) ∧
      (¬good → exec (.mboxRingEnable a rx v) s =
        .next (s.setReg (pr (if rx then 0x208 else 0x228)) (BitVec.ofNat 32 (keep + 16))))) ∧
    (let tail := s.reg (pr 0x210)
      let slot := (s.reg64 (pr 0x200)).toNat + 10240 * (tail.toNat % s.mboxSize 0x208)
      let fills (c : Instr) (bs : List Byte) : Prop := Completes c s fun t => t.reg (pr 0x210) = tail + 1 ∧
        (∀ b, t.byte b = if slot ≤ b ∧ b < slot + bs.length then bs.getD (b - slot) 0 else s.byte b) ∧ t.courses = s.courses
      s.nearOk slot 10240 = true →
      (∀ p f, PlinthFrameAt s p f → 0 < s.mboxRoom →
        fills (.plinthFrame p f true) (slotOf 1 p.val 0 f)) ∧
      (∀ x m rest, s.dieRuns (ioDie x) = true → s.linked (.net x) (.net 0) = true → (s.net x).inbox = m :: rest →
        byteAt m.bytes 0 = 7 → s.privTarget x m.conn (privPayload m) = none → 0 < s.mboxRoom → fills (.priv x) (slotOf 2 0 (m.conn + (if x.val = 1 then 32768 else 0)) (privPayload m)))) ∧
    (∀ p f, PlinthFrameAt s p f → s.mboxRoom = 0 →
      s.boot.dropRaised = false → Completes (.plinthFrame p f true) s fun t => t.mem = s.mem ∧ t.courses = s.courses ∧
        Presents s t 4 0x100B 0x12) ∧
    (∀ p f fcs, s.dieRuns (ioDie (ioAt (p.val / 6))) = true → (s.ports.get p).up = true → frameFate f fcs ≠ .ok →
      Completes (.plinthFrame p f fcs) s fun t => t.mem = s.mem ∧ t.dies = s.dies ∧ t.regs = s.regs ∧ t.courses = s.courses ∧
        (frameFate f fcs = .counted → (s.reg ((Blk.port p).base + 0x30)).getLsbD 0 = false →
          t.reg64 ((Blk.port p).base + 0x20) =
            BitVec.ofNat 64 (min ((s.reg64 ((Blk.port p).base + 0x20)).toNat + 1) (2 ^ 64 - 1)))) ∧
    (∀ p f fcs, (s.ports.get p).up = false → exec (.plinthFrame p f fcs) s = .next s) ∧
    (∀ x m rest, s.dieRuns (ioDie x) = true → (s.net x).inbox = m :: rest → byteAt m.bytes 0 = 7 →
      (s.privTarget x m.conn (privPayload m) = none → s.linked (.net x) (.net 0) = true → s.mboxRoom = 0 → exec (.priv x) s = .next s) ∧
      (∀ a, s.privTarget x m.conn (privPayload m) = some a → exec (.priv x) s =
        .next ((s.modNet x fun n => { n with inbox := rest }).writeAny a (privPayload m) false true))) ∧
    (let head := s.reg (pr 0x22C)
      let slot := (s.reg64 (pr 0x220)).toNat + 10240 * (head.toNat % s.mboxSize 0x228)
      let bs := s.bytes slot 10240
      let conn := natAt bs 2 2
      let x := ioAt (conn / 32768)
      let k := (s.net x).conn (conn % 4096)
      let len := natAt bs 4 2
      let moved (t : State) : Prop := t.reg (pr 0x22C) = head + 1 ∧ t.mem = s.mem ∧ t.courses = s.courses
      (s.dieRuns 4 = true → (s.reg (pr 0x228)).getLsbD 0 = true → head ≠ s.reg (pr 0x230) → s.privHeld < 64 →
          s.nearOk slot 10240 = true →
        (∀ p : PortId, byteAt bs 0 = 1 → byteAt bs 1 = p.val → Completes .mboxTxSend s fun t => moved t ∧ t.dies = s.dies ∧
          t.out = s.out ++ (if (s.ports.get p).up then [.plinthFrame p ((bs.drop 16).take (min len 9216))] else [])) ∧
        (byteAt bs 0 = 2 → k.channel ≠ 0 → 16 + len ≤ k.maxSeg →
          (k.st = .opened → s.linked (.net 0) (.net x) = true →
            Completes .mboxTxSend s fun t => moved t ∧ t.out = s.out ∧ t.dies = s.dies ∧ ∃ m : NetMsg,
              (t.net x).queue = (s.net x).queue ++ [(conn % 4096, m)] ∧ m.origin = .plinth ∧
              m.bytes = netBytes 0x07 0 0xFFFF 0 ((bs.drop 16).take len)) ∧
          (k.st = .failed → Completes .mboxTxSend s fun t => moved t ∧ t.out = s.out ∧ t.dies = s.dies ∧ t.nets = s.nets)) ∧
        ((byteAt bs 0 ≠ 1 ∧ byteAt bs 0 ≠ 2) ∨ (byteAt bs 0 = 1 ∧ 12 ≤ byteAt bs 1) ∨
            (byteAt bs 0 = 2 ∧ (k.st = .closed ∨ k.channel = 0 ∨ k.maxSeg < 16 + len)) → s.boot.dropRaised = false →
          Completes .mboxTxSend s fun t => moved t ∧ t.out = s.out ∧ t.nets = s.nets ∧ Presents s t 4 0x100B 0x12)) ∧
      ((s.reg (pr 0x228)).getLsbD 0 = false ∨ head = s.reg (pr 0x230) ∨ 64 ≤ s.privHeld →
        exec .mboxTxSend s = .next s))

/-! ### Clocks and power (R464 to R470, R473 to R487, R577) -/

/-- Arbitration of leave (R470, R473, R475 to R478, R484, R485). A phase grants the one request of a die where it fits the free
credits and the step allowance: its credits are in use, and what asked may go on; else it waits one phase more. A copy of the grant logic that is out-voted in 3 phases in succession is recorded;
of the two that remain where boot has left one out, neither is out-voted, and a phase in which they differ grants nothing (R499,
R535). -/
def Sys2Proof.Machine.leaveGranted : Prop :=
  (∀ (s : State) (d : CDie) (c : Fin 3), s.dieRuns (cdieDie d) = true →
    let x := s.cdie d
    (x.arb.out = none → x.arb.odd = some (c, 2) → Completes (.arbitrationPhase (d, some c)) s fun t =>
      t.boot.failures = s.boot.failures ++ [⟨d.val, 0x0D, 1, 0, c.val⟩] ∧ t.mem = s.mem) ∧
    (∀ e, x.arb.out = some e → e ≠ c → Completes (.arbitrationPhase (d, some c)) s fun t =>
      (t.cdie d).inUse = x.inUse ∧ t.boot = s.boot ∧ t.dies = s.dies ∧ t.mem = s.mem)) ∧
  ∀ (s : State) (d : CDie) (r : Nat) (q : Req), r < 16 →
    let x := s.cdie d
    let free := s.effective d - x.inUseSum
    let step := (s.reg (dr (cdieDie d) 0x402C)).toNat
    s.dieRuns (cdieDie d) = true → s.presented d r = some q → (∀ p, p < 16 → p ≠ r → s.presented d p = none) → x.arb.latched = none → x.arb.kept = [] →
    (∀ i j, i < 16 → j < 16 → mapNum x.arb.force i = mapNum x.arb.force j → i = j) →
    (q.need ≤ free → q.need ≤ step → Completes (.arbitrationPhase (d, none)) s fun t =>
      (t.cdie d).inUse.toList.getD r 0 = x.inUse.toList.getD r 0 + q.need ∧
      (∀ p, p ≠ r → (t.cdie d).inUse.toList.getD p 0 = x.inUse.toList.getD p 0) ∧ t.dies = s.dies ∧ t.mem = s.mem ∧
      (∀ g, q.kind = .leave g → ∃ w h, (s.course g).wait = some w ∧ (t.course g).wait = none ∧ (t.course g).hold = some h ∧
        h.free = q.need ∧ (t.course g).rs w.sd = 0) ∧
      (∀ g k, q.kind = .queue g k → ((t.course g).queue k).granted = some (q.need, .pool)) ∧
      (∀ u, q.kind = .fwu u → ∃ f, (t.cdie u).fwuRun = some f ∧ f.granted = some (q.need, .pool))) ∧
    (free < q.need ∨ step < q.need → Completes (.arbitrationPhase (d, none)) s fun t => (t.cdie d).inUse = x.inUse ∧ t.dies = s.dies ∧
      t.mem = s.mem ∧
      (∀ g k, q.kind = .queue g k → ((t.course g).queue k).granted = ((s.course g).queue k).granted ∧
        ((t.course g).queue k).waitPhases = ((s.course g).queue k).waitPhases + 1))

/-- A budget register (R470): a write that keeps every condition takes effect; any other leaves the register and sets
BUDGET_REFUSED. -/
def Sys2Proof.Machine.budgetWrites : Prop :=
  ∀ (s : State) (a : Agent) (off : BitVec 32) (v : Word) (i : Nat), i ∈ [0, 4, 8, 0x10, 0x14, 0x18, 0x1C] →
    s.regReach a off.toNat = .at (pr (0x1000 + i)) →
    let w := (v &&& 0x7FF).toNat
    let e := if i = 0 then w else (s.reg (pr 0x1000)).toNat
    let cap := if i = 4 then w else (s.reg (pr 0x1004)).toNat
    let res := if i = 8 then w else (s.reg (pr 0x1008)).toNat
    let c (d : Nat) : Nat := if i = 0x10 + 4 * d then w else (s.reg (pr (0x1010 + 4 * d))).toNat
    let good : Prop := 700 ≤ e ∧ e ≤ 1500 ∧ 440 ≤ res ∧ res + 64 ≤ e ∧ res + 64 ≤ cap ∧
      (∀ d, d < 4 → c d = 0 ∨ 48 ≤ c d ∧ c d ≤ 1060) ∧ c 0 + c 1 + c 2 + c 3 ≤ e - res
    (good → exec (.budgetWrite a off v) s = .next (s.setReg (pr (0x1000 + i)) (v &&& 0x7FF))) ∧
    (¬good → exec (.budgetWrite a off v) s = .next (s.setReg (pr 0x1024) (s.reg (pr 0x1024) ||| 1)))

/-- Sensors and inputs (R485 to R487, R577). A reading sets the sensor; the first above THROTTLE raises THERMAL_THROTTLE, the first that
reaches CRIT raises THERMAL_CRIT and asserts the trip output, and F of the die becomes 8 less the degrees above THROTTLE. The cap input is
taken over by each compute die at a phase once boot has ended, and raises POWER_CAP as it is asserted. The comparator asserts the
trip output. -/
def Sys2Proof.Machine.sensorsAndInputs : Prop :=
  ∀ (s : State) (d : Die) (sensor : Fin 16) (celsius : Int), (d.val < 4 ∨ sensor.val < 8) →
    let hottest (x : DieState) : Nat := (x.temps.map (·.2)).foldl max 0
    let throttle := (s.reg (dr d 0x4020)).toNat % 256
    let crit := (s.reg (dr d 0x4020)).toNat / 256 % 256
    (Completes (.thermalReading d sensor celsius) s fun t =>
      let now := hottest (t.die d)
      (t.die d).temps = SMap.put (s.die d).temps sensor.val celsius.toNat 0 ∧ (t.die d).factor = 8 - (now - throttle) ∧
      (t.die d).hot = decide (throttle < now) ∧ (t.die d).critical = decide (crit ≤ now) ∧
      (∃ a b : List Report, (t.die d).presented = (s.die d).presented ++ a ++ b ∧
        a.map (·.code) = (if throttle < now ∧ (s.die d).hot = false then [0x0E06] else []) ∧
        b.map (·.code) = (if crit ≤ now ∧ (s.die d).critical = false then [0x0E07] else [])) ∧
      (crit ≤ now → (s.die d).critical = false → t.boot.tripPin = true ∧
        t.reg (dr d 0x4024) = s.reg (dr d 0x4024) ||| 0x200) ∧
      (now < crit ∨ (s.die d).critical = true → t.boot = s.boot ∧ t.regs = s.regs) ∧
      t.courses = s.courses ∧ t.mem = s.mem ∧ ∀ e, e ≠ d → t.die e = s.die e) ∧
    (∀ low, exec (.pkgCapChange low) s = .next { s with boot := { s.boot with capPin := low } }) ∧
    (∀ c : CDie, s.dieRuns (cdieDie c) = true → s.boot.booted = true → (s.cdie c).capApplied ≠ s.boot.capPin → Completes (.powerCapApply c) s fun t =>
      (t.cdie c).capApplied = s.boot.capPin ∧ (∀ e, e ≠ c → t.cdie e = s.cdie e) ∧
      (s.boot.capPin = true → Presents s t (cdieDie c) 0x0E08 0x0D) ∧ (s.boot.capPin = false → t.dies = s.dies)) ∧
    (∀ c : CDie, s.boot.booted = false ∨ (s.cdie c).capApplied = s.boot.capPin → exec (.powerCapApply c) s = .next s) ∧
    (Completes (.thermtripAnalog d) s fun t => (t.die d).comparator = true ∧ t.boot.tripPin = true ∧ t.courses = s.courses ∧
      t.mem = s.mem)

/-- PLLs and the reference (R464 to R468). The loss of the active PLL hands over to a locked standby with PLL_SWITCH, and that of the
standby, or a failed relock, raises PLL_STANDBY_LOST; a relock brings it back as standby. SWITCH changes over without a fault,
where the standby is locked. A lost reference is reported by every die that had it, and its return by none. -/
def Sys2Proof.Machine.clocksRun : Prop :=
  ∀ (s : State) (d : Die) (b : Bool),
    let x := s.die d
    let kept (t : State) : Prop := (∀ e, e ≠ d → t.die e = s.die e) ∧ t.courses = s.courses ∧ t.mem = s.mem ∧ t.regs = s.regs
    (x.started = true → x.pll b = .locked →
      (x.activeB = b → x.pll (!b) = .locked → Completes (.pllLost d b) s fun t => kept t ∧ (t.die d).pll b = .relocking ∧
        (t.die d).activeB = (!b) ∧ (t.die d).dead = x.dead ∧ Presents s t d 0x0E03 0x0D) ∧
      (x.activeB ≠ b → Completes (.pllLost d b) s fun t => kept t ∧ (t.die d).pll b = .relocking ∧
        (t.die d).activeB = x.activeB ∧ Presents s t d 0x0E04 0x0D) ∧
      (x.activeB = b → x.pll (!b) ≠ .locked → Completes (.pllLost d b) s fun t => kept t ∧ (t.die d).dead = true)) ∧
    (x.pll b ≠ .locked → exec (.pllLost d b) s = .next s) ∧
    (x.pll b = .relocking →
      (Completes (.pllRelockEnd d b true) s fun t => kept t ∧ (t.die d) = x.setPll b .locked ∧ t.boot = s.boot) ∧
      (Completes (.pllRelockEnd d b false) s fun t => kept t ∧ (t.die d).pll b = .out ∧ Presents s t d 0x0E04 0x0D ∧
        ∃ f, t.boot.failures = s.boot.failures ++ [f] ∧ f.die = d.val ∧ f.unit = 0x0D)) ∧
    (x.pll b ≠ .relocking → ∀ ok, exec (.pllRelockEnd d b ok) s = .next s) ∧
    (∀ a, Reaches s a (dr d 0x4004) →
      (x.started = true → x.pll (!x.activeB) = .locked → Completes (.pllSwitchCmd a d) s fun t => kept t ∧
        t.die d = { x with activeB := !x.activeB }) ∧
      (x.pll (!x.activeB) ≠ .locked → exec (.pllSwitchCmd a d) s = .next s)) ∧
    (Completes .refclkLoss s fun t => (∀ e, (t.die e).refOk = false ∧ ((s.die e).refOk = true → Presents s t e 0x0E05 0x0D) ∧
      ((s.die e).refOk = false → t.die e = s.die e)) ∧ t.courses = s.courses ∧ t.mem = s.mem) ∧
    (Completes .refclkRestored s fun t => ∀ e, t.die e = { s.die e with refOk := true })

/-- Power admission, thermal and cap inputs, and clocks (R464 to R487, R577). -/
def Obligations.PowerAndClocks : Prop := leaveGranted ∧ budgetWrites ∧ sensorsAndInputs ∧ clocksRun

/-! ### Reliability and error reporting (R496 to R498, R508 to R522, R527, R534) -/

/-- Self-tests (R221, R496 to R498). The tests of a schedule cover all eight groups of a course, and groups 6 and 7 of a compute die. A
test of a course's groups that ends clean is shown in REL_SELFTEST and updates its tally; a checker that fails raises
REL_CHECKER_LATENT, and its array leaves service. A test waits while the course that asked for it repoints. -/
def Sys2Proof.Machine.selfTests : Prop :=
  ∀ (s : State) (g : Course),
    let c := s.course g
    let frame (t : State) : Prop := (∀ h, h ≠ g → t.course h = s.course h) ∧ t.mem = s.mem
    (s.courseRuns g = true → Completes (.selftestPeriodic (.course g)) s fun t => frame t ∧
      (∃ x, (t.course g).selfTests = c.selfTests ++ [x] ∧ x.left = 0xFF ∧ x.te = false ∧ x.ntf = false) ∧
      ∃ y, (t.die (courseDie g)).selfTests = (s.die (courseDie g)).selfTests ++ [y] ∧ y.groups = 0xC0) ∧
    (∀ d : Die, (s.dieRuns d = true → d.val < 4 → Completes (.selftestPeriodic (.die d)) s fun t =>
        (t.die d).selfTests = (s.die d).selfTests ++ [⟨none, 0xC0⟩] ∧ t.courses = s.courses) ∧
      (4 ≤ d.val → exec (.selftestPeriodic (.die d)) s = .next s)) ∧
    (∀ x f, s.courseRuns g = true → c.selfTests = [x] → x.left ≠ 0 → x.left &&& 0xC0 = 0 → c.arr.repoint = .none → x.ntf = false →
      (f.groups = 0 → Completes (.selftestComplete (.course g) f) s fun t => frame t ∧ (t.course g).selfTests = [] ∧
        Tallied c (t.course g) x.te false x.tally ∧
        ((s.reg (cr g 0x3814)).getLsbD 31 = false → t.reg (cr g 0x3814) = BitVec.ofNat 32 (0x80000000 + x.left.toNat))) ∧
      (f.groups = 0x20 → x.left.getLsbD 5 = true → Completes (.selftestComplete (.course g) f) s fun t => frame t ∧
        (t.course g).selfTests = [] ∧ ∃ r ∈ (t.die (courseDie g)).presented, r.code = 0x0F09 ∧ r.srcUnit = 0x0E) ∧
      (f.groups = 0x01 → x.left.getLsbD 0 = true → f.array.val < c.arr.logical → c.ctl ≠ .fenced →
        Completes (.selftestComplete (.course g) f) s fun t =>
          (t.course g).arr.healthy = c.arr.healthy &&& ~~~(1#9 <<< c.arr.phys f.array.val) ∧ t.mem = s.mem)) ∧
    (c.testing = none → ∀ f, exec (.selftestComplete (.course g) f) s = .next s) ∧
    (∀ (d : Die) x rest f, s.dieRuns d = true → d.val < 4 → (s.die d).selfTests = x :: rest → x.owner = none → f.groups = 0 →
      Completes (.selftestComplete (.die d) f) s fun t => (t.die d).selfTests = rest ∧ t.courses = s.courses ∧
        (t.die d).presented = (s.die d).presented) ∧
    (∀ (d : Die) x i f, (s.die d).selfTests = [x] → x.owner = some (g, i) → c.arr.repoint ≠ .none →
      exec (.selftestComplete (.die d) f) s = .next s)

/-- FENCE and READMIT (R221, R508, R511). A fenced course runs nothing: its waits end, its queues are flushed with the tallies of what
had TE poisoned, and REL_COURSE_FENCED is raised. READMIT of an array of a quiesced course brings it back where its self-test passes,
and else raises REL_CHECKER_LATENT. -/
def Sys2Proof.Machine.fenceAndReadmit : Prop :=
  ∀ (s : State) (a : Agent) (g : Course), Reaches s a (cr g 0x380C) →
    let c := s.course g
    (c.ctl ≠ .fenced → c.adopted = false → Completes (.courseFence a g) s fun t => (t.course g).ctl = .fenced ∧
      (t.course g).wait = none ∧ (t.course g).stalled = none ∧
      (∀ q, ((t.course g).queue q).entries = [] ∧ ∀ e ∈ (c.queue q).entries, e.te = true → (t.course g).tallyPoi e.tally = true) ∧
      (∀ n, (t.course g).tallyVal n = c.tallyVal n) ∧ (∀ h, h ≠ g → t.course h = s.course h) ∧ t.mem = s.mem ∧
      ∃ r ∈ (t.die (courseDie g)).presented, r.code = 0x0F08 ∧ r.srcUnit = 0x0E) ∧
    (c.ctl = .fenced → exec (.courseFence a g) s = .next s) ∧
    (∀ p : Fin 16, s.quiesced g = true → p.val < 9 → c.arr.healthy.getLsbD p.val = false →
      (let h := c.arr.healthy ||| (1#9 <<< p.val)
       exec (.arrayReadmit a g p true) s = .next (s.setCourse g { c with
         arr := { c.arr with healthy := h, mapped := if 7 ≤ (arraysOf h).length then h else c.arr.mapped, runs := [] } })) ∧
      Completes (.arrayReadmit a g p false) s fun t => t.courses = s.courses ∧ t.mem = s.mem ∧
        Presents s t (courseDie g) 0x0F09 0x0E) ∧
    (∀ (p : Fin 16) ok, s.quiesced g = false ∨ 9 ≤ p.val ∨ c.arr.healthy.getLsbD p.val = true →
      exec (.arrayReadmit a g p ok) s = .next s)

/-- Words of staging SRAM and control storage (R515): a corrected one is counted; an uncorrectable one poisons its line, is counted,
captured and reported, once; in control storage it fences the course. -/
def Sys2Proof.Machine.sramWords : Prop :=
  ∀ (s : State) (g : Course) (n : Fin 3145728) (scrub : Bool), s.dieRuns (courseDie g) = true →
    let a := windowBase g + 8 * n.val / 64 * 64
    (∀ w, exec (.sramScrubVisit g w .ok scrub) s = .next s) ∧
    (∀ w, Completes (.sramScrubVisit g w .corrected scrub) s fun t => t.courses = s.courses ∧ t.mem = s.mem ∧ t.dies = s.dies ∧
      t.memPoison = s.memPoison ∧ ((s.reg (cr g 0x341C)).getLsbD 0 = false → t.reg64 (cr g 0x3400) =
        BitVec.ofNat 64 (min ((s.reg64 (cr g 0x3400)).toNat + 1) (2 ^ 64 - 1)))) ∧
    (s.poisoned a = false → Completes (.sramScrubVisit g (some n) .uncorrectable scrub) s fun t =>
      (∀ b, t.poisoned b = if a ≤ b ∧ b < a + 64 then true else s.poisoned b) ∧ t.mem = s.mem ∧ t.courses = s.courses ∧
      Presents s t (courseDie g) 0x0F0A 0x0E ∧ ((s.reg (cr g 0x3418)).getLsbD 31 = false →
        t.reg (cr g 0x3418) = BitVec.ofNat 32 (0x80000000 + (if scrub then 1 else 0)) ∧
        t.reg64 (cr g 0x3410) = BitVec.ofNat 64 (a - windowBase g))) ∧
    (s.poisoned a = true → exec (.sramScrubVisit g (some n) .uncorrectable scrub) s = .next s) ∧
    ((s.course g).ctl ≠ .fenced → Completes (.sramScrubVisit g none .uncorrectable scrub) s fun t =>
      (t.course g).ctl = .fenced ∧ t.mem = s.mem)

/-- Failures and their handling by the reliability units (R496 to R498, R508 to R511, R515). -/
def Obligations.FailuresHandled : Prop := lockstep ∧ selfTests ∧ fenceAndReadmit ∧ sramWords

/-- Mortar links (R516, R527, R534): a failed lane is repaired while its module has at most two, with REL_LINK_REPAIRED; a third takes
the module out of service, and the last module the direction, with what it carries lost. Each failure is recorded. A flit that
fails its CRC is replayed, which is counted. -/
def Sys2Proof.Machine.mortarLinks : Prop :=
  ∀ (s : State) (d : Die) (edge : Fin 3) (m : Fin 16) (lane : Fin 8), (edgeFar d.val edge.val).isSome = true →
    let old := ((s.die d).tx.get edge).get m
    let new := old + 2 ^ lane.val
    (old.testBit lane.val = false → laneCount old ≤ 2 → Completes (.mortarLaneFail d edge m lane) s fun t =>
      ((t.die d).tx.get edge).get m = new ∧ t.courses = s.courses ∧ t.mem = s.mem ∧
      (∃ f, t.boot.failures = s.boot.failures ++ [f] ∧ f.die = d.val ∧ f.unit = 0x0C ∧ f.inst = edge.val) ∧
      (laneCount new ≤ 2 → Presents s t d 0x0F0E 0x0E ∧ t.msgs = s.msgs) ∧
      (2 < laneCount new → 0 < t.modules d edge → Presents s t d 0x0F0F 0x0E ∧ t.msgs = s.msgs) ∧
      (2 < laneCount new → t.modules d edge = 0 → (∀ x ∈ t.msgs, t.reachable x = true ∧ x ∈ s.msgs) ∧
        ∃ r q, (t.die d).presented = (s.die d).presented ++ [r, q] ∧ r.code = 0x0F0F ∧ q.code = 0x0F10)) ∧
    (old.testBit lane.val = true ∨ 2 < laneCount old → exec (.mortarLaneFail d edge m lane) s = .next s) ∧
    (Completes (.flitCrcFail d edge) s fun t => t.regs = s.regs ∧ { t with wide := s.wide } = s ∧
      ((s.reg ((Blk.mortar d).base + 0x28)).getLsbD 0 = false → t.reg64 ((Blk.mortar d).base + 0x10 + 8 * edge.val) =
        BitVec.ofNat 64 (min ((s.reg64 ((Blk.mortar d).base + 0x10 + 8 * edge.val)).toNat + 1) (2 ^ 64 - 1))))

/-- A die's error reporter (R517 to R522). A report takes the next number, is shown in REL_LAST, and in REL_FIRST where that is free,
and is queued; reports of one cycle go by unit, instance and sub-unit. With 48 queued it stays in the last-report buffer, and
the next one drops what is there, counted in its class. Once fewer than 32 are queued the buffer is queued too. -/
def Sys2Proof.Machine.reportsAccepted : Prop :=
  ∀ (s : State) (d : Die), s.dieRuns d = true →
    let x := s.die d
    let shown (t : State) (o : Nat) (e : ErrRec) : Prop :=
      ∀ i, i < 8 → t.reg (dr d (o + 4 * i)) = BitVec.ofNat 32 (natAt (e.bytes d) (4 * i) 4)
    let frame (t : State) : Prop := t.courses = s.courses ∧ t.mem = s.mem ∧ ∀ e, e ≠ d → t.die e = s.die e
    (∀ r, x.presented = [r] → let e : ErrRec := ⟨x.seqNext, r, false⟩
      Completes (.errorReport d) s fun t => frame t ∧ (t.die d).presented = [] ∧ (t.die d).seqNext = x.seqNext + 1 ∧
        shown t 0x2040 e ∧ (t.reg (dr d 0x2000)).getLsbD 31 = true ∧
        ((s.reg (dr d 0x2000)).getLsbD 31 = false → shown t 0x2020 e) ∧
        ((s.reg (dr d 0x2000)).getLsbD 31 = true → ∀ i, i < 8 → t.reg (dr d (0x2020 + 4 * i)) = s.reg (dr d (0x2020 + 4 * i))) ∧
        (x.lastBuf = none → x.errQueue.length < 48 → (t.die d).errQueue = x.errQueue ++ [e] ∧ (t.die d).lastBuf = none) ∧
        (x.lastBuf = none → 48 ≤ x.errQueue.length → (t.die d).errQueue = x.errQueue ∧ (t.die d).lastBuf = some e) ∧
        (∀ old, x.lastBuf = some old → (t.die d).errQueue = x.errQueue ∧ (t.die d).lastBuf = some e)) ∧
    (∀ r q, x.presented = [r, q] → x.lastBuf = none → x.errQueue.length < 47 → Completes (.errorReport d) s fun t => frame t ∧
      (q.rank < r.rank → (t.die d).errQueue = x.errQueue ++ [⟨x.seqNext, q, false⟩, ⟨x.seqNext + 1, r, false⟩]) ∧
      (r.rank ≤ q.rank → (t.die d).errQueue = x.errQueue ++ [⟨x.seqNext, r, false⟩, ⟨x.seqNext + 1, q, false⟩])) ∧
    (∀ e, x.lastBuf = some e → x.errQueue.length < 32 → Completes (.overflowFlush d) s fun t => frame t ∧
      (t.die d).lastBuf = none ∧ (∀ i, i < 16 → t.reg (dr d (0x2080 + 4 * i)) = 0) ∧
      ((∀ i, i < 16 → s.reg (dr d (0x2080 + 4 * i)) = 0) → (t.die d).errQueue = x.errQueue ++ [{ e with afterOverflow := false }]) ∧
      (∀ i, i < 16 → s.reg (dr d (0x2080 + 4 * i)) ≠ 0 → (∀ j, j < 16 → j ≠ i → s.reg (dr d (0x2080 + 4 * j)) = 0) →
        ∃ o, (t.die d).errQueue = x.errQueue ++ [o, { e with afterOverflow := true }] ∧ o.rep.code = 0x0F01 ∧
          o.rep.info = BitVec.ofNat 64 ((s.reg (dr d (0x2080 + 4 * i))).toNat + 4294967296 * (i + 1)))) ∧
    (x.lastBuf = none ∨ 32 ≤ x.errQueue.length → exec (.overflowFlush d) s = .next s)

/-- A die's error ring (R520). EN takes effect only with a base in backed near memory, aligned to the ring, and a SIZE that is not
reserved, else BADBASE is set. The oldest queued record is written to the entry of REL_RING_TAIL, which moves on, while the ring
is enabled and not full. -/
def Sys2Proof.Machine.errorRing : Prop :=
  ∀ (s : State) (d : Die), s.dieRuns d = true →
    let base := (s.reg64 (dr d 0x2008)).toNat
    (∀ (a : Agent) (v : Word), Reaches s a (dr d 0x2004) →
      let size := v.toNat / 4 % 16
      let keep := v.toNat % 64 - v.toNat % 2
      (s.ringShut a (dr d 0x2004) = true → exec (.errorRingEnable a d v) s = .next s) ∧
      (s.ringShut a (dr d 0x2004) = false →
      let good : Prop := size ≤ 8 ∧ base % (32 * 2 ^ (7 + size)) = 0 ∧ s.nearOk base (32 * 2 ^ (7 + size)) = true
      (good → exec (.errorRingEnable a d v) s = .next (s.setReg (dr d 0x2004) (BitVec.ofNat 32 (keep + 1)))) ∧
      (¬good → exec (.errorRingEnable a d v) s = .next (s.setReg (dr d 0x2004) (BitVec.ofNat 32 (keep + 64)))))) ∧
    (let ctrl := s.reg (dr d 0x2004)
      let tail := s.reg (dr d 0x2014)
      let size := 2 ^ (7 + ctrl.toNat / 4 % 16)
      let full : Prop := (tail - s.reg (dr d 0x2010)).toNat = size
      let a := base + 32 * (tail.toNat % size)
      (∀ r rest, (s.die d).errQueue = r :: rest → ctrl.getLsbD 0 = true → ¬full → s.nearOk a 32 = true →
        Completes (.errorRingWrite d) s fun t => (t.die d).errQueue = rest ∧ t.reg (dr d 0x2014) = tail + 1 ∧
          (∀ b, t.byte b = if a ≤ b ∧ b < a + 32 then (r.bytes d).getD (b - a) 0 else s.byte b) ∧ t.courses = s.courses ∧
          ∀ e, e ≠ d → t.die e = s.die e) ∧
      ((s.die d).errQueue = [] ∨ ctrl.getLsbD 0 = false ∨ full → exec (.errorRingWrite d) s = .next s))

/-- Mortar links, error records and the error ring of a die (R516 to R522). -/
def Obligations.ErrorsReported : Prop := mortarLinks ∧ reportsAccepted ∧ errorRing

/-! ### Boot, the ledger and the key-wrapping key (R536 to R545, R577 to R581, R586) -/

/-- Package reset (R344, R579 to R581, R586): everything in the package is at its reset value. The flash, what the attached
far-memory devices keep, the levels of the board's inputs and the comparators lie outside it; THERMTRIP_N stays asserted only
while a comparator holds it. Power lost unplanned does the same, with THERMTRIP_N released, and cuts short the ledger record
that was being written. -/
def Sys2Proof.Machine.packageResets : Prop :=
  ∀ s : State,
    let volatile (t : State) : Prop :=
      { t with dies := State.reset.dies, fars := State.reset.fars, boot := BootState.reset, freeCtr := 0, stamp := 0, out := [],
               pending := [] } = State.reset ∧
      (∀ d, t.die d = { DieState.reset with comparator := (s.die d).comparator, refOk := (s.die d).refOk }) ∧
      (∀ l, t.farc l = { FarState.reset with media := (s.farc l).media, poison := (s.farc l).poison }) ∧
      { t.boot with flash := [], tripPin := false, capPin := false, perst := true } = BootState.reset ∧
      t.boot.capPin = s.boot.capPin ∧ t.boot.perst = s.boot.perst
    (Completes .packageReset s fun t => volatile t ∧ t.boot.flash = s.boot.flash ∧
      (t.boot.tripPin = true ↔ s.boot.tripPin = true ∧ ∃ d, (s.die d).comparator = true)) ∧
    (Completes .unplannedPowerLoss s fun t => volatile t ∧ t.boot.tripPin = false ∧
      (s.boot.failures = [] → t.boot.flash = s.boot.flash) ∧
      ∀ f rest, s.boot.failures = f :: rest →
        let h := s.ledgerHalf
        let n := s.ledgerUsed h
        let r : LedgerRec := ⟨2, 0, 0, 0, s.bootNumber, 0, f⟩
        (16384 ≤ n → t.boot.flash = s.boot.flash) ∧
        (n < 16384 → ∃ k, k ≤ 32 ∧ t.boot.flash = (s.flashPut (h * halfSize + 32 * n) (r.bytes.take k)).boot.flash))

/-- The boot has stopped at step 1 (R541). -/
def Sys2Proof.Machine.StoppedFirst (s t : State) : Prop :=
  t.boot.run = none ∧ t.boot.faultPin = true ∧ (t.reg (pr 0)).toNat % 16 = 1 ∧ (t.reg (pr 0)).getLsbD 5 = true ∧
    (∃ r ∈ (t.die 4).presented, r.code = 0x1001 ∧ r.srcUnit = 0x12) ∧
    ((s.reg (pr 0x10)).getLsbD 31 = false → t.reg (pr 0x10) = 0x80011001) ∧ t.courses = s.courses ∧ t.mem = s.mem

/-- The start of a boot (R539 to R543, R581). With PKG_RST_N low BOOT_START counts the boot from the ledger, and runs the steps; a
comparator holds it at step 1 until it releases. A failure of step 1, which has one path, stops it. -/
def Sys2Proof.Machine.bootBegins : Prop :=
  ∀ (s : State) (env : BootEnv),
    let hot (s : State) : Prop := ∃ d, (s.die d).comparator = true
    let first (x : PathResult) : Prop :=
      (env.paths.find? fun f => f.step == 1 && f.unit == 0 && f.path == 0).map (·.result) = some x
    (s.boot.rstLow = false → exec (.bootStart env) s = .next s) ∧
    (s.boot.rstLow = true → hot s → s.reg (pr 0) = 0 → Completes (.bootStart env) s fun t =>
      t.boot.hold = true ∧ t.boot.rstLow = false ∧ (t.reg (pr 0)).toNat % 16 = 1 ∧ t.courses = s.courses ∧ t.mem = s.mem ∧
      (s.activeHalf = none → t.reg (pr 4) = 1 ∧ t.reg (pr 0) = 0x901 ∧
        ∃ r ∈ (t.die 4).presented, r.code = 0x1005 ∧ r.srcUnit = 0x12) ∧
      ∀ h, s.activeHalf = some h → ∃ n, (∀ r ∈ s.ledgerRecs h, r.boot ≤ n) ∧ (∃ r ∈ s.ledgerRecs h, r.boot = n) ∧
        t.reg (pr 4) = BitVec.ofNat 32 (n + 1) ∧
        ((t.reg (pr 0)).getLsbD 11 = true ↔ (n + 1) % 8 = 0 ∨ ∃ r ∈ s.ledgerRecs h, r.kind = 4 ∧ r.boot = n)) ∧
    (s.boot.rstLow = true → ¬hot s → first .fail → Completes (.bootStart env) s fun t => StoppedFirst s t) ∧
    (s.boot.rstLow = true → ¬hot s → first .hang → Completes (.bootStart env) s fun t =>
      (∃ r, t.boot.run = some r ∧ r.step = 1 ∧ r.units = [0] ∧ r.paths = some [0]) ∧ (t.reg (pr 0)).toNat % 16 = 1 ∧
      t.boot.faultPin = s.boot.faultPin ∧ t.courses = s.courses ∧ t.mem = s.mem) ∧
    (s.boot.hold = false → Completes .comparatorRelease s fun t =>
      (∀ d, t.die d = { s.die d with comparator := false }) ∧ { t with dies := s.dies } = s) ∧
    (∀ r, s.boot.hold = true → s.boot.run = some r → r.env = env → r.step = 0 → r.units = [] → first .fail →
      Completes .comparatorRelease s fun t => StoppedFirst s t ∧ ∀ d, (t.die d).comparator = false)

/-- A step's limit (R539 to R541): BOOT_STEP_TIMEOUT fails the path that runs, with its ATTEMPT record and its report. Where it is the
last path of a step whose failure stops the boot, the boot stops; after step 13 it goes on to READY, without FW_OK. -/
def Sys2Proof.Machine.bootLimits : Prop :=
  ∀ s : State,
    (s.boot.run = none ∨ s.boot.hold = true → exec .bootStepTimeout s = .next s) ∧
    ∀ r u us p, s.boot.run = some r → s.boot.hold = false → r.units = u :: us → r.paths = some [p] →
      let h := s.ledgerHalf
      let n := s.ledgerUsed h
      let rec0 : LedgerRec := ⟨1, r.step, p, 3, r.number, 0x1003, { unitPart r.step u with detail := 0 }⟩
      (r.step ∈ [1, 2, 3, 4, 5, 7] → Completes .bootStepTimeout s fun t =>
        t.boot.run = none ∧ t.boot.faultPin = true ∧ (t.reg (pr 0)).getLsbD 5 = true ∧
        (r.env.flashOk = true → n < 16384 → t.boot.flash = (s.flashPut (h * halfSize + 32 * n) rec0.bytes).boot.flash) ∧
        (r.env.flashOk = false → t.boot.flash = s.boot.flash ∧ ∃ x ∈ (t.die 4).presented, x.code = 0x1005) ∧
        (∃ x ∈ (t.die 4).presented, x.code = 0x1003 ∧ x.srcUnit = 0x12) ∧ t.courses = s.courses ∧ t.mem = s.mem) ∧
      (r.step = 13 → us = [] → (∀ f ∈ r.env.paths, f.step ≠ 14) → Completes .bootStepTimeout s fun t =>
        t.boot.run = none ∧ t.boot.booted = true ∧ (t.reg (pr 0)).toNat % 16 = 14 ∧ (t.reg (pr 0)).getLsbD 4 = true ∧
        (t.reg (pr 0)).getLsbD 7 = (s.reg (pr 0)).getLsbD 7 ∧ t.boot.faultPin = s.boot.faultPin ∧
        (∃ x ∈ (t.die 4).presented, x.code = 0x1003 ∧ x.srcUnit = 0x12) ∧ t.courses = s.courses ∧ t.mem = s.mem)

/-- Records of the ledger in service (R545): a failure's FAILURE record, the oldest first, and the CLEAR record of RETRY_PRIMARY. A
write that fails, or a full half, raises BOOT_LEDGER. -/
def Sys2Proof.Machine.ledgerRecords : Prop :=
  ∀ (s : State) (a : Agent) (ok : Bool), s.dieRuns 4 = true →
    let h := s.ledgerHalf
    let n := s.ledgerUsed h
    let put (kind : Nat) (f : FailRec) : SMap Byte :=
      (s.flashPut (h * halfSize + 32 * n) (LedgerRec.bytes ⟨kind, 0, 0, 0, s.bootNumber, 0, f⟩)).boot.flash
    (s.boot.failures = [] → exec (.failureRecord ok) s = .next s) ∧
    (∀ f fs, s.boot.failures = f :: fs →
      (ok = true → n < 16384 → exec (.failureRecord ok) s =
        .next { s with boot := { s.boot with failures := fs, flash := put 2 f } }) ∧
      (ok = false ∨ 16384 ≤ n → Completes (.failureRecord ok) s fun t => t.boot = { s.boot with failures := fs } ∧
        t.regs = s.regs ∧ t.courses = s.courses ∧ t.mem = s.mem ∧ Presents s t 4 0x1005 0x12)) ∧
    (Reaches s a (pr 0xE0) →
      (ok = true → n < 16384 → exec (.retryPrimary a ok) s =
        .next { s with boot := { s.boot with flash := put 4 ⟨4, 0x12, 0, 0, 0⟩ } }) ∧
      (ok = false ∨ 16384 ≤ n → Completes (.retryPrimary a ok) s fun t => t.boot = s.boot ∧ t.regs = s.regs ∧
        t.courses = s.courses ∧ t.mem = s.mem ∧ Presents s t 4 0x1005 0x12))

/-- The key-wrapping key (R537): DERIVE starts a derivation from the peer's key once the identity is known and while none runs;
CLEAR drops the key. A derivation that ends gives the key; an invalid point gives none, sets BAD and raises BOOT_KWK. -/
def Sys2Proof.Machine.keyDerived : Prop :=
  ∀ (s : State) (a : Agent), s.dieRuns 4 = true →
    (Reaches s a (pr 0x160) →
      (∀ q, s.boot.helper = some q → s.boot.kwkBusy = none →
        exec (.kwkDerive a) s = .next { s with boot := { s.boot with kwkBusy := some (s.kwkOf q) } } ∧
        (onCurve s.kwkPeer = false → s.kwkOf q = none)) ∧
      (s.boot.helper = none ∨ s.boot.kwkBusy ≠ none → exec (.kwkDerive a) s = .next s) ∧
      exec (.kwkClear a) s = .next { s with boot := { s.boot with kwk := none, kwkBusy := none } }) ∧
    (s.boot.kwkBusy = none → exec .kwkDeriveDone s = .next s) ∧
    (∀ k, s.boot.kwkBusy = some k → Completes .kwkDeriveDone s fun t => t.boot = { s.boot with kwk := k, kwkBusy := none } ∧
      t.courses = s.courses ∧ t.mem = s.mem ∧
      (k ≠ none → t.regs = s.regs ∧ t.dies = s.dies) ∧
      (k = none → t.reg (pr 0x164) = s.reg (pr 0x164) ||| 0x80000000 ∧ Presents s t 4 0x1006 0x12))

/-- Reset, boot, the boot ledger and the key-wrapping key (R344, R536 to R545, R577 to R581, R586). -/
def Obligations.BootRuns : Prop := packageResets ∧ bootBegins ∧ bootLimits ∧ ledgerRecords ∧ keyDerived
end

