-- ==== Sys2Proof/Laws/Gcm.lean ====
section
/-! SUPPORT. Gcm: a sealed frame opens to its plaintext (R420, R422), for a key whose round keys are 16 bytes each. -/

namespace Sys2Proof.Machine

/-- Every number of a list is a byte. -/
def Bytes (l : List Nat) : Prop := ∀ x ∈ l, x < 256

/-- A key has 15 round keys of 16 bytes each. -/
def GoodKey (key : List Nat) : Prop := (∀ k ∈ aesKeys key, Bytes k ∧ k.length = 16) ∧ (aesKeys key).length = 15

theorem xor_byte {a b : Nat} (ha : a < 256) (hb : b < 256) : a ^^^ b < 256 := Nat.xor_lt_two_pow (n := 8) ha hb

theorem gfDbl_byte {a : Nat} (h : a < 256) : gfDbl 0x11B a < 256 := by
  have all : ∀ x : Fin 256, gfDbl 0x11B x.val < 256 := by decide +kernel
  exact all ⟨a, h⟩

theorem gfMulN_byte {a : Nat} (h : a < 256) : ∀ n b, gfMulN 0x11B a b n < 256
  | 0, _ => by simp [gfMulN]
  | n + 1, b => by
    unfold gfMulN
    refine xor_byte (gfDbl_byte (gfMulN_byte h n _)) ?_
    rcases Nat.mod_two_eq_zero_or_one b with e | e <;> rw [e] <;> omega

theorem sboxOf_byte (a : Nat) : sboxOf a < 256 := Nat.mod_lt _ (by omega)

theorem invSboxOf_byte (a : Nat) : invSboxOf a < 256 := Nat.mod_lt _ (by omega)

theorem Bytes.getD {l : List Nat} (h : Bytes l) (i : Nat) : l.getD i 0 < 256 := by
  rw [List.getD_eq_getElem?_getD]
  cases e : l[i]? with
  | none => simp
  | some x => exact h x (List.mem_of_getElem? e)

theorem Bytes.xorL {a b : List Nat} (ha : Bytes a) (hb : Bytes b) : Bytes (xorL a b) := by
  induction a generalizing b with
  | nil => simp [Machine.xorL, Bytes]
  | cons x a ih => cases b with
    | nil => simp [Machine.xorL, Bytes]
    | cons y b =>
      intro z hz
      rcases List.mem_cons.1 hz with rfl | hz
      · exact xor_byte (ha _ (by simp)) (hb _ (by simp))
      · exact ih (fun x hx => ha x (by simp [hx])) (fun x hx => hb x (by simp [hx])) z hz

theorem Bytes.permute {l : List Nat} (f : Nat → Nat) (h : Bytes l) : Bytes (permute f l) := by
  intro x hx
  obtain ⟨i, -, rfl⟩ := List.mem_map.1 hx
  exact h.getD _

theorem mixWith_bytes (k : List Nat) {st : List Nat} (h : Bytes st) : Bytes (mixWith k st) := by
  intro x hx
  obtain ⟨i, -, rfl⟩ := List.mem_map.1 hx
  have go (l : List Nat) : ∀ a, a < 256 → l.foldl (fun acc j => acc ^^^
      mixMul (k.getD ((4 + j - i % 4) % 4) 0) (st.getD (4 * (i / 4) + j) 0)) a < 256 := by
    induction l with
    | nil => exact fun a h => h
    | cons j l ih => exact fun a ha => ih _ (xor_byte ha (gfMulN_byte (h.getD _) 4 _))
  exact go _ 0 (by omega)

theorem GoodKey.round {key : List Nat} (h : GoodKey key) (i : Nat) : Bytes ((aesKeys key).getD i []) := by
  rw [List.getD_eq_getElem?_getD]
  cases e : (aesKeys key)[i]? with
  | none => simp [Bytes]
  | some k => exact (h.1 k (List.mem_of_getElem? e)).1

theorem GoodKey.length {key : List Nat} (h : GoodKey key) {i : Nat} (hi : i < 15) : ((aesKeys key).getD i []).length = 16 := by
  rw [List.getD_eq_getElem _ _ (h.2 ▸ hi)]
  exact (h.1 _ (List.getElem_mem _)).2

theorem Bytes.sub {l : List Nat} : Bytes (l.map sboxOf) := by
  intro x hx
  obtain ⟨y, -, rfl⟩ := List.mem_map.1 hx
  exact sboxOf_byte y

theorem aesEnc_bytes {key : List Nat} (h : GoodKey key) (b : List Nat) : Bytes (aesEnc key b) :=
  (Bytes.sub.permute _).xorL (h.round 14)

theorem aesEnc_length {key : List Nat} (h : GoodKey key) (b : List Nat) : (aesEnc key b).length = 16 := by
  unfold aesEnc xorL
  rw [List.length_zipWith, h.length (by omega)]
  simp [permute]

theorem gcmStream_length {key : List Nat} (h : GoodKey key) (iv : List Nat) : ∀ n c, (gcmStream key iv n c).length = 16 * n
  | 0, _ => rfl
  | n + 1, c => by
    unfold gcmStream
    rw [List.length_append, aesEnc_length h, gcmStream_length h iv n]
    ring

theorem natLe_bytes : ∀ n v, Bytes (natLe n v)
  | 0, _ => by simp [natLe, Bytes]
  | n + 1, v => by
    intro x hx
    rcases List.mem_cons.1 hx with rfl | hx
    · omega
    · exact natLe_bytes n _ x hx

theorem Bytes.append {a b : List Nat} (ha : Bytes a) (hb : Bytes b) : Bytes (a ++ b) := by
  intro x hx
  rcases List.mem_append.1 hx with h | h
  · exact ha x h
  · exact hb x h

theorem natBe_bytes (n v : Nat) : Bytes (natBe n v) := fun x hx => natLe_bytes n v x (List.mem_reverse.1 hx)

theorem gcmStream_bytes {key : List Nat} (h : GoodKey key) (iv : List Nat) : ∀ n c, Bytes (gcmStream key iv n c)
  | 0, _ => by simp [gcmStream, Bytes]
  | n + 1, c => (aesEnc_bytes h _).append (gcmStream_bytes h iv n (c + 1))

theorem toNats_bytes (l : List Byte) : Bytes (toNats l) := by
  intro x hx
  obtain ⟨b, -, rfl⟩ := List.mem_map.1 hx
  exact b.isLt

theorem toNats_ofNats {l : List Nat} (h : Bytes l) : toNats (ofNats l) = l := by
  induction l with
  | nil => rfl
  | cons x l ih =>
    show (BitVec.ofNat 8 x).toNat :: toNats (ofNats l) = x :: l
    rw [ih fun y hy => h y (by simp [hy]), BitVec.toNat_ofNat, Nat.mod_eq_of_lt (h x (by simp))]

theorem ofNats_toNats (l : List Byte) : ofNats (toNats l) = l := by
  induction l with
  | nil => rfl
  | cons b l ih =>
    show BitVec.ofNat 8 b.toNat :: ofNats (toNats l) = b :: l
    rw [ih, BitVec.ofNat_toNat, BitVec.setWidth_eq]

theorem xorL_xorL : ∀ (a s : List Nat), a.length ≤ s.length → xorL (xorL a s) s = a
  | [], _, _ => rfl
  | x :: a, [], h => by simp at h
  | x :: a, y :: s, h => by
    show (x ^^^ y ^^^ y) :: xorL (xorL a s) s = _
    rw [xorL_xorL a s (by simpa using h), Nat.xor_assoc, Nat.xor_self, Nat.xor_zero]

theorem gcmCrypt_length {key : List Nat} (h : GoodKey key) (iv d : List Nat) : (gcmCrypt key iv d).length = d.length := by
  unfold gcmCrypt xorL
  rw [List.length_zipWith, gcmStream_length h]
  omega

theorem gcmCrypt_gcmCrypt {key : List Nat} (h : GoodKey key) (iv d : List Nat) : gcmCrypt key iv (gcmCrypt key iv d) = d := by
  have e : (xorL d (gcmStream key iv ((d.length + 15) / 16) 2)).length = d.length := gcmCrypt_length h iv d
  unfold gcmCrypt
  rw [e]
  exact xorL_xorL _ _ (by rw [gcmStream_length h]; omega)

theorem gcmTag_length {key : List Nat} (h : GoodKey key) (iv aad ct : List Nat) : (gcmTag key iv aad ct).length = 16 := by
  have n (m : Nat) : ∀ v, (natLe m v).length = m := by
    induction m with
    | zero => exact fun _ => rfl
    | succ m ih => exact fun v => by simp [natLe, ih]
  unfold gcmTag xorL
  rw [List.length_zipWith, aesEnc_length h]
  simp [natBe, n]

/-- The frame that sealing gives opens to its plaintext, where its header is 32 bytes and gives the packet number. -/
theorem openFrame_sealFrame (k : NetKey) (pn : Nat) (hdr plain : List Byte) (hk : GoodKey (toNats k.key)) (h : hdr.length = 32)
    (hp : natAt hdr 8 8 = pn) : (sealFrame k pn hdr plain).length = plain.length + 48 ∧ (sealFrame k pn hdr plain).take 32 = hdr ∧
      openFrame k (sealFrame k pn hdr plain) = some plain := by
  set ct := gcmCrypt (toNats k.key) (lctIv k pn) (toNats plain) with hct
  have hb : Bytes ct := (toNats_bytes plain).xorL (gcmStream_bytes hk _ _ _)
  have hl : ct.length = plain.length := by rw [hct, gcmCrypt_length hk]; simp [toNats]
  set tag := gcmTag (toNats k.key) (lctIv k pn) (toNats hdr) ct with htag
  have ht : tag.length = 16 := gcmTag_length hk ..
  have hf : sealFrame k pn hdr plain = hdr ++ ofNats ct ++ ofNats tag := rfl
  have hlen : (sealFrame k pn hdr plain).length = plain.length + 48 := by
    rw [hf]; simp [ofNats, hl, ht, h]; omega
  have htake : (sealFrame k pn hdr plain).take 32 = hdr := by
    rw [hf, List.append_assoc]; exact List.take_left' h
  have hdrop : (sealFrame k pn hdr plain).drop 32 = ofNats ct ++ ofNats tag := by
    rw [hf, List.append_assoc]; exact List.drop_left' h
  refine ⟨hlen, htake, ?_⟩
  unfold openFrame
  dsimp only
  rw [hlen, htake, hp, hdrop]
  have e1 : (ofNats ct ++ ofNats tag).take (plain.length + 48 - 48) = ofNats ct := List.take_left' (by simp [ofNats, hl])
  have e2 : (sealFrame k pn hdr plain).drop (32 + (plain.length + 48 - 48)) = ofNats tag := by
    rw [← List.drop_drop, hdrop]; exact List.drop_left' (by simp [ofNats, hl])
  rw [e1, e2, toNats_ofNats hb, ← htag, if_neg (by omega), if_pos rfl, hct, gcmCrypt_gcmCrypt hk, ofNats_toNats]

end Sys2Proof.Machine
end

