-- ==== Sys2Proof/Laws/SMap.lean ====
section
/-! SUPPORT. Laws of the sparse map: read after write, frame, and the canonical form is kept. -/

namespace Sys2Proof.Machine

variable {V : Type}

theorem SMap.above_mono {b c : Nat} (h : b ≤ c) : ∀ {m : SMap V}, SMap.above c m = true → SMap.above b m = true
  | [], _ => rfl
  | (k, v) :: m, hc => by
    simp only [SMap.above, Bool.and_eq_true, decide_eq_true_eq] at hc ⊢
    exact ⟨by omega, hc.2⟩

theorem SMap.sorted_of_above {b : Nat} : ∀ {m : SMap V}, SMap.above b m = true → SMap.sorted m = true
  | [], _ => rfl
  | (k, v) :: m, h => by
    simp only [SMap.above, Bool.and_eq_true] at h
    exact h.2

theorem SMap.find_ins_same (k : Nat) (v : V) : ∀ m : SMap V, SMap.find (SMap.ins m k v) k = some v
  | [] => by simp [SMap.ins, SMap.find]
  | (k', v') :: m => by
    simp only [SMap.ins]
    split
    · simp [SMap.find]
    · split
      · simp [SMap.find]
      · simp only [SMap.find]
        rw [if_neg ‹_›]
        exact SMap.find_ins_same k v m

theorem SMap.find_ins_other {k j : Nat} (h : j ≠ k) (v : V) : ∀ m : SMap V, SMap.find (SMap.ins m k v) j = SMap.find m j
  | [] => by simp [SMap.ins, SMap.find, h]
  | (k', v') :: m => by
    simp only [SMap.ins]
    split
    · simp [SMap.find, h]
    · split
      · rename_i h1 h2
        subst h2
        simp [SMap.find, h]
      · simp only [SMap.find]
        rw [SMap.find_ins_other h v m]

theorem SMap.above_ins {b k : Nat} (hb : b < k) (v : V) :
    ∀ {m : SMap V}, SMap.above b m = true → SMap.above b (SMap.ins m k v) = true
  | [], _ => by simp [SMap.ins, SMap.above, hb]
  | (k', v') :: m, h => by
    simp only [SMap.above, Bool.and_eq_true, decide_eq_true_eq] at h
    simp only [SMap.ins]
    split
    · rename_i hk
      simp only [SMap.above, Bool.and_eq_true, decide_eq_true_eq]
      exact ⟨hb, hk, h.2⟩
    · split
      · rename_i h1 h2
        subst h2
        simp only [SMap.above, Bool.and_eq_true, decide_eq_true_eq]
        exact ⟨hb, h.2⟩
      · simp only [SMap.above, Bool.and_eq_true, decide_eq_true_eq]
        exact ⟨h.1, SMap.above_ins (by omega) v h.2⟩

theorem SMap.sorted_ins (k : Nat) (v : V) : ∀ {m : SMap V}, SMap.sorted m = true → SMap.sorted (SMap.ins m k v) = true
  | [], _ => rfl
  | (k', v') :: m, h => by
    simp only [SMap.sorted] at h
    simp only [SMap.ins]
    split
    · simp only [SMap.sorted, SMap.above, Bool.and_eq_true, decide_eq_true_eq]
      exact ⟨‹_›, h⟩
    · split
      · rename_i h1 h2
        subst h2
        exact h
      · simp only [SMap.sorted]
        exact SMap.above_ins (by omega) v h

theorem SMap.above_del {b : Nat} (k : Nat) : ∀ {m : SMap V}, SMap.above b m = true → SMap.above b (SMap.del m k) = true
  | [], _ => rfl
  | (k', v') :: m, h => by
    simp only [SMap.above, Bool.and_eq_true, decide_eq_true_eq] at h
    simp only [SMap.del]
    split
    · exact SMap.above_del k (SMap.above_mono (by omega) h.2)
    · simp only [SMap.above, Bool.and_eq_true, decide_eq_true_eq]
      exact ⟨h.1, SMap.above_del k h.2⟩

theorem SMap.sorted_del (k : Nat) : ∀ {m : SMap V}, SMap.sorted m = true → SMap.sorted (SMap.del m k) = true
  | [], _ => rfl
  | (k', v') :: m, h => by
    simp only [SMap.sorted] at h
    simp only [SMap.del]
    split
    · exact SMap.sorted_of_above (SMap.above_del k h)
    · exact SMap.above_del k h

theorem SMap.find_del_same (k : Nat) : ∀ m : SMap V, SMap.find (SMap.del m k) k = none
  | [] => rfl
  | (k', v') :: m => by
    simp only [SMap.del]
    split
    · exact SMap.find_del_same k m
    · simp only [SMap.find]
      rw [if_neg ‹_›]
      exact SMap.find_del_same k m

theorem SMap.find_del_other {k j : Nat} (hj : j ≠ k) : ∀ m : SMap V, SMap.find (SMap.del m k) j = SMap.find m j
  | [] => rfl
  | (k', v') :: m => by
    simp only [SMap.del]
    split
    · rename_i h
      subst h
      simp only [SMap.find]
      rw [if_neg hj]
      exact SMap.find_del_other hj m
    · simp only [SMap.find]
      rw [SMap.find_del_other hj m]

theorem SMap.mem_ins {k : Nat} {v : V} {e : Nat × V} : ∀ {m : SMap V}, e ∈ SMap.ins m k v → e = (k, v) ∨ e ∈ m
  | [], h => by simpa [SMap.ins] using h
  | (k', v') :: m, h => by
    simp only [SMap.ins] at h
    split at h
    · simpa using h
    · split at h
      · simp only [List.mem_cons] at h ⊢
        tauto
      · simp only [List.mem_cons] at h ⊢
        rcases h with h | h
        · exact Or.inr (Or.inl h)
        · rcases SMap.mem_ins h with h | h
          · exact Or.inl h
          · exact Or.inr (Or.inr h)

theorem SMap.mem_del {k : Nat} {e : Nat × V} : ∀ {m : SMap V}, e ∈ SMap.del m k → e ∈ m
  | [], h => h
  | (k', v') :: m, h => by
    simp only [SMap.del] at h
    split at h
    · exact List.mem_cons_of_mem _ (SMap.mem_del h)
    · simp only [List.mem_cons] at h ⊢
      rcases h with h | h
      · exact Or.inl h
      · exact Or.inr (SMap.mem_del h)

/-- Writing key `k` keeps the canonical form. -/
theorem SMap.wf_put [DecidableEq V] (d : Nat → V) (k : Nat) (v : V) {m : SMap V} (h : SMap.wf d m = true) :
    SMap.wf d (SMap.put m k v (d k)) = true := by
  simp only [SMap.wf, Bool.and_eq_true, List.all_eq_true, decide_eq_true_eq] at h ⊢
  unfold SMap.put
  split
  · exact ⟨SMap.sorted_del k h.1, fun e he => h.2 e (SMap.mem_del he)⟩
  · refine ⟨SMap.sorted_ins k v h.1, fun e he => ?_⟩
    rcases SMap.mem_ins he with rfl | he
    · assumption
    · exact h.2 e he

/-- A read of the key just written gives the value written. -/
theorem SMap.get_put_same [DecidableEq V] (k : Nat) (v d : V) (m : SMap V) : SMap.get (SMap.put m k v d) k d = v := by
  unfold SMap.put SMap.get
  split
  · rename_i hv
    rw [SMap.find_del_same, hv]
    rfl
  · rw [SMap.find_ins_same]
    rfl

/-- A write of one key leaves every other key as it was. -/
theorem SMap.get_put_other [DecidableEq V] {k j : Nat} (hj : j ≠ k) (v d d' : V) (m : SMap V) :
    SMap.get (SMap.put m k v d) j d' = SMap.get m j d' := by
  unfold SMap.put SMap.get
  split
  · rw [SMap.find_del_other hj]
  · rw [SMap.find_ins_other hj]

theorem SMap.sorted_of_wf [DecidableEq V] {d : Nat → V} {m : SMap V} (h : SMap.wf d m = true) :
    SMap.sorted m = true := by
  simp only [SMap.wf, Bool.and_eq_true] at h
  exact h.1

end Sys2Proof.Machine
end

