-- ==== Sys2Proof/Laws/State.lean ====
section
/-! SUPPORT. State: what each named change of the state leaves as it was, field by field and part by part, and what it changes. -/

namespace Sys2Proof.Machine

variable (s : State)

/-! ### setCourse -/

@[simp] theorem State.setCourse_dies (g : Course) (c : CourseState) : (s.setCourse g c).dies = s.dies := rfl
@[simp] theorem State.setCourse_regs (g : Course) (c : CourseState) : (s.setCourse g c).regs = s.regs := rfl
@[simp] theorem State.setCourse_wide (g : Course) (c : CourseState) : (s.setCourse g c).wide = s.wide := rfl
@[simp] theorem State.setCourse_latch (g : Course) (c : CourseState) : (s.setCourse g c).latch = s.latch := rfl
@[simp] theorem State.setCourse_capture (g : Course) (c : CourseState) : (s.setCourse g c).capture = s.capture := rfl
@[simp] theorem State.setCourse_mem (g : Course) (c : CourseState) : (s.setCourse g c).mem = s.mem := rfl
@[simp] theorem State.setCourse_memPoison (g : Course) (c : CourseState) : (s.setCourse g c).memPoison = s.memPoison := rfl
@[simp] theorem State.setCourse_msgs (g : Course) (c : CourseState) : (s.setCourse g c).msgs = s.msgs := rfl
@[simp] theorem State.setCourse_mems (g : Course) (c : CourseState) : (s.setCourse g c).mems = s.mems := rfl
@[simp] theorem State.setCourse_fars (g : Course) (c : CourseState) : (s.setCourse g c).fars = s.fars := rfl
@[simp] theorem State.setCourse_cdies (g : Course) (c : CourseState) : (s.setCourse g c).cdies = s.cdies := rfl
@[simp] theorem State.setCourse_nets (g : Course) (c : CourseState) : (s.setCourse g c).nets = s.nets := rfl
@[simp] theorem State.setCourse_ports (g : Course) (c : CourseState) : (s.setCourse g c).ports = s.ports := rfl
@[simp] theorem State.setCourse_host (g : Course) (c : CourseState) : (s.setCourse g c).host = s.host := rfl
@[simp] theorem State.setCourse_boot (g : Course) (c : CourseState) : (s.setCourse g c).boot = s.boot := rfl
@[simp] theorem State.setCourse_upds (g : Course) (c : CourseState) : (s.setCourse g c).upds = s.upds := rfl
@[simp] theorem State.setCourse_ticking (g : Course) (c : CourseState) : (s.setCourse g c).ticking = s.ticking := rfl
@[simp] theorem State.setCourse_freeCtr (g : Course) (c : CourseState) : (s.setCourse g c).freeCtr = s.freeCtr := rfl
@[simp] theorem State.setCourse_stamp (g : Course) (c : CourseState) : (s.setCourse g c).stamp = s.stamp := rfl
@[simp] theorem State.setCourse_out (g : Course) (c : CourseState) : (s.setCourse g c).out = s.out := rfl
@[simp] theorem State.setCourse_pending (g : Course) (c : CourseState) : (s.setCourse g c).pending = s.pending := rfl
@[simp] theorem State.setCourse_die (g : Course) (c : CourseState) (h : Die) : (s.setCourse g c).die h = s.die h := rfl
@[simp] theorem State.setCourse_reg (g : Course) (c : CourseState) (h : Nat) : (s.setCourse g c).reg h = s.reg h := rfl
@[simp] theorem State.setCourse_reg64 (g : Course) (c : CourseState) (h : Nat) : (s.setCourse g c).reg64 h = s.reg64 h := rfl
@[simp] theorem State.setCourse_byte (g : Course) (c : CourseState) (h : Nat) : (s.setCourse g c).byte h = s.byte h := rfl
@[simp] theorem State.setCourse_poisoned (g : Course) (c : CourseState) (h : Nat) : (s.setCourse g c).poisoned h = s.poisoned h := rfl
@[simp] theorem State.setCourse_memc (g : Course) (c : CourseState) (h : Stack) : (s.setCourse g c).memc h = s.memc h := rfl
@[simp] theorem State.setCourse_farc (g : Course) (c : CourseState) (h : LinkId) : (s.setCourse g c).farc h = s.farc h := rfl
@[simp] theorem State.setCourse_cdie (g : Course) (c : CourseState) (h : CDie) : (s.setCourse g c).cdie h = s.cdie h := rfl
@[simp] theorem State.setCourse_net (g : Course) (c : CourseState) (h : IoDie) : (s.setCourse g c).net h = s.net h := rfl

/-! ### modCourse -/

@[simp] theorem State.modCourse_dies (g : Course) (f : CourseState → CourseState) : (s.modCourse g f).dies = s.dies := rfl
@[simp] theorem State.modCourse_regs (g : Course) (f : CourseState → CourseState) : (s.modCourse g f).regs = s.regs := rfl
@[simp] theorem State.modCourse_wide (g : Course) (f : CourseState → CourseState) : (s.modCourse g f).wide = s.wide := rfl
@[simp] theorem State.modCourse_latch (g : Course) (f : CourseState → CourseState) : (s.modCourse g f).latch = s.latch := rfl
@[simp] theorem State.modCourse_capture (g : Course) (f : CourseState → CourseState) : (s.modCourse g f).capture = s.capture := rfl
@[simp] theorem State.modCourse_mem (g : Course) (f : CourseState → CourseState) : (s.modCourse g f).mem = s.mem := rfl
@[simp] theorem State.modCourse_memPoison (g : Course) (f : CourseState → CourseState) : (s.modCourse g f).memPoison = s.memPoison := rfl
@[simp] theorem State.modCourse_msgs (g : Course) (f : CourseState → CourseState) : (s.modCourse g f).msgs = s.msgs := rfl
@[simp] theorem State.modCourse_mems (g : Course) (f : CourseState → CourseState) : (s.modCourse g f).mems = s.mems := rfl
@[simp] theorem State.modCourse_fars (g : Course) (f : CourseState → CourseState) : (s.modCourse g f).fars = s.fars := rfl
@[simp] theorem State.modCourse_cdies (g : Course) (f : CourseState → CourseState) : (s.modCourse g f).cdies = s.cdies := rfl
@[simp] theorem State.modCourse_nets (g : Course) (f : CourseState → CourseState) : (s.modCourse g f).nets = s.nets := rfl
@[simp] theorem State.modCourse_ports (g : Course) (f : CourseState → CourseState) : (s.modCourse g f).ports = s.ports := rfl
@[simp] theorem State.modCourse_host (g : Course) (f : CourseState → CourseState) : (s.modCourse g f).host = s.host := rfl
@[simp] theorem State.modCourse_boot (g : Course) (f : CourseState → CourseState) : (s.modCourse g f).boot = s.boot := rfl
@[simp] theorem State.modCourse_upds (g : Course) (f : CourseState → CourseState) : (s.modCourse g f).upds = s.upds := rfl
@[simp] theorem State.modCourse_ticking (g : Course) (f : CourseState → CourseState) : (s.modCourse g f).ticking = s.ticking := rfl
@[simp] theorem State.modCourse_freeCtr (g : Course) (f : CourseState → CourseState) : (s.modCourse g f).freeCtr = s.freeCtr := rfl
@[simp] theorem State.modCourse_stamp (g : Course) (f : CourseState → CourseState) : (s.modCourse g f).stamp = s.stamp := rfl
@[simp] theorem State.modCourse_out (g : Course) (f : CourseState → CourseState) : (s.modCourse g f).out = s.out := rfl
@[simp] theorem State.modCourse_pending (g : Course) (f : CourseState → CourseState) : (s.modCourse g f).pending = s.pending := rfl
@[simp] theorem State.modCourse_die (g : Course) (f : CourseState → CourseState) (h : Die) : (s.modCourse g f).die h = s.die h := rfl
@[simp] theorem State.modCourse_reg (g : Course) (f : CourseState → CourseState) (h : Nat) : (s.modCourse g f).reg h = s.reg h := rfl
@[simp] theorem State.modCourse_reg64 (g : Course) (f : CourseState → CourseState) (h : Nat) : (s.modCourse g f).reg64 h = s.reg64 h := rfl
@[simp] theorem State.modCourse_byte (g : Course) (f : CourseState → CourseState) (h : Nat) : (s.modCourse g f).byte h = s.byte h := rfl
@[simp] theorem State.modCourse_poisoned (g : Course) (f : CourseState → CourseState) (h : Nat) : (s.modCourse g f).poisoned h = s.poisoned h := rfl
@[simp] theorem State.modCourse_memc (g : Course) (f : CourseState → CourseState) (h : Stack) : (s.modCourse g f).memc h = s.memc h := rfl
@[simp] theorem State.modCourse_farc (g : Course) (f : CourseState → CourseState) (h : LinkId) : (s.modCourse g f).farc h = s.farc h := rfl
@[simp] theorem State.modCourse_cdie (g : Course) (f : CourseState → CourseState) (h : CDie) : (s.modCourse g f).cdie h = s.cdie h := rfl
@[simp] theorem State.modCourse_net (g : Course) (f : CourseState → CourseState) (h : IoDie) : (s.modCourse g f).net h = s.net h := rfl

/-! ### setDie -/

@[simp] theorem State.setDie_courses (d : Die) (x : DieState) : (s.setDie d x).courses = s.courses := rfl
@[simp] theorem State.setDie_regs (d : Die) (x : DieState) : (s.setDie d x).regs = s.regs := rfl
@[simp] theorem State.setDie_wide (d : Die) (x : DieState) : (s.setDie d x).wide = s.wide := rfl
@[simp] theorem State.setDie_latch (d : Die) (x : DieState) : (s.setDie d x).latch = s.latch := rfl
@[simp] theorem State.setDie_capture (d : Die) (x : DieState) : (s.setDie d x).capture = s.capture := rfl
@[simp] theorem State.setDie_mem (d : Die) (x : DieState) : (s.setDie d x).mem = s.mem := rfl
@[simp] theorem State.setDie_memPoison (d : Die) (x : DieState) : (s.setDie d x).memPoison = s.memPoison := rfl
@[simp] theorem State.setDie_msgs (d : Die) (x : DieState) : (s.setDie d x).msgs = s.msgs := rfl
@[simp] theorem State.setDie_mems (d : Die) (x : DieState) : (s.setDie d x).mems = s.mems := rfl
@[simp] theorem State.setDie_fars (d : Die) (x : DieState) : (s.setDie d x).fars = s.fars := rfl
@[simp] theorem State.setDie_cdies (d : Die) (x : DieState) : (s.setDie d x).cdies = s.cdies := rfl
@[simp] theorem State.setDie_nets (d : Die) (x : DieState) : (s.setDie d x).nets = s.nets := rfl
@[simp] theorem State.setDie_ports (d : Die) (x : DieState) : (s.setDie d x).ports = s.ports := rfl
@[simp] theorem State.setDie_host (d : Die) (x : DieState) : (s.setDie d x).host = s.host := rfl
@[simp] theorem State.setDie_boot (d : Die) (x : DieState) : (s.setDie d x).boot = s.boot := rfl
@[simp] theorem State.setDie_upds (d : Die) (x : DieState) : (s.setDie d x).upds = s.upds := rfl
@[simp] theorem State.setDie_ticking (d : Die) (x : DieState) : (s.setDie d x).ticking = s.ticking := rfl
@[simp] theorem State.setDie_freeCtr (d : Die) (x : DieState) : (s.setDie d x).freeCtr = s.freeCtr := rfl
@[simp] theorem State.setDie_stamp (d : Die) (x : DieState) : (s.setDie d x).stamp = s.stamp := rfl
@[simp] theorem State.setDie_out (d : Die) (x : DieState) : (s.setDie d x).out = s.out := rfl
@[simp] theorem State.setDie_pending (d : Die) (x : DieState) : (s.setDie d x).pending = s.pending := rfl
@[simp] theorem State.setDie_course (d : Die) (x : DieState) (h : Course) : (s.setDie d x).course h = s.course h := rfl
@[simp] theorem State.setDie_reg (d : Die) (x : DieState) (h : Nat) : (s.setDie d x).reg h = s.reg h := rfl
@[simp] theorem State.setDie_reg64 (d : Die) (x : DieState) (h : Nat) : (s.setDie d x).reg64 h = s.reg64 h := rfl
@[simp] theorem State.setDie_byte (d : Die) (x : DieState) (h : Nat) : (s.setDie d x).byte h = s.byte h := rfl
@[simp] theorem State.setDie_poisoned (d : Die) (x : DieState) (h : Nat) : (s.setDie d x).poisoned h = s.poisoned h := rfl
@[simp] theorem State.setDie_memc (d : Die) (x : DieState) (h : Stack) : (s.setDie d x).memc h = s.memc h := rfl
@[simp] theorem State.setDie_farc (d : Die) (x : DieState) (h : LinkId) : (s.setDie d x).farc h = s.farc h := rfl
@[simp] theorem State.setDie_cdie (d : Die) (x : DieState) (h : CDie) : (s.setDie d x).cdie h = s.cdie h := rfl
@[simp] theorem State.setDie_net (d : Die) (x : DieState) (h : IoDie) : (s.setDie d x).net h = s.net h := rfl

/-! ### modDie -/

@[simp] theorem State.modDie_courses (d : Die) (f : DieState → DieState) : (s.modDie d f).courses = s.courses := rfl
@[simp] theorem State.modDie_regs (d : Die) (f : DieState → DieState) : (s.modDie d f).regs = s.regs := rfl
@[simp] theorem State.modDie_wide (d : Die) (f : DieState → DieState) : (s.modDie d f).wide = s.wide := rfl
@[simp] theorem State.modDie_latch (d : Die) (f : DieState → DieState) : (s.modDie d f).latch = s.latch := rfl
@[simp] theorem State.modDie_capture (d : Die) (f : DieState → DieState) : (s.modDie d f).capture = s.capture := rfl
@[simp] theorem State.modDie_mem (d : Die) (f : DieState → DieState) : (s.modDie d f).mem = s.mem := rfl
@[simp] theorem State.modDie_memPoison (d : Die) (f : DieState → DieState) : (s.modDie d f).memPoison = s.memPoison := rfl
@[simp] theorem State.modDie_msgs (d : Die) (f : DieState → DieState) : (s.modDie d f).msgs = s.msgs := rfl
@[simp] theorem State.modDie_mems (d : Die) (f : DieState → DieState) : (s.modDie d f).mems = s.mems := rfl
@[simp] theorem State.modDie_fars (d : Die) (f : DieState → DieState) : (s.modDie d f).fars = s.fars := rfl
@[simp] theorem State.modDie_cdies (d : Die) (f : DieState → DieState) : (s.modDie d f).cdies = s.cdies := rfl
@[simp] theorem State.modDie_nets (d : Die) (f : DieState → DieState) : (s.modDie d f).nets = s.nets := rfl
@[simp] theorem State.modDie_ports (d : Die) (f : DieState → DieState) : (s.modDie d f).ports = s.ports := rfl
@[simp] theorem State.modDie_host (d : Die) (f : DieState → DieState) : (s.modDie d f).host = s.host := rfl
@[simp] theorem State.modDie_boot (d : Die) (f : DieState → DieState) : (s.modDie d f).boot = s.boot := rfl
@[simp] theorem State.modDie_upds (d : Die) (f : DieState → DieState) : (s.modDie d f).upds = s.upds := rfl
@[simp] theorem State.modDie_ticking (d : Die) (f : DieState → DieState) : (s.modDie d f).ticking = s.ticking := rfl
@[simp] theorem State.modDie_freeCtr (d : Die) (f : DieState → DieState) : (s.modDie d f).freeCtr = s.freeCtr := rfl
@[simp] theorem State.modDie_stamp (d : Die) (f : DieState → DieState) : (s.modDie d f).stamp = s.stamp := rfl
@[simp] theorem State.modDie_out (d : Die) (f : DieState → DieState) : (s.modDie d f).out = s.out := rfl
@[simp] theorem State.modDie_pending (d : Die) (f : DieState → DieState) : (s.modDie d f).pending = s.pending := rfl
@[simp] theorem State.modDie_course (d : Die) (f : DieState → DieState) (h : Course) : (s.modDie d f).course h = s.course h := rfl
@[simp] theorem State.modDie_reg (d : Die) (f : DieState → DieState) (h : Nat) : (s.modDie d f).reg h = s.reg h := rfl
@[simp] theorem State.modDie_reg64 (d : Die) (f : DieState → DieState) (h : Nat) : (s.modDie d f).reg64 h = s.reg64 h := rfl
@[simp] theorem State.modDie_byte (d : Die) (f : DieState → DieState) (h : Nat) : (s.modDie d f).byte h = s.byte h := rfl
@[simp] theorem State.modDie_poisoned (d : Die) (f : DieState → DieState) (h : Nat) : (s.modDie d f).poisoned h = s.poisoned h := rfl
@[simp] theorem State.modDie_memc (d : Die) (f : DieState → DieState) (h : Stack) : (s.modDie d f).memc h = s.memc h := rfl
@[simp] theorem State.modDie_farc (d : Die) (f : DieState → DieState) (h : LinkId) : (s.modDie d f).farc h = s.farc h := rfl
@[simp] theorem State.modDie_cdie (d : Die) (f : DieState → DieState) (h : CDie) : (s.modDie d f).cdie h = s.cdie h := rfl
@[simp] theorem State.modDie_net (d : Die) (f : DieState → DieState) (h : IoDie) : (s.modDie d f).net h = s.net h := rfl

/-! ### raise -/

@[simp] theorem State.raise_courses (d : Die) (r : Report) : (s.raise d r).courses = s.courses := rfl
@[simp] theorem State.raise_regs (d : Die) (r : Report) : (s.raise d r).regs = s.regs := rfl
@[simp] theorem State.raise_wide (d : Die) (r : Report) : (s.raise d r).wide = s.wide := rfl
@[simp] theorem State.raise_latch (d : Die) (r : Report) : (s.raise d r).latch = s.latch := rfl
@[simp] theorem State.raise_capture (d : Die) (r : Report) : (s.raise d r).capture = s.capture := rfl
@[simp] theorem State.raise_mem (d : Die) (r : Report) : (s.raise d r).mem = s.mem := rfl
@[simp] theorem State.raise_memPoison (d : Die) (r : Report) : (s.raise d r).memPoison = s.memPoison := rfl
@[simp] theorem State.raise_msgs (d : Die) (r : Report) : (s.raise d r).msgs = s.msgs := rfl
@[simp] theorem State.raise_mems (d : Die) (r : Report) : (s.raise d r).mems = s.mems := rfl
@[simp] theorem State.raise_fars (d : Die) (r : Report) : (s.raise d r).fars = s.fars := rfl
@[simp] theorem State.raise_cdies (d : Die) (r : Report) : (s.raise d r).cdies = s.cdies := rfl
@[simp] theorem State.raise_nets (d : Die) (r : Report) : (s.raise d r).nets = s.nets := rfl
@[simp] theorem State.raise_ports (d : Die) (r : Report) : (s.raise d r).ports = s.ports := rfl
@[simp] theorem State.raise_host (d : Die) (r : Report) : (s.raise d r).host = s.host := rfl
@[simp] theorem State.raise_boot (d : Die) (r : Report) : (s.raise d r).boot = s.boot := rfl
@[simp] theorem State.raise_upds (d : Die) (r : Report) : (s.raise d r).upds = s.upds := rfl
@[simp] theorem State.raise_ticking (d : Die) (r : Report) : (s.raise d r).ticking = s.ticking := rfl
@[simp] theorem State.raise_freeCtr (d : Die) (r : Report) : (s.raise d r).freeCtr = s.freeCtr := rfl
@[simp] theorem State.raise_stamp (d : Die) (r : Report) : (s.raise d r).stamp = s.stamp := rfl
@[simp] theorem State.raise_out (d : Die) (r : Report) : (s.raise d r).out = s.out := rfl
@[simp] theorem State.raise_pending (d : Die) (r : Report) : (s.raise d r).pending = s.pending := rfl
@[simp] theorem State.raise_course (d : Die) (r : Report) (h : Course) : (s.raise d r).course h = s.course h := rfl
@[simp] theorem State.raise_reg (d : Die) (r : Report) (h : Nat) : (s.raise d r).reg h = s.reg h := rfl
@[simp] theorem State.raise_reg64 (d : Die) (r : Report) (h : Nat) : (s.raise d r).reg64 h = s.reg64 h := rfl
@[simp] theorem State.raise_byte (d : Die) (r : Report) (h : Nat) : (s.raise d r).byte h = s.byte h := rfl
@[simp] theorem State.raise_poisoned (d : Die) (r : Report) (h : Nat) : (s.raise d r).poisoned h = s.poisoned h := rfl
@[simp] theorem State.raise_memc (d : Die) (r : Report) (h : Stack) : (s.raise d r).memc h = s.memc h := rfl
@[simp] theorem State.raise_farc (d : Die) (r : Report) (h : LinkId) : (s.raise d r).farc h = s.farc h := rfl
@[simp] theorem State.raise_cdie (d : Die) (r : Report) (h : CDie) : (s.raise d r).cdie h = s.cdie h := rfl
@[simp] theorem State.raise_net (d : Die) (r : Report) (h : IoDie) : (s.raise d r).net h = s.net h := rfl

/-! ### used -/

@[simp] theorem State.used_courses  : (s.used).courses = s.courses := rfl
@[simp] theorem State.used_dies  : (s.used).dies = s.dies := rfl
@[simp] theorem State.used_regs  : (s.used).regs = s.regs := rfl
@[simp] theorem State.used_wide  : (s.used).wide = s.wide := rfl
@[simp] theorem State.used_latch  : (s.used).latch = s.latch := rfl
@[simp] theorem State.used_capture  : (s.used).capture = s.capture := rfl
@[simp] theorem State.used_mem  : (s.used).mem = s.mem := rfl
@[simp] theorem State.used_memPoison  : (s.used).memPoison = s.memPoison := rfl
@[simp] theorem State.used_msgs  : (s.used).msgs = s.msgs := rfl
@[simp] theorem State.used_mems  : (s.used).mems = s.mems := rfl
@[simp] theorem State.used_fars  : (s.used).fars = s.fars := rfl
@[simp] theorem State.used_cdies  : (s.used).cdies = s.cdies := rfl
@[simp] theorem State.used_nets  : (s.used).nets = s.nets := rfl
@[simp] theorem State.used_ports  : (s.used).ports = s.ports := rfl
@[simp] theorem State.used_host  : (s.used).host = s.host := rfl
@[simp] theorem State.used_boot  : (s.used).boot = s.boot := rfl
@[simp] theorem State.used_upds  : (s.used).upds = s.upds := rfl
@[simp] theorem State.used_ticking  : (s.used).ticking = s.ticking := rfl
@[simp] theorem State.used_stamp  : (s.used).stamp = s.stamp := rfl
@[simp] theorem State.used_out  : (s.used).out = s.out := rfl
@[simp] theorem State.used_pending  : (s.used).pending = s.pending := rfl
@[simp] theorem State.used_course  (h : Course) : (s.used).course h = s.course h := rfl
@[simp] theorem State.used_die  (h : Die) : (s.used).die h = s.die h := rfl
@[simp] theorem State.used_reg  (h : Nat) : (s.used).reg h = s.reg h := rfl
@[simp] theorem State.used_reg64  (h : Nat) : (s.used).reg64 h = s.reg64 h := rfl
@[simp] theorem State.used_byte  (h : Nat) : (s.used).byte h = s.byte h := rfl
@[simp] theorem State.used_poisoned  (h : Nat) : (s.used).poisoned h = s.poisoned h := rfl
@[simp] theorem State.used_memc  (h : Stack) : (s.used).memc h = s.memc h := rfl
@[simp] theorem State.used_farc  (h : LinkId) : (s.used).farc h = s.farc h := rfl
@[simp] theorem State.used_cdie  (h : CDie) : (s.used).cdie h = s.cdie h := rfl
@[simp] theorem State.used_net  (h : IoDie) : (s.used).net h = s.net h := rfl

/-! ### tick -/

@[simp] theorem State.tick_courses  : (s.tick).courses = s.courses := rfl
@[simp] theorem State.tick_dies  : (s.tick).dies = s.dies := rfl
@[simp] theorem State.tick_regs  : (s.tick).regs = s.regs := rfl
@[simp] theorem State.tick_wide  : (s.tick).wide = s.wide := rfl
@[simp] theorem State.tick_latch  : (s.tick).latch = s.latch := rfl
@[simp] theorem State.tick_capture  : (s.tick).capture = s.capture := rfl
@[simp] theorem State.tick_mem  : (s.tick).mem = s.mem := rfl
@[simp] theorem State.tick_memPoison  : (s.tick).memPoison = s.memPoison := rfl
@[simp] theorem State.tick_msgs  : (s.tick).msgs = s.msgs := rfl
@[simp] theorem State.tick_mems  : (s.tick).mems = s.mems := rfl
@[simp] theorem State.tick_fars  : (s.tick).fars = s.fars := rfl
@[simp] theorem State.tick_cdies  : (s.tick).cdies = s.cdies := rfl
@[simp] theorem State.tick_nets  : (s.tick).nets = s.nets := rfl
@[simp] theorem State.tick_ports  : (s.tick).ports = s.ports := rfl
@[simp] theorem State.tick_host  : (s.tick).host = s.host := rfl
@[simp] theorem State.tick_boot  : (s.tick).boot = s.boot := rfl
@[simp] theorem State.tick_upds  : (s.tick).upds = s.upds := rfl
@[simp] theorem State.tick_ticking  : (s.tick).ticking = s.ticking := rfl
@[simp] theorem State.tick_freeCtr  : (s.tick).freeCtr = s.freeCtr := rfl
@[simp] theorem State.tick_out  : (s.tick).out = s.out := rfl
@[simp] theorem State.tick_pending  : (s.tick).pending = s.pending := rfl
@[simp] theorem State.tick_course  (h : Course) : (s.tick).course h = s.course h := rfl
@[simp] theorem State.tick_die  (h : Die) : (s.tick).die h = s.die h := rfl
@[simp] theorem State.tick_reg  (h : Nat) : (s.tick).reg h = s.reg h := rfl
@[simp] theorem State.tick_reg64  (h : Nat) : (s.tick).reg64 h = s.reg64 h := rfl
@[simp] theorem State.tick_byte  (h : Nat) : (s.tick).byte h = s.byte h := rfl
@[simp] theorem State.tick_poisoned  (h : Nat) : (s.tick).poisoned h = s.poisoned h := rfl
@[simp] theorem State.tick_memc  (h : Stack) : (s.tick).memc h = s.memc h := rfl
@[simp] theorem State.tick_farc  (h : LinkId) : (s.tick).farc h = s.farc h := rfl
@[simp] theorem State.tick_cdie  (h : CDie) : (s.tick).cdie h = s.cdie h := rfl
@[simp] theorem State.tick_net  (h : IoDie) : (s.tick).net h = s.net h := rfl

/-! ### emit -/

@[simp] theorem State.emit_courses (m : OutMsg) : (s.emit m).courses = s.courses := rfl
@[simp] theorem State.emit_dies (m : OutMsg) : (s.emit m).dies = s.dies := rfl
@[simp] theorem State.emit_regs (m : OutMsg) : (s.emit m).regs = s.regs := rfl
@[simp] theorem State.emit_wide (m : OutMsg) : (s.emit m).wide = s.wide := rfl
@[simp] theorem State.emit_latch (m : OutMsg) : (s.emit m).latch = s.latch := rfl
@[simp] theorem State.emit_capture (m : OutMsg) : (s.emit m).capture = s.capture := rfl
@[simp] theorem State.emit_mem (m : OutMsg) : (s.emit m).mem = s.mem := rfl
@[simp] theorem State.emit_memPoison (m : OutMsg) : (s.emit m).memPoison = s.memPoison := rfl
@[simp] theorem State.emit_msgs (m : OutMsg) : (s.emit m).msgs = s.msgs := rfl
@[simp] theorem State.emit_mems (m : OutMsg) : (s.emit m).mems = s.mems := rfl
@[simp] theorem State.emit_fars (m : OutMsg) : (s.emit m).fars = s.fars := rfl
@[simp] theorem State.emit_cdies (m : OutMsg) : (s.emit m).cdies = s.cdies := rfl
@[simp] theorem State.emit_nets (m : OutMsg) : (s.emit m).nets = s.nets := rfl
@[simp] theorem State.emit_ports (m : OutMsg) : (s.emit m).ports = s.ports := rfl
@[simp] theorem State.emit_host (m : OutMsg) : (s.emit m).host = s.host := rfl
@[simp] theorem State.emit_boot (m : OutMsg) : (s.emit m).boot = s.boot := rfl
@[simp] theorem State.emit_upds (m : OutMsg) : (s.emit m).upds = s.upds := rfl
@[simp] theorem State.emit_ticking (m : OutMsg) : (s.emit m).ticking = s.ticking := rfl
@[simp] theorem State.emit_freeCtr (m : OutMsg) : (s.emit m).freeCtr = s.freeCtr := rfl
@[simp] theorem State.emit_stamp (m : OutMsg) : (s.emit m).stamp = s.stamp := rfl
@[simp] theorem State.emit_pending (m : OutMsg) : (s.emit m).pending = s.pending := rfl
@[simp] theorem State.emit_course (m : OutMsg) (h : Course) : (s.emit m).course h = s.course h := rfl
@[simp] theorem State.emit_die (m : OutMsg) (h : Die) : (s.emit m).die h = s.die h := rfl
@[simp] theorem State.emit_reg (m : OutMsg) (h : Nat) : (s.emit m).reg h = s.reg h := rfl
@[simp] theorem State.emit_reg64 (m : OutMsg) (h : Nat) : (s.emit m).reg64 h = s.reg64 h := rfl
@[simp] theorem State.emit_byte (m : OutMsg) (h : Nat) : (s.emit m).byte h = s.byte h := rfl
@[simp] theorem State.emit_poisoned (m : OutMsg) (h : Nat) : (s.emit m).poisoned h = s.poisoned h := rfl
@[simp] theorem State.emit_memc (m : OutMsg) (h : Stack) : (s.emit m).memc h = s.memc h := rfl
@[simp] theorem State.emit_farc (m : OutMsg) (h : LinkId) : (s.emit m).farc h = s.farc h := rfl
@[simp] theorem State.emit_cdie (m : OutMsg) (h : CDie) : (s.emit m).cdie h = s.cdie h := rfl
@[simp] theorem State.emit_net (m : OutMsg) (h : IoDie) : (s.emit m).net h = s.net h := rfl

/-! ### setReg -/

@[simp] theorem State.setReg_courses (o : Nat) (v : Word) : (s.setReg o v).courses = s.courses := rfl
@[simp] theorem State.setReg_dies (o : Nat) (v : Word) : (s.setReg o v).dies = s.dies := rfl
@[simp] theorem State.setReg_wide (o : Nat) (v : Word) : (s.setReg o v).wide = s.wide := rfl
@[simp] theorem State.setReg_latch (o : Nat) (v : Word) : (s.setReg o v).latch = s.latch := rfl
@[simp] theorem State.setReg_capture (o : Nat) (v : Word) : (s.setReg o v).capture = s.capture := rfl
@[simp] theorem State.setReg_mem (o : Nat) (v : Word) : (s.setReg o v).mem = s.mem := rfl
@[simp] theorem State.setReg_memPoison (o : Nat) (v : Word) : (s.setReg o v).memPoison = s.memPoison := rfl
@[simp] theorem State.setReg_msgs (o : Nat) (v : Word) : (s.setReg o v).msgs = s.msgs := rfl
@[simp] theorem State.setReg_mems (o : Nat) (v : Word) : (s.setReg o v).mems = s.mems := rfl
@[simp] theorem State.setReg_fars (o : Nat) (v : Word) : (s.setReg o v).fars = s.fars := rfl
@[simp] theorem State.setReg_cdies (o : Nat) (v : Word) : (s.setReg o v).cdies = s.cdies := rfl
@[simp] theorem State.setReg_nets (o : Nat) (v : Word) : (s.setReg o v).nets = s.nets := rfl
@[simp] theorem State.setReg_ports (o : Nat) (v : Word) : (s.setReg o v).ports = s.ports := rfl
@[simp] theorem State.setReg_host (o : Nat) (v : Word) : (s.setReg o v).host = s.host := rfl
@[simp] theorem State.setReg_boot (o : Nat) (v : Word) : (s.setReg o v).boot = s.boot := rfl
@[simp] theorem State.setReg_upds (o : Nat) (v : Word) : (s.setReg o v).upds = s.upds := rfl
@[simp] theorem State.setReg_ticking (o : Nat) (v : Word) : (s.setReg o v).ticking = s.ticking := rfl
@[simp] theorem State.setReg_freeCtr (o : Nat) (v : Word) : (s.setReg o v).freeCtr = s.freeCtr := rfl
@[simp] theorem State.setReg_stamp (o : Nat) (v : Word) : (s.setReg o v).stamp = s.stamp := rfl
@[simp] theorem State.setReg_out (o : Nat) (v : Word) : (s.setReg o v).out = s.out := rfl
@[simp] theorem State.setReg_pending (o : Nat) (v : Word) : (s.setReg o v).pending = s.pending := rfl
@[simp] theorem State.setReg_course (o : Nat) (v : Word) (h : Course) : (s.setReg o v).course h = s.course h := rfl
@[simp] theorem State.setReg_die (o : Nat) (v : Word) (h : Die) : (s.setReg o v).die h = s.die h := rfl
@[simp] theorem State.setReg_reg64 (o : Nat) (v : Word) (h : Nat) : (s.setReg o v).reg64 h = s.reg64 h := rfl
@[simp] theorem State.setReg_byte (o : Nat) (v : Word) (h : Nat) : (s.setReg o v).byte h = s.byte h := rfl
@[simp] theorem State.setReg_poisoned (o : Nat) (v : Word) (h : Nat) : (s.setReg o v).poisoned h = s.poisoned h := rfl
@[simp] theorem State.setReg_memc (o : Nat) (v : Word) (h : Stack) : (s.setReg o v).memc h = s.memc h := rfl
@[simp] theorem State.setReg_farc (o : Nat) (v : Word) (h : LinkId) : (s.setReg o v).farc h = s.farc h := rfl
@[simp] theorem State.setReg_cdie (o : Nat) (v : Word) (h : CDie) : (s.setReg o v).cdie h = s.cdie h := rfl
@[simp] theorem State.setReg_net (o : Nat) (v : Word) (h : IoDie) : (s.setReg o v).net h = s.net h := rfl

/-! ### setReg64 -/

@[simp] theorem State.setReg64_courses (o : Nat) (v : DWord) : (s.setReg64 o v).courses = s.courses := rfl
@[simp] theorem State.setReg64_dies (o : Nat) (v : DWord) : (s.setReg64 o v).dies = s.dies := rfl
@[simp] theorem State.setReg64_regs (o : Nat) (v : DWord) : (s.setReg64 o v).regs = s.regs := rfl
@[simp] theorem State.setReg64_latch (o : Nat) (v : DWord) : (s.setReg64 o v).latch = s.latch := rfl
@[simp] theorem State.setReg64_capture (o : Nat) (v : DWord) : (s.setReg64 o v).capture = s.capture := rfl
@[simp] theorem State.setReg64_mem (o : Nat) (v : DWord) : (s.setReg64 o v).mem = s.mem := rfl
@[simp] theorem State.setReg64_memPoison (o : Nat) (v : DWord) : (s.setReg64 o v).memPoison = s.memPoison := rfl
@[simp] theorem State.setReg64_msgs (o : Nat) (v : DWord) : (s.setReg64 o v).msgs = s.msgs := rfl
@[simp] theorem State.setReg64_mems (o : Nat) (v : DWord) : (s.setReg64 o v).mems = s.mems := rfl
@[simp] theorem State.setReg64_fars (o : Nat) (v : DWord) : (s.setReg64 o v).fars = s.fars := rfl
@[simp] theorem State.setReg64_cdies (o : Nat) (v : DWord) : (s.setReg64 o v).cdies = s.cdies := rfl
@[simp] theorem State.setReg64_nets (o : Nat) (v : DWord) : (s.setReg64 o v).nets = s.nets := rfl
@[simp] theorem State.setReg64_ports (o : Nat) (v : DWord) : (s.setReg64 o v).ports = s.ports := rfl
@[simp] theorem State.setReg64_host (o : Nat) (v : DWord) : (s.setReg64 o v).host = s.host := rfl
@[simp] theorem State.setReg64_boot (o : Nat) (v : DWord) : (s.setReg64 o v).boot = s.boot := rfl
@[simp] theorem State.setReg64_upds (o : Nat) (v : DWord) : (s.setReg64 o v).upds = s.upds := rfl
@[simp] theorem State.setReg64_ticking (o : Nat) (v : DWord) : (s.setReg64 o v).ticking = s.ticking := rfl
@[simp] theorem State.setReg64_freeCtr (o : Nat) (v : DWord) : (s.setReg64 o v).freeCtr = s.freeCtr := rfl
@[simp] theorem State.setReg64_stamp (o : Nat) (v : DWord) : (s.setReg64 o v).stamp = s.stamp := rfl
@[simp] theorem State.setReg64_out (o : Nat) (v : DWord) : (s.setReg64 o v).out = s.out := rfl
@[simp] theorem State.setReg64_pending (o : Nat) (v : DWord) : (s.setReg64 o v).pending = s.pending := rfl
@[simp] theorem State.setReg64_course (o : Nat) (v : DWord) (h : Course) : (s.setReg64 o v).course h = s.course h := rfl
@[simp] theorem State.setReg64_die (o : Nat) (v : DWord) (h : Die) : (s.setReg64 o v).die h = s.die h := rfl
@[simp] theorem State.setReg64_reg (o : Nat) (v : DWord) (h : Nat) : (s.setReg64 o v).reg h = s.reg h := rfl
@[simp] theorem State.setReg64_byte (o : Nat) (v : DWord) (h : Nat) : (s.setReg64 o v).byte h = s.byte h := rfl
@[simp] theorem State.setReg64_poisoned (o : Nat) (v : DWord) (h : Nat) : (s.setReg64 o v).poisoned h = s.poisoned h := rfl
@[simp] theorem State.setReg64_memc (o : Nat) (v : DWord) (h : Stack) : (s.setReg64 o v).memc h = s.memc h := rfl
@[simp] theorem State.setReg64_farc (o : Nat) (v : DWord) (h : LinkId) : (s.setReg64 o v).farc h = s.farc h := rfl
@[simp] theorem State.setReg64_cdie (o : Nat) (v : DWord) (h : CDie) : (s.setReg64 o v).cdie h = s.cdie h := rfl
@[simp] theorem State.setReg64_net (o : Nat) (v : DWord) (h : IoDie) : (s.setReg64 o v).net h = s.net h := rfl

/-! ### setByte -/

@[simp] theorem State.setByte_courses (a : Nat) (v : Byte) : (s.setByte a v).courses = s.courses := rfl
@[simp] theorem State.setByte_dies (a : Nat) (v : Byte) : (s.setByte a v).dies = s.dies := rfl
@[simp] theorem State.setByte_regs (a : Nat) (v : Byte) : (s.setByte a v).regs = s.regs := rfl
@[simp] theorem State.setByte_wide (a : Nat) (v : Byte) : (s.setByte a v).wide = s.wide := rfl
@[simp] theorem State.setByte_latch (a : Nat) (v : Byte) : (s.setByte a v).latch = s.latch := rfl
@[simp] theorem State.setByte_capture (a : Nat) (v : Byte) : (s.setByte a v).capture = s.capture := rfl
@[simp] theorem State.setByte_memPoison (a : Nat) (v : Byte) : (s.setByte a v).memPoison = s.memPoison := rfl
@[simp] theorem State.setByte_msgs (a : Nat) (v : Byte) : (s.setByte a v).msgs = s.msgs := rfl
@[simp] theorem State.setByte_mems (a : Nat) (v : Byte) : (s.setByte a v).mems = s.mems := rfl
@[simp] theorem State.setByte_fars (a : Nat) (v : Byte) : (s.setByte a v).fars = s.fars := rfl
@[simp] theorem State.setByte_cdies (a : Nat) (v : Byte) : (s.setByte a v).cdies = s.cdies := rfl
@[simp] theorem State.setByte_nets (a : Nat) (v : Byte) : (s.setByte a v).nets = s.nets := rfl
@[simp] theorem State.setByte_ports (a : Nat) (v : Byte) : (s.setByte a v).ports = s.ports := rfl
@[simp] theorem State.setByte_host (a : Nat) (v : Byte) : (s.setByte a v).host = s.host := rfl
@[simp] theorem State.setByte_boot (a : Nat) (v : Byte) : (s.setByte a v).boot = s.boot := rfl
@[simp] theorem State.setByte_upds (a : Nat) (v : Byte) : (s.setByte a v).upds = s.upds := rfl
@[simp] theorem State.setByte_ticking (a : Nat) (v : Byte) : (s.setByte a v).ticking = s.ticking := rfl
@[simp] theorem State.setByte_freeCtr (a : Nat) (v : Byte) : (s.setByte a v).freeCtr = s.freeCtr := rfl
@[simp] theorem State.setByte_stamp (a : Nat) (v : Byte) : (s.setByte a v).stamp = s.stamp := rfl
@[simp] theorem State.setByte_out (a : Nat) (v : Byte) : (s.setByte a v).out = s.out := rfl
@[simp] theorem State.setByte_pending (a : Nat) (v : Byte) : (s.setByte a v).pending = s.pending := rfl
@[simp] theorem State.setByte_course (a : Nat) (v : Byte) (h : Course) : (s.setByte a v).course h = s.course h := rfl
@[simp] theorem State.setByte_die (a : Nat) (v : Byte) (h : Die) : (s.setByte a v).die h = s.die h := rfl
@[simp] theorem State.setByte_reg (a : Nat) (v : Byte) (h : Nat) : (s.setByte a v).reg h = s.reg h := rfl
@[simp] theorem State.setByte_reg64 (a : Nat) (v : Byte) (h : Nat) : (s.setByte a v).reg64 h = s.reg64 h := rfl
@[simp] theorem State.setByte_poisoned (a : Nat) (v : Byte) (h : Nat) : (s.setByte a v).poisoned h = s.poisoned h := rfl
@[simp] theorem State.setByte_memc (a : Nat) (v : Byte) (h : Stack) : (s.setByte a v).memc h = s.memc h := rfl
@[simp] theorem State.setByte_farc (a : Nat) (v : Byte) (h : LinkId) : (s.setByte a v).farc h = s.farc h := rfl
@[simp] theorem State.setByte_cdie (a : Nat) (v : Byte) (h : CDie) : (s.setByte a v).cdie h = s.cdie h := rfl
@[simp] theorem State.setByte_net (a : Nat) (v : Byte) (h : IoDie) : (s.setByte a v).net h = s.net h := rfl

/-! ### setPoison -/

@[simp] theorem State.setPoison_courses (a : Nat) (v : Bool) : (s.setPoison a v).courses = s.courses := rfl
@[simp] theorem State.setPoison_dies (a : Nat) (v : Bool) : (s.setPoison a v).dies = s.dies := rfl
@[simp] theorem State.setPoison_regs (a : Nat) (v : Bool) : (s.setPoison a v).regs = s.regs := rfl
@[simp] theorem State.setPoison_wide (a : Nat) (v : Bool) : (s.setPoison a v).wide = s.wide := rfl
@[simp] theorem State.setPoison_latch (a : Nat) (v : Bool) : (s.setPoison a v).latch = s.latch := rfl
@[simp] theorem State.setPoison_capture (a : Nat) (v : Bool) : (s.setPoison a v).capture = s.capture := rfl
@[simp] theorem State.setPoison_mem (a : Nat) (v : Bool) : (s.setPoison a v).mem = s.mem := rfl
@[simp] theorem State.setPoison_msgs (a : Nat) (v : Bool) : (s.setPoison a v).msgs = s.msgs := rfl
@[simp] theorem State.setPoison_mems (a : Nat) (v : Bool) : (s.setPoison a v).mems = s.mems := rfl
@[simp] theorem State.setPoison_fars (a : Nat) (v : Bool) : (s.setPoison a v).fars = s.fars := rfl
@[simp] theorem State.setPoison_cdies (a : Nat) (v : Bool) : (s.setPoison a v).cdies = s.cdies := rfl
@[simp] theorem State.setPoison_nets (a : Nat) (v : Bool) : (s.setPoison a v).nets = s.nets := rfl
@[simp] theorem State.setPoison_ports (a : Nat) (v : Bool) : (s.setPoison a v).ports = s.ports := rfl
@[simp] theorem State.setPoison_host (a : Nat) (v : Bool) : (s.setPoison a v).host = s.host := rfl
@[simp] theorem State.setPoison_boot (a : Nat) (v : Bool) : (s.setPoison a v).boot = s.boot := rfl
@[simp] theorem State.setPoison_upds (a : Nat) (v : Bool) : (s.setPoison a v).upds = s.upds := rfl
@[simp] theorem State.setPoison_ticking (a : Nat) (v : Bool) : (s.setPoison a v).ticking = s.ticking := rfl
@[simp] theorem State.setPoison_freeCtr (a : Nat) (v : Bool) : (s.setPoison a v).freeCtr = s.freeCtr := rfl
@[simp] theorem State.setPoison_stamp (a : Nat) (v : Bool) : (s.setPoison a v).stamp = s.stamp := rfl
@[simp] theorem State.setPoison_out (a : Nat) (v : Bool) : (s.setPoison a v).out = s.out := rfl
@[simp] theorem State.setPoison_pending (a : Nat) (v : Bool) : (s.setPoison a v).pending = s.pending := rfl
@[simp] theorem State.setPoison_course (a : Nat) (v : Bool) (h : Course) : (s.setPoison a v).course h = s.course h := rfl
@[simp] theorem State.setPoison_die (a : Nat) (v : Bool) (h : Die) : (s.setPoison a v).die h = s.die h := rfl
@[simp] theorem State.setPoison_reg (a : Nat) (v : Bool) (h : Nat) : (s.setPoison a v).reg h = s.reg h := rfl
@[simp] theorem State.setPoison_reg64 (a : Nat) (v : Bool) (h : Nat) : (s.setPoison a v).reg64 h = s.reg64 h := rfl
@[simp] theorem State.setPoison_byte (a : Nat) (v : Bool) (h : Nat) : (s.setPoison a v).byte h = s.byte h := rfl
@[simp] theorem State.setPoison_memc (a : Nat) (v : Bool) (h : Stack) : (s.setPoison a v).memc h = s.memc h := rfl
@[simp] theorem State.setPoison_farc (a : Nat) (v : Bool) (h : LinkId) : (s.setPoison a v).farc h = s.farc h := rfl
@[simp] theorem State.setPoison_cdie (a : Nat) (v : Bool) (h : CDie) : (s.setPoison a v).cdie h = s.cdie h := rfl
@[simp] theorem State.setPoison_net (a : Nat) (v : Bool) (h : IoDie) : (s.setPoison a v).net h = s.net h := rfl

/-! ### modMem -/

@[simp] theorem State.modMem_courses (k : Stack) (f : MemState → MemState) : (s.modMem k f).courses = s.courses := rfl
@[simp] theorem State.modMem_dies (k : Stack) (f : MemState → MemState) : (s.modMem k f).dies = s.dies := rfl
@[simp] theorem State.modMem_regs (k : Stack) (f : MemState → MemState) : (s.modMem k f).regs = s.regs := rfl
@[simp] theorem State.modMem_wide (k : Stack) (f : MemState → MemState) : (s.modMem k f).wide = s.wide := rfl
@[simp] theorem State.modMem_latch (k : Stack) (f : MemState → MemState) : (s.modMem k f).latch = s.latch := rfl
@[simp] theorem State.modMem_capture (k : Stack) (f : MemState → MemState) : (s.modMem k f).capture = s.capture := rfl
@[simp] theorem State.modMem_mem (k : Stack) (f : MemState → MemState) : (s.modMem k f).mem = s.mem := rfl
@[simp] theorem State.modMem_memPoison (k : Stack) (f : MemState → MemState) : (s.modMem k f).memPoison = s.memPoison := rfl
@[simp] theorem State.modMem_msgs (k : Stack) (f : MemState → MemState) : (s.modMem k f).msgs = s.msgs := rfl
@[simp] theorem State.modMem_fars (k : Stack) (f : MemState → MemState) : (s.modMem k f).fars = s.fars := rfl
@[simp] theorem State.modMem_cdies (k : Stack) (f : MemState → MemState) : (s.modMem k f).cdies = s.cdies := rfl
@[simp] theorem State.modMem_nets (k : Stack) (f : MemState → MemState) : (s.modMem k f).nets = s.nets := rfl
@[simp] theorem State.modMem_ports (k : Stack) (f : MemState → MemState) : (s.modMem k f).ports = s.ports := rfl
@[simp] theorem State.modMem_host (k : Stack) (f : MemState → MemState) : (s.modMem k f).host = s.host := rfl
@[simp] theorem State.modMem_boot (k : Stack) (f : MemState → MemState) : (s.modMem k f).boot = s.boot := rfl
@[simp] theorem State.modMem_upds (k : Stack) (f : MemState → MemState) : (s.modMem k f).upds = s.upds := rfl
@[simp] theorem State.modMem_ticking (k : Stack) (f : MemState → MemState) : (s.modMem k f).ticking = s.ticking := rfl
@[simp] theorem State.modMem_freeCtr (k : Stack) (f : MemState → MemState) : (s.modMem k f).freeCtr = s.freeCtr := rfl
@[simp] theorem State.modMem_stamp (k : Stack) (f : MemState → MemState) : (s.modMem k f).stamp = s.stamp := rfl
@[simp] theorem State.modMem_out (k : Stack) (f : MemState → MemState) : (s.modMem k f).out = s.out := rfl
@[simp] theorem State.modMem_pending (k : Stack) (f : MemState → MemState) : (s.modMem k f).pending = s.pending := rfl
@[simp] theorem State.modMem_course (k : Stack) (f : MemState → MemState) (h : Course) : (s.modMem k f).course h = s.course h := rfl
@[simp] theorem State.modMem_die (k : Stack) (f : MemState → MemState) (h : Die) : (s.modMem k f).die h = s.die h := rfl
@[simp] theorem State.modMem_reg (k : Stack) (f : MemState → MemState) (h : Nat) : (s.modMem k f).reg h = s.reg h := rfl
@[simp] theorem State.modMem_reg64 (k : Stack) (f : MemState → MemState) (h : Nat) : (s.modMem k f).reg64 h = s.reg64 h := rfl
@[simp] theorem State.modMem_byte (k : Stack) (f : MemState → MemState) (h : Nat) : (s.modMem k f).byte h = s.byte h := rfl
@[simp] theorem State.modMem_poisoned (k : Stack) (f : MemState → MemState) (h : Nat) : (s.modMem k f).poisoned h = s.poisoned h := rfl
@[simp] theorem State.modMem_farc (k : Stack) (f : MemState → MemState) (h : LinkId) : (s.modMem k f).farc h = s.farc h := rfl
@[simp] theorem State.modMem_cdie (k : Stack) (f : MemState → MemState) (h : CDie) : (s.modMem k f).cdie h = s.cdie h := rfl
@[simp] theorem State.modMem_net (k : Stack) (f : MemState → MemState) (h : IoDie) : (s.modMem k f).net h = s.net h := rfl

/-! ### modFar -/

@[simp] theorem State.modFar_courses (k : LinkId) (f : FarState → FarState) : (s.modFar k f).courses = s.courses := rfl
@[simp] theorem State.modFar_dies (k : LinkId) (f : FarState → FarState) : (s.modFar k f).dies = s.dies := rfl
@[simp] theorem State.modFar_regs (k : LinkId) (f : FarState → FarState) : (s.modFar k f).regs = s.regs := rfl
@[simp] theorem State.modFar_wide (k : LinkId) (f : FarState → FarState) : (s.modFar k f).wide = s.wide := rfl
@[simp] theorem State.modFar_latch (k : LinkId) (f : FarState → FarState) : (s.modFar k f).latch = s.latch := rfl
@[simp] theorem State.modFar_capture (k : LinkId) (f : FarState → FarState) : (s.modFar k f).capture = s.capture := rfl
@[simp] theorem State.modFar_mem (k : LinkId) (f : FarState → FarState) : (s.modFar k f).mem = s.mem := rfl
@[simp] theorem State.modFar_memPoison (k : LinkId) (f : FarState → FarState) : (s.modFar k f).memPoison = s.memPoison := rfl
@[simp] theorem State.modFar_msgs (k : LinkId) (f : FarState → FarState) : (s.modFar k f).msgs = s.msgs := rfl
@[simp] theorem State.modFar_mems (k : LinkId) (f : FarState → FarState) : (s.modFar k f).mems = s.mems := rfl
@[simp] theorem State.modFar_cdies (k : LinkId) (f : FarState → FarState) : (s.modFar k f).cdies = s.cdies := rfl
@[simp] theorem State.modFar_nets (k : LinkId) (f : FarState → FarState) : (s.modFar k f).nets = s.nets := rfl
@[simp] theorem State.modFar_ports (k : LinkId) (f : FarState → FarState) : (s.modFar k f).ports = s.ports := rfl
@[simp] theorem State.modFar_host (k : LinkId) (f : FarState → FarState) : (s.modFar k f).host = s.host := rfl
@[simp] theorem State.modFar_boot (k : LinkId) (f : FarState → FarState) : (s.modFar k f).boot = s.boot := rfl
@[simp] theorem State.modFar_upds (k : LinkId) (f : FarState → FarState) : (s.modFar k f).upds = s.upds := rfl
@[simp] theorem State.modFar_ticking (k : LinkId) (f : FarState → FarState) : (s.modFar k f).ticking = s.ticking := rfl
@[simp] theorem State.modFar_freeCtr (k : LinkId) (f : FarState → FarState) : (s.modFar k f).freeCtr = s.freeCtr := rfl
@[simp] theorem State.modFar_stamp (k : LinkId) (f : FarState → FarState) : (s.modFar k f).stamp = s.stamp := rfl
@[simp] theorem State.modFar_out (k : LinkId) (f : FarState → FarState) : (s.modFar k f).out = s.out := rfl
@[simp] theorem State.modFar_pending (k : LinkId) (f : FarState → FarState) : (s.modFar k f).pending = s.pending := rfl
@[simp] theorem State.modFar_course (k : LinkId) (f : FarState → FarState) (h : Course) : (s.modFar k f).course h = s.course h := rfl
@[simp] theorem State.modFar_die (k : LinkId) (f : FarState → FarState) (h : Die) : (s.modFar k f).die h = s.die h := rfl
@[simp] theorem State.modFar_reg (k : LinkId) (f : FarState → FarState) (h : Nat) : (s.modFar k f).reg h = s.reg h := rfl
@[simp] theorem State.modFar_reg64 (k : LinkId) (f : FarState → FarState) (h : Nat) : (s.modFar k f).reg64 h = s.reg64 h := rfl
@[simp] theorem State.modFar_byte (k : LinkId) (f : FarState → FarState) (h : Nat) : (s.modFar k f).byte h = s.byte h := rfl
@[simp] theorem State.modFar_poisoned (k : LinkId) (f : FarState → FarState) (h : Nat) : (s.modFar k f).poisoned h = s.poisoned h := rfl
@[simp] theorem State.modFar_memc (k : LinkId) (f : FarState → FarState) (h : Stack) : (s.modFar k f).memc h = s.memc h := rfl
@[simp] theorem State.modFar_cdie (k : LinkId) (f : FarState → FarState) (h : CDie) : (s.modFar k f).cdie h = s.cdie h := rfl
@[simp] theorem State.modFar_net (k : LinkId) (f : FarState → FarState) (h : IoDie) : (s.modFar k f).net h = s.net h := rfl

/-! ### modCDie -/

@[simp] theorem State.modCDie_courses (k : CDie) (f : CDieState → CDieState) : (s.modCDie k f).courses = s.courses := rfl
@[simp] theorem State.modCDie_dies (k : CDie) (f : CDieState → CDieState) : (s.modCDie k f).dies = s.dies := rfl
@[simp] theorem State.modCDie_regs (k : CDie) (f : CDieState → CDieState) : (s.modCDie k f).regs = s.regs := rfl
@[simp] theorem State.modCDie_wide (k : CDie) (f : CDieState → CDieState) : (s.modCDie k f).wide = s.wide := rfl
@[simp] theorem State.modCDie_latch (k : CDie) (f : CDieState → CDieState) : (s.modCDie k f).latch = s.latch := rfl
@[simp] theorem State.modCDie_capture (k : CDie) (f : CDieState → CDieState) : (s.modCDie k f).capture = s.capture := rfl
@[simp] theorem State.modCDie_mem (k : CDie) (f : CDieState → CDieState) : (s.modCDie k f).mem = s.mem := rfl
@[simp] theorem State.modCDie_memPoison (k : CDie) (f : CDieState → CDieState) : (s.modCDie k f).memPoison = s.memPoison := rfl
@[simp] theorem State.modCDie_msgs (k : CDie) (f : CDieState → CDieState) : (s.modCDie k f).msgs = s.msgs := rfl
@[simp] theorem State.modCDie_mems (k : CDie) (f : CDieState → CDieState) : (s.modCDie k f).mems = s.mems := rfl
@[simp] theorem State.modCDie_fars (k : CDie) (f : CDieState → CDieState) : (s.modCDie k f).fars = s.fars := rfl
@[simp] theorem State.modCDie_nets (k : CDie) (f : CDieState → CDieState) : (s.modCDie k f).nets = s.nets := rfl
@[simp] theorem State.modCDie_ports (k : CDie) (f : CDieState → CDieState) : (s.modCDie k f).ports = s.ports := rfl
@[simp] theorem State.modCDie_host (k : CDie) (f : CDieState → CDieState) : (s.modCDie k f).host = s.host := rfl
@[simp] theorem State.modCDie_boot (k : CDie) (f : CDieState → CDieState) : (s.modCDie k f).boot = s.boot := rfl
@[simp] theorem State.modCDie_upds (k : CDie) (f : CDieState → CDieState) : (s.modCDie k f).upds = s.upds := rfl
@[simp] theorem State.modCDie_ticking (k : CDie) (f : CDieState → CDieState) : (s.modCDie k f).ticking = s.ticking := rfl
@[simp] theorem State.modCDie_freeCtr (k : CDie) (f : CDieState → CDieState) : (s.modCDie k f).freeCtr = s.freeCtr := rfl
@[simp] theorem State.modCDie_stamp (k : CDie) (f : CDieState → CDieState) : (s.modCDie k f).stamp = s.stamp := rfl
@[simp] theorem State.modCDie_out (k : CDie) (f : CDieState → CDieState) : (s.modCDie k f).out = s.out := rfl
@[simp] theorem State.modCDie_pending (k : CDie) (f : CDieState → CDieState) : (s.modCDie k f).pending = s.pending := rfl
@[simp] theorem State.modCDie_course (k : CDie) (f : CDieState → CDieState) (h : Course) : (s.modCDie k f).course h = s.course h := rfl
@[simp] theorem State.modCDie_die (k : CDie) (f : CDieState → CDieState) (h : Die) : (s.modCDie k f).die h = s.die h := rfl
@[simp] theorem State.modCDie_reg (k : CDie) (f : CDieState → CDieState) (h : Nat) : (s.modCDie k f).reg h = s.reg h := rfl
@[simp] theorem State.modCDie_reg64 (k : CDie) (f : CDieState → CDieState) (h : Nat) : (s.modCDie k f).reg64 h = s.reg64 h := rfl
@[simp] theorem State.modCDie_byte (k : CDie) (f : CDieState → CDieState) (h : Nat) : (s.modCDie k f).byte h = s.byte h := rfl
@[simp] theorem State.modCDie_poisoned (k : CDie) (f : CDieState → CDieState) (h : Nat) : (s.modCDie k f).poisoned h = s.poisoned h := rfl
@[simp] theorem State.modCDie_memc (k : CDie) (f : CDieState → CDieState) (h : Stack) : (s.modCDie k f).memc h = s.memc h := rfl
@[simp] theorem State.modCDie_farc (k : CDie) (f : CDieState → CDieState) (h : LinkId) : (s.modCDie k f).farc h = s.farc h := rfl
@[simp] theorem State.modCDie_net (k : CDie) (f : CDieState → CDieState) (h : IoDie) : (s.modCDie k f).net h = s.net h := rfl

/-! ### modNet -/

@[simp] theorem State.modNet_courses (x : IoDie) (f : NetState → NetState) : (s.modNet x f).courses = s.courses := rfl
@[simp] theorem State.modNet_dies (x : IoDie) (f : NetState → NetState) : (s.modNet x f).dies = s.dies := rfl
@[simp] theorem State.modNet_regs (x : IoDie) (f : NetState → NetState) : (s.modNet x f).regs = s.regs := rfl
@[simp] theorem State.modNet_wide (x : IoDie) (f : NetState → NetState) : (s.modNet x f).wide = s.wide := rfl
@[simp] theorem State.modNet_latch (x : IoDie) (f : NetState → NetState) : (s.modNet x f).latch = s.latch := rfl
@[simp] theorem State.modNet_capture (x : IoDie) (f : NetState → NetState) : (s.modNet x f).capture = s.capture := rfl
@[simp] theorem State.modNet_mem (x : IoDie) (f : NetState → NetState) : (s.modNet x f).mem = s.mem := rfl
@[simp] theorem State.modNet_memPoison (x : IoDie) (f : NetState → NetState) : (s.modNet x f).memPoison = s.memPoison := rfl
@[simp] theorem State.modNet_msgs (x : IoDie) (f : NetState → NetState) : (s.modNet x f).msgs = s.msgs := rfl
@[simp] theorem State.modNet_mems (x : IoDie) (f : NetState → NetState) : (s.modNet x f).mems = s.mems := rfl
@[simp] theorem State.modNet_fars (x : IoDie) (f : NetState → NetState) : (s.modNet x f).fars = s.fars := rfl
@[simp] theorem State.modNet_cdies (x : IoDie) (f : NetState → NetState) : (s.modNet x f).cdies = s.cdies := rfl
@[simp] theorem State.modNet_ports (x : IoDie) (f : NetState → NetState) : (s.modNet x f).ports = s.ports := rfl
@[simp] theorem State.modNet_host (x : IoDie) (f : NetState → NetState) : (s.modNet x f).host = s.host := rfl
@[simp] theorem State.modNet_boot (x : IoDie) (f : NetState → NetState) : (s.modNet x f).boot = s.boot := rfl
@[simp] theorem State.modNet_upds (x : IoDie) (f : NetState → NetState) : (s.modNet x f).upds = s.upds := rfl
@[simp] theorem State.modNet_ticking (x : IoDie) (f : NetState → NetState) : (s.modNet x f).ticking = s.ticking := rfl
@[simp] theorem State.modNet_freeCtr (x : IoDie) (f : NetState → NetState) : (s.modNet x f).freeCtr = s.freeCtr := rfl
@[simp] theorem State.modNet_stamp (x : IoDie) (f : NetState → NetState) : (s.modNet x f).stamp = s.stamp := rfl
@[simp] theorem State.modNet_out (x : IoDie) (f : NetState → NetState) : (s.modNet x f).out = s.out := rfl
@[simp] theorem State.modNet_pending (x : IoDie) (f : NetState → NetState) : (s.modNet x f).pending = s.pending := rfl
@[simp] theorem State.modNet_course (x : IoDie) (f : NetState → NetState) (h : Course) : (s.modNet x f).course h = s.course h := rfl
@[simp] theorem State.modNet_die (x : IoDie) (f : NetState → NetState) (h : Die) : (s.modNet x f).die h = s.die h := rfl
@[simp] theorem State.modNet_reg (x : IoDie) (f : NetState → NetState) (h : Nat) : (s.modNet x f).reg h = s.reg h := rfl
@[simp] theorem State.modNet_reg64 (x : IoDie) (f : NetState → NetState) (h : Nat) : (s.modNet x f).reg64 h = s.reg64 h := rfl
@[simp] theorem State.modNet_byte (x : IoDie) (f : NetState → NetState) (h : Nat) : (s.modNet x f).byte h = s.byte h := rfl
@[simp] theorem State.modNet_poisoned (x : IoDie) (f : NetState → NetState) (h : Nat) : (s.modNet x f).poisoned h = s.poisoned h := rfl
@[simp] theorem State.modNet_memc (x : IoDie) (f : NetState → NetState) (h : Stack) : (s.modNet x f).memc h = s.memc h := rfl
@[simp] theorem State.modNet_farc (x : IoDie) (f : NetState → NetState) (h : LinkId) : (s.modNet x f).farc h = s.farc h := rfl
@[simp] theorem State.modNet_cdie (x : IoDie) (f : NetState → NetState) (h : CDie) : (s.modNet x f).cdie h = s.cdie h := rfl

/-! ### What changes -/

/-- An element of a vector after one is set. -/
theorem vector_get_set {α : Type} {n : Nat} (v : Vector α n) (i : Fin n) (x : α) : (v.set i x).get i = x := by
  show (v.set i x)[i.val] = x
  simp

theorem vector_get_set_ne {α : Type} {n : Nat} (v : Vector α n) {i j : Fin n} (h : j ≠ i) (x : α) :
    (v.set i x).get j = v.get j := by
  have : i.val ≠ j.val := fun e => h (Fin.ext e.symm)
  show (v.set i x)[j.val] = v[j.val]
  simp [this]

@[simp] theorem State.setCourse_course (g : Course) (c : CourseState) : (s.setCourse g c).course g = c := vector_get_set _ _ _

theorem State.setCourse_course_ne {g h : Course} (e : h ≠ g) (c : CourseState) : (s.setCourse g c).course h = s.course h := vector_get_set_ne _ e _

@[simp] theorem State.modCourse_course (g : Course) (f : CourseState → CourseState) :
    (s.modCourse g f).course g = f (s.course g) := s.setCourse_course g _

theorem State.modCourse_course_ne {g h : Course} (e : h ≠ g) (f : CourseState → CourseState) :
    (s.modCourse g f).course h = s.course h := s.setCourse_course_ne e _

theorem vector_set_get {α : Type} {n : Nat} (v : Vector α n) (i : Fin n) : v.set i (v.get i) = v := by
  show v.set i v[i.val] = v
  simp

theorem State.setCourse_self (g : Course) : s.setCourse g (s.course g) = s := by
  unfold State.setCourse State.course
  rw [vector_set_get]

theorem State.setCourse_setCourse (g : Course) (a b : CourseState) : (s.setCourse g a).setCourse g b = s.setCourse g b := by
  unfold State.setCourse
  simp

theorem State.modCourse_modCourse (g : Course) (f h : CourseState → CourseState) :
    (s.modCourse g f).modCourse g h = s.modCourse g fun c => h (f c) := by
  unfold State.modCourse
  rw [State.setCourse_setCourse, State.setCourse_course]

@[simp] theorem State.setDie_die (d : Die) (x : DieState) : (s.setDie d x).die d = x := vector_get_set _ _ _

theorem State.setDie_die_ne {d e : Die} (h : e ≠ d) (x : DieState) : (s.setDie d x).die e = s.die e := vector_get_set_ne _ h _

@[simp] theorem State.modDie_die (d : Die) (f : DieState → DieState) : (s.modDie d f).die d = f (s.die d) := s.setDie_die d _

theorem State.modDie_die_ne {d e : Die} (h : e ≠ d) (f : DieState → DieState) : (s.modDie d f).die e = s.die e :=
  s.setDie_die_ne h _

@[simp] theorem State.raise_die (d : Die) (r : Report) :
    (s.raise d r).die d = { s.die d with presented := (s.die d).presented ++ [r] } := s.modDie_die d _

theorem State.raise_die_ne {d e : Die} (h : e ≠ d) (r : Report) : (s.raise d r).die e = s.die e := s.modDie_die_ne h _

@[simp] theorem State.modMem_memc (k : Stack) (f : MemState → MemState) : (s.modMem k f).memc k = f (s.memc k) := vector_get_set _ _ _

theorem State.modMem_memc_ne {k j : Stack} (h : j ≠ k) (f : MemState → MemState) : (s.modMem k f).memc j = s.memc j := vector_get_set_ne _ h _

@[simp] theorem State.modFar_farc (k : LinkId) (f : FarState → FarState) : (s.modFar k f).farc k = f (s.farc k) := vector_get_set _ _ _

@[simp] theorem State.modCDie_cdie (k : CDie) (f : CDieState → CDieState) : (s.modCDie k f).cdie k = f (s.cdie k) := vector_get_set _ _ _

@[simp] theorem State.modNet_net (x : IoDie) (f : NetState → NetState) : (s.modNet x f).net x = f (s.net x) := vector_get_set _ _ _

@[simp] theorem State.emit_out (m : OutMsg) : (s.emit m).out = s.out ++ [m] := rfl
@[simp] theorem State.used_freeCtr : s.used.freeCtr = s.freeCtr + 1 := rfl
@[simp] theorem State.tick_stamp : s.tick.stamp = s.stamp + 1 := rfl

/-- A register reads what was written to it. -/
@[simp] theorem State.setReg_reg (o : Nat) (v : Word) : (s.setReg o v).reg o = v :=
  SMap.get_put_same o v _ _

theorem State.setReg_reg_ne {o p : Nat} (e : p ≠ o) (v : Word) :
    (s.setReg o v).reg p = s.reg p := SMap.get_put_other e v _ _ _

@[simp] theorem State.setReg64_reg64 (o : Nat) (v : DWord) : (s.setReg64 o v).reg64 o = v :=
  SMap.get_put_same o v _ _

theorem State.setReg64_reg64_ne {o p : Nat} (e : p ≠ o) (v : DWord) :
    (s.setReg64 o v).reg64 p = s.reg64 p := SMap.get_put_other e v _ _ _

/-- A byte reads what was written to it. -/
@[simp] theorem State.setByte_byte (a : Nat) (v : Byte) : (s.setByte a v).byte a = v :=
  SMap.get_put_same a v _ _

theorem State.setByte_byte_ne {a b : Nat} (e : b ≠ a) (v : Byte) :
    (s.setByte a v).byte b = s.byte b := SMap.get_put_other e v _ _ _

theorem State.setByte_sorted (h : SMap.sorted s.mem = true) (a : Nat) (v : Byte) :
    SMap.sorted (s.setByte a v).mem = true := by
  unfold State.setByte SMap.put
  split
  · exact SMap.sorted_del a h
  · exact SMap.sorted_ins a v h

/-! ### The registers of a course controller (R200) -/

/-- The registers of a controller, and what each change leaves. -/
@[simp] theorem CourseState.rs_zero (c : CourseState) : c.rs 0 = 0 := rfl
@[simp] theorem CourseState.rp_zero (c : CourseState) : c.rp 0 = true := rfl
@[simp] theorem CourseState.ws_zero (c : CourseState) (v : DWord) : c.ws 0 v = c := rfl
@[simp] theorem CourseState.wp_zero (c : CourseState) (v : Bool) : c.wp 0 v = c := rfl

theorem CourseState.ws_rs (c : CourseState) {i : Fin 32} (h : i ≠ 0) (v : DWord) : (c.ws i v).rs i = v := by
  simp [CourseState.ws, CourseState.rs, h, vector_get_set]

theorem CourseState.ws_rs_ne (c : CourseState) {i j : Fin 32} (h : j ≠ i) (v : DWord) : (c.ws i v).rs j = c.rs j := by
  by_cases hi : i = 0 <;> by_cases hj : j = 0 <;> simp [CourseState.ws, CourseState.rs, hi, hj, vector_get_set_ne _ h]

theorem CourseState.wa_ra (c : CourseState) (i : Fin 16) (v : Addr) : (c.wa i v).ra i = v := vector_get_set _ _ _

theorem CourseState.wa_ra_ne (c : CourseState) {i j : Fin 16} (h : j ≠ i) (v : Addr) : (c.wa i v).ra j = c.ra j := vector_get_set_ne _ h _

theorem CourseState.wp_rp (c : CourseState) {i : Fin 8} (h : i ≠ 0) (v : Bool) : (c.wp i v).rp i = v := by
  simp [CourseState.wp, CourseState.rp, h, vector_get_set]

end Sys2Proof.Machine
end

