-- ==== Sys2Proof/Laws/Issue.lean ====
section
/-! SUPPORT. Issue: everything that issuing an instruction can do (R203), for the proofs about instructions to cite. -/

namespace Sys2Proof.Machine

variable (s : State) (g : Course)

/-- A fetch changes nothing but the instruction buffer (R199). -/
theorem State.fetch_fst : ∃ b, (s.fetch g).1 = s.modCourse g fun c => { c with ibuf := b } := by
  have id : s = s.modCourse g fun c => { c with ibuf := c.ibuf } := by
    unfold State.modCourse
    exact (s.setCourse_self g).symm
  have id' : s = s.modCourse g fun c => { c with ibuf := (s.course g).ibuf } := by
    unfold State.modCourse at id ⊢
    exact id
  unfold State.fetch
  dsimp only
  repeat' split
  all_goals first
    | exact ⟨_, id'⟩
    | exact ⟨_, rfl⟩

variable {s g}

/-- What issuing does where nothing keeps the instruction from its effect (R203). -/
theorem State.issue_runs {w : BitVec 56} {sub : BitVec 4} {z : List (Nat × Nat)} {v2 : Bool} {body : State → Act}
    (hr : s.issuing g = true) (hf : (s.fetch g).2 = true) (hn : (s.nextInstr g).isSome = true) (hl : s.illegal g w z v2 = false)
    (hg : (s.course g).guard w = true) :
    s.issue g w sub z v2 body = match body (s.fetch g).1 with
      | .fault code e => (s.fetch g).1.precise g code sub e
      | .faultIn u code e => u.precise g code sub e
      | .next u => (u.issued g).modCourse g fun c => { c with pc := c.pc + 8 }
      | .goto u pc => (u.issued g).modCourse g fun c => { c with pc := pc }
      | .stay u => u.issued g
      | .post u f => f ((u.issued g).modCourse g fun c => { c with pc := c.pc + 8 }) := by
  obtain ⟨b, hb⟩ := s.fetch_fst g
  have hn' : (s.nextInstr g).isNone = false := by
    rwa [Option.isNone_eq_false_iff]
  have hl' : (s.fetch g).1.illegal g w z v2 = false := by
    rw [hb]
    simpa [State.illegal] using hl
  have hg' : ((s.fetch g).1.course g).guard w = true := by
    rw [hb]
    simpa [CourseState.guard, CourseState.rp] using hg
  unfold State.issue
  simp only [hr, hf, hn', hl', hg', Bool.not_true, Bool.false_eq_true, if_false]
  cases body (s.fetch g).1 <;> rfl

/-- An instruction whose guard does not hold only goes on (R202). -/
theorem State.issue_skips {w : BitVec 56} {sub : BitVec 4} {z : List (Nat × Nat)} {v2 : Bool} {body : State → Act}
    (hr : s.issuing g = true) (hf : (s.fetch g).2 = true) (hn : (s.nextInstr g).isSome = true) (hl : s.illegal g w z v2 = false)
    (hg : (s.course g).guard w = false) :
    s.issue g w sub z v2 body = ((s.fetch g).1.issued g).modCourse g fun c => { c with pc := c.pc + 8 } := by
  obtain ⟨b, hb⟩ := s.fetch_fst g
  have hn' : (s.nextInstr g).isNone = false := by
    rwa [Option.isNone_eq_false_iff]
  have hl' : (s.fetch g).1.illegal g w z v2 = false := by
    rw [hb]
    simpa [State.illegal] using hl
  have hg' : ((s.fetch g).1.course g).guard w = false := by
    rw [hb]
    simpa [CourseState.guard, CourseState.rp] using hg
  unfold State.issue
  simp [hr, hf, hn', hl', hg']

/-- A word that is not legal faults ISCON_ILLEGAL (R203 step 1). -/
theorem State.issue_illegal {w : BitVec 56} {sub : BitVec 4} {z : List (Nat × Nat)} {v2 : Bool} {body : State → Act}
    (hr : s.issuing g = true) (hf : (s.fetch g).2 = true) (hn : (s.nextInstr g).isSome = true) (hl : s.illegal g w z v2 = true) :
    s.issue g w sub z v2 body = (s.fetch g).1.precise g 0x0501 sub none := by
  obtain ⟨b, hb⟩ := s.fetch_fst g
  have hn' : (s.nextInstr g).isNone = false := by
    rwa [Option.isNone_eq_false_iff]
  have hl' : (s.fetch g).1.illegal g w z v2 = true := by
    rw [hb]
    simpa [State.illegal] using hl
  unfold State.issue
  simp [hr, hf, hn', hl']

/-- A word whose OP is reserved faults ISCON_ILLEGAL (R203 step 1, R205). -/
theorem State.issue_reserved {w : BitVec 56} {sub : BitVec 4} {z : List (Nat × Nat)} {v2 : Bool} {body : State → Act}
    (hr : s.issuing g = true) (hf : (s.fetch g).2 = true) (hn : s.nextInstr g = none) :
    s.issue g w sub z v2 body = (s.fetch g).1.precise g 0x0501 (s.opSub g) none := by
  unfold State.issue
  simp [hr, hf, hn]

/-- A fetch that fails faults ISCON_FETCH (R199). -/
theorem State.issue_unfetched {w : BitVec 56} {sub : BitVec 4} {z : List (Nat × Nat)} {v2 : Bool} {body : State → Act}
    (hr : s.issuing g = true) (hf : (s.fetch g).2 = false) :
    s.issue g w sub z v2 body = (s.fetch g).1.precise g 0x0505 0x8 (some ((s.course g).pc.setWidth 64)) := by
  obtain ⟨b, hb⟩ := s.fetch_fst g
  have hp : ((s.fetch g).1.course g).pc = (s.course g).pc := by
    rw [hb]
    simp
  unfold State.issue
  simp [hr, hf, hp]

/-- A controller that does not issue leaves the word where it is (R198, R212, R225). -/
theorem State.issue_waits {w : BitVec 56} {sub : BitVec 4} {z : List (Nat × Nat)} {v2 : Bool} {body : State → Act}
    (hr : s.issuing g = false) : s.issue g w sub z v2 body = s := by
  unfold State.issue
  simp [hr]

/-- Counting an instruction changes one counter (R243). -/
theorem State.issued_eq : s.issued g = { s with wide := (s.issued g).wide } := by
  unfold State.issued State.countC State.count
  split <;> rfl

@[simp] theorem State.issued_course (h : Course) : (s.issued g).course h = s.course h := by
  rw [State.issued_eq]
  rfl

theorem State.issued_modCourse (f : CourseState → CourseState) :
    (s.modCourse g f).issued g = (s.issued g).modCourse g f := by
  unfold State.issued State.countC State.count
  simp only [State.modCourse_reg, State.modCourse_reg64]
  split
  · simp [*]
  · simp only [*]
    rfl

end Sys2Proof.Machine
end

