-- ==== Sys2Proof/Laws/Keep.lean ====
section
/-! SUPPORT. Keep: what no command changes. A state keeps the canonical form and its queue of waiting commands through every
operation that the meanings are built from; the files KeepMemory to KeepUpdate say so of one operation each. -/

set_option linter.unusedSimpArgs false
set_option linter.unusedTactic false
set_option linter.unreachableTactic false
set_option linter.unnecessarySeqFocus false
set_option linter.unusedVariables false

namespace Sys2Proof.Machine

/-- What a run keeps: the canonical form, where it holds to begin with, and the queue. -/
structure Kept where
  canon : Prop
  queue : List Instr

/-- The maps are in canonical form if they were to begin with, and the queue is as it was. -/
def KeepOf (p : Kept) (regs : SMap Word) (wide : SMap DWord) (latch : SMap Word) (mem : SMap Byte) (memPoison : SMap Bool)
    (pending : List Instr) : Prop :=
  (p.canon → (SMap.wf memDefault mem && SMap.wf (fun _ => false) memPoison &&
    SMap.wf (fun o => BitVec.ofNat 32 (regReset o)) regs && SMap.wf (fun o => BitVec.ofNat 64 (regReset o)) wide &&
    SMap.wf (fun _ => 0) latch) = true) ∧ pending = p.queue

def State.Keep (p : Kept) (s : State) : Prop := KeepOf p s.regs s.wide s.latch s.mem s.memPoison s.pending

/-- What a state itself keeps. -/
def State.kept (s : State) : Kept := ⟨s.canon = true, s.pending⟩

theorem State.keep_self (s : State) : s.Keep s.kept := ⟨id, rfl⟩

theorem State.keep_kept {s t : State} : t.Keep s.kept ↔ (s.canon = true → t.canon = true) ∧ t.pending = s.pending := Iff.rfl

variable {p : Kept} {s t : State}

/-- A change of neither the maps nor the queue. -/
theorem State.Keep.same (h : s.Keep p) (h1 : t.mem = s.mem) (h2 : t.memPoison = s.memPoison) (h3 : t.regs = s.regs)
    (h4 : t.wide = s.wide) (h5 : t.latch = s.latch) (h6 : t.pending = s.pending) : t.Keep p := by
  simpa only [State.Keep, h1, h2, h3, h4, h5, h6] using h

/-- A state written out keeps it if its maps and its queue do. -/
theorem keep_mk {courses : Vector CourseState 32} {dies : Vector DieState 6} {capture : List ((Agent × Nat) × Word)}
    {msgs : List Msg} {mems : Vector MemState 8} {fars : Vector FarState 8} {cdies : Vector CDieState 4}
    {nets : Vector NetState 2} {ports : Vector PortState 12} {host : HostState} {boot : BootState} {upds : List UpdRun}
    {ticking : List Nat} {freeCtr stamp : Nat} {out : List OutMsg} {regs latch : SMap Word} {wide : SMap DWord} {mem : SMap Byte}
    {memPoison : SMap Bool} {pending : List Instr} :
    (State.mk courses dies regs wide latch capture mem memPoison msgs mems fars cdies nets ports host boot upds ticking
      freeCtr stamp out pending).Keep p ↔ KeepOf p regs wide latch mem memPoison pending := Iff.rfl

theorem keepOf_self : KeepOf p s.regs s.wide s.latch s.mem s.memPoison s.pending ↔ s.Keep p := Iff.rfl

theorem ite_keep {c : Prop} {_ : Decidable c} {a b : State} (ha : a.Keep p) (hb : b.Keep p) :
    (if c then a else b).Keep p := by
  split <;> assumption

theorem foldl_keep {α : Type} {f : State → α → State} {l : List α} (hf : ∀ t a, t.Keep p → (f t a).Keep p)
    (h : s.Keep p) : (l.foldl f s).Keep p := by
  induction l generalizing s with
  | nil => exact h
  | cons a l ih => exact ih (hf s a h)

theorem foldr_keep {α : Type} {f : α → State → State} {l : List α} (hf : ∀ t a, t.Keep p → (f a t).Keep p)
    (h : s.Keep p) : (l.foldr f s).Keep p := by
  induction l with
  | nil => exact h
  | cons a l ih => exact hf _ a ih

/-- A state beside another value, folded over a list. -/
theorem foldl_keep_snd {α β : Type} {f : β × State → α → β × State} {l : List α} {x : β × State}
    (hf : ∀ t a, t.2.Keep p → (f t a).2.Keep p) (h : x.2.Keep p) : (l.foldl f x).2.Keep p := by
  induction l generalizing x with
  | nil => exact h
  | cons a l ih => exact ih (hf x a h)

theorem foldl_keep_fst {α β : Type} {f : State × β → α → State × β} {l : List α} {x : State × β}
    (hf : ∀ t a, t.1.Keep p → (f t a).1.Keep p) (h : x.1.Keep p) : (l.foldl f x).1.Keep p := by
  induction l generalizing x with
  | nil => exact h
  | cons a l ih => exact ih (hf x a h)

/-- An answer of a command keeps it where it is a next state. -/
def OutKeep (p : Kept) (o : Out) : Prop := ∀ t, o = .next t → t.Keep p

theorem outKeep_next : OutKeep p (.next s) ↔ s.Keep p := by
  simp [OutKeep]

theorem outKeep_ite {c : Prop} {_ : Decidable c} {a b : Out} (ha : OutKeep p a) (hb : OutKeep p b) :
    OutKeep p (if c then a else b) := by
  split <;> assumption

/-- A state that may be absent. -/
def OptKeep (p : Kept) (o : Option State) : Prop := ∀ t, o = some t → t.Keep p

theorem optKeep_some : OptKeep p (some s) ↔ s.Keep p := by
  simp [OptKeep]

theorem optKeep_none : OptKeep p none := by
  simp [OptKeep]

theorem optKeep_ite {c : Prop} {_ : Decidable c} {a b : Option State} (ha : OptKeep p a) (hb : OptKeep p b) :
    OptKeep p (if c then a else b) := by
  split <;> assumption

theorem OptKeep.get {o : Option State} (h : OptKeep p o) (ho : o = some t) : t.Keep p := h t ho

/-- What an instruction of a controller does keeps it. -/
def Act.Keep (p : Kept) : Act → Prop
  | .next t => t.Keep p
  | .goto t _ => t.Keep p
  | .stay t => t.Keep p
  | .post t f => t.Keep p ∧ ∀ u : State, u.Keep p → (f u).Keep p
  | .fault _ _ => True
  | .faultIn t _ _ => t.Keep p

theorem Act.keep_next : Act.Keep p (.next t) ↔ t.Keep p := Iff.rfl
theorem Act.keep_goto {pc : Addr} : Act.Keep p (.goto t pc) ↔ t.Keep p := Iff.rfl
theorem Act.keep_stay : Act.Keep p (.stay t) ↔ t.Keep p := Iff.rfl
theorem Act.keep_post {f : State → State} :
    Act.Keep p (.post t f) ↔ t.Keep p ∧ ∀ u : State, u.Keep p → (f u).Keep p := Iff.rfl
theorem Act.keep_fault {c : BitVec 16} {e : Option DWord} : Act.Keep p (.fault c e) := trivial
theorem Act.keep_faultIn {c : BitVec 16} {e : Option DWord} : Act.Keep p (.faultIn t c e) ↔ t.Keep p := Iff.rfl
theorem Act.keep_ite {c : Prop} {_ : Decidable c} {a b : Act} (ha : Act.Keep p a) (hb : Act.Keep p b) :
    Act.Keep p (if c then a else b) := by
  split <;> assumption

/-! ### The operations that write the maps -/

theorem SMap.wf_filter {V : Type} [DecidableEq V] {d : Nat → V} {m : SMap V} (q : Nat × V → Bool) (h : SMap.wf d m = true) :
    SMap.wf d (m.filter q) = true := by
  have ha : ∀ {m : SMap V} {b : Nat}, SMap.above b m = true → SMap.above b (m.filter q) = true := by
    intro m
    induction m with
    | nil => intro b _; rfl
    | cons e m ih =>
      obtain ⟨k, v⟩ := e
      intro b h
      simp only [SMap.above, Bool.and_eq_true, decide_eq_true_eq] at h
      rw [List.filter_cons]
      split
      · simp only [SMap.above, Bool.and_eq_true, decide_eq_true_eq]
        exact ⟨h.1, ih h.2⟩
      · exact ih (SMap.above_mono (by omega) h.2)
  simp only [SMap.wf, Bool.and_eq_true, List.all_eq_true, decide_eq_true_eq] at h ⊢
  refine ⟨?_, fun e he => h.2 e (List.mem_filter.mp he).1⟩
  cases m with
  | nil => rfl
  | cons e m =>
    obtain ⟨k, v⟩ := e
    rw [List.filter_cons]
    split
    · exact ha h.1
    · exact SMap.sorted_of_above (ha h.1)

theorem State.setReg_keep {off : Nat} {v : Word} (h : s.Keep p) : (s.setReg off v).Keep p := by
  obtain ⟨h, hq⟩ := h
  refine ⟨fun hc => ?_, hq⟩
  replace h := h hc
  simp only [Bool.and_eq_true] at h ⊢
  obtain ⟨⟨⟨⟨a, b⟩, c⟩, d⟩, e⟩ := h
  exact ⟨⟨⟨⟨a, b⟩, SMap.wf_put _ off v c⟩, d⟩, e⟩

theorem State.setReg64_keep {off : Nat} {v : DWord} (h : s.Keep p) : (s.setReg64 off v).Keep p := by
  obtain ⟨h, hq⟩ := h
  refine ⟨fun hc => ?_, hq⟩
  replace h := h hc
  simp only [Bool.and_eq_true] at h ⊢
  obtain ⟨⟨⟨⟨a, b⟩, c⟩, d⟩, e⟩ := h
  exact ⟨⟨⟨⟨a, b⟩, c⟩, SMap.wf_put _ off v d⟩, e⟩

theorem State.setByte_keep {a : Nat} {v : Byte} (h : s.Keep p) : (s.setByte a v).Keep p := by
  obtain ⟨h, hq⟩ := h
  refine ⟨fun hc => ?_, hq⟩
  replace h := h hc
  simp only [Bool.and_eq_true] at h ⊢
  obtain ⟨⟨⟨⟨a', b⟩, c⟩, d⟩, e⟩ := h
  exact ⟨⟨⟨⟨SMap.wf_put _ a v a', b⟩, c⟩, d⟩, e⟩

theorem State.setPoison_keep {a : Nat} {v : Bool} (h : s.Keep p) : (s.setPoison a v).Keep p := by
  obtain ⟨h, hq⟩ := h
  refine ⟨fun hc => ?_, hq⟩
  replace h := h hc
  simp only [Bool.and_eq_true] at h ⊢
  obtain ⟨⟨⟨⟨a', b⟩, c⟩, d⟩, e⟩ := h
  exact ⟨⟨⟨⟨a', SMap.wf_put (fun _ => false) (a / 64) v b⟩, c⟩, d⟩, e⟩

theorem State.putBytes_keep {a : Nat} {bs : List Byte} (h : s.Keep p) : (s.putBytes a bs).Keep p := by
  induction bs generalizing s a with
  | nil => exact h
  | cons b bs ih => exact ih (State.setByte_keep h)

theorem State.resetRange_keep {lo hi : Nat} (h : s.Keep p) : (s.resetRange lo hi).Keep p := by
  obtain ⟨h, hq⟩ := h
  refine ⟨fun hc => ?_, hq⟩
  replace h := h hc
  simp only [Bool.and_eq_true] at h ⊢
  obtain ⟨⟨⟨⟨a, b⟩, c⟩, d⟩, e⟩ := h
  exact ⟨⟨⟨⟨a, b⟩, SMap.wf_filter _ c⟩, SMap.wf_filter _ d⟩, e⟩

theorem epoch_reset (g : Course) : regReset (cr g 0x1C) = 0 := by
  revert g; decide

theorem State.resetRegs_keep {g : Course} (h : s.Keep p) : (s.resetRegs g).Keep p := by
  obtain ⟨h, hq⟩ := h
  refine ⟨fun hc => ?_, hq⟩
  replace h := h hc
  simp only [Bool.and_eq_true] at h ⊢
  obtain ⟨⟨⟨⟨a, b⟩, c⟩, d⟩, e⟩ := h
  refine ⟨⟨⟨⟨a, b⟩, ?_⟩, SMap.wf_filter _ d⟩, e⟩
  have := SMap.wf_put (fun o => BitVec.ofNat 32 (regReset o)) (cr g 0x1C) ((s.reg (cr g 0x1C) + 1) &&& 0xFFFF)
    (SMap.wf_filter (fun r => !resetClears g r.1) c)
  rw [epoch_reset] at this
  exact this

theorem State.packageReset_keep (h : s.Keep p) : s.packageReset.Keep p := ⟨fun _ => rfl, h.2⟩

theorem State.latch_keep {off : Nat} {v : Word} (h : s.Keep p) : ({ s with latch := SMap.put s.latch off v 0 } : State).Keep p := by
  obtain ⟨h, hq⟩ := h
  refine ⟨fun hc => ?_, hq⟩
  replace h := h hc
  simp only [Bool.and_eq_true] at h ⊢
  exact ⟨h.1, SMap.wf_put (fun _ => 0) off v h.2⟩

end Sys2Proof.Machine
end

