-- ==== Sys2Proof/Laws/KeepMemory.lean ====
section
/-! SUPPORT. KeepMemory: what the operations of Machine/Ops, Formats, Crypto, Mem, Irq, NearMem, Arbiter, Window keep (see Keep). -/

set_option linter.unusedSimpArgs false
set_option linter.unusedTactic false
set_option linter.unreachableTactic false
set_option linter.unnecessarySeqFocus false
set_option linter.unusedVariables false

namespace Sys2Proof.Machine

variable {Q : Kept} {s t : State}

/-! ### Ops -/

theorem State.setCourse_keep {g : Course} {c : CourseState} (h : s.Keep Q) : (State.setCourse s g c).Keep Q := by
  simp +contextual (maxDischargeDepth := 20) only [State.setCourse, ite_keep, foldl_keep, keep_mk, keepOf_self, and_self,
      implies_true, *]

theorem State.modCourse_keep {g : Course} {f : CourseState → CourseState} (h : s.Keep Q) : (State.modCourse s g
    f).Keep Q := by
  simp +contextual (maxDischargeDepth := 20) only [State.modCourse, ite_keep, foldl_keep, keep_mk, keepOf_self, and_self,
      implies_true, *, State.setCourse_keep]

theorem State.setDie_keep {d : Die} {x : DieState} (h : s.Keep Q) : (State.setDie s d x).Keep Q := by
  simp +contextual (maxDischargeDepth := 20) only [State.setDie, ite_keep, foldl_keep, keep_mk, keepOf_self, and_self,
      implies_true, *]

theorem State.modDie_keep {d : Die} {f : DieState → DieState} (h : s.Keep Q) : (State.modDie s d f).Keep Q := by
  simp +contextual (maxDischargeDepth := 20) only [State.modDie, ite_keep, foldl_keep, keep_mk, keepOf_self, and_self,
      implies_true, *, State.setDie_keep]

theorem State.used_keep (h : s.Keep Q) : (State.used s).Keep Q := by
  simp +contextual (maxDischargeDepth := 20) only [State.used, ite_keep, foldl_keep, keep_mk, keepOf_self, and_self,
      implies_true, *]

theorem State.freeBytes_keep {n : Nat} (h : s.Keep Q) : (State.freeBytes s n).2.Keep Q := by
  simp +contextual (maxDischargeDepth := 20) only [State.freeBytes, ite_keep, foldl_keep, keep_mk, keepOf_self, and_self,
      implies_true, *]

theorem State.tick_keep (h : s.Keep Q) : (State.tick s).Keep Q := by
  simp +contextual (maxDischargeDepth := 20) only [State.tick, ite_keep, foldl_keep, keep_mk, keepOf_self, and_self,
      implies_true, *]

theorem State.emit_keep {m : OutMsg} (h : s.Keep Q) : (State.emit s m).Keep Q := by
  simp +contextual (maxDischargeDepth := 20) only [State.emit, ite_keep, foldl_keep, keep_mk, keepOf_self, and_self,
      implies_true, *]

theorem State.orReg_keep {off : Nat} {m : Word} (h : s.Keep Q) : (State.orReg s off m).Keep Q := by
  simp +contextual (maxDischargeDepth := 20) only [State.orReg, ite_keep, foldl_keep, keep_mk, keepOf_self, and_self,
      implies_true, *, State.setReg_keep]

theorem State.clrReg_keep {off : Nat} {m : Word} (h : s.Keep Q) : (State.clrReg s off m).Keep Q := by
  simp +contextual (maxDischargeDepth := 20) only [State.clrReg, ite_keep, foldl_keep, keep_mk, keepOf_self, and_self,
      implies_true, *, State.setReg_keep]

theorem State.count_keep {base ctrl cnt n : Nat} (h : s.Keep Q) : (State.count s base ctrl cnt n).Keep Q := by
  simp +contextual (maxDischargeDepth := 20) only [State.count, ite_keep, foldl_keep, keep_mk, keepOf_self, and_self,
      implies_true, *, State.setReg64_keep]

theorem State.count32_keep {base ctrl cnt n : Nat} (h : s.Keep Q) : (State.count32 s base ctrl cnt n).Keep Q := by
  simp +contextual (maxDischargeDepth := 20) only [State.count32, ite_keep, foldl_keep, keep_mk, keepOf_self, and_self,
      implies_true, *, State.setReg_keep]

theorem State.countC_keep {g : Course} {ctrl cnt n : Nat} (h : s.Keep Q) : (State.countC s g ctrl cnt n).Keep Q :=
    by
  simp +contextual (maxDischargeDepth := 20) only [State.countC, ite_keep, foldl_keep, keep_mk, keepOf_self, and_self,
      implies_true, *, State.count_keep]

theorem State.wrN_keep {a n v : Nat} (h : s.Keep Q) : (State.wrN s a n v).Keep Q := by
  simp +contextual (maxDischargeDepth := 20) only [State.wrN, ite_keep, foldl_keep, keep_mk, keepOf_self, and_self,
      implies_true, *, State.putBytes_keep]

theorem State.cleanLines_keep {a n : Nat} (h : s.Keep Q) : (State.cleanLines s a n).Keep Q := by
  simp +contextual (maxDischargeDepth := 20) only [State.cleanLines, ite_keep, foldl_keep, keep_mk, keepOf_self, and_self,
      implies_true, *, State.setPoison_keep]

theorem State.store_keep {a : Nat} {bs : List Byte} (h : s.Keep Q) : (State.store s a bs).Keep Q := by
  simp +contextual (maxDischargeDepth := 20) only [State.store, ite_keep, foldl_keep, keep_mk, keepOf_self, and_self,
      implies_true, *, State.putBytes_keep, State.cleanLines_keep]

theorem State.storeN_keep {a n v : Nat} (h : s.Keep Q) : (State.storeN s a n v).Keep Q := by
  simp +contextual (maxDischargeDepth := 20) only [State.storeN, ite_keep, foldl_keep, keep_mk, keepOf_self, and_self,
      implies_true, *, State.store_keep]

theorem State.raise_keep {d : Die} {r : Report} (h : s.Keep Q) : (State.raise s d r).Keep Q := by
  simp +contextual (maxDischargeDepth := 20) only [State.raise, ite_keep, foldl_keep, keep_mk, keepOf_self, and_self,
      implies_true, *, State.modDie_keep]

theorem State.raiseWith_keep {d : Die} {r : Report} {info : Option DWord} (h : s.Keep Q) : (State.raiseWith s d r
    info).Keep Q := by
  unfold State.raiseWith
  (repeat' split) <;> simp +contextual (maxDischargeDepth := 20) only [ite_keep, foldl_keep, keep_mk, keepOf_self, and_self,
      implies_true, *, State.used_keep, State.raise_keep]

theorem State.raiseCourse_keep {g : Course} {code : BitVec 16} {unit : Byte} {sub : BitVec 4} {info : Option DWord}
    (h : s.Keep Q) : (State.raiseCourse s g code unit sub info).Keep Q := by
  simp +contextual (maxDischargeDepth := 20) only [State.raiseCourse, ite_keep, foldl_keep, keep_mk, keepOf_self, and_self,
      implies_true, *, State.raiseWith_keep]

theorem State.raiseInstr_keep {g : Course} {code : BitVec 16} {unit : Byte} {sub : BitVec 4} {precise tp : Bool} {pc
    : Addr} {info : Option DWord} (h : s.Keep Q) : (State.raiseInstr s g code unit sub precise tp pc info).Keep Q := by
  simp +contextual (maxDischargeDepth := 20) only [State.raiseInstr, ite_keep, foldl_keep, keep_mk, keepOf_self, and_self,
      implies_true, *, State.raiseWith_keep]

theorem State.efirst_keep {g : Course} {code : BitVec 16} {queue : Nat} {pc : Addr} (h : s.Keep Q) : (State.efirst s
    g code queue pc).Keep Q := by
  simp +contextual (maxDischargeDepth := 20) only [State.efirst, ite_keep, foldl_keep, keep_mk, keepOf_self, and_self,
      implies_true, *, State.setReg_keep, State.setReg64_keep]

/-! ### Mem -/

theorem State.modMem_keep {k : Stack} {f : MemState → MemState} (h : s.Keep Q) : (State.modMem s k f).Keep Q := by
  simp +contextual (maxDischargeDepth := 20) only [State.modMem, ite_keep, foldl_keep, keep_mk, keepOf_self, and_self,
      implies_true, *]

theorem State.modFar_keep {l : LinkId} {f : FarState → FarState} (h : s.Keep Q) : (State.modFar s l f).Keep Q := by
  simp +contextual (maxDischargeDepth := 20) only [State.modFar, ite_keep, foldl_keep, keep_mk, keepOf_self, and_self,
      implies_true, *]

theorem State.modCDie_keep {d : CDie} {f : CDieState → CDieState} (h : s.Keep Q) : (State.modCDie s d f).Keep Q :=
    by
  simp +contextual (maxDischargeDepth := 20) only [State.modCDie, ite_keep, foldl_keep, keep_mk, keepOf_self, and_self,
      implies_true, *]

theorem State.modNet_keep {x : IoDie} {f : NetState → NetState} (h : s.Keep Q) : (State.modNet s x f).Keep Q := by
  simp +contextual (maxDischargeDepth := 20) only [State.modNet, ite_keep, foldl_keep, keep_mk, keepOf_self, and_self,
      implies_true, *]

theorem State.raiseMem_keep {k : Stack} {code : BitVec 16} {info : Option DWord} (h : s.Keep Q) : (State.raiseMem s
    k code info).Keep Q := by
  simp +contextual (maxDischargeDepth := 20) only [State.raiseMem, ite_keep, foldl_keep, keep_mk, keepOf_self, and_self,
      implies_true, *, State.raiseWith_keep]

theorem State.raiseFar_keep {l : LinkId} {code : BitVec 16} {info : Option DWord} (h : s.Keep Q) : (State.raiseFar s
    l code info).Keep Q := by
  simp +contextual (maxDischargeDepth := 20) only [State.raiseFar, ite_keep, foldl_keep, keep_mk, keepOf_self, and_self,
      implies_true, *, State.raiseWith_keep]

theorem State.storeP_keep {a : Nat} {bs : List Byte} {poison : Bool} (h : s.Keep Q) : (State.storeP s a bs
    poison).Keep Q := by
  simp +contextual (maxDischargeDepth := 20) only [State.storeP, ite_keep, foldl_keep, keep_mk, keepOf_self, and_self,
      implies_true, *, State.setPoison_keep, State.putBytes_keep, State.store_keep]

theorem State.farReadLine_keep {l : LinkId} {line : Nat} (h : s.Keep Q) : (State.farReadLine s l line).2.2.Keep Q :=
    by
  unfold State.farReadLine
  dsimp only
  (repeat' split) <;> simp +contextual (maxDischargeDepth := 20) only [ite_keep, foldl_keep, keep_mk, keepOf_self, and_self,
      implies_true, *, State.freeBytes_keep, State.count_keep, State.raiseFar_keep]

theorem State.farWriteLine_keep {l : LinkId} {line o : Nat} {bs : List Byte} {poison priv : Bool} (h : s.Keep Q) :
    (State.farWriteLine s l line o bs poison priv).Keep Q := by
  unfold State.farWriteLine
  (repeat' split) <;> simp +contextual (maxDischargeDepth := 20) only [ite_keep, foldl_keep, keep_mk, keepOf_self, and_self,
      implies_true, *, State.count_keep, State.modFar_keep, State.raiseFar_keep]

theorem State.farRead_keep {a : Nat} {x1 : Nat} (h : s.Keep Q) : (State.farRead s a x1).2.2.Keep Q := by
  cases x1 with
  | zero => exact h
  | succ n =>
    simp only [State.farRead]
    generalize List.range _ = l
    have : ∀ (x : List Byte × Bool × State), x.2.2.Keep Q → (l.foldl (fun (acc : List Byte × Bool × State) i =>
        let (bs, p, t) := acc
        let (ls, q, t') := t.farReadLine ⟨(a - farBase) / 0x8000000000 % 8, by omega⟩ (a / 64 + i)
        (bs ++ ls, p || q, t')) x).2.2.Keep Q := by
      induction l with
      | nil => exact fun x hx => hx
      | cons b l ih => exact fun x hx => ih _ (State.farReadLine_keep hx)
    exact this _ h

theorem State.farWrite_keep {a : Nat} {bs : List Byte} {poison priv : Bool} (h : s.Keep Q) : (State.farWrite s a bs
    poison priv).Keep Q := by
  simp +contextual (maxDischargeDepth := 20) only [State.farWrite, ite_keep, foldl_keep, keep_mk, keepOf_self, and_self,
      implies_true, *, State.farWriteLine_keep]

theorem State.readAny_keep {a n : Nat} (h : s.Keep Q) : (State.readAny s a n).2.2.Keep Q := by
  unfold State.readAny
  (repeat' split) <;> simp +contextual (maxDischargeDepth := 20) only [ite_keep, foldl_keep, keep_mk, keepOf_self, and_self,
      implies_true, *, State.farRead_keep]

theorem State.writeAny_keep {a : Nat} {bs : List Byte} {poison priv : Bool} (h : s.Keep Q) : (State.writeAny s a bs
    poison priv).Keep Q := by
  unfold State.writeAny
  (repeat' split) <;> simp +contextual (maxDischargeDepth := 20) only [ite_keep, foldl_keep, keep_mk, keepOf_self, and_self,
      implies_true, *, State.storeP_keep, State.farWrite_keep]

theorem State.send_keep {src dst : Node} {body : MsgBody} (h : s.Keep Q) : (State.send s src dst body).Keep Q := by
  simp +contextual (maxDischargeDepth := 20) only [State.send, ite_keep, foldl_keep, keep_mk, keepOf_self, and_self,
      implies_true, *]

/-! ### Irq -/

theorem State.vector_keep {fn : Fin 5} {v : Nat} (h : s.Keep Q) : (State.vector s fn v).Keep Q := by
  simp +contextual (maxDischargeDepth := 20) only [State.vector, ite_keep, foldl_keep, keep_mk, keepOf_self, and_self,
      implies_true, *, State.emit_keep]

theorem State.irqMap_keep {fn : Fin 5} {mapOff : Nat} (h : s.Keep Q) : (State.irqMap s fn mapOff).Keep Q := by
  simp +contextual (maxDischargeDepth := 20) only [State.irqMap, ite_keep, foldl_keep, keep_mk, keepOf_self, and_self,
      implies_true, *, State.vector_keep]

theorem State.irqPf_keep {src : Nat} (h : s.Keep Q) : (State.irqPf s src).Keep Q := by
  simp +contextual (maxDischargeDepth := 20) only [State.irqPf, ite_keep, foldl_keep, keep_mk, keepOf_self, and_self,
      implies_true, *, State.irqMap_keep]

theorem State.irqCourse_keep {g : Course} {k : Nat} (h : s.Keep Q) : (State.irqCourse s g k).Keep Q := by
  simp +contextual (maxDischargeDepth := 20) only [State.irqCourse, ite_keep, foldl_keep, keep_mk, keepOf_self, and_self,
      implies_true, *, State.irqMap_keep, State.irqPf_keep]

theorem State.irqDie_keep {d : Die} (h : s.Keep Q) : (State.irqDie s d).Keep Q := by
  simp +contextual (maxDischargeDepth := 20) only [State.irqDie, ite_keep, foldl_keep, keep_mk, keepOf_self, and_self,
      implies_true, *, State.irqPf_keep]

theorem State.capture1_keep {infoOff : Nat} {info : Nat} {addrOff : Option Nat} {addr : Nat} (h : s.Keep Q) :
    (State.capture1 s infoOff info addrOff addr).Keep Q := by
  unfold State.capture1
  (repeat' split) <;> simp +contextual (maxDischargeDepth := 20) only [ite_keep, foldl_keep, keep_mk, keepOf_self, and_self,
      implies_true, *, State.setReg_keep, State.setReg64_keep]

theorem State.lockOutcome_keep {k : Stack} {g : Course} {id : Nat} {status : Nat} (h : s.Keep Q) : (State.lockOutcome
    s k g id status).Keep Q := by
  simp +contextual (maxDischargeDepth := 20) only [State.lockOutcome, ite_keep, foldl_keep, keep_mk, keepOf_self,
      and_self, implies_true, *, State.modCourse_keep]

/-! ### Parts that run -/

theorem State.ifCourse_keep {g : Course} {act : State → State} (h : s.Keep Q) (hact : ∀ t : State, t.Keep Q → (act
    t).Keep Q) : (State.ifCourse s g act).Keep Q := by
  simp +contextual (maxDischargeDepth := 20) only [State.ifCourse, ite_keep, foldl_keep, keep_mk, keepOf_self,
      and_self, implies_true, *]

theorem State.ifDie_keep {d : Die} {act : State → State} (h : s.Keep Q) (hact : ∀ t : State, t.Keep Q → (act t).Keep
    Q) : (State.ifDie s d act).Keep Q := by
  simp +contextual (maxDischargeDepth := 20) only [State.ifDie, ite_keep, foldl_keep, keep_mk, keepOf_self, and_self,
      implies_true, *]

/-! ### NearMem -/

theorem State.retireGo_keep {k : Stack} (h : s.Keep Q) : (State.retireGo s k).Keep Q := by
  unfold State.retireGo
  (repeat' split) <;> simp +contextual (maxDischargeDepth := 20) only [ite_keep, foldl_keep, keep_mk, keepOf_self, and_self,
      implies_true, *, State.modMem_keep]

theorem State.retireNext_keep {k : Stack} (h : s.Keep Q) : (State.retireNext s k).Keep Q := by
  unfold State.retireNext
  (repeat' split) <;> simp +contextual (maxDischargeDepth := 20) only [ite_keep, foldl_keep, keep_mk, keepOf_self, and_self,
      implies_true, *, State.modMem_keep, State.retireGo_keep]

theorem State.failed_keep {f : FailRec} (h : s.Keep Q) : (State.failed s f).Keep Q := by
  simp +contextual (maxDischargeDepth := 20) only [State.failed, ite_keep, foldl_keep, keep_mk, keepOf_self, and_self,
      implies_true, *]

theorem State.channelFailing_keep {k : Stack} {c : Fin 32} (h : s.Keep Q) : (State.channelFailing s k c).Keep Q := by
  simp +contextual (maxDischargeDepth := 20) only [State.channelFailing, ite_keep, foldl_keep, keep_mk, keepOf_self,
      and_self, implies_true, *, State.used_keep, State.modMem_keep, State.raiseMem_keep, State.retireNext_keep,
      State.failed_keep]

theorem State.lineCorrected_keep {k : Stack} {line : Nat} {c : Fin 32} (h : s.Keep Q) : (State.lineCorrected s k
    line c).Keep Q := by
  simp +contextual (maxDischargeDepth := 20) only [State.lineCorrected, ite_keep, foldl_keep, keep_mk, keepOf_self,
      and_self, implies_true, *, State.count_keep, State.modMem_keep, State.channelFailing_keep]

theorem State.lineUncorrectable_keep {k : Stack} {line : Nat} {patrol : Bool} (h : s.Keep Q) :
    (State.lineUncorrectable s k line patrol).Keep Q := by
  simp +contextual (maxDischargeDepth := 20) only [State.lineUncorrectable, ite_keep, foldl_keep, keep_mk, keepOf_self,
      and_self, implies_true, *, State.setPoison_keep, State.count_keep, State.raiseMem_keep, State.capture1_keep]

theorem State.lineFound_keep {k : Stack} {line : Nat} {e : LineErr} {patrol : Bool} (h : s.Keep Q) :
    (State.lineFound s k line e patrol).Keep Q := by
  unfold State.lineFound
  (repeat' split) <;> simp +contextual (maxDischargeDepth := 20) only [ite_keep, foldl_keep, keep_mk, keepOf_self, and_self,
      implies_true, *, State.lineCorrected_keep, State.lineUncorrectable_keep]

theorem State.memAccess_keep {k : Stack} {line : Nat} {data : Option (Nat × List Byte × Bool)} {e : LineErr} {parity
    : Option (Fin 32)} (h : s.Keep Q) : (State.memAccess s k line data e parity).Keep Q := by
  unfold State.memAccess
  (repeat' split) <;> simp +contextual (maxDischargeDepth := 20) only [ite_keep, foldl_keep, keep_mk, keepOf_self, and_self,
      implies_true, *, State.storeP_keep, State.channelFailing_keep, State.lineFound_keep]

theorem State.patrolVisit_keep {k : Stack} {line : Nat} {e : LineErr} {sweep : Bool} (h : s.Keep Q) :
    (State.patrolVisit s k line e sweep).Keep Q := by
  simp +contextual (maxDischargeDepth := 20) only [State.patrolVisit, ite_keep, foldl_keep, keep_mk, keepOf_self, and_self,
      implies_true, *, State.modMem_keep, State.lineFound_keep]

theorem State.wrRetireCtrl_keep {k : Stack} {v : Word} (h : s.Keep Q) : (State.wrRetireCtrl s k v).Keep Q := by
  simp +contextual (maxDischargeDepth := 20) only [State.wrRetireCtrl, ite_keep, foldl_keep, keep_mk, keepOf_self, and_self,
      implies_true, *, State.setReg_keep, State.retireGo_keep]

theorem State.migrationDone_keep {k : Stack} (h : s.Keep Q) : (State.migrationDone s k).Keep Q := by
  unfold State.migrationDone
  (repeat' split) <;> simp +contextual (maxDischargeDepth := 20) only [ite_keep, foldl_keep, keep_mk, keepOf_self, and_self,
      implies_true, *, State.orReg_keep, State.modMem_keep, State.raiseMem_keep, State.retireNext_keep]

theorem State.lockGrant_keep {k : Stack} {r : LockReq} (h : s.Keep Q) : (State.lockGrant s k r).Keep Q := by
  simp +contextual (maxDischargeDepth := 20) only [State.lockGrant, ite_keep, foldl_keep, keep_mk, keepOf_self,
      and_self, implies_true, *, State.count_keep, State.modMem_keep, State.lockOutcome_keep]

theorem State.lockArrive_keep {k : Stack} {r : LockReq} (h : s.Keep Q) : (State.lockArrive s k r).Keep Q := by
  unfold State.lockArrive
  (repeat' split) <;> simp +contextual (maxDischargeDepth := 20) only [ite_keep, foldl_keep, keep_mk, keepOf_self,
      and_self, implies_true, *, State.modMem_keep, State.lockOutcome_keep, State.lockGrant_keep]

theorem State.lockGrantNext_keep {k : Stack} (h : s.Keep Q) : (State.lockGrantNext s k).Keep Q := by
  unfold State.lockGrantNext
  (repeat' split) <;> simp +contextual (maxDischargeDepth := 20) only [ite_keep, foldl_keep, keep_mk, keepOf_self, and_self,
      implies_true, *, State.modMem_keep, State.lockGrant_keep]

theorem State.lockTimeout_keep {k : Stack} {g : Course} (h : s.Keep Q) : (State.lockTimeout s k g).Keep Q := by
  unfold State.lockTimeout
  (repeat' split) <;> simp +contextual (maxDischargeDepth := 20) only [ite_keep, foldl_keep, keep_mk, keepOf_self,
      and_self, implies_true, *, State.modMem_keep, State.lockOutcome_keep, State.lockGrant_keep]

theorem State.breakEntry_keep {k : Stack} {cause : TornCause} {i : Nat} (h : s.Keep Q) : (State.breakEntry s k cause
    i).Keep Q := by
  unfold State.breakEntry
  (repeat' split) <;> simp +contextual (maxDischargeDepth := 20) only [ite_keep, foldl_keep, keep_mk, keepOf_self,
      and_self, implies_true, *, foldl_keep, State.count_keep, State.modMem_keep, State.raiseMem_keep,
      State.lockOutcome_keep]

theorem State.breakHolds_keep {k : Stack} {g : Course} {cause : TornCause} (h : s.Keep Q) : (State.breakHolds s k g
    cause).Keep Q := by
  simp +contextual (maxDischargeDepth := 20) only [State.breakHolds, ite_keep, foldl_keep, keep_mk, keepOf_self, and_self,
      implies_true, *, State.breakEntry_keep]

theorem State.lockRelease_keep {k : Stack} {base : Nat} {g : Course} {epoch : BitVec 16} {quiet : Bool} (h : s.Keep
    Q) : (State.lockRelease s k base g epoch quiet).Keep Q := by
  unfold State.lockRelease
  (repeat' split) <;> simp +contextual (maxDischargeDepth := 20) only [ite_keep, foldl_keep, keep_mk, keepOf_self, and_self,
      implies_true, *, State.modMem_keep, State.raiseMem_keep]

theorem State.lockWithdrawn_keep {k : Stack} {base : Nat} {g : Course} {epoch : BitVec 16} {id : Nat} (h : s.Keep Q) :
    (State.lockWithdrawn s k base g epoch id).Keep Q := by
  simp +contextual (maxDischargeDepth := 20) only [State.lockWithdrawn, ite_keep, foldl_keep, keep_mk, keepOf_self,
      and_self, implies_true, *, State.modMem_keep, State.lockRelease_keep]

theorem State.wrTornClear_keep {k : Stack} {v : Word} (h : s.Keep Q) : (State.wrTornClear s k v).Keep Q := by
  unfold State.wrTornClear
  dsimp only
  (repeat' split) <;> simp +contextual (maxDischargeDepth := 20) only [ite_keep, foldl_keep, keep_mk, keepOf_self, and_self,
      implies_true, *, State.modMem_keep]

theorem State.arrive_keep {dst : Node} {acc : MsgBody → Bool} {f : State → Msg → State} (h : s.Keep Q)
    (hf : ∀ (t : State) m, t.Keep Q → (f t m).Keep Q) : (State.arrive s dst acc f).Keep Q := by
  unfold State.arrive
  split
  · exact hf _ _ (keep_mk.mpr (keepOf_self.mpr h))
  · exact h
theorem State.toStacks_keep {g : Course} {b : MsgBody} (h : s.Keep Q) : (State.toStacks s g b).Keep Q := by
  simp +contextual (maxDischargeDepth := 20) only [State.toStacks, ite_keep, foldl_keep, keep_mk, keepOf_self, and_self,
      implies_true, *, State.send_keep]

theorem State.renewals_keep {g : Course} (h : s.Keep Q) : (State.renewals s g).Keep Q := by
  unfold State.renewals
  (repeat' split) <;> simp +contextual (maxDischargeDepth := 20) only [ite_keep, foldl_keep, keep_mk, keepOf_self, and_self,
      implies_true, *, State.send_keep]

theorem memAccess_keep {k : Stack} {line : Fin 1073741824} {data : Option (Fin 64 × List Byte × Bool)} {e : LineErr}
    {parity : Option (Fin 32)} (h : s.Keep Q) : (memAccess k line data e parity s).Keep Q := by
  simp +contextual (maxDischargeDepth := 20) only [memAccess, ite_keep, foldl_keep, keep_mk, keepOf_self, and_self,
      implies_true, *, State.memAccess_keep]

theorem lockRequestArrive_keep {k : Stack} (h : s.Keep Q) : (lockRequestArrive k s).Keep Q := by
  unfold lockRequestArrive
  refine State.arrive_keep h ?_
  intro t m ht
  (try dsimp only)
  (repeat' split) <;> simp +contextual (maxDischargeDepth := 20) only [ite_keep, foldl_keep, keep_mk, keepOf_self, and_self,
      implies_true, *, State.lockArrive_keep, State.arrive_keep]

theorem lockRelArrive_keep {k : Stack} (h : s.Keep Q) : (lockRelArrive k s).Keep Q := by
  unfold lockRelArrive
  refine State.arrive_keep h ?_
  intro t m ht
  (try dsimp only)
  (repeat' split) <;> simp +contextual (maxDischargeDepth := 20) only [ite_keep, foldl_keep, keep_mk, keepOf_self, and_self,
      implies_true, *, State.lockRelease_keep, State.lockWithdrawn_keep]

theorem lockRenewalArrive_keep {k : Stack} (h : s.Keep Q) : (lockRenewalArrive k s).Keep Q := by
  simp +contextual (maxDischargeDepth := 20) only [lockRenewalArrive, ite_keep, foldl_keep, keep_mk, keepOf_self, and_self,
      implies_true, *, State.arrive_keep]

theorem lockBreakNotice_keep {k : Stack} (h : s.Keep Q) : (lockBreakNotice k s).Keep Q := by
  unfold lockBreakNotice
  refine State.arrive_keep h ?_
  intro t m ht
  (try dsimp only)
  (repeat' split) <;> simp +contextual (maxDischargeDepth := 20) only [ite_keep, foldl_keep, keep_mk, keepOf_self, and_self,
      implies_true, *, State.breakHolds_keep, State.arrive_keep]

theorem lockResetSweep_keep {k : Stack} (h : s.Keep Q) : (lockResetSweep k s).Keep Q := by
  unfold lockResetSweep
  refine State.arrive_keep h ?_
  intro t m ht
  (try dsimp only)
  (repeat' split) <;> simp +contextual (maxDischargeDepth := 20) only [ite_keep, foldl_keep, keep_mk, keepOf_self, and_self,
      implies_true, *, State.breakHolds_keep, State.arrive_keep]

theorem lockLeaseExpiry_keep {k : Stack} {i : Fin 1024} {lease : Nat} (h : s.Keep Q) : (lockLeaseExpiry k i lease
    s).Keep Q := by
  simp +contextual (maxDischargeDepth := 20) only [lockLeaseExpiry, ite_keep, foldl_keep, keep_mk, keepOf_self, and_self,
      implies_true, *, State.breakEntry_keep]

theorem execMemAccess_keep {k : Stack} {line : Fin 1073741824} {data : Option (Fin 64 × List Byte × Bool)} {e :
    LineErr} {parity : Option (Fin 32)} (h : s.Keep Q) : OutKeep Q (execMemAccess k line data e parity s) := by
  simp +contextual (maxDischargeDepth := 20) only [execMemAccess, ite_keep, foldl_keep, keep_mk, keepOf_self, and_self,
      implies_true, *, outKeep_next, outKeep_ite, State.memAccess_keep, memAccess_keep]

theorem execPatrolVisit_keep {k : Stack} {line : Fin 1073741824} {e : LineErr} {sweep : Bool} (h : s.Keep Q) :
    OutKeep Q (execPatrolVisit k line e sweep s) := by
  simp +contextual (maxDischargeDepth := 20) only [execPatrolVisit, ite_keep, foldl_keep, keep_mk, keepOf_self, and_self,
      implies_true, *, outKeep_next, outKeep_ite, State.patrolVisit_keep,
      State.ifDie_keep]

theorem execRetireMigrationDone_keep {k : Stack} (h : s.Keep Q) : OutKeep Q (execRetireMigrationDone k s) := by
  simp +contextual (maxDischargeDepth := 20) only [execRetireMigrationDone, ite_keep, foldl_keep, keep_mk, keepOf_self,
      and_self, implies_true, *, outKeep_next, outKeep_ite, State.migrationDone_keep,
      State.ifDie_keep]

theorem execLockRequestArrive_keep {k : Stack} (h : s.Keep Q) : OutKeep Q (execLockRequestArrive k s) := by
  simp +contextual (maxDischargeDepth := 20) only [execLockRequestArrive, ite_keep, foldl_keep, keep_mk, keepOf_self,
      and_self, implies_true, *, outKeep_next, outKeep_ite, lockRequestArrive_keep]

theorem execLockGrant_keep {k : Stack} (h : s.Keep Q) : OutKeep Q (execLockGrant k s) := by
  simp +contextual (maxDischargeDepth := 20) only [execLockGrant, ite_keep, foldl_keep, keep_mk, keepOf_self, and_self,
      implies_true, *, outKeep_next, outKeep_ite, State.lockGrantNext_keep,
      State.ifDie_keep]

theorem execLockWaitTimeout_keep {k : Stack} {g : Course} (h : s.Keep Q) : OutKeep Q (execLockWaitTimeout k g s) :=
    by
  simp +contextual (maxDischargeDepth := 20) only [execLockWaitTimeout, ite_keep, foldl_keep, keep_mk, keepOf_self,
      and_self, implies_true, *, outKeep_next, outKeep_ite, State.lockTimeout_keep,
      State.ifDie_keep]

theorem execLockLeaseExpiry_keep {k : Stack} {i : Fin 1024} {lease : Nat} (h : s.Keep Q) : OutKeep Q
    (execLockLeaseExpiry k i lease s) := by
  simp +contextual (maxDischargeDepth := 20) only [execLockLeaseExpiry, ite_keep, foldl_keep, keep_mk, keepOf_self,
      and_self, implies_true, *, outKeep_next, outKeep_ite, lockLeaseExpiry_keep,
      State.ifDie_keep]

theorem execLockRelArrive_keep {k : Stack} (h : s.Keep Q) : OutKeep Q (execLockRelArrive k s) := by
  simp +contextual (maxDischargeDepth := 20) only [execLockRelArrive, ite_keep, foldl_keep, keep_mk, keepOf_self, and_self,
      implies_true, *, outKeep_next, outKeep_ite, lockRelArrive_keep]

theorem execLockRenewalSend_keep {g : Course} (h : s.Keep Q) : OutKeep Q (execLockRenewalSend g s) := by
  simp +contextual (maxDischargeDepth := 20) only [execLockRenewalSend, ite_keep, foldl_keep, keep_mk, keepOf_self,
      and_self, implies_true, *, outKeep_next, outKeep_ite, State.renewals_keep,
      State.ifCourse_keep]

theorem execLockRenewalArrive_keep {k : Stack} (h : s.Keep Q) : OutKeep Q (execLockRenewalArrive k s) := by
  simp +contextual (maxDischargeDepth := 20) only [execLockRenewalArrive, ite_keep, foldl_keep, keep_mk, keepOf_self,
      and_self, implies_true, *, outKeep_next, outKeep_ite, lockRenewalArrive_keep]

theorem execLockBreakNotice_keep {k : Stack} (h : s.Keep Q) : OutKeep Q (execLockBreakNotice k s) := by
  simp +contextual (maxDischargeDepth := 20) only [execLockBreakNotice, ite_keep, foldl_keep, keep_mk, keepOf_self,
      and_self, implies_true, *, outKeep_next, outKeep_ite, lockBreakNotice_keep]

theorem execLockResetSweep_keep {k : Stack} (h : s.Keep Q) : OutKeep Q (execLockResetSweep k s) := by
  simp +contextual (maxDischargeDepth := 20) only [execLockResetSweep, ite_keep, foldl_keep, keep_mk, keepOf_self, and_self,
      implies_true, *, outKeep_next, outKeep_ite, lockResetSweep_keep]

/-! ### Arbiter -/

theorem State.recordWait_keep {off phases : Nat} (h : s.Keep Q) : (State.recordWait s off phases).Keep Q := by
  simp +contextual (maxDischargeDepth := 20) only [State.recordWait, ite_keep, foldl_keep, keep_mk, keepOf_self, and_self,
      implies_true, *, State.setReg_keep, State.used_keep]

theorem State.recordGrant_keep {base ctrl o r phases : Nat} (h : s.Keep Q) : (State.recordGrant s base ctrl o r
    phases).Keep Q := by
  simp +contextual (maxDischargeDepth := 20) only [State.recordGrant, ite_keep, foldl_keep, keep_mk, keepOf_self, and_self,
      implies_true, *, State.count_keep, State.recordWait_keep]

theorem State.countWaits_keep {base ctrl o : Nat} {firsts : List Nat} (h : s.Keep Q) : (State.countWaits s base ctrl
    o firsts).Keep Q := by
  simp +contextual (maxDischargeDepth := 20) only [State.countWaits, ite_keep, foldl_keep, keep_mk, keepOf_self, and_self,
      implies_true, *, State.count32_keep]

/-! ### Window -/

theorem State.checkWindow_keep {g : Course} (h : s.Keep Q) : (State.checkWindow s g).Keep Q := by
  simp +contextual (maxDischargeDepth := 20) only [State.checkWindow, ite_keep, foldl_keep, keep_mk, keepOf_self, and_self,
      implies_true, *, State.setCourse_keep, State.raiseCourse_keep]

end Sys2Proof.Machine
end

