-- ==== Sys2Proof/Laws/KeepQueue.lean ====
section
/-! SUPPORT. KeepQueue: what the operations of Machine/Queue, Power, Report, Iscon, Rng, Sync, Engine keep (see Keep). -/

set_option linter.unusedSimpArgs false
set_option linter.unusedTactic false
set_option linter.unreachableTactic false
set_option linter.unnecessarySeqFocus false
set_option linter.unusedVariables false

namespace Sys2Proof.Machine

variable {Q : Kept} {s t : State}

/-! ### Queue -/

theorem State.enterFaulted_keep {g : Course} (h : s.Keep Q) : (State.enterFaulted s g).Keep Q := by
  simp +contextual (maxDischargeDepth := 20) only [State.enterFaulted, ite_keep, foldl_keep, keep_mk, keepOf_self, and_self,
      implies_true, *, State.modCourse_keep, State.irqCourse_keep, State.toStacks_keep]

theorem State.takeException_keep {g : Course} {code : BitVec 16} {sub : BitVec 4} {einfo : DWord} (h : s.Keep Q) :
    (State.takeException s g code sub einfo).Keep Q := by
  simp +contextual (maxDischargeDepth := 20) only [State.takeException, ite_keep, foldl_keep, keep_mk, keepOf_self,
      and_self, implies_true, *, State.setReg_keep, State.setReg64_keep, State.modCourse_keep, State.raiseInstr_keep,
      State.enterFaulted_keep]

theorem State.precise_keep {g : Course} {code : BitVec 16} {sub : BitVec 4} {einfo : Option DWord} (h : s.Keep Q) :
    (State.precise s g code sub einfo).Keep Q := by
  unfold State.precise
  (repeat' split) <;> simp +contextual (maxDischargeDepth := 20) only [ite_keep, foldl_keep, keep_mk, keepOf_self, and_self,
      implies_true, *, State.used_keep, State.takeException_keep]

theorem State.instrFault_keep {g : Course} {q : QueueId} {serial : Nat} {code : BitVec 16} {unit : Byte} {sub :
    BitVec 4} {info : Option DWord} (h : s.Keep Q) : (State.instrFault s g q serial code unit sub info).Keep Q := by
  unfold State.instrFault
  (repeat' split) <;> simp +contextual (maxDischargeDepth := 20) only [ite_keep, foldl_keep, keep_mk, keepOf_self, and_self,
      implies_true, *, State.modCourse_keep, State.raiseInstr_keep, State.efirst_keep]

theorem State.instrPoison_keep {g : Course} {q : QueueId} {serial : Nat} {code : BitVec 16} (h : s.Keep Q) :
    (State.instrPoison s g q serial code).Keep Q := by
  simp +contextual (maxDischargeDepth := 20) only [State.instrPoison, ite_keep, foldl_keep, keep_mk, keepOf_self, and_self,
      implies_true, *, State.modCourse_keep]

theorem State.instrDone_keep {g : Course} {q : QueueId} {serial : Nat} (h : s.Keep Q) : (State.instrDone s g q
    serial).Keep Q := by
  simp +contextual (maxDischargeDepth := 20) only [State.instrDone, ite_keep, foldl_keep, keep_mk, keepOf_self, and_self,
      implies_true, *, State.modCourse_keep]

theorem State.qwaitExpire_keep {g : Course} {q : QueueId} {e : QEntry} {t : Fin 256} {x : Word} {rest : List QEntry}
    (h : s.Keep Q) : (State.qwaitExpire s g q e t x rest).Keep Q := by
  simp +contextual (maxDischargeDepth := 20) only [State.qwaitExpire, ite_keep, foldl_keep, keep_mk, keepOf_self, and_self,
      implies_true, *, State.modCourse_keep, State.raiseInstr_keep, State.efirst_keep]

theorem State.settleQueue_keep {g : Course} {q : QueueId} {x1 : Nat} (h : s.Keep Q) : (State.settleQueue s g q
    x1).Keep Q := by
  induction x1 generalizing s with
  | zero => exact h
  | succ n ih =>
    unfold State.settleQueue
    dsimp only
    (repeat' split) <;> simp +contextual (maxDischargeDepth := 20) only [*, State.modCourse_keep, State.qwaitExpire_keep]

theorem State.noteHead_keep {g : Course} (h : s.Keep Q) : (State.noteHead s g).Keep Q := by
  unfold State.noteHead
  try dsimp only
  (repeat' split) <;> simp +contextual (maxDischargeDepth := 20) only [ite_keep, foldl_keep, keep_mk, keepOf_self,
      and_self, implies_true, *, State.modCourse_keep, State.tick_keep]

theorem State.settle_keep {g : Course} (h : s.Keep Q) : (State.settle s g).Keep Q := by
  simp +contextual (maxDischargeDepth := 20) only [State.settle, ite_keep, foldl_keep, keep_mk,
      keepOf_self, and_self, implies_true, *, State.modCourse_keep, State.settleQueue_keep, State.noteHead_keep]

theorem State.giveBack_keep {g : Course} {req n : Nat} {src : CreditSrc} (h : s.Keep Q) : (State.giveBack s g req n
    src).Keep Q := by
  unfold State.giveBack
  (repeat' split) <;> simp +contextual (maxDischargeDepth := 20) only [ite_keep, foldl_keep, keep_mk, keepOf_self, and_self,
      implies_true, *, State.modCourse_keep, State.modCDie_keep]

theorem State.releaseHold_keep {g : Course} (h : s.Keep Q) : (State.releaseHold s g).Keep Q := by
  unfold State.releaseHold
  (repeat' split) <;> simp +contextual (maxDischargeDepth := 20) only [ite_keep, foldl_keep, keep_mk, keepOf_self, and_self,
      implies_true, *, State.modCourse_keep, State.giveBack_keep]

theorem State.ungrant_keep {g : Course} {q : QueueId} (h : s.Keep Q) : (State.ungrant s g q).Keep Q := by
  unfold State.ungrant
  (repeat' split) <;> simp +contextual (maxDischargeDepth := 20) only [ite_keep, foldl_keep, keep_mk, keepOf_self, and_self,
      implies_true, *, State.modCourse_keep, State.giveBack_keep]

theorem State.powerNeed_keep {g : Course} {q : QueueId} {pc : Addr} (h : s.Keep Q) : (State.powerNeed s g q pc).Keep
    Q := by
  simp +contextual (maxDischargeDepth := 20) only [State.powerNeed, ite_keep, foldl_keep, keep_mk, keepOf_self, and_self,
      implies_true, *, State.modCourse_keep, State.raiseInstr_keep, State.efirst_keep]

theorem State.present_keep {g : Course} {q : QueueId} {need : Nat} {pc : Addr} (h : s.Keep Q) : (State.present s g q
    need pc).Keep Q := by
  unfold State.present
  (repeat' split) <;> simp +contextual (maxDischargeDepth := 20) only [ite_keep, foldl_keep, keep_mk, keepOf_self, and_self,
      implies_true, *, State.modCourse_keep, State.tick_keep, State.powerNeed_keep]

theorem State.obtainLeave_keep {g : Course} {q : QueueId} {need : Nat} {pc : Addr} (h : s.Keep Q) :
    (State.obtainLeave s g q need pc).1.Keep Q := by
  unfold State.obtainLeave
  (repeat' split) <;> simp +contextual (maxDischargeDepth := 20) only [ite_keep, foldl_keep, keep_mk, keepOf_self, and_self,
      implies_true, *, optKeep_some, optKeep_none, optKeep_ite, State.modCourse_keep, State.present_keep]

theorem instrComplete_keep {g : Course} {q : QueueId} (h : s.Keep Q) : (instrComplete g q s).Keep Q := by
  unfold instrComplete
  (repeat' split) <;> simp +contextual (maxDischargeDepth := 20) only [ite_keep, foldl_keep, keep_mk, keepOf_self, and_self,
      implies_true, *, State.modCourse_keep, State.checkWindow_keep, State.settle_keep, State.giveBack_keep]

theorem State.finishTest_keep {g : Course} {x : SelfTest} (h : s.Keep Q) : (State.finishTest s g x).Keep Q := by
  simp +contextual (maxDischargeDepth := 20) only [State.finishTest, ite_keep, foldl_keep, keep_mk, keepOf_self, and_self,
      implies_true, *, State.modCourse_keep, State.settle_keep]

theorem State.finishTests_keep {g : Course} (h : s.Keep Q) : (State.finishTests s g).Keep Q := by
  simp +contextual (maxDischargeDepth := 20) only [State.finishTests, ite_keep, foldl_keep, keep_mk, keepOf_self, and_self,
      implies_true, *, State.finishTest_keep]

theorem completionRecordWrite_keep {g : Course} (h : s.Keep Q) : (completionRecordWrite g s).Keep Q := by
  unfold completionRecordWrite
  dsimp only
  (repeat' split) <;> simp +contextual (maxDischargeDepth := 20) only [ite_keep, foldl_keep, keep_mk, keepOf_self, and_self,
      implies_true, *, State.setReg_keep, State.modCourse_keep, State.store_keep, State.irqCourse_keep,
      State.finishTests_keep]

theorem State.wrCqCtrl_keep {g : Course} {v : Word} (h : s.Keep Q) : (State.wrCqCtrl s g v).Keep Q := by
  simp +contextual (maxDischargeDepth := 20) only [State.wrCqCtrl, ite_keep, foldl_keep, keep_mk, keepOf_self, and_self,
      implies_true, *, State.setReg_keep]

theorem waitExpiry_keep {g : Course} (h : s.Keep Q) : (waitExpiry g s).Keep Q := by
  unfold waitExpiry
  dsimp only
  (repeat' split) <;> simp +contextual (maxDischargeDepth := 20) only [ite_keep, foldl_keep, keep_mk, keepOf_self, and_self,
      implies_true, *, State.modCourse_keep, State.precise_keep, State.settle_keep]

theorem queueWaitExpiry_keep {g : Course} {q : QueueId} (h : s.Keep Q) : (queueWaitExpiry g q s).Keep Q := by
  unfold queueWaitExpiry
  dsimp only
  (repeat' split) <;> simp +contextual (maxDischargeDepth := 20) only [ite_keep, foldl_keep, keep_mk, keepOf_self, and_self,
      implies_true, *, State.qwaitExpire_keep, State.settle_keep]

theorem State.startTicks_keep {off : Nat} (h : s.Keep Q) : (State.startTicks s off).Keep Q := by
  simp +contextual (maxDischargeDepth := 20) only [State.startTicks, ite_keep, foldl_keep, keep_mk, keepOf_self,
      and_self, implies_true, *]

theorem State.enqueue_keep {g : Course} {q : QueueId} {e : QEntry} (h : s.Keep Q) : (State.enqueue s g q e).Keep Q :=
    by
  simp +contextual (maxDischargeDepth := 20) only [State.enqueue, ite_keep, foldl_keep, keep_mk,
      keepOf_self, and_self, implies_true, *, State.modCourse_keep, State.settle_keep, State.startTicks_keep]

theorem queueAppend_keep {g : Course} (h : s.Keep Q) : (queueAppend g s).Keep Q := by
  unfold queueAppend
  (repeat' split) <;> simp +contextual (maxDischargeDepth := 20) only [ite_keep, foldl_keep, keep_mk, keepOf_self, and_self,
      implies_true, *, State.modCourse_keep, State.enqueue_keep]

theorem State.flushQueue_keep {g : Course} {q : QueueId} (h : s.Keep Q) : (State.flushQueue s g q).Keep Q := by
  simp +contextual (maxDischargeDepth := 20) only [State.flushQueue, ite_keep, foldl_keep, keep_mk, keepOf_self, and_self,
      implies_true, *, State.modCourse_keep, State.ungrant_keep]

theorem State.resumeQueue_keep {g : Course} {q : QueueId} (h : s.Keep Q) : (State.resumeQueue s g q).Keep Q := by
  simp +contextual (maxDischargeDepth := 20) only [State.resumeQueue, ite_keep, foldl_keep, keep_mk, keepOf_self, and_self,
      implies_true, *, State.modCourse_keep, State.settleQueue_keep]

theorem State.wrQctrl_keep {g : Course} {resume flush : BitVec 8} (h : s.Keep Q) : (State.wrQctrl s g resume
    flush).Keep Q := by
  simp +contextual (maxDischargeDepth := 20) only [State.wrQctrl, ite_keep, foldl_keep, keep_mk, keepOf_self, and_self,
      implies_true, *, State.settle_keep, State.flushQueue_keep, State.resumeQueue_keep]

theorem State.ctlStart_keep {g : Course} (h : s.Keep Q) : (State.ctlStart s g).Keep Q := by
  simp +contextual (maxDischargeDepth := 20) only [State.ctlStart, ite_keep, foldl_keep, keep_mk, keepOf_self, and_self,
      implies_true, *, State.setCourse_keep]

theorem State.ctlStop_keep {g : Course} (h : s.Keep Q) : (State.ctlStop s g).Keep Q := by
  unfold State.ctlStop
  dsimp only
  (repeat' split) <;> simp +contextual (maxDischargeDepth := 20) only [ite_keep, foldl_keep, keep_mk, keepOf_self, and_self,
      implies_true, *, State.setCourse_keep, State.send_keep]

theorem State.ibufInv_keep {g : Course} (h : s.Keep Q) : (State.ibufInv s g).Keep Q := by
  simp +contextual (maxDischargeDepth := 20) only [State.ibufInv, ite_keep, foldl_keep, keep_mk, keepOf_self, and_self,
      implies_true, *, State.modCourse_keep]

theorem execQueueAppend_keep {g : Course} (h : s.Keep Q) : OutKeep Q (execQueueAppend g s) := by
  simp +contextual (maxDischargeDepth := 20) only [execQueueAppend, ite_keep, foldl_keep, keep_mk,
      keepOf_self, and_self, implies_true, *, outKeep_next, outKeep_ite, queueAppend_keep, State.ifCourse_keep]

theorem execInstrComplete_keep {g : Course} {q : QueueId} (h : s.Keep Q) : OutKeep Q (execInstrComplete g q s) := by
  simp +contextual (maxDischargeDepth := 20) only [execInstrComplete, ite_keep, foldl_keep,
      keep_mk, keepOf_self, and_self, implies_true, *, outKeep_next, outKeep_ite, instrComplete_keep,
      State.ifCourse_keep]

theorem execCompletionRecordWrite_keep {g : Course} (h : s.Keep Q) : OutKeep Q (execCompletionRecordWrite g s) := by
  simp +contextual (maxDischargeDepth := 20) only [execCompletionRecordWrite, ite_keep, foldl_keep,
      keep_mk, keepOf_self, and_self, implies_true, *, outKeep_next, outKeep_ite, completionRecordWrite_keep,
      State.ifCourse_keep]

theorem execWaitExpiry_keep {g : Course} (h : s.Keep Q) : OutKeep Q (execWaitExpiry g s) := by
  simp +contextual (maxDischargeDepth := 20) only [execWaitExpiry, ite_keep, foldl_keep, keep_mk,
      keepOf_self, and_self, implies_true, *, outKeep_next, outKeep_ite, waitExpiry_keep, State.ifCourse_keep]

theorem execQueueWaitExpiry_keep {g : Course} {q : QueueId} (h : s.Keep Q) : OutKeep Q (execQueueWaitExpiry g q s) :=
    by
  simp +contextual (maxDischargeDepth := 20) only [execQueueWaitExpiry, ite_keep, foldl_keep,
      keep_mk, keepOf_self, and_self, implies_true, *, outKeep_next, outKeep_ite, queueWaitExpiry_keep,
      State.ifCourse_keep]

/-! ### Power -/

theorem State.raisePower_keep {d : Die} {code : BitVec 16} {info : Option DWord} (h : s.Keep Q) : (State.raisePower
    s d code info).Keep Q := by
  simp +contextual (maxDischargeDepth := 20) only [State.raisePower, ite_keep, foldl_keep, keep_mk, keepOf_self, and_self,
      implies_true, *, State.raiseWith_keep]

theorem State.wrBudget_keep {o : Nat} {v : Word} (h : s.Keep Q) : (State.wrBudget s o v).Keep Q := by
  simp +contextual (maxDischargeDepth := 20) only [State.wrBudget, ite_keep, foldl_keep, keep_mk, keepOf_self, and_self,
      implies_true, *, State.setReg_keep, State.orReg_keep]

theorem State.grant_keep {d : CDie} {r : Nat} {q : Req} (h : s.Keep Q) : (State.grant s d r q).Keep Q := by
  unfold State.grant
  (repeat' split) <;> simp +contextual (maxDischargeDepth := 20) only [ite_keep, foldl_keep, keep_mk, keepOf_self, and_self,
      implies_true, *, State.modCourse_keep, State.modCDie_keep, State.recordGrant_keep]

theorem State.waitPhase_keep {q : Req} (h : s.Keep Q) : (State.waitPhase s q).Keep Q := by
  unfold State.waitPhase
  (repeat' split) <;> simp +contextual (maxDischargeDepth := 20) only [ite_keep, foldl_keep, keep_mk, keepOf_self, and_self,
      implies_true, *, State.modCourse_keep, State.modCDie_keep]

theorem State.grantLeave_keep {d : CDie} {x1 : Nat} {x2 : Nat} {x3 : List Nat} (h : s.Keep Q) : (State.grantLeave s
    d x1 x2 x3).Keep Q := by
  induction x3 generalizing s x1 x2 with
  | nil => exact h
  | cons r rs ih =>
    unfold State.grantLeave
    (repeat' split) <;> simp +contextual (maxDischargeDepth := 20) only [*, State.grant_keep]

theorem State.leftOver_keep {d : CDie} {left : List (Nat × Req)} (h : s.Keep Q) : (State.leftOver s d left).Keep Q :=
    by
  simp +contextual (maxDischargeDepth := 20) only [State.leftOver, ite_keep, foldl_keep, keep_mk, keepOf_self,
      and_self, implies_true, *, foldl_keep, State.countWaits_keep, State.waitPhase_keep]

theorem State.phaseStands_keep {d : CDie} (h : s.Keep Q) : (State.phaseStands s d).Keep Q := by
  simp +contextual (maxDischargeDepth := 20) only [State.phaseStands, ite_keep, foldl_keep, keep_mk, keepOf_self,
      and_self, implies_true, *, State.orReg_keep, State.modCDie_keep, State.raisePower_keep, State.grantLeave_keep,
      State.leftOver_keep]

theorem arbitrationPhase_keep {d : CDie} {upset : Option (Fin 3)} (h : s.Keep Q) : (arbitrationPhase d upset s).Keep Q
    := by
  simp +contextual (maxDischargeDepth := 20) only [arbitrationPhase, ite_keep, foldl_keep, keep_mk,
      keepOf_self, and_self, implies_true, *, State.orReg_keep, State.modCDie_keep, State.countWaits_keep,
      State.present_keep, State.raisePower_keep, State.waitPhase_keep, State.grantLeave_keep, State.failed_keep,
      State.failed_keep, State.leftOver_keep, State.phaseStands_keep]

theorem State.coolAt_keep {d : Die} (h : s.Keep Q) : (State.coolAt s d).Keep Q := by
  simp +contextual (maxDischargeDepth := 20) only [State.coolAt, ite_keep, foldl_keep, keep_mk, keepOf_self, and_self,
      implies_true, *, State.modDie_keep]

theorem State.critCheck_keep {d : Die} (h : s.Keep Q) : (State.critCheck s d).Keep Q := by
  simp +contextual (maxDischargeDepth := 20) only [State.critCheck, ite_keep, foldl_keep, keep_mk, keepOf_self,
      and_self, implies_true, *, State.modDie_keep, State.orReg_keep, State.raisePower_keep]

theorem thermalReading_keep {d : Die} {sensor : Fin 16} {celsius : Int} (h : s.Keep Q) : (thermalReading d sensor
    celsius s).Keep Q := by
  simp +contextual (maxDischargeDepth := 20) only [thermalReading, ite_keep, foldl_keep, keep_mk,
      keepOf_self, and_self, implies_true, *, State.modDie_keep, State.orReg_keep, State.raisePower_keep,
      State.coolAt_keep, State.critCheck_keep]

theorem State.wrTherm_keep {d : Die} {v : Word} (h : s.Keep Q) : (State.wrTherm s d v).Keep Q := by
  simp +contextual (maxDischargeDepth := 20) only [State.wrTherm, ite_keep, foldl_keep, keep_mk,
      keepOf_self, and_self, implies_true, *, State.setReg_keep, State.coolAt_keep, State.critCheck_keep]

theorem pkgCapChange_keep {low : Bool} (h : s.Keep Q) : (pkgCapChange low s).Keep Q := by
  simp +contextual (maxDischargeDepth := 20) only [pkgCapChange, ite_keep, foldl_keep, keep_mk, keepOf_self, and_self,
      implies_true, *]

theorem powerCapApply_keep {d : CDie} (h : s.Keep Q) : (powerCapApply d s).Keep Q := by
  simp +contextual (maxDischargeDepth := 20) only [powerCapApply, ite_keep, foldl_keep, keep_mk, keepOf_self, and_self,
      implies_true, *, State.modCDie_keep, State.raisePower_keep]

theorem thermtripAnalog_keep {d : Die} (h : s.Keep Q) : (thermtripAnalog d s).Keep Q := by
  simp +contextual (maxDischargeDepth := 20) only [thermtripAnalog, ite_keep, foldl_keep, keep_mk, keepOf_self, and_self,
      implies_true, *, State.modDie_keep]

theorem pllLost_keep {d : Die} {pllB : Bool} (h : s.Keep Q) : (pllLost d pllB s).Keep Q := by
  simp +contextual (maxDischargeDepth := 20) only [pllLost, ite_keep, foldl_keep, keep_mk, keepOf_self, and_self,
      implies_true, *, State.modDie_keep, State.raisePower_keep]

theorem pllRelockEnd_keep {d : Die} {pllB ok : Bool} (h : s.Keep Q) : (pllRelockEnd d pllB ok s).Keep Q := by
  simp +contextual (maxDischargeDepth := 20) only [pllRelockEnd, ite_keep, foldl_keep, keep_mk, keepOf_self, and_self,
      implies_true, *, State.modDie_keep, State.raisePower_keep, State.failed_keep]

theorem State.pllSwitch_keep {d : Die} (h : s.Keep Q) : (State.pllSwitch s d).Keep Q := by
  simp +contextual (maxDischargeDepth := 20) only [State.pllSwitch, ite_keep, foldl_keep, keep_mk, keepOf_self, and_self,
      implies_true, *, State.modDie_keep]

theorem refclkLoss_keep (h : s.Keep Q) : (refclkLoss s).Keep Q := by
  simp +contextual (maxDischargeDepth := 20) only [refclkLoss, ite_keep, foldl_keep, keep_mk, keepOf_self, and_self,
      implies_true, *, State.modDie_keep, State.raisePower_keep]

theorem refclkRestored_keep (h : s.Keep Q) : (refclkRestored s).Keep Q := by
  simp +contextual (maxDischargeDepth := 20) only [refclkRestored, ite_keep, foldl_keep, keep_mk, keepOf_self, and_self,
      implies_true, *, State.modDie_keep]

theorem execArbitrationPhase_keep {d : CDie × Option (Fin 3)} (h : s.Keep Q) : OutKeep Q (execArbitrationPhase d s) :=
    by
  simp +contextual (maxDischargeDepth := 20) only [execArbitrationPhase, ite_keep, foldl_keep,
      keep_mk, keepOf_self, and_self, implies_true, *, outKeep_next, outKeep_ite, arbitrationPhase_keep,
      State.ifDie_keep]

theorem execThermalReading_keep {d : Die} {sensor : Fin 16} {celsius : Int} (h : s.Keep Q) : OutKeep Q
    (execThermalReading d sensor celsius s) := by
  simp +contextual (maxDischargeDepth := 20) only [execThermalReading, ite_keep, foldl_keep, keep_mk, keepOf_self, and_self,
      implies_true, *, outKeep_next, outKeep_ite, thermalReading_keep]

theorem execPkgCapChange_keep {level : Bool} (h : s.Keep Q) : OutKeep Q (execPkgCapChange level s) := by
  simp +contextual (maxDischargeDepth := 20) only [execPkgCapChange, ite_keep, foldl_keep, keep_mk, keepOf_self, and_self,
      implies_true, *, outKeep_next, outKeep_ite, pkgCapChange_keep]

theorem execPowerCapApply_keep {d : CDie} (h : s.Keep Q) : OutKeep Q (execPowerCapApply d s) := by
  simp +contextual (maxDischargeDepth := 20) only [execPowerCapApply, ite_keep, foldl_keep, keep_mk, keepOf_self, and_self,
      implies_true, *, outKeep_next, outKeep_ite, powerCapApply_keep,
      State.ifDie_keep]

theorem execPllLost_keep {d : Die} {pllB : Bool} (h : s.Keep Q) : OutKeep Q (execPllLost d pllB s) := by
  simp +contextual (maxDischargeDepth := 20) only [execPllLost, ite_keep, foldl_keep, keep_mk, keepOf_self, and_self,
      implies_true, *, outKeep_next, outKeep_ite, pllLost_keep]

theorem execPllRelockEnd_keep {d : Die} {pllB ok : Bool} (h : s.Keep Q) : OutKeep Q (execPllRelockEnd d pllB ok s)
    := by
  simp +contextual (maxDischargeDepth := 20) only [execPllRelockEnd, ite_keep, foldl_keep, keep_mk, keepOf_self, and_self,
      implies_true, *, outKeep_next, outKeep_ite, pllRelockEnd_keep]

theorem execRefclkLoss_keep (h : s.Keep Q) : OutKeep Q (execRefclkLoss s) := by
  simp +contextual (maxDischargeDepth := 20) only [execRefclkLoss, ite_keep, foldl_keep, keep_mk, keepOf_self, and_self,
      implies_true, *, outKeep_next, outKeep_ite, refclkLoss_keep]

theorem execRefclkRestored_keep (h : s.Keep Q) : OutKeep Q (execRefclkRestored s) := by
  simp +contextual (maxDischargeDepth := 20) only [execRefclkRestored, ite_keep, foldl_keep, keep_mk, keepOf_self, and_self,
      implies_true, *, outKeep_next, outKeep_ite, refclkRestored_keep]

theorem execThermtripAnalog_keep {d : Die} (h : s.Keep Q) : OutKeep Q (execThermtripAnalog d s) := by
  simp +contextual (maxDischargeDepth := 20) only [execThermtripAnalog, ite_keep, foldl_keep, keep_mk, keepOf_self,
      and_self, implies_true, *, outKeep_next, outKeep_ite, thermtripAnalog_keep]

/-! ### Report -/

theorem State.setRec_keep {d : Die} {o : Nat} {r : ErrRec} (h : s.Keep Q) : (State.setRec s d o r).Keep Q := by
  simp +contextual (maxDischargeDepth := 20) only [State.setRec, ite_keep, foldl_keep, keep_mk, keepOf_self, and_self,
      implies_true, *, State.setReg_keep]

theorem State.dropReport_keep {d : Die} {r : ErrRec} (h : s.Keep Q) : (State.dropReport s d r).Keep Q := by
  simp +contextual (maxDischargeDepth := 20) only [State.dropReport, ite_keep, foldl_keep, keep_mk, keepOf_self, and_self,
      implies_true, *, State.setReg_keep, State.count_keep]

theorem State.acceptReport_keep {d : Die} {r : Report} (h : s.Keep Q) : (State.acceptReport s d r).Keep Q := by
  unfold State.acceptReport
  dsimp only
  (repeat' split) <;> simp +contextual (maxDischargeDepth := 20) only [ite_keep, foldl_keep, keep_mk, keepOf_self, and_self,
      implies_true, *, State.modDie_keep, State.orReg_keep, State.setRec_keep, State.dropReport_keep]

theorem errorReport_keep {d : Die} (h : s.Keep Q) : (errorReport d s).Keep Q := by
  simp +contextual (maxDischargeDepth := 20) only [errorReport, ite_keep, foldl_keep, keep_mk, keepOf_self, and_self,
      implies_true, *, State.modDie_keep, State.acceptReport_keep]

theorem overflowFlush_keep {d : Die} (h : s.Keep Q) : (overflowFlush d s).Keep Q := by
  unfold overflowFlush
  (repeat' split) <;> simp +contextual (maxDischargeDepth := 20) only [ite_keep, foldl_keep, keep_mk, keepOf_self, and_self,
      implies_true, *, State.setReg_keep, State.modDie_keep]

theorem errorRingWrite_keep {d : Die} (h : s.Keep Q) : (errorRingWrite d s).Keep Q := by
  unfold errorRingWrite
  (repeat' split) <;> simp +contextual (maxDischargeDepth := 20) only [ite_keep, foldl_keep, keep_mk, keepOf_self, and_self,
      implies_true, *, State.setReg_keep, State.modDie_keep, State.count_keep, State.store_keep, State.irqDie_keep]

theorem State.wrRingCtrl_keep {d : Die} {v : Word} (h : s.Keep Q) : (State.wrRingCtrl s d v).Keep Q := by
  simp +contextual (maxDischargeDepth := 20) only [State.wrRingCtrl, ite_keep, foldl_keep, keep_mk, keepOf_self, and_self,
      implies_true, *, State.setReg_keep]

theorem State.raiseRel_keep {d : Die} {code : BitVec 16} {inst : Nat} {info : Option DWord} (h : s.Keep Q) :
    (State.raiseRel s d code inst info).Keep Q := by
  simp +contextual (maxDischargeDepth := 20) only [State.raiseRel, ite_keep, foldl_keep, keep_mk, keepOf_self, and_self,
      implies_true, *, State.raiseWith_keep]

theorem mortarLaneFail_keep {d : Die} {edge : Fin 3} {m : Fin 16} {lane : Fin 8} (h : s.Keep Q) : (mortarLaneFail d
    edge m lane s).Keep Q := by
  simp +contextual (maxDischargeDepth := 20) only [mortarLaneFail, ite_keep, foldl_keep, keep_mk, keepOf_self, and_self,
      implies_true, *, State.modDie_keep, State.failed_keep, State.raiseRel_keep]

theorem flitCrcFail_keep {d : Die} {edge : Fin 3} (h : s.Keep Q) : (flitCrcFail d edge s).Keep Q := by
  simp +contextual (maxDischargeDepth := 20) only [flitCrcFail, ite_keep, foldl_keep, keep_mk, keepOf_self, and_self,
      implies_true, *, State.count_keep]

theorem execErrorReport_keep {d : Die} (h : s.Keep Q) : OutKeep Q (execErrorReport d s) := by
  simp +contextual (maxDischargeDepth := 20) only [execErrorReport, ite_keep, foldl_keep, keep_mk, keepOf_self, and_self,
      implies_true, *, outKeep_next, outKeep_ite, errorReport_keep,
      State.ifDie_keep]

theorem execOverflowFlush_keep {d : Die} (h : s.Keep Q) : OutKeep Q (execOverflowFlush d s) := by
  simp +contextual (maxDischargeDepth := 20) only [execOverflowFlush, ite_keep, foldl_keep, keep_mk, keepOf_self, and_self,
      implies_true, *, outKeep_next, outKeep_ite, overflowFlush_keep,
      State.ifDie_keep]

theorem execErrorRingWrite_keep {d : Die} (h : s.Keep Q) : OutKeep Q (execErrorRingWrite d s) := by
  simp +contextual (maxDischargeDepth := 20) only [execErrorRingWrite, ite_keep, foldl_keep, keep_mk, keepOf_self, and_self,
      implies_true, *, outKeep_next, outKeep_ite, errorRingWrite_keep,
      State.ifDie_keep]

theorem execMortarLaneFail_keep {d : Die} {edge : Fin 3} {m : Fin 16} {lane : Fin 8} (h : s.Keep Q) : OutKeep Q
    (execMortarLaneFail d edge m lane s) := by
  simp +contextual (maxDischargeDepth := 20) only [execMortarLaneFail, ite_keep, foldl_keep, keep_mk, keepOf_self, and_self,
      implies_true, *, outKeep_next, outKeep_ite, mortarLaneFail_keep]

theorem execFlitCrcFail_keep {d : Die} {edge : Fin 3} (h : s.Keep Q) : OutKeep Q (execFlitCrcFail d edge s) := by
  simp +contextual (maxDischargeDepth := 20) only [execFlitCrcFail, ite_keep, foldl_keep, keep_mk, keepOf_self, and_self,
      implies_true, *, outKeep_next, outKeep_ite, flitCrcFail_keep]

/-! ### Iscon -/

theorem State.fetch_keep {g : Course} (h : s.Keep Q) : (State.fetch s g).1.Keep Q := by
  unfold State.fetch
  dsimp only
  (repeat' split) <;> simp +contextual (maxDischargeDepth := 20) only [ite_keep, foldl_keep, keep_mk, keepOf_self, and_self,
      implies_true, *, State.modCourse_keep]

theorem State.act_keep {g : Course} {sub : BitVec 4} {a : Act} (h : s.Keep Q) (ha : Act.Keep Q a) :
    (State.act s g sub a).Keep Q := by
  cases a with
  | next t => exact State.modCourse_keep ha
  | goto t pc => exact State.modCourse_keep ha
  | stay t => exact ha
  | post t f => exact ha.2 _ (State.modCourse_keep ha.1)
  | fault c e => exact State.precise_keep h
  | faultIn t c e => exact State.precise_keep ha
theorem State.issued_keep {g : Course} (h : s.Keep Q) : (State.issued s g).Keep Q := by
  simp +contextual (maxDischargeDepth := 20) only [State.issued, ite_keep, foldl_keep, keep_mk, keepOf_self, and_self,
      implies_true, *, State.countC_keep]

theorem State.issue_keep {g : Course} {w : BitVec 56} {sub : BitVec 4} {z : List (Nat × Nat)} {v2only : Bool} {body
    : State → Act} (h : s.Keep Q) (hbody : ∀ t : State, t.Keep Q → Act.Keep Q (body t)) : (State.issue s g w sub z v2only
    body).Keep Q := by
  unfold State.issue
  split
  · exact h
  · have hf : (s.fetch g).1.Keep Q := State.fetch_keep h
    generalize State.fetch s g = r at hf ⊢
    obtain ⟨t, ok⟩ := r
    have hb := hbody t hf
    dsimp only at hf ⊢
    generalize body t = a at hb ⊢
    split
    · exact State.precise_keep hf
    · split
      · exact State.precise_keep hf
      · split
        · exact State.precise_keep hf
        · split
          · exact State.modCourse_keep (State.issued_keep hf)
          · cases a with
            | next u => exact State.act_keep hf (State.issued_keep hb)
            | goto u pc => exact State.act_keep hf (State.issued_keep hb)
            | stay u => exact State.act_keep hf (State.issued_keep hb)
            | post u f => exact State.act_keep hf ⟨State.issued_keep hb.1, hb.2⟩
            | fault c e => exact State.act_keep hf trivial
            | faultIn u c e => exact State.act_keep hf hb

theorem needZero_keep {w : BitVec 56} {z : List (Nat × Nat)} {a : Act} (ha : Act.Keep Q a) : Act.Keep Q (needZero w
    z a) := by
  simp +contextual (maxDischargeDepth := 20) only [needZero, ite_keep, foldl_keep, keep_mk, keepOf_self, and_self,
      implies_true, *, Act.keep_next, Act.keep_goto, Act.keep_stay, Act.keep_post, Act.keep_fault, Act.keep_faultIn,
      Act.keep_ite]

theorem State.onCourse_keep {g : Course} {f : CourseState → CourseState} (h : s.Keep Q) : Act.Keep Q (State.onCourse
    s g f) := by
  simp +contextual (maxDischargeDepth := 20) only [State.onCourse, ite_keep, foldl_keep, keep_mk, keepOf_self, and_self,
      implies_true, *, Act.keep_next, Act.keep_goto, Act.keep_stay, Act.keep_post, Act.keep_fault, Act.keep_faultIn,
      Act.keep_ite, State.modCourse_keep]

theorem execR_keep {f : DWord → DWord → DWord} {g : Course} {w : BitVec 56} (h : s.Keep Q) : (execR f g w s).Keep Q
    := by
  simp +contextual (maxDischargeDepth := 20) only [execR, ite_keep, foldl_keep, keep_mk, keepOf_self, and_self,
      implies_true, *, Act.keep_next, Act.keep_goto, Act.keep_stay, Act.keep_post, Act.keep_fault, Act.keep_faultIn,
      Act.keep_ite, State.issue_keep, State.onCourse_keep]

theorem execI_keep {f : DWord → DWord → DWord} {z : List (Nat × Nat)} {g : Course} {w : BitVec 56} (h : s.Keep Q) :
    (execI f z g w s).Keep Q := by
  simp +contextual (maxDischargeDepth := 20) only [execI, ite_keep, foldl_keep, keep_mk, keepOf_self, and_self,
      implies_true, *, Act.keep_next, Act.keep_goto, Act.keep_stay, Act.keep_post, Act.keep_fault, Act.keep_faultIn,
      Act.keep_ite, State.issue_keep, needZero_keep, State.onCourse_keep]

theorem execAdd_keep {g : Course} {w : BitVec 56} (h : s.Keep Q) : OutKeep Q (execAdd g w s) := by
  simp +contextual (maxDischargeDepth := 20) only [execAdd, ite_keep, foldl_keep, keep_mk, keepOf_self, and_self,
      implies_true, *, outKeep_next, outKeep_ite, execR_keep]

theorem execSub_keep {g : Course} {w : BitVec 56} (h : s.Keep Q) : OutKeep Q (execSub g w s) := by
  simp +contextual (maxDischargeDepth := 20) only [execSub, ite_keep, foldl_keep, keep_mk, keepOf_self, and_self,
      implies_true, *, outKeep_next, outKeep_ite, execR_keep]

theorem execAnd_keep {g : Course} {w : BitVec 56} (h : s.Keep Q) : OutKeep Q (execAnd g w s) := by
  simp +contextual (maxDischargeDepth := 20) only [execAnd, ite_keep, foldl_keep, keep_mk, keepOf_self, and_self,
      implies_true, *, outKeep_next, outKeep_ite, execR_keep]

theorem execOr_keep {g : Course} {w : BitVec 56} (h : s.Keep Q) : OutKeep Q (execOr g w s) := by
  simp +contextual (maxDischargeDepth := 20) only [execOr, ite_keep, foldl_keep, keep_mk, keepOf_self, and_self,
      implies_true, *, outKeep_next, outKeep_ite, execR_keep]

theorem execXor_keep {g : Course} {w : BitVec 56} (h : s.Keep Q) : OutKeep Q (execXor g w s) := by
  simp +contextual (maxDischargeDepth := 20) only [execXor, ite_keep, foldl_keep, keep_mk, keepOf_self, and_self,
      implies_true, *, outKeep_next, outKeep_ite, execR_keep]

theorem execShl_keep {g : Course} {w : BitVec 56} (h : s.Keep Q) : OutKeep Q (execShl g w s) := by
  simp +contextual (maxDischargeDepth := 20) only [execShl, ite_keep, foldl_keep, keep_mk, keepOf_self, and_self,
      implies_true, *, outKeep_next, outKeep_ite, execR_keep]

theorem execShr_keep {g : Course} {w : BitVec 56} (h : s.Keep Q) : OutKeep Q (execShr g w s) := by
  simp +contextual (maxDischargeDepth := 20) only [execShr, ite_keep, foldl_keep, keep_mk, keepOf_self, and_self,
      implies_true, *, outKeep_next, outKeep_ite, execR_keep]

theorem execSra_keep {g : Course} {w : BitVec 56} (h : s.Keep Q) : OutKeep Q (execSra g w s) := by
  simp +contextual (maxDischargeDepth := 20) only [execSra, ite_keep, foldl_keep, keep_mk, keepOf_self, and_self,
      implies_true, *, outKeep_next, outKeep_ite, execR_keep]

theorem execMul_keep {g : Course} {w : BitVec 56} (h : s.Keep Q) : OutKeep Q (execMul g w s) := by
  simp +contextual (maxDischargeDepth := 20) only [execMul, ite_keep, foldl_keep, keep_mk, keepOf_self, and_self,
      implies_true, *, outKeep_next, outKeep_ite, execR_keep]

theorem execMulhu_keep {g : Course} {w : BitVec 56} (h : s.Keep Q) : OutKeep Q (execMulhu g w s) := by
  simp +contextual (maxDischargeDepth := 20) only [execMulhu, ite_keep, foldl_keep, keep_mk, keepOf_self, and_self,
      implies_true, *, outKeep_next, outKeep_ite, execR_keep]

theorem execMin_keep {g : Course} {w : BitVec 56} (h : s.Keep Q) : OutKeep Q (execMin g w s) := by
  simp +contextual (maxDischargeDepth := 20) only [execMin, ite_keep, foldl_keep, keep_mk, keepOf_self, and_self,
      implies_true, *, outKeep_next, outKeep_ite, execR_keep]

theorem execMax_keep {g : Course} {w : BitVec 56} (h : s.Keep Q) : OutKeep Q (execMax g w s) := by
  simp +contextual (maxDischargeDepth := 20) only [execMax, ite_keep, foldl_keep, keep_mk, keepOf_self, and_self,
      implies_true, *, outKeep_next, outKeep_ite, execR_keep]

theorem execMinu_keep {g : Course} {w : BitVec 56} (h : s.Keep Q) : OutKeep Q (execMinu g w s) := by
  simp +contextual (maxDischargeDepth := 20) only [execMinu, ite_keep, foldl_keep, keep_mk, keepOf_self, and_self,
      implies_true, *, outKeep_next, outKeep_ite, execR_keep]

theorem execMaxu_keep {g : Course} {w : BitVec 56} (h : s.Keep Q) : OutKeep Q (execMaxu g w s) := by
  simp +contextual (maxDischargeDepth := 20) only [execMaxu, ite_keep, foldl_keep, keep_mk, keepOf_self, and_self,
      implies_true, *, outKeep_next, outKeep_ite, execR_keep]

theorem execAddi_keep {g : Course} {w : BitVec 56} (h : s.Keep Q) : OutKeep Q (execAddi g w s) := by
  simp +contextual (maxDischargeDepth := 20) only [execAddi, ite_keep, foldl_keep, keep_mk, keepOf_self, and_self,
      implies_true, *, outKeep_next, outKeep_ite, execI_keep]

theorem execAndi_keep {g : Course} {w : BitVec 56} (h : s.Keep Q) : OutKeep Q (execAndi g w s) := by
  simp +contextual (maxDischargeDepth := 20) only [execAndi, ite_keep, foldl_keep, keep_mk, keepOf_self, and_self,
      implies_true, *, outKeep_next, outKeep_ite, execI_keep]

theorem execOri_keep {g : Course} {w : BitVec 56} (h : s.Keep Q) : OutKeep Q (execOri g w s) := by
  simp +contextual (maxDischargeDepth := 20) only [execOri, ite_keep, foldl_keep, keep_mk, keepOf_self, and_self,
      implies_true, *, outKeep_next, outKeep_ite, execI_keep]

theorem execXori_keep {g : Course} {w : BitVec 56} (h : s.Keep Q) : OutKeep Q (execXori g w s) := by
  simp +contextual (maxDischargeDepth := 20) only [execXori, ite_keep, foldl_keep, keep_mk, keepOf_self, and_self,
      implies_true, *, outKeep_next, outKeep_ite, execI_keep]

theorem execShli_keep {g : Course} {w : BitVec 56} (h : s.Keep Q) : OutKeep Q (execShli g w s) := by
  simp +contextual (maxDischargeDepth := 20) only [execShli, ite_keep, foldl_keep, keep_mk, keepOf_self, and_self,
      implies_true, *, outKeep_next, outKeep_ite, execI_keep]

theorem execShri_keep {g : Course} {w : BitVec 56} (h : s.Keep Q) : OutKeep Q (execShri g w s) := by
  simp +contextual (maxDischargeDepth := 20) only [execShri, ite_keep, foldl_keep, keep_mk, keepOf_self, and_self,
      implies_true, *, outKeep_next, outKeep_ite, execI_keep]

theorem execSrai_keep {g : Course} {w : BitVec 56} (h : s.Keep Q) : OutKeep Q (execSrai g w s) := by
  simp +contextual (maxDischargeDepth := 20) only [execSrai, ite_keep, foldl_keep, keep_mk, keepOf_self, and_self,
      implies_true, *, outKeep_next, outKeep_ite, execI_keep]

theorem execLi_keep {g : Course} {w : BitVec 56} (h : s.Keep Q) : OutKeep Q (execLi g w s) := by
  simp +contextual (maxDischargeDepth := 20) only [execLi, ite_keep, foldl_keep, keep_mk, keepOf_self, and_self,
      implies_true, *, outKeep_next, outKeep_ite, execI_keep]

theorem execLui_keep {g : Course} {w : BitVec 56} (h : s.Keep Q) : OutKeep Q (execLui g w s) := by
  simp +contextual (maxDischargeDepth := 20) only [execLui, ite_keep, foldl_keep, keep_mk, keepOf_self, and_self,
      implies_true, *, outKeep_next, outKeep_ite, execI_keep]

theorem execA_keep {z : List (Nat × Nat)} {f : CourseState → CourseState} {g : Course} {w : BitVec 56} (h : s.Keep
    Q) : (execA z f g w s).Keep Q := by
  simp +contextual (maxDischargeDepth := 20) only [execA, ite_keep, foldl_keep, keep_mk, keepOf_self, and_self,
      implies_true, *, Act.keep_next, Act.keep_goto, Act.keep_stay, Act.keep_post, Act.keep_fault, Act.keep_faultIn,
      Act.keep_ite, State.issue_keep, needZero_keep, State.onCourse_keep]

theorem execAmov_keep {g : Course} {w : BitVec 56} (h : s.Keep Q) : OutKeep Q (execAmov g w s) := by
  simp +contextual (maxDischargeDepth := 20) only [execAmov, ite_keep, foldl_keep, keep_mk, keepOf_self, and_self,
      implies_true, *, outKeep_next, outKeep_ite, execA_keep]

theorem execAaddi_keep {g : Course} {w : BitVec 56} (h : s.Keep Q) : OutKeep Q (execAaddi g w s) := by
  simp +contextual (maxDischargeDepth := 20) only [execAaddi, ite_keep, foldl_keep, keep_mk, keepOf_self, and_self,
      implies_true, *, outKeep_next, outKeep_ite, execA_keep]

theorem execAadd_keep {g : Course} {w : BitVec 56} (h : s.Keep Q) : OutKeep Q (execAadd g w s) := by
  simp +contextual (maxDischargeDepth := 20) only [execAadd, ite_keep, foldl_keep, keep_mk, keepOf_self, and_self,
      implies_true, *, outKeep_next, outKeep_ite, execA_keep]

theorem execSmov_keep {g : Course} {w : BitVec 56} (h : s.Keep Q) : OutKeep Q (execSmov g w s) := by
  simp +contextual (maxDischargeDepth := 20) only [execSmov, ite_keep, foldl_keep, keep_mk, keepOf_self, and_self,
      implies_true, *, outKeep_next, outKeep_ite, execA_keep]

theorem execC_keep {z : List (Nat × Nat)} {b : CourseState → DWord} {g : Course} {w : BitVec 56} (h : s.Keep Q) :
    (execC z b g w s).Keep Q := by
  unfold execC
  apply State.issue_keep h
  intro t ht
  (try dsimp only)
  (repeat' split) <;> simp +contextual (maxDischargeDepth := 20) only [ite_keep, foldl_keep, keep_mk, keepOf_self, and_self,
      implies_true, *, Act.keep_next, Act.keep_goto, Act.keep_stay, Act.keep_post, Act.keep_fault, Act.keep_faultIn,
      Act.keep_ite, State.issue_keep, needZero_keep, State.onCourse_keep]

theorem execCmp_keep {g : Course} {w : BitVec 56} (h : s.Keep Q) : OutKeep Q (execCmp g w s) := by
  simp +contextual (maxDischargeDepth := 20) only [execCmp, ite_keep, foldl_keep, keep_mk, keepOf_self, and_self,
      implies_true, *, outKeep_next, outKeep_ite, execC_keep]

theorem execCmpi_keep {g : Course} {w : BitVec 56} (h : s.Keep Q) : OutKeep Q (execCmpi g w s) := by
  simp +contextual (maxDischargeDepth := 20) only [execCmpi, ite_keep, foldl_keep, keep_mk, keepOf_self, and_self,
      implies_true, *, outKeep_next, outKeep_ite, execC_keep]

theorem execPlog_keep {g : Course} {w : BitVec 56} (h : s.Keep Q) : OutKeep Q (execPlog g w s) := by
  unfold execPlog
  rw [outKeep_next]
  apply State.issue_keep h
  intro t ht
  (try dsimp only)
  (repeat' split) <;> simp +contextual (maxDischargeDepth := 20) only [ite_keep, foldl_keep, keep_mk, keepOf_self, and_self,
      implies_true, *, outKeep_next, outKeep_ite, Act.keep_next, Act.keep_goto, Act.keep_stay, Act.keep_post, Act.keep_fault,
      Act.keep_faultIn, Act.keep_ite, State.issue_keep, State.onCourse_keep]

theorem execJmp_keep {g : Course} {w : BitVec 56} (h : s.Keep Q) : OutKeep Q (execJmp g w s) := by
  unfold execJmp
  rw [outKeep_next]
  apply State.issue_keep h
  intro t ht
  (try dsimp only)
  (repeat' split) <;> simp +contextual (maxDischargeDepth := 20) only [ite_keep, foldl_keep, keep_mk, keepOf_self, and_self,
      implies_true, *, outKeep_next, outKeep_ite, Act.keep_next, Act.keep_goto, Act.keep_stay, Act.keep_post, Act.keep_fault,
      Act.keep_faultIn, Act.keep_ite, State.modCourse_keep, State.issue_keep, needZero_keep]

theorem execJr_keep {g : Course} {w : BitVec 56} (h : s.Keep Q) : OutKeep Q (execJr g w s) := by
  unfold execJr
  rw [outKeep_next]
  apply State.issue_keep h
  intro t ht
  (try dsimp only)
  (repeat' split) <;> simp +contextual (maxDischargeDepth := 20) only [ite_keep, foldl_keep, keep_mk, keepOf_self, and_self,
      implies_true, *, outKeep_next, outKeep_ite, Act.keep_next, Act.keep_goto, Act.keep_stay, Act.keep_post, Act.keep_fault,
      Act.keep_faultIn, Act.keep_ite, State.modCourse_keep, State.issue_keep, needZero_keep]

theorem execEret_keep {g : Course} {w : BitVec 56} (h : s.Keep Q) : OutKeep Q (execEret g w s) := by
  unfold execEret
  rw [outKeep_next]
  apply State.issue_keep h
  intro t ht
  (try dsimp only)
  (repeat' split) <;> simp +contextual (maxDischargeDepth := 20) only [ite_keep, foldl_keep, keep_mk, keepOf_self, and_self,
      implies_true, *, outKeep_next, outKeep_ite, Act.keep_next, Act.keep_goto, Act.keep_stay, Act.keep_post, Act.keep_fault,
      Act.keep_faultIn, Act.keep_ite, State.modCourse_keep, State.issue_keep]

theorem execHalt_keep {g : Course} {w : BitVec 56} (h : s.Keep Q) : OutKeep Q (execHalt g w s) := by
  simp +contextual (maxDischargeDepth := 20) only [execHalt, ite_keep, foldl_keep, keep_mk, keepOf_self, and_self,
      implies_true, *, outKeep_next, outKeep_ite, Act.keep_next, Act.keep_goto, Act.keep_stay, Act.keep_post, Act.keep_fault,
      Act.keep_faultIn, Act.keep_ite, State.issue_keep, State.onCourse_keep]

theorem execBrk_keep {g : Course} {w : BitVec 56} (h : s.Keep Q) : OutKeep Q (execBrk g w s) := by
  unfold execBrk
  rw [outKeep_next]
  apply State.issue_keep h
  intro t ht
  (try dsimp only)
  (repeat' split) <;> simp +contextual (maxDischargeDepth := 20) only [ite_keep, foldl_keep, keep_mk, keepOf_self, and_self,
      implies_true, *, outKeep_next, outKeep_ite, Act.keep_next, Act.keep_goto, Act.keep_stay, Act.keep_post, Act.keep_fault,
      Act.keep_faultIn, Act.keep_ite, State.issue_keep]

theorem execNop_keep {g : Course} {w : BitVec 56} (h : s.Keep Q) : OutKeep Q (execNop g w s) := by
  unfold execNop
  rw [outKeep_next]
  apply State.issue_keep h
  intro t ht
  (try dsimp only)
  (repeat' split) <;> simp +contextual (maxDischargeDepth := 20) only [ite_keep, foldl_keep, keep_mk, keepOf_self, and_self,
      implies_true, *, outKeep_next, outKeep_ite, Act.keep_next, Act.keep_goto, Act.keep_stay, Act.keep_post, Act.keep_fault,
      Act.keep_faultIn, Act.keep_ite, State.issue_keep]

/-! ### Rng -/

theorem State.bind_keep {g : Course} {stream : BitVec 16} {replica : Bool} {base : DWord} (h : s.Keep Q) : Act.Keep
    Q (State.bind s g stream replica base) := by
  simp +contextual (maxDischargeDepth := 20) only [State.bind, ite_keep, foldl_keep, keep_mk, keepOf_self, and_self,
      implies_true, *, Act.keep_next, Act.keep_goto, Act.keep_stay, Act.keep_post, Act.keep_fault, Act.keep_faultIn,
      Act.keep_ite, State.modCourse_keep]

theorem State.unbind_keep {g : Course} {stream : BitVec 16} (h : s.Keep Q) : Act.Keep Q (State.unbind s g stream) :=
    by
  simp +contextual (maxDischargeDepth := 20) only [State.unbind, ite_keep, foldl_keep, keep_mk, keepOf_self, and_self,
      implies_true, *, Act.keep_next, Act.keep_goto, Act.keep_stay, Act.keep_post, Act.keep_fault, Act.keep_faultIn,
      Act.keep_ite, State.modCourse_keep]

theorem State.giveRows_keep {g : Course} {stream : BitVec 16} {n : Nat} {x : Rows × State} (h : s.Keep Q)
    (hx : s.giveRows g stream n = some x) : x.2.Keep Q := by
  unfold State.giveRows at hx
  split at hx
  · cases hx
  · cases hx
    exact State.countC_keep (State.modCourse_keep h)
theorem execRngBind_keep {g : Course} {w : BitVec 56} (h : s.Keep Q) : OutKeep Q (execRngBind g w s) := by
  unfold execRngBind
  rw [outKeep_next]
  apply State.issue_keep h
  intro t ht
  (try dsimp only)
  (repeat' split) <;> simp +contextual (maxDischargeDepth := 20) only [ite_keep, foldl_keep, keep_mk, keepOf_self, and_self,
      implies_true, *, outKeep_next, outKeep_ite, Act.keep_next, Act.keep_goto, Act.keep_stay, Act.keep_post, Act.keep_fault,
      Act.keep_faultIn, Act.keep_ite, State.issue_keep, State.bind_keep]

theorem execRngRelease_keep {g : Course} {w : BitVec 56} (h : s.Keep Q) : OutKeep Q (execRngRelease g w s) := by
  unfold execRngRelease
  rw [outKeep_next]
  apply State.issue_keep h
  intro t ht
  (try dsimp only)
  (repeat' split) <;> simp +contextual (maxDischargeDepth := 20) only [ite_keep, foldl_keep, keep_mk, keepOf_self, and_self,
      implies_true, *, outKeep_next, outKeep_ite, Act.keep_next, Act.keep_goto, Act.keep_stay, Act.keep_post, Act.keep_fault,
      Act.keep_faultIn, Act.keep_ite, State.issue_keep, State.unbind_keep]

/-! ### Sync -/

theorem execTallyRead_keep {g : Course} {w : BitVec 56} (h : s.Keep Q) : OutKeep Q (execTallyRead g w s) := by
  unfold execTallyRead
  rw [outKeep_next]
  apply State.issue_keep h
  intro t ht
  (try dsimp only)
  (repeat' split) <;> simp +contextual (maxDischargeDepth := 20) only [ite_keep, foldl_keep, keep_mk, keepOf_self, and_self,
      implies_true, *, outKeep_next, outKeep_ite, Act.keep_next, Act.keep_goto, Act.keep_stay, Act.keep_post, Act.keep_fault,
      Act.keep_faultIn, Act.keep_ite, State.issue_keep, State.onCourse_keep]

theorem execTallyAdd_keep {g : Course} {w : BitVec 56} (h : s.Keep Q) : OutKeep Q (execTallyAdd g w s) := by
  unfold execTallyAdd
  rw [outKeep_next]
  apply State.issue_keep h
  intro t ht
  (try dsimp only)
  (repeat' split) <;> simp +contextual (maxDischargeDepth := 20) only [ite_keep, foldl_keep, keep_mk, keepOf_self, and_self,
      implies_true, *, outKeep_next, outKeep_ite, Act.keep_next, Act.keep_goto, Act.keep_stay, Act.keep_post, Act.keep_fault,
      Act.keep_faultIn, Act.keep_ite, State.modCourse_keep, State.send_keep, State.settle_keep, State.issue_keep]

theorem execTallySet_keep {g : Course} {w : BitVec 56} (h : s.Keep Q) : OutKeep Q (execTallySet g w s) := by
  unfold execTallySet
  rw [outKeep_next]
  apply State.issue_keep h
  intro t ht
  (try dsimp only)
  (repeat' split) <;> simp +contextual (maxDischargeDepth := 20) only [ite_keep, foldl_keep, keep_mk, keepOf_self, and_self,
      implies_true, *, outKeep_next, outKeep_ite, Act.keep_next, Act.keep_goto, Act.keep_stay, Act.keep_post, Act.keep_fault,
      Act.keep_faultIn, Act.keep_ite, State.modCourse_keep, State.settle_keep, State.issue_keep]

theorem State.beginWait_keep {g : Course} {sd : Fin 32} {k : WaitKind} {t : Nat} (h : s.Keep Q) : (State.beginWait s g
    sd k t).Keep Q := by
  simp +contextual (maxDischargeDepth := 20) only [State.beginWait, ite_keep, foldl_keep, keep_mk,
      keepOf_self, and_self, implies_true, *, State.modCourse_keep, State.settle_keep, waitExpiry_keep,
      State.startTicks_keep]

theorem execTallyWait_keep {g : Course} {w : BitVec 56} (h : s.Keep Q) : OutKeep Q (execTallyWait g w s) := by
  unfold execTallyWait
  rw [outKeep_next]
  apply State.issue_keep h
  intro t ht
  (try dsimp only)
  (repeat' split) <;> simp +contextual (maxDischargeDepth := 20) only [ite_keep, foldl_keep, keep_mk, keepOf_self, and_self,
      implies_true, *, outKeep_next, outKeep_ite, Act.keep_next, Act.keep_goto, Act.keep_stay, Act.keep_post, Act.keep_fault,
      Act.keep_faultIn, Act.keep_ite, State.modCourse_keep, State.enqueue_keep, State.issue_keep, State.beginWait_keep]

theorem execFence_keep {g : Course} {w : BitVec 56} (h : s.Keep Q) : OutKeep Q (execFence g w s) := by
  unfold execFence
  rw [outKeep_next]
  apply State.issue_keep h
  intro t ht
  (try dsimp only)
  (repeat' split) <;> simp +contextual (maxDischargeDepth := 20) only [ite_keep, foldl_keep, keep_mk, keepOf_self, and_self,
      implies_true, *, outKeep_next, outKeep_ite, Act.keep_next, Act.keep_goto, Act.keep_stay, Act.keep_post, Act.keep_fault,
      Act.keep_faultIn, Act.keep_ite, State.issue_keep, State.beginWait_keep]

theorem execLeaveHold_keep {g : Course} {w : BitVec 56} (h : s.Keep Q) : OutKeep Q (execLeaveHold g w s) := by
  unfold execLeaveHold
  rw [outKeep_next]
  apply State.issue_keep h
  intro t ht
  (try dsimp only)
  (repeat' split) <;> simp +contextual (maxDischargeDepth := 20) only [ite_keep, foldl_keep, keep_mk, keepOf_self, and_self,
      implies_true, *, outKeep_next, outKeep_ite, Act.keep_next, Act.keep_goto, Act.keep_stay, Act.keep_post, Act.keep_fault,
      Act.keep_faultIn, Act.keep_ite, State.tick_keep, State.issue_keep, State.beginWait_keep]

theorem execLeaveRel_keep {g : Course} {w : BitVec 56} (h : s.Keep Q) : OutKeep Q (execLeaveRel g w s) := by
  unfold execLeaveRel
  rw [outKeep_next]
  apply State.issue_keep h
  intro t ht
  (try dsimp only)
  (repeat' split) <;> simp +contextual (maxDischargeDepth := 20) only [ite_keep, foldl_keep, keep_mk, keepOf_self, and_self,
      implies_true, *, outKeep_next, outKeep_ite, Act.keep_next, Act.keep_goto, Act.keep_stay, Act.keep_post, Act.keep_fault,
      Act.keep_faultIn, Act.keep_ite, State.releaseHold_keep, State.issue_keep]

theorem execLockAcq_keep {g : Course} {w : BitVec 56} (h : s.Keep Q) : OutKeep Q (execLockAcq g w s) := by
  unfold execLockAcq
  rw [outKeep_next]
  apply State.issue_keep h
  intro t ht
  (try dsimp only)
  (repeat' split) <;> simp +contextual (maxDischargeDepth := 20) only [ite_keep, foldl_keep, keep_mk, keepOf_self,
      and_self, implies_true, *, outKeep_next, outKeep_ite, Act.keep_next, Act.keep_goto, Act.keep_stay,
      Act.keep_post, Act.keep_fault, Act.keep_faultIn, Act.keep_ite, State.modCourse_keep, State.send_keep,
      State.issue_keep, State.tick_keep, State.startTicks_keep]

theorem execLockRel_keep {g : Course} {w : BitVec 56} (h : s.Keep Q) : OutKeep Q (execLockRel g w s) := by
  unfold execLockRel
  rw [outKeep_next]
  apply State.issue_keep h
  intro t ht
  (try dsimp only)
  (repeat' split) <;> simp +contextual (maxDischargeDepth := 20) only [ite_keep, foldl_keep, keep_mk, keepOf_self, and_self,
      implies_true, *, outKeep_next, outKeep_ite, Act.keep_next, Act.keep_goto, Act.keep_stay, Act.keep_post, Act.keep_fault,
      Act.keep_faultIn, Act.keep_ite, State.send_keep, State.issue_keep]

theorem tallyAddRemote_keep {src dst : Course} (h : s.Keep Q) : (tallyAddRemote src dst s).Keep Q := by
  unfold tallyAddRemote
  (repeat' split) <;> simp +contextual (maxDischargeDepth := 20) only [ite_keep, foldl_keep, keep_mk, keepOf_self, and_self,
      implies_true, *, State.modCourse_keep, State.settle_keep]

theorem redNoticeArrive_keep {g : Course} (h : s.Keep Q) : (redNoticeArrive g s).Keep Q := by
  unfold redNoticeArrive
  refine State.arrive_keep h ?_
  intro t m ht
  (try dsimp only)
  (repeat' split) <;> simp +contextual (maxDischargeDepth := 20) only [ite_keep, foldl_keep, keep_mk, keepOf_self, and_self,
      implies_true, *, State.modCourse_keep, State.arrive_keep, State.settle_keep]

theorem execTallyAddRemote_keep {src dst : Course} (h : s.Keep Q) : OutKeep Q (execTallyAddRemote src dst s) := by
  simp +contextual (maxDischargeDepth := 20) only [execTallyAddRemote, ite_keep, foldl_keep, keep_mk, keepOf_self, and_self,
      implies_true, *, outKeep_next, outKeep_ite, tallyAddRemote_keep]

theorem execRedNoticeArrive_keep {g : Course} (h : s.Keep Q) : OutKeep Q (execRedNoticeArrive g s) := by
  simp +contextual (maxDischargeDepth := 20) only [execRedNoticeArrive, ite_keep, foldl_keep, keep_mk, keepOf_self,
      and_self, implies_true, *, outKeep_next, outKeep_ite, redNoticeArrive_keep]

/-! ### Engine -/

theorem tallyField_keep {c : CourseState} {w : BitVec 56} {cls : BitVec 16} {a : Act} (ha : Act.Keep Q a) :
    Act.Keep Q (tallyField c w cls a) := by
  simp only [tallyField]
  split <;> split <;> first | trivial | exact ha

theorem State.issueEngine_keep {g : Course} {w : BitVec 56} {q : QueueId} {z : List (Nat × Nat)} {v2only : Bool} {cls
    : BitVec 16} {body : State → Act} (h : s.Keep Q) (hbody : ∀ t : State, t.Keep Q → Act.Keep Q (body t)) :
    (State.issueEngine s g w q z v2only cls body).Keep Q := by
  unfold State.issueEngine
  apply State.issue_keep h
  exact fun t ht => tallyField_keep (hbody t ht)

theorem State.submit_keep {g : Course} {w : BitVec 56} {q : QueueId} {op : EngineOp} {rows : Option Rows} (h :
    s.Keep Q) : Act.Keep Q (State.submit s g w q op rows) := by
  exact State.checkWindow_keep (State.enqueue_keep (State.modCourse_keep h))

theorem State.withRows_keep {g : Course} {sr : Bool} {rng n : Nat} {unbound : BitVec 16} {k : State → Option Rows → Act}
    (h : s.Keep Q) (hk : ∀ (t : State) r, t.Keep Q → Act.Keep Q (k t r)) :
    Act.Keep Q (State.withRows s g sr rng n unbound k) := by
  unfold State.withRows
  split
  · split
    · exact hk _ _ (State.giveRows_keep h ‹_›)
    · trivial
  · exact hk _ _ h
theorem guardAct_keep {ok : Bool} {code : BitVec 16} {einfo : Option DWord} {a : Act} (ha : Act.Keep Q a) : Act.Keep
    Q (guardAct ok code einfo a) := by
  simp +contextual (maxDischargeDepth := 20) only [guardAct, ite_keep, foldl_keep, keep_mk, keepOf_self, and_self,
      implies_true, *, Act.keep_next, Act.keep_goto, Act.keep_stay, Act.keep_post, Act.keep_fault, Act.keep_faultIn,
      Act.keep_ite]

end Sys2Proof.Machine
end

