-- ==== Sys2Proof/Laws/KeepArray.lean ====
section
/-! SUPPORT. KeepArray: what the operations of Machine/ArrayIssue, Repoint, Mason, Builder, Drain, Parity, Vector, Fwu keep (see Keep). -/

set_option linter.unusedSimpArgs false
set_option linter.unusedTactic false
set_option linter.unreachableTactic false
set_option linter.unnecessarySeqFocus false
set_option linter.unusedVariables false

namespace Sys2Proof.Machine

variable {Q : Kept} {s t : State}

/-! ### ArrayIssue -/

theorem issuePass_keep {g : Course} {w : BitVec 56} {t : State} (h : t.Keep Q) : Act.Keep Q (issuePass g w t) := by
  unfold issuePass
  dsimp only
  (repeat' split) <;> simp +contextual (maxDischargeDepth := 20) only [ite_keep, foldl_keep, keep_mk, keepOf_self, and_self,
      implies_true, *, Act.keep_next, Act.keep_goto, Act.keep_stay, Act.keep_post, Act.keep_fault, Act.keep_faultIn,
      Act.keep_ite, State.submit_keep, guardAct_keep]

theorem issueTile_keep {g : Course} {w : BitVec 56} {t : State} (h : t.Keep Q) : Act.Keep Q (issueTile g w t) := by
  simp +contextual (maxDischargeDepth := 20) only [issueTile, ite_keep, foldl_keep, keep_mk, keepOf_self, and_self,
      implies_true, *, Act.keep_next, Act.keep_goto, Act.keep_stay, Act.keep_post, Act.keep_fault, Act.keep_faultIn,
      Act.keep_ite, State.submit_keep]

theorem issueBuild_keep {g : Course} {w : BitVec 56} {t : State} (h : t.Keep Q) : Act.Keep Q (issueBuild g w t) :=
    by
  unfold issueBuild
  (repeat' split) <;> simp +contextual (maxDischargeDepth := 20) only [ite_keep, foldl_keep, keep_mk, keepOf_self, and_self,
      implies_true, *, Act.keep_next, Act.keep_goto, Act.keep_stay, Act.keep_post, Act.keep_fault, Act.keep_faultIn,
      Act.keep_ite, State.count_keep, State.submit_keep]

theorem issueDrain_keep {g : Course} {w : BitVec 56} {size : Nat} {d : DrainOp} {rng : Nat} {t : State} (h : t.Keep
    Q) : Act.Keep Q (issueDrain g w size d rng t) := by
  unfold issueDrain
  dsimp only
  (repeat' split) <;> simp +contextual (maxDischargeDepth := 20) only [ite_keep, foldl_keep, keep_mk, keepOf_self, and_self,
      implies_true, *, Act.keep_next, Act.keep_goto, Act.keep_stay, Act.keep_post, Act.keep_fault, Act.keep_faultIn,
      Act.keep_ite, State.count_keep, State.submit_keep, State.withRows_keep, guardAct_keep]

theorem issueDrnOut_keep {g : Course} {w : BitVec 56} {t : State} (h : t.Keep Q) : Act.Keep Q (issueDrnOut g w t) :=
    by
  unfold issueDrnOut
  (repeat' split) <;> simp +contextual (maxDischargeDepth := 20) only [ite_keep, foldl_keep, keep_mk, keepOf_self, and_self,
      implies_true, *, Act.keep_next, Act.keep_goto, Act.keep_stay, Act.keep_post, Act.keep_fault, Act.keep_faultIn,
      Act.keep_ite, issueDrain_keep]

theorem issueDrnPartial_keep {g : Course} {w : BitVec 56} {t : State} (h : t.Keep Q) : Act.Keep Q (issueDrnPartial g
    w t) := by
  simp +contextual (maxDischargeDepth := 20) only [issueDrnPartial, ite_keep, foldl_keep, keep_mk, keepOf_self, and_self,
      implies_true, *, Act.keep_next, Act.keep_goto, Act.keep_stay, Act.keep_post, Act.keep_fault, Act.keep_faultIn,
      Act.keep_ite, issueDrain_keep]

theorem execMsnPass_keep {g : Course} {w : BitVec 56} (h : s.Keep Q) : OutKeep Q (execMsnPass g w s) := by
  unfold execMsnPass
  rw [outKeep_next]
  apply State.issueEngine_keep h
  intro t ht
  (try dsimp only)
  (repeat' split) <;> simp +contextual (maxDischargeDepth := 20) only [ite_keep, foldl_keep, keep_mk, keepOf_self, and_self,
      implies_true, *, outKeep_next, outKeep_ite, Act.keep_next, Act.keep_goto, Act.keep_stay, Act.keep_post, Act.keep_fault,
      Act.keep_faultIn, Act.keep_ite, State.issueEngine_keep, issuePass_keep]

theorem execMsnTile_keep {g : Course} {w : BitVec 56} (h : s.Keep Q) : OutKeep Q (execMsnTile g w s) := by
  unfold execMsnTile
  rw [outKeep_next]
  apply State.issueEngine_keep h
  intro t ht
  (try dsimp only)
  (repeat' split) <;> simp +contextual (maxDischargeDepth := 20) only [ite_keep, foldl_keep, keep_mk, keepOf_self, and_self,
      implies_true, *, outKeep_next, outKeep_ite, Act.keep_next, Act.keep_goto, Act.keep_stay, Act.keep_post, Act.keep_fault,
      Act.keep_faultIn, Act.keep_ite, State.issueEngine_keep, issueTile_keep]

theorem execTblBuild_keep {g : Course} {w : BitVec 56} (h : s.Keep Q) : OutKeep Q (execTblBuild g w s) := by
  unfold execTblBuild
  rw [outKeep_next]
  apply State.issueEngine_keep h
  intro t ht
  (try dsimp only)
  (repeat' split) <;> simp +contextual (maxDischargeDepth := 20) only [ite_keep, foldl_keep, keep_mk, keepOf_self, and_self,
      implies_true, *, outKeep_next, outKeep_ite, Act.keep_next, Act.keep_goto, Act.keep_stay, Act.keep_post, Act.keep_fault,
      Act.keep_faultIn, Act.keep_ite, State.issueEngine_keep, issueBuild_keep]

theorem execDrnOut_keep {g : Course} {w : BitVec 56} (h : s.Keep Q) : OutKeep Q (execDrnOut g w s) := by
  unfold execDrnOut
  rw [outKeep_next]
  apply State.issueEngine_keep h
  intro t ht
  (try dsimp only)
  (repeat' split) <;> simp +contextual (maxDischargeDepth := 20) only [ite_keep, foldl_keep, keep_mk, keepOf_self, and_self,
      implies_true, *, outKeep_next, outKeep_ite, Act.keep_next, Act.keep_goto, Act.keep_stay, Act.keep_post, Act.keep_fault,
      Act.keep_faultIn, Act.keep_ite, State.issueEngine_keep, issueDrnOut_keep]

theorem execDrnPartial_keep {g : Course} {w : BitVec 56} (h : s.Keep Q) : OutKeep Q (execDrnPartial g w s) := by
  unfold execDrnPartial
  rw [outKeep_next]
  apply State.issueEngine_keep h
  intro t ht
  (try dsimp only)
  (repeat' split) <;> simp +contextual (maxDischargeDepth := 20) only [ite_keep, foldl_keep, keep_mk, keepOf_self, and_self,
      implies_true, *, outKeep_next, outKeep_ite, Act.keep_next, Act.keep_goto, Act.keep_stay, Act.keep_post, Act.keep_fault,
      Act.keep_faultIn, Act.keep_ite, State.issueEngine_keep, issueDrnPartial_keep]

/-! ### Repoint -/

theorem State.dropStalled_keep {g : Course} (h : s.Keep Q) : (State.dropStalled s g).Keep Q := by
  unfold State.dropStalled
  (repeat' split) <;> simp +contextual (maxDischargeDepth := 20) only [ite_keep, foldl_keep, keep_mk, keepOf_self, and_self,
      implies_true, *, State.modCourse_keep]

theorem State.flushAll_keep {g : Course} (h : s.Keep Q) : (State.flushAll s g).Keep Q := by
  simp +contextual (maxDischargeDepth := 20) only [State.flushAll, ite_keep, foldl_keep, keep_mk, keepOf_self, and_self,
      implies_true, *, State.flushQueue_keep, State.dropStalled_keep]

theorem State.endAdoption_keep {g : Course} (h : s.Keep Q) : (State.endAdoption s g).Keep Q := by
  simp +contextual (maxDischargeDepth := 20) only [State.endAdoption, ite_keep, foldl_keep, keep_mk, keepOf_self, and_self,
      implies_true, *, State.modCourse_keep]

theorem State.fence_keep {g : Course} (h : s.Keep Q) : (State.fence s g).Keep Q := by
  simp +contextual (maxDischargeDepth := 20) only [State.fence, ite_keep, foldl_keep, keep_mk, keepOf_self, and_self,
      implies_true, *, State.modCourse_keep, State.toStacks_keep, State.settle_keep, State.releaseHold_keep,
      State.raiseRel_keep, State.flushAll_keep, State.endAdoption_keep]

theorem State.arraysLost_keep {g : Course} {js : List Nat} (h : s.Keep Q) : (State.arraysLost s g js).Keep Q := by
  simp +contextual (maxDischargeDepth := 20) only [State.arraysLost, ite_keep, foldl_keep, keep_mk, keepOf_self,
      and_self, implies_true, *, foldl_keep, State.modCourse_keep, State.count_keep, State.failed_keep,
      State.ungrant_keep, State.raiseRel_keep, State.fence_keep]

theorem State.arrayLost_keep {g : Course} {j : Nat} (h : s.Keep Q) : (State.arrayLost s g j).Keep Q := by
  simp +contextual (maxDischargeDepth := 20) only [State.arrayLost, ite_keep, foldl_keep, keep_mk,
      keepOf_self, and_self, implies_true, *, State.modCourse_keep, State.count_keep, State.ungrant_keep,
      State.failed_keep, State.raiseRel_keep, State.fence_keep, State.arraysLost_keep]

theorem State.arrayReports_keep {g : Course} {rs : List (Nat × BitVec 16)} (h : s.Keep Q) : (State.arrayReports s g
    rs).Keep Q := by
  simp +contextual (maxDischargeDepth := 20) only [State.arrayReports, ite_keep, foldl_keep, keep_mk, keepOf_self,
      and_self, implies_true, *, foldl_keep, State.raiseCourse_keep, State.arraysLost_keep]

theorem State.arrayFault_keep {g : Course} {j : Nat} {code : BitVec 16} (h : s.Keep Q) : (State.arrayFault s g j
    code).Keep Q := by
  simp +contextual (maxDischargeDepth := 20) only [State.arrayFault, ite_keep, foldl_keep, keep_mk,
      keepOf_self, and_self, implies_true, *, State.raiseCourse_keep, State.arrayLost_keep, State.arrayReports_keep]

theorem replayBegin_keep {g : Course} {bad : List (Fin 8)} (h : s.Keep Q) : (replayBegin g bad s).Keep Q := by
  unfold replayBegin
  (repeat' split) <;> simp +contextual (maxDischargeDepth := 20) only [ite_keep, foldl_keep, keep_mk, keepOf_self,
      and_self, implies_true, *, State.modCourse_keep, State.raiseRel_keep, State.arraysLost_keep]

theorem replayEnd_keep {g : Course} (h : s.Keep Q) : (replayEnd g s).Keep Q := by
  unfold replayEnd
  (repeat' split) <;> simp +contextual (maxDischargeDepth := 20) only [ite_keep, foldl_keep, keep_mk, keepOf_self, and_self,
      implies_true, *, State.modCourse_keep, State.used_keep, State.checkWindow_keep, State.raiseRel_keep]

theorem execReplayBegin_keep {g : Course × List (Fin 8)} (h : s.Keep Q) : OutKeep Q (execReplayBegin g s) := by
  simp +contextual (maxDischargeDepth := 20) only [execReplayBegin, ite_keep, foldl_keep, keep_mk,
      keepOf_self, and_self, implies_true, *, outKeep_next, outKeep_ite, replayBegin_keep, State.ifCourse_keep]

theorem execReplayEnd_keep {g : Course} (h : s.Keep Q) : OutKeep Q (execReplayEnd g s) := by
  simp +contextual (maxDischargeDepth := 20) only [execReplayEnd, ite_keep, foldl_keep, keep_mk,
      keepOf_self, and_self, implies_true, *, outKeep_next, outKeep_ite, replayEnd_keep, State.ifCourse_keep]

/-! ### Mason -/

theorem State.scaleEntry_keep {g : Course} {a : Nat} (h : s.Keep Q) : (State.scaleEntry s g a).2.Keep Q := by
  unfold State.scaleEntry
  split
  · exact h
  · exact State.used_keep (State.used_keep h)

theorem State.scalesRead_keep {g : Course} {o : PassOp} {l : List Nat} (h : s.Keep Q) : (State.scalesRead s g o
    l).Keep Q := by
  simp +contextual (maxDischargeDepth := 20) only [State.scalesRead, ite_keep, foldl_keep, keep_mk, keepOf_self, and_self,
      implies_true, *, State.scaleEntry_keep]

theorem State.damagedRows_keep {g : Course} {i : Started} {rows : List ChainRow} (h : s.Keep Q) : (State.damagedRows
    s g i rows).Keep Q := by
  unfold State.damagedRows
  (repeat' split) <;> simp +contextual (maxDischargeDepth := 20) only [ite_keep, foldl_keep, keep_mk, keepOf_self, and_self,
      implies_true, *, State.efirst_keep, State.instrPoison_keep]

theorem State.enterBlock_keep {g : Course} {i : Started} {o : PassOp} {b : Nat} {rows : List ChainRow} (h : s.Keep
    Q) : (State.enterBlock s g i o b rows).Keep Q := by
  simp +contextual (maxDischargeDepth := 20) only [State.enterBlock, ite_keep, foldl_keep, keep_mk, keepOf_self, and_self,
      implies_true, *, State.modCourse_keep, State.countC_keep, State.scalesRead_keep, State.damagedRows_keep]

theorem State.kindFault_keep {g : Course} {i : Started} (h : s.Keep Q) : (State.kindFault s g i).Keep Q := by
  simp +contextual (maxDischargeDepth := 20) only [State.kindFault, ite_keep, foldl_keep, keep_mk, keepOf_self, and_self,
      implies_true, *, State.modCourse_keep, State.instrFault_keep]

theorem State.dropBlock_keep {g : Course} {i : Started} {o : PassOp} (h : s.Keep Q) : (State.dropBlock s g i o).Keep
    Q := by
  unfold State.dropBlock
  (repeat' split) <;> simp +contextual (maxDischargeDepth := 20) only [ite_keep, foldl_keep, keep_mk, keepOf_self, and_self,
      implies_true, *, State.modCourse_keep, State.countC_keep, State.damagedRows_keep]

theorem State.enterSkipped_keep {g : Course} {i : Started} {o : PassOp} {rows : List ChainRow} (h : s.Keep Q) :
    (State.enterSkipped s g i o rows).Keep Q := by
  simp +contextual (maxDischargeDepth := 20) only [State.enterSkipped, ite_keep, foldl_keep, keep_mk, keepOf_self,
      and_self, implies_true, *, foldl_keep, State.modCourse_keep, State.countC_keep, State.scalesRead_keep,
      State.damagedRows_keep]

theorem State.enterNext_keep {g : Course} {i : Started} {o : PassOp} {rows : List ChainRow} (h : s.Keep Q) :
    (State.enterNext s g i o rows).Keep Q := by
  unfold State.enterNext
  dsimp only
  (repeat' split) <;> simp +contextual (maxDischargeDepth := 20) only [ite_keep, foldl_keep, keep_mk, keepOf_self,
      and_self, implies_true, *, State.modCourse_keep, State.countC_keep, State.enterBlock_keep,
      State.enterSkipped_keep]

theorem passBlockEnter_keep {g : Course} {e : List (Fin 8 × ArrayErr)} (h : s.Keep Q) : (passBlockEnter g e s).Keep Q
    := by
  unfold passBlockEnter
  dsimp only
  (repeat' split) <;> simp +contextual (maxDischargeDepth := 20) only [ite_keep, foldl_keep, keep_mk, keepOf_self,
      and_self, implies_true, *, State.checkWindow_keep, State.arrayFault_keep, State.kindFault_keep,
      State.dropBlock_keep, State.enterNext_keep, State.arrayReports_keep]

theorem State.accWindow_keep {g : Course} {j slot n shift serial : Nat} (h : s.Keep Q) : (State.accWindow s g j slot
    n shift serial).Keep Q := by
  unfold State.accWindow
  (repeat' split) <;> simp +contextual (maxDischargeDepth := 20) only [ite_keep, foldl_keep, keep_mk, keepOf_self, and_self,
      implies_true, *, State.setReg_keep, State.orReg_keep, State.raiseInstr_keep, State.efirst_keep]

theorem State.addCycle_keep {g : Course} {j serial : Nat} {y : Cycle} {skip poisonAll : Bool} (h : s.Keep Q) :
    (State.addCycle s g j serial y skip poisonAll).Keep Q := by
  unfold State.addCycle
  dsimp only
  (repeat' split) <;> simp +contextual (maxDischargeDepth := 20) only [ite_keep, foldl_keep, keep_mk, keepOf_self, and_self,
      implies_true, *, State.modCourse_keep, State.orReg_keep, State.accWindow_keep]

theorem accumulationStep_keep {g : Course} {j : Nat} (h : s.Keep Q) : (accumulationStep g j s).Keep Q := by
  unfold accumulationStep
  dsimp only
  (repeat' split) <;> simp +contextual (maxDischargeDepth := 20) only [ite_keep, foldl_keep, keep_mk, keepOf_self, and_self,
      implies_true, *, State.modCourse_keep, State.arrayFault_keep, State.addCycle_keep]

theorem creditEarlyReturn_keep {g : Course} (h : s.Keep Q) : (creditEarlyReturn g s).Keep Q := by
  unfold creditEarlyReturn
  dsimp only
  (repeat' split) <;> simp +contextual (maxDischargeDepth := 20) only [ite_keep, foldl_keep, keep_mk, keepOf_self, and_self,
      implies_true, *, State.modCourse_keep, State.giveBack_keep]

theorem residueVisit_keep {g : Course} {slot : Fin 32} {upset : List (Fin 8)} (h : s.Keep Q) : (residueVisit g slot
    upset s).Keep Q := by
  unfold residueVisit
  dsimp only
  (repeat' split) <;> simp +contextual (maxDischargeDepth := 20) only [ite_keep, foldl_keep, keep_mk, keepOf_self,
      and_self, implies_true, *, State.countC_keep, State.arrayFault_keep, State.arrayReports_keep]

theorem execPassBlockEnter_keep {g : Course} {e : List (Fin 8 × ArrayErr)} (h : s.Keep Q) : OutKeep Q
    (execPassBlockEnter g e s) := by
  simp +contextual (maxDischargeDepth := 20) only [execPassBlockEnter, ite_keep, foldl_keep,
      keep_mk, keepOf_self, and_self, implies_true, *, outKeep_next, outKeep_ite, passBlockEnter_keep,
      State.ifCourse_keep]

theorem execAccumulationStep_keep {g : Course} {j : Fin 8} (h : s.Keep Q) : OutKeep Q (execAccumulationStep g j s) :=
    by
  simp +contextual (maxDischargeDepth := 20) only [execAccumulationStep, ite_keep, foldl_keep,
      keep_mk, keepOf_self, and_self, implies_true, *, outKeep_next, outKeep_ite, accumulationStep_keep,
      State.ifCourse_keep]

theorem execCreditEarlyReturn_keep {g : Course} (h : s.Keep Q) : OutKeep Q (execCreditEarlyReturn g s) := by
  simp +contextual (maxDischargeDepth := 20) only [execCreditEarlyReturn, ite_keep, foldl_keep,
      keep_mk, keepOf_self, and_self, implies_true, *, outKeep_next, outKeep_ite, creditEarlyReturn_keep,
      State.ifCourse_keep]

theorem execResidueCheckVisit_keep {g : Course} {slot : Fin 32} {upset : List (Fin 8)} (h : s.Keep Q) : OutKeep Q
    (execResidueCheckVisit g slot upset s) := by
  simp +contextual (maxDischargeDepth := 20) only [execResidueCheckVisit, ite_keep, foldl_keep,
      keep_mk, keepOf_self, and_self, implies_true, *, outKeep_next, outKeep_ite, residueVisit_keep,
      State.ifCourse_keep]

/-! ### Builder -/

theorem State.damagedBytes_keep {g : Course} {i : Started} {bs : List (Byte × BitVec 16)} (h : s.Keep Q) :
    (State.damagedBytes s g i bs).Keep Q := by
  unfold State.damagedBytes
  (repeat' split) <;> simp +contextual (maxDischargeDepth := 20) only [ite_keep, foldl_keep, keep_mk, keepOf_self, and_self,
      implies_true, *, State.efirst_keep, State.instrPoison_keep]

theorem State.runLines_keep {g : Course} {i : Started} {o : BuildOp} {x : List (List TblLine) × State} (h : s.Keep Q)
    (hx : s.runLines g i o = some x) : x.2.Keep Q := by
  unfold State.runLines at hx
  dsimp only at hx
  split at hx
  · split at hx
    · cases hx
    · cases hx
      exact State.damagedBytes_keep (State.modCourse_keep h)
  · cases hx
    exact h
theorem State.writeRun_keep {g : Course} {i : Started} {o : BuildOp} (h : s.Keep Q) : (State.writeRun s g i o).Keep
    Q := by
  unfold State.writeRun
  split
  · exact h
  · have ht := State.runLines_keep h ‹_›
    dsimp only at ht ⊢
    split
    · exact State.instrDone_keep (State.modCourse_keep (State.countC_keep (State.modCourse_keep ht)))
    · exact State.modCourse_keep (State.countC_keep (State.modCourse_keep ht))

theorem State.halfLost_keep {g : Course} {half : Fin 2} (h : s.Keep Q) : (State.halfLost s g half).Keep Q := by
  simp +contextual (maxDischargeDepth := 20) only [State.halfLost, ite_keep, foldl_keep, keep_mk, keepOf_self, and_self,
      implies_true, *, State.modCourse_keep, State.failed_keep]

theorem State.buildCheck_keep {g : Course} {half : Fin 2} (h : s.Keep Q) : (State.buildCheck s g half).Keep Q := by
  simp +contextual (maxDischargeDepth := 20) only [State.buildCheck, ite_keep, foldl_keep, keep_mk, keepOf_self, and_self,
      implies_true, *, State.raiseCourse_keep, State.halfLost_keep]

theorem tblRunWritten_keep {g : Course} {bad : Option (Fin 2)} (h : s.Keep Q) : (tblRunWritten g bad s).Keep Q := by
  unfold tblRunWritten
  dsimp only
  (repeat' split) <;> simp +contextual (maxDischargeDepth := 20) only [ite_keep, foldl_keep, keep_mk, keepOf_self, and_self,
      implies_true, *, State.checkWindow_keep, State.writeRun_keep, State.buildCheck_keep]

theorem execTblRunWritten_keep {g : Course} {bad : Option (Fin 2)} (h : s.Keep Q) : OutKeep Q (execTblRunWritten g bad
    s) := by
  simp +contextual (maxDischargeDepth := 20) only [execTblRunWritten, ite_keep, foldl_keep,
      keep_mk, keepOf_self, and_self, implies_true, *, outKeep_next, outKeep_ite, tblRunWritten_keep,
      State.ifCourse_keep]

/-! ### Drain -/

theorem slotSwap_keep {g : Course} {j slot : Nat} (h : s.Keep Q) : (slotSwap g j slot s).Keep Q := by
  unfold slotSwap
  dsimp only
  (repeat' split) <;> simp +contextual (maxDischargeDepth := 20) only [ite_keep, foldl_keep, keep_mk, keepOf_self, and_self,
      implies_true, *, State.modCourse_keep, State.checkWindow_keep]

theorem drainRowRead_keep {g : Course} {j : Nat} {upset : Bool} (h : s.Keep Q) : (drainRowRead g j upset s).Keep Q
    := by
  unfold drainRowRead
  dsimp only
  (repeat' split) <;> simp +contextual (maxDischargeDepth := 20) only [ite_keep, foldl_keep, keep_mk, keepOf_self, and_self,
      implies_true, *, State.modCourse_keep, State.count_keep, State.countC_keep, State.store_keep, State.checkWindow_keep,
      State.instrPoison_keep, State.arrayFault_keep]

theorem drainComplete_keep {g : Course} (h : s.Keep Q) : (drainComplete g s).Keep Q := by
  unfold drainComplete
  dsimp only
  (repeat' split) <;> simp +contextual (maxDischargeDepth := 20) only [ite_keep, foldl_keep, keep_mk, keepOf_self, and_self,
      implies_true, *, State.modCourse_keep, State.checkWindow_keep, State.instrDone_keep]

theorem execSlotSwap_keep {g : Course} {j : Fin 8} {slot : Fin 32} (h : s.Keep Q) : OutKeep Q (execSlotSwap g j slot
    s) := by
  simp +contextual (maxDischargeDepth := 20) only [execSlotSwap, ite_keep, foldl_keep, keep_mk,
      keepOf_self, and_self, implies_true, *, outKeep_next, outKeep_ite, slotSwap_keep, State.ifCourse_keep]

theorem execDrainRowRead_keep {g : Course} {j : Fin 8} {upset : Bool} (h : s.Keep Q) : OutKeep Q (execDrainRowRead g j
    upset s) := by
  simp +contextual (maxDischargeDepth := 20) only [execDrainRowRead, ite_keep, foldl_keep, keep_mk,
      keepOf_self, and_self, implies_true, *, outKeep_next, outKeep_ite, drainRowRead_keep, State.ifCourse_keep]

theorem execDrainComplete_keep {g : Course} (h : s.Keep Q) : OutKeep Q (execDrainComplete g s) := by
  simp +contextual (maxDischargeDepth := 20) only [execDrainComplete, ite_keep, foldl_keep,
      keep_mk, keepOf_self, and_self, implies_true, *, outKeep_next, outKeep_ite, drainComplete_keep,
      State.ifCourse_keep]

/-! ### Parity -/

theorem issueParity_keep {g : Course} {w : BitVec 56} {t : State} (h : t.Keep Q) : Act.Keep Q (issueParity g w t) :=
    by
  unfold issueParity
  dsimp only
  (repeat' split) <;> simp +contextual (maxDischargeDepth := 20) only [ite_keep, foldl_keep, keep_mk, keepOf_self, and_self,
      implies_true, *, Act.keep_next, Act.keep_goto, Act.keep_stay, Act.keep_post, Act.keep_fault, Act.keep_faultIn,
      Act.keep_ite, State.submit_keep]

theorem State.parityOut_keep {g : Course} {o : ParityOp} {lines : List Nat} {j : Nat} (h : s.Keep Q) :
    (State.parityOut s g o lines j).Keep Q := by
  simp +contextual (maxDischargeDepth := 20) only [State.parityOut, ite_keep, foldl_keep, keep_mk,
      keepOf_self, and_self, implies_true, *, State.storeP_keep]

theorem State.parSing_keep {g : Course} {mask : Nat} (h : s.Keep Q) : (State.parSing s g mask).Keep Q := by
  simp +contextual (maxDischargeDepth := 20) only [State.parSing, ite_keep, foldl_keep, keep_mk, keepOf_self, and_self,
      implies_true, *, State.setReg_keep, State.orReg_keep]

theorem State.parityStep_keep {g : Course} {o : ParityOp} {n : Nat} (h : s.Keep Q) : (State.parityStep s g o n).Keep Q
    := by
  simp +contextual (maxDischargeDepth := 20) only [State.parityStep, ite_keep, foldl_keep, keep_mk, keepOf_self,
      and_self, implies_true, *, foldl_keep, State.countC_keep, State.parityOut_keep]

theorem State.runParity_keep {g : Course} {serial : Nat} {o : ParityOp} {err : Option EngineErr} (h : s.Keep Q) :
    (State.runParity s g serial o err).Keep Q := by
  unfold State.runParity
  try dsimp only
  (repeat' split) <;> simp +contextual (maxDischargeDepth := 20) only [ite_keep, foldl_keep, keep_mk, keepOf_self,
      and_self, implies_true, *, foldl_keep, State.modCourse_keep, State.countC_keep, State.instrFault_keep,
      State.instrDone_keep, State.arrayFault_keep, State.parSing_keep, State.parityStep_keep]

theorem execMsnParityEncode_keep {g : Course} {w : BitVec 56} (h : s.Keep Q) : OutKeep Q (execMsnParityEncode g w s)
    := by
  unfold execMsnParityEncode
  rw [outKeep_next]
  apply State.issueEngine_keep h
  intro t ht
  (try dsimp only)
  (repeat' split) <;> simp +contextual (maxDischargeDepth := 20) only [ite_keep, foldl_keep, keep_mk, keepOf_self, and_self,
      implies_true, *, outKeep_next, outKeep_ite, Act.keep_next, Act.keep_goto, Act.keep_stay, Act.keep_post, Act.keep_fault,
      Act.keep_faultIn, Act.keep_ite, State.issueEngine_keep, issueParity_keep]

theorem execMsnParityDecode_keep {g : Course} {w : BitVec 56} (h : s.Keep Q) : OutKeep Q (execMsnParityDecode g w s)
    := by
  unfold execMsnParityDecode
  rw [outKeep_next]
  apply State.issueEngine_keep h
  intro t ht
  (try dsimp only)
  (repeat' split) <;> simp +contextual (maxDischargeDepth := 20) only [ite_keep, foldl_keep, keep_mk, keepOf_self, and_self,
      implies_true, *, outKeep_next, outKeep_ite, Act.keep_next, Act.keep_goto, Act.keep_stay, Act.keep_post, Act.keep_fault,
      Act.keep_faultIn, Act.keep_ite, State.issueEngine_keep, issueParity_keep]

/-! ### Vector -/

theorem vecAddress_keep {l : List (Nat × Option Nat)} : Act.Keep Q (vecAddress l) := by
  unfold vecAddress
  trivial

theorem issueVecEl_keep {g : Course} {w : BitVec 56} {f : VecEl} (h : s.Keep Q) : Act.Keep Q (issueVecEl g w f s) :=
    by
  unfold issueVecEl
  dsimp only
  (repeat' split) <;> simp +contextual (maxDischargeDepth := 20) only [ite_keep, foldl_keep, keep_mk, keepOf_self,
      and_self, implies_true, *, Act.keep_next, Act.keep_goto, Act.keep_stay, Act.keep_post, Act.keep_fault,
      Act.keep_faultIn, Act.keep_ite, State.submit_keep, vecAddress_keep]

theorem issueVecCvt_keep {g : Course} {w : BitVec 56} (h : s.Keep Q) : Act.Keep Q (issueVecCvt g w s) := by
  unfold issueVecCvt
  dsimp only
  (repeat' split) <;> simp +contextual (maxDischargeDepth := 20) only [ite_keep, foldl_keep, keep_mk, keepOf_self,
      and_self, implies_true, *, Act.keep_next, Act.keep_goto, Act.keep_stay, Act.keep_post, Act.keep_fault,
      Act.keep_faultIn, Act.keep_ite, State.submit_keep, State.withRows_keep, vecAddress_keep]

theorem issueVecPadd_keep {g : Course} {w : BitVec 56} (h : s.Keep Q) : Act.Keep Q (issueVecPadd g w s) := by
  unfold issueVecPadd
  dsimp only
  (repeat' split) <;> simp +contextual (maxDischargeDepth := 20) only [ite_keep, foldl_keep, keep_mk, keepOf_self,
      and_self, implies_true, *, Act.keep_next, Act.keep_goto, Act.keep_stay, Act.keep_post, Act.keep_fault,
      Act.keep_faultIn, Act.keep_ite, State.submit_keep, State.withRows_keep, vecAddress_keep]

theorem issueVecSum_keep {g : Course} {w : BitVec 56} (h : s.Keep Q) : Act.Keep Q (issueVecSum g w s) := by
  unfold issueVecSum
  dsimp only
  (repeat' split) <;> simp +contextual (maxDischargeDepth := 20) only [ite_keep, foldl_keep, keep_mk, keepOf_self,
      and_self, implies_true, *, Act.keep_next, Act.keep_goto, Act.keep_stay, Act.keep_post, Act.keep_fault,
      Act.keep_faultIn, Act.keep_ite, State.submit_keep, vecAddress_keep]

theorem issueVecFn_keep {g : Course} {w : BitVec 56} (h : s.Keep Q) : Act.Keep Q (issueVecFn g w s) := by
  unfold issueVecFn
  dsimp only
  (repeat' split) <;> simp +contextual (maxDischargeDepth := 20) only [ite_keep, foldl_keep, keep_mk, keepOf_self,
      and_self, implies_true, *, Act.keep_next, Act.keep_goto, Act.keep_stay, Act.keep_post, Act.keep_fault,
      Act.keep_faultIn, Act.keep_ite, State.submit_keep, vecAddress_keep]

theorem issueVecQbw16_keep {g : Course} {w : BitVec 56} (h : s.Keep Q) : Act.Keep Q (issueVecQbw16 g w s) := by
  unfold issueVecQbw16
  dsimp only
  (repeat' split) <;> simp +contextual (maxDischargeDepth := 20) only [ite_keep, foldl_keep, keep_mk, keepOf_self,
      and_self, implies_true, *, Act.keep_next, Act.keep_goto, Act.keep_stay, Act.keep_post, Act.keep_fault,
      Act.keep_faultIn, Act.keep_ite, State.submit_keep, State.withRows_keep, vecAddress_keep]

theorem issueVecQidx_keep {g : Course} {w : BitVec 56} (h : s.Keep Q) : Act.Keep Q (issueVecQidx g w s) := by
  unfold issueVecQidx
  dsimp only
  (repeat' split) <;> simp +contextual (maxDischargeDepth := 20) only [ite_keep, foldl_keep, keep_mk, keepOf_self,
      and_self, implies_true, *, Act.keep_next, Act.keep_goto, Act.keep_stay, Act.keep_post, Act.keep_fault,
      Act.keep_faultIn, Act.keep_ite, State.submit_keep, State.withRows_keep, vecAddress_keep]

theorem State.runVecEl_keep {f : VecEl} {d a b c e : Nat} (h : s.Keep Q) : (State.runVecEl s f d a b c e).Keep Q :=
    by
  simp +contextual (maxDischargeDepth := 20) only [State.runVecEl, ite_keep, foldl_keep, keep_mk, keepOf_self, and_self,
      implies_true, *, State.store_keep]

theorem State.runVecCvt_keep {g : Course} {rows : Option Rows} {d a : Nat} {f : OutFmt} {nsat : Bool} {e : Nat} (h :
    s.Keep Q) : (State.runVecCvt s g rows d a f nsat e).Keep Q := by
  simp +contextual (maxDischargeDepth := 20) only [State.runVecCvt, ite_keep, foldl_keep, keep_mk, keepOf_self, and_self,
      implies_true, *, State.store_keep]

theorem State.raiseCodes_keep {g : Course} {q : QueueId} {serial : Nat} {unit : Byte} {sub : BitVec 4} {codes : List
    (BitVec 16)} (h : s.Keep Q) : (State.raiseCodes s g q serial unit sub codes).Keep Q := by
  simp +contextual (maxDischargeDepth := 20) only [State.raiseCodes, ite_keep, foldl_keep, keep_mk, keepOf_self, and_self,
      implies_true, *, State.instrFault_keep]

theorem State.runVecPadd_keep {g : Course} {serial : Nat} {rows : Option Rows} {o : PaddOp} (h : s.Keep Q) :
    (State.runVecPadd s g serial rows o).Keep Q := by
  simp +contextual (maxDischargeDepth := 20) only [State.runVecPadd, ite_keep, foldl_keep, keep_mk, keepOf_self, and_self,
      implies_true, *, State.countC_keep, State.store_keep, State.raiseCodes_keep]

theorem State.openSums_keep {l : List (Option Nat)} (h : s.Keep Q) : (s.openSums l).2.Keep Q := by
  induction l generalizing s with
  | nil => exact h
  | cons a l ih =>
    cases a with
    | none => exact ih (State.used_keep h)
    | some v => exact ih h
theorem State.runVecSum_keep {g : Course} {d src n rows rstride : Nat} {sq : Bool} (h : s.Keep Q) : (State.runVecSum
    s g d src n rows rstride sq).Keep Q := by
  simp +contextual (maxDischargeDepth := 20) only [State.runVecSum, ite_keep, foldl_keep, keep_mk, keepOf_self, and_self,
      implies_true, *, State.orReg_keep, State.store_keep, State.openSums_keep]

theorem State.runVecFn_keep {g : Course} {d src fn e : Nat} (h : s.Keep Q) : (State.runVecFn s g d src fn e).Keep Q
    := by
  simp +contextual (maxDischargeDepth := 20) only [State.runVecFn, ite_keep, foldl_keep, keep_mk, keepOf_self, and_self,
      implies_true, *, State.orReg_keep, State.store_keep]

theorem State.runVecQbw16_keep {g : Course} {serial : Nat} {rows : Option Rows} {o : Qbw16Op} (h : s.Keep Q) :
    (State.runVecQbw16 s g serial rows o).Keep Q := by
  simp +contextual (maxDischargeDepth := 20) only [State.runVecQbw16, ite_keep, foldl_keep, keep_mk, keepOf_self, and_self,
      implies_true, *, State.setReg_keep, State.orReg_keep, State.countC_keep, State.store_keep, State.instrFault_keep]

theorem State.qidxWrite_keep {o : QidxOp} {n x : Nat} {r : Nat × List Nat} (h : s.Keep Q) : (State.qidxWrite s o n x
    r).Keep Q := by
  simp +contextual (maxDischargeDepth := 20) only [State.qidxWrite, ite_keep, foldl_keep, keep_mk, keepOf_self, and_self,
      implies_true, *, State.storeN_keep]

theorem State.runVecQidx_keep {g : Course} {serial : Nat} {rows : Option Rows} {o : QidxOp} (h : s.Keep Q) :
    (State.runVecQidx s g serial rows o).Keep Q := by
  simp +contextual (maxDischargeDepth := 20) only [State.runVecQidx, ite_keep, foldl_keep, keep_mk, keepOf_self, and_self,
      implies_true, *, State.cleanLines_keep, State.instrFault_keep, State.qidxWrite_keep]

theorem State.runVec_keep {g : Course} {e : QEntry} (h : s.Keep Q) : (State.runVec s g e).Keep Q := by
  unfold State.runVec
  (repeat' split) <;> simp +contextual (maxDischargeDepth := 20) only [ite_keep, foldl_keep, keep_mk, keepOf_self, and_self,
      implies_true, *, State.instrDone_keep, State.runVecEl_keep, State.runVecCvt_keep, State.runVecPadd_keep,
      State.runVecSum_keep, State.runVecFn_keep, State.runVecQbw16_keep, State.runVecQidx_keep]

theorem execVecAdd_keep {g : Course} {w : BitVec 56} (h : s.Keep Q) : OutKeep Q (execVecAdd g w s) := by
  unfold execVecAdd
  rw [outKeep_next]
  apply State.issueEngine_keep h
  intro t ht
  (try dsimp only)
  (repeat' split) <;> simp +contextual (maxDischargeDepth := 20) only [ite_keep, foldl_keep, keep_mk, keepOf_self, and_self,
      implies_true, *, outKeep_next, outKeep_ite, Act.keep_next, Act.keep_goto, Act.keep_stay, Act.keep_post, Act.keep_fault,
      Act.keep_faultIn, Act.keep_ite, State.issueEngine_keep, issueVecEl_keep]

theorem execVecMul_keep {g : Course} {w : BitVec 56} (h : s.Keep Q) : OutKeep Q (execVecMul g w s) := by
  unfold execVecMul
  rw [outKeep_next]
  apply State.issueEngine_keep h
  intro t ht
  (try dsimp only)
  (repeat' split) <;> simp +contextual (maxDischargeDepth := 20) only [ite_keep, foldl_keep, keep_mk, keepOf_self, and_self,
      implies_true, *, outKeep_next, outKeep_ite, Act.keep_next, Act.keep_goto, Act.keep_stay, Act.keep_post, Act.keep_fault,
      Act.keep_faultIn, Act.keep_ite, State.issueEngine_keep, issueVecEl_keep]

theorem execVecFma_keep {g : Course} {w : BitVec 56} (h : s.Keep Q) : OutKeep Q (execVecFma g w s) := by
  unfold execVecFma
  rw [outKeep_next]
  apply State.issueEngine_keep h
  intro t ht
  (try dsimp only)
  (repeat' split) <;> simp +contextual (maxDischargeDepth := 20) only [ite_keep, foldl_keep, keep_mk, keepOf_self, and_self,
      implies_true, *, outKeep_next, outKeep_ite, Act.keep_next, Act.keep_goto, Act.keep_stay, Act.keep_post, Act.keep_fault,
      Act.keep_faultIn, Act.keep_ite, State.issueEngine_keep, issueVecEl_keep]

theorem execVecMax_keep {g : Course} {w : BitVec 56} (h : s.Keep Q) : OutKeep Q (execVecMax g w s) := by
  unfold execVecMax
  rw [outKeep_next]
  apply State.issueEngine_keep h
  intro t ht
  (try dsimp only)
  (repeat' split) <;> simp +contextual (maxDischargeDepth := 20) only [ite_keep, foldl_keep, keep_mk, keepOf_self, and_self,
      implies_true, *, outKeep_next, outKeep_ite, Act.keep_next, Act.keep_goto, Act.keep_stay, Act.keep_post, Act.keep_fault,
      Act.keep_faultIn, Act.keep_ite, State.issueEngine_keep, issueVecEl_keep]

theorem execVecMin_keep {g : Course} {w : BitVec 56} (h : s.Keep Q) : OutKeep Q (execVecMin g w s) := by
  unfold execVecMin
  rw [outKeep_next]
  apply State.issueEngine_keep h
  intro t ht
  (try dsimp only)
  (repeat' split) <;> simp +contextual (maxDischargeDepth := 20) only [ite_keep, foldl_keep, keep_mk, keepOf_self, and_self,
      implies_true, *, outKeep_next, outKeep_ite, Act.keep_next, Act.keep_goto, Act.keep_stay, Act.keep_post, Act.keep_fault,
      Act.keep_faultIn, Act.keep_ite, State.issueEngine_keep, issueVecEl_keep]

theorem execVecCvt_keep {g : Course} {w : BitVec 56} (h : s.Keep Q) : OutKeep Q (execVecCvt g w s) := by
  unfold execVecCvt
  rw [outKeep_next]
  apply State.issueEngine_keep h
  intro t ht
  (try dsimp only)
  (repeat' split) <;> simp +contextual (maxDischargeDepth := 20) only [ite_keep, foldl_keep, keep_mk, keepOf_self, and_self,
      implies_true, *, outKeep_next, outKeep_ite, Act.keep_next, Act.keep_goto, Act.keep_stay, Act.keep_post, Act.keep_fault,
      Act.keep_faultIn, Act.keep_ite, State.issueEngine_keep, issueVecCvt_keep]

theorem execVecPadd_keep {g : Course} {w : BitVec 56} (h : s.Keep Q) : OutKeep Q (execVecPadd g w s) := by
  unfold execVecPadd
  rw [outKeep_next]
  apply State.issueEngine_keep h
  intro t ht
  (try dsimp only)
  (repeat' split) <;> simp +contextual (maxDischargeDepth := 20) only [ite_keep, foldl_keep, keep_mk, keepOf_self, and_self,
      implies_true, *, outKeep_next, outKeep_ite, Act.keep_next, Act.keep_goto, Act.keep_stay, Act.keep_post, Act.keep_fault,
      Act.keep_faultIn, Act.keep_ite, State.issueEngine_keep, issueVecPadd_keep]

theorem execVecSum_keep {g : Course} {w : BitVec 56} (h : s.Keep Q) : OutKeep Q (execVecSum g w s) := by
  unfold execVecSum
  rw [outKeep_next]
  apply State.issueEngine_keep h
  intro t ht
  (try dsimp only)
  (repeat' split) <;> simp +contextual (maxDischargeDepth := 20) only [ite_keep, foldl_keep, keep_mk, keepOf_self, and_self,
      implies_true, *, outKeep_next, outKeep_ite, Act.keep_next, Act.keep_goto, Act.keep_stay, Act.keep_post, Act.keep_fault,
      Act.keep_faultIn, Act.keep_ite, State.issueEngine_keep, issueVecSum_keep]

theorem execVecFn_keep {g : Course} {w : BitVec 56} (h : s.Keep Q) : OutKeep Q (execVecFn g w s) := by
  unfold execVecFn
  rw [outKeep_next]
  apply State.issueEngine_keep h
  intro t ht
  (try dsimp only)
  (repeat' split) <;> simp +contextual (maxDischargeDepth := 20) only [ite_keep, foldl_keep, keep_mk, keepOf_self, and_self,
      implies_true, *, outKeep_next, outKeep_ite, Act.keep_next, Act.keep_goto, Act.keep_stay, Act.keep_post, Act.keep_fault,
      Act.keep_faultIn, Act.keep_ite, State.issueEngine_keep, issueVecFn_keep]

theorem execVecQbw16_keep {g : Course} {w : BitVec 56} (h : s.Keep Q) : OutKeep Q (execVecQbw16 g w s) := by
  unfold execVecQbw16
  rw [outKeep_next]
  apply State.issueEngine_keep h
  intro t ht
  (try dsimp only)
  (repeat' split) <;> simp +contextual (maxDischargeDepth := 20) only [ite_keep, foldl_keep, keep_mk, keepOf_self, and_self,
      implies_true, *, outKeep_next, outKeep_ite, Act.keep_next, Act.keep_goto, Act.keep_stay, Act.keep_post, Act.keep_fault,
      Act.keep_faultIn, Act.keep_ite, State.issueEngine_keep, issueVecQbw16_keep]

theorem execVecQidx_keep {g : Course} {w : BitVec 56} (h : s.Keep Q) : OutKeep Q (execVecQidx g w s) := by
  unfold execVecQidx
  rw [outKeep_next]
  apply State.issueEngine_keep h
  intro t ht
  (try dsimp only)
  (repeat' split) <;> simp +contextual (maxDischargeDepth := 20) only [ite_keep, foldl_keep, keep_mk, keepOf_self, and_self,
      implies_true, *, outKeep_next, outKeep_ite, Act.keep_next, Act.keep_goto, Act.keep_stay, Act.keep_post, Act.keep_fault,
      Act.keep_faultIn, Act.keep_ite, State.issueEngine_keep, issueVecQidx_keep]

/-! ### Fwu -/

theorem issueFwuMm_keep {g : Course} {w : BitVec 56} {t : State} (h : t.Keep Q) : Act.Keep Q (issueFwuMm g w t) :=
    by
  unfold issueFwuMm
  dsimp only
  (repeat' split) <;> simp +contextual (maxDischargeDepth := 20) only [ite_keep, foldl_keep, keep_mk, keepOf_self, and_self,
      implies_true, *, Act.keep_next, Act.keep_goto, Act.keep_stay, Act.keep_post, Act.keep_fault, Act.keep_faultIn,
      Act.keep_ite, State.submit_keep]

theorem State.fwuDead_keep {g : Course} {serial : Nat} (h : s.Keep Q) : (State.fwuDead s g serial).Keep Q := by
  simp +contextual (maxDischargeDepth := 20) only [State.fwuDead, ite_keep, foldl_keep, keep_mk, keepOf_self, and_self,
      implies_true, *, State.instrPoison_keep, State.instrDone_keep, State.raiseRel_keep]

theorem fwuAccept_keep {g : Course} (h : s.Keep Q) : (fwuAccept g s).Keep Q := by
  unfold fwuAccept
  dsimp only
  (repeat' split) <;> simp +contextual (maxDischargeDepth := 20) only [ite_keep, foldl_keep, keep_mk, keepOf_self,
      and_self, implies_true, *, State.modCourse_keep, State.modCDie_keep, State.fwuDead_keep, State.tick_keep]

theorem State.fwuDiscard_keep {g : Course} {i : Started} (h : s.Keep Q) : (State.fwuDiscard s g i).Keep Q := by
  simp +contextual (maxDischargeDepth := 20) only [State.fwuDiscard, ite_keep, foldl_keep, keep_mk, keepOf_self, and_self,
      implies_true, *, State.modCourse_keep, State.raiseWith_keep, State.efirst_keep, State.settle_keep]

theorem State.fwuRefill_keep {u : CDie} (h : s.Keep Q) : (State.fwuRefill s u).Keep Q := by
  simp +contextual (maxDischargeDepth := 20) only [State.fwuRefill, ite_keep, foldl_keep, keep_mk, keepOf_self,
      and_self, implies_true, *, foldl_keep, State.modCDie_keep]

theorem State.fwuEnd_keep {f : FwuEntry} (h : s.Keep Q) : (State.fwuEnd s f).Keep Q := by
  unfold State.fwuEnd
  (repeat' split) <;> simp +contextual (maxDischargeDepth := 20) only [ite_keep, foldl_keep, keep_mk, keepOf_self,
      and_self, implies_true, *, State.modCourse_keep, State.fwuDead_keep]

theorem State.fwuLost_keep {u : CDie} (h : s.Keep Q) : (State.fwuLost s u).Keep Q := by
  simp +contextual (maxDischargeDepth := 20) only [State.fwuLost, ite_keep, foldl_keep, keep_mk,
      keepOf_self, and_self, implies_true, *, State.modCDie_keep, State.failed_keep, State.raiseRel_keep,
      State.fwuDead_keep, State.fwuRefill_keep, State.fwuEnd_keep]

theorem State.fwuChecks_keep {u : CDie} {fails : Nat} (h : s.Keep Q) : (State.fwuChecks s u fails).Keep Q := by
  simp +contextual (maxDischargeDepth := 20) only [State.fwuChecks, ite_keep, foldl_keep, keep_mk, keepOf_self, and_self,
      implies_true, *, State.count_keep, State.raiseWith_keep, State.fwuLost_keep]

theorem State.runTile_keep {o : MmOp} {k : Nat} (h : s.Keep Q) : (State.runTile s o k).Keep Q := by
  simp +contextual (maxDischargeDepth := 20) only [State.runTile, ite_keep, foldl_keep, keep_mk, keepOf_self, and_self,
      implies_true, *, State.store_keep]

theorem State.fwuTiles_keep {u : CDie} {f : FwuEntry} {o : MmOp} {n k : Nat} {fails : List (Fin 4)} (h : s.Keep Q) :
    (State.fwuTiles u f o n k fails s).Keep Q := by
  induction n generalizing s k fails with
  | zero => exact State.instrDone_keep (State.modCDie_keep h)
  | succ n ih =>
    unfold State.fwuTiles
    dsimp only
    split
    · exact State.fwuLost_keep (State.modCDie_keep (State.fwuChecks_keep h))
    · exact ih (State.count_keep (State.runTile_keep (State.fwuChecks_keep h)))

theorem State.fwuRunNow_keep {u : CDie} {f : FwuEntry} {o : MmOp} {n : Nat} {src : CreditSrc} {fails : List (Fin 4)}
    (h : s.Keep Q) : (State.fwuRunNow s u f o n src fails).Keep Q := by
  simp +contextual (maxDischargeDepth := 20) only [State.fwuRunNow, ite_keep, foldl_keep, keep_mk,
      keepOf_self, and_self, implies_true, *, State.modCourse_keep, State.count_keep, State.modCDie_keep,
      State.instrDone_keep, State.fwuTiles_keep, State.fwuChecks_keep]

theorem State.fwuPresent_keep {u : CDie} {f : FwuEntry} {i : Started} (h : s.Keep Q) : (State.fwuPresent s u f
    i).Keep Q := by
  simp +contextual (maxDischargeDepth := 20) only [State.fwuPresent, ite_keep, foldl_keep, keep_mk, keepOf_self, and_self,
      implies_true, *, State.tick_keep, State.modCDie_keep, State.fwuDiscard_keep]

theorem State.fwuTry_keep {u : CDie} {f : FwuEntry} {fails : List (Fin 4)} (h : s.Keep Q) : (State.fwuTry s u f
    fails).Keep Q := by
  unfold State.fwuTry
  (repeat' split) <;> simp +contextual (maxDischargeDepth := 20) only [ite_keep, foldl_keep, keep_mk, keepOf_self,
      and_self, implies_true, *, State.modCourse_keep, State.modCDie_keep, State.fwuRunNow_keep,
      State.fwuPresent_keep]

theorem fwuMmRun_keep {u : CDie} {fails : List (Fin 4)} (h : s.Keep Q) : (fwuMmRun u fails s).Keep Q := by
  unfold fwuMmRun
  (repeat' split) <;> simp +contextual (maxDischargeDepth := 20) only [ite_keep, foldl_keep, keep_mk, keepOf_self,
      and_self, implies_true, *, State.modCDie_keep, State.fwuTry_keep, State.fwuRefill_keep]

theorem execFwuMm_keep {g : Course} {w : BitVec 56} (h : s.Keep Q) : OutKeep Q (execFwuMm g w s) := by
  unfold execFwuMm
  rw [outKeep_next]
  apply State.issueEngine_keep h
  intro t ht
  (try dsimp only)
  (repeat' split) <;> simp +contextual (maxDischargeDepth := 20) only [ite_keep, foldl_keep, keep_mk, keepOf_self, and_self,
      implies_true, *, outKeep_next, outKeep_ite, Act.keep_next, Act.keep_goto, Act.keep_stay, Act.keep_post, Act.keep_fault,
      Act.keep_faultIn, Act.keep_ite, State.issueEngine_keep, issueFwuMm_keep]

theorem execFwuMmRun_keep {d : CDie} {fails : List (Fin 4)} (h : s.Keep Q) : OutKeep Q (execFwuMmRun d fails s) := by
  simp +contextual (maxDischargeDepth := 20) only [execFwuMmRun, ite_keep, foldl_keep, keep_mk,
      keepOf_self, and_self, implies_true, *, outKeep_next, outKeep_ite, fwuMmRun_keep, State.ifDie_keep]

end Sys2Proof.Machine
end

