-- ==== Sys2Proof/Laws/KeepStream.lean ====
section
/-! SUPPORT. KeepStream: what the operations of Machine/Streams, Bamong keep (see Keep). -/

set_option linter.unusedSimpArgs false
set_option linter.unusedTactic false
set_option linter.unreachableTactic false
set_option linter.unnecessarySeqFocus false
set_option linter.unusedVariables false

namespace Sys2Proof.Machine

variable {Q : Kept} {s t : State}

/-! ### Streams -/

theorem State.modStream_keep {g : Course} {n : Nat} {f : Stream → Stream} (h : s.Keep Q) : (State.modStream s g n
    f).Keep Q := by
  simp +contextual (maxDischargeDepth := 20) only [State.modStream, ite_keep, foldl_keep, keep_mk, keepOf_self, and_self,
      implies_true, *, State.modCourse_keep]

theorem State.raiseStr_keep {g : Course} {code : BitVec 16} {info : Option DWord} (h : s.Keep Q) : (State.raiseStr s
    g code info).Keep Q := by
  simp +contextual (maxDischargeDepth := 20) only [State.raiseStr, ite_keep, foldl_keep, keep_mk, keepOf_self, and_self,
      implies_true, *, State.raiseCourse_keep]

theorem State.sendCredit_keep {g : Course} {n : Nat} {l : BitVec 16} {len : Nat} (h : s.Keep Q) : (State.sendCredit
    s g n l len).Keep Q := by
  simp +contextual (maxDischargeDepth := 20) only [State.sendCredit, ite_keep, foldl_keep, keep_mk, keepOf_self, and_self,
      implies_true, *, State.send_keep]

theorem State.fillTlb_keep {g : Course} {e : TlbEntry} (h : s.Keep Q) : (State.fillTlb s g e).Keep Q := by
  simp +contextual (maxDischargeDepth := 20) only [State.fillTlb, ite_keep, foldl_keep, keep_mk, keepOf_self, and_self,
      implies_true, *, State.modCourse_keep, State.used_keep]

theorem State.translate_keep {g : Course} {write : Bool} {va : Nat} (h : s.Keep Q) : (State.translate s g write
    va).1.Keep Q := by
  unfold State.translate
  dsimp only
  (repeat' split) <;> simp +contextual (maxDischargeDepth := 20) only [ite_keep, foldl_keep, keep_mk, keepOf_self, and_self,
      implies_true, *, State.countC_keep, State.fillTlb_keep]

theorem State.resolve_keep {g : Course} {d : Desc} {far len : Nat} (h : s.Keep Q) : (State.resolve s g d far
    len).1.Keep Q := by
  unfold State.resolve
  dsimp only
  (repeat' split) <;> simp +contextual (maxDischargeDepth := 20) only [ite_keep, foldl_keep, keep_mk, keepOf_self, and_self,
      implies_true, *, State.store_keep, State.translate_keep]

theorem State.readMarked_keep {a n : Nat} (h : s.Keep Q) : (State.readMarked s a n).2.Keep Q := by
  refine foldl_keep_snd ?_ h
  intro t a ht
  exact State.readAny_keep ht

theorem State.writeMarked_keep {a : Nat} {bs : List (Byte × Bool)} (h : s.Keep Q) : (State.writeMarked s a bs).Keep
    Q := by
  simp +contextual (maxDischargeDepth := 20) only [State.writeMarked, ite_keep, foldl_keep, keep_mk, keepOf_self, and_self,
      implies_true, *, State.writeAny_keep]

theorem State.hostFault_keep {code : BitVec 16} {fn : Fin 5} {bar addr : Nat} (h : s.Keep Q) : (State.hostFault s
    code fn bar addr).Keep Q := by
  simp +contextual (maxDischargeDepth := 20) only [State.hostFault, ite_keep, foldl_keep, keep_mk, keepOf_self, and_self,
      implies_true, *, State.count_keep, State.raiseWith_keep, State.capture1_keep]

theorem State.hostWrite_keep {g : Course} {a : Nat} {bs : List (Byte × Bool)} (h : s.Keep Q) : (State.hostWrite s g
    a bs).Keep Q := by
  simp +contextual (maxDischargeDepth := 20) only [State.hostWrite, ite_keep, foldl_keep, keep_mk, keepOf_self, and_self,
      implies_true, *, State.emit_keep, State.hostFault_keep]

theorem State.feedLine_keep {g : Course} {n : Nat} {tbl : Bool} {t : Transfer} (h : s.Keep Q) : (State.feedLine s g
    n tbl t).Keep Q := by
  simp +contextual (maxDischargeDepth := 20) only [State.feedLine, ite_keep, foldl_keep, keep_mk, keepOf_self, and_self,
      implies_true, *, State.modCourse_keep, State.readMarked_keep]

theorem State.free_keep {g : Course} {n : Nat} (h : s.Keep Q) : (State.free s g n).Keep Q := by
  simp +contextual (maxDischargeDepth := 20) only [State.free, ite_keep, foldl_keep, keep_mk, keepOf_self, and_self,
      implies_true, *, State.modCourse_keep, State.feedLine_keep]

theorem State.taskAbort_keep {g : Course} {code : BitVec 16} (h : s.Keep Q) : (State.taskAbort s g code).Keep Q :=
    by
  simp +contextual (maxDischargeDepth := 20) only [State.taskAbort, ite_keep, foldl_keep, keep_mk, keepOf_self, and_self,
      implies_true, *, State.setReg_keep, State.modCourse_keep, State.enterFaulted_keep, State.settle_keep,
      State.flushAll_keep, State.free_keep]

theorem State.haltStream_keep {g : Course} {n : Nat} {cause : HaltCause} {addr : Nat} (h : s.Keep Q) :
    (State.haltStream s g n cause addr).Keep Q := by
  simp +contextual (maxDischargeDepth := 20) only [State.haltStream, ite_keep, foldl_keep, keep_mk, keepOf_self, and_self,
      implies_true, *, State.irqCourse_keep, State.capture1_keep, State.modStream_keep, State.raiseStr_keep,
      State.taskAbort_keep]

theorem State.startPass_keep {g : Course} {n : Nat} {base : Nat} (h : s.Keep Q) : (State.startPass s g n base).Keep
    Q := by
  unfold State.startPass
  (repeat' split) <;> simp +contextual (maxDischargeDepth := 20) only [ite_keep, foldl_keep, keep_mk, keepOf_self, and_self,
      implies_true, *, State.modCourse_keep, State.emit_keep, State.modStream_keep]

theorem State.passEnd_keep {g : Course} {n : Nat} (h : s.Keep Q) : (State.passEnd s g n).Keep Q := by
  unfold State.passEnd
  dsimp only
  (repeat' split) <;> simp +contextual (maxDischargeDepth := 20) only [ite_keep, foldl_keep, keep_mk, keepOf_self, and_self,
      implies_true, *, State.modCourse_keep, State.settle_keep, State.modStream_keep, State.startPass_keep]

theorem State.endIfSpent_keep {g : Course} {n : Nat} (h : s.Keep Q) : (State.endIfSpent s g n).Keep Q := by
  simp +contextual (maxDischargeDepth := 20) only [State.endIfSpent, ite_keep, foldl_keep, keep_mk, keepOf_self, and_self,
      implies_true, *, State.passEnd_keep]

theorem State.walkOn_keep {g : Course} {n : Nat} (h : s.Keep Q) : (State.walkOn s g n).Keep Q := by
  unfold State.walkOn
  dsimp only
  (repeat' split) <;> simp +contextual (maxDischargeDepth := 20) only [ite_keep, foldl_keep, keep_mk, keepOf_self, and_self,
      implies_true, *, State.used_keep, State.emit_keep, State.modStream_keep, State.haltStream_keep]

theorem State.formMem_keep {g : Course} {n : Nat} {d : Desc} (h : s.Keep Q) : (State.formMem s g n d).Keep Q := by
  unfold State.formMem
  dsimp only
  (repeat' split) <;> simp +contextual (maxDischargeDepth := 20) only [ite_keep, foldl_keep, keep_mk, keepOf_self, and_self,
      implies_true, *, State.emit_keep, State.store_keep, State.modStream_keep, State.resolve_keep, State.haltStream_keep]

theorem State.formFeed_keep {g : Course} {n : Nat} {d : Desc} (h : s.Keep Q) : (State.formFeed s g n d).Keep Q := by
  unfold State.formFeed
  dsimp only
  (repeat' split) <;> simp +contextual (maxDischargeDepth := 20) only [ite_keep, foldl_keep, keep_mk, keepOf_self, and_self,
      implies_true, *, State.modStream_keep]

theorem transferForm_keep {g : Course} {n : Nat} (h : s.Keep Q) : (transferForm g n s).Keep Q := by
  unfold transferForm
  dsimp only
  (repeat' split) <;> simp +contextual (maxDischargeDepth := 20) only [ite_keep, foldl_keep, keep_mk, keepOf_self, and_self,
      implies_true, *, State.endIfSpent_keep, State.walkOn_keep, State.formMem_keep, State.formFeed_keep]

theorem State.progress_keep {g : Course} {n len : Nat} (h : s.Keep Q) : (State.progress s g n len).Keep Q := by
  unfold State.progress
  dsimp only
  (repeat' split) <;> simp +contextual (maxDischargeDepth := 20) only [ite_keep, foldl_keep, keep_mk, keepOf_self, and_self,
      implies_true, *, State.modCourse_keep, State.settle_keep, State.modStream_keep]

theorem State.returnCredit_keep {g : Course} {n len : Nat} {d : Desc} (h : s.Keep Q) : (State.returnCredit s g n len
    d).Keep Q := by
  simp +contextual (maxDischargeDepth := 20) only [State.returnCredit, ite_keep, foldl_keep, keep_mk, keepOf_self, and_self,
      implies_true, *, State.sendCredit_keep]

theorem State.moveData_keep {g : Course} {t : Transfer} (h : s.Keep Q) : (State.moveData s g t).Keep Q := by
  simp +contextual (maxDischargeDepth := 20) only [State.moveData, ite_keep, foldl_keep, keep_mk, keepOf_self, and_self,
      implies_true, *, State.store_keep, State.readMarked_keep, State.writeMarked_keep, State.hostWrite_keep]

theorem transferComplete_keep {g : Course} {n : Nat} (h : s.Keep Q) : (transferComplete g n s).Keep Q := by
  unfold transferComplete
  dsimp only
  (repeat' split) <;> simp +contextual (maxDischargeDepth := 20) only [ite_keep, foldl_keep, keep_mk, keepOf_self, and_self,
      implies_true, *, State.countC_keep, State.modStream_keep, State.feedLine_keep, State.endIfSpent_keep,
      State.progress_keep, State.returnCredit_keep, State.moveData_keep]

theorem ringCredit_keep {g : Course} {n : Nat} (h : s.Keep Q) : (ringCredit g n s).Keep Q := by
  unfold ringCredit
  refine State.arrive_keep h ?_
  intro t m ht
  (try dsimp only)
  (repeat' split) <;> simp +contextual (maxDischargeDepth := 20) only [ite_keep, foldl_keep, keep_mk, keepOf_self, and_self,
      implies_true, *, State.modCourse_keep, State.arrive_keep, State.modStream_keep]

theorem State.strRelease_keep {g : Course} {n : Nat} (h : s.Keep Q) : (State.strRelease s g n).Keep Q := by
  unfold State.strRelease
  dsimp only
  (repeat' split) <;> simp +contextual (maxDischargeDepth := 20) only [ite_keep, foldl_keep, keep_mk, keepOf_self, and_self,
      implies_true, *, State.modCourse_keep, State.settle_keep, State.free_keep]

theorem State.strResume_keep {g : Course} {n : Nat} (h : s.Keep Q) : (State.strResume s g n).Keep Q := by
  unfold State.strResume
  dsimp only
  (repeat' split) <;> simp +contextual (maxDischargeDepth := 20) only [ite_keep, foldl_keep, keep_mk, keepOf_self, and_self,
      implies_true, *, State.modStream_keep, State.resolve_keep, State.haltStream_keep, State.walkOn_keep]

theorem State.strFault_keep {g : Course} {serial : Nat} {code : BitVec 16} (h : s.Keep Q) : (State.strFault s g
    serial code).Keep Q := by
  simp +contextual (maxDischargeDepth := 20) only [State.strFault, ite_keep, foldl_keep, keep_mk, keepOf_self, and_self,
      implies_true, *, State.instrFault_keep]

theorem State.strArm_keep {g : Course} {serial n addr : Nat} {persist : Bool} (h : s.Keep Q) : (State.strArm s g
    serial n addr persist).Keep Q := by
  unfold State.strArm
  dsimp only
  (repeat' split) <;> simp +contextual (maxDischargeDepth := 20) only [ite_keep, foldl_keep, keep_mk, keepOf_self, and_self,
      implies_true, *, State.modCourse_keep, State.free_keep, State.startPass_keep, State.strFault_keep]

theorem State.strRearm_keep {g : Course} {serial n base : Nat} (h : s.Keep Q) : OptKeep Q (State.strRearm s g serial
    n base) := by
  unfold State.strRearm
  dsimp only
  (repeat' split) <;> simp +contextual (maxDischargeDepth := 20) only [ite_keep, foldl_keep, keep_mk, keepOf_self, and_self,
      implies_true, *, optKeep_some, optKeep_none, optKeep_ite, State.modStream_keep, State.startPass_keep,
      State.strFault_keep]

theorem State.walkLoad_keep {g : Course} {serial n addr len : Nat} (h : s.Keep Q) : (State.walkLoad s g serial n
    addr len).Keep Q := by
  unfold State.walkLoad
  dsimp only
  (repeat' split) <;> simp +contextual (maxDischargeDepth := 20) only [ite_keep, foldl_keep, keep_mk, keepOf_self, and_self,
      implies_true, *, State.modStream_keep, State.free_keep, State.strFault_keep]

theorem State.runStr_keep {g : Course} {e : QEntry} (h : s.Keep Q) : OptKeep Q (State.runStr s g e) := by
  unfold State.runStr
  (repeat' split) <;> simp +contextual (maxDischargeDepth := 20) only [ite_keep, foldl_keep, keep_mk, keepOf_self, and_self,
      implies_true, *, optKeep_some, optKeep_none, optKeep_ite, State.strResume_keep, State.strArm_keep, State.strRearm_keep,
      State.walkLoad_keep]

theorem CourseState.badStream_keep {c : CourseState} {w : BitVec 56} : Act.Keep Q (CourseState.badStream c w) := by
  simp +contextual (maxDischargeDepth := 20) only [CourseState.badStream, ite_keep, foldl_keep, keep_mk, keepOf_self,
      and_self, implies_true, *, Act.keep_next, Act.keep_goto, Act.keep_stay, Act.keep_post, Act.keep_fault,
      Act.keep_faultIn, Act.keep_ite]

theorem issueStr_keep {g : Course} {w : BitVec 56} {mk : StreamId → EngineOp} (h : s.Keep Q) : Act.Keep Q (issueStr g
    w mk s) := by
  unfold issueStr
  (repeat' split) <;> simp +contextual (maxDischargeDepth := 20) only [ite_keep, foldl_keep, keep_mk, keepOf_self,
      and_self, implies_true, *, Act.keep_next, Act.keep_goto, Act.keep_stay, Act.keep_post, Act.keep_fault,
      Act.keep_faultIn, Act.keep_ite, State.submit_keep, CourseState.badStream_keep]

theorem issueStrAt_keep {g : Course} {w : BitVec 56} {n : Nat} {align : Nat} {mk : StreamId → Nat → EngineOp} (h :
    s.Keep Q) : Act.Keep Q (issueStrAt g w n align mk s) := by
  unfold issueStrAt
  (repeat' split) <;> simp +contextual (maxDischargeDepth := 20) only [ite_keep, foldl_keep, keep_mk, keepOf_self,
      and_self, implies_true, *, Act.keep_next, Act.keep_goto, Act.keep_stay, Act.keep_post, Act.keep_fault,
      Act.keep_faultIn, Act.keep_ite, State.submit_keep, CourseState.badStream_keep]

theorem State.stall_keep {g : Course} (h : s.Keep Q) : (State.stall s g).Keep Q := by
  simp +contextual (maxDischargeDepth := 20) only [State.stall, ite_keep, foldl_keep, keep_mk, keepOf_self, and_self,
      implies_true, *, State.orReg_keep, State.raiseStr_keep]

theorem State.demandStall_keep {g : Course} {d old : Option (Nat × Nat)} {mark : StreamEngine → StreamEngine} (h :
    s.Keep Q) : (State.demandStall s g d old mark).Keep Q := by
  simp +contextual (maxDischargeDepth := 20) only [State.demandStall, ite_keep, foldl_keep, keep_mk, keepOf_self, and_self,
      implies_true, *, State.modCourse_keep, State.stall_keep]

theorem stallLimitExpiry_keep {g : Course} {w : StallWaiter} (h : s.Keep Q) : (stallLimitExpiry g w s).Keep Q := by
  unfold stallLimitExpiry
  (repeat' split) <;> simp +contextual (maxDischargeDepth := 20) only [ite_keep, foldl_keep, keep_mk, keepOf_self, and_self,
      implies_true, *, State.modCourse_keep, State.demandStall_keep]

theorem State.freezeCourse_keep {k : Nat} {cycle : List (Nat × Nat)} (h : s.Keep Q) : (State.freezeCourse s k
    cycle).Keep Q := by
  simp +contextual (maxDischargeDepth := 20) only [State.freezeCourse, ite_keep, foldl_keep, keep_mk, keepOf_self, and_self,
      implies_true, *, State.modCourse_keep, State.ctlStop_keep, State.modStream_keep]

theorem State.deadlock_keep {head : Nat × Nat} {cycle : List (Nat × Nat)} (h : s.Keep Q) : (State.deadlock s head
    cycle).Keep Q := by
  simp +contextual (maxDischargeDepth := 20) only [State.deadlock, ite_keep, foldl_keep, keep_mk, keepOf_self, and_self,
      implies_true, *, State.setReg_keep, State.orReg_keep, State.raiseStr_keep, State.freezeCourse_keep]

theorem deadlockProbeHop_keep {g : Course} (h : s.Keep Q) : (deadlockProbeHop g s).Keep Q := by
  unfold deadlockProbeHop
  dsimp only
  (repeat' split) <;> simp +contextual (maxDischargeDepth := 20) only [ite_keep, foldl_keep, keep_mk, keepOf_self, and_self,
      implies_true, *, State.modCourse_keep, State.modStream_keep, State.stall_keep, State.deadlock_keep]

theorem State.wrOutstanding_keep {g : Course} {v : Word} (h : s.Keep Q) : (State.wrOutstanding s g v).Keep Q := by
  simp +contextual (maxDischargeDepth := 20) only [State.wrOutstanding, ite_keep, foldl_keep, keep_mk, keepOf_self,
      and_self, implies_true, *, State.setReg_keep]

theorem State.tlbInv_keep {g : Course} (h : s.Keep Q) : (State.tlbInv s g).Keep Q := by
  simp +contextual (maxDischargeDepth := 20) only [State.tlbInv, ite_keep, foldl_keep, keep_mk, keepOf_self, and_self,
      implies_true, *, State.modCourse_keep]

theorem State.wrStrCmd_keep {g : Course} {v : Word} (h : s.Keep Q) : (State.wrStrCmd s g v).Keep Q := by
  unfold State.wrStrCmd
  (repeat' split) <;> simp +contextual (maxDischargeDepth := 20) only [ite_keep, foldl_keep, keep_mk, keepOf_self, and_self,
      implies_true, *, State.strRelease_keep, State.strResume_keep]

theorem execStrArm_keep {g : Course} {w : BitVec 56} (h : s.Keep Q) : OutKeep Q (execStrArm g w s) := by
  unfold execStrArm
  rw [outKeep_next]
  apply State.issueEngine_keep h
  intro t ht
  (try dsimp only)
  (repeat' split) <;> simp +contextual (maxDischargeDepth := 20) only [ite_keep, foldl_keep, keep_mk, keepOf_self, and_self,
      implies_true, *, outKeep_next, outKeep_ite, Act.keep_next, Act.keep_goto, Act.keep_stay, Act.keep_post, Act.keep_fault,
      Act.keep_faultIn, Act.keep_ite, State.issueEngine_keep, State.strArm_keep, issueStrAt_keep]

theorem execStrRearm_keep {g : Course} {w : BitVec 56} (h : s.Keep Q) : OutKeep Q (execStrRearm g w s) := by
  unfold execStrRearm
  rw [outKeep_next]
  apply State.issueEngine_keep h
  intro t ht
  (try dsimp only)
  (repeat' split) <;> simp +contextual (maxDischargeDepth := 20) only [ite_keep, foldl_keep, keep_mk, keepOf_self, and_self,
      implies_true, *, outKeep_next, outKeep_ite, Act.keep_next, Act.keep_goto, Act.keep_stay, Act.keep_post, Act.keep_fault,
      Act.keep_faultIn, Act.keep_ite, State.issueEngine_keep, State.strRearm_keep, issueStr_keep]

theorem execStrResume_keep {g : Course} {w : BitVec 56} (h : s.Keep Q) : OutKeep Q (execStrResume g w s) := by
  unfold execStrResume
  rw [outKeep_next]
  apply State.issueEngine_keep h
  intro t ht
  (try dsimp only)
  (repeat' split) <;> simp +contextual (maxDischargeDepth := 20) only [ite_keep, foldl_keep, keep_mk, keepOf_self, and_self,
      implies_true, *, outKeep_next, outKeep_ite, Act.keep_next, Act.keep_goto, Act.keep_stay, Act.keep_post, Act.keep_fault,
      Act.keep_faultIn, Act.keep_ite, State.issueEngine_keep, State.strResume_keep, issueStr_keep]

theorem execWalkLoad_keep {g : Course} {w : BitVec 56} (h : s.Keep Q) : OutKeep Q (execWalkLoad g w s) := by
  unfold execWalkLoad
  rw [outKeep_next]
  apply State.issueEngine_keep h
  intro t ht
  (try dsimp only)
  (repeat' split) <;> simp +contextual (maxDischargeDepth := 20) only [ite_keep, foldl_keep, keep_mk, keepOf_self, and_self,
      implies_true, *, outKeep_next, outKeep_ite, Act.keep_next, Act.keep_goto, Act.keep_stay, Act.keep_post, Act.keep_fault,
      Act.keep_faultIn, Act.keep_ite, State.issueEngine_keep, State.walkLoad_keep, issueStrAt_keep]

theorem execTransferComplete_keep {g : Course} {n : StreamId} (h : s.Keep Q) : OutKeep Q (execTransferComplete g n s)
    := by
  simp +contextual (maxDischargeDepth := 20) only [execTransferComplete, ite_keep, foldl_keep,
      keep_mk, keepOf_self, and_self, implies_true, *, outKeep_next, outKeep_ite, transferComplete_keep,
      State.ifDie_keep]

theorem execRingCredit_keep {g : Course} {n : StreamId} (h : s.Keep Q) : OutKeep Q (execRingCredit g n s) := by
  simp +contextual (maxDischargeDepth := 20) only [execRingCredit, ite_keep, foldl_keep, keep_mk, keepOf_self, and_self,
      implies_true, *, outKeep_next, outKeep_ite, ringCredit_keep]

theorem execStallLimitExpiry_keep {g : Course} {w : StallWaiter} (h : s.Keep Q) : OutKeep Q (execStallLimitExpiry g w
    s) := by
  simp +contextual (maxDischargeDepth := 20) only [execStallLimitExpiry, ite_keep, foldl_keep,
      keep_mk, keepOf_self, and_self, implies_true, *, outKeep_next, outKeep_ite, stallLimitExpiry_keep,
      State.ifCourse_keep]

theorem execDeadlockProbeHop_keep {g : Course} (h : s.Keep Q) : OutKeep Q (execDeadlockProbeHop g s) := by
  simp +contextual (maxDischargeDepth := 20) only [execDeadlockProbeHop, ite_keep, foldl_keep,
      keep_mk, keepOf_self, and_self, implies_true, *, outKeep_next, outKeep_ite, deadlockProbeHop_keep,
      State.ifCourse_keep]

/-! ### Bamong -/

theorem State.damage_keep {n : Nat} {code : BitVec 16} (h : s.Keep Q) : (State.damage s n code).2.Keep Q := by
  simp +contextual (maxDischargeDepth := 20) only [State.damage, ite_keep, foldl_keep, keep_mk, keepOf_self, and_self,
      implies_true, *]

theorem State.damagedUnit_keep {g : Course} {tbl : Bool} {stream off : Nat} {code : BitVec 16} (h : s.Keep Q) :
    (State.damagedUnit s g tbl stream off code).Keep Q := by
  simp +contextual (maxDischargeDepth := 20) only [State.damagedUnit, ite_keep, foldl_keep, keep_mk, keepOf_self, and_self,
      implies_true, *, State.countC_keep, State.raiseCourse_keep, State.capture1_keep]

theorem State.modExp_keep {g : Course} {tbl : Bool} {n : Nat} {f : ExpState → ExpState} (h : s.Keep Q) :
    (State.modExp s g tbl n f).Keep Q := by
  simp +contextual (maxDischargeDepth := 20) only [State.modExp, ite_keep, foldl_keep, keep_mk, keepOf_self, and_self,
      implies_true, *, State.modCourse_keep]

theorem State.countBlock_keep {g : Course} {tbl : Bool} (h : s.Keep Q) : (State.countBlock s g tbl).Keep Q := by
  simp +contextual (maxDischargeDepth := 20) only [State.countBlock, ite_keep, foldl_keep, keep_mk, keepOf_self, and_self,
      implies_true, *, State.countC_keep]

theorem State.expand_keep {g : Course} {tbl : Bool} {n : Nat} (h : s.Keep Q) : (State.expand s g tbl n).Keep Q := by
  unfold State.expand
  dsimp only
  (repeat' split) <;> simp +contextual (maxDischargeDepth := 20) only [ite_keep, foldl_keep, keep_mk, keepOf_self, and_self,
      implies_true, *, State.damage_keep, State.damagedUnit_keep, State.modExp_keep, State.countBlock_keep]

theorem bamongBlockDecoded_keep {g : Course} {tbl : Bool} (h : s.Keep Q) : (bamongBlockDecoded g tbl s).Keep Q := by
  unfold bamongBlockDecoded
  (repeat' split) <;> simp +contextual (maxDischargeDepth := 20) only [ite_keep, foldl_keep, keep_mk, keepOf_self, and_self,
      implies_true, *, State.expand_keep]

theorem execBamongBlockDecoded_keep {g : Course} {tbl : Bool} (h : s.Keep Q) : OutKeep Q (execBamongBlockDecoded g tbl
    s) := by
  simp +contextual (maxDischargeDepth := 20) only [execBamongBlockDecoded, ite_keep, foldl_keep,
      keep_mk, keepOf_self, and_self, implies_true, *, outKeep_next, outKeep_ite, bamongBlockDecoded_keep,
      State.ifCourse_keep]

end Sys2Proof.Machine
end

