-- ==== Sys2Proof/Laws/KeepNetwork.lean ====
section
/-! SUPPORT. KeepNetwork: what the operations of Machine/NetQueue, Ring, Adder, Mbox, Lct, NetCmd, Reduce keep (see Keep). -/

set_option linter.unusedSimpArgs false
set_option linter.unusedTactic false
set_option linter.unreachableTactic false
set_option linter.unnecessarySeqFocus false
set_option linter.unusedVariables false

namespace Sys2Proof.Machine

variable {Q : Kept} {s t : State}

/-! ### Frame -/

theorem State.countPort_keep {p : PortId} {o n : Nat} (h : s.Keep Q) : (State.countPort s p o n).Keep Q := by
  simp +contextual (maxDischargeDepth := 20) only [State.countPort, ite_keep, foldl_keep, keep_mk, keepOf_self, and_self,
      implies_true, *, State.count_keep]

theorem State.frameOut_keep {p : PortId} {m : OutMsg} (h : s.Keep Q) : (State.frameOut s p m).Keep Q := by
  simp +contextual (maxDischargeDepth := 20) only [State.frameOut, ite_keep, foldl_keep, keep_mk, keepOf_self,
      and_self, implies_true, *, State.emit_keep, State.countPort_keep]

/-! ### NetQueue -/

theorem State.raiseNet_keep {x : IoDie} {code : BitVec 16} {port : Nat} {info : Option DWord} (h : s.Keep Q) :
    (State.raiseNet s x code port info).Keep Q := by
  simp +contextual (maxDischargeDepth := 20) only [State.raiseNet, ite_keep, foldl_keep, keep_mk, keepOf_self, and_self,
      implies_true, *, State.raiseWith_keep]

theorem State.modConn_keep {x : IoDie} {c : Nat} {f : Conn → Conn} (h : s.Keep Q) : (State.modConn s x c f).Keep Q
    := by
  simp +contextual (maxDischargeDepth := 20) only [State.modConn, ite_keep, foldl_keep, keep_mk, keepOf_self, and_self,
      implies_true, *, State.modNet_keep]

theorem State.modQp_keep {x : IoDie} {q : Nat} {f : Qp → Qp} (h : s.Keep Q) : (State.modQp s x q f).Keep Q := by
  simp +contextual (maxDischargeDepth := 20) only [State.modQp, ite_keep, foldl_keep, keep_mk, keepOf_self, and_self,
      implies_true, *, State.modNet_keep]

theorem State.redFault_keep {g : Course} {serial : Nat} {code : BitVec 16} (h : s.Keep Q) : (State.redFault s g
    serial code).Keep Q := by
  simp +contextual (maxDischargeDepth := 20) only [State.redFault, ite_keep, foldl_keep, keep_mk, keepOf_self, and_self,
      implies_true, *, State.instrFault_keep]

theorem State.redRefused_keep {g : Course} {serial : Nat} {code : BitVec 16} {remote first : Bool} (h : s.Keep Q) :
    (State.redRefused s g serial code remote first).Keep Q := by
  simp +contextual (maxDischargeDepth := 20) only [State.redRefused, ite_keep, foldl_keep, keep_mk, keepOf_self, and_self,
      implies_true, *, State.orReg_keep, State.capture1_keep, State.redFault_keep]

theorem State.dropQueued_keep {o : MsgOrigin} (h : s.Keep Q) : (State.dropQueued s o).Keep Q := by
  simp +contextual (maxDischargeDepth := 20) only [State.dropQueued, ite_keep, foldl_keep, keep_mk, keepOf_self, and_self,
      implies_true, *, State.modNet_keep]

theorem State.unreachable_keep {o : MsgOrigin} (h : s.Keep Q) : (State.unreachable s o).Keep Q := by
  unfold State.unreachable
  (repeat' split) <;> simp +contextual (maxDischargeDepth := 20) only [ite_keep, foldl_keep, keep_mk, keepOf_self, and_self,
      implies_true, *, State.modCourse_keep, State.orReg_keep, State.instrDone_keep, State.redFault_keep,
      State.dropQueued_keep]

theorem State.roceOut_keep {x : IoDie} {q : Nat} {op : Nat} {psn : Nat} {areq : Bool} {payload : List Byte} {mk : List
    Byte → OutMsg} (h : s.Keep Q) : (State.roceOut s x q op psn areq payload mk).Keep Q := by
  unfold State.roceOut
  try dsimp only
  (repeat' split) <;> simp +contextual (maxDischargeDepth := 20) only [ite_keep, foldl_keep, keep_mk, keepOf_self,
      and_self, implies_true, *, State.used_keep, State.frameOut_keep]

theorem State.roceAnswer_keep {p : PortId} {x : IoDie} {q : Nat} {psn : Nat} {kind : AckKind} (h : s.Keep Q) :
    (State.roceAnswer s p x q psn kind).Keep Q := by
  simp +contextual (maxDischargeDepth := 20) only [State.roceAnswer, ite_keep, foldl_keep, keep_mk, keepOf_self,
      and_self, implies_true, *, State.roceOut_keep]

theorem State.sendPackets_keep {x : IoDie} {q : Nat} {psn : Nat} {bs : List Byte} (h : s.Keep Q) : (State.sendPackets
    s x q psn bs).Keep Q := by
  simp +contextual (maxDischargeDepth := 20) only [State.sendPackets, ite_keep, foldl_keep,
      keep_mk, keepOf_self, and_self, implies_true, *, State.emit_keep, State.countPort_keep, State.roceOut_keep]

theorem State.roceSend_keep {x : IoDie} {q : Nat} {m : NetMsg} (h : s.Keep Q) : (State.roceSend s x q m).Keep Q :=
    by
  simp +contextual (maxDischargeDepth := 20) only [State.roceSend, ite_keep, foldl_keep, keep_mk, keepOf_self, and_self,
      implies_true, *, State.modQp_keep, State.sendPackets_keep]

theorem State.netSend_keep {src : Node} {m : NetMsg} {not : Option Nat} (h : s.Keep Q) : (State.netSend s src m
    not).Keep Q := by
  unfold State.netSend
  dsimp only
  (repeat' split) <;> simp +contextual (maxDischargeDepth := 20) only [ite_keep, foldl_keep, keep_mk, keepOf_self,
      and_self, implies_true, *, State.modNet_keep, State.failed_keep, State.unreachable_keep, State.roceSend_keep]

theorem State.netMessage_keep {src : Node} {part : Nat} {group : Nat} {rank : Nat} {mtype : Nat} {tag : DWord} {body :
    List Byte} {o : MsgOrigin} {source : MsgSrc} (h : s.Keep Q) : (State.netMessage s src part group rank mtype tag
    body o source).Keep Q := by
  simp +contextual (maxDischargeDepth := 20) only [State.netMessage, ite_keep, foldl_keep, keep_mk,
      keepOf_self, and_self, implies_true, *, State.netSend_keep]

/-! ### Mbox -/

theorem State.raiseBoot_keep {code : BitVec 16} {info : Option DWord} (h : s.Keep Q) : (State.raiseBoot s code
    info).Keep Q := by
  simp +contextual (maxDischargeDepth := 20) only [State.raiseBoot, ite_keep, foldl_keep, keep_mk, keepOf_self, and_self,
      implies_true, *, State.raiseWith_keep]

theorem State.wrMbox_keep {rx : Bool} {v : Word} (h : s.Keep Q) : (State.wrMbox s rx v).Keep Q := by
  simp +contextual (maxDischargeDepth := 20) only [State.wrMbox, ite_keep, foldl_keep, keep_mk, keepOf_self, and_self,
      implies_true, *, State.setReg_keep]

theorem State.mboxPut_keep {kind port conn : Nat} {payload : List Byte} (h : s.Keep Q) : (State.mboxPut s kind port
    conn payload).Keep Q := by
  simp +contextual (maxDischargeDepth := 20) only [State.mboxPut, ite_keep, foldl_keep, keep_mk, keepOf_self, and_self,
      implies_true, *, State.setReg_keep, State.store_keep, State.irqPf_keep]

theorem State.mboxDrop_keep (h : s.Keep Q) : (State.mboxDrop s).Keep Q := by
  simp +contextual (maxDischargeDepth := 20) only [State.mboxDrop, ite_keep, foldl_keep, keep_mk, keepOf_self, and_self,
      implies_true, *, State.used_keep, State.count_keep, State.raiseBoot_keep]

theorem privReceive_keep {x : IoDie} (h : s.Keep Q) : (privReceive x s).Keep Q := by
  unfold privReceive
  (repeat' split) <;> simp +contextual (maxDischargeDepth := 20) only [ite_keep, foldl_keep, keep_mk, keepOf_self, and_self,
      implies_true, *, State.modNet_keep, State.writeAny_keep, State.mboxPut_keep]

theorem mboxTxSend_keep (h : s.Keep Q) : (mboxTxSend s).Keep Q := by
  simp +contextual (maxDischargeDepth := 20) only [mboxTxSend, ite_keep, foldl_keep, keep_mk,
      keepOf_self, and_self, implies_true, *, State.setReg_keep, State.emit_keep, State.modNet_keep,
      State.countPort_keep, State.mboxDrop_keep, State.failed_keep, State.frameOut_keep]

theorem execPriv_keep {x : IoDie} (h : s.Keep Q) : OutKeep Q (execPriv x s) := by
  simp +contextual (maxDischargeDepth := 20) only [execPriv, ite_keep, foldl_keep, keep_mk,
      keepOf_self, and_self, implies_true, *, outKeep_next, outKeep_ite, privReceive_keep, State.ifDie_keep]

theorem execMboxTxSend_keep (h : s.Keep Q) : OutKeep Q (execMboxTxSend s) := by
  simp +contextual (maxDischargeDepth := 20) only [execMboxTxSend, ite_keep, foldl_keep, keep_mk,
      keepOf_self, and_self, implies_true, *, outKeep_next, outKeep_ite, mboxTxSend_keep, State.ifDie_keep]

/-! ### Ring -/

theorem State.modRing_keep {g : Course} {f : Ring → Ring} (h : s.Keep Q) : (State.modRing s g f).Keep Q := by
  simp +contextual (maxDischargeDepth := 20) only [State.modRing, ite_keep, foldl_keep, keep_mk, keepOf_self, and_self,
      implies_true, *, State.modCourse_keep]

theorem State.ringAdvance_keep {g : Course} {n : Nat} (h : s.Keep Q) : (s.ringAdvance g n).Keep Q := by
  induction n generalizing s with
  | zero => exact h
  | succ n ih =>
    unfold State.ringAdvance
    (repeat' split) <;>
      simp +contextual (maxDischargeDepth := 20) only [*, State.modRing_keep, State.modCourse_keep, State.instrDone_keep]

theorem State.ringBegin_keep {g : Course} (h : s.Keep Q) : (State.ringBegin s g).Keep Q := by
  unfold State.ringBegin
  (repeat' split) <;> simp +contextual (maxDischargeDepth := 20) only [ite_keep, foldl_keep, keep_mk, keepOf_self,
      and_self, implies_true, *, State.netMessage_keep, State.modRing_keep, State.ringAdvance_keep]

theorem State.ringGot_keep {g : Course} {tag b : Nat} {code : BitVec 16} (h : s.Keep Q) : (State.ringGot s g tag b
    code).Keep Q := by
  unfold State.ringGot
  (repeat' split) <;> simp +contextual (maxDischargeDepth := 20) only [ite_keep, foldl_keep, keep_mk, keepOf_self, and_self,
      implies_true, *, State.redRefused_keep, State.modRing_keep, State.ringAdvance_keep]

theorem State.jobDone_keep {g : Course} {j : RedJob} (h : s.Keep Q) : (State.jobDone s g j).Keep Q := by
  unfold State.jobDone
  dsimp only
  (repeat' split) <;> simp +contextual (maxDischargeDepth := 20) only [ite_keep, foldl_keep, keep_mk, keepOf_self, and_self,
      implies_true, *, State.modCourse_keep, State.send_keep, State.instrDone_keep, State.ringBegin_keep]

theorem State.redOutcome_keep {g : Course} {serial : Nat} {code : BitVec 16} {remote : Bool} (h : s.Keep Q) :
    (State.redOutcome s g serial code remote).Keep Q := by
  unfold State.redOutcome
  (repeat' split) <;> simp +contextual (maxDischargeDepth := 20) only [ite_keep, foldl_keep, keep_mk, keepOf_self, and_self,
      implies_true, *, State.modCourse_keep, State.countC_keep, State.redRefused_keep, State.jobDone_keep]

theorem State.ringOutcome_keep {g : Course} {code : BitVec 16} (h : s.Keep Q) : (State.ringOutcome s g code).Keep Q
    := by
  unfold State.ringOutcome
  (repeat' split) <;> simp +contextual (maxDischargeDepth := 20) only [ite_keep, foldl_keep, keep_mk, keepOf_self, and_self,
      implies_true, *, State.countC_keep, State.redRefused_keep, State.modRing_keep, State.ringAdvance_keep]

theorem raOutcomeArrive_keep {g : Course} (h : s.Keep Q) : (raOutcomeArrive g s).Keep Q := by
  unfold raOutcomeArrive
  refine State.arrive_keep h ?_
  intro t m ht
  (try dsimp only)
  (repeat' split) <;> simp +contextual (maxDischargeDepth := 20) only [ite_keep, foldl_keep, keep_mk, keepOf_self, and_self,
      implies_true, *, State.arrive_keep, State.redOutcome_keep]

theorem State.countTotal_keep {x : IoDie} {j : NetJob} (h : s.Keep Q) : (State.countTotal s x j).Keep Q := by
  unfold State.countTotal
  dsimp only
  (repeat' split) <;> simp +contextual (maxDischargeDepth := 20) only [ite_keep, foldl_keep, keep_mk, keepOf_self, and_self,
      implies_true, *, State.modNet_keep, State.send_keep]

theorem State.netJobDone_keep {x : IoDie} {j : NetJob} (h : s.Keep Q) : (State.netJobDone s x j).Keep Q := by
  simp +contextual (maxDischargeDepth := 20) only [State.netJobDone, ite_keep, foldl_keep, keep_mk,
      keepOf_self, and_self, implies_true, *, State.modNet_keep, State.netMessage_keep, State.countTotal_keep]

theorem State.netDecided_keep {x : IoDie} {id i : Nat} {code : BitVec 16} (h : s.Keep Q) : (State.netDecided s x id
    i code).Keep Q := by
  unfold State.netDecided
  dsimp only
  (repeat' split) <;> simp +contextual (maxDischargeDepth := 20) only [ite_keep, foldl_keep, keep_mk, keepOf_self, and_self,
      implies_true, *, State.modNet_keep, State.ringGot_keep, State.netJobDone_keep]

theorem execRaOutcomeArrive_keep {g : Course} (h : s.Keep Q) : OutKeep Q (execRaOutcomeArrive g s) := by
  simp +contextual (maxDischargeDepth := 20) only [execRaOutcomeArrive, ite_keep, foldl_keep,
      keep_mk, keepOf_self, and_self, implies_true, *, outKeep_next, outKeep_ite, raOutcomeArrive_keep,
      State.ifDie_keep]

/-! ### Adder -/

theorem State.raOutcome_keep {k : Stack} {o : RaFrom} {code : BitVec 16} (h : s.Keep Q) : (State.raOutcome s k o
    code).Keep Q := by
  unfold State.raOutcome
  (repeat' split) <;> simp +contextual (maxDischargeDepth := 20) only [ite_keep, foldl_keep, keep_mk, keepOf_self, and_self,
      implies_true, *, State.send_keep, State.netDecided_keep]

theorem State.raArrive_keep {k : Stack} {r : RaReq} (h : s.Keep Q) : (State.raArrive s k r).Keep Q := by
  unfold State.raArrive
  (repeat' split) <;> simp +contextual (maxDischargeDepth := 20) only [ite_keep, foldl_keep, keep_mk, keepOf_self, and_self,
      implies_true, *, State.tick_keep, State.count_keep, State.modMem_keep, State.raiseMem_keep, State.raOutcome_keep]

theorem raRequestArrive_keep {k : Stack} (h : s.Keep Q) : (raRequestArrive k s).Keep Q := by
  unfold raRequestArrive
  refine State.arrive_keep h ?_
  intro t m ht
  (try dsimp only)
  (repeat' split) <;> simp +contextual (maxDischargeDepth := 20) only [ite_keep, foldl_keep, keep_mk, keepOf_self, and_self,
      implies_true, *, State.arrive_keep, State.raArrive_keep]

theorem State.grantPorts_keep {k : Stack} {l : List Nat} (h : s.Keep Q) : (s.grantPorts k l).Keep Q := by
  induction l generalizing s with
  | nil => exact h
  | cons r rs ih =>
    unfold State.grantPorts
    split
    · exact ih h
    · split
      · exact ih (State.recordGrant_keep (State.modMem_keep h))
      · exact h

theorem State.portsLeft_keep {k : Stack} {left : List (RaReq × Nat × Nat)} (h : s.Keep Q) : (State.portsLeft s k
    left).Keep Q := by
  simp +contextual (maxDischargeDepth := 20) only [State.portsLeft, ite_keep, foldl_keep, keep_mk, keepOf_self,
      and_self, implies_true, *, State.modMem_keep, State.countWaits_keep]

theorem State.portPhase_keep {k : Stack} (h : s.Keep Q) : (State.portPhase s k).Keep Q := by
  simp +contextual (maxDischargeDepth := 20) only [State.portPhase, ite_keep, foldl_keep, keep_mk, keepOf_self,
      and_self, implies_true, *, State.orReg_keep, State.raiseWith_keep, State.modMem_keep, State.present_keep,
      State.grantPorts_keep, State.portsLeft_keep]

theorem adderArbPhase_keep {k : Stack} {upset : Option (Fin 3)} (h : s.Keep Q) : (adderArbPhase k upset s).Keep Q :=
    by
  simp +contextual (maxDischargeDepth := 20) only [adderArbPhase, ite_keep, foldl_keep, keep_mk,
      keepOf_self, and_self, implies_true, *, State.orReg_keep, State.raiseWith_keep, State.modMem_keep,
      State.countWaits_keep, State.present_keep, State.grantPorts_keep, State.failed_keep, State.portsLeft_keep,
      State.portPhase_keep]

theorem State.raAdd_keep {k : Stack} {r : RaReq} (h : s.Keep Q) : (State.raAdd s k r).Keep Q := by
  simp +contextual (maxDischargeDepth := 20) only [State.raAdd, ite_keep, foldl_keep, keep_mk, keepOf_self, and_self,
      implies_true, *, State.orReg_keep, State.count_keep, State.raiseMem_keep, State.storeP_keep, State.capture1_keep,
      State.raOutcome_keep]

theorem raAddPort_keep {k : Stack} {port : Fin 4} (h : s.Keep Q) : (raAddPort k port s).Keep Q := by
  unfold raAddPort
  dsimp only
  (repeat' split) <;> simp +contextual (maxDischargeDepth := 20) only [ite_keep, foldl_keep, keep_mk, keepOf_self, and_self,
      implies_true, *, State.modMem_keep, State.raAdd_keep]

theorem execRaRequestArrive_keep {k : Stack} (h : s.Keep Q) : OutKeep Q (execRaRequestArrive k s) := by
  simp +contextual (maxDischargeDepth := 20) only [execRaRequestArrive, ite_keep, foldl_keep, keep_mk, keepOf_self,
      and_self, implies_true, *, outKeep_next, outKeep_ite, raRequestArrive_keep]

theorem execAdderArbPhase_keep {k : Stack × Option (Fin 3)} (h : s.Keep Q) : OutKeep Q (execAdderArbPhase k s) := by
  simp +contextual (maxDischargeDepth := 20) only [execAdderArbPhase, ite_keep, foldl_keep,
      keep_mk, keepOf_self, and_self, implies_true, *, outKeep_next, outKeep_ite, adderArbPhase_keep,
      State.ifDie_keep]

theorem execRaAdd_keep {k : Stack} {port : Fin 4} (h : s.Keep Q) : OutKeep Q (execRaAdd k port s) := by
  simp +contextual (maxDischargeDepth := 20) only [execRaAdd, ite_keep, foldl_keep, keep_mk, keepOf_self, and_self,
      implies_true, *, outKeep_next, outKeep_ite, raAddPort_keep,
      State.ifDie_keep]

/-! ### Lct -/

theorem State.netDiscard_keep {x : IoDie} {port : Nat} (h : s.Keep Q) : (State.netDiscard s x port).Keep Q := by
  simp +contextual (maxDischargeDepth := 20) only [State.netDiscard, ite_keep, foldl_keep, keep_mk, keepOf_self, and_self,
      implies_true, *, State.count_keep, State.raiseNet_keep]

theorem State.netMessageIn_keep {x : IoDie} {port part conn : Nat} {privileged : Bool} {m : List Byte} (h : s.Keep
    Q) : (State.netMessageIn s x port part conn privileged m).Keep Q := by
  simp +contextual (maxDischargeDepth := 20) only [State.netMessageIn, ite_keep, foldl_keep, keep_mk, keepOf_self, and_self,
      implies_true, *, State.modNet_keep, State.netDiscard_keep]

theorem State.setKey_keep {x : IoDie} {c dir phase : Nat} {k : Option NetKey} (h : s.Keep Q) : (State.setKey s x c
    dir phase k).Keep Q := by
  simp +contextual (maxDischargeDepth := 20) only [State.setKey, ite_keep, foldl_keep, keep_mk, keepOf_self, and_self,
      implies_true, *, State.modNet_keep]

theorem State.lctSend_keep {x : IoDie} {c : Nat} {type : Nat} {bamong : Bool} {ece : Bool} {seq : Nat} {ulen : Nat}
    {plain : List Byte} (h : s.Keep Q) : (State.lctSend s x c type bamong ece seq ulen plain).1.Keep Q := by
  unfold State.lctSend
  dsimp only
  (repeat' split) <;> simp +contextual (maxDischargeDepth := 20) only [ite_keep, foldl_keep, keep_mk, keepOf_self,
      and_self, implies_true, *, State.used_keep, State.emit_keep, State.raiseNet_keep, State.modConn_keep,
      State.countPort_keep, State.setKey_keep, State.count_keep, State.frameOut_keep]

theorem State.lctSegment_keep {x : IoDie} {c : Nat} {seq : Nat} {plain : List Byte} {upset : List Nat} (h : s.Keep Q)
    : (State.lctSegment s x c seq plain upset).1.Keep Q := by
  unfold State.lctSegment
  try dsimp only
  (repeat' split) <;> simp +contextual (maxDischargeDepth := 20) only [ite_keep, foldl_keep, keep_mk, keepOf_self,
      and_self, implies_true, *, foldl_keep, State.raiseNet_keep, State.lctSend_keep]

theorem State.countResend_keep {x : IoDie} (h : s.Keep Q) : (State.countResend s x).Keep Q := by
  simp +contextual (maxDischargeDepth := 20) only [State.countResend, ite_keep, foldl_keep, keep_mk, keepOf_self,
      and_self, implies_true, *, State.count_keep]

theorem State.lctResend_keep {x : IoDie} {c : Nat} {g : Seg} {upset : List Nat} (h : s.Keep Q) : (State.lctResend s x
    c g upset).Keep Q := by
  simp +contextual (maxDischargeDepth := 20) only [State.lctResend, ite_keep, foldl_keep, keep_mk,
      keepOf_self, and_self, implies_true, *, State.count_keep, State.modConn_keep, State.lctSegment_keep,
      State.countResend_keep]

theorem State.reroute_keep {x : IoDie} {via : Nat} {ms : List NetMsg} (h : s.Keep Q) : (State.reroute s x via ms).Keep
    Q := by
  simp +contextual (maxDischargeDepth := 20) only [State.reroute, ite_keep, foldl_keep, keep_mk,
      keepOf_self, and_self, implies_true, *, State.netSend_keep]

theorem lctSegmentSend_keep {x : IoDie} {c : Nat} {upset : List Nat} (h : s.Keep Q) : (lctSegmentSend x c upset
    s).Keep Q := by
  unfold lctSegmentSend
  dsimp only
  (repeat' split) <;> simp +contextual (maxDischargeDepth := 20) only [ite_keep, foldl_keep, keep_mk, keepOf_self,
      and_self, implies_true, *, State.modNet_keep, State.modConn_keep, State.lctSegment_keep,
      State.lctResend_keep, State.reroute_keep]

theorem State.dropConn_keep {x : IoDie} {c : Nat} {st : ConnState} (h : s.Keep Q) : (State.dropConn s x c st).Keep Q
    := by
  simp +contextual (maxDischargeDepth := 20) only [State.dropConn, ite_keep, foldl_keep, keep_mk,
      keepOf_self, and_self, implies_true, *, State.modNet_keep, State.modConn_keep, State.reroute_keep]

theorem State.failConn_keep {x : IoDie} {c : Nat} (h : s.Keep Q) : (State.failConn s x c).Keep Q := by
  simp +contextual (maxDischargeDepth := 20) only [State.failConn, ite_keep, foldl_keep, keep_mk, keepOf_self, and_self,
      implies_true, *, State.failed_keep, State.raiseNet_keep, State.modConn_keep, State.dropConn_keep]

theorem State.dropQp_keep {x : IoDie} {q : Nat} {st : ConnState} (h : s.Keep Q) : (State.dropQp s x q st).Keep Q := by
  simp +contextual (maxDischargeDepth := 20) only [State.dropQp, ite_keep, foldl_keep, keep_mk,
      keepOf_self, and_self, implies_true, *, State.modNet_keep, State.modQp_keep, State.reroute_keep]

theorem State.failQp_keep {x : IoDie} {q : Nat} (h : s.Keep Q) : (State.failQp s x q).Keep Q := by
  simp +contextual (maxDischargeDepth := 20) only [State.failQp, ite_keep, foldl_keep, keep_mk, keepOf_self, and_self,
      implies_true, *, State.failed_keep, State.raiseNet_keep, State.modQp_keep, State.dropQp_keep]

theorem State.sendSack_keep {x : IoDie} {c : Nat} (h : s.Keep Q) : (State.sendSack s x c).Keep Q := by
  simp +contextual (maxDischargeDepth := 20) only [State.sendSack, ite_keep, foldl_keep, keep_mk, keepOf_self, and_self,
      implies_true, *, State.modConn_keep, State.lctSend_keep]

theorem State.sendNack_keep {x : IoDie} {c seq : Nat} {code : BitVec 16} (h : s.Keep Q) : (State.sendNack s x c seq
    code).Keep Q := by
  simp +contextual (maxDischargeDepth := 20) only [State.sendNack, ite_keep, foldl_keep, keep_mk, keepOf_self, and_self,
      implies_true, *, State.count_keep, State.lctSend_keep]

theorem State.authFail_keep {x : IoDie} {c : Nat} (h : s.Keep Q) : (State.authFail s x c).Keep Q := by
  simp +contextual (maxDischargeDepth := 20) only [State.authFail, ite_keep, foldl_keep, keep_mk, keepOf_self, and_self,
      implies_true, *, State.used_keep, State.count_keep, State.raiseNet_keep, State.modConn_keep]

theorem State.lctOpened_keep {x : IoDie} {c : Nat} {ce : Bool} {u : Udp} (h : s.Keep Q) : (State.lctOpened s x c ce
    u).1.Keep Q := by
  unfold State.lctOpened
  try dsimp only
  (repeat' split) <;> simp +contextual (maxDischargeDepth := 20) only [ite_keep, foldl_keep, keep_mk, keepOf_self,
      and_self, implies_true, *, State.bind_keep, State.modConn_keep, State.authFail_keep]

theorem State.frameIn_keep {p : PortId} {f : List Byte} {fcs : Bool} (h : s.Keep Q) : (State.frameIn s p f fcs).1.Keep
    Q := by
  unfold State.frameIn
  try dsimp only
  (repeat' split) <;> simp +contextual (maxDischargeDepth := 20) only [ite_keep, foldl_keep, keep_mk, keepOf_self,
      and_self, implies_true, *, State.countPort_keep, State.lctOpened_keep]

theorem State.lctReceive_keep {p : PortId} {type : Nat} {f : List Byte} {fcs : Bool}
    {act : IoDie → Nat → List Byte → List Byte → State → State} (h : s.Keep Q)
    (hact : ∀ x c a b (t : State), t.Keep Q → (act x c a b t).Keep Q) :
    (State.lctReceive s p type f fcs act).Keep Q := by
  unfold State.lctReceive
  have ht := State.frameIn_keep (p := p) (f := f) (fcs := fcs) h
  split
  · rename_i heq
    rwa [heq] at ht
  · rename_i heq
    rw [heq] at ht
    exact ite_keep (hact _ _ _ _ _ ht) h
  · exact h

theorem plinthFrame_keep {p : PortId} {f : List Byte} {fcs : Bool} (h : s.Keep Q) : (plinthFrame p f fcs s).Keep Q := by
  unfold plinthFrame
  have ht := State.frameIn_keep (p := p) (f := f) (fcs := fcs) h
  split
  · rename_i heq
    rwa [heq] at ht
  · rename_i heq
    rw [heq] at ht
    exact ite_keep ht (ite_keep (State.mboxPut_keep ht) (State.mboxDrop_keep ht))
  · exact h

theorem State.ctlAccept_keep {x : IoDie} {c pn : Nat} (h : s.Keep Q) : OptKeep Q (State.ctlAccept s x c pn) := by
  simp +contextual (maxDischargeDepth := 20) only [State.ctlAccept, ite_keep, foldl_keep, keep_mk, keepOf_self, and_self,
      implies_true, *, optKeep_some, optKeep_none, optKeep_ite, State.modConn_keep]

theorem State.lctControl_keep {p : PortId} {type : Nat} {f : List Byte} {fcs : Bool}
    {act : IoDie → Nat → List Byte → List Byte → State → State} (h : s.Keep Q)
    (hact : ∀ x c a b (t : State), t.Keep Q → (act x c a b t).Keep Q) :
    (State.lctControl s p type f fcs act).Keep Q := by
  unfold State.lctControl
  refine State.lctReceive_keep h fun x c a b t ht => ?_
  split
  · exact ht
  · exact hact _ _ _ _ _ ((State.ctlAccept_keep ht).get ‹_›)

theorem State.deliver_keep {x : IoDie} {c seq : Nat} {ms : List (List Byte)} (h : s.Keep Q) : (State.deliver s x c
    seq ms).Keep Q := by
  simp +contextual (maxDischargeDepth := 20) only [State.deliver, ite_keep, foldl_keep, keep_mk, keepOf_self, and_self,
      implies_true, *, State.modConn_keep, State.netMessageIn_keep, State.sendSack_keep]

theorem State.lctData_keep {x : IoDie} {c : Nat} {hdr : List Byte} {plain : List Byte} (h : s.Keep Q) : (State.lctData
    x c hdr plain s).Keep Q := by
  unfold State.lctData
  try dsimp only
  (repeat' split) <;> simp +contextual (maxDischargeDepth := 20) only [ite_keep, foldl_keep, keep_mk, keepOf_self,
      and_self, implies_true, *, State.raiseNet_keep, State.sendSack_keep, State.sendNack_keep, State.deliver_keep]

theorem lctDataReceive_keep {p : PortId} {f : List Byte} {fcs : Bool} (h : s.Keep Q) : (lctDataReceive p f fcs s).Keep
    Q := by
  simp +contextual (maxDischargeDepth := 20) only [lctDataReceive, ite_keep, foldl_keep, keep_mk, keepOf_self,
      and_self, implies_true, *, State.lctReceive_keep, State.lctData_keep]

theorem State.cutWindow_keep {x : IoDie} {c : Nat} (h : s.Keep Q) : (State.cutWindow s x c).Keep Q := by
  simp +contextual (maxDischargeDepth := 20) only [State.cutWindow, ite_keep, foldl_keep, keep_mk, keepOf_self, and_self,
      implies_true, *, State.used_keep, State.modConn_keep]

theorem State.lctLost_keep {x : IoDie} {c : Nat} {sends : Nat} {mark : State → State} (h : s.Keep Q) (hmark : ∀ t :
    State, t.Keep Q → (mark t).Keep Q) : (State.lctLost s x c sends mark).Keep Q := by
  simp +contextual (maxDischargeDepth := 20) only [State.lctLost, ite_keep, foldl_keep, keep_mk, keepOf_self, and_self,
      implies_true, *, State.failConn_keep, State.cutWindow_keep]

theorem State.markLost_keep {x : IoDie} {c seq : Nat} (h : s.Keep Q) : (State.markLost s x c seq).Keep Q := by
  simp +contextual (maxDischargeDepth := 20) only [State.markLost, ite_keep, foldl_keep, keep_mk, keepOf_self, and_self,
      implies_true, *, State.modConn_keep]

theorem State.sackApply_keep {x : IoDie} {c : Nat} {plain : List Byte} {ece : Bool} (h : s.Keep Q) : (State.sackApply
    s x c plain ece).Keep Q := by
  simp +contextual (maxDischargeDepth := 20) only [State.sackApply, ite_keep, foldl_keep, keep_mk,
      keepOf_self, and_self, implies_true, *, State.used_keep, State.modConn_keep, State.cutWindow_keep,
      State.lctLost_keep, State.markLost_keep, State.failConn_keep]

theorem lctSackReceive_keep {p : PortId} {f : List Byte} {fcs : Bool} (h : s.Keep Q) : (lctSackReceive p f fcs s).Keep
    Q := by
  simp +contextual (maxDischargeDepth := 20) only [lctSackReceive, ite_keep, foldl_keep, keep_mk, keepOf_self,
      and_self, implies_true, *, State.sackApply_keep, State.lctControl_keep]

theorem lctNackReceive_keep {p : PortId} {f : List Byte} {fcs : Bool} (h : s.Keep Q) : (lctNackReceive p f fcs s).Keep Q := by
  unfold lctNackReceive
  refine State.lctControl_keep h fun x c a b t ht => ?_
  split
  · exact State.lctLost_keep ht fun u hu => State.markLost_keep hu
  · exact ht

theorem lctProbeReceive_keep {p : PortId} {f : List Byte} {fcs : Bool} (h : s.Keep Q) : (lctProbeReceive p f fcs
    s).Keep Q := by
  simp +contextual (maxDischargeDepth := 20) only [lctProbeReceive, ite_keep, foldl_keep, keep_mk, keepOf_self,
      and_self, implies_true, *, State.lctSend_keep, State.lctReceive_keep]

theorem lctProbeReplyReceive_keep {p : PortId} {f : List Byte} {fcs : Bool} (h : s.Keep Q) : (lctProbeReplyReceive p f
    fcs s).Keep Q := by
  simp +contextual (maxDischargeDepth := 20) only [lctProbeReplyReceive, ite_keep, foldl_keep, keep_mk, keepOf_self,
      and_self, implies_true, *, State.modConn_keep, State.lctControl_keep]

theorem lctAckDelayExpiry_keep {x : IoDie} {c : Nat} (h : s.Keep Q) : (lctAckDelayExpiry x c s).Keep Q := by
  simp +contextual (maxDischargeDepth := 20) only [lctAckDelayExpiry, ite_keep, foldl_keep, keep_mk, keepOf_self, and_self,
      implies_true, *, State.sendSack_keep]

theorem lctIdleExpiry_keep {x : IoDie} {c : Nat} (h : s.Keep Q) : (lctIdleExpiry x c s).Keep Q := by
  simp +contextual (maxDischargeDepth := 20) only [lctIdleExpiry, ite_keep, foldl_keep, keep_mk, keepOf_self, and_self,
      implies_true, *, State.modConn_keep, State.lctSend_keep]

theorem lctRtoExpiry_keep {x : IoDie} {c : Nat} {seq : Option Nat} {upset : List Nat} (h : s.Keep Q) : (lctRtoExpiry x
    c seq upset s).Keep Q := by
  unfold lctRtoExpiry
  dsimp only
  (repeat' split) <;> simp +contextual (maxDischargeDepth := 20) only [ite_keep, foldl_keep, keep_mk, keepOf_self,
      and_self, implies_true, *, State.modConn_keep, State.lctSend_keep, State.lctResend_keep, State.lctLost_keep,
      State.markLost_keep, State.countResend_keep]

theorem execLctSegmentSend_keep {x : IoDie} {c : Fin 4096} {upset : List Nat} (h : s.Keep Q) : OutKeep Q
    (execLctSegmentSend x c upset s) := by
  simp +contextual (maxDischargeDepth := 20) only [execLctSegmentSend, ite_keep, foldl_keep,
      keep_mk, keepOf_self, and_self, implies_true, *, outKeep_next, outKeep_ite, lctSegmentSend_keep,
      State.ifDie_keep]

theorem execPlinthFrame_keep {p : PortId} {frame : List Byte} {fcs : Bool} (h : s.Keep Q) : OutKeep Q (execPlinthFrame
    p frame fcs s) := by
  simp +contextual (maxDischargeDepth := 20) only [execPlinthFrame, ite_keep, foldl_keep, keep_mk,
      keepOf_self, and_self, implies_true, *, outKeep_next, outKeep_ite, plinthFrame_keep, State.ifDie_keep]

theorem execLctDataReceive_keep {p : PortId} {frame : List Byte} {fcs : Bool} (h : s.Keep Q) : OutKeep Q
    (execLctDataReceive p frame fcs s) := by
  simp +contextual (maxDischargeDepth := 20) only [execLctDataReceive, ite_keep, foldl_keep,
      keep_mk, keepOf_self, and_self, implies_true, *, outKeep_next, outKeep_ite, lctDataReceive_keep,
      State.ifDie_keep]

theorem execLctSackReceive_keep {p : PortId} {frame : List Byte} {fcs : Bool} (h : s.Keep Q) : OutKeep Q
    (execLctSackReceive p frame fcs s) := by
  simp +contextual (maxDischargeDepth := 20) only [execLctSackReceive, ite_keep, foldl_keep,
      keep_mk, keepOf_self, and_self, implies_true, *, outKeep_next, outKeep_ite, lctSackReceive_keep,
      State.ifDie_keep]

theorem execLctNackReceive_keep {p : PortId} {frame : List Byte} {fcs : Bool} (h : s.Keep Q) : OutKeep Q
    (execLctNackReceive p frame fcs s) := by
  simp +contextual (maxDischargeDepth := 20) only [execLctNackReceive, ite_keep, foldl_keep,
      keep_mk, keepOf_self, and_self, implies_true, *, outKeep_next, outKeep_ite, lctNackReceive_keep,
      State.ifDie_keep]

theorem execLctProbeReceive_keep {p : PortId} {frame : List Byte} {fcs : Bool} (h : s.Keep Q) : OutKeep Q
    (execLctProbeReceive p frame fcs s) := by
  simp +contextual (maxDischargeDepth := 20) only [execLctProbeReceive, ite_keep, foldl_keep,
      keep_mk, keepOf_self, and_self, implies_true, *, outKeep_next, outKeep_ite, lctProbeReceive_keep,
      State.ifDie_keep]

theorem execLctProbeReplyReceive_keep {p : PortId} {frame : List Byte} {fcs : Bool} (h : s.Keep Q) : OutKeep Q
    (execLctProbeReplyReceive p frame fcs s) := by
  simp +contextual (maxDischargeDepth := 20) only [execLctProbeReplyReceive, ite_keep, foldl_keep,
      keep_mk, keepOf_self, and_self, implies_true, *, outKeep_next, outKeep_ite, lctProbeReplyReceive_keep,
      State.ifDie_keep]

theorem execLctAckDelayExpiry_keep {x : IoDie} {c : Fin 4096} (h : s.Keep Q) : OutKeep Q (execLctAckDelayExpiry x c s)
    := by
  simp +contextual (maxDischargeDepth := 20) only [execLctAckDelayExpiry, ite_keep, foldl_keep,
      keep_mk, keepOf_self, and_self, implies_true, *, outKeep_next, outKeep_ite, lctAckDelayExpiry_keep,
      State.ifDie_keep]

theorem execLctIdleExpiry_keep {x : IoDie} {c : Fin 4096} (h : s.Keep Q) : OutKeep Q (execLctIdleExpiry x c s) := by
  simp +contextual (maxDischargeDepth := 20) only [execLctIdleExpiry, ite_keep, foldl_keep,
      keep_mk, keepOf_self, and_self, implies_true, *, outKeep_next, outKeep_ite, lctIdleExpiry_keep,
      State.ifDie_keep]

theorem execLctRtoExpiry_keep {x : IoDie} {c : Fin 4096} {e : Option Nat × List Nat} (h : s.Keep Q) : OutKeep Q
    (execLctRtoExpiry x c e s) := by
  simp +contextual (maxDischargeDepth := 20) only [execLctRtoExpiry, ite_keep, foldl_keep, keep_mk,
      keepOf_self, and_self, implies_true, *, outKeep_next, outKeep_ite, lctRtoExpiry_keep, State.ifDie_keep]

/-! ### NetCmd -/

theorem State.connRefused_keep {x : IoDie} (h : s.Keep Q) : (State.connRefused s x).Keep Q := by
  simp +contextual (maxDischargeDepth := 20) only [State.connRefused, ite_keep, foldl_keep, keep_mk, keepOf_self, and_self,
      implies_true, *, State.orReg_keep, State.raiseNet_keep]

theorem State.lctOpen_keep {x : IoDie} {c : Nat} (h : s.Keep Q) : (State.lctOpen s x c).Keep Q := by
  unfold State.lctOpen
  (repeat' split) <;> simp +contextual (maxDischargeDepth := 20) only [ite_keep, foldl_keep, keep_mk, keepOf_self, and_self,
      implies_true, *, State.used_keep, State.modConn_keep, State.connRefused_keep]

theorem State.roceOpen_keep {x : IoDie} {q : Nat} (h : s.Keep Q) : (State.roceOpen s x q).Keep Q := by
  simp +contextual (maxDischargeDepth := 20) only [State.roceOpen, ite_keep, foldl_keep, keep_mk, keepOf_self, and_self,
      implies_true, *, State.used_keep, State.modNet_keep, State.modQp_keep, State.roceSend_keep, State.connRefused_keep]

theorem State.lctSwitch_keep {x : IoDie} {c : Nat} (h : s.Keep Q) : (State.lctSwitch s x c).Keep Q := by
  unfold State.lctSwitch
  dsimp only
  (repeat' split) <;> simp +contextual (maxDischargeDepth := 20) only [ite_keep, foldl_keep, keep_mk, keepOf_self,
      and_self, implies_true, *, State.modConn_keep, State.connRefused_keep, State.lctSend_keep]

theorem State.wrConnCmd_keep {x : IoDie} {v : Word} (h : s.Keep Q) : (State.wrConnCmd s x v).Keep Q := by
  unfold State.wrConnCmd
  dsimp only
  (repeat' split) <;> simp +contextual (maxDischargeDepth := 20) only [ite_keep, foldl_keep, keep_mk, keepOf_self, and_self,
      implies_true, *, State.dropConn_keep, State.dropQp_keep, State.connRefused_keep, State.lctOpen_keep,
      State.roceOpen_keep, State.lctSwitch_keep]

theorem State.wrNetKey_keep {x : IoDie} {v : Word} (h : s.Keep Q) : (State.wrNetKey s x v).Keep Q := by
  unfold State.wrNetKey
  (repeat' split) <;> simp +contextual (maxDischargeDepth := 20) only [ite_keep, foldl_keep, keep_mk, keepOf_self, and_self,
      implies_true, *, State.orReg_keep, State.raiseNet_keep, State.setKey_keep]

theorem State.roceRetry_keep {x : IoDie} {q : Nat} (h : s.Keep Q) : (State.roceRetry s x q).Keep Q := by
  simp +contextual (maxDischargeDepth := 20) only [State.roceRetry, ite_keep, foldl_keep, keep_mk, keepOf_self, and_self,
      implies_true, *, State.modQp_keep, State.sendPackets_keep, State.failQp_keep]

theorem State.roceAcked_keep {x : IoDie} {q psn : Nat} (h : s.Keep Q) : (State.roceAcked s x q psn).Keep Q := by
  simp +contextual (maxDischargeDepth := 20) only [State.roceAcked, ite_keep, foldl_keep, keep_mk, keepOf_self, and_self,
      implies_true, *, State.modQp_keep]

theorem State.roceSendIn_keep {x : IoDie} {p : PortId} {q : Nat} {psn : Nat} {first : Bool} {last : Bool} {payload :
    List Byte} (h : s.Keep Q) : (State.roceSendIn s x p q psn first last payload).Keep Q := by
  simp +contextual (maxDischargeDepth := 20) only [State.roceSendIn, ite_keep, foldl_keep, keep_mk,
      keepOf_self, and_self, implies_true, *, State.emit_keep, State.modQp_keep, State.countPort_keep,
      State.netMessageIn_keep, State.roceAnswer_keep]

theorem State.roceAct_keep {x : IoDie} {p : PortId} {q psn : Nat} {op : RoceOp} (h : s.Keep Q) :
    (State.roceAct s x p q psn op).Keep Q := by
  unfold State.roceAct
  split
  · exact State.roceSendIn_keep h
  · exact State.raiseNet_keep (State.roceAnswer_keep h)
  · exact State.roceAcked_keep h
  · exact State.roceRetry_keep (State.roceAcked_keep h)
  · exact State.failQp_keep h
  · exact h
  · exact h

theorem roceFrameReceive_keep {p : PortId} {f : List Byte} {fcs : Bool} (h : s.Keep Q) :
    (roceFrameReceive p f fcs s).Keep Q := by
  unfold roceFrameReceive
  have ht := State.frameIn_keep (p := p) (f := f) (fcs := fcs) h
  split
  · rename_i heq
    rwa [heq] at ht
  · rename_i heq
    rw [heq] at ht
    split
    · exact ht
    · exact State.roceAct_keep (ite_keep (State.roceOut_keep ht) ht)
  · exact h

theorem localAckTimeout_keep {x : IoDie} {q : Nat} (h : s.Keep Q) : (localAckTimeout x q s).Keep Q := by
  simp +contextual (maxDischargeDepth := 20) only [localAckTimeout, ite_keep, foldl_keep, keep_mk, keepOf_self, and_self,
      implies_true, *, State.roceRetry_keep]

theorem State.trainPort_keep {p : PortId} {degraded : Bool} (h : s.Keep Q) : (State.trainPort s p degraded).1.Keep Q
    := by
  unfold State.trainPort
  dsimp only
  (repeat' split) <;> simp +contextual (maxDischargeDepth := 20) only [ite_keep, foldl_keep, keep_mk, keepOf_self, and_self,
      implies_true, *]

theorem State.portDown_keep {p : PortId} (h : s.Keep Q) : (State.portDown s p).Keep Q := by
  simp +contextual (maxDischargeDepth := 20) only [State.portDown, ite_keep, foldl_keep, keep_mk, keepOf_self, and_self,
      implies_true, *, State.failConn_keep, State.failQp_keep]

theorem portLaneFail_keep {p : PortId} {lane : Fin 8} (h : s.Keep Q) : (portLaneFail p lane s).Keep Q := by
  simp +contextual (maxDischargeDepth := 20) only [portLaneFail, ite_keep, foldl_keep, keep_mk, keepOf_self, and_self,
      implies_true, *, State.failed_keep, State.raiseNet_keep, State.trainPort_keep, State.portDown_keep]

theorem State.wrPortCtrl_keep {p : PortId} {v : Word} (h : s.Keep Q) : (State.wrPortCtrl s p v).Keep Q := by
  simp +contextual (maxDischargeDepth := 20) only [State.wrPortCtrl, ite_keep, foldl_keep, keep_mk, keepOf_self, and_self,
      implies_true, *, State.setReg_keep, State.trainPort_keep]

theorem execRoceFrameReceive_keep {p : PortId} {dst : BitVec 48} {src : BitVec 48} {tag : Option (BitVec 16)} {packet
    : List Byte} {fcs : Bool} (h : s.Keep Q) : OutKeep Q (execRoceFrameReceive p dst src tag packet fcs s) := by
  simp +contextual (maxDischargeDepth := 20) only [execRoceFrameReceive, ite_keep, foldl_keep,
      keep_mk, keepOf_self, and_self, implies_true, *, outKeep_next, outKeep_ite, roceFrameReceive_keep,
      State.ifDie_keep]

theorem execLocalAckTimeout_keep {x : IoDie} {q : Fin 8192} (h : s.Keep Q) : OutKeep Q (execLocalAckTimeout x q s) :=
    by
  simp +contextual (maxDischargeDepth := 20) only [execLocalAckTimeout, ite_keep, foldl_keep,
      keep_mk, keepOf_self, and_self, implies_true, *, outKeep_next, outKeep_ite, localAckTimeout_keep,
      State.ifDie_keep]

theorem execPortLaneFail_keep {p : PortId} {lane : Fin 8} (h : s.Keep Q) : OutKeep Q (execPortLaneFail p lane s) := by
  simp +contextual (maxDischargeDepth := 20) only [execPortLaneFail, ite_keep, foldl_keep, keep_mk,
      keepOf_self, and_self, implies_true, *, outKeep_next, outKeep_ite, portLaneFail_keep, State.ifDie_keep]

/-! ### Reduce -/

theorem redOperand_keep {v : Nat} : Act.Keep Q (redOperand v) := by
  simp +contextual (maxDischargeDepth := 20) only [redOperand, ite_keep, foldl_keep, keep_mk, keepOf_self, and_self,
      implies_true, *, Act.keep_next, Act.keep_goto, Act.keep_stay, Act.keep_post, Act.keep_fault, Act.keep_faultIn,
      Act.keep_ite]

theorem State.withSlots_keep {g : Course} {b a : Nat} {act : Nat → Nat → Act} (h : s.Keep Q)
    (hact : ∀ x y, Act.Keep Q (act x y)) : Act.Keep Q (State.withSlots s g b a act) := by
  unfold State.withSlots
  try dsimp only
  (repeat' split) <;> simp +contextual (maxDischargeDepth := 20) only [*, redOperand_keep]

theorem issueRedSend_keep {g : Course} {w : BitVec 56} (h : s.Keep Q) : Act.Keep Q (issueRedSend g w s) := by
  unfold issueRedSend
  dsimp only
  (repeat' split) <;> simp +contextual (maxDischargeDepth := 20) only [ite_keep, foldl_keep, keep_mk, keepOf_self,
      and_self, implies_true, *, Act.keep_next, Act.keep_goto, Act.keep_stay, Act.keep_post, Act.keep_fault,
      Act.keep_faultIn, Act.keep_ite, State.submit_keep, guardAct_keep, redOperand_keep, State.withSlots_keep]

theorem issueRedAccum_keep {g : Course} {w : BitVec 56} (h : s.Keep Q) : Act.Keep Q (issueRedAccum g w s) := by
  unfold issueRedAccum
  dsimp only
  (repeat' split) <;> simp +contextual (maxDischargeDepth := 20) only [ite_keep, foldl_keep, keep_mk, keepOf_self,
      and_self, implies_true, *, Act.keep_next, Act.keep_goto, Act.keep_stay, Act.keep_post, Act.keep_fault,
      Act.keep_faultIn, Act.keep_ite, State.submit_keep, guardAct_keep, redOperand_keep, State.withSlots_keep]

theorem issueRedRing_keep {g : Course} {w : BitVec 56} (h : s.Keep Q) : Act.Keep Q (issueRedRing g w s) := by
  unfold issueRedRing
  dsimp only
  (repeat' split) <;> simp +contextual (maxDischargeDepth := 20) only [ite_keep, foldl_keep, keep_mk, keepOf_self,
      and_self, implies_true, *, Act.keep_next, Act.keep_goto, Act.keep_stay, Act.keep_post, Act.keep_fault,
      Act.keep_faultIn, Act.keep_ite, State.submit_keep, guardAct_keep, redOperand_keep]

theorem State.redDesc_keep {g : Course} {serial : Nat} (h : s.Keep Q) : (State.redDesc s g serial).Keep Q := by
  simp +contextual (maxDischargeDepth := 20) only [State.redDesc, ite_keep, foldl_keep, keep_mk, keepOf_self, and_self,
      implies_true, *, State.instrDone_keep, State.redFault_keep]

theorem State.addJob_keep {g : Course} {j : RedJob} (h : s.Keep Q) : (State.addJob s g j).Keep Q := by
  simp +contextual (maxDischargeDepth := 20) only [State.addJob, ite_keep, foldl_keep, keep_mk, keepOf_self, and_self,
      implies_true, *, State.modCourse_keep]

theorem State.runRed_keep {g : Course} {e : QEntry} (h : s.Keep Q) : (State.runRed s g e).Keep Q := by
  unfold State.runRed
  (repeat' split) <;> simp +contextual (maxDischargeDepth := 20) only [ite_keep, foldl_keep, keep_mk, keepOf_self, and_self,
      implies_true, *, State.modCourse_keep, State.ringBegin_keep, State.redDesc_keep, State.addJob_keep]

theorem State.sendBlock_keep {g : Course} {j : RedJob} {k : Nat} (h : s.Keep Q) : (State.sendBlock s g j k).Keep Q
    := by
  unfold State.sendBlock
  (repeat' split) <;> simp +contextual (maxDischargeDepth := 20) only [ite_keep, foldl_keep, keep_mk, keepOf_self, and_self,
      implies_true, *, State.send_keep, State.redOutcome_keep]

theorem formRed_keep {g : Course} (h : s.Keep Q) : (formRed g s).Keep Q := by
  unfold formRed
  (repeat' split) <;> simp +contextual (maxDischargeDepth := 20) only [ite_keep, foldl_keep, keep_mk, keepOf_self,
      and_self, implies_true, *, State.modCourse_keep, State.netMessage_keep, State.sendBlock_keep]

theorem State.maxReg_keep {off v : Nat} (h : s.Keep Q) : (State.maxReg s off v).Keep Q := by
  simp +contextual (maxDischargeDepth := 20) only [State.maxReg, ite_keep, foldl_keep, keep_mk, keepOf_self, and_self,
      implies_true, *, State.setReg_keep]

theorem State.packRange_keep {g : Course} {k : Stack} {r : Ring} (h : s.Keep Q) : (State.packRange s g k r).Keep Q
    := by
  unfold State.packRange
  dsimp only
  (repeat' split) <;> simp +contextual (maxDischargeDepth := 20) only [ite_keep, foldl_keep, keep_mk, keepOf_self, and_self,
      implies_true, *, State.orReg_keep, State.efirst_keep, State.raiseMem_keep, State.instrPoison_keep, State.modRing_keep]

theorem State.pack_keep {g : Course} {r : Ring} {b : Nat} (h : s.Keep Q) : (State.pack s g r b).2.Keep Q := by
  unfold State.pack
  (repeat' split) <;> simp +contextual (maxDischargeDepth := 20) only [ite_keep, foldl_keep, keep_mk, keepOf_self, and_self,
      implies_true, *, State.count_keep, State.maxReg_keep, State.packRange_keep]

theorem State.packs_keep {g : Course} {b room n : Nat} (h : s.Keep Q) : (State.packs s g b room n).2.Keep Q := by
  induction n generalizing s b room with
  | zero => exact h
  | succ n ih =>
    unfold State.packs
    split
    · exact h
    · dsimp only
      split
      · exact h
      · exact ih (State.pack_keep h)

theorem formRing_keep {g : Course} (h : s.Keep Q) : (formRing g s).Keep Q := by
  unfold formRing
  split
  · exact h
  · refine ite_keep h (ite_keep ?_ ?_)
    · exact State.ringAdvance_keep (State.netMessage_keep (State.modRing_keep h))
    · exact State.ringAdvance_keep (State.netMessage_keep (State.modRing_keep (State.packs_keep h)))

theorem transferFormAny_keep {g : Course} {src : TransferSrc} (h : s.Keep Q) : (transferFormAny g src s).Keep Q :=
    by
  unfold transferFormAny
  (repeat' split) <;> simp +contextual (maxDischargeDepth := 20) only [ite_keep, foldl_keep, keep_mk, keepOf_self, and_self,
      implies_true, *, transferForm_keep, formRed_keep, formRing_keep]

theorem State.takeRx_keep {x : IoDie} {mtype : Nat} {m : RxMsg} (h : s.Keep Q) (hx : s.takeRx x mtype = some (m, t)) :
    t.Keep Q := by
  unfold State.takeRx at hx
  dsimp only at hx
  split at hx
  · cases hx
  · cases hx
    exact State.modNet_keep h

theorem State.netBlocks_keep {x : IoDie} {m : RxMsg} {atype first : Nat} {addr : Nat → Nat} {bs : List (List Byte)}
    {ring : Option (Course × Nat)} (h : s.Keep Q) : (State.netBlocks s x m atype first addr bs ring).Keep Q := by
  unfold State.netBlocks
  refine foldl_keep ?_ ?_
  · intro t a ht
    (repeat' split) <;> simp +contextual (maxDischargeDepth := 20) only [ite_keep, foldl_keep, keep_mk, keepOf_self,
        and_self, implies_true, *, State.modNet_keep, State.send_keep, State.netDecided_keep]
  · (repeat' split) <;> simp +contextual (maxDischargeDepth := 20) only [ite_keep, foldl_keep, keep_mk, keepOf_self,
      and_self, implies_true, *, State.modNet_keep, State.send_keep, State.netDecided_keep]

theorem raBlocks_keep {x : IoDie} (h : s.Keep Q) : (raBlocks x s).Keep Q := by
  unfold raBlocks
  split
  · exact h
  · have ht := State.takeRx_keep h ‹_›
    (try dsimp only)
    (repeat' split) <;> simp +contextual (maxDischargeDepth := 20) only [ite_keep, foldl_keep, keep_mk, keepOf_self,
        and_self, implies_true, *, State.modNet_keep, State.netBlocks_keep]

theorem State.ringDiscard_keep {m : RxMsg} (h : s.Keep Q) : (State.ringDiscard s m).Keep Q := by
  simp +contextual (maxDischargeDepth := 20) only [State.ringDiscard, ite_keep, foldl_keep, keep_mk, keepOf_self, and_self,
      implies_true, *, State.countC_keep]

theorem raOutcomeReceive_keep {x : IoDie} (h : s.Keep Q) : (raOutcomeReceive x s).Keep Q := by
  unfold raOutcomeReceive
  split
  · exact h
  · have ht := State.takeRx_keep h ‹_›
    dsimp only
    split
    · exact foldl_keep (fun u c hu => State.redOutcome_keep hu) ht
    · split
      · exact State.ringDiscard_keep ht
      · exact foldl_keep (fun u c hu => State.ringOutcome_keep hu) (State.modRing_keep ht)

theorem ringReady_keep {x : IoDie} (h : s.Keep Q) : (ringReady x s).Keep Q := by
  unfold ringReady
  split
  · exact h
  · have ht := State.takeRx_keep h ‹_›
    (try dsimp only)
    (repeat' split) <;> simp +contextual (maxDischargeDepth := 20) only [ite_keep, foldl_keep, keep_mk, keepOf_self,
        and_self, implies_true, *, State.modRing_keep, State.ringAdvance_keep, State.ringDiscard_keep]

theorem ringPart_keep {x : IoDie} (h : s.Keep Q) : (ringPart x s).Keep Q := by
  unfold ringPart
  split
  · exact h
  · have ht := State.takeRx_keep h ‹_›
    (try dsimp only)
    (repeat' split) <;> simp +contextual (maxDischargeDepth := 20) only [ite_keep, foldl_keep, keep_mk, keepOf_self,
        and_self, implies_true, *, State.netBlocks_keep, State.ringDiscard_keep]

theorem State.ringCopyBlock_keep {g : Course} {r : Ring} {tag b : Nat} {bs : List Byte} (h : s.Keep Q) :
    (State.ringCopyBlock s g r tag b bs).2.Keep Q := by
  unfold State.ringCopyBlock
  (repeat' split) <;> simp +contextual (maxDischargeDepth := 20) only [ite_keep, foldl_keep, keep_mk, keepOf_self, and_self,
      implies_true, *, State.store_keep, State.ringGot_keep]

theorem ringCopy_keep {x : IoDie} (h : s.Keep Q) : (ringCopy x s).Keep Q := by
  unfold ringCopy
  split
  · exact h
  · have ht := State.takeRx_keep h ‹_›
    split
    · exact State.ringDiscard_keep ht
    · exact State.netMessage_keep (foldl_keep_snd (fun t a ha => State.ringCopyBlock_keep ha) ht)

theorem ringWaitExpiry_keep {g : Course} (h : s.Keep Q) : (ringWaitExpiry g s).Keep Q := by
  unfold ringWaitExpiry
  (repeat' split) <;> simp +contextual (maxDischargeDepth := 20) only [ite_keep, foldl_keep, keep_mk, keepOf_self, and_self,
      implies_true, *, State.modCourse_keep, State.orReg_keep, State.instrDone_keep, State.redFault_keep,
      State.dropQueued_keep]

theorem State.wrRedCtrl_keep {g : Course} {v : Word} (h : s.Keep Q) : (State.wrRedCtrl s g v).Keep Q := by
  simp +contextual (maxDischargeDepth := 20) only [State.wrRedCtrl, ite_keep, foldl_keep, keep_mk, keepOf_self, and_self,
      implies_true, *, State.setReg_keep]

theorem State.wrRedMc_keep {k : Stack} {v : Word} (h : s.Keep Q) : (State.wrRedMc s k v).Keep Q := by
  simp +contextual (maxDischargeDepth := 20) only [State.wrRedMc, ite_keep, foldl_keep, keep_mk, keepOf_self, and_self,
      implies_true, *, State.setReg_keep]

theorem execRedSend_keep {g : Course} {w : BitVec 56} (h : s.Keep Q) : OutKeep Q (execRedSend g w s) := by
  unfold execRedSend
  rw [outKeep_next]
  apply State.issueEngine_keep h
  intro t ht
  (try dsimp only)
  (repeat' split) <;> simp +contextual (maxDischargeDepth := 20) only [ite_keep, foldl_keep, keep_mk, keepOf_self, and_self,
      implies_true, *, outKeep_next, outKeep_ite, Act.keep_next, Act.keep_goto, Act.keep_stay, Act.keep_post, Act.keep_fault,
      Act.keep_faultIn, Act.keep_ite, State.issueEngine_keep, issueRedSend_keep]

theorem execRedAccum_keep {g : Course} {w : BitVec 56} (h : s.Keep Q) : OutKeep Q (execRedAccum g w s) := by
  unfold execRedAccum
  rw [outKeep_next]
  apply State.issueEngine_keep h
  intro t ht
  (try dsimp only)
  (repeat' split) <;> simp +contextual (maxDischargeDepth := 20) only [ite_keep, foldl_keep, keep_mk, keepOf_self, and_self,
      implies_true, *, outKeep_next, outKeep_ite, Act.keep_next, Act.keep_goto, Act.keep_stay, Act.keep_post, Act.keep_fault,
      Act.keep_faultIn, Act.keep_ite, State.issueEngine_keep, issueRedAccum_keep]

theorem execRedRing_keep {g : Course} {w : BitVec 56} (h : s.Keep Q) : OutKeep Q (execRedRing g w s) := by
  unfold execRedRing
  rw [outKeep_next]
  apply State.issueEngine_keep h
  intro t ht
  (try dsimp only)
  (repeat' split) <;> simp +contextual (maxDischargeDepth := 20) only [ite_keep, foldl_keep, keep_mk, keepOf_self, and_self,
      implies_true, *, outKeep_next, outKeep_ite, Act.keep_next, Act.keep_goto, Act.keep_stay, Act.keep_post, Act.keep_fault,
      Act.keep_faultIn, Act.keep_ite, State.issueEngine_keep, issueRedRing_keep]

theorem execTransferForm_keep {g : Course} {src : TransferSrc} (h : s.Keep Q) : OutKeep Q (execTransferForm g src s)
    := by
  simp +contextual (maxDischargeDepth := 20) only [execTransferForm, ite_keep, foldl_keep, keep_mk,
      keepOf_self, and_self, implies_true, *, outKeep_next, outKeep_ite, transferFormAny_keep, State.ifCourse_keep]

theorem execRaBlocks_keep {x : IoDie} (h : s.Keep Q) : OutKeep Q (execRaBlocks x s) := by
  simp +contextual (maxDischargeDepth := 20) only [execRaBlocks, ite_keep, foldl_keep, keep_mk,
      keepOf_self, and_self, implies_true, *, outKeep_next, outKeep_ite, raBlocks_keep, State.ifDie_keep]

theorem execRaOutcome_keep {x : IoDie} (h : s.Keep Q) : OutKeep Q (execRaOutcome x s) := by
  simp +contextual (maxDischargeDepth := 20) only [execRaOutcome, ite_keep, foldl_keep, keep_mk, keepOf_self,
      and_self, implies_true, *, outKeep_next, outKeep_ite, State.ifDie_keep, raOutcomeReceive_keep]

theorem execRingReady_keep {x : IoDie} (h : s.Keep Q) : OutKeep Q (execRingReady x s) := by
  simp +contextual (maxDischargeDepth := 20) only [execRingReady, ite_keep, foldl_keep, keep_mk,
      keepOf_self, and_self, implies_true, *, outKeep_next, outKeep_ite, ringReady_keep, State.ifDie_keep]

theorem execRingPart_keep {x : IoDie} (h : s.Keep Q) : OutKeep Q (execRingPart x s) := by
  simp +contextual (maxDischargeDepth := 20) only [execRingPart, ite_keep, foldl_keep, keep_mk,
      keepOf_self, and_self, implies_true, *, outKeep_next, outKeep_ite, ringPart_keep, State.ifDie_keep]

theorem execRingCopy_keep {x : IoDie} (h : s.Keep Q) : OutKeep Q (execRingCopy x s) := by
  simp +contextual (maxDischargeDepth := 20) only [execRingCopy, ite_keep, foldl_keep, keep_mk,
      keepOf_self, and_self, implies_true, *, outKeep_next, outKeep_ite, ringCopy_keep, State.ifDie_keep]

theorem execRingWaitExpiry_keep {g : Course} (h : s.Keep Q) : OutKeep Q (execRingWaitExpiry g s) := by
  simp +contextual (maxDischargeDepth := 20) only [execRingWaitExpiry, ite_keep, foldl_keep,
      keep_mk, keepOf_self, and_self, implies_true, *, outKeep_next, outKeep_ite, ringWaitExpiry_keep,
      State.ifCourse_keep]

end Sys2Proof.Machine
end

