-- ==== Sys2Proof/Laws/KeepUpdate.lean ====
section
/-! SUPPORT. KeepUpdate: what the operations of Machine/Update, Start, Rely, Far, Course, Ecc, Ledger keep (see Keep). -/

set_option linter.unusedSimpArgs false
set_option linter.unusedTactic false
set_option linter.unreachableTactic false
set_option linter.unnecessarySeqFocus false
set_option linter.unusedVariables false

namespace Sys2Proof.Machine

variable {Q : Kept} {s t : State}

/-! ### Update -/

theorem issueUpd_keep {second : Bool} {g : Course} {w : BitVec 56} {t : State} (h : t.Keep Q) : Act.Keep Q (issueUpd
    second g w t) := by
  unfold issueUpd
  dsimp only
  (repeat' split) <;> simp +contextual (maxDischargeDepth := 20) only [ite_keep, foldl_keep, keep_mk, keepOf_self, and_self,
      implies_true, *, Act.keep_next, Act.keep_goto, Act.keep_stay, Act.keep_post, Act.keep_fault, Act.keep_faultIn,
      Act.keep_ite, State.submit_keep, guardAct_keep]

theorem State.updFault_keep {g : Course} {serial : Nat} {k : Stack} {code : BitVec 16} {poison : Bool} (h : s.Keep
    Q) : (State.updFault s g serial k code poison).Keep Q := by
  unfold State.updFault
  (repeat' split) <;> simp +contextual (maxDischargeDepth := 20) only [ite_keep, foldl_keep, keep_mk, keepOf_self, and_self,
      implies_true, *, State.modCourse_keep, State.raiseWith_keep, State.efirst_keep]

theorem State.setUpd_keep {ks : List Stack} {o v : Nat} (h : s.Keep Q) : (State.setUpd s ks o v).Keep Q := by
  simp +contextual (maxDischargeDepth := 20) only [State.setUpd, ite_keep, foldl_keep, keep_mk, keepOf_self, and_self,
      implies_true, *, State.setReg_keep]

theorem State.setUpd64_keep {ks : List Stack} {o : Nat} {v : DWord} (h : s.Keep Q) : (State.setUpd64 s ks o v).Keep
    Q := by
  simp +contextual (maxDischargeDepth := 20) only [State.setUpd64, ite_keep, foldl_keep, keep_mk, keepOf_self, and_self,
      implies_true, *, State.setReg64_keep]

theorem State.updCapture_keep {k : Stack} (h : s.Keep Q) : (State.updCapture s k).Keep Q := by
  simp +contextual (maxDischargeDepth := 20) only [State.updCapture, ite_keep, foldl_keep, keep_mk, keepOf_self, and_self,
      implies_true, *, State.modMem_keep]

theorem State.updNoDecision_keep {slices : List Stack} (h : s.Keep Q) : (State.updNoDecision s slices).Keep Q := by
  simp +contextual (maxDischargeDepth := 20) only [State.updNoDecision, ite_keep, foldl_keep, keep_mk, keepOf_self,
      and_self, implies_true, *, State.used_keep, State.setUpd_keep]

theorem State.startPass1_keep {g : Course} {serial addr : Nat} {m : BitVec 8} (h : s.Keep Q) : (State.startPass1 s g
    serial addr m).Keep Q := by
  unfold State.startPass1
  dsimp only
  (repeat' split) <;> simp +contextual (maxDischargeDepth := 20) only [ite_keep, foldl_keep, keep_mk, keepOf_self, and_self,
      implies_true, *, State.instrDone_keep, State.updFault_keep, State.setUpd_keep, State.updCapture_keep,
      State.updNoDecision_keep]

theorem State.modUpd_keep {r : UpdRun} {f : UpdRun → UpdRun} (h : s.Keep Q) : (State.modUpd s r f).Keep Q := by
  simp +contextual (maxDischargeDepth := 20) only [State.modUpd, ite_keep, foldl_keep, keep_mk, keepOf_self, and_self,
      implies_true, *]

theorem State.dropUpd_keep {r : UpdRun} (h : s.Keep Q) : (State.dropUpd s r).Keep Q := by
  simp +contextual (maxDischargeDepth := 20) only [State.dropUpd, ite_keep, foldl_keep, keep_mk, keepOf_self, and_self,
      implies_true, *]

theorem State.updHold_keep {r : UpdRun} {d : Decision} (h : s.Keep Q) : (State.updHold s r d).Keep Q := by
  unfold State.updHold
  (repeat' split) <;> simp +contextual (maxDischargeDepth := 20) only [ite_keep, foldl_keep, keep_mk, keepOf_self, and_self,
      implies_true, *, State.used_keep, State.instrDone_keep, State.updFault_keep, State.setUpd_keep, State.setUpd64_keep,
      State.dropUpd_keep]

theorem State.updTryDecide_keep {r : UpdRun} (h : s.Keep Q) : (State.updTryDecide s r).Keep Q := by
  unfold State.updTryDecide
  (repeat' split) <;> simp +contextual (maxDischargeDepth := 20) only [ite_keep, foldl_keep, keep_mk, keepOf_self, and_self,
      implies_true, *, State.orReg_keep, State.setUpd_keep, State.setUpd64_keep, State.updHold_keep]

theorem State.updExchange_keep {r : UpdRun} (h : s.Keep Q) : (State.updExchange s r).Keep Q := by
  unfold State.updExchange
  dsimp only
  (repeat' split) <;> simp +contextual (maxDischargeDepth := 20) only [ite_keep, foldl_keep, keep_mk, keepOf_self, and_self,
      implies_true, *, State.store_keep, State.netMessage_keep, State.modUpd_keep, State.updTryDecide_keep]

theorem updSlicePartial_keep {k : Stack} (h : s.Keep Q) : (updSlicePartial k s).Keep Q := by
  unfold updSlicePartial
  (repeat' split) <;> simp +contextual (maxDischargeDepth := 20) only [ite_keep, foldl_keep, keep_mk, keepOf_self, and_self,
      implies_true, *, State.modUpd_keep, State.updExchange_keep]

theorem State.takeRecord_keep {part group : Nat} {m : RxMsg} (h : s.Keep Q) (hx : s.takeRecord part group = some (m, t)) :
    t.Keep Q := by
  unfold State.takeRecord at hx
  obtain ⟨x, _, hx⟩ := List.exists_of_findSome?_eq_some hx
  rw [Option.map_eq_some_iff] at hx
  obtain ⟨m', _, hx⟩ := hx
  cases hx
  exact State.modNet_keep h
theorem updRecord_keep {k : Stack} (h : s.Keep Q) : (updRecord k s).Keep Q := by
  unfold updRecord
  split
  · exact h
  · split
    · exact h
    · have ht := State.takeRecord_keep h ‹_›
      dsimp only
      (repeat' split) <;> simp +contextual (maxDischargeDepth := 20) only [*, State.store_keep, State.updTryDecide_keep]

theorem State.wrUpdCtrl_keep {k : Stack} {v : Word} (h : s.Keep Q) : (State.wrUpdCtrl s k v).Keep Q := by
  unfold State.wrUpdCtrl
  (repeat' split) <;> simp +contextual (maxDischargeDepth := 20) only [ite_keep, foldl_keep, keep_mk, keepOf_self, and_self,
      implies_true, *, State.used_keep, State.setUpd_keep, State.setUpd64_keep, State.updHold_keep]

theorem State.updBlock_keep {s0 : State} {c : UpdScalars} {t : UpdTensor} {b : Nat} (h : s.Keep Q) :
    (State.updBlock s s0 c t b).1.Keep Q := by
  simp +contextual (maxDischargeDepth := 20) only [State.updBlock, ite_keep, foldl_keep, keep_mk,
      keepOf_self, and_self, implies_true, *, State.storeP_keep]

theorem State.writeUnit_keep {k : Stack} {e : UpdEnc} {im : UpdImage} {u done : Nat} {rows : List (Byte × Bool)} (h
    : s.Keep Q) : (State.writeUnit s k e im u done rows).1.Keep Q := by
  simp +contextual (maxDischargeDepth := 20) only [State.writeUnit, ite_keep, foldl_keep, keep_mk, keepOf_self, and_self,
      implies_true, *, State.raiseWith_keep, State.storeP_keep]

theorem State.writeTile_keep {k : Stack} {e : UpdEnc} {t : UpdTensor} {im : UpdImage} {tile : List (List ImgChunk)}
    {n done : Nat} (h : s.Keep Q) : (State.writeTile s k e t im tile n done).1.Keep Q := by
  refine foldl_keep_fst ?_ ?_
  · intro u a hu
    dsimp only
    split
    · refine foldl_keep ?_ hu
      intro v b hv
      exact foldl_keep (fun w c hw => State.storeP_keep hw) hv
    · exact foldl_keep_fst (fun v b hv => State.writeUnit_keep hv) hu
  · exact foldl_keep (fun v b hv => State.storeP_keep hv) h

theorem State.writeImage_keep {k : Stack} {e : UpdEnc} {t : UpdTensor} {im : UpdImage} {addr : Nat → Nat → Nat}
    {done : Nat} (h : s.Keep Q) : (State.writeImage s k e t im addr done).1.Keep Q := by
  exact foldl_keep_fst (fun u a hu => State.writeTile_keep hu) h

theorem State.writeImages_keep {k : Stack} {e : UpdEnc} {t : UpdTensor} {done : Nat} (h : s.Keep Q) :
    (State.writeImages s k e t done).1.Keep Q := by
  unfold State.writeImages
  (repeat' split) <;> simp +contextual (maxDischargeDepth := 20) only [ite_keep, foldl_keep, keep_mk, keepOf_self, and_self,
      implies_true, *, State.writeImage_keep]

theorem State.updSlice_keep {k : Stack} {d : List Byte} {e : UpdEnc} {sh : UpdShard} {done : Nat} (h : s.Keep Q) :
    (State.updSlice s k d e sh done).1.Keep Q := by
  unfold State.updSlice
  dsimp only
  refine ite_keep (State.orReg_keep ?_) ?_
  all_goals
    refine State.count_keep (State.count_keep (State.count_keep (State.storeN_keep (State.storeN_keep ?_))))
    refine foldl_keep_fst (fun u a hu => State.writeImages_keep hu) ?_
    refine foldl_keep_fst (fun u a hu => State.updBlock_keep hu) ?_
    exact State.storeN_keep (State.storeN_keep h)

theorem State.startPass2_keep {g : Course} {serial : Nat} {addr : Nat} {m : BitVec 8} {upset : List Nat} (h : s.Keep
    Q) : (State.startPass2 s g serial addr m upset).Keep Q := by
  unfold State.startPass2
  dsimp only
  split
  · exact State.instrDone_keep (State.updFault_keep h)
  · split
    · exact State.instrDone_keep (State.updFault_keep h)
    · split
      · exact State.instrDone_keep (State.updFault_keep h)
      · split
        · exact State.instrDone_keep (State.updFault_keep h)
        · refine State.instrDone_keep ?_
          generalize hr : List.foldl _ _ _ = r
          have hk : r.1.Keep Q := by
            rw [← hr]
            exact foldl_keep_fst (fun u a hu => State.updSlice_keep hu) h
          split
          · refine State.updFault_keep ?_
            split
            · exact State.updFault_keep hk
            · exact hk
          · split
            · exact State.updFault_keep hk
            · exact hk

theorem State.runUpd_keep {g : Course} {e : QEntry} {upset : List Nat} (h : s.Keep Q) : (State.runUpd s g e
    upset).Keep Q := by
  unfold State.runUpd
  (repeat' split) <;> simp +contextual (maxDischargeDepth := 20) only [ite_keep, foldl_keep, keep_mk, keepOf_self,
      and_self, implies_true, *, State.startPass1_keep, State.startPass2_keep]

theorem execUpdPass1_keep {g : Course} {w : BitVec 56} (h : s.Keep Q) : OutKeep Q (execUpdPass1 g w s) := by
  unfold execUpdPass1
  rw [outKeep_next]
  apply State.issueEngine_keep h
  intro t ht
  (try dsimp only)
  (repeat' split) <;> simp +contextual (maxDischargeDepth := 20) only [ite_keep, foldl_keep, keep_mk, keepOf_self, and_self,
      implies_true, *, outKeep_next, outKeep_ite, Act.keep_next, Act.keep_goto, Act.keep_stay, Act.keep_post, Act.keep_fault,
      Act.keep_faultIn, Act.keep_ite, State.issueEngine_keep, issueUpd_keep]

theorem execUpdPass2_keep {g : Course} {w : BitVec 56} (h : s.Keep Q) : OutKeep Q (execUpdPass2 g w s) := by
  unfold execUpdPass2
  rw [outKeep_next]
  apply State.issueEngine_keep h
  intro t ht
  (try dsimp only)
  (repeat' split) <;> simp +contextual (maxDischargeDepth := 20) only [ite_keep, foldl_keep, keep_mk, keepOf_self, and_self,
      implies_true, *, outKeep_next, outKeep_ite, Act.keep_next, Act.keep_goto, Act.keep_stay, Act.keep_post, Act.keep_fault,
      Act.keep_faultIn, Act.keep_ite, State.issueEngine_keep, issueUpd_keep]

theorem execUpdSlicePartial_keep {k : Stack} (h : s.Keep Q) : OutKeep Q (execUpdSlicePartial k s) := by
  simp +contextual (maxDischargeDepth := 20) only [execUpdSlicePartial, ite_keep, foldl_keep,
      keep_mk, keepOf_self, and_self, implies_true, *, outKeep_next, outKeep_ite, updSlicePartial_keep,
      State.ifDie_keep]

theorem execUpdRecord_keep {k : Stack} (h : s.Keep Q) : OutKeep Q (execUpdRecord k s) := by
  simp +contextual (maxDischargeDepth := 20) only [execUpdRecord, ite_keep, foldl_keep, keep_mk,
      keepOf_self, and_self, implies_true, *, outKeep_next, outKeep_ite, updRecord_keep, State.ifDie_keep]

/-! ### Start -/

theorem State.vecLane_keep {g : Course} {group : Fin 9} (h : s.Keep Q) : (State.vecLane s g group).Keep Q := by
  simp +contextual (maxDischargeDepth := 20) only [State.vecLane, ite_keep, foldl_keep, keep_mk, keepOf_self, and_self,
      implies_true, *, State.modCourse_keep, State.failed_keep, State.raiseRel_keep]

theorem State.vecCheck_keep {g : Course} {q : QueueId} {e : QEntry} {err : Option EngineErr} (h : s.Keep Q) :
    (State.vecCheck s g q e err).Keep Q := by
  unfold State.vecCheck
  (repeat' split) <;> simp +contextual (maxDischargeDepth := 20) only [ite_keep, foldl_keep, keep_mk, keepOf_self, and_self,
      implies_true, *, State.raiseCourse_keep, State.vecLane_keep]

theorem State.actStart_keep {g : Course} {q : QueueId} {e : QEntry} {err : Option EngineErr} (h : s.Keep Q) : OptKeep
    Q (State.actStart s g q e err) := by
  have hv : (s.vecCheck g q e err).Keep Q := State.vecCheck_keep h
  unfold State.actStart
  generalize s.vecCheck g q e err = t at hv ⊢
  dsimp only
  split
  · exact optKeep_some.mpr (State.modCourse_keep hv)
  · exact optKeep_some.mpr (State.runParity_keep hv)
  · exact State.runStr_keep hv
  · exact State.runStr_keep hv
  · exact State.runStr_keep hv
  · exact State.runStr_keep hv
  · exact optKeep_some.mpr (State.runVec_keep hv)
  · exact optKeep_some.mpr (State.runVec_keep hv)
  · exact optKeep_some.mpr (State.runVec_keep hv)
  · exact optKeep_some.mpr (State.runVec_keep hv)
  · exact optKeep_some.mpr (State.runVec_keep hv)
  · exact optKeep_some.mpr (State.runVec_keep hv)
  · exact optKeep_some.mpr (State.runVec_keep hv)
  · exact optKeep_some.mpr (State.runRed_keep hv)
  · exact optKeep_some.mpr (State.runRed_keep hv)
  · exact optKeep_some.mpr (State.runRed_keep hv)
  · exact optKeep_some.mpr (State.runUpd_keep hv)
  · exact optKeep_some.mpr hv

theorem State.strDone_keep {g : Course} {q : QueueId} {e : QEntry} (h : s.Keep Q) : (State.strDone s g q e).Keep Q
    := by
  simp +contextual (maxDischargeDepth := 20) only [State.strDone, ite_keep, foldl_keep, keep_mk, keepOf_self, and_self,
      implies_true, *, State.instrDone_keep]

theorem State.leaveFor_keep {g : Course} {q : QueueId} {e : QEntry} (h : s.Keep Q) : (State.leaveFor s g q e).1.Keep
    Q := by
  unfold State.leaveFor
  (repeat' split) <;> simp +contextual (maxDischargeDepth := 20) only [ite_keep, foldl_keep, keep_mk, keepOf_self, and_self,
      implies_true, *, optKeep_some, optKeep_none, optKeep_ite, State.obtainLeave_keep]

theorem State.noteRepeat_keep {g : Course} {q : QueueId} {e : QEntry} (h : s.Keep Q) : (State.noteRepeat s g q e).Keep
    Q := by
  unfold State.noteRepeat
  (repeat' split) <;> simp +contextual (maxDischargeDepth := 20) only [ite_keep, foldl_keep, keep_mk, keepOf_self,
      and_self, implies_true, *, State.countC_keep]

theorem instrStart_keep {g : Course} {q : QueueId} {err : Option EngineErr} (h : s.Keep Q) : (instrStart g q err
    s).Keep Q := by
  unfold instrStart
  dsimp only
  split
  · exact h
  · split
    · exact h
    · split
      · exact h
      · have hr := State.leaveFor_keep (g := g) (q := q) (e := ‹QEntry›) h
        generalize State.leaveFor s g q _ = r at hr ⊢
        obtain ⟨t, o⟩ := r
        cases o with
        | none => exact hr
        | some y =>
          dsimp only at hr ⊢
          split
          · exact h
          · exact State.checkWindow_keep (State.settle_keep (State.strDone_keep
              (State.actStart_keep (State.modCourse_keep (foldl_keep (fun u o hu => State.startTicks_keep hu)
                (State.noteRepeat_keep hr))) _ ‹_›)))

theorem fwuTake_keep {g : Course} (h : s.Keep Q) : (fwuTake g s).Keep Q := by
  simp +contextual (maxDischargeDepth := 20) only [fwuTake, ite_keep, foldl_keep, keep_mk, keepOf_self, and_self,
      implies_true, *, State.settle_keep, fwuAccept_keep]

theorem execEngineInstrStart_keep {g : Course} {q : QueueId} {e : Option EngineErr} (h : s.Keep Q) : OutKeep Q
    (execEngineInstrStart g q e s) := by
  simp +contextual (maxDischargeDepth := 20) only [execEngineInstrStart, ite_keep, foldl_keep,
      keep_mk, keepOf_self, and_self, implies_true, *, outKeep_next, outKeep_ite, instrStart_keep,
      State.ifCourse_keep]

theorem execFwuAccept_keep {g : Course} (h : s.Keep Q) : OutKeep Q (execFwuAccept g s) := by
  simp +contextual (maxDischargeDepth := 20) only [execFwuAccept, ite_keep, foldl_keep, keep_mk,
      keepOf_self, and_self, implies_true, *, outKeep_next, outKeep_ite, fwuTake_keep, State.ifCourse_keep]

/-! ### Rely -/

theorem State.wrSplit_keep {g : Course} {v : Word} (h : s.Keep Q) : (State.wrSplit s g v).Keep Q := by
  simp +contextual (maxDischargeDepth := 20) only [State.wrSplit, ite_keep, foldl_keep, keep_mk, keepOf_self, and_self,
      implies_true, *, State.setReg_keep, State.orReg_keep]

theorem State.pairFailed_keep {g : Course} (h : s.Keep Q) : (State.pairFailed s g).Keep Q := by
  simp +contextual (maxDischargeDepth := 20) only [State.pairFailed, ite_keep, foldl_keep, keep_mk, keepOf_self, and_self,
      implies_true, *, State.modCourse_keep, State.failed_keep, State.raiseRel_keep, State.fence_keep]

theorem lockstepMismatch_keep {g : Course} {persists : Bool} (h : s.Keep Q) : (lockstepMismatch g persists s).Keep Q
    := by
  simp +contextual (maxDischargeDepth := 20) only [lockstepMismatch, ite_keep, foldl_keep, keep_mk, keepOf_self, and_self,
      implies_true, *, State.countC_keep, State.raiseWith_keep, State.pairFailed_keep]

theorem State.askTest_keep {g : Course} {units : BitVec 8} {pc : Addr} {te : Bool} {tally : Fin 256} {ntf : Bool} (h
    : s.Keep Q) : (State.askTest s g units pc te tally ntf).Keep Q := by
  simp +contextual (maxDischargeDepth := 20) only [State.askTest, ite_keep, foldl_keep, keep_mk, keepOf_self, and_self,
      implies_true, *, State.modCourse_keep, State.modDie_keep, State.tick_keep]

theorem selftestPeriodic_keep {w : TestOwner} (h : s.Keep Q) : (selftestPeriodic w s).Keep Q := by
  unfold selftestPeriodic
  (repeat' split) <;> simp +contextual (maxDischargeDepth := 20) only [ite_keep, foldl_keep, keep_mk, keepOf_self, and_self,
      implies_true, *, State.modDie_keep, State.askTest_keep]

theorem issueSelftest_keep {g : Course} {w : BitVec 56} (h : s.Keep Q) : Act.Keep Q (issueSelftest g w s) := by
  unfold issueSelftest
  exact tallyField_keep (Act.keep_ite Act.keep_fault (Act.keep_next.mpr (State.askTest_keep h)))

theorem State.testResult_keep {off : Nat} {groups failed : BitVec 8} (h : s.Keep Q) : (State.testResult s off groups
    failed).Keep Q := by
  simp +contextual (maxDischargeDepth := 20) only [State.testResult, ite_keep, foldl_keep, keep_mk, keepOf_self, and_self,
      implies_true, *, State.setReg_keep, State.failed_keep]

theorem State.testPart_keep {g : Course} {id : Nat} {groups : BitVec 8} (h : s.Keep Q) : (State.testPart s g id
    groups).Keep Q := by
  simp +contextual (maxDischargeDepth := 20) only [State.testPart, ite_keep, foldl_keep, keep_mk, keepOf_self, and_self,
      implies_true, *, State.modCourse_keep, State.finishTests_keep]

theorem State.latent_keep {g : Course} {f : TestFault} {failing : BitVec 8} {k : Nat} (h : s.Keep Q) : (State.latent s
    g f failing k).Keep Q := by
  unfold State.latent
  (repeat' split) <;> simp +contextual (maxDischargeDepth := 20) only [ite_keep, foldl_keep, keep_mk, keepOf_self,
      and_self, implies_true, *, State.raiseRel_keep, State.arrayLost_keep, State.halfLost_keep,
      State.vecLane_keep, State.pairFailed_keep]

theorem State.latentDie_keep {d : CDie} {f : TestFault} {k : Nat} (h : s.Keep Q) : (State.latentDie s d f k).Keep Q
    := by
  simp +contextual (maxDischargeDepth := 20) only [State.latentDie, ite_keep, foldl_keep, keep_mk, keepOf_self, and_self,
      implies_true, *, State.failed_keep, State.raiseRel_keep, State.fwuLost_keep]

theorem selftestComplete_keep {w : TestOwner} {f : TestFault} (h : s.Keep Q) : (selftestComplete w f s).Keep Q := by
  unfold selftestComplete
  (repeat' split) <;> simp +contextual (maxDischargeDepth := 20) only [ite_keep, foldl_keep, keep_mk, keepOf_self,
      and_self, implies_true, *, State.modDie_keep, State.testResult_keep, State.testPart_keep, State.latent_keep,
      State.latentDie_keep]

theorem State.readmit_keep {g : Course} {p : Nat} {pass : Bool} (h : s.Keep Q) : (State.readmit s g p pass).Keep Q
    := by
  simp +contextual (maxDischargeDepth := 20) only [State.readmit, ite_keep, foldl_keep, keep_mk, keepOf_self, and_self,
      implies_true, *, State.modCourse_keep, State.raiseRel_keep]

theorem sramScrubVisit_keep {g : Course} {word : Option (Fin 3145728)} {e : WordErr} {scrub : Bool} (h : s.Keep Q) :
    (sramScrubVisit g word e scrub s).Keep Q := by
  unfold sramScrubVisit
  (repeat' split) <;> simp +contextual (maxDischargeDepth := 20) only [ite_keep, foldl_keep, keep_mk, keepOf_self, and_self,
      implies_true, *, State.setPoison_keep, State.countC_keep, State.capture1_keep, State.raiseRel_keep, State.fence_keep]

theorem execLockstepMismatch_keep {g : Course} {persists : Bool} (h : s.Keep Q) : OutKeep Q (execLockstepMismatch g
    persists s) := by
  simp +contextual (maxDischargeDepth := 20) only [execLockstepMismatch, ite_keep, foldl_keep,
      keep_mk, keepOf_self, and_self, implies_true, *, outKeep_next, outKeep_ite, lockstepMismatch_keep,
      State.ifCourse_keep]

theorem execDiagSelftest_keep {g : Course} {w : BitVec 56} (h : s.Keep Q) : OutKeep Q (execDiagSelftest g w s) := by
  unfold execDiagSelftest
  rw [outKeep_next]
  apply State.issue_keep h
  intro t ht
  (try dsimp only)
  (repeat' split) <;> simp +contextual (maxDischargeDepth := 20) only [ite_keep, foldl_keep, keep_mk, keepOf_self, and_self,
      implies_true, *, outKeep_next, outKeep_ite, Act.keep_next, Act.keep_goto, Act.keep_stay, Act.keep_post, Act.keep_fault,
      Act.keep_faultIn, Act.keep_ite, State.issue_keep, issueSelftest_keep]

theorem State.ifOwner_keep {t : TestOwner} {act : State → State} (h : s.Keep Q) (hact : ∀ t : State, t.Keep Q → (act
    t).Keep Q) : (State.ifOwner s t act).Keep Q := by
  unfold State.ifOwner
  (repeat' split) <;> simp +contextual (maxDischargeDepth := 20) only [ite_keep, foldl_keep, keep_mk, keepOf_self,
      and_self, implies_true, *, State.ifCourse_keep, State.ifDie_keep, State.act_keep]

theorem execSelftestPeriodic_keep {t : TestOwner} (h : s.Keep Q) : OutKeep Q (execSelftestPeriodic t s) := by
  simp +contextual (maxDischargeDepth := 20) only [execSelftestPeriodic, ite_keep, foldl_keep,
      keep_mk, keepOf_self, and_self, implies_true, *, outKeep_next, outKeep_ite, selftestPeriodic_keep,
      State.ifOwner_keep]

theorem execSelftestComplete_keep {t : TestOwner} {f : TestFault} (h : s.Keep Q) : OutKeep Q (execSelftestComplete t f
    s) := by
  simp +contextual (maxDischargeDepth := 20) only [execSelftestComplete, ite_keep, foldl_keep,
      keep_mk, keepOf_self, and_self, implies_true, *, outKeep_next, outKeep_ite, selftestComplete_keep,
      State.ifOwner_keep]

theorem execSramScrubVisit_keep {g : Course} {word : Option (Fin 3145728)} {e : WordErr} {scrub : Bool} (h : s.Keep Q)
    : OutKeep Q (execSramScrubVisit g word e scrub s) := by
  simp +contextual (maxDischargeDepth := 20) only [execSramScrubVisit, ite_keep, foldl_keep,
      keep_mk, keepOf_self, and_self, implies_true, *, outKeep_next, outKeep_ite, sramScrubVisit_keep,
      State.ifDie_keep]

/-! ### Far -/

theorem farAccess_keep {l : LinkId} {line : Nat} {data : Option (Nat × List Byte × Bool)} {prot bad : Bool} (h :
    s.Keep Q) : (farAccess l line data prot bad s).Keep Q := by
  unfold farAccess
  (repeat' split) <;> simp +contextual (maxDischargeDepth := 20) only [ite_keep, foldl_keep, keep_mk, keepOf_self, and_self,
      implies_true, *, State.modFar_keep, State.farReadLine_keep, State.farWriteLine_keep]

theorem State.linkLost_keep {l : LinkId} (h : s.Keep Q) : (State.linkLost s l).Keep Q := by
  simp +contextual (maxDischargeDepth := 20) only [State.linkLost, ite_keep, foldl_keep, keep_mk, keepOf_self, and_self,
      implies_true, *, State.setReg_keep, State.setReg64_keep, State.raiseFar_keep]

theorem cxlLaneFail_keep {l : LinkId} {lane : Fin 16} (h : s.Keep Q) : (cxlLaneFail l lane s).Keep Q := by
  simp +contextual (maxDischargeDepth := 20) only [cxlLaneFail, ite_keep, foldl_keep, keep_mk, keepOf_self, and_self,
      implies_true, *, State.setReg_keep, State.modFar_keep, State.raiseFar_keep, State.failed_keep, State.linkLost_keep]

theorem State.wrFarKey_keep {l : LinkId} {v : Word} (h : s.Keep Q) : (State.wrFarKey s l v).Keep Q := by
  unfold State.wrFarKey
  dsimp only
  (repeat' split) <;> simp +contextual (maxDischargeDepth := 20) only [ite_keep, foldl_keep, keep_mk, keepOf_self, and_self,
      implies_true, *, State.orReg_keep, State.modFar_keep]

theorem State.wrFarRegion_keep {l : LinkId} {i : Fin 16} {v : Word} (h : s.Keep Q) : (State.wrFarRegion s l i
    v).Keep Q := by
  simp +contextual (maxDischargeDepth := 20) only [State.wrFarRegion, ite_keep, foldl_keep, keep_mk, keepOf_self, and_self,
      implies_true, *, State.setReg_keep, State.orReg_keep, State.clrReg_keep]

theorem execFarAccess_keep {l : LinkId} {line : Fin 8589934592} {data : Option (Fin 64 × List Byte × Bool)} {prot :
    Bool} {bad : Bool} (h : s.Keep Q) : OutKeep Q (execFarAccess l line data prot bad s) := by
  simp +contextual (maxDischargeDepth := 20) only [execFarAccess, ite_keep, foldl_keep, keep_mk,
      keepOf_self, and_self, implies_true, *, outKeep_next, outKeep_ite, farAccess_keep, State.ifDie_keep]

theorem execCxlLaneFail_keep {l : LinkId} {lane : Fin 16} (h : s.Keep Q) : OutKeep Q (execCxlLaneFail l lane s) := by
  simp +contextual (maxDischargeDepth := 20) only [execCxlLaneFail, ite_keep, foldl_keep, keep_mk,
      keepOf_self, and_self, implies_true, *, outKeep_next, outKeep_ite, cxlLaneFail_keep, State.ifDie_keep]

theorem execCxlLinkLoss_keep {l : LinkId} (h : s.Keep Q) : OutKeep Q (execCxlLinkLoss l s) := by
  simp +contextual (maxDischargeDepth := 20) only [execCxlLinkLoss, ite_keep, foldl_keep, keep_mk,
      keepOf_self, and_self, implies_true, *, outKeep_next, outKeep_ite, State.linkLost_keep, State.ifDie_keep]

/-! ### Course -/

theorem State.withdrawLock_keep {g : Course} (h : s.Keep Q) : (State.withdrawLock s g).Keep Q := by
  unfold State.withdrawLock
  (repeat' split) <;> simp +contextual (maxDischargeDepth := 20) only [ite_keep, foldl_keep, keep_mk, keepOf_self, and_self,
      implies_true, *, State.send_keep]

theorem State.dropRequests_keep {g : Course} (h : s.Keep Q) : (State.dropRequests s g).Keep Q := by
  simp +contextual (maxDischargeDepth := 20) only [State.dropRequests, ite_keep, foldl_keep, keep_mk, keepOf_self,
      and_self, implies_true, *, foldl_keep, State.modCDie_keep]

theorem State.dropRing_keep {g : Course} (h : s.Keep Q) : (State.dropRing s g).Keep Q := by
  unfold State.dropRing
  (repeat' split) <;> simp +contextual (maxDischargeDepth := 20) only [ite_keep, foldl_keep, keep_mk, keepOf_self,
      and_self, implies_true, *, State.dropQueued_keep]

theorem State.freeStreams_keep {g : Course} (h : s.Keep Q) : (State.freeStreams s g).Keep Q := by
  simp +contextual (maxDischargeDepth := 20) only [State.freeStreams, ite_keep, foldl_keep, keep_mk, keepOf_self,
      and_self, implies_true, *, foldl_keep, State.modStream_keep, State.free_keep]

theorem State.courseReset_keep {g : Course} (h : s.Keep Q) : (State.courseReset s g).Keep Q := by
  simp +contextual (maxDischargeDepth := 20) only [State.courseReset, ite_keep, foldl_keep,
      keep_mk, keepOf_self, and_self, implies_true, *, State.resetRegs_keep, State.modCourse_keep,
      State.toStacks_keep, State.releaseHold_keep, State.ungrant_keep, State.free_keep, State.withdrawLock_keep,
      State.dropRequests_keep, State.dropRing_keep, State.freeStreams_keep]

theorem State.wrCtrl_keep {g : Course} {v : Word} (h : s.Keep Q) : (State.wrCtrl s g v).Keep Q := by
  simp +contextual (maxDischargeDepth := 20) only [State.wrCtrl, ite_keep, foldl_keep, keep_mk, keepOf_self, and_self,
      implies_true, *, State.ctlStart_keep, State.ctlStop_keep, State.ibufInv_keep, State.courseReset_keep]

theorem State.wrTallyAdd_keep {g : Course} {v : Word} (h : s.Keep Q) : (State.wrTallyAdd s g v).Keep Q := by
  simp +contextual (maxDischargeDepth := 20) only [State.wrTallyAdd, ite_keep, foldl_keep, keep_mk, keepOf_self, and_self,
      implies_true, *, State.modCourse_keep, State.settle_keep]

theorem State.wrTallyPoison_keep {g : Course} {k : Fin 8} {v : Word} (h : s.Keep Q) : (State.wrTallyPoison s g k
    v).Keep Q := by
  simp +contextual (maxDischargeDepth := 20) only [State.wrTallyPoison, ite_keep, foldl_keep, keep_mk, keepOf_self,
      and_self, implies_true, *, State.modCourse_keep]

theorem State.wrCourseCmd_keep {g : Course} {v : Word} (h : s.Keep Q) : (State.wrCourseCmd s g v).Keep Q := by
  simp +contextual (maxDischargeDepth := 20) only [State.wrCourseCmd, ite_keep, foldl_keep, keep_mk, keepOf_self, and_self,
      implies_true, *, State.used_keep, State.fence_keep, State.readmit_keep]

/-! ### Ledger -/

theorem State.flashPut_keep {a : Nat} {bs : List Nat} (h : s.Keep Q) : (State.flashPut s a bs).Keep Q := by
  simp +contextual (maxDischargeDepth := 20) only [State.flashPut, ite_keep, foldl_keep, keep_mk, keepOf_self, and_self,
      implies_true, *]

theorem State.flashErase_keep {half : Nat} (h : s.Keep Q) : (State.flashErase s half).Keep Q := by
  simp +contextual (maxDischargeDepth := 20) only [State.flashErase, ite_keep, foldl_keep, keep_mk, keepOf_self, and_self,
      implies_true, *]

theorem State.raiseLedger_keep (h : s.Keep Q) : (State.raiseLedger s).Keep Q := by
  simp +contextual (maxDischargeDepth := 20) only [State.raiseLedger, ite_keep, foldl_keep, keep_mk, keepOf_self, and_self,
      implies_true, *, State.raiseBoot_keep]

theorem State.ledgerAppend_keep {ok : Bool} {half : Nat} {r : LedgerRec} (h : s.Keep Q) : (State.ledgerAppend s ok
    half r).Keep Q := by
  simp +contextual (maxDischargeDepth := 20) only [State.ledgerAppend, ite_keep, foldl_keep, keep_mk, keepOf_self, and_self,
      implies_true, *, State.flashPut_keep, State.raiseLedger_keep]

theorem failureRecord_keep {ok : Bool} (h : s.Keep Q) : (failureRecord ok s).Keep Q := by
  unfold failureRecord
  (repeat' split) <;> simp +contextual (maxDischargeDepth := 20) only [ite_keep, foldl_keep, keep_mk, keepOf_self, and_self,
      implies_true, *, State.ledgerAppend_keep]

theorem State.retryPrimary_keep {ok : Bool} (h : s.Keep Q) : (State.retryPrimary s ok).Keep Q := by
  simp +contextual (maxDischargeDepth := 20) only [State.retryPrimary, ite_keep, foldl_keep, keep_mk, keepOf_self, and_self,
      implies_true, *, State.ledgerAppend_keep]

theorem State.setBytes_keep {o : Nat} {bs : List Nat} (h : s.Keep Q) : (State.setBytes s o bs).Keep Q := by
  simp +contextual (maxDischargeDepth := 20) only [State.setBytes, ite_keep, foldl_keep, keep_mk, keepOf_self, and_self,
      implies_true, *, State.setReg_keep]

theorem State.wrKwk_keep {v : Word} (h : s.Keep Q) : (State.wrKwk s v).Keep Q := by
  unfold State.wrKwk
  (repeat' split) <;> simp +contextual (maxDischargeDepth := 20) only [ite_keep, foldl_keep, keep_mk, keepOf_self, and_self,
      implies_true, *]

theorem kwkDeriveDone_keep (h : s.Keep Q) : (kwkDeriveDone s).Keep Q := by
  unfold kwkDeriveDone
  (repeat' split) <;> simp +contextual (maxDischargeDepth := 20) only [ite_keep, foldl_keep, keep_mk, keepOf_self, and_self,
      implies_true, *, State.orReg_keep, State.irqPf_keep, State.raiseBoot_keep]

theorem execFailureRecord_keep {ok : Bool} (h : s.Keep Q) : OutKeep Q (execFailureRecord ok s) := by
  simp +contextual (maxDischargeDepth := 20) only [execFailureRecord, ite_keep, foldl_keep,
      keep_mk, keepOf_self, and_self, implies_true, *, outKeep_next, outKeep_ite, failureRecord_keep,
      State.ifDie_keep]

theorem execKwkDeriveDone_keep (h : s.Keep Q) : OutKeep Q (execKwkDeriveDone s) := by
  simp +contextual (maxDischargeDepth := 20) only [execKwkDeriveDone, ite_keep, foldl_keep,
      keep_mk, keepOf_self, and_self, implies_true, *, outKeep_next, outKeep_ite, kwkDeriveDone_keep,
      State.ifDie_keep]

end Sys2Proof.Machine
end

