-- ==== Sys2Proof/Laws/KeepHost.lean ====
section
/-! SUPPORT. KeepHost: what the operations of Machine/Boot, Host, Live, Regs, IsconMem keep (see Keep). -/

set_option linter.unusedSimpArgs false
set_option linter.unusedTactic false
set_option linter.unreachableTactic false
set_option linter.unnecessarySeqFocus false
set_option linter.unusedVariables false

namespace Sys2Proof.Machine

variable {Q : Kept} {s t : State}

/-! ### Ops -/

theorem State.elapse_keep {base : Nat} {ctrl : Nat} {cnt : Nat} {on : Bool} (h : s.Keep Q) : (State.elapse s base ctrl
    cnt on).Keep Q := by
  simp +contextual (maxDischargeDepth := 20) only [State.elapse, ite_keep, foldl_keep, keep_mk, keepOf_self, and_self,
      implies_true, *, State.used_keep, State.count_keep]

/-! ### Streams -/

theorem State.rearmElapse_keep {g : Course} {n : Nat} (h : s.Keep Q) : (State.rearmElapse s g n).Keep Q := by
  simp +contextual (maxDischargeDepth := 20) only [State.rearmElapse, ite_keep, foldl_keep, keep_mk, keepOf_self,
      and_self, implies_true, *, State.used_keep, State.modStream_keep]

theorem State.rearmSettle_keep {g : Course} {clear : Bool} (h : s.Keep Q) : (State.rearmSettle s g clear).Keep Q := by
  simp +contextual (maxDischargeDepth := 20) only [State.rearmSettle, ite_keep, foldl_keep, keep_mk, keepOf_self,
      and_self, implies_true, *, foldl_keep, State.modStream_keep, State.rearmElapse_keep]

/-! ### Boot -/

theorem unplannedPowerLoss_keep (h : s.Keep Q) : (unplannedPowerLoss s).Keep Q := by
  unfold unplannedPowerLoss
  (repeat' split) <;> simp +contextual (maxDischargeDepth := 20) only [ite_keep, foldl_keep, keep_mk, keepOf_self, and_self,
      implies_true, *, State.packageReset_keep, State.used_keep, State.flashPut_keep]

theorem State.modRun_keep {f : BootRun → BootRun} (h : s.Keep Q) : (State.modRun s f).Keep Q := by
  simp +contextual (maxDischargeDepth := 20) only [State.modRun, ite_keep, foldl_keep, keep_mk, keepOf_self, and_self,
      implies_true, *]

theorem State.bootBits_keep {m : Word} (h : s.Keep Q) : (State.bootBits s m).Keep Q := by
  simp +contextual (maxDischargeDepth := 20) only [State.bootBits, ite_keep, foldl_keep, keep_mk, keepOf_self, and_self,
      implies_true, *, State.orReg_keep]

theorem State.attempt_keep {r : BootRun} {u path outcome code detail : Nat} (h : s.Keep Q) : (State.attempt s r u
    path outcome code detail).Keep Q := by
  simp +contextual (maxDischargeDepth := 20) only [State.attempt, ite_keep, foldl_keep, keep_mk, keepOf_self, and_self,
      implies_true, *, State.ledgerAppend_keep]

theorem State.mapOut_keep {r : BootRun} {ps : List FailRec} (h : s.Keep Q) : (State.mapOut s r ps).Keep Q := by
  simp +contextual (maxDischargeDepth := 20) only [State.mapOut, ite_keep, foldl_keep, keep_mk, keepOf_self, and_self,
      implies_true, *, State.ledgerAppend_keep]

theorem State.attemptDetail_keep {step path : Nat} (h : s.Keep Q) : (State.attemptDetail s step path).2.Keep Q := by
  unfold State.attemptDetail
  (repeat' split) <;> simp +contextual (maxDischargeDepth := 20) only [ite_keep, foldl_keep, keep_mk, keepOf_self, and_self,
      implies_true, *, State.used_keep]

theorem State.startDie_keep {r : BootRun} {d : Die} {path : Nat} (h : s.Keep Q) : OptKeep Q (State.startDie s r d
    path) := by
  simp +contextual (maxDischargeDepth := 20) only [State.startDie, ite_keep, foldl_keep, keep_mk, keepOf_self, and_self,
      implies_true, *, optKeep_some, optKeep_none, optKeep_ite, State.modDie_keep, State.raisePower_keep, State.mapOut_keep]

theorem State.bootIdentity_keep {slot : Bool} (h : s.Keep Q) : OptKeep Q (State.bootIdentity s slot) := by
  unfold State.bootIdentity
  (repeat' split) <;> simp +contextual (maxDischargeDepth := 20) only [ite_keep, foldl_keep, keep_mk, keepOf_self, and_self,
      implies_true, *, optKeep_some, optKeep_none, optKeep_ite, State.setReg64_keep, State.setBytes_keep]

theorem State.bootAuth_keep {slot : Bool} (h : s.Keep Q) : OptKeep Q (State.bootAuth s slot) := by
  unfold State.bootAuth
  (repeat' split) <;> simp +contextual (maxDischargeDepth := 20) only [ite_keep, foldl_keep, keep_mk, keepOf_self, and_self,
      implies_true, *, optKeep_some, optKeep_none, optKeep_ite, State.setReg64_keep, State.setBytes_keep, State.bootBits_keep]

theorem State.fenceAtBoot_keep {g : Course} (h : s.Keep Q) : (State.fenceAtBoot s g).Keep Q := by
  simp +contextual (maxDischargeDepth := 20) only [State.fenceAtBoot, ite_keep, foldl_keep, keep_mk, keepOf_self, and_self,
      implies_true, *, State.modCourse_keep]

theorem State.applyPart_keep {p : FailRec} (h : s.Keep Q) : (State.applyPart s p).Keep Q := by
  unfold State.applyPart
  (repeat' split) <;> simp +contextual (maxDischargeDepth := 20) only [ite_keep, foldl_keep, keep_mk, keepOf_self,
      and_self, implies_true, *, State.modCourse_keep, State.modCDie_keep, State.fenceAtBoot_keep,
      State.modMem_keep]

theorem State.bootRepair_keep {r : BootRun} {path : Nat} (h : s.Keep Q) : OptKeep Q (State.bootRepair s r path) :=
    by
  unfold State.bootRepair
  dsimp only
  (repeat' split) <;> simp +contextual (maxDischargeDepth := 20) only [ite_keep, foldl_keep, keep_mk, keepOf_self, and_self,
      implies_true, *, optKeep_some, optKeep_none, optKeep_ite, State.modRun_keep, State.applyPart_keep]

theorem State.trainEdge_keep {r : BootRun} {u : Nat} (h : s.Keep Q) : OptKeep Q (State.trainEdge s r u) := by
  simp +contextual (maxDischargeDepth := 20) only [State.trainEdge, ite_keep, foldl_keep, keep_mk, keepOf_self, and_self,
      implies_true, *, optKeep_some, optKeep_none, optKeep_ite, State.modDie_keep]

theorem State.clearMemory_keep {lo hi : Nat} (h : s.Keep Q) : (State.clearMemory s lo hi).Keep Q := by
  obtain ⟨h, hq⟩ := h
  refine ⟨fun hc => ?_, hq⟩
  replace h := h hc
  simp only [Bool.and_eq_true] at h ⊢
  obtain ⟨⟨⟨⟨a, b⟩, c⟩, d⟩, e⟩ := h
  exact ⟨⟨⟨⟨SMap.wf_filter _ a, SMap.wf_filter _ b⟩, c⟩, d⟩, e⟩

theorem State.testSlice_keep {g : Course} (h : s.Keep Q) : (State.testSlice s g).Keep Q := by
  simp +contextual (maxDischargeDepth := 20) only [State.testSlice, ite_keep, foldl_keep, keep_mk, keepOf_self,
      and_self, implies_true, *, State.clearMemory_keep]

theorem State.trainStack_keep {r : BootRun} {k : Stack} {path : Nat} (h : s.Keep Q) : (State.trainStack s r k
    path).Keep Q := by
  simp +contextual (maxDischargeDepth := 20) only [State.trainStack, ite_keep, foldl_keep, keep_mk,
      keepOf_self, and_self, implies_true, *, State.setReg_keep, State.modMem_keep, State.clearMemory_keep]

theorem State.testArrays_keep {r : BootRun} {g : Course} (h : s.Keep Q) : OptKeep Q (State.testArrays s r g) := by
  simp +contextual (maxDischargeDepth := 20) only [State.testArrays, ite_keep, foldl_keep, keep_mk, keepOf_self, and_self,
      implies_true, *, optKeep_some, optKeep_none, optKeep_ite, State.modCourse_keep]

theorem State.linkUp_keep {gen : Nat} {w : LinkWidth} (h : s.Keep Q) : (State.linkUp s gen w).Keep Q := by
  simp +contextual (maxDischargeDepth := 20) only [State.linkUp, ite_keep, foldl_keep, keep_mk, keepOf_self, and_self,
      implies_true, *]

theorem State.trainLink_keep {r : BootRun} {l : LinkId} {path : Nat} (h : s.Keep Q) : OptKeep Q (State.trainLink s r
    l path) := by
  simp +contextual (maxDischargeDepth := 20) only [State.trainLink, ite_keep, foldl_keep, keep_mk, keepOf_self, and_self,
      implies_true, *, optKeep_some, optKeep_none, optKeep_ite, State.setReg_keep, State.setReg64_keep, State.modFar_keep]

theorem State.testPort_keep {r : BootRun} {p : PortId} (h : s.Keep Q) : (State.testPort s r p).Keep Q := by
  simp +contextual (maxDischargeDepth := 20) only [State.testPort, ite_keep, foldl_keep, keep_mk, keepOf_self, and_self,
      implies_true, *, State.trainPort_keep]

theorem State.copyFirmware_keep (h : s.Keep Q) : OptKeep Q (State.copyFirmware s) := by
  unfold State.copyFirmware
  (repeat' split) <;> simp +contextual (maxDischargeDepth := 20) only [ite_keep, foldl_keep, keep_mk, keepOf_self, and_self,
      implies_true, *, optKeep_some, optKeep_none, optKeep_ite, State.setReg64_keep, State.store_keep, State.bootBits_keep]

theorem State.bootReady_keep (h : s.Keep Q) : (State.bootReady s).Keep Q := by
  simp +contextual (maxDischargeDepth := 20) only [State.bootReady, ite_keep, foldl_keep, keep_mk, keepOf_self, and_self,
      implies_true, *, State.irqPf_keep, State.bootBits_keep]

theorem State.runPath_keep {r : BootRun} {u : Nat} {p : Nat} (h : s.Keep Q) : OptKeep Q (State.runPath s r u p) := by
  unfold State.runPath
  (repeat' split) <;> simp +contextual (maxDischargeDepth := 20) only [ite_keep, foldl_keep, keep_mk, keepOf_self,
      and_self, implies_true, *, optKeep_some, optKeep_none, optKeep_ite, State.startDie_keep,
      State.bootIdentity_keep, State.bootAuth_keep, State.bootRepair_keep, State.trainEdge_keep,
      State.trainStack_keep, State.testArrays_keep, State.linkUp_keep, State.trainLink_keep, State.testPort_keep,
      State.copyFirmware_keep, State.bootReady_keep, State.testSlice_keep]

theorem State.bootStop_keep (h : s.Keep Q) : (State.bootStop s).Keep Q := by
  simp +contextual (maxDischargeDepth := 20) only [State.bootStop, ite_keep, foldl_keep, keep_mk, keepOf_self, and_self,
      implies_true, *, State.bootBits_keep]

theorem State.unitFailed_keep {r : BootRun} {u : Nat} (h : s.Keep Q) : (State.unitFailed s r u).Keep Q := by
  unfold State.unitFailed
  (repeat' split) <;> simp +contextual (maxDischargeDepth := 20) only [ite_keep, foldl_keep, keep_mk, keepOf_self, and_self,
      implies_true, *, State.modMem_keep, State.modRun_keep, State.fenceAtBoot_keep, State.bootStop_keep]

theorem State.pathFailed_keep {r : BootRun} {u p : Nat} {ps : List Nat} {timeout : Bool} (h : s.Keep Q) :
    (State.pathFailed s r u p ps timeout).Keep Q := by
  simp +contextual (maxDischargeDepth := 20) only [State.pathFailed, ite_keep, foldl_keep, keep_mk, keepOf_self, and_self,
      implies_true, *, State.capture1_keep, State.raiseBoot_keep, State.modRun_keep, State.attempt_keep,
      State.attemptDetail_keep]

theorem State.pathPassed_keep {r : BootRun} {u p : Nat} (h : s.Keep Q) : (State.pathPassed s r u p).Keep Q := by
  simp +contextual (maxDischargeDepth := 20) only [State.pathPassed, ite_keep, foldl_keep, keep_mk, keepOf_self, and_self,
      implies_true, *, State.raiseBoot_keep, State.modRun_keep, State.bootBits_keep, State.attempt_keep, State.mapOut_keep,
      State.attemptDetail_keep]

theorem State.bootGo_keep {n : Nat} (h : s.Keep Q) : (State.bootGo n s).Keep Q := by
  induction n generalizing s with
  | zero => exact h
  | succ n ih =>
    unfold State.bootGo
    split
    · exact h
    · split
      · split
        · exact h
        · exact ih (State.modRun_keep (State.setReg_keep h))
      · split
        · split
          · exact ih (State.modRun_keep (State.attempt_keep h))
          · exact ih (State.modRun_keep h)
        · exact ih (State.unitFailed_keep h)
        · split
          · exact h
          · exact ih (State.pathFailed_keep h)
          · split
            · exact ih (State.pathPassed_keep (State.runPath_keep h _ ‹_›))
            · exact ih (State.pathFailed_keep h)

theorem State.openLedger_keep {env : BootEnv} (h : s.Keep Q) : (State.openLedger s env).Keep Q := by
  unfold State.openLedger
  (repeat' split) <;> simp +contextual (maxDischargeDepth := 20) only [ite_keep, foldl_keep, keep_mk, keepOf_self, and_self,
      implies_true, *, State.setReg_keep, State.flashErase_keep, State.raiseLedger_keep, State.ledgerAppend_keep,
      State.bootBits_keep]

theorem bootStart_keep {env : BootEnv} (h : s.Keep Q) : (bootStart env s).Keep Q := by
  simp +contextual (maxDischargeDepth := 20) only [bootStart, ite_keep, foldl_keep, keep_mk, keepOf_self, and_self,
      implies_true, *, State.bootBits_keep, State.bootGo_keep, State.openLedger_keep]

theorem comparatorRelease_keep (h : s.Keep Q) : (comparatorRelease s).Keep Q := by
  simp +contextual (maxDischargeDepth := 20) only [comparatorRelease, ite_keep, foldl_keep, keep_mk, keepOf_self, and_self,
      implies_true, *, State.modDie_keep, State.bootGo_keep]

theorem bootStepTimeout_keep (h : s.Keep Q) : (bootStepTimeout s).Keep Q := by
  unfold bootStepTimeout
  (repeat' split) <;> simp +contextual (maxDischargeDepth := 20) only [ite_keep, foldl_keep, keep_mk, keepOf_self, and_self,
      implies_true, *, State.pathFailed_keep, State.bootGo_keep]

theorem execPackageReset_keep (h : s.Keep Q) : OutKeep Q (execPackageReset s) := by
  simp +contextual (maxDischargeDepth := 20) only [execPackageReset, ite_keep, foldl_keep, keep_mk, keepOf_self, and_self,
      implies_true, *, outKeep_next, outKeep_ite, State.packageReset_keep]

theorem execBootStart_keep {env : BootEnv} (h : s.Keep Q) : OutKeep Q (execBootStart env s) := by
  simp +contextual (maxDischargeDepth := 20) only [execBootStart, ite_keep, foldl_keep, keep_mk, keepOf_self, and_self,
      implies_true, *, outKeep_next, outKeep_ite, bootStart_keep]

theorem execBootStepTimeout_keep (h : s.Keep Q) : OutKeep Q (execBootStepTimeout s) := by
  simp +contextual (maxDischargeDepth := 20) only [execBootStepTimeout, ite_keep, foldl_keep, keep_mk, keepOf_self,
      and_self, implies_true, *, outKeep_next, outKeep_ite, bootStepTimeout_keep]

theorem execUnplannedPowerLoss_keep (h : s.Keep Q) : OutKeep Q (execUnplannedPowerLoss s) := by
  simp +contextual (maxDischargeDepth := 20) only [execUnplannedPowerLoss, ite_keep, foldl_keep, keep_mk, keepOf_self,
      and_self, implies_true, *, outKeep_next, outKeep_ite, unplannedPowerLoss_keep]

theorem execComparatorRelease_keep (h : s.Keep Q) : OutKeep Q (execComparatorRelease s) := by
  simp +contextual (maxDischargeDepth := 20) only [execComparatorRelease, ite_keep, foldl_keep, keep_mk, keepOf_self,
      and_self, implies_true, *, outKeep_next, outKeep_ite, comparatorRelease_keep]

/-! ### Host -/

theorem State.releaseVector_keep {fn : Fin 5} {v : Nat} (h : s.Keep Q) : (State.releaseVector s fn v).Keep Q := by
  simp +contextual (maxDischargeDepth := 20) only [State.releaseVector, ite_keep, foldl_keep, keep_mk, keepOf_self,
      and_self, implies_true, *, State.vector_keep]

theorem State.releaseVectors_keep {fn : Fin 5} (h : s.Keep Q) : (State.releaseVectors s fn).Keep Q := by
  simp +contextual (maxDischargeDepth := 20) only [State.releaseVectors, ite_keep, foldl_keep, keep_mk, keepOf_self,
      and_self, implies_true, *, State.releaseVector_keep]

theorem msixTableWrite_keep {fn : Fin 5} {v : Nat} {addr : DWord} {data : Word} {masked : Bool} (h : s.Keep Q) :
    (msixTableWrite fn v addr data masked s).Keep Q := by
  simp +contextual (maxDischargeDepth := 20) only [msixTableWrite, ite_keep, foldl_keep, keep_mk, keepOf_self, and_self,
      implies_true, *, State.releaseVector_keep]

theorem State.resetFn_keep {fn : Fin 5} (h : s.Keep Q) : (State.resetFn s fn).Keep Q := by
  simp +contextual (maxDischargeDepth := 20) only [State.resetFn, ite_keep, foldl_keep, keep_mk, keepOf_self, and_self,
      implies_true, *, State.resetRange_keep]

theorem State.enableVfs_keep {n : Nat} (h : s.Keep Q) : (State.enableVfs s n).Keep Q := by
  simp +contextual (maxDischargeDepth := 20) only [State.enableVfs, ite_keep, foldl_keep, keep_mk, keepOf_self, and_self,
      implies_true, *, State.resetFn_keep]

theorem flr_keep {fn : Fin 5} (h : s.Keep Q) : (flr fn s).Keep Q := by
  simp +contextual (maxDischargeDepth := 20) only [flr, ite_keep, foldl_keep, keep_mk, keepOf_self, and_self, implies_true,
      *, State.courseReset_keep, State.resetFn_keep, State.enableVfs_keep]

theorem configWrite_keep {fn : Fin 5} {c : CfgWrite} (h : s.Keep Q) : (configWrite fn c s).Keep Q := by
  unfold configWrite
  (repeat' split) <;> simp +contextual (maxDischargeDepth := 20) only [ite_keep, foldl_keep, keep_mk, keepOf_self, and_self,
      implies_true, *, State.releaseVectors_keep, State.enableVfs_keep]

theorem State.hostReadFails_keep {g : Course} {n : Nat} (h : s.Keep Q) : (State.hostReadFails s g n).Keep Q := by
  unfold State.hostReadFails
  dsimp only
  (repeat' split) <;> simp +contextual (maxDischargeDepth := 20) only [ite_keep, foldl_keep, keep_mk, keepOf_self, and_self,
      implies_true, *, State.freeBytes_keep, State.modStream_keep, State.hostFault_keep]

theorem hostReadCompletion_keep {g : Course} {n : Nat} {data : Option (List Byte × Bool)} (h : s.Keep Q) :
    (hostReadCompletion g n data s).Keep Q := by
  unfold hostReadCompletion
  (repeat' split) <;> simp +contextual (maxDischargeDepth := 20) only [ite_keep, foldl_keep, keep_mk, keepOf_self, and_self,
      implies_true, *, State.modStream_keep, State.hostReadFails_keep]

theorem State.dropHostReads_keep (h : s.Keep Q) : (State.dropHostReads s).Keep Q := by
  simp +contextual (maxDischargeDepth := 20) only [State.dropHostReads, ite_keep, foldl_keep, keep_mk, keepOf_self,
      and_self, implies_true, *, State.hostReadFails_keep]

theorem State.linkDown_keep (h : s.Keep Q) : (State.linkDown s).Keep Q := by
  simp +contextual (maxDischargeDepth := 20) only [State.linkDown, ite_keep, foldl_keep, keep_mk, keepOf_self, and_self,
      implies_true, *]

theorem perst_keep {low : Bool} {link : Option (Fin 4 × LinkWidth)} (h : s.Keep Q) : (perst low link s).Keep Q := by
  unfold perst
  (repeat' split) <;> simp +contextual (maxDischargeDepth := 20) only [ite_keep, foldl_keep, keep_mk, keepOf_self, and_self,
      implies_true, *, State.linkUp_keep, State.resetFn_keep, State.enableVfs_keep, State.dropHostReads_keep,
      State.linkDown_keep]

theorem pcieRetrainTimer_keep {w : Option LinkWidth} (h : s.Keep Q) : (pcieRetrainTimer w s).Keep Q := by
  unfold pcieRetrainTimer
  (repeat' split) <;> simp +contextual (maxDischargeDepth := 20) only [ite_keep, foldl_keep, keep_mk, keepOf_self, and_self,
      implies_true, *, State.linkUp_keep, perst_keep]

theorem pcieLaneFailure_keep {w : Option LinkWidth} (h : s.Keep Q) : (pcieLaneFailure w s).Keep Q := by
  unfold pcieLaneFailure
  (repeat' split) <;> simp +contextual (maxDischargeDepth := 20) only [ite_keep, foldl_keep, keep_mk, keepOf_self, and_self,
      implies_true, *, State.linkDown_keep]

theorem bar2Access_keep {fn : Fin 5} {off len : Nat} {data : Option (List Byte)} (h : s.Keep Q) : (bar2Access fn off
    len data s).Keep Q := by
  unfold bar2Access
  dsimp only
  (repeat' split) <;> simp +contextual (maxDischargeDepth := 20) only [ite_keep, foldl_keep, keep_mk, keepOf_self, and_self,
      implies_true, *, State.emit_keep, State.store_keep, State.hostFault_keep]

theorem doorbellWrite_keep {fn : Fin 5} {off : Nat} {v : Word} (h : s.Keep Q) : (doorbellWrite fn off v s).Keep Q :=
    by
  simp +contextual (maxDischargeDepth := 20) only [doorbellWrite, ite_keep, foldl_keep, keep_mk, keepOf_self, and_self,
      implies_true, *, State.modCourse_keep, State.settle_keep]

theorem execFlr_keep {fn : Fin 5} (h : s.Keep Q) : OutKeep Q (execFlr fn s) := by
  simp +contextual (maxDischargeDepth := 20) only [execFlr, ite_keep, foldl_keep, keep_mk, keepOf_self, and_self,
      implies_true, *, outKeep_next, outKeep_ite, flr_keep]

theorem execConfigurationSpaceWrite_keep {fn : Fin 5} {c : CfgWrite} (h : s.Keep Q) : OutKeep Q
    (execConfigurationSpaceWrite fn c s) := by
  simp +contextual (maxDischargeDepth := 20) only [execConfigurationSpaceWrite, ite_keep, foldl_keep, keep_mk, keepOf_self,
      and_self, implies_true, *, outKeep_next, outKeep_ite, configWrite_keep]

theorem execMsixTableWrite_keep {fn : Fin 5} {v : Fin 2048} {addr : DWord} {data : Word} {masked : Bool} (h : s.Keep
    Q) : OutKeep Q (execMsixTableWrite fn v addr data masked s) := by
  simp +contextual (maxDischargeDepth := 20) only [execMsixTableWrite, ite_keep, foldl_keep, keep_mk, keepOf_self, and_self,
      implies_true, *, outKeep_next, outKeep_ite, msixTableWrite_keep]

theorem execHostReadCompletion_keep {g : Course} {n : StreamId} {data : Option (List Byte × Bool)} (h : s.Keep Q) :
    OutKeep Q (execHostReadCompletion g n data s) := by
  simp +contextual (maxDischargeDepth := 20) only [execHostReadCompletion, ite_keep, foldl_keep, keep_mk, keepOf_self,
      and_self, implies_true, *, outKeep_next, outKeep_ite, hostReadCompletion_keep]

theorem execHostCplTimeout_keep {g : Course} {n : StreamId} (h : s.Keep Q) : OutKeep Q (execHostCplTimeout g n s) :=
    by
  simp +contextual (maxDischargeDepth := 20) only [execHostCplTimeout, ite_keep, foldl_keep, keep_mk, keepOf_self, and_self,
      implies_true, *, outKeep_next, outKeep_ite, State.hostReadFails_keep]

theorem execPerst_keep {low : Bool} {link : Option (Fin 4 × LinkWidth)} (h : s.Keep Q) : OutKeep Q (execPerst low
    link s) := by
  simp +contextual (maxDischargeDepth := 20) only [execPerst, ite_keep, foldl_keep, keep_mk, keepOf_self, and_self,
      implies_true, *, outKeep_next, outKeep_ite, perst_keep]

theorem execPcieRetrainTimer_keep {width : Option LinkWidth} (h : s.Keep Q) : OutKeep Q (execPcieRetrainTimer width
    s) := by
  simp +contextual (maxDischargeDepth := 20) only [execPcieRetrainTimer, ite_keep, foldl_keep, keep_mk, keepOf_self,
      and_self, implies_true, *, outKeep_next, outKeep_ite, pcieRetrainTimer_keep]

theorem execPcieLaneFailure_keep {width : Option LinkWidth} (h : s.Keep Q) : OutKeep Q (execPcieLaneFailure width s)
    := by
  simp +contextual (maxDischargeDepth := 20) only [execPcieLaneFailure, ite_keep, foldl_keep, keep_mk, keepOf_self,
      and_self, implies_true, *, outKeep_next, outKeep_ite, pcieLaneFailure_keep]

theorem execHostBar2Access_keep {fn : Fin 5} {off : BitVec 39} {len : Fin 4097} {data : Option (List Byte)} (h :
    s.Keep Q) : OutKeep Q (execHostBar2Access fn off len data s) := by
  simp +contextual (maxDischargeDepth := 20) only [execHostBar2Access, ite_keep, foldl_keep, keep_mk, keepOf_self, and_self,
      implies_true, *, outKeep_next, outKeep_ite, bar2Access_keep]

theorem execDoorbellWrite_keep {fn : Fin 5} {off : BitVec 32} {v : Word} (h : s.Keep Q) : OutKeep Q
    (execDoorbellWrite fn off v s) := by
  simp +contextual (maxDischargeDepth := 20) only [execDoorbellWrite, ite_keep, foldl_keep, keep_mk, keepOf_self, and_self,
      implies_true, *, outKeep_next, outKeep_ite, doorbellWrite_keep]

/-! ### Live -/

theorem State.open_keep {m : Nat} (h : s.Keep Q) : (State.open s m).2.Keep Q := by
  simp +contextual (maxDischargeDepth := 20) only [State.open, ite_keep, foldl_keep, keep_mk, keepOf_self, and_self,
      implies_true, *, State.used_keep]

theorem State.oneOf_keep {vs : List Nat} (h : s.Keep Q) : (State.oneOf s vs).2.Keep Q := by
  simp +contextual (maxDischargeDepth := 20) only [State.oneOf, ite_keep, foldl_keep, keep_mk, keepOf_self, and_self,
      implies_true, *, State.used_keep]

theorem State.msnStatus_keep {g : Course} (h : s.Keep Q) : (State.msnStatus s g).2.Keep Q := by
  unfold State.msnStatus
  dsimp only
  (repeat' split) <;> simp +contextual (maxDischargeDepth := 20) only [ite_keep, foldl_keep, keep_mk, keepOf_self,
      and_self, implies_true, *, State.open_keep, State.oneOf_keep]

theorem State.parStatus_keep {g : Course} (h : s.Keep Q) : (State.parStatus s g).2.Keep Q := by
  unfold State.parStatus
  dsimp only
  (repeat' split) <;> simp +contextual (maxDischargeDepth := 20) only [ite_keep, foldl_keep, keep_mk, keepOf_self, and_self,
      implies_true, *, State.open_keep]

theorem State.tblStatus_keep {g : Course} (h : s.Keep Q) : (State.tblStatus s g).2.Keep Q := by
  unfold State.tblStatus
  dsimp only
  (repeat' split) <;> simp +contextual (maxDischargeDepth := 20) only [ite_keep, foldl_keep, keep_mk, keepOf_self, and_self,
      implies_true, *, State.open_keep]

theorem State.cyclesNow_keep {g : Course} {o : Nat} (h : s.Keep Q) : (State.cyclesNow s g o).Keep Q := by
  unfold State.cyclesNow
  (repeat' split) <;> simp +contextual (maxDischargeDepth := 20) only [ite_keep, foldl_keep, keep_mk, keepOf_self,
      and_self, implies_true, *, State.elapse_keep]

theorem State.liveCourse_keep {g : Course} {o : Nat} (h : s.Keep Q) : OptKeep Q ((State.liveCourse s g o).map fun x
    => x.2) := by
  unfold State.liveCourse
  dsimp only
  repeat' split
  all_goals simp only [Option.map_some, Option.map_none, optKeep_some, optKeep_none, h, State.open_keep, State.msnStatus_keep,
    State.parStatus_keep, State.tblStatus_keep, State.used_keep, State.cyclesNow_keep, State.rearmElapse_keep]

theorem State.ageReg_keep {waiting : Bool} {phases : Nat} (h : s.Keep Q) : (State.ageReg s waiting phases).2.Keep Q
    := by
  unfold State.ageReg
  dsimp only
  (repeat' split) <;> simp +contextual (maxDischargeDepth := 20) only [ite_keep, foldl_keep, keep_mk, keepOf_self, and_self,
      implies_true, *, State.open_keep]

theorem State.clkReg_keep {d : Die} (h : s.Keep Q) : (State.clkReg s d).2.Keep Q := by
  unfold State.clkReg
  dsimp only
  (repeat' split) <;> simp +contextual (maxDischargeDepth := 20) only [*, State.open_keep]

theorem State.liveDie_keep {d : Die} {o : Nat} (h : s.Keep Q) : OptKeep Q ((State.liveDie s d o).map fun x => x.2)
    := by
  unfold State.liveDie
  dsimp only
  repeat' split
  all_goals simp only [Option.map_some, Option.map_none, optKeep_some, optKeep_none, h, State.ageReg_keep, State.clkReg_keep]

theorem State.liveMem_keep {k : Stack} {o : Nat} (h : s.Keep Q) : OptKeep Q ((State.liveMem s k o).map fun x => x.2)
    := by
  unfold State.liveMem
  dsimp only
  repeat' split
  all_goals simp only [Option.map_some, Option.map_none, optKeep_some, optKeep_none]
  all_goals first
    | exact h
    | (split
       · exact State.ageReg_keep h
       · exact h)

theorem State.liveFar_keep {l : LinkId} {o : Nat} (h : s.Keep Q) : OptKeep Q ((State.liveFar s l o).map fun x =>
    x.2) := by
  unfold State.liveFar
  repeat' split
  all_goals simp only [Option.map_some, Option.map_none, optKeep_some, optKeep_none, h]

theorem State.liveNet_keep {x : IoDie} {o : Nat} (h : s.Keep Q) : OptKeep Q ((State.liveNet s x o).map fun x => x.2)
    := by
  unfold State.liveNet
  dsimp only
  repeat' split
  all_goals simp only [Option.map_some, Option.map_none, optKeep_some, optKeep_none, h]

theorem State.live_keep {b : Blk} {o : Nat} (h : s.Keep Q) : OptKeep Q ((State.live s b o).map fun x => x.2) := by
  unfold State.live
  repeat' split
  all_goals simp only [Option.map_some, Option.map_none, optKeep_some, optKeep_none, h, State.liveCourse_keep,
      State.liveDie_keep,
    State.liveMem_keep, State.liveFar_keep, State.liveNet_keep, State.used_keep]

/-! ### Regs -/

theorem State.regValue_keep {b : Blk} {r : RegRow} {o : Nat} (h : s.Keep Q) : (State.regValue s b r o).2.Keep Q :=
    by
  unfold State.regValue
  split
  · have hl := State.live_keep (b := b) (o := o) h
    rw [‹State.live s b o = _›] at hl
    exact hl _ rfl
  · exact h

theorem State.release_keep {a : Agent} {o : Nat} (h : s.Keep Q) : (State.release s a o).Keep Q := by
  simp +contextual (maxDischargeDepth := 20) only [State.release, ite_keep, foldl_keep, keep_mk, keepOf_self, and_self,
      implies_true, *]

theorem State.captureHigh_keep {a : Agent} {o : Nat} {v : Word} (h : s.Keep Q) : (State.captureHigh s a o v).Keep Q
    := by
  simp +contextual (maxDischargeDepth := 20) only [State.captureHigh, ite_keep, foldl_keep, keep_mk, keepOf_self, and_self,
      implies_true, *]

theorem State.getReg_keep {a : Agent} {off : Nat} (h : s.Keep Q) : (State.getReg s a off).2.Keep Q := by
  unfold State.getReg
  (repeat' split) <;> simp +contextual (maxDischargeDepth := 20) only [ite_keep, foldl_keep, keep_mk, keepOf_self, and_self,
      implies_true, *, State.regValue_keep, State.release_keep, State.captureHigh_keep]

theorem State.readReg_keep {a : Agent} {off : Nat} (h : s.Keep Q) : (State.readReg s a off).2.Keep Q := by
  unfold State.readReg
  (repeat' split) <;> simp +contextual (maxDischargeDepth := 20) only [ite_keep, foldl_keep, keep_mk, keepOf_self, and_self,
      implies_true, *, optKeep_some, optKeep_none, optKeep_ite, State.hostFault_keep, State.getReg_keep]

theorem State.readOut_keep {a : Agent} {off : Nat} (h : s.Keep Q) : (State.readOut s a off).Keep Q := by
  unfold State.readOut
  have hr := State.readReg_keep (a := a) (off := off) h
  generalize s.readReg a off = r at hr ⊢
  obtain ⟨o, t⟩ := r
  cases o with
  | none => exact hr
  | some v => exact State.emit_keep hr

theorem State.settleCycles_keep {b : Blk} {o : Nat} {cs : List Nat} {clear : Bool} (h : s.Keep Q) :
    (State.settleCycles s b o cs clear).Keep Q := by
  unfold State.settleCycles
  (repeat' split) <;> simp +contextual (maxDischargeDepth := 20) only [ite_keep, foldl_keep, keep_mk, keepOf_self,
      and_self, implies_true, *, foldl_keep, State.cyclesNow_keep, State.rearmSettle_keep]

theorem State.wrCounters_keep {b : Blk} {o : Nat} {cs : List Nat × List Nat} {v : Word} (h : s.Keep Q) :
    (State.wrCounters s b o cs v).Keep Q := by
  simp +contextual (maxDischargeDepth := 20) only [State.wrCounters, ite_keep, foldl_keep, keep_mk,
      keepOf_self, and_self, implies_true, *, State.setReg_keep, State.setReg64_keep, State.settleCycles_keep]

theorem State.putPlain_keep {b : Blk} {r : RegRow} {o : Nat} {v : Word} (h : s.Keep Q) : (State.putPlain s b r o
    v).Keep Q := by
  simp +contextual (maxDischargeDepth := 20) only [State.putPlain, ite_keep, foldl_keep, keep_mk, keepOf_self, and_self,
      implies_true, *, State.setReg_keep]

theorem State.dropCapture_keep {off : Nat} {v : Word} (h : s.Keep Q) : (State.dropCapture s off v).Keep Q := by
  simp +contextual (maxDischargeDepth := 20) only [State.dropCapture, ite_keep, foldl_keep, keep_mk, keepOf_self, and_self,
      implies_true, *, State.setReg_keep]

theorem State.putIrqMap_keep {b : Blk} {r : RegRow} {o : Nat} {fn : Fin 5} {v : Word} (h : s.Keep Q) :
    (State.putIrqMap s b r o fn v).Keep Q := by
  simp +contextual (maxDischargeDepth := 20) only [State.putIrqMap, ite_keep, foldl_keep, keep_mk, keepOf_self, and_self,
      implies_true, *, State.putPlain_keep]

theorem State.putCourse_keep {g : Course} {r : RegRow} {o : Nat} {v : Word} (h : s.Keep Q) : (State.putCourse s g r
    o v).Keep Q := by
  unfold State.putCourse
  (repeat' split) <;> simp +contextual (maxDischargeDepth := 20) only [ite_keep, foldl_keep, keep_mk, keepOf_self, and_self,
      implies_true, *, State.setReg_keep, State.wrCqCtrl_keep, State.wrQctrl_keep, State.wrOutstanding_keep,
      State.tlbInv_keep, State.wrStrCmd_keep, State.wrRedCtrl_keep, State.wrSplit_keep, State.wrCtrl_keep,
      State.wrTallyAdd_keep, State.wrTallyPoison_keep, State.wrCourseCmd_keep, State.putPlain_keep, State.dropCapture_keep]

theorem State.putDie_keep {d : Die} {r : RegRow} {o : Nat} {v : Word} (h : s.Keep Q) : (State.putDie s d r o v).Keep
    Q := by
  unfold State.putDie
  (repeat' split) <;> simp +contextual (maxDischargeDepth := 20) only [ite_keep, foldl_keep, keep_mk, keepOf_self, and_self,
      implies_true, *, State.modDie_keep, State.wrTherm_keep, State.pllSwitch_keep, State.wrRingCtrl_keep,
      State.putPlain_keep, State.dropCapture_keep, State.putIrqMap_keep]

theorem State.putMem_keep {k : Stack} {r : RegRow} {o : Nat} {v : Word} (h : s.Keep Q) : (State.putMem s k r o
    v).Keep Q := by
  unfold State.putMem
  (repeat' split) <;> simp +contextual (maxDischargeDepth := 20) only [ite_keep, foldl_keep, keep_mk, keepOf_self, and_self,
      implies_true, *, State.wrRetireCtrl_keep, State.wrTornClear_keep, State.wrRedMc_keep, State.wrUpdCtrl_keep,
      State.putPlain_keep, State.dropCapture_keep]

theorem State.putFar_keep {l : LinkId} {r : RegRow} {o : Nat} {v : Word} (h : s.Keep Q) : (State.putFar s l r o
    v).Keep Q := by
  simp +contextual (maxDischargeDepth := 20) only [State.putFar, ite_keep, foldl_keep, keep_mk, keepOf_self, and_self,
      implies_true, *, State.wrFarKey_keep, State.wrFarRegion_keep, State.putPlain_keep]

theorem State.putNet_keep {x : IoDie} {r : RegRow} {o : Nat} {v : Word} (h : s.Keep Q) : (State.putNet s x r o
    v).Keep Q := by
  unfold State.putNet
  (repeat' split) <;> simp +contextual (maxDischargeDepth := 20) only [ite_keep, foldl_keep, keep_mk, keepOf_self, and_self,
      implies_true, *, State.wrConnCmd_keep, State.wrNetKey_keep, State.putPlain_keep]

theorem State.putHost_keep {r : RegRow} {o : Nat} {v : Word} (h : s.Keep Q) : (State.putHost s r o v).Keep Q := by
  unfold State.putHost
  (repeat' split) <;> simp +contextual (maxDischargeDepth := 20) only [ite_keep, foldl_keep, keep_mk, keepOf_self, and_self,
      implies_true, *, State.putPlain_keep, State.dropCapture_keep, State.putIrqMap_keep]

theorem State.putPkg_keep {r : RegRow} {o : Nat} {v : Word} (h : s.Keep Q) : (State.putPkg s r o v).Keep Q := by
  unfold State.putPkg
  (repeat' split) <;> simp +contextual (maxDischargeDepth := 20) only [ite_keep, foldl_keep, keep_mk, keepOf_self, and_self,
      implies_true, *, State.used_keep, State.wrBudget_keep, State.wrMbox_keep, State.retryPrimary_keep, State.wrKwk_keep,
      State.putPlain_keep, State.dropCapture_keep]

theorem State.putWord_keep {b : Blk} {r : RegRow} {o : Nat} {v : Word} (h : s.Keep Q) : (State.putWord s b r o
    v).Keep Q := by
  unfold State.putWord
  (repeat' split) <;> simp +contextual (maxDischargeDepth := 20) only [ite_keep, foldl_keep, keep_mk, keepOf_self, and_self,
      implies_true, *, State.wrPortCtrl_keep, State.wrCounters_keep, State.putPlain_keep, State.putCourse_keep,
      State.putDie_keep, State.putMem_keep, State.putFar_keep, State.putNet_keep, State.putHost_keep, State.putPkg_keep]

theorem State.putPair_keep {b : Blk} {r : RegRow} {o : Nat} {v : DWord} (h : s.Keep Q) : (State.putPair s b r o
    v).Keep Q := by
  unfold State.putPair
  (repeat' split) <;> simp +contextual (maxDischargeDepth := 20) only [ite_keep, foldl_keep, keep_mk, keepOf_self, and_self,
      implies_true, *, State.setReg64_keep, State.modMem_keep, State.modCDie_keep, State.tlbInv_keep]

theorem State.putReg_keep {off : Nat} {v : Word} (h : s.Keep Q) : (State.putReg s off v).Keep Q := by
  unfold State.putReg
  split
  · exact h
  · split
    · exact h
    · split
      · exact State.putWord_keep h
      · split
        · exact State.putPair_keep h
        · exact State.latch_keep h

theorem State.writeReg_keep {a : Agent} {off : Nat} {v : Word} (h : s.Keep Q) : (State.writeReg s a off v).Keep Q :=
    by
  unfold State.writeReg
  (repeat' split) <;> simp +contextual (maxDischargeDepth := 20) only [ite_keep, foldl_keep, keep_mk, keepOf_self, and_self,
      implies_true, *, State.hostFault_keep, State.putReg_keep]

theorem State.command_keep {a : Agent} {o : Nat} {v : Word} (h : s.Keep Q) : (State.command s a o v).Keep Q := by
  unfold State.command
  (repeat' split) <;> simp +contextual (maxDischargeDepth := 20) only [ite_keep, foldl_keep, keep_mk, keepOf_self, and_self,
      implies_true, *, State.writeReg_keep]

theorem State.through_keep {a : Agent} {o : Nat} {act : State → State} (h : s.Keep Q) (hact : ∀ t : State, t.Keep Q
    → (act t).Keep Q) : (State.through s a o act).Keep Q := by
  unfold State.through
  (repeat' split) <;> simp +contextual (maxDischargeDepth := 20) only [ite_keep, foldl_keep, keep_mk, keepOf_self, and_self,
      implies_true, *, State.act_keep, State.hostFault_keep]

theorem bar0Misaligned_keep {fn : Fin 5} {off size : Nat} {write : Bool} (h : s.Keep Q) : (bar0Misaligned fn off
    size write s).Keep Q := by
  simp +contextual (maxDischargeDepth := 20) only [bar0Misaligned, ite_keep, foldl_keep, keep_mk, keepOf_self, and_self,
      implies_true, *, State.emit_keep, State.hostFault_keep]

theorem counterClear_keep {a : Agent} {off : Nat} {freeze : Bool} (h : s.Keep Q) : (counterClear a off freeze
    s).Keep Q := by
  unfold counterClear
  (repeat' split) <;> simp +contextual (maxDischargeDepth := 20) only [ite_keep, foldl_keep, keep_mk, keepOf_self, and_self,
      implies_true, *, State.putReg_keep]

theorem execRegisterWrite_keep {a : Agent} {off : BitVec 32} {v : Word} (h : s.Keep Q) : OutKeep Q
    (execRegisterWrite a off v s) := by
  simp +contextual (maxDischargeDepth := 20) only [execRegisterWrite, ite_keep, foldl_keep, keep_mk, keepOf_self, and_self,
      implies_true, *, outKeep_next, outKeep_ite, State.writeReg_keep]

theorem execRegPairLowWrite_keep {a : Agent} {off : BitVec 32} {v : Word} (h : s.Keep Q) : OutKeep Q
    (execRegPairLowWrite a off v s) := by
  simp +contextual (maxDischargeDepth := 20) only [execRegPairLowWrite, ite_keep, foldl_keep, keep_mk, keepOf_self,
      and_self, implies_true, *, outKeep_next, outKeep_ite, State.writeReg_keep]

theorem execRegPairHighWrite_keep {a : Agent} {off : BitVec 32} {v : Word} (h : s.Keep Q) : OutKeep Q
    (execRegPairHighWrite a off v s) := by
  simp +contextual (maxDischargeDepth := 20) only [execRegPairHighWrite, ite_keep, foldl_keep, keep_mk, keepOf_self,
      and_self, implies_true, *, outKeep_next, outKeep_ite, State.writeReg_keep]

theorem execRegPairLowRead_keep {a : Agent} {off : BitVec 32} (h : s.Keep Q) : OutKeep Q (execRegPairLowRead a off
    s) := by
  simp +contextual (maxDischargeDepth := 20) only [execRegPairLowRead, ite_keep, foldl_keep, keep_mk, keepOf_self, and_self,
      implies_true, *, outKeep_next, outKeep_ite, State.readOut_keep]

theorem execRegPairHighRead_keep {a : Agent} {off : BitVec 32} (h : s.Keep Q) : OutKeep Q (execRegPairHighRead a off
    s) := by
  simp +contextual (maxDischargeDepth := 20) only [execRegPairHighRead, ite_keep, foldl_keep, keep_mk, keepOf_self,
      and_self, implies_true, *, outKeep_next, outKeep_ite, State.readOut_keep]

theorem execHostBar0Misaligned_keep {fn : Fin 5} {off : BitVec 32} {size : Nat} {write : Bool} (h : s.Keep Q) :
    OutKeep Q (execHostBar0Misaligned fn off size write s) := by
  simp +contextual (maxDischargeDepth := 20) only [execHostBar0Misaligned, ite_keep, foldl_keep, keep_mk, keepOf_self,
      and_self, implies_true, *, outKeep_next, outKeep_ite, bar0Misaligned_keep]

theorem execCounterClear_keep {a : Agent} {off : BitVec 32} {freeze : Bool} (h : s.Keep Q) : OutKeep Q
    (execCounterClear a off freeze s) := by
  simp +contextual (maxDischargeDepth := 20) only [execCounterClear, ite_keep, foldl_keep, keep_mk, keepOf_self, and_self,
      implies_true, *, outKeep_next, outKeep_ite, counterClear_keep]

theorem execCcrStart_keep {a : Agent} {g : Course} (h : s.Keep Q) : OutKeep Q (execCcrStart a g s) := by
  simp +contextual (maxDischargeDepth := 20) only [execCcrStart, ite_keep, foldl_keep, keep_mk, keepOf_self, and_self,
      implies_true, *, outKeep_next, outKeep_ite, State.command_keep]

theorem execCcrStop_keep {a : Agent} {g : Course} (h : s.Keep Q) : OutKeep Q (execCcrStop a g s) := by
  simp +contextual (maxDischargeDepth := 20) only [execCcrStop, ite_keep, foldl_keep, keep_mk, keepOf_self, and_self,
      implies_true, *, outKeep_next, outKeep_ite, State.command_keep]

theorem execCourseReset_keep {a : Agent} {g : Course} (h : s.Keep Q) : OutKeep Q (execCourseReset a g s) := by
  simp +contextual (maxDischargeDepth := 20) only [execCourseReset, ite_keep, foldl_keep, keep_mk, keepOf_self, and_self,
      implies_true, *, outKeep_next, outKeep_ite, State.command_keep]

theorem execIbufInv_keep {a : Agent} {g : Course} (h : s.Keep Q) : OutKeep Q (execIbufInv a g s) := by
  simp +contextual (maxDischargeDepth := 20) only [execIbufInv, ite_keep, foldl_keep, keep_mk, keepOf_self, and_self,
      implies_true, *, outKeep_next, outKeep_ite, State.command_keep]

theorem execQueueResume_keep {a : Agent} {g : Course} {mask : BitVec 8} (h : s.Keep Q) : OutKeep Q (execQueueResume
    a g mask s) := by
  simp +contextual (maxDischargeDepth := 20) only [execQueueResume, ite_keep, foldl_keep, keep_mk, keepOf_self, and_self,
      implies_true, *, outKeep_next, outKeep_ite, State.command_keep]

theorem execQueueFlush_keep {a : Agent} {g : Course} {mask : BitVec 8} (h : s.Keep Q) : OutKeep Q (execQueueFlush a
    g mask s) := by
  simp +contextual (maxDischargeDepth := 20) only [execQueueFlush, ite_keep, foldl_keep, keep_mk, keepOf_self, and_self,
      implies_true, *, outKeep_next, outKeep_ite, State.command_keep]

theorem execTallyAddReg_keep {a : Agent} {g : Course} {v : Word} (h : s.Keep Q) : OutKeep Q (execTallyAddReg a g v
    s) := by
  simp +contextual (maxDischargeDepth := 20) only [execTallyAddReg, ite_keep, foldl_keep, keep_mk, keepOf_self, and_self,
      implies_true, *, outKeep_next, outKeep_ite, State.command_keep]

theorem execTallyPoisonClear_keep {a : Agent} {g : Course} {k : Fin 8} {v : Word} (h : s.Keep Q) : OutKeep Q
    (execTallyPoisonClear a g k v s) := by
  simp +contextual (maxDischargeDepth := 20) only [execTallyPoisonClear, ite_keep, foldl_keep, keep_mk, keepOf_self,
      and_self, implies_true, *, outKeep_next, outKeep_ite, State.command_keep]

theorem execCqEnable_keep {a : Agent} {g : Course} {v : Word} (h : s.Keep Q) : OutKeep Q (execCqEnable a g v s) :=
    by
  simp +contextual (maxDischargeDepth := 20) only [execCqEnable, ite_keep, foldl_keep, keep_mk, keepOf_self, and_self,
      implies_true, *, outKeep_next, outKeep_ite, State.command_keep]

theorem execStrCmdResume_keep {a : Agent} {g : Course} {n : StreamId} (h : s.Keep Q) : OutKeep Q (execStrCmdResume a
    g n s) := by
  simp +contextual (maxDischargeDepth := 20) only [execStrCmdResume, ite_keep, foldl_keep, keep_mk, keepOf_self, and_self,
      implies_true, *, outKeep_next, outKeep_ite, State.command_keep]

theorem execStrCmdRelease_keep {a : Agent} {g : Course} {n : StreamId} (h : s.Keep Q) : OutKeep Q (execStrCmdRelease
    a g n s) := by
  simp +contextual (maxDischargeDepth := 20) only [execStrCmdRelease, ite_keep, foldl_keep, keep_mk, keepOf_self, and_self,
      implies_true, *, outKeep_next, outKeep_ite, State.command_keep]

theorem execTlbInvalidate_keep {a : Agent} {g : Course} {v : Word} (h : s.Keep Q) : OutKeep Q (execTlbInvalidate a g
    v s) := by
  simp +contextual (maxDischargeDepth := 20) only [execTlbInvalidate, ite_keep, foldl_keep, keep_mk, keepOf_self, and_self,
      implies_true, *, outKeep_next, outKeep_ite, State.command_keep]

theorem execPtBaseWrite_keep {a : Agent} {g : Course} {v : DWord} (h : s.Keep Q) : OutKeep Q (execPtBaseWrite a g v
    s) := by
  simp +contextual (maxDischargeDepth := 20) only [execPtBaseWrite, ite_keep, foldl_keep, keep_mk, keepOf_self, and_self,
      implies_true, *, outKeep_next, outKeep_ite, State.command_keep]

theorem execBwSplitWrite_keep {a : Agent} {g : Course} {v : Word} (h : s.Keep Q) : OutKeep Q (execBwSplitWrite a g v
    s) := by
  simp +contextual (maxDischargeDepth := 20) only [execBwSplitWrite, ite_keep, foldl_keep, keep_mk, keepOf_self, and_self,
      implies_true, *, outKeep_next, outKeep_ite, State.command_keep]

theorem execOutstandingWrite_keep {a : Agent} {g : Course} {v : Word} (h : s.Keep Q) : OutKeep Q
    (execOutstandingWrite a g v s) := by
  simp +contextual (maxDischargeDepth := 20) only [execOutstandingWrite, ite_keep, foldl_keep, keep_mk, keepOf_self,
      and_self, implies_true, *, outKeep_next, outKeep_ite, State.command_keep]

theorem execMaxclr_keep {a : Agent} {g : Course} (h : s.Keep Q) : OutKeep Q (execMaxclr a g s) := by
  simp +contextual (maxDischargeDepth := 20) only [execMaxclr, ite_keep, foldl_keep, keep_mk, keepOf_self, and_self,
      implies_true, *, outKeep_next, outKeep_ite, State.command_keep]

theorem execCourseFence_keep {a : Agent} {g : Course} (h : s.Keep Q) : OutKeep Q (execCourseFence a g s) := by
  simp +contextual (maxDischargeDepth := 20) only [execCourseFence, ite_keep, foldl_keep, keep_mk, keepOf_self, and_self,
      implies_true, *, outKeep_next, outKeep_ite, State.command_keep]

theorem execArrayReadmit_keep {a : Agent} {g : Course} {p : Fin 16} {pass : Bool} (h : s.Keep Q) : OutKeep Q
    (execArrayReadmit a g p pass s) := by
  simp +contextual (maxDischargeDepth := 20) only [execArrayReadmit, ite_keep, foldl_keep, keep_mk, keepOf_self, and_self,
      implies_true, *, outKeep_next, outKeep_ite, State.readmit_keep, State.through_keep]

theorem execRetireGo_keep {a : Agent} {k : Stack} {v : Word} (h : s.Keep Q) : OutKeep Q (execRetireGo a k v s) := by
  simp +contextual (maxDischargeDepth := 20) only [execRetireGo, ite_keep, foldl_keep, keep_mk, keepOf_self, and_self,
      implies_true, *, outKeep_next, outKeep_ite, State.command_keep]

theorem execTornClear_keep {a : Agent} {k : Stack} {v : Word} (h : s.Keep Q) : OutKeep Q (execTornClear a k v s) :=
    by
  simp +contextual (maxDischargeDepth := 20) only [execTornClear, ite_keep, foldl_keep, keep_mk, keepOf_self, and_self,
      implies_true, *, outKeep_next, outKeep_ite, State.command_keep]

theorem execUpdAbort_keep {a : Agent} {k : Stack} (h : s.Keep Q) : OutKeep Q (execUpdAbort a k s) := by
  simp +contextual (maxDischargeDepth := 20) only [execUpdAbort, ite_keep, foldl_keep, keep_mk, keepOf_self, and_self,
      implies_true, *, outKeep_next, outKeep_ite, State.command_keep]

theorem execMcMaxclr_keep {a : Agent} {k : Stack} (h : s.Keep Q) : OutKeep Q (execMcMaxclr a k s) := by
  simp +contextual (maxDischargeDepth := 20) only [execMcMaxclr, ite_keep, foldl_keep, keep_mk, keepOf_self, and_self,
      implies_true, *, outKeep_next, outKeep_ite, State.command_keep]

theorem execFarKeyLoad_keep {a : Agent} {l : LinkId} {v : Word} (h : s.Keep Q) : OutKeep Q (execFarKeyLoad a l v s)
    := by
  simp +contextual (maxDischargeDepth := 20) only [execFarKeyLoad, ite_keep, foldl_keep, keep_mk, keepOf_self, and_self,
      implies_true, *, outKeep_next, outKeep_ite, State.command_keep]

theorem execFarKeyErase_keep {a : Agent} {l : LinkId} {v : Word} (h : s.Keep Q) : OutKeep Q (execFarKeyErase a l v
    s) := by
  simp +contextual (maxDischargeDepth := 20) only [execFarKeyErase, ite_keep, foldl_keep, keep_mk, keepOf_self, and_self,
      implies_true, *, outKeep_next, outKeep_ite, State.command_keep]

theorem execFarRegionEnable_keep {a : Agent} {l : LinkId} {i : Fin 16} {v : Word} (h : s.Keep Q) : OutKeep Q
    (execFarRegionEnable a l i v s) := by
  simp +contextual (maxDischargeDepth := 20) only [execFarRegionEnable, ite_keep, foldl_keep, keep_mk, keepOf_self,
      and_self, implies_true, *, outKeep_next, outKeep_ite, State.command_keep]

theorem execConnOpen_keep {a : Agent} {x : IoDie} {v : Word} (h : s.Keep Q) : OutKeep Q (execConnOpen a x v s) := by
  simp +contextual (maxDischargeDepth := 20) only [execConnOpen, ite_keep, foldl_keep, keep_mk, keepOf_self, and_self,
      implies_true, *, outKeep_next, outKeep_ite, State.command_keep]

theorem execConnClose_keep {a : Agent} {x : IoDie} {v : Word} (h : s.Keep Q) : OutKeep Q (execConnClose a x v s) :=
    by
  simp +contextual (maxDischargeDepth := 20) only [execConnClose, ite_keep, foldl_keep, keep_mk, keepOf_self, and_self,
      implies_true, *, outKeep_next, outKeep_ite, State.command_keep]

theorem execConnSwitch_keep {a : Agent} {x : IoDie} {v : Word} (h : s.Keep Q) : OutKeep Q (execConnSwitch a x v s)
    := by
  simp +contextual (maxDischargeDepth := 20) only [execConnSwitch, ite_keep, foldl_keep, keep_mk, keepOf_self, and_self,
      implies_true, *, outKeep_next, outKeep_ite, State.command_keep]

theorem execNetKeyLoad_keep {a : Agent} {x : IoDie} {v : Word} (h : s.Keep Q) : OutKeep Q (execNetKeyLoad a x v s)
    := by
  simp +contextual (maxDischargeDepth := 20) only [execNetKeyLoad, ite_keep, foldl_keep, keep_mk, keepOf_self, and_self,
      implies_true, *, outKeep_next, outKeep_ite, State.command_keep]

theorem execNetKeyErase_keep {a : Agent} {x : IoDie} {v : Word} (h : s.Keep Q) : OutKeep Q (execNetKeyErase a x v s)
    := by
  simp +contextual (maxDischargeDepth := 20) only [execNetKeyErase, ite_keep, foldl_keep, keep_mk, keepOf_self, and_self,
      implies_true, *, outKeep_next, outKeep_ite, State.command_keep]

theorem execBudgetWrite_keep {a : Agent} {off : BitVec 32} {v : Word} (h : s.Keep Q) : OutKeep Q (execBudgetWrite a
    off v s) := by
  simp +contextual (maxDischargeDepth := 20) only [execBudgetWrite, ite_keep, foldl_keep, keep_mk, keepOf_self, and_self,
      implies_true, *, outKeep_next, outKeep_ite, State.writeReg_keep]

theorem execPllSwitchCmd_keep {a : Agent} {d : Die} (h : s.Keep Q) : OutKeep Q (execPllSwitchCmd a d s) := by
  simp +contextual (maxDischargeDepth := 20) only [execPllSwitchCmd, ite_keep, foldl_keep, keep_mk, keepOf_self, and_self,
      implies_true, *, outKeep_next, outKeep_ite, State.command_keep]

theorem execErrorRingEnable_keep {a : Agent} {d : Die} {v : Word} (h : s.Keep Q) : OutKeep Q (execErrorRingEnable a
    d v s) := by
  simp +contextual (maxDischargeDepth := 20) only [execErrorRingEnable, ite_keep, foldl_keep, keep_mk, keepOf_self,
      and_self, implies_true, *, outKeep_next, outKeep_ite, State.command_keep]

theorem execRetryPrimary_keep {a : Agent} {ok : Bool} (h : s.Keep Q) : OutKeep Q (execRetryPrimary a ok s) := by
  simp +contextual (maxDischargeDepth := 20) only [execRetryPrimary, ite_keep, foldl_keep, keep_mk, keepOf_self, and_self,
      implies_true, *, outKeep_next, outKeep_ite, State.retryPrimary_keep, State.through_keep]

theorem execKwkDerive_keep {a : Agent} (h : s.Keep Q) : OutKeep Q (execKwkDerive a s) := by
  simp +contextual (maxDischargeDepth := 20) only [execKwkDerive, ite_keep, foldl_keep, keep_mk, keepOf_self, and_self,
      implies_true, *, outKeep_next, outKeep_ite, State.command_keep]

theorem execKwkClear_keep {a : Agent} (h : s.Keep Q) : OutKeep Q (execKwkClear a s) := by
  simp +contextual (maxDischargeDepth := 20) only [execKwkClear, ite_keep, foldl_keep, keep_mk, keepOf_self, and_self,
      implies_true, *, outKeep_next, outKeep_ite, State.command_keep]

theorem execMboxRingEnable_keep {a : Agent} {rx : Bool} {v : Word} (h : s.Keep Q) : OutKeep Q (execMboxRingEnable a
    rx v s) := by
  simp +contextual (maxDischargeDepth := 20) only [execMboxRingEnable, ite_keep, foldl_keep, keep_mk, keepOf_self, and_self,
      implies_true, *, outKeep_next, outKeep_ite, State.command_keep]

/-! ### IsconMem -/

theorem execM_keep {n : Nat} {body : State → Target → Addr → Act} {g : Course} {w : BitVec 56} (h : s.Keep Q) (hbody
    : ∀ (t : State) y a, t.Keep Q → Act.Keep Q (body t y a)) : (execM n body g w s).Keep Q := by
  unfold execM
  apply State.issue_keep h
  intro t ht
  dsimp only
  split
  · trivial
  · split
    · exact hbody t _ _ ht
    · trivial

theorem execLoad_keep {n : Nat} {g : Course} {w : BitVec 56} (h : s.Keep Q) : (execLoad n g w s).Keep Q := by
  unfold execLoad
  apply execM_keep h
  intro t y a ht
  dsimp only
  split
  · split
    · exact State.readAny_keep ht
    · exact State.onCourse_keep (State.readAny_keep ht)
  · exact State.onCourse_keep (State.readReg_keep ht)

theorem execStore_keep {n : Nat} {g : Course} {w : BitVec 56} (h : s.Keep Q) : (execStore n g w s).Keep Q := by
  unfold execStore
  apply execM_keep h
  intro t y a ht
  dsimp only
  split
  · exact State.writeAny_keep ht
  · exact ⟨ht, fun u hu => State.writeReg_keep hu⟩

theorem execLd_keep {g : Course} {w : BitVec 56} (h : s.Keep Q) : OutKeep Q (execLd g w s) := by
  simp +contextual (maxDischargeDepth := 20) only [execLd, ite_keep, foldl_keep, keep_mk, keepOf_self, and_self,
      implies_true, *, outKeep_next, outKeep_ite, execLoad_keep]

theorem execLdw_keep {g : Course} {w : BitVec 56} (h : s.Keep Q) : OutKeep Q (execLdw g w s) := by
  simp +contextual (maxDischargeDepth := 20) only [execLdw, ite_keep, foldl_keep, keep_mk, keepOf_self, and_self,
      implies_true, *, outKeep_next, outKeep_ite, execLoad_keep]

theorem execSt_keep {g : Course} {w : BitVec 56} (h : s.Keep Q) : OutKeep Q (execSt g w s) := by
  simp +contextual (maxDischargeDepth := 20) only [execSt, ite_keep, foldl_keep, keep_mk, keepOf_self, and_self,
      implies_true, *, outKeep_next, outKeep_ite, execStore_keep]

theorem execStw_keep {g : Course} {w : BitVec 56} (h : s.Keep Q) : OutKeep Q (execStw g w s) := by
  simp +contextual (maxDischargeDepth := 20) only [execStw, ite_keep, foldl_keep, keep_mk, keepOf_self, and_self,
      implies_true, *, outKeep_next, outKeep_ite, execStore_keep]

end Sys2Proof.Machine
end

