-- ==== Sys2Proof/Laws/Memory.lean ====
section
/-! SUPPORT. Memory: what reading and writing the bytes of near memory and staging SRAM does (R45). -/

namespace Sys2Proof.Machine

variable (s : State)

/-- A write of bytes changes only the memory. -/
theorem State.putBytes_eq : ∀ (bs : List Byte) (s : State) (a : Nat), s.putBytes a bs = { s with mem := (s.putBytes a bs).mem }
  | [], _, _ => rfl
  | b :: bs, s, a => by
    have h := State.putBytes_eq bs (s.setByte a b) (a + 1)
    show (s.setByte a b).putBytes (a + 1) bs = { s with mem := ((s.setByte a b).putBytes (a + 1) bs).mem }
    rw [h]
    rfl

/-- Each byte reads what was written to it, and every other byte as before. -/
theorem State.putBytes_byte : ∀ (bs : List Byte) (s : State) (a b : Nat),
    (s.putBytes a bs).byte b = if a ≤ b ∧ b < a + bs.length then bs.getD (b - a) 0 else s.byte b
  | [], s, a, b => by
    have : ¬(a ≤ b ∧ b < a + ([] : List Byte).length) := by simp
    rw [if_neg this]
    rfl
  | x :: bs, s, a, b => by
    have ih := State.putBytes_byte bs (s.setByte a x) (a + 1) b
    show ((s.setByte a x).putBytes (a + 1) bs).byte b = _
    rw [ih]
    by_cases e : b = a
    · subst e
      simp
    · by_cases l : a + 1 ≤ b ∧ b < a + 1 + bs.length
      · rw [if_pos l, if_pos (by simp; omega)]
        obtain ⟨k, rfl⟩ : ∃ k, b = a + 1 + k := ⟨b - (a + 1), by omega⟩
        have e1 : a + 1 + k - (a + 1) = k := by omega
        have e2 : a + 1 + k - a = k + 1 := by omega
        rw [e1, e2]
        rfl
      · rw [if_neg l, if_neg (by simp; omega), s.setByte_byte_ne e]

theorem leBytes_length : ∀ n v, (leBytes n v).length = n
  | 0, _ => rfl
  | n + 1, v => by simp [leBytes, leBytes_length n]

/-- Byte i of a little-endian integer (R45). -/
theorem leBytes_get : ∀ n v i, i < n → (leBytes n v).getD i 0 = BitVec.ofNat 8 (v / 256 ^ i)
  | n + 1, v, 0, _ => by simp [leBytes]
  | n + 1, v, i + 1, h => by
    have ih := leBytes_get n (v / 256) i (by omega)
    rw [show leBytes (n + 1) v = BitVec.ofNat 8 v :: leBytes n (v / 256) from rfl, List.getD_cons_succ, ih,
      Nat.div_div_eq_div_mul, Nat.pow_succ, Nat.mul_comm]

/-- The integer that n bytes hold is that which was written to them (R45). -/
theorem leNat_leBytes : ∀ n v, leNat (leBytes n v) = v % 256 ^ n
  | 0, v => by simp [leBytes, leNat, Nat.mod_one]
  | n + 1, v => by
    simp only [leBytes, leNat, leNat_leBytes n, BitVec.toNat_ofNat]
    rw [show 256 ^ (n + 1) = 256 * 256 ^ n from by rw [Nat.pow_succ, Nat.mul_comm], Nat.mod_mul]

/-- A write of fewer than 64 bytes within one line cleans no line. -/
theorem State.cleanLines_short (a n : Nat) (h : n < 64) : s.cleanLines a n = s := by
  have : (a + n) / 64 - (a + 63) / 64 = 0 := by omega
  unfold State.cleanLines
  rw [this]
  rfl

end Sys2Proof.Machine
end

