-- ==== Sys2Proof/Laws/Settle.lean ====
section
/-! SUPPORT. Settle: everything that letting the waits of a course see the present tallies can do (R220 to R229). -/

namespace Sys2Proof.Machine

/-- An entry is a wait that its queue holds (R225). -/
def QEntry.waits (e : QEntry) : Bool := match e.op with
  | .queueWait .. => true
  | _ => false

/-- From x to y a queue has lost waits at its head and may have halted, and its head may be noted anew; nothing else has changed in
it. -/
def QueueState.Passed (x y : QueueState) : Prop :=
  (∃ ws, x.entries = ws ++ y.entries ∧ ∀ e ∈ ws, e.waits = true) ∧ { y with entries := x.entries, halt := x.halt, head := x.head } = x

/-- From s to t waits of course g that queues hold have ended: nothing has changed but the queues, watches and records of
the course, the reports of dies, registers, the free values used and the stamp. -/
def Settles (g : Course) (s t : State) : Prop :=
  (∀ h, h ≠ g → t.course h = s.course h) ∧
    { t with courses := s.courses, dies := s.dies, regs := s.regs, wide := s.wide, freeCtr := s.freeCtr, stamp := s.stamp } = s ∧
    { t.course g with queues := (s.course g).queues, watches := (s.course g).watches, records := (s.course g).records } =
      s.course g ∧
    ∀ q, ((s.course g).queue q).Passed ((t.course g).queue q)

theorem QueueState.Passed.refl (x : QueueState) : x.Passed x := ⟨⟨[], rfl, by simp⟩, rfl⟩

theorem QueueState.Passed.trans {x y z : QueueState} (h : x.Passed y) (k : y.Passed z) : x.Passed z := by
  obtain ⟨⟨ws, h1, h2⟩, h3⟩ := h
  obtain ⟨⟨vs, k1, k2⟩, k3⟩ := k
  refine ⟨⟨ws ++ vs, by rw [h1, k1, List.append_assoc], fun e he => ?_⟩, ?_⟩
  · rcases List.mem_append.1 he with he | he
    · exact h2 e he
    · exact k2 e he
  · rw [← h3, ← k3]

theorem Settles.refl (g : Course) (s : State) : Settles g s s :=
  ⟨fun _ _ => rfl, rfl, rfl, fun _ => QueueState.Passed.refl _⟩

theorem Settles.trans {g : Course} {s t u : State} (h : Settles g s t) (k : Settles g t u) : Settles g s u := by
  obtain ⟨h1, h2, h3, h4⟩ := h
  obtain ⟨k1, k2, k3, k4⟩ := k
  refine ⟨fun c hc => (k1 c hc).trans (h1 c hc), ?_, ?_, fun q => (h4 q).trans (k4 q)⟩
  · rw [← h2, ← k2]
  · rw [← h3, ← k3]

/-- Registers of an error capture, reports and free values are outside what a course's queues hold. -/
theorem State.efirst_eq (s : State) (g : Course) (code : BitVec 16) (q : Nat) (pc : Addr) :
    s.efirst g code q pc = { s with regs := (s.efirst g code q pc).regs, wide := (s.efirst g code q pc).wide } := by
  unfold State.efirst
  split <;> rfl

theorem State.raiseInstr_eq (s : State) (g : Course) (code : BitVec 16) (u : Byte) (sub : BitVec 4) (p tp : Bool) (pc : Addr)
    (info : Option DWord) : s.raiseInstr g code u sub p tp pc info =
      { s with dies := (s.raiseInstr g code u sub p tp pc info).dies, freeCtr := (s.raiseInstr g code u sub p tp pc info).freeCtr } := by
  unfold State.raiseInstr State.raiseWith
  split <;> rfl

theorem CourseState.setQueue_queue (c : CourseState) (q : QueueId) (x : QueueState) : (c.setQueue q x).queue q = x :=
  vector_get_set _ _ _

theorem CourseState.setQueue_queue_ne (c : CourseState) {q r : QueueId} (h : r ≠ q) (x : QueueState) :
    (c.setQueue q x).queue r = c.queue r := vector_get_set_ne _ h _

/-- A change of one queue that passes waits. -/
theorem settles_modQueue {g : Course} (s : State) (q : QueueId) (f : QueueState → QueueState)
    (hf : ((s.course g).queue q).Passed (f ((s.course g).queue q))) :
    Settles g s (s.modCourse g fun c => c.modQueue q f) := by
  refine ⟨fun h hh => s.modCourse_course_ne hh _, rfl, ?_, fun r => ?_⟩
  · rw [State.modCourse_course]
    rfl
  · rw [State.modCourse_course]
    show ((s.course g).queue r).Passed (((s.course g).setQueue q (f ((s.course g).queue q))).queue r)
    by_cases hr : r = q
    · subst hr
      rw [CourseState.setQueue_queue]
      exact hf
    · rw [CourseState.setQueue_queue_ne _ hr]
      exact QueueState.Passed.refl _

theorem settles_watch {g : Course} (s : State) (w : CourseState → List Watch) :
    Settles g s (s.modCourse g fun c => { c with watches := w c }) := by
  refine ⟨fun h hh => s.modCourse_course_ne hh _, rfl, ?_, fun r => ?_⟩
  · rw [State.modCourse_course]
  · rw [State.modCourse_course]
    exact QueueState.Passed.refl _

theorem settles_fields {g : Course} {s t : State} {d : Vector DieState 6} {r : SMap Word} {w : SMap DWord} {n : Nat}
    (h : t = { s with dies := d, regs := r, wide := w, freeCtr := n }) : Settles g s t := by
  subst h
  exact ⟨fun _ _ => rfl, rfl, rfl, fun _ => QueueState.Passed.refl _⟩

theorem settles_report {g : Course} {s t : State} (h : Settles g s t) (code : BitVec 16) (u : Byte) (sub : BitVec 4) (p tp : Bool)
    (pc : Addr) (info : Option DWord) (code' : BitVec 16) (q : Nat) (pc' : Addr) :
    Settles g s ((t.raiseInstr g code u sub p tp pc info).efirst g code' q pc') := by
  have e := t.raiseInstr_eq g code u sub p tp pc info
  generalize t.raiseInstr g code u sub p tp pc info = v at e ⊢
  have e' := v.efirst_eq g code' q pc'
  generalize v.efirst g code' q pc' = w at e' ⊢
  have h1 : Settles g t v := settles_fields (d := v.dies) (r := t.regs) (w := t.wide) (n := v.freeCtr) e
  have h2 : Settles g v w := settles_fields (d := v.dies) (r := w.regs) (w := w.wide) (n := v.freeCtr) e'
  exact (h.trans h1).trans h2

theorem State.qwaitExpire_settles (s : State) (g : Course) (q : QueueId) (e : QEntry) (t : Fin 256) (x : Word) (rest : List QEntry)
    (he : ((s.course g).queue q).entries = e :: rest) (hw : e.waits = true) : Settles g s (s.qwaitExpire g q e t x rest) := by
  unfold State.qwaitExpire
  split
  · exact settles_report (settles_modQueue s q _ ⟨⟨[], rfl, by simp⟩, rfl⟩) ..
  · refine settles_report (s := s) ?_ ..
    have h1 := settles_modQueue s (g := g) q (fun y => { y with entries := rest, halt := .qwait })
      ⟨⟨[e], he, by simpa using hw⟩, rfl⟩
    have h2 := settles_watch (g := g) (s.modCourse g fun c => c.modQueue q fun y => { y with entries := rest, halt := .qwait })
      fun c => c.watches ++ [⟨e.pc, .qwait q t x⟩]
    refine (h1.trans h2).trans ?_
    unfold State.modCourse
    rw [State.setCourse_setCourse, State.setCourse_course]
    exact Settles.refl g _

theorem State.settleQueue_settles (g : Course) (q : QueueId) : ∀ (fuel : Nat) (s : State), Settles g s (s.settleQueue g q fuel)
  | 0, s => Settles.refl g s
  | fuel + 1, s => by
    unfold State.settleQueue
    dsimp only
    split
    · rename_i e rest hh he
      split
      · rename_i t x once ho
        have hw : e.waits = true := by
          unfold QEntry.waits
          rw [ho]
        split
        · refine Settles.trans ?_ (State.settleQueue_settles g q fuel _)
          exact settles_modQueue s q (fun y => { y with entries := rest }) ⟨⟨[e], he, by simpa using hw⟩, rfl⟩
        · split
          · exact s.qwaitExpire_settles g q e t x rest he hw
          · exact Settles.refl g s
      · exact Settles.refl g s
    · exact Settles.refl g s

theorem State.noteHead_settles (s : State) (g : Course) : Settles g s (s.noteHead g) := by
  unfold State.noteHead
  dsimp only
  split
  · rename_i e _ _
    split
    · exact Settles.refl g s
    · have h := settles_modQueue s (g := g) 7 (fun y => { y with head := some (e.serial, s.stamp) }) ⟨⟨[], rfl, by simp⟩, rfl⟩
      exact ⟨h.1, rfl, h.2.2.1, h.2.2.2⟩
  · exact Settles.refl g s

/-- The queues settle first, then the controller's wait and the watches, and then the head of queue 7 is noted. -/
theorem State.settle_eq (s : State) (g : Course) :
    ∃ t, Settles g s t ∧ s.settle g = (t.modCourse g fun c => c.settleWait.settleWatches).noteHead g := by
  refine ⟨(List.finRange 8).foldl (fun u q => u.settleQueue g q 65) s, ?_, rfl⟩
  generalize List.finRange 8 = l
  induction l generalizing s with
  | nil => exact Settles.refl g s
  | cons q l ih => exact (State.settleQueue_settles g q 65 s).trans (ih _)

/-- With no controller wait in progress, only queues, watches and records of the course change. -/
theorem State.settle_settles (s : State) (g : Course) (h : (s.course g).wait = none) : Settles g s (s.settle g) := by
  obtain ⟨t, ht, e⟩ := s.settle_eq g
  rw [e]
  refine Settles.trans (ht.trans ?_) (State.noteHead_settles _ g)
  have hw : (t.course g).wait = none := by
    rw [← h, ← ht.2.2.1]
  have hs : (t.course g).settleWait = t.course g := by
    unfold CourseState.settleWait CourseState.waitStatus
    rw [hw]
  refine ⟨fun c hc => t.modCourse_course_ne hc _, rfl, ?_, fun q => ?_⟩
  · rw [State.modCourse_course, hs]
    rfl
  · rw [State.modCourse_course, hs]
    exact QueueState.Passed.refl _

end Sys2Proof.Machine
end

