-- ==== Sys2Proof/Laws/Wrap.lean ====
section
/-! SUPPORT. Wrap: AES decryption undoes encryption, and every key has a wrapped form that unwraps to it (R338, R423), under a key
whose round keys are 16 bytes each. -/

namespace Sys2Proof.Machine

/-! ### MixColumns -/

theorem gfDbl_xor {x y : Nat} (hx : x < 256) (hy : y < 256) : gfDbl 0x11B (x ^^^ y) = gfDbl 0x11B x ^^^ gfDbl 0x11B y := by
  have top (a : Nat) : a / 128 = a >>> 7 := by rw [Nat.shiftRight_eq_div_pow]
  have dbl (a : Nat) : 2 * a = a <<< 1 := by rw [Nat.shiftLeft_eq]; omega
  unfold gfDbl
  rw [top, top, top, dbl, dbl, dbl, Nat.shiftLeft_xor_distrib, Nat.shiftRight_xor_distrib]
  have bit {a : Nat} (h : a < 256) : a >>> 7 = 0 ∨ a >>> 7 = 1 := by rw [← top]; omega
  have twice (u v w : Nat) : (u ^^^ v) ^^^ (w ^^^ v) = u ^^^ w := by
    rw [Nat.xor_assoc, Nat.xor_comm w v, ← Nat.xor_assoc v, Nat.xor_self, Nat.zero_xor]
  rcases bit hx with e | e <;> rcases bit hy with f | f <;> rw [e, f]
  · simp
  · simp [Nat.xor_assoc]
  · simp only [Nat.mul_one, Nat.mul_zero, Nat.xor_zero]
    ac_rfl
  · rw [twice]; simp

theorem gfMulN_xor {x y : Nat} (hx : x < 256) (hy : y < 256) : ∀ n k,
    gfMulN 0x11B (x ^^^ y) k n = gfMulN 0x11B x k n ^^^ gfMulN 0x11B y k n
  | 0, _ => by simp [gfMulN]
  | n + 1, k => by
    unfold gfMulN
    rw [gfMulN_xor hx hy, gfDbl_xor (gfMulN_byte hx _ _) (gfMulN_byte hy _ _)]
    rcases Nat.mod_two_eq_zero_or_one k with e | e <;> rw [e] <;> simp only [Nat.mul_zero, Nat.mul_one, Nat.xor_zero]
    ac_rfl

theorem mixMul_byte (k : Nat) {x : Nat} (hx : x < 256) : mixMul k x < 256 := gfMulN_byte hx 4 k

theorem mixMul_xor (k : Nat) {x y : Nat} (hx : x < 256) (hy : y < 256) : mixMul k (x ^^^ y) = mixMul k x ^^^ mixMul k y :=
  gfMulN_xor hx hy 4 k

/-- A coefficient of the product of the two matrices. -/
def mixPair (d x : Nat) : Nat :=
  mixMul 14 (mixMul ([2, 3, 1, 1].getD (d % 4) 0) x) ^^^ mixMul 11 (mixMul ([2, 3, 1, 1].getD ((d + 3) % 4) 0) x) ^^^
    mixMul 13 (mixMul ([2, 3, 1, 1].getD ((d + 2) % 4) 0) x) ^^^ mixMul 9 (mixMul ([2, 3, 1, 1].getD ((d + 1) % 4) 0) x)

theorem mixPair_eq {x : Nat} (h : x < 256) : mixPair 0 x = x ∧ mixPair 1 x = 0 ∧ mixPair 2 x = 0 ∧ mixPair 3 x = 0 := by
  have all : ∀ x : Fin 256, mixPair 0 x.val = x.val ∧ mixPair 1 x.val = 0 ∧ mixPair 2 x.val = 0 ∧ mixPair 3 x.val = 0 := by
    decide +kernel
  exact all ⟨x, h⟩

/-- One byte of a column through both matrices. -/
theorem mixColumn {a b c d : Nat} (ha : a < 256) (hb : b < 256) (hc : c < 256) (hd : d < 256) :
    mixMul 14 (mixMul 2 a ^^^ mixMul 3 b ^^^ mixMul 1 c ^^^ mixMul 1 d) ^^^
      mixMul 11 (mixMul 1 a ^^^ mixMul 2 b ^^^ mixMul 3 c ^^^ mixMul 1 d) ^^^
      mixMul 13 (mixMul 1 a ^^^ mixMul 1 b ^^^ mixMul 2 c ^^^ mixMul 3 d) ^^^
      mixMul 9 (mixMul 3 a ^^^ mixMul 1 b ^^^ mixMul 1 c ^^^ mixMul 2 d) = a := by
  have m (k : Nat) {x : Nat} (h : x < 256) : mixMul k x < 256 := mixMul_byte k h
  have four (k p q r t : Nat) : mixMul k (mixMul p a ^^^ mixMul q b ^^^ mixMul r c ^^^ mixMul t d) =
      mixMul k (mixMul p a) ^^^ mixMul k (mixMul q b) ^^^ mixMul k (mixMul r c) ^^^ mixMul k (mixMul t d) := by
    rw [mixMul_xor k (xor_byte (xor_byte (m p ha) (m q hb)) (m r hc)) (m t hd),
      mixMul_xor k (xor_byte (m p ha) (m q hb)) (m r hc), mixMul_xor k (m p ha) (m q hb)]
  rw [four, four, four, four]
  have e : mixPair 0 a ^^^ mixPair 1 b ^^^ mixPair 2 c ^^^ mixPair 3 d = a := by
    rw [(mixPair_eq ha).1, (mixPair_eq hb).2.1, (mixPair_eq hc).2.2.1, (mixPair_eq hd).2.2.2]
    simp
  refine Eq.trans ?_ e
  simp only [mixPair, Nat.reduceMod, Nat.reduceAdd, List.getD_cons_zero, List.getD_cons_succ]
  ac_rfl

/-- A byte of the mixed state. -/
theorem mixWith_getD (k0 k1 k2 k3 : Nat) (st : List Nat) (q : Fin 4) (r : Fin 4) :
    (mixWith [k0, k1, k2, k3] st).getD (4 * q.val + r.val) 0 =
      mixMul ([k0, k1, k2, k3].getD ((4 - r.val) % 4) 0) (st.getD (4 * q.val) 0) ^^^
      mixMul ([k0, k1, k2, k3].getD ((5 - r.val) % 4) 0) (st.getD (4 * q.val + 1) 0) ^^^
      mixMul ([k0, k1, k2, k3].getD ((6 - r.val) % 4) 0) (st.getD (4 * q.val + 2) 0) ^^^
      mixMul ([k0, k1, k2, k3].getD ((7 - r.val) % 4) 0) (st.getD (4 * q.val + 3) 0) := by
  have hi : 4 * q.val + r.val < 16 := by omega
  have hd : (4 * q.val + r.val) / 4 = q.val := by omega
  have hm : (4 * q.val + r.val) % 4 = r.val := by omega
  unfold mixWith
  rw [List.getD_eq_getElem _ _ (by simpa using hi), List.getElem_map, List.getElem_range, hd, hm]
  rw [show List.range 4 = [0, 1, 2, 3] from rfl]
  simp only [List.foldl_cons, List.foldl_nil, Nat.zero_xor, Nat.add_zero]

theorem mixWith_mixWith {st : List Nat} (hb : Bytes st) (hl : st.length = 16) :
    mixWith [14, 11, 13, 9] (mixWith [2, 3, 1, 1] st) = st := by
  have hx (i : Nat) : st.getD i 0 < 256 := hb.getD i
  have at_ (q r : Fin 4) : (mixWith [14, 11, 13, 9] (mixWith [2, 3, 1, 1] st)).getD (4 * q.val + r.val) 0 =
      st.getD (4 * q.val + r.val) 0 := by
    have f (r : Fin 4) := mixWith_getD 2 3 1 1 st q r
    have f0 := f 0; have f1 := f 1; have f2 := f 2; have f3 := f 3
    simp at f0 f1 f2 f3
    rw [mixWith_getD]
    simp only [List.getD_eq_getElem?_getD] at *
    rw [f0, f1, f2, f3]
    fin_cases r
    · exact mixColumn (hx _) (hx _) (hx _) (hx _)
    · refine Eq.trans ?_ (mixColumn (hx (4 * q.val + 1)) (hx (4 * q.val + 2)) (hx (4 * q.val + 3)) (hx (4 * q.val)))
      simp
      ac_rfl
    · refine Eq.trans ?_ (mixColumn (hx (4 * q.val + 2)) (hx (4 * q.val + 3)) (hx (4 * q.val)) (hx (4 * q.val + 1)))
      simp
      ac_rfl
    · refine Eq.trans ?_ (mixColumn (hx (4 * q.val + 3)) (hx (4 * q.val)) (hx (4 * q.val + 1)) (hx (4 * q.val + 2)))
      simp
      ac_rfl
  refine List.ext_getElem (by simp [mixWith, hl]) fun i h1 h2 => ?_
  have e := at_ ⟨i / 4, by omega⟩ ⟨i % 4, by omega⟩
  simp only [Nat.div_add_mod] at e
  rwa [List.getD_eq_getElem _ _ h1, List.getD_eq_getElem _ _ h2] at e

/-! ### The cipher -/

theorem xorL_length (a k : List Nat) : (xorL a k).length = min a.length k.length := List.length_zipWith

theorem permute_length (f : Nat → Nat) (l : List Nat) : (permute f l).length = 16 := by simp [permute]

theorem permute_permute {l : List Nat} (h : l.length = 16) : permute invShiftSrc (permute shiftSrc l) = l := by
  match l, h with
  | [_, _, _, _, _, _, _, _, _, _, _, _, _, _, _, _], _ => rfl

theorem sub_sub {l : List Nat} (h : Bytes l) : (l.map sboxOf).map invSboxOf = l := by
  have all : ∀ x : Fin 256, invSboxOf (sboxOf x.val) = x.val := by decide +kernel
  rw [List.map_map]
  exact (List.map_congr_left fun x hx => all ⟨x, h x hx⟩).trans (List.map_id l)

/-- A round of encryption, and of decryption. -/
def encRound (ks : List (List Nat)) (st : List Nat) (r : Nat) : List Nat :=
  xorL (mixWith [2, 3, 1, 1] (permute shiftSrc (st.map sboxOf))) (ks.getD (r + 1) [])
def decRound (ks : List (List Nat)) (st : List Nat) (r : Nat) : List Nat :=
  mixWith [14, 11, 13, 9] (xorL ((permute invShiftSrc st).map invSboxOf) (ks.getD (13 - r) []))

/-- A state of 16 bytes. -/
def Block (st : List Nat) : Prop := Bytes st ∧ st.length = 16

theorem encRound_block {key : List Nat} (h : GoodKey key) (st : List Nat) {r : Nat} (hr : r < 13) :
    Block (encRound (aesKeys key) st r) :=
  ⟨(mixWith_bytes _ (Bytes.sub.permute _)).xorL (h.round _),
    by unfold encRound; rw [xorL_length, h.length (by omega)]; simp [mixWith]⟩

theorem decRound_encRound {key : List Nat} (h : GoodKey key) {st : List Nat} {r : Nat} (hr : r < 13) :
    decRound (aesKeys key) (permute shiftSrc ((encRound (aesKeys key) st r).map sboxOf)) (12 - r) =
      permute shiftSrc (st.map sboxOf) := by
  have e := encRound_block h st hr
  unfold decRound
  rw [permute_permute (by simpa using e.2), sub_sub e.1, show 13 - (12 - r) = r + 1 by omega]
  unfold encRound
  rw [xorL_xorL _ _ (by rw [h.length (by omega)]; simp [mixWith])]
  exact mixWith_mixWith (Bytes.sub.permute _) (permute_length _ _)

theorem aesDec_aesEnc {key : List Nat} (h : GoodKey key) {b : List Nat} (hb : Block b) : aesDec key (aesEnc key b) = b := by
  have k0 := h.length (i := 0) (by omega)
  have s0 : Block (xorL b ((aesKeys key).getD 0 [])) := ⟨hb.1.xorL (h.round 0), by rw [xorL_length, k0, hb.2]; rfl⟩
  have go : ∀ n ≤ 13, Block ((List.range n).foldl (encRound (aesKeys key)) (xorL b ((aesKeys key).getD 0 []))) ∧
      ((List.range' (13 - n) n).foldl (decRound (aesKeys key)) (permute shiftSrc
        (((List.range n).foldl (encRound (aesKeys key)) (xorL b ((aesKeys key).getD 0 []))).map sboxOf))) =
        permute shiftSrc ((xorL b ((aesKeys key).getD 0 [])).map sboxOf) := by
    intro n
    induction n with
    | zero => exact fun _ => ⟨s0, rfl⟩
    | succ n ih =>
      intro hn
      obtain ⟨ib, ie⟩ := ih (by omega)
      rw [List.range_succ, List.foldl_append, List.foldl_cons, List.foldl_nil]
      refine ⟨encRound_block h _ (by omega), ?_⟩
      rw [List.range'_succ, List.foldl_cons, show 13 - (n + 1) = 12 - n by omega, decRound_encRound h (by omega),
        show 12 - n + 1 = 13 - n by omega]
      exact ie
  obtain ⟨gb, ge⟩ := go 13 (Nat.le_refl _)
  rw [show List.range' (13 - 13) 13 = List.range 13 from rfl] at ge
  show xorL ((permute invShiftSrc ((List.range 13).foldl (decRound (aesKeys key)) (xorL (xorL (permute shiftSrc
    (((List.range 13).foldl (encRound (aesKeys key)) (xorL b ((aesKeys key).getD 0 []))).map sboxOf)) ((aesKeys key).getD 14 []))
    ((aesKeys key).getD 14 [])))).map invSboxOf) ((aesKeys key).getD 0 []) = b
  rw [xorL_xorL _ _ (by rw [h.length (by omega), permute_length]), ge, permute_permute (by simpa using s0.2), sub_sub s0.1,
    xorL_xorL _ _ (by rw [k0, hb.2])]

theorem aesEnc_block {key : List Nat} (h : GoodKey key) (b : List Nat) : Block (aesEnc key b) := ⟨aesEnc_bytes h b, aesEnc_length h b⟩

/-! ### Key wrap -/

/-- A state of the key wrap: eight bytes, and n registers of eight. -/
def WrapState (n : Nat) (st : List Nat × List (List Nat)) : Prop :=
  (Bytes st.1 ∧ st.1.length = 8) ∧ st.2.length = n ∧ ∀ r ∈ st.2, Bytes r ∧ r.length = 8

/-- The step of wrapping that an unwrap step undoes. -/
def wrapStep (kek : List Nat) (n : Nat) (st : List Nat × List (List Nat)) (t : Nat) : List Nat × List (List Nat) :=
  let b := aesEnc kek (st.1 ++ st.2.getD ((t - 1) % n) [])
  (xorL (b.take 8) (natBe 8 t), st.2.set ((t - 1) % n) (b.drop 8))

theorem natBe_length (n v : Nat) : (natBe n v).length = n := by
  have go (m : Nat) : ∀ v, (natLe m v).length = m := by
    induction m with
    | zero => exact fun _ => rfl
    | succ m ih => exact fun v => by simp [natLe, ih]
  simp [natBe, go]

theorem wrapStep_state {kek : List Nat} (h : GoodKey kek) {n : Nat} {st : List Nat × List (List Nat)}
    (hs : WrapState n st) (t : Nat) : WrapState n (wrapStep kek n st t) := by
  obtain ⟨-, hl, hr⟩ := hs
  have hb := aesEnc_block h (st.1 ++ st.2.getD ((t - 1) % n) [])
  unfold wrapStep
  dsimp only
  generalize aesEnc kek (st.1 ++ st.2.getD ((t - 1) % n) []) = b at hb
  refine ⟨⟨Bytes.xorL (fun x hx => hb.1 x (List.mem_of_mem_take hx)) (natBe_bytes 8 t), ?_⟩, by simp [hl], ?_⟩
  · simp [xorL_length, natBe_length, hb.2]
  · intro r hm
    rcases List.mem_or_eq_of_mem_set hm with hm | rfl
    · exact hr r hm
    · exact ⟨fun x hx => hb.1 x (List.mem_of_mem_drop hx), by simp [hb.2]⟩

theorem kwStep_wrapStep {kek : List Nat} (h : GoodKey kek) {n : Nat} (hn : 0 < n) {st : List Nat × List (List Nat)}
    (hs : WrapState n st) (t : Nat) : kwStep kek n (wrapStep kek n st t) t = st := by
  obtain ⟨⟨a, rs⟩, i, rfl⟩ : ∃ p : List Nat × List (List Nat), ∃ i, st = p := ⟨st, 0, rfl⟩
  obtain ⟨⟨ha, hal⟩, hl, hr⟩ := hs
  dsimp only at ha hal hl hr
  have hi : (t - 1) % n < rs.length := by rw [hl]; exact Nat.mod_lt _ hn
  have ho : rs.getD ((t - 1) % n) [] = rs[(t - 1) % n] := List.getD_eq_getElem _ _ hi
  have hm := hr _ (List.getElem_mem hi)
  have hb : Block (a ++ rs[(t - 1) % n]) := ⟨ha.append hm.1, by simp [hal, hm.2]⟩
  unfold kwStep wrapStep
  dsimp only
  rw [xorL_xorL _ _ (by simp [natBe_length]), ho, List.getD_eq_getElem _ _ (by simpa using hi), List.getElem_set_self,
    List.take_append_drop, aesDec_aesEnc h hb, List.take_left' hal, List.drop_left' hal, List.set_set, List.set_getElem_self]

theorem unwrap_wrap {kek : List Nat} (h : GoodKey kek) {n : Nat} (hn : 0 < n) {st : List Nat × List (List Nat)}
    (hs : WrapState n st) : ∀ l : List Nat, WrapState n (l.foldr (fun t s => wrapStep kek n s t) st) ∧
      l.foldl (kwStep kek n) (l.foldr (fun t s => wrapStep kek n s t) st) = st
  | [] => ⟨hs, rfl⟩
  | t :: l => by
    obtain ⟨i, e⟩ := unwrap_wrap h hn hs l
    exact ⟨wrapStep_state h i t, by rw [List.foldr_cons, List.foldl_cons, kwStep_wrapStep h hn i, e]⟩

theorem chunksOf_flatten : ∀ rs : List (List Nat), (∀ r ∈ rs, r.length = 8) → chunksOf 8 rs.length rs.flatten = rs
  | [], _ => rfl
  | r :: rs, h => by
    have hr := h r (by simp)
    show (r ++ rs.flatten).take 8 :: chunksOf 8 rs.length ((r ++ rs.flatten).drop 8) = _
    rw [List.take_left' hr, List.drop_left' hr, chunksOf_flatten rs fun x hx => h x (by simp [hx])]

theorem flatten_length : ∀ rs : List (List Nat), (∀ r ∈ rs, r.length = 8) → rs.flatten.length = 8 * rs.length
  | [], _ => rfl
  | r :: rs, h => by
    rw [List.flatten_cons, List.length_append, flatten_length rs fun x hx => h x (by simp [hx]), h r (by simp), List.length_cons]
    ring

/-- Every key of n groups of eight bytes has a wrapped form. -/
theorem exists_wrapped {kek : List Nat} (h : GoodKey kek) {rs : List (List Nat)} (hn : 0 < rs.length)
    (hr : ∀ r ∈ rs, Bytes r ∧ r.length = 8) :
    ∃ w, Bytes w ∧ w.length = 8 + 8 * rs.length ∧ kwUnwrap kek w = some rs.flatten := by
  have hs : WrapState rs.length (List.replicate 8 0xA6, rs) :=
    ⟨⟨fun x hx => by rw [List.eq_of_mem_replicate hx]; omega, rfl⟩, rfl, hr⟩
  obtain ⟨⟨⟨ha, hal⟩, hl, hq⟩, e⟩ := unwrap_wrap h hn hs ((List.range (6 * rs.length)).map fun j => 6 * rs.length - j)
  generalize hst : ((List.range (6 * rs.length)).map fun j => 6 * rs.length - j).foldr
    (fun t s => wrapStep kek rs.length s t) (List.replicate 8 0xA6, rs) = st at ha hal hl hq e
  have fl := flatten_length st.2 fun r hr => (hq r hr).2
  refine ⟨st.1 ++ st.2.flatten, ha.append ?_, by rw [List.length_append, hal, fl, hl], ?_⟩
  · intro x hx
    obtain ⟨r, hr, hx⟩ := List.mem_flatten.1 hx
    exact (hq r hr).1 x hx
  · have len : (st.1 ++ st.2.flatten).length / 8 - 1 = rs.length := by rw [List.length_append, hal, fl, hl]; omega
    unfold kwUnwrap
    dsimp only
    rw [len, List.take_left' hal, List.drop_left' hal, ← hl, chunksOf_flatten _ fun r hr => (hq r hr).2, hl, e]
    rfl

/-! ### Keys in registers -/

theorem leBytes_leNat : ∀ w : List Byte, leBytes w.length (leNat w) = w
  | [] => rfl
  | b :: w => by
    show BitVec.ofNat 8 (b.toNat + 256 * leNat w) :: leBytes w.length ((b.toNat + 256 * leNat w) / 256) = b :: w
    have := b.isLt
    rw [show (b.toNat + 256 * leNat w) / 256 = leNat w by omega, leBytes_leNat w]
    congr 1
    apply BitVec.eq_of_toNat_eq
    rw [BitVec.toNat_ofNat]
    omega

theorem leNat_lt : ∀ w : List Byte, leNat w < 256 ^ w.length
  | [] => by simp [leNat]
  | b :: w => by
    have := b.isLt
    have := leNat_lt w
    show b.toNat + 256 * leNat w < 256 ^ (w.length + 1)
    rw [Nat.pow_succ]
    omega

/-- Some values of the registers from `base` on spell any bytes. -/
theorem exists_regBytes (s : State) (base : Nat) : ∀ (n : Nat) (w : List Byte), w.length = 4 * n →
    ∃ rs, ({ s with regs := rs } : State).regBytes base n = w
  | 0, w, h => ⟨s.regs, by rw [List.eq_nil_of_length_eq_zero h]; rfl⟩
  | n + 1, w, h => by
    obtain ⟨rs, e⟩ := exists_regBytes s base n (w.take (4 * n)) (by rw [List.length_take]; omega)
    have l : (w.drop (4 * n)).length = 4 := by rw [List.length_drop]; omega
    refine ⟨(({ s with regs := rs } : State).setReg (base + 4 * n) (BitVec.ofNat 32 (leNat (w.drop (4 * n))))).regs, ?_⟩
    show (({ s with regs := rs } : State).setReg (base + 4 * n) _).regBytes base (n + 1) = w
    unfold State.regBytes at e ⊢
    rw [List.range_succ, List.flatMap_append, List.flatMap_singleton, State.setReg_reg, BitVec.toNat_ofNat,
      Nat.mod_eq_of_lt (by have := leNat_lt (w.drop (4 * n)); rw [l] at this; omega)]
    have same : (List.range n).flatMap (fun i => leBytes 4 (((({ s with regs := rs } : State).setReg (base + 4 * n)
        (BitVec.ofNat 32 (leNat (w.drop (4 * n))))).reg (base + 4 * i)).toNat)) = w.take (4 * n) := by
      rw [← e]
      refine List.flatMap_congr fun i hi => ?_
      have lt := List.mem_range.1 hi
      exact congrArg (fun x : Word => leBytes 4 x.toNat) (State.setReg_reg_ne _ (show base + 4 * i ≠ base + 4 * n by omega) _)
    have last : leBytes 4 (leNat (w.drop (4 * n))) = w.drop (4 * n) := by
      have := leBytes_leNat (w.drop (4 * n))
      rwa [l] at this
    rw [same, last, List.take_append_drop]

/-- Some values of the registers unwrap to any key, under a key-wrapping key whose round keys are 16 bytes each. -/
theorem exists_key (s : State) {kek : List Byte} (hk : GoodKey (toNats kek)) (base n : Nat) {rs : List (List Byte)}
    (hn : 0 < rs.length) (hr : ∀ r ∈ rs, r.length = 8) (hl : 8 + 8 * rs.length = 4 * n) :
    ∃ regs, let t : State := { s with regs := regs, boot := { s.boot with kwk := some kek } }
      t.unwrapKey (t.regBytes base n) = some rs.flatten := by
  obtain ⟨w, wb, wl, we⟩ := exists_wrapped hk (rs := rs.map toNats) (by simpa using hn) (by
    intro r h
    obtain ⟨b, hb, rfl⟩ := List.mem_map.1 h
    exact ⟨toNats_bytes b, by simpa [toNats] using hr b hb⟩)
  obtain ⟨regs, e⟩ := exists_regBytes { s with boot := { s.boot with kwk := some kek } } base n (ofNats w)
    (by rw [← hl]; simpa [ofNats] using wl)
  refine ⟨regs, ?_⟩
  dsimp only at e ⊢
  unfold State.unwrapKey
  rw [e]
  dsimp only
  rw [toNats_ofNats wb, we, Option.map_some]
  congr 1
  have app (a b : List Nat) : ofNats (a ++ b) = ofNats a ++ ofNats b := List.map_append
  have go (l : List (List Byte)) : ofNats (l.map toNats).flatten = l.flatten := by
    induction l with
    | nil => rfl
    | cons r l ih => rw [List.map_cons, List.flatten_cons, app, ofNats_toNats, ih, List.flatten_cons]
  exact go rs

end Sys2Proof.Machine
end

