-- ==== Sys2Proof/WellFormed.lean ====
section
/-! DEFINITION. WellFormed: which commands are well formed beyond what their types say. -/

namespace Sys2Proof

/-- A BAR0 offset that an agent can name: aligned to 4 (R9), and inside the agent's register space:
512 MiB for the physical function and the device's own agents (R14, R29), 64 MiB for a virtual
function (R40). -/
def offOk (a : Agent) (off : BitVec 32) : Bool :=
  decide (off.toNat % 4 = 0) &&
    match a with
    | .host fn => if fn.val = 0 then decide (off.toNat < 0x20000000) else decide (off.toNat < 0x4000000)
    | _ => decide (off.toNat < 0x20000000)

/-- Well-formed commands: register offsets lie in the sender's register space and are aligned, and a
misaligned access is one (R9), and OPN of the word is that of the row (R217, R224). -/
def Instr.wf : Instr → Bool
  | .registerWrite a off _ => offOk a off
  | .regPairLowWrite a off _ => offOk a off && decide (off.toNat % 8 = 0)
  | .regPairHighWrite a off _ => offOk a off && decide (off.toNat % 8 = 4)
  | .regPairLowRead a off => offOk a off && decide (off.toNat % 8 = 0)
  | .regPairHighRead a off => offOk a off && decide (off.toNat % 8 = 4)
  | .hostBar0Misaligned _ off size _ => decide (size ≠ 4) || decide (off.toNat % 4 ≠ 0)
  | .counterClear a off _ => offOk a off
  | .budgetWrite a off _ => offOk a off
  | .rngBind _ w => !w.getLsbD 51
  | .rngRelease _ w => w.getLsbD 51
  | .msnParityEncode _ w => !w.getLsbD 40 && !w.getLsbD 41
  | .msnParityDecode _ w => w.getLsbD 40 && !w.getLsbD 41
  | _ => true

end Sys2Proof
end

