-- ==== Sys2Proof/Tests/Slice0.lean ====
section
/-! SUPPORT. Slice0: the model's own tests. The first part has an ill-formed command for each check of WellFormed; the rest, for the
hypotheses of each statement, a small state and operands that meet them. -/

open Sys2Proof Sys2Proof.Machine

set_option maxRecDepth 100000

namespace Sys2Proof.Tests

/-! ### Ill-formed commands -/

theorem test_wf_offset :
    (Instr.registerWrite .plinth 2#32 0#32).wf = false ∧ (Instr.registerWrite .plinth 0x20000000#32 0#32).wf = false ∧
    (Instr.registerWrite (.host 0) 0x20000000#32 0#32).wf = false ∧ (Instr.registerWrite (.host 1) 0x4000000#32 0#32).wf = false ∧
    (Instr.registerWrite (.host 1) 0x3FFFFFC#32 0#32).wf = true := by decide
theorem test_wf_pairs :
    (Instr.regPairLowWrite .plinth 4#32 0#32).wf = false ∧ (Instr.regPairHighWrite .plinth 8#32 0#32).wf = false ∧
    (Instr.regPairLowRead .plinth 12#32).wf = false ∧ (Instr.regPairHighRead .plinth 8#32).wf = false ∧
    (Instr.regPairLowRead .plinth 8#32).wf = true ∧ (Instr.regPairHighRead .plinth 12#32).wf = true := by decide
theorem test_wf_others :
    (Instr.hostBar0Misaligned 0 8#32 4 false).wf = false ∧ (Instr.hostBar0Misaligned 0 9#32 4 false).wf = true ∧
    (Instr.counterClear .plinth 0x20000000#32 false).wf = false ∧ (Instr.budgetWrite .plinth 6#32 0#32).wf = false := by decide
theorem test_wf_operations :
    (Instr.rngBind 0 (1 <<< 51)).wf = false ∧ (Instr.rngRelease 0 0).wf = false ∧ (Instr.msnParityEncode 0 (1 <<< 40)).wf = false ∧
    (Instr.msnParityEncode 0 (1 <<< 41)).wf = false ∧ (Instr.msnParityDecode 0 0).wf = false ∧
    (Instr.msnParityDecode 0 (1 <<< 40 ||| 1 <<< 41)).wf = false ∧ (Instr.rngRelease 0 (1 <<< 51)).wf = true := by decide

/-! ### States -/

/-- Course 0 runs at PC 0; after reset nothing else is in the state. -/
def running : State := State.reset.modCourse 0 fun c => { c with ctl := .running }

/-- Course 0 runs, after a change of it. -/
def runs (f : CourseState → CourseState) : State := running.modCourse 0 f

/-- The hypothesis of an instruction statement, as a test. -/
def issuesB (s : State) (w : BitVec 56) (z : List (Nat × Nat)) (v2 : Bool) : Bool :=
  s.issuing 0 && (s.fetch 0).2 && (s.nextInstr 0).isSome && !s.illegal 0 w z v2 && (s.course 0).guard w

theorem issues_of {s : State} {w : BitVec 56} {z : List (Nat × Nat)} {v2 : Bool} (h : issuesB s w z v2 = true) : Issues s 0 w z v2 := by
  simp only [issuesB, Bool.and_eq_true, Bool.not_eq_true'] at h
  exact ⟨h.1.1.1.1, h.1.1.1.2, h.1.1.2, h.1.2, h.2⟩

/-- A word with a value in a field. -/
def field (v lo : Nat) : BitVec 56 := BitVec.ofNat 56 (v * 2 ^ lo)

/-! ### The step and the queue -/

theorem witness_stepsKeepCanonicalForm :
    ({ State.reset with pending := [.packageReset] }).canon = true ∧
    step { State.reset with pending := [.packageReset] } = .next { State.reset with pending := [] } := ⟨by decide, rfl⟩

theorem witness_answered : exec .packageReset State.reset = .next State.reset := rfl

/-! ### Instructions that only compute -/

theorem witness_running : (∀ g : Course, running.courseRuns g = true) ∧ (∀ d : Die, running.dieRuns d = true) ∧
    ∀ d : Die, State.reset.dieRuns d = true := by decide
theorem witness_registerForm : Issues running 0 (field 3 47) [(36, 0)] false := issues_of (by decide)
theorem witness_immediateForm : Issues running 0 (field 3 47) [(41, 32)] false ∧ fld (field 3 47) 31 6 = 0 ∧ fld (field 3 47) 46 42 = 0 :=
  ⟨issues_of (by decide), by decide, by decide⟩
theorem witness_unusedFields_i : (Issues running 0 64 [(41, 32)] false ∧ fld 64 31 6 ≠ 0 ∧ fld 64 31 0 ≠ 0) ∧
    Issues running 0 (field 1 42) [(41, 32)] false ∧ fld (field 1 42) 46 42 ≠ 0 :=
  ⟨⟨issues_of (by decide), by decide, by decide⟩, issues_of (by decide), by decide⟩
theorem witness_unusedFields_a :
    (∀ lo : Fin 4, let w := field 1 ([43, 0, 38, 48].getD lo.val 0)
      issuesB running w [(47, 47), (37, 32)] false = true) ∧
    fld (field 1 43) 46 43 ≠ 0 ∧ fld (field 1 0) 31 0 ≠ 0 ∧ fld (field 1 38) 42 38 ≠ 0 ∧ fld (field 1 48) 51 48 ≠ 0 := by decide
theorem witness_unusedFields_c :
    (∀ k : Fin 3, issuesB running ([1, field 6 46, field 1 36].getD k.val 0) [(35, 32)] false = true) ∧
    6 ≤ fld (field 6 46) 48 46 ∧ fld (field 1 36) 40 36 ≠ 0 ∧ issuesB running (field 4 46) [(39, 0)] false = true ∧
    4 ≤ fld (field 4 46) 48 46 := by decide
theorem witness_addressForm : Issues running 0 (field 5 48) [(47, 47), (37, 32)] false ∧ fld (field 5 48) 46 43 = 0 ∧
    fld (field 5 48) 31 0 = 0 ∧ fld (field 5 48) 42 38 = 0 ∧ issuesB running (field 5 38) [(47, 47), (37, 32)] false = true ∧
    fld (field 5 38) 51 48 = 0 := ⟨issues_of (by decide), by decide⟩
theorem witness_predicates :
    (∀ k : Fin 6, issuesB running (field k.val 46) [(35, 32)] false = true ∧ fld (field k.val 46) 48 46 = k.val ∧
      fld (field k.val 46) 31 0 = 0 ∧ fld (field k.val 46) 40 36 = 0) ∧
    ∀ k : Fin 4, issuesB running (field k.val 46) [(39, 0)] false = true ∧ fld (field k.val 46) 48 46 = k.val := by decide
theorem witness_jumps :
    (Issues running 0 0 [(41, 32)] false ∧ (((running.course 0).rs (fldS 0 42)).setWidth 48 : Addr).toNat % 8 = 0) ∧
    (Issues (runs fun c => c.ws 1 4) 0 (field 1 42) [(41, 32)] false ∧
      ((((runs fun c => c.ws 1 4).course 0).rs (fldS (field 1 42) 42)).setWidth 48 : Addr).toNat % 8 ≠ 0) ∧
    Issues running 0 0 [(51, 0)] false :=
  ⟨⟨issues_of (by decide), by decide⟩, ⟨issues_of (by decide), by decide⟩, issues_of (by decide)⟩

/-! ### How a course issues -/

theorem witness_nothingIssues :
    (wordOf (.add 0 (field 1 52)) = some (0, field 1 52, [(36, 0)], false, 0x8) ∧ running.issuing 0 = true ∧ (running.fetch 0).2 = true ∧
      (running.nextInstr 0).isSome = true ∧ running.illegal 0 (field 1 52) [(36, 0)] false = false ∧ (running.course 0).guard (field 1 52) = false) ∧
    (State.reset.course 0).ctl ≠ .running := ⟨⟨rfl, by decide⟩, by decide⟩
/-- Course 0 runs, with these bytes in memory from its PC on. -/
def withCode (bs : List Byte) : State := running.putBytes 0 bs
theorem witness_decodeFaults :
    (((withCode [0, 0, 0, 0, 0, 0, 0, 0x0E]).fetch 0).2 = true ∧ (withCode [0, 0, 0, 0, 0, 0, 0, 0x0E]).nextInstr 0 = none) ∧
    ((running.fetch 0).2 = true ∧ (running.nextInstr 0).isSome = true ∧ (field 8 52).getLsbD 55 = true ∧ fld (field 8 52) 54 52 = 0) ∧
    (∃ f ∈ [((36 : Nat), 0)], fld (1 : BitVec 56) f.1 f.2 ≠ 0) ∧ ((runs fun c => { c with v1 := true }).course 0).v1 = true ∧
    wordOf (.leaveRel 0 0) = some (0, 0, [(51, 0)], true, 0x8) ∧
    ((runs fun c => { c with pc := 0x8000000000 }).fetch 0).2 = false :=
  ⟨by decide, by decide, ⟨(36, 0), by decide, by decide⟩, by decide, rfl, by decide⟩
theorem witness_fetch : (running.course 0).ibuf = [] ∧ running.physOf 0 (running.course 0).pc.toNat = some 0 ∧ running.nearOk 0 8 = true ∧
    ((runs fun c => { c with ibuf := [(0, ⟨0, 0, []⟩)] }).course 0).lineAt = some ⟨0, 0, []⟩ := by
  decide
theorem test_word_in_memory : (withCode [5, 0, 0, 0, 0, 0x80, 0, 0x17]).nextInstr 0 = some (.li 0 0x800000000005) := by decide
theorem test_buffer_stale : let s := ((withCode [5, 0, 0, 0, 0, 0x80, 0, 0x17]).fetch 0).1
    ({ s with mem := [] }).nextInstr 0 = some (.li 0 0x800000000005) ∧ (({ s with mem := [] }).ibufInv 0).nextInstr 0 = some (.add 0 0) := by decide
theorem test_opcodes : decodeInstr 0 0x3800000000000000 = some (.nop 0 0) ∧ decodeInstr 0 0x4808000000000000 = some (.rngRelease 0 0x8000000000000) ∧
    decodeInstr 0 0x8201000000000000 = some (.msnParityEncode 0 0x1000000000000) ∧
    decodeInstr 0 0xF100000000000000 = some (.updPass2 0 0) ∧ decodeInstr 0 0x3900000000000000 = none ∧ decodeInstr 0 0x8300000000000000 = none := by
  decide

/-! ### Loads and stores -/

/-- a0 of course 0 is an address. -/
def pointing (a : Addr) : State := runs fun c => c.wa 0 a

theorem witness_loads :
    (issuesB (pointing 8) 0 [(42, 32)] false = true ∧ (pointing 8).target 0 8 8 = some (.mem 8) ∧
      ((pointing 8).readAny 8 8).2.1 = false) ∧
    (pointing 0x1F0000100000).target 0 0x1F0000100000 4 = some (.reg 0x100000) := by decide
theorem witness_storeToFar :
    let s := ((pointing 0x10000000000).setReg64 (fr 0 8) 0x100000).setReg (fr 0 0) 0xC3
    issuesB s 0 [(42, 32)] false = true ∧ s.target 0 0x10000000000 8 = some (.mem 0x10000000000) ∧ nearEnd ≤ 0x10000000000 := by decide
theorem witness_accessFaults :
    (pointing 0x8000000000).target 0 0x8000000000 8 = none ∧ ((pointing 4).target 0 4 8 ≠ none ∧ 4 % 8 ≠ 0) ∧
    ((pointing 64).setPoison 64 true).target 0 64 8 = some (.mem 64) ∧ ((pointing 64).setPoison 64 true).dirty 64 8 = true ∧
    issuesB ((pointing 64).setPoison 64 true) 0 [(42, 32)] false = true := by decide
theorem witness_accessReach : running.parted = false := by decide

/-! ### Tallies, waits, leave, locks, rounding streams, self-tests -/

/-- A queue entry of course 0 that does nothing but complete. -/
def entry (serial : Nat) (op : EngineOp) : QEntry := ⟨serial, 0, op, true, 5, true, none, false, false⟩
/-- The entry as an engine has started it. -/
def begun (e : QEntry) : Started := ⟨e, 0, .none, false, 0, false, false, false, 0, false, false, false, false⟩
/-- A queue of course 0 with entries and started instructions. -/
def queued (q : QueueId) (es : List QEntry) (is : List Started) : State :=
  runs fun c => c.modQueue q fun y => { y with entries := es, started := is }

theorem witness_tallyUpdates :
    (issuesB running (field 255 44 ||| field 1 43) [] false = true ∧ fld (field 255 44 ||| field 1 43) 51 44 = 255 ∧
      fld (field 255 44 ||| field 1 43) 42 38 = 0 ∧ fld (field 255 44 ||| field 1 43) 37 32 = 0) ∧
    (issuesB (runs fun c => { c with v1 := true }) (field 63 44) [] false = true ∧ fld (field 63 44) 51 44 = 63 ∧
      fld (field 63 44) 31 0 = 0 ∧ (field 63 44).getLsbD 43 = false) := by decide
theorem witness_remoteTally :
    (issuesB running (field 1 37 ||| field 31 32) [] false = true ∧ (field 1 37 ||| field 31 32).getLsbD 37 = true ∧
      fldS (field 1 37 ||| field 31 32) 32 = 31 ∧ running.reachable ⟨.course 0, .course 31, .tallyAdd 0 0⟩ = true) ∧
    ({ State.reset with msgs := [⟨.course 1, .course 9, .tallyAdd 3 7⟩] }).msgs = [] ++ ⟨.course 1, .course 9, .tallyAdd 3 7⟩ :: [] := by
  decide
theorem witness_tallyRead : issuesB running (field 255 39) [(38, 0)] false = true ∧ fld (field 255 39) 46 39 = 255 := by decide
theorem witness_tallyWait :
    let w := field 8 25 ||| field 2 29
    let s := runs fun c => c.ws 2 5
    let late := runs fun c => (c.ws 2 5).ws 1 1
    (issuesB s w [(24, 0)] false = true ∧ s.timeout 0 (fldS w 29) = some 5 ∧
      ((s.course 0).tallyVal 0 - ((s.course 0).rs (fldS w 34)).setWidth 32).toNat < 2 ^ 31) ∧
    (late.timeout 0 (fldS (w ||| field 1 34) 29) = some 5 ∧
      ¬((late.course 0).tallyVal 0 - ((late.course 0).rs (fldS (w ||| field 1 34) 34)).setWidth 32).toNat < 2 ^ 31) ∧
    (fld (field 7 25 ||| field 2 29 ||| field 1 34) 28 25 = 7 ∧ fld (field 7 25 ||| field 2 29 ||| field 1 34) 51 47 = 0 ∧
      ((late.course 0).queue 7).entries.length < 64) := by decide
theorem witness_fence :
    let s := queued 3 [] [begun (entry 0 (.strResume 0))]
    let t := s.modCourse 0 fun c => { c with serial := 1 }
    (issuesB running 0 [(33, 0)] false = true ∧ running.timeout 0 (fldS 0 34) = some 0 ∧ (fld 0 46 39).testBit 0 = false) ∧
    (issuesB (t.modCourse 0 fun c => c.ws 2 9) (field 8 39 ||| field 2 34) [(33, 0)] false = true ∧
      (fld (field 8 39 ||| field 2 34) 46 39).testBit 3 = true ∧ begun (entry 0 (.strResume 0)) ∈ ((t.course 0).queue 3).started ∧
      (begun (entry 0 (.strResume 0))).orphan = false ∧ (begun (entry 0 (.strResume 0))).e.serial < (t.course 0).serial) := by decide
theorem witness_leave :
    let s := (runs fun c => (c.ws 2 9).ws 1 48).setReg (pr 0x1010) 48
    let w := field 2 37 ||| field 1 42
    (issuesB s w [(36, 0)] true = true ∧ s.timeout 0 (fldS w 37) = some 9 ∧ ((s.course 0).rs (fldS w 42)).toNat % 2 ^ 32 = 48 ∧
      (s.course 0).hold = none ∧ 48 ≤ s.dieCredits (courseCDie 0)) ∧
    issuesB (runs fun c => { c with hold := some ⟨0, 3⟩ }) 0 [(51, 0)] true = true := by decide
theorem witness_locks :
    let s := runs fun c => (c.wa 1 64).ws 1 64
    let w := field 1 43 ||| field 1 38
    (issuesB s w [(32, 0)] false = true ∧ s.physOf 0 ((s.course 0).ra (fldA w 43)).toNat = some 64 ∧
      s.timeout 0 (fldS w 33) = some 0 ∧ ((s.course 0).rs (fldS w 38)).toNat % 2 ^ 32 = 64 ∧ s.nearOk 64 64 = true ∧
      s.reachable ⟨.course 0, .mem (stackOf 64), .lockReq ⟨64, 64, 0, 0, 0, true⟩⟩ = true) ∧
    (issuesB s (field 1 43) [(51, 47), (42, 0)] false = true ∧ s.reachable ⟨.course 0, .mem (stackOf 64), .lockRel 64 0 0⟩ = true) := by
  decide
theorem witness_roundingStreams :
    let b : Binding := ⟨0, false, 0, 0, 0⟩
    let c : Binding := ⟨1, false, 0, 0, 0⟩
    issuesB running 0 [(28, 0)] false = true ∧ fld 0 50 45 = 0 ∧ rngStream 0 = 0 ∧ (running.course 0).bindings.length < 64 ∧
    issuesB (runs fun x => { x with bindings := [b] }) 0 [(28, 0)] false = true ∧
    issuesB (runs fun x => { x with bindings := List.replicate 64 c }) 0 [(28, 0)] false = true ∧
    64 ≤ (List.replicate 64 c).length ∧ (List.replicate 64 c).all (fun y => y.stream != 0) = true := by decide
theorem witness_selfTest :
    issuesB running (field 1 34) [(33, 0)] false = true ∧ BitVec.ofNat 8 (fld (field 1 34) 41 34) ≠ 0 ∧ fld (field 1 34) 51 44 = 0 ∧
    issuesB running (field 1 44 ||| field 1 34) [(33, 0)] false = true ∧ fld (field 1 44 ||| field 1 34) 51 44 ≠ 0 ∧
    (field 1 44 ||| field 1 34).getLsbD 43 = false ∧
    issuesB running 0 [(33, 0)] false = true ∧ BitVec.ofNat 8 (fld 0 41 34) = 0 ∧ (running.course 0).v1 = false := by decide

/-! ### Engine instructions -/

/-- Course 0 runs with s and a registers set, and slot 0 open in program order. -/
def regs (ss aa : List (Nat × Nat)) : State :=
  runs fun c =>
    let c := ss.foldl (fun c p => c.ws ⟨p.1 % 32, by omega⟩ (BitVec.ofNat 64 p.2)) c
    let c := aa.foldl (fun c p => c.wa ⟨p.1 % 16, by omega⟩ (BitVec.ofNat 48 p.2)) c
    { c with arr := { c.arr with progOpen := 1 } }

/-- The first address of course 0's slice. -/
def sl : Nat := 0x100000000000

theorem witness_msnPass :
    let s := regs [(1, 16)] [(1, sl)]
    let w := field 1 5 ||| field 1 1
    issuesB s w [] false = true ∧ ((s.course 0).queue 0).entries.length < 64 ∧
    (passOperands (s.course 0) w).any (fun o => o.fits && (s.course 0).arr.allOpen (slotMask o.slot o.t) &&
      (s.slice 0 o.iscale 16).any fun a => a % 16 == 0) = true := by decide
theorem witness_passColumns :
    let c := (regs [(1, 16)] [(1, sl)]).course 0
    (passOperands c (field 1 5)).isSome = true ∧ (passOperands c (field 1 40 ||| field 4 37 ||| field 1 5)).isSome = true ∧
    (passOperands c (field 2 40 ||| field 2 35 ||| field 1 5)).isSome = true ∧
    passOperands c (field 3 40 ||| field 1 5) = none ∧ passOperands c (field 31 26 ||| field 1 40 ||| field 4 37 ||| field 1 24 ||| field 1 5) = none := by
  decide
theorem witness_msnTile :
    issuesB running (field 31 32) [(20, 0)] false = true ∧ fld (field 31 32) 41 37 + (fld (field 31 32) 36 32 + 1) = 32 ∧
    (running.course 0).arr.progOpen = 0 := by decide
theorem witness_tblBuild :
    let s := regs [(1, 16)] [(0, sl)]
    (List.range 57).any (fun lo => issuesB s (field 1 lo) [(6, 0)] false && (buildOperands (s.course 0) (field 1 lo)).any fun o =>
      decide (o.drun + o.count ≤ 64) && (s.buildSource 0 o).isSome) = true := by decide
theorem witness_drains :
    let s := regs [] [(0, sl)]
    issuesB s 0 [(4, 0)] false = true ∧ outFmtOf (fld 0 31 29) = some .fp32 ∧ fld 0 28 27 = 0 ∧ fld 0 9 5 = 0 ∧
    (s.course 0).arr.allOpen (slotMask (fld 0 41 37) 1) = true ∧
    (s.slice 0 sl ((⟨0, 1, false, .fp32, false, false, 0, sl, 0, 0⟩ : DrainOp).extent 8)).isSome = true ∧
    issuesB s 0 [(31, 19), (9, 0)] false = true ∧
    (s.slice 0 sl ((⟨0, 1, true, .fp32, false, false, 0, sl, 0, 0⟩ : DrainOp).extent 8)).isSome = true := by decide
theorem witness_drawn :
    let c := (runs fun x => { x with bindings := [⟨7, false, 1, 2, 0⟩] }).course 0
    (drawn c true 7 512).isSome = true ∧ (drawn c false 7 512).isSome = true ∧ drawn c true 8 512 = none := by decide
theorem witness_streamInstructions :
    let s := regs [(1, 2047)] [(0, 64)]
    let w := field 1 37
    issuesB s w [(31, 0)] false = true ∧ issuesB s w [(32, 0)] false = true ∧ issuesB s w [(36, 0)] true = true ∧
    issuesB s w [(27, 0)] true = true ∧ ((s.course 0).rs (fldS w 37)).toNat = 2047 ∧ s.physOf 0 ((s.course 0).ra (fldA w 33)).toNat = some 64 := by
  decide
theorem witness_vectorElements :
    let s := regs [(1, 16)] [(0, sl)]
    let w := field 1 21
    issuesB s w [(29, 26), (20, 0)] false = true ∧ issuesB s w [(20, 0)] false = true ∧ (s.opnd 0 sl 64 4).isSome = true ∧
    issuesB s (field 1 31 ||| w) [(27, 26), (15, 0)] false = true ∧ outFmtOf (fld (field 1 31) 33 31) = some .bf16 := by decide
theorem witness_vectorSums :
    let s := regs [(1, 16), (2, 0x100000000), (3, 0x100000000 * 32 + 16)] [(0, sl)]
    issuesB s (field 1 29 ||| field 2 24) [(22, 0)] false = true ∧ (s.opnd 0 sl 64 4).isSome = true ∧
    issuesB s (field 11 30 ||| field 1 25) [(24, 0)] false = true ∧
    (let w := field 3 29 ||| field 1 21
     issuesB s w [(1, 0)] false = true ∧ outFmtOf (fld w 19 17) = some .fp32 ∧ fld w 28 21 = 1 ∧ (s.opnd 0 sl (16 + 16 * 32) 16).isSome = true) := by
  decide
theorem witness_quantizers :
    let s := regs [(1, 1), (2, 0x100000000 * 128 + 16), (3, 512)] [(0, sl)]
    (issuesB s (field 1 19) [(13, 0)] false = true ∧ (s.opnd 0 sl 256 4).isSome = true ∧ (s.opnd 0 sl 280 8).isSome = true) ∧
    (issuesB s (field 2 19 ||| field 3 14) [(8, 0)] false = true ∧ idxFmtOf (fld (field 2 19 ||| field 3 14) 29 27) = some .b1 ∧
      (s.opnd 0 sl (15 * 512 + 4 * 128) 4).isSome = true ∧ (s.opnd 0 sl (1 * 1 * 2 * 128) 128).isSome = true) := by decide
theorem witness_reductionInstructions :
    let s := regs [(1, 1)] [(0, sl), (1, 64)]
    issuesB s (field 1 33) [(27, 0)] false = true ∧ (s.slice 0 sl 280).isSome = true ∧ s.physOf 0 0 = some 0 ∧
    issuesB s (field 1 29 ||| field 1 34) [(27, 0)] false = true ∧
    issuesB s (field 1 33 ||| field 1 38) [(30, 0)] true = true ∧ s.physOf 0 64 = some 64 := by decide
theorem witness_updateInstructions :
    issuesB running (field 1 30) [(29, 0)] true = true ∧ BitVec.ofNat 8 (fld (field 1 30) 37 30) ≠ 0 ∧ running.maskOut 0 1 = false := by
  decide
theorem witness_arrayFaults :
    let s := regs [(1, 16)] [(1, sl)]
    passOperands (running.course 0) (field 3 40) = none ∧
    (passOperands (running.course 0 |>.ws 1 16) (field 1 5)).any (fun o => o.fits && !(running.course 0).arr.allOpen (slotMask o.slot o.t)) = true ∧
    (passOperands (s.course 0) (field 1 5)).any (fun o => o.fits && (s.course 0).arr.allOpen (slotMask o.slot o.t) &&
      (s.slice 0 o.iscale 16).isNone) = true ∧
    32 < fld (field 1 37 ||| field 31 32) 41 37 + (fld (field 1 37 ||| field 31 32) 36 32 + 1) ∧
    (s.course 0).arr.progOpen &&& slotMask 0 1 ≠ 0 ∧ buildOperands (running.course 0) 0 = none ∧
    outFmtOf (fld (field 7 29) 31 29) = none ∧ (running.course 0).arr.allOpen (slotMask 0 1) = false := by decide
theorem witness_fwuMm :
    let s := regs [(1, 0x000100010001), (2, 0x0001000100010001 * 4)] [(0, sl)]
    let w := field 1 19 ||| field 2 14
    issuesB s w [(13, 0)] false = true ∧ (s.course 0).mmDims w = true ∧
    fld w 51 44 = 0 ∧ ((s.mmAddrs 0 ((s.course 0).mmOf w)).map (·.2)).all Option.isSome = true := by decide
theorem witness_parity :
    let s := (regs [(1, 0x100000000 * 128 + 128), (2, sl + 1024)] [(0, sl), (1, sl + 4096)]).modCourse 0 fun c =>
      { c with arr := { c.arr with progOpen := 0 } }
    let w := field 1 32 ||| field 1 24 ||| field 1 16 ||| field 1 11 ||| field 2 6
    issuesB s w [(5, 0)] true = true ∧ (s.course 0).arr.progOpen = 0 ∧
    (parityOperands (s.course 0) w).any (fun o => (s.parityAddresses 0 o).toOption.isSome) = true := by decide
theorem witness_passCapacity :
    (passOperands ((regs [(1, 1040)] []).course 0) (field 1 5)).any (fun o => !o.fits) = true ∧
    (passOperands ((regs [(1, 1024)] []).course 0) (field 1 5)).any (fun o => o.fits) = true := by decide

/-! ### Queues, waits and the commands of a controller -/

theorem witness_stalledEnters :
    let e := entry 0 (.strResume 0)
    let s := (queued 2 (List.replicate 63 e) []).modCourse 0 fun c => { c with stalled := some (2, e) }
    let t := (queued 2 (List.replicate 64 e) []).modCourse 0 fun c => { c with stalled := some (2, e) }
    (s.course 0).stalled = some (2, e) ∧ ((s.course 0).queue 2).entries.length < 64 ∧ (s.course 0).stopReq = false ∧
    (s.course 0).wait = none ∧ ((t.course 0).queue 2).entries.length = 64 := by decide
theorem witness_instructionsComplete :
    let i : Started := { begun (entry 0 (.strResume 0)) with done := true, credits := 5, src := .pool }
    ((queued 2 [] [i]).course 0 |>.queue 2).nextDone = some i ∧ i.orphan = false ∧ i.already = false ∧ i.e.ntf = true ∧
    ((queued 2 [] [i]).course 0).watchesUsed < 64 := by decide
theorem witness_recordsWritten :
    let s := ((runs fun c => { c with records := [⟨0, 1, 0, 0, 0, 0⟩] }).setReg (cr 0 0x58) 1).setReg (cr 0 0x60) 63
    (s.course 0).records = ⟨0, 1, 0, 0, 0, 0⟩ :: [] ∧ (s.reg (cr 0 0x58)).getLsbD 0 = true ∧
    (s.reg (cr 0 0x60) - s.reg (cr 0 0x5C)).toNat ≠ 64 ∧ (s.course 0).selfTests = [] ∧ s.physOf 0 (16 * 63) = some 1008 ∧
    s.nearOk 1008 16 = true ∧ ((s.setReg (cr 0 0x60) 64).reg (cr 0 0x60) - s.reg (cr 0 0x5C)).toNat = 64 := by decide
theorem witness_waitsExpire :
    let s (ws : List Watch) (k : WaitKind) : State := runs fun c => { c with wait := some ⟨2, k⟩, watches := ws }
    let one : Watch := ⟨0, .tally 1 1⟩
    ((((s (List.replicate 63 one) (.tally 0 1)).settle 0).course 0).wait = some ⟨2, .tally 0 1⟩ ∧
      (((s (List.replicate 63 one) (.tally 0 1)).settle 0).course 0).watchesUsed = 63) ∧
    (((s (List.replicate 64 one) (.tally 0 1)).settle 0).course 0).watchesUsed = 64 ∧
    (((s [] (.leave 48 0 0)).settle 0).course 0).wait = some ⟨2, .leave 48 0 0⟩ ∧
    ((((queued 3 [entry 0 (.queueWait 0 1 false)] []).settle 0).course 0).queue 3).halt = .no ∧
    ((((queued 3 [entry 0 (.queueWait 0 1 false)] []).settle 0).course 0).queue 3).entries = [entry 0 (.queueWait 0 1 false)] := by
  decide

/-- The plinth controller reaches a register. -/
theorem reaches_of {s : State} {o : Nat} (h : (agentOff .plinth o).any (fun off => decide (s.regReach .plinth off = .at o)) = true) :
    Reaches s .plinth o := by
  cases e : agentOff .plinth o with
  | none => simp [e] at h
  | some off => exact ⟨off, e, by simpa [e] using h⟩

theorem witness_controllerCommands :
    Reaches State.reset .plinth (cr 0 0) ∧ Reaches State.reset .plinth (cr 0 0xA0) ∧ Reaches State.reset .plinth (cr 0 0xC20) ∧
    Reaches State.reset .plinth (cr 0 (0xC00 + 4 * 7)) ∧ Reaches State.reset .plinth (cr 0 0x58) ∧
    Reaches State.reset .plinth (cr 31 0x380C) :=
  ⟨reaches_of (by decide), reaches_of (by decide), reaches_of (by decide), reaches_of (by decide), reaches_of (by decide),
    reaches_of (by decide)⟩
theorem witness_controllerStates :
    (State.reset.course 0).ctl = .halted ∧ ((runs fun c => { c with ctl := .faulted }).course 0).ctl = .faulted ∧
    ((runs fun c => { c with ctl := .fenced }).course 0).ctl = .fenced ∧ (running.course 0).stalled = none ∧
    ((runs fun c => { c with wait := some ⟨1, .lock 64 64 0⟩ }).course 0).wait = some ⟨1, .lock 64 64 0⟩ ∧
    running.reachable ⟨.course 0, .mem (stackOf 64), .lockWithdraw 64 0 0 0⟩ = true := by decide
theorem witness_queueCommands :
    let y (h : QHalt) : State := (queued 3 [entry 0 (.strResume 0)] []).modCourse 0 fun c => c.modQueue 3 fun x => { x with halt := h }
    ((y .qwait).course 0).ctl ≠ .fenced ∧ (((y .qwait).course 0).queue 3).halt ≠ .no ∧
    ((((y .qwait).course 0).queue 3).entries.head?.map (·.op)) = some (.strResume 0) ∧ (8 : BitVec 8).getLsbD 3 = true := by decide
theorem witness_cqEnable :
    let base := (State.reset.reg64 (cr 0 0x50)).toNat
    (base % (16 * 2 ^ 16) = 0 ∧ State.reset.physOf 0 base = some 0 ∧ State.reset.nearOk 0 (16 * 2 ^ 16) = true) ∧
    ¬(44 : Word).toNat / 4 % 16 ≤ 10 := by decide
theorem witness_lockstep :
    (State.reset.course 0).ctrlFailed = false ∧ (State.reset.course 0).ctl ≠ .fenced ∧
    (State.reset.course (partner 0)).adopted = false ∧
    ((State.reset.modCourse 1 fun c => { c with adopting := true }).course (partner 0)).adopting = true := by decide

/-! ### The arrays, the table builder, the drain and the fine-work units -/

/-- A pass of one block of one-bit indices over run 0, and the build of that run. -/
def pass : PassOp := ⟨.table, .b1, .bs8, 0, 0, 0, 1, false, 0, 16, sl, false⟩
def build : BuildOp := ⟨.subset, .bs8, false, 0, 0, 1, 16, 0, sl, 0, 0, 0⟩
def drain : DrainOp := ⟨0, 1, false, .fp32, false, false, 0, sl, 0, 0⟩
def cells : Tile := ⟨0, 0, Vector.replicate 256 Cell.zero, false⟩

/-- An instruction of course 0 has started in a queue, and its arrays have changed. -/
def works (q : QueueId) (i : Started) (f : ArrayState → ArrayState) : State :=
  (queued q [] [i]).modCourse 0 fun c => { c with arr := f c.arr }

theorem witness_cells : Cell.zero.res = res7 Cell.zero.a.toInt ∧ (0 : Nat) = res7 0 := by decide
theorem witness_instructionsStart :
    let e := entry 0 (.msnPass pass)
    let s := queued 0 [e] []
    s.courseRuns 0 = true ∧ (s.course 0).frozen 0 = false ∧ ((s.course 0).queue 0).halt = .no ∧ s.accepts 0 e = true ∧ (s.course 0).arr.repoint = .none ∧
    (s.course 0).need e.op ≠ 0 ∧ ((s.course 0).queue 0).granted = none ∧ (s.course 0).hold = none ∧
    ((s.course 0).queue 0).waitStamp = none ∧ s.dieCredits (courseCDie 0) < (s.course 0).need e.op + 1 + s.dieCredits (courseCDie 0) ∧
    ((s.setReg (pr 0x1010) 0).dieCredits (courseCDie 0) < (s.course 0).need e.op) ∧
    (queued 5 [entry 0 (.drain drain)] []).accepts 0 (entry 0 (.drain drain)) = true ∧
    (queued 3 [entry 0 (.vecEl .add sl sl sl 0 1)] []).accepts 0 (entry 0 (.vecEl .add sl sl sl 0 1)) = true := by decide
theorem witness_fwuAccepts : running.unitOf (courseCDie 0) = some 0 ∧ (running.cdie 0).fwuHeld.length < 16 ∧
    running.dieRuns (cdieDie 0) = true ∧ (running.cdie 0).fwuRun = none ∧ (running.course 0).frozen 4 = false := by decide
theorem witness_passEnters :
    let i := begun (entry 1 (.msnPass pass))
    let s := works 0 i fun a => { a with runs := [(0, ⟨some ⟨0, .signed, 0⟩, []⟩)] }
    let t := s.modCourse 0 fun c => { c with idx := { c.idx with bytes := List.replicate 2048 (0, 0) } }
    t.courseRuns 0 = true ∧ (t.course 0).entering = some (i, pass) ∧ i.lead = false ∧ i.killed = false ∧
    (t.course 0).slotsFree 1 pass = true ∧ (t.course 0).arr.kindOk pass 1 = true ∧ (t.course 0).runsReady 1 pass 0 = true ∧
    ((t.course 0).rowsAt 1 0 pass.rowsPer).isSome = true ∧ (List.range 8).all (fun j => ((t.course 0).arr.tokens j).isEmpty) = true ∧
    ((works 0 i id).course 0).entering = some (i, pass) ∧ ((works 0 i id).course 0).arr.kindOk pass 1 = false ∧
    ((works 0 i id).course 0).findStarted 0 1 = some i := by decide
theorem witness_accumulates :
    let tok : Token := .step 1 pass 0 0 [0] [0] false false
    let y : Cycle := ⟨pass, 0, 0, [0], [0]⟩
    let s := works 0 (begun (entry 1 (.msnPass pass))) fun a => { a with fifo := a.fifo.set 7 [tok], active := [(32 * 7, cells)] }
    (s.course 0).arr.tokens 7 = tok :: [] ∧ 7 < (s.course 0).arr.logical ∧ (s.course 0).drainAhead 7 y.slot 1 = false ∧
    (s.course 0).arr.chainAhead 7 = true ∧ s.courseRuns 0 = true ∧
    (SMap.find (s.course 0).arr.active (32 * 7 + y.slot)).isSome = true := ⟨rfl, by decide⟩
theorem witness_earlyReturn :
    let i : Started := { begun (entry 1 (.msnPass pass)) with prog := pass.blocks, credits := 12, src := .pool }
    let s := works 0 i id
    (s.course 0).arr.logical + 4 ≤ i.credits ∧ (s.course 0).restSkips i pass = true ∧ (s.course 0).arr.unskippedGone 1 = true := by decide
theorem witness_repoint :
    let r (x : Repoint) : State := runs fun c => { c with arr := { c.arr with repoint := x } }
    (r (.stopped 8)).courseRuns 0 = true ∧ (∀ x ∈ [(0, (0x0104 : BitVec 16)), (7, 0x0106)], x.1 < (running.course 0).arr.logical) ∧
    (running.course 0).ctl ≠ .fenced ∧ (running.course 0).arr.mapped = (running.course 0).arr.healthy ∧
    0 < (running.course 0).arr.logical ∧ ((r (.stopped 8)).course 0).arr.repoint = .stopped 8 ∧
    ((r (.replaying 8)).course 0).arr.repoint = .replaying 8 ∧ ((r (.replaying 8)).course 0).replayDone = true ∧
    (SMap.find ((runs fun c => { c with arr := { c.arr with active := [(224, cells)] } }).course 0).arr.active (32 * 7 + 0)).isSome = true := by
  decide
theorem witness_builds :
    let i := begun (entry 1 (.tblBuild build))
    let s := works 1 i fun a => { a with runs := [(0, ⟨none, [⟨1, .subset, 0⟩]⟩)] }
    s.courseRuns 0 = true ∧ (s.course 0).building = some (i, build) ∧ (s.course 0).mayWrite i build = true ∧ (s.course 0).arr.half0 = true ∧
    build.expand = false ∧ build.drun + i.prog < 64 := by decide
theorem witness_drains2 :
    let i := begun (entry 2 (.drain drain))
    let s := works 5 i fun a => { a with active := [(0, cells)] }
    let t := works 5 i fun a => { a with shadow := [(0, ⟨cells, 2, false⟩)] }
    s.courseRuns 0 = true ∧ ((s.course 0).nextSwap 0 0 = some i ∧ (SMap.find (s.course 0).arr.shadow 0).isNone = true ∧ (s.course 0).slotBusy 0 0 2 = false ∧
      (SMap.find (s.course 0).arr.active 0).isSome = true) ∧
    ((t.course 0).draining 0).map (fun x => (x.1, x.2.1, x.2.2.1)) = some (i, drain, 0) ∧ (SMap.find (t.course 0).arr.shadow 0).any (fun x => x.drain == 2 && !x.lost) = true ∧
    drain.paired = false ∧ ({ drain with ofmt := .bs8, count := 2 } : DrainOp).paired = true ∧
    ((works 5 i fun a => { a with drained := (List.range 8).map fun j => (2, j) }).course 0).arr.drained.length = 8 := by decide
theorem witness_fwuRuns :
    let o : MmOp := ⟨false, false, 16, 16, 16, sl, 32, sl + 1024, 32, 0, 0, sl + 4096, 64⟩
    let i := begun (entry 1 (.fwuMm o))
    let s := (queued 4 [] [i]).modCDie 0 fun x => { x with fwuRun := some ⟨0, 1, 0, 0, 0, 0, some (48, .pool)⟩ }
    s.dieRuns (cdieDie 0) = true ∧ (s.cdie 0).fwuOk = true ∧ (s.cdie (rowPartner 0)).fwuHeld = [] ∧
    (s.cdie 0).fwuRun = some ⟨0, 1, 0, 0, 0, 0, some (48, .pool)⟩ ∧ (s.course 0).findStarted 4 1 = some i ∧ 4 * o.n ≤ o.ldd := by decide

/-! ### Streams -/

/-- A descriptor of a LOAD of 4096 near-memory bytes, in elements of 64. -/
def load : Desc := ⟨64, .load, 6, false, true, false, false, false, 0, 0, 0, 0, 0, 3, true, false, 0, 0, 0, [64], [64]⟩
/-- A stream of that descriptor. -/
def loading : Stream := { Stream.free with st := .active, desc := some load, emit := some load }
/-- Course 0 has stream 7. -/
def streaming (x : Stream) : State := running.modStream 0 7 fun _ => x

theorem witness_streamRegisters :
    Reaches State.reset .plinth (cr 0 0x201C) ∧ Reaches State.reset .plinth (cr 0 0x2018) ∧ Reaches State.reset .plinth (cr 0 0x2010) ∧
    Reaches State.reset .plinth (cr 0 0x2014) ∧ Reaches State.reset .plinth (cr 0 0x2004) ∧ Reaches State.reset .plinth (cr 0 0x2008) :=
  ⟨reaches_of (by decide), reaches_of (by decide), reaches_of (by decide), reaches_of (by decide), reaches_of (by decide),
    reaches_of (by decide)⟩
theorem witness_streamCommands :
    ((streaming loading).course 0).stream 7 = loading ∧ loading.st ≠ .free ∧ loading.desc = some load ∧
    ({ loading with st := .halted } : Stream).st = .halted ∧ load.walk = false ∧ load.kind.isFeed = false ∧
    ({ load with kind := .feedIdx } : Desc).kind.isFeed = true ∧ loading.next 0 = some (64, sl, 4096) ∧
    ((streaming loading).resolve 0 load 64 64).2 = .ok 64 := by
  refine ⟨by decide, by decide, by decide, by decide, by decide, by decide, by decide, by decide, rfl⟩
theorem witness_streamSettings :
    State.reset.quiesced 0 = true ∧ State.reset.parted = false ∧ (0xE11 : Word).toNat % 16 = 1 ∧ (0xE11 : Word).toNat / 16 ^ 2 % 16 = 14 ∧
    (0x20080200 : Word).toNat % 1024 = 512 := by decide
theorem witness_transferForm :
    let s := streaming loading
    (s.course 0).stream 7 = loading ∧ (s.course 0).str.frozenDl = false ∧ loading.spent = false ∧ load.phys = true ∧
    (s.course 0).outstanding (shareOf 0 load 64) < s.window 0 (shareOf 0 load 64) ∧ (64 : Nat) < hostBase ∧ (s.course 0).v1 = false := by
  decide
theorem witness_transferError : (running.resolve 0 load 0x8000000000 64).2 = .error .address := rfl
theorem witness_transferComplete :
    let tr : Transfer := ⟨64, sl, 64, 0, false, false, []⟩
    let x : Stream := { loading with inflight := [tr], formed := 64 }
    ((streaming x).course 0).stream 7 = x ∧ x.inflight = tr :: [] ∧ tr.far + tr.len ≤ nearEnd ∧
    (streaming x).nearOk tr.far tr.len = true ∧ inSlice 0 tr.near tr.len = true ∧ (streaming x).dirty tr.far tr.len = false := by decide
theorem witness_oldest :
    let m : Msg := ⟨.course 1, .course 0, .ringCredit 7 3 64⟩
    let o : Msg := ⟨.course 1, .course 2, .ringCredit 7 3 64⟩
    Oldest { State.reset with msgs := [o, m] } m [o] := ⟨[⟨.course 1, .course 2, .ringCredit 7 3 64⟩], [], rfl, rfl, by decide⟩
theorem witness_stalls :
    let ring : Desc := { load with nring := true, nrsize := 12, nlink := BitVec.ofNat 16 (pairOf 1 9) }
    let x : Stream := { loading with desc := some ring, emit := some ring }
    let s := (streaming x).modCourse 0 fun c => { c with str := { c.str with probes := [⟨7, []⟩] } }
    let p := (works 0 (begun (entry 1 (.msnPass pass))) id)
    let b := (works 1 (begun (entry 1 (.tblBuild { build with expand := true }))) id)
    s.stallOn 0 = true ∧ ((s.course 0).stream 7).creditWait = true ∧ (p.course 0).rowDemand = some (1, 0) ∧
    (b.course 0).buildDemand = some (1, 0) ∧ (s.setReg (cr 0 0x200C) 0).stallOn 0 = false ∧
    (s.course 0).str.probes = ⟨7, []⟩ :: [] ∧ (s.streamOf (0, 7)).owner = some (1, 9) ∧ (running.streamOf (0, 7)).owner = none := by decide
theorem witness_expanders :
    let raw : FeedPass := ⟨7, false, [⟨5, false, 0⟩], false, false, 0, none⟩
    let cutShort : FeedPass := ⟨7, true, [⟨5, false, 0⟩], true, false, 0, none⟩
    raw.step = .raw 1 0 0 ∧ cutShort.step = .bad 1 1 0x0707 ∧ ({ raw with inp := [], ended := true } : FeedPass).step = .finish ∧
    ({ raw with inp := [] } : FeedPass).step = .wait ∧
    ((running.modCourse 0 fun c => { c with idx := ⟨[], [raw]⟩ }).course 0).idx.passes = raw :: [] ∧
    (running.modCourse 0 fun c => { c with idx := ⟨[], [raw]⟩ }).courseRuns 0 = true ∧ (running.course 0).parityRuns = false :=
  ⟨rfl, rfl, rfl, rfl, rfl, by decide, by decide⟩

/-! ### Near memory, locks and far memory -/

theorem witness_lines :
    running.lineBacked 7 1073741823 = true ∧ running.poisoned (7 * 0x1000000000 + 64 * 1073741823) = false ∧
    ((running.setPoison 64 true).poisoned 64 = true) ∧ (State.reset.reg (pr 0)).toNat % 16 < 9 ∧
    9 ≤ ((running.setReg (pr 0) 0x89E).reg (pr 0)).toNat % 16 ∧
    running.dieRuns (stackDie 7) = true ∧ running.holdsLine 0 0 0 = true ∧ (running.reg (mr 0 0)).getLsbD 0 = false ∧
    ((running.memc 0).corrected.filter fun e => e.1 == 0).length < (running.reg (mr 0 0xC)).toNat := by decide
theorem witness_retire :
    Reaches State.reset .plinth (mr 7 4) ∧
    ((State.reset.modMem 7 fun m => { m with cur := some (31, false) }).memc 7).cur = some (31, false) ∧
    ((State.reset.modMem 7 fun m => { m with cur := some (31, true), failing := [3] }).memc 7).failing = 3 :: [] :=
  ⟨reaches_of (by decide), by decide, by decide⟩
theorem witness_locksTable :
    let r : LockReq := ⟨0, 64, 1, 0, 5, false⟩
    let e (t : Option TornCause) : LockEntry := ⟨0, 64, 2, 0, 5, t⟩
    let m (l : SMap (Option LockEntry)) : MemState := { MemState.reset with locks := l }
    (m []).lockTest [] r = .grant ∧ (m [(1023, some (e none))]).lockTest [] r = .wait ∧
    (m [(1023, some (e (some .lease)))]).lockTest [] r = .broken ∧
    SMap.get (m [(1023, some (e none))]).locks 1023 none = some (e none) := by decide
theorem witness_lockCommands :
    Reaches State.reset .plinth (mr 0 0x30) ∧ (State.reset.reg (mr 0 0x10)).toNat * 1024 ≤ 2 ^ 40 ∧
    running.reachable ⟨.course 0, .mem 7, .renewal 0⟩ = true :=
  ⟨reaches_of (by decide), by decide, by decide⟩

/-- Link 7 is up at x16, with 1 MiB behind it. -/
def linked : State := (State.reset.setReg64 (fr 7 8) 0x100000).setReg (fr 7 0) 0xC3

theorem witness_farAccess :
    let n := (farBase + 7 * 0x8000000000) / 64
    linked.farOk (64 * n) 64 = true ∧ linked.farUp 7 = true ∧ linked.farMode 7 (64 * n) = .plain ∧
    SMap.get (linked.farc 7).poison n false = false ∧
    SMap.get ((linked.modFar 7 fun f => { f with poison := [(n, true)] }).farc 7).poison n false = true := by decide
theorem witness_farLinks :
    (linked.farc 7).bad = 0 ∧ linked.linkWidth 7 = 16 ∧ State.reset.farUp 7 = false ∧
    ((linked.modFar 7 fun f => { f with bad := 1 }).farc 7).bad.getLsbD 15 = false := by decide
theorem witness_farRegisters :
    Reaches State.reset .plinth (fr 7 0x148) ∧ Reaches State.reset .plinth (fr 7 (0x210 + 0x20 * 15)) ∧
    linked.farConflict 7 15 = false ∧ State.reset.unwrapKey (State.reset.regBytes (fr 7 0x100) 18) = none :=
  ⟨reaches_of (by decide), reaches_of (by decide), by decide, rfl⟩

/-! ### Reductions and the parameter update -/

/-- A request of course 0's instruction 1 to add a block at an address of stack 0. -/
def request (src a : Nat) : RaReq := ⟨src, a, leBytes 280 5, false, .instr 0 1⟩
/-- Stack 0's adder with requests that wait and requests on its ports. -/
def adder (wait : List (RaReq × Nat × Nat)) (ports : List RaReq) : State :=
  running.modMem 0 fun m => { m with raQueue := wait, raPorts := ports }

theorem witness_blocksAdd :
    let b : Rab := ⟨5, false, 1, 0, 0, List.replicate 64 (2 ^ 47 - 2)⟩
    let w (e : Nat) : Bw := ⟨e, 0, 0, List.replicate 64 (some 1)⟩
    (w 0xFF).exp = 0xFF ∧ (1 ≤ b.count ∧ (w 6).exp ≠ b.exp) ∧ ¬((w 5).exp = 0xFF ∨ (1 ≤ b.count ∧ (w 5).exp ≠ b.exp)) ∧
    (w 5).vals.length = 64 ∧ b.poison.testBit 63 = false ∧ (w 5).vals.getD 63 none = some 1 ∧ b.count < 65536 ∧
    b.lanes.getD 63 0 + 1 < 2 ^ 47 := by decide
theorem witness_raRequests :
    let one (a : Nat) : State := { running with msgs := [⟨.course 0, .mem 0, .raReq (request 0 a)⟩] }
    Oldest (one 0) ⟨.course 0, .mem 0, .raReq (request 0 0)⟩ [] ∧ (one 0).nearOk 0 416 = true ∧ byteAt (request 0 0).blk 1 = 0 ∧
    (one 0).tornAt 0 416 = false ∧ (one 0).anyPoison 0 416 = false ∧ Oldest (one 1) ⟨.course 0, .mem 0, .raReq (request 0 1)⟩ [] ∧
    1 % 32 ≠ 0 ∧ byteAt ({ request 0 0 with blk := leBytes 280 (256 * 3) } : RaReq).blk 1 = 3 ∧
    ((one 0).setPoison 384 true).anyPoison 0 416 = true ∧ running.reachable ⟨.mem 0, .course 0, .raOutcome 0 1 0x0807⟩ = true :=
  ⟨⟨[], [], rfl, rfl, by decide⟩, by decide, by decide, by decide, by decide, ⟨[], [], rfl, rfl, by decide⟩, by decide, by decide,
    by decide, by decide⟩
theorem witness_raPhase :
    let r := request 0 0
    let q := request 15 416
    let s := adder [(r, 1, 0), (q, 2, 0)] [r, r, r]
    s.dieRuns (stackDie 0) = true ∧ (s.memc 0).arb.latched = none ∧ (s.memc 0).arb.kept = [] ∧ r.src < 16 ∧ q.src < 16 ∧
    (∀ i j : Fin 16, mapNum (s.memc 0).arb.force i.val = mapNum (s.memc 0).arb.force j.val → i = j) ∧
    mapNum (s.memc 0).arb.force r.src < mapNum (s.memc 0).arb.force q.src ∧ (s.memc 0).raPorts.length = 3 ∧
    ((adder [(r, 1, 0)] [r, r, r, r]).memc 0).raPorts.length = 4 := by decide
theorem witness_raAdd :
    let s := adder [] [request 0 0, request 1 416, request 2 832, request 3 0]
    (s.memc 0).raPorts[0]? = some (request 0 0) ∧ (s.memc 0).raPorts[3]? = some (request 3 0) ∧
    (∀ q ∈ (s.memc 0).raPorts.take 0, q.addr ≠ 0) ∧ (∃ q ∈ (s.memc 0).raPorts.take 3, q.addr = 0) ∧
    running.reachable ⟨.mem 0, .course 0, .raOutcome 0 1 0⟩ = true ∧ (s.reg (mr 0 0x68)).getLsbD 0 = false :=
  ⟨by decide, by decide, by decide, ⟨request 0 0, by decide, rfl⟩, by decide, by decide⟩
theorem witness_maxima : Reaches State.reset .plinth (cr 31 0x300C) ∧ Reaches State.reset .plinth (mr 7 0x2008) :=
  ⟨reaches_of (by decide), reaches_of (by decide)⟩

/-- Thirty blocks of a red.accum of course 0. -/
def accum : RedJob := ⟨1, .accum, sl, 64, 30, false, 0, none, false, 0, 0, 0, 0, false, []⟩
/-- Course 0 has a reduction. -/
def reducing (j : RedJob) (ms : List Msg) : State :=
  { (queued 6 [] [begun (entry 1 (.redAccum sl 64 30 false))]).modCourse 0 fun c => { c with jobs := [j] } with msgs := ms }

theorem witness_transfers :
    let s := reducing accum []
    s.courseRuns 0 = true ∧ (s.course 0).jobs = accum :: [] ∧ (s.course 0).str.frozenDl = false ∧ accum.formed < accum.blocks ∧
    (s.course 0).outstanding 2 < s.window 0 2 ∧
    (List.range 29).all (fun i => s.physOf 0 (accum.dst + 416 * i) == some (accum.dst + 416 * i)) = true ∧
    s.reachable ⟨.course 0, .mem (stackOf 64), .raReq ⟨raSource 0 0, 64, s.slotBlock sl, false, .instr 0 1⟩⟩ = true ∧
    ({ accum with peer := some 3 } : RedJob).peer = some 3 := by decide
theorem witness_outcomes :
    let o (code : BitVec 16) : Msg := ⟨.mem 0, .course 0, .raOutcome 0 1 code⟩
    let last : RedJob := { accum with formed := 30, returned := 29 }
    let s (code : BitVec 16) := reducing last [o code]
    Oldest (s 0) (o 0) [] ∧ Oldest (s 0x0807) (o 0x0807) [] ∧ last.returned + 1 = last.blocks ∧ accum.returned + 1 < accum.blocks ∧
    (reducing accum [o 0x0807]).msgs = [o 0x0807] ∧ accum.refused = false ∧
    ((s 0).course 0).findStarted 6 1 = some (begun (entry 1 (.redAccum sl 64 30 false))) ∧
    Oldest { running with msgs := [⟨.mem 0, .course 0, .notice 255 true⟩] } ⟨.mem 0, .course 0, .notice 255 true⟩ [] :=
  ⟨⟨[], [], rfl, rfl, by decide⟩, ⟨[], [], rfl, rfl, by decide⟩, by decide, by decide, rfl, by decide, by decide,
    ⟨[], [], rfl, rfl, by decide⟩⟩

/-- A ring of two members and four blocks, at position 0, in its first step. -/
def ring : Ring := ⟨1, 9, 0, sl, 64, 4, 2, 0, [5, 6], 0, true, false, 0, .chunk, 0, false, [], [], 1, 1, false, false, [280]⟩
/-- Course 0 runs a ring, and a message lies at IO-N. -/
def ringing (r : Ring) (ms : List RxMsg) : State :=
  ((queued 6 [] [begun (entry 1 (.redAccum sl 64 30 false))]).modCourse 0 fun c => { c with ring := some r }).modNet 0 fun n => { n with inbox := ms }
/-- A message of ring 9 from a rank: its head, and a payload. -/
def ringMsg (mtype rank : Nat) (payload : List Byte) : RxMsg :=
  ⟨0, 0, leBytes 1 mtype ++ leBytes 1 0 ++ leBytes 2 rank ++ leBytes 4 0 ++ leBytes 8 9 ++ payload⟩

/-- The hypotheses about a ring and a message, as a test. -/
def ringB (s : State) (r : Ring) (m : RxMsg) (rank : Nat) : Bool :=
  (s.course 0).ring == some r && (List.finRange 32).all (fun h => h == 0 || (s.course h).ring.isNone) && s.inPart m.part 0 &&
    r.group == rxGroup m && r.rseq == rxTag m && rxRank m == rank

theorem ringOf_of {s : State} {r : Ring} {m : RxMsg} {n : Nat} (h : ringB s r m n = true) : RingOf s 0 r m n := by
  simp only [ringB, Bool.and_eq_true, beq_iff_eq, List.all_eq_true, List.mem_finRange, true_implies, Bool.or_eq_true,
    Option.isNone_iff_eq_none] at h
  exact ⟨h.1.1.1.1.1, fun x hx => (h.1.1.1.1.2 x).resolve_left hx, h.1.1.1.2, h.1.1.2, h.1.2, h.2⟩

theorem witness_ringSends :
    let s := ringing ring []
    s.courseRuns 0 = true ∧ s.dieRuns (ioDie 0) = true ∧ (s.course 0).outstanding 2 < s.window 0 2 ∧ (s.course 0).ring = some ring ∧ ring.wait = .chunk ∧ (s.course 0).str.frozenDl = false ∧ ring.sent < ring.size ring.sendChunk ∧
    ({ ring with gather := true, step := 0 } : Ring).sent < ({ ring with gather := true, step := 0 } : Ring).size
      ({ ring with gather := true, step := 0 } : Ring).sendChunk := by decide
theorem witness_ringReady :
    let m := ringMsg 0x03 6 (leBytes 2 1)
    let r : Ring := { ring with wait := .ready }
    RingOf (ringing r [m]) 0 r m r.next ∧ InInbox (ringing r [m]) 0 m [] 0x03 ∧ natAt m.bytes 16 2 = (r.pos + 1) % r.r ∧
    r.readySeen = false ∧ (ringing r [m]).dieRuns (ioDie 0) = true ∧ 0 < r.size r.sendChunk ∧ ({ ring with wait := .initAdds } : Ring).wait = .initAdds :=
  ⟨ringOf_of (by decide), ⟨rfl, by decide⟩, by decide, by decide, by decide, by decide, by decide⟩
theorem witness_ringPart :
    let m := ringMsg 0x04 6 (leBytes 2 0 ++ leBytes 2 1 ++ leBytes 4 2 ++ leBytes 1 2 ++ leBytes 3 0)
    RingOf (ringing ring [m]) 0 ring m ring.prev ∧ InInbox (ringing ring [m]) 0 m [] 0x04 ∧ natAt m.bytes 16 2 < ring.r - 1 ∧
    natAt m.bytes 18 2 = (ring.pos + ring.r - 1) % ring.r ∧ ring.awaits 0 = true ∧ ring.lo (ring.chunkOf 0) ≤ natAt m.bytes 20 4 ∧
    natAt m.bytes 20 4 + byteAt m.bytes 24 ≤ ring.lo (ring.chunkOf 0) + ring.size (ring.chunkOf 0) ∧
    (∀ i, i < byteAt m.bytes 24 → ((0 : Nat), natAt m.bytes 20 4 + i) ∉ ring.got) :=
  ⟨ringOf_of (by decide), ⟨rfl, by decide⟩, by decide, by decide, by decide, by decide, by decide, by intros; simp [ring]⟩
theorem witness_ringCopy :
    let m := ringMsg 0x05 6 (leBytes 2 1 ++ leBytes 2 1 ++ leBytes 4 0 ++ leBytes 1 1 ++ leBytes 3 0)
    let r : Ring := { ring with gather := true }
    RingOf (ringing r [m]) 0 r m r.prev ∧ r.awaits 1 = true ∧ r.lo (r.chunkOf 1) ≤ 0 ∧
    (0 : Nat) + 1 ≤ r.lo (r.chunkOf 1) + r.size (r.chunkOf 1) ∧ r.r - 1 ≤ natAt m.bytes 16 2 ∧ byteAt m.bytes 24 = 1 ∧
    r.sent < r.size r.sendChunk ∧ (ringing r [m]).physOf 0 (r.dst + 416 * 0) = some 64 ∧ (ringing r [m]).copyCheck 64 = 0 :=
  ⟨ringOf_of (by decide), by decide⟩
theorem witness_ringOutcome :
    let m := ringMsg 0x02 6 (leBytes 1 4 ++ leBytes 1 1 ++ leBytes 6 0 ++ leBytes 2 0)
    let a := ringMsg 0x02 6 (leBytes 1 1 ++ leBytes 1 1 ++ leBytes 6 0 ++ leBytes 2 0)
    RingOf (ringing ring [m]) 0 ring m ring.next ∧ byteAt m.bytes 16 = 0x04 ∧ byteAt m.bytes 17 = 1 ∧ natAt m.bytes 24 2 = 0 ∧
    InInbox (ringing ring [a]) 0 a [] 0x02 ∧ byteAt a.bytes 16 = 0x01 :=
  ⟨ringOf_of (by decide), by decide, by decide, by decide, ⟨rfl, by decide⟩, by decide⟩
theorem witness_noRing : (∀ g, (running.course g).ring = none) ∧ running.parted = false := by decide
theorem witness_raBlocks :
    let m := ringMsg 0x01 6 (leBytes 6 64 ++ leBytes 2 0 ++ leBytes 4 2 ++ leBytes 4 0 ++ leBytes 1 2 ++ leBytes 3 0)
    let s := ringing ring [m]
    InInbox s 0 m [] 0x01 ∧ (s.net 0).totals = [] ∧ natAt m.bytes 16 6 = 64 ∧ byteAt m.bytes 32 = 2 ∧
    (List.range 2).all (fun i => s.physOf 0 (64 + 416 * i) == some (64 + 416 * i)) = true ∧
    s.reachable ⟨.net 0, .mem 0, .raReq ⟨11, 64, [], false, .net 0 0 0⟩⟩ = true :=
  ⟨⟨rfl, by decide⟩, by decide, by decide, by decide, by decide, by decide⟩
theorem witness_ringExpires :
    let r : Ring := { ring with sent := 2 }
    ((ringing r []).course 0).ring = some r ∧ r.received = false ∧ ({ ring with got := [(0, 2), (0, 3)], sent := 2 } : Ring).received = true ∧ r.wait = .chunk ∧ r.size r.sendChunk ≤ r.sent ∧
    ((ringing r []).course 0).findStarted 6 r.serial = some (begun (entry 1 (.redAccum sl 64 30 false))) := by decide

/-- A record of a step with flags, and of a member. -/
def record (flags : Nat) : List Byte := leBytes 48 (2 ^ 64) ++ leBytes 2 0 ++ leBytes 1 flags ++ leBytes 13 0

theorem witness_decisions :
    let a := record 0
    (recFlag a 4 = false ∧ recFlag (record 16) 4 = true) ∧ (recFlag a 1 = false ∧ recFlag a 2 = false) ∧
    (recFlag (record 2) 1 = true ∧ recFlag (record 2) 4 = false) ∧ recParams (record 32) ≠ recParams a ∧
    recParams ([a, a].headD []) = recParams a ∧ (f32 0).isFinite = true ∧ recFlag a 5 = false := by decide

/-- A pass 1 of course 0 over the slices of stacks 0 and 1, alone, with one partial on its way. -/
def updating (stack : Stack) (arrived : List UpdPartial) (exch : Bool) (members : Nat) : UpdRun :=
  ⟨0, 1, [0, 1], leBytes 8 1 ++ leBytes 26 0 ++ leBytes 2 members ++ leBytes 3 0 ++ leBytes 1 1 ++ leBytes 88 0, false,
    if exch then [] else [⟨stack, 0, 0, 0, false, false, 0, false⟩], arrived, exch⟩
/-- The pass runs. -/
def upd (r : UpdRun) : State := { queued 7 [] [begun (entry 1 (.updPass false sl 3))] with upds := [r] }
/-- Group 1 has two members, of which this is rank 0. -/
def grouped (s : State) : State := (s.store 8 (leBytes 8 0x400)).store 0x400 (leBytes 2 2)

theorem witness_partials :
    let r := updating 1 [⟨0, 0, 0, 0, false, false, 0, false⟩] false 1
    r.sent = ⟨1, 0, 0, 0, false, false, 0, false⟩ :: [] ∧ hopsUp (upd r) (route (stackDie 1).val (stackDie r.key).val) = true ∧
    r.members = 1 ∧ r.desc.length = 128 ∧ (upd r).updSlot r r.rank r.xseq = some 64 ∧ 64 % 64 = 0 ∧ (upd r).tornAt 64 64 = false ∧
    (((upd r).course r.g).findStarted 7 r.serial).isSome = true := by decide
theorem witness_records :
    let r := updating 1 [] true 2
    let m : RxMsg := ⟨0, 0, leBytes 1 6 ++ leBytes 1 1 ++ leBytes 2 1 ++ leBytes 12 0 ++ leBytes 8 1 ++ leBytes 56 0⟩
    let s := grouped ((upd r).modNet 0 fun n => { n with inbox := [m] })
    (s.net 0).inbox = m :: [] ∧ byteAt m.bytes 0 = 0x06 ∧ m.part = s.partOf r.g ∧ rxGroup m = byteAt r.desc 39 ∧ rxRank m < r.members ∧
    (s.updSlot r (rxRank m) (natAt ((m.bytes.drop 16).take 64) 0 8)).isSome = true ∧ r.exchanging = true := by decide
theorem witness_heldRecords :
    let r := updating 1 [] true 1
    ((allSome ((List.range r.members).map fun i => ((upd r).store 64 (leBytes 8 1)).updHeld r i)).isSome = true) ∧
    (allSome ((List.range r.members).map fun i => (upd r).updHeld r i)) = none ∧
    Reaches State.reset .plinth (mr 1 0x1014) ∧ r.exchanging = true ∧ (1 : Stack) ∈ r.slices ∧ (2 : Stack) ∉ r.slices :=
  ⟨by decide, by decide, reaches_of (by decide), by decide, by decide, by decide⟩

/-! ### Keys, connections, the long-course transport, RoCEv2 and ports -/

/-- The key of zeros: its round keys are bytes, 16 in each. -/
theorem goodKey_zero : GoodKey (toNats (List.replicate 32 0)) := by
  unfold GoodKey Bytes
  decide +kernel

theorem reaches_plinth (s : State) {o : Nat} (h : o % 4 = 0) : Reaches s .plinth o := ⟨o, rfl, by simp [State.regReach, h]⟩

theorem witness_keyLoads :
    Reaches State.reset .plinth (nr 1 0xA0) ∧ State.reset.unwrapKey (State.reset.regBytes (nr 1 0x70) 12) = none ∧
    ∃ regs, let t : State := { State.reset with regs := regs, boot := { State.reset.boot with kwk := some (List.replicate 32 0) } }
      t.unwrapKey (t.regBytes (nr 1 0x70) 12) = some (List.replicate 5 (List.replicate 8 0)).flatten ∧ Reaches t .plinth (nr 1 0xA0) :=
  ⟨reaches_of (by decide), rfl, by
    obtain ⟨regs, e⟩ := exists_key State.reset goodKey_zero (nr 1 0x70) 12 (rs := List.replicate 5 (List.replicate 8 0))
      (by decide) (by decide) (by decide)
    exact ⟨regs, e, reaches_plinth _ (by decide)⟩⟩
theorem witness_keyReserved :
    natAt (List.replicate 4 (List.replicate 8 (0 : Byte)) ++ [leBytes 8 (2 ^ 63)]).flatten 36 4 ≠ 0 ∧
    ∃ regs, let t : State := { State.reset with regs := regs, boot := { State.reset.boot with kwk := some (List.replicate 32 0) } }
      t.unwrapKey (t.regBytes (nr 1 0x70) 12) = some (List.replicate 4 (List.replicate 8 (0 : Byte)) ++ [leBytes 8 (2 ^ 63)]).flatten :=
  ⟨by decide, exists_key State.reset goodKey_zero (nr 1 0x70) 12 (by decide) (by decide) (by decide)⟩
theorem witness_farKeys :
    let key := [leBytes 8 1] ++ List.replicate 7 (List.replicate 8 (0 : Byte))
    key.flatten.take 32 ≠ key.flatten.drop 32 ∧
    (∃ regs, let t : State := { State.reset with regs := regs, boot := { State.reset.boot with kwk := some (List.replicate 32 0) } }
      t.unwrapKey (t.regBytes (fr 7 0x100) 18) = some key.flatten) ∧
    ∃ regs, let t : State := { State.reset with regs := regs, boot := { State.reset.boot with kwk := some (List.replicate 32 0) } }
      t.unwrapKey (t.regBytes (fr 7 0x100) 18) = some (List.replicate 8 (List.replicate 8 (0 : Byte))).flatten :=
  ⟨by decide, exists_key State.reset goodKey_zero (fr 7 0x100) 18 (by decide) (by decide) (by decide),
    exists_key State.reset goodKey_zero (fr 7 0x100) 18 (by decide) (by decide) (by decide)⟩

/-- The context of connection 0: port 0, a channel, segments of 1024 bytes, and a window of 64 KiB. -/
def context (channel : Nat) : List Byte :=
  leBytes 16 1 ++ leBytes 16 1 ++ leBytes 9 0 ++ leBytes 1 channel ++ leBytes 4 0 ++ leBytes 2 1024 ++ leBytes 4 1 ++ leBytes 4 1 ++
    leBytes 4 1 ++ leBytes 68 0
/-- An open connection. -/
def opened : Conn := { Conn.closed with st := .opened, ctx := context 0, cwnd := 65536, ssthresh := 65536 }
/-- Port 0 is up, and connection 0 of IO-N has keys of zeros. -/
def online (k : Conn) : State :=
  { running.modNet 0 fun n => { n with conns := [(0, k)], keys := [0, 1, 2].map fun i => (i, some ⟨List.replicate 32 0, leBytes 4 0, 0⟩) } with
    ports := running.ports.set 0 ⟨true, 1, 1, false, 0, true⟩ }

theorem witness_connCommands :
    Reaches State.reset .plinth (nr 1 0x30) ∧ (8191 : Word).toNat % 8192 = 8191 ∧ (4095 : Word).getLsbD 13 = false ∧
    (8192 : Word).getLsbD 13 = true ∧ (context 0).length = 128 ∧ ctxOk (context 0) = true ∧ ctxOk (List.replicate 128 0) = false ∧
    ((online Conn.closed).store 0 (context 0)).lctContext 0 0 = some (context 0) ∧ ((online Conn.closed).net 0).key 0 0 0 =
      some ⟨List.replicate 32 0, leBytes 4 0, 0⟩ ∧ ((online Conn.closed).net 0).conn 0 = Conn.closed ∧
    (((online opened).net 0).key 0 0 (phaseNum !opened.phase)).isSome = true ∧ ((running.net 0).key 0 0 1) = none ∧
    (running.net 0).qp 8191 = Qp.closed ∧ ({ Qp.closed with st := .opened } : Qp).st ≠ .closed :=
  ⟨reaches_of (by decide), by decide⟩

/-- The zero key with its salt. -/
def zeroKey : NetKey := ⟨List.replicate 32 0, leBytes 4 0, 0⟩
/-- A header of a frame for connection 0. -/
def header (type : Nat) (bamong : Bool) (len seq : Nat) : List Byte := lctHeader type false bamong false len 0 7 seq 0

/-- A frame of connection 0 with an LCT header, ciphertext and tag, as port 0 takes it. -/
def framed (body : List Byte) : List Byte :=
  lctFrame (List.replicate 6 0) (opened.path 0) ((State.reset.reg (nr 0 0x50)).toNat % 65536) 0 body

/-- What a frame for connection 0 must be, but for its tag, as a test. -/
def framedB (k : Conn) (type : Nat) (b : List Byte) : Bool :=
  match udpOf (framed b) with
  | none => false
  | some u => decide (u.body = b) && decide (frameFate (framed b) true = .ok) && decide ((framed b).take 6 = (online k).portMac 0) &&
      decide ((online k).lctTarget 0 u = some 0) && u.sumOk && decide (byteAt b 0 = 1 + 16 * type) &&
      decide (b.length = natAt b 2 2 + 48) && decide (byteAt b 1 % 2 = 0)

theorem lctAt_of {k : Conn} {type : Nat} {b : List Byte} (h : framedB k type b = true) :
    ∃ u, LctAt (online k) 0 type (framed b) 0 0 u ∧ u.body = b ∧ byteAt b 1 % 2 = 0 := by
  unfold framedB at h
  split at h
  · exact absurd h (by decide)
  · rename_i u hu
    simp only [Bool.and_eq_true, decide_eq_true_eq] at h
    obtain ⟨⟨⟨⟨⟨⟨⟨h1, h2⟩, h3⟩, h4⟩, h5⟩, h6⟩, h7⟩, h8⟩ := h
    exact ⟨u, ⟨⟨rfl, rfl, rfl, h2, h3, hu⟩, h4, h5, by rw [h1, h6], by rw [h1, h7]⟩, h1, h8⟩

/-- Four blocks under the key of zeros: of zeros, and those of counters 1 to 3 of packet number 7. -/
def hashKey : List Nat := [220, 149, 192, 120, 162, 64, 137, 137, 173, 72, 162, 20, 146, 132, 32, 135]
def tagMask : List Nat := [59, 221, 192, 215, 153, 40, 211, 138, 155, 87, 100, 153, 54, 197, 134, 226]
def stream2 : List Nat := [240, 199, 214, 7, 127, 224, 187, 250, 80, 165, 186, 229, 217, 3, 142, 231]
def stream3 : List Nat := [9, 210, 102, 145, 128, 199, 114, 123, 202, 248, 248, 234, 96, 98, 234, 61]
theorem hashKey_eq : aesEnc (toNats zeroKey.key) (List.replicate 16 0) = hashKey := by decide +kernel
theorem tagMask_eq : aesEnc (toNats zeroKey.key) (lctIv zeroKey 7 ++ natBe 4 1) = tagMask := by decide +kernel
theorem stream2_eq : aesEnc (toNats zeroKey.key) (lctIv zeroKey 7 ++ natBe 4 2) = stream2 := by decide +kernel
theorem stream3_eq : aesEnc (toNats zeroKey.key) (lctIv zeroKey 7 ++ natBe 4 3) = stream3 := by decide +kernel

/-- GHASH's product and sum in arithmetic that the kernel evaluates at once. -/
def ghFast (n x v z : Nat) : Nat :=
  Nat.rec (motive := fun _ => Nat → Nat → Nat) (fun _ z => z)
    (fun n go v z => go (Nat.xor (Nat.div v 2) (Nat.mul (Nat.mod v 2) 299076299051606071403356588563077529600))
      (Nat.xor z (Nat.mul v (Nat.mod (Nat.div x (Nat.pow 2 n)) 2)))) n v z
theorem ghMul_fast (x : Nat) : ∀ n v z, ghMul n x v z = ghFast n x v z
  | 0, _, _ => rfl
  | n + 1, v, z => by
    have h : ghFast (n + 1) x v z = ghFast n x ((v / 2) ^^^ (v % 2 * 299076299051606071403356588563077529600))
      (z ^^^ (v * ((x / 2 ^ n) % 2))) := rfl
    unfold ghMul
    rw [ghMul_fast x n, h]
    rcases Nat.mod_two_eq_zero_or_one v with e | e <;> rcases Nat.mod_two_eq_zero_or_one (x / 2 ^ n) with d | d <;>
      simp [e, d]
def ghashFast (h : Nat) (l : List Nat) : Nat :=
  (chunksOf 16 (l.length / 16) l).foldl (fun y b => ghFast 128 (y ^^^ beVal b) h 0) 0
theorem ghash_fast (h : Nat) (l : List Nat) : ghash h l = ghashFast h l := by
  unfold ghash ghashFast; simp only [ghMul_fast]

theorem gcmTag_zero (aad ct : List Nat) : gcmTag (toNats zeroKey.key) (lctIv zeroKey 7) aad ct =
    xorL (natBe 16 (ghashFast (beVal hashKey) (pad16 aad ++ pad16 ct ++ natBe 8 (8 * aad.length) ++ natBe 8 (8 * ct.length)))) tagMask := by
  unfold gcmTag; dsimp only; rw [hashKey_eq, tagMask_eq, ghash_fast]

/-- Whether a frame's tag verifies under the key of zeros, with packet number 7 and up to two blocks, and its plaintext. -/
def opensTo (b plain : List Byte) : Bool :=
  let ct := toNats ((b.drop 32).take (b.length - 48))
  let aad := toNats (b.take 32)
  let s := ghashFast (beVal hashKey) (pad16 aad ++ pad16 ct ++ natBe 8 (8 * aad.length) ++ natBe 8 (8 * ct.length))
  decide (natAt (b.take 32) 8 8 = 7) && decide (48 ≤ b.length) &&
    decide (ofNats (xorL (natBe 16 s) tagMask) = b.drop (32 + (b.length - 48))) &&
    ((decide (ct = []) && decide (plain = [])) ||
      (decide ((ct.length + 15) / 16 = 1) && decide (ofNats (xorL ct stream2) = plain)) ||
      (decide ((ct.length + 15) / 16 = 2) && decide (ofNats (xorL ct (stream2 ++ stream3)) = plain)))

theorem openFrame_of {b plain : List Byte} (h : opensTo b plain = true) : openFrame zeroKey b = some plain := by
  simp only [opensTo, Bool.and_eq_true, Bool.or_eq_true, decide_eq_true_eq] at h
  obtain ⟨⟨⟨h1, h2⟩, h3⟩, h4⟩ := h
  unfold openFrame
  dsimp only
  rw [if_neg (by omega), h1, gcmTag_zero, if_pos h3]
  unfold gcmCrypt
  rcases h4 with (⟨h, hp⟩ | ⟨h, hp⟩) | ⟨h, hp⟩
  · rw [h, hp]; rfl
  · rw [h]; simp only [gcmStream, stream2_eq, List.append_nil]; rw [hp]
  · rw [h]; simp only [gcmStream, stream2_eq, List.append_nil, show 2 + 1 = 3 from rfl, stream3_eq]; rw [hp]

theorem frameFor_of {k : Conn} {type : Nat} {b plain : List Byte} (h : framedB k type b = true)
    (o : opensTo b plain = true) : ∃ u, FrameFor (online k) 0 type (framed b) 0 0 u plain ∧ u.body = b := by
  obtain ⟨u, hu, hb, h8⟩ := lctAt_of h
  exact ⟨u, ⟨hu, zeroKey, by rw [hb, h8]; rfl, by rw [hb, openFrame_of o]⟩, hb⟩


theorem openFrame_none {b : List Byte}
    (h : (let ct := toNats ((b.drop 32).take (b.length - 48))
      let aad := toNats (b.take 32)
      decide (natAt (b.take 32) 8 8 = 7) && decide (ofNats (xorL (natBe 16 (ghashFast (beVal hashKey) (pad16 aad ++ pad16 ct ++
        natBe 8 (8 * aad.length) ++ natBe 8 (8 * ct.length)))) tagMask) ≠ b.drop (32 + (b.length - 48)))) = true) :
    openFrame zeroKey b = none := by
  simp only [Bool.and_eq_true, decide_eq_true_eq] at h
  unfold openFrame
  dsimp only
  split
  · rfl
  · rw [h.1, gcmTag_zero, if_neg h.2]

/-- A RING_READY message of rank 1 of group 1, and the group with its member 1 on port 0. -/
def readyMsg : List Byte := leBytes 1 3 ++ leBytes 1 1 ++ leBytes 2 1 ++ leBytes 2 24 ++ leBytes 18 0
def member1 (s : State) : State := (grouped s).store 0x420 (leBytes 1 2 ++ leBytes 1 0 ++ leBytes 2 1 ++ leBytes 12 0)

/-- The frames of the witnesses below, by header, ciphertext and tag. -/
def dataBody : List Byte := header 1 false 24 0 ++ ofNats [243, 198, 215, 7, 103, 224, 187, 250, 80, 165, 186, 229, 217, 3, 142, 231, 9, 210,
  102, 145, 128, 199, 114, 123, 214, 121, 70, 245, 238, 208, 223, 217, 151, 68, 113, 47, 193, 117, 210, 95]
def farBody : List Byte :=
  header 1 false 1 64 ++ ofNats [240, 107, 234, 162, 17, 114, 87, 29, 93, 112, 49, 87, 241, 167, 72, 146, 32]
def badBody : List Byte :=
  header 1 true 1 0 ++ ofNats [15, 21, 103, 143, 128, 251, 194, 197, 95, 109, 206, 62, 82, 144, 166, 36, 70]
def sackBody : List Byte := header 2 false 8 0 ++ ofNats [241, 199, 214, 7, 127, 224, 187, 250, 58, 244, 40, 139, 241, 61, 250, 158, 138,
  139, 6, 250, 188, 89, 212, 111]
def nackBody : List Byte := header 3 false 8 0 ++ ofNats [240, 199, 214, 7, 127, 224, 187, 250, 69, 232, 6, 86, 43, 174, 39, 195, 13, 249,
  181, 92, 136, 94, 220, 236]
def probeBody : List Byte := header 4 false 0 0 ++ ofNats [159, 173, 12, 255, 208, 155, 175, 144, 25, 117, 34, 223, 9, 13, 204, 54]
def replyBody : List Byte := header 5 false 0 0 ++ ofNats [43, 56, 235, 204, 190, 31, 183, 126, 17, 185, 25, 38, 34, 49, 154, 39]

theorem canSend_of {k : Conn} (h : ((online k).net 0).conn 0 = k) (a : k.held = false) (b : k.phase = false) (c : k.port = 0) :
    CanSend (online k) 0 0 zeroKey :=
  ⟨by rw [h, a], by rw [h, b]; rfl, by decide, by rw [h, c]; rfl⟩

theorem witness_dataFrames :
    (∃ u, FrameFor (online opened) 0 1 (framed dataBody) 0 0 u readyMsg ∧ natAt u.body 16 8 = opened.rxCum ∧
      byteAt u.body 1 / 2 % 2 = 0) ∧
    1 ≤ opened.segs ∧ opened.rxSet = [] ∧ opened.channel = 0 ∧ (member1 (online opened)).messageOk 0 false readyMsg = true ∧
    (∀ y, (0, messageKey readyMsg) ∉ ((online opened).net y).applied) ∧ CanSend (online opened) 0 0 zeroKey ∧
    (∃ u, FrameFor (online opened) 0 1 (framed farBody) 0 0 u [0] ∧ opened.rxCum + opened.segs ≤ natAt u.body 16 8) ∧
    (∃ u, FrameFor (online opened) 0 1 (framed badBody) 0 0 u [255] ∧ byteAt u.body 1 / 2 % 2 = 1 ∧ natAt u.body 16 8 = 0) ∧
    (∃ e, decodeBlocks 1 [255] = .error e) := by
  obtain ⟨u, hu, hb⟩ := frameFor_of (k := opened) (type := 1) (b := dataBody) (plain := readyMsg) (by decide +kernel) (by decide +kernel)
  obtain ⟨v, hv, vb⟩ := frameFor_of (k := opened) (type := 1) (b := farBody) (plain := [0]) (by decide +kernel) (by decide +kernel)
  obtain ⟨w, hw, wb⟩ := frameFor_of (k := opened) (type := 1) (b := badBody) (plain := [255]) (by decide +kernel) (by decide +kernel)
  exact ⟨⟨u, hu, by rw [hb]; decide, by rw [hb]; decide⟩, by decide, by decide, by decide, by decide, by decide, canSend_of rfl rfl rfl rfl,
    ⟨v, hv, by rw [vb]; decide⟩, ⟨w, hw, by rw [wb]; decide, by rw [wb]; decide⟩, ⟨_, rfl⟩⟩

/-- A frame whose tag is wrong. -/
theorem witness_badTag : opened.authRaised = false ∧ ∃ u, LctAt (online opened) 0 1 (framed (header 1 false 0 0 ++ List.replicate 16 0)) 0 0 u ∧
    ((online opened).net 0).key 0 1 (byteAt u.body 1 % 2) = some zeroKey ∧ openFrame zeroKey u.body = none := by
  obtain ⟨u, hu, hb, h8⟩ := lctAt_of (k := opened) (type := 1) (b := header 1 false 0 0 ++ List.replicate 16 0) (by decide +kernel)
  refine ⟨rfl, u, hu, by rw [hb, h8]; rfl, ?_⟩
  rw [hb]
  exact openFrame_none (by decide +kernel)

/-- A segment of an open connection, sent a number of times. -/
def seg (sends : Nat) (lost : Bool) : Seg := ⟨0, 3, none, [0], sends, [], lost⟩


theorem witness_controlFrames :
    let k : Conn := { opened with unacked := [seg 1 false] }
    (∃ u, FrameFor (online k) 0 2 (framed sackBody) 0 0 u (leBytes 8 1) ∧ ∀ n, k.lastCtl = some n → n < natAt u.body 8 8) ∧
    (∀ g ∈ k.unacked, sackCovers (leBytes 8 1) g.seq = true) ∧ k.cut = false ∧
    ¬(∀ n, ({ k with lastCtl := some 7 } : Conn).lastCtl = some n → n < natAt sackBody 8 8) ∧
    (∃ u, FrameFor (online k) 0 3 (framed nackBody) 0 0 u (leBytes 8 0) ∧ ∀ n, k.lastCtl = some n → n < natAt u.body 8 8) ∧
    k.unacked = seg 1 false :: [] ∧ (seg 1 false).seq = natAt (leBytes 8 0) 0 8 ∧ (seg 1 false).lost = false ∧
    (seg 1 false).sends < ((online k).reg (nr 0 0x5C)).toNat % 16 ∧ ((online k).reg (nr 0 0x5C)).toNat % 16 ≤ (seg 15 false).sends ∧
    (∃ u, FrameFor (online k) 0 4 (framed probeBody) 0 0 u []) ∧ CanSend (online k) 0 0 zeroKey ∧
    (∃ u, FrameFor (online { opened with held := true }) 0 4 (framed probeBody) 0 0 u []) ∧
    ∃ u, FrameFor (online k) 0 5 (framed replyBody) 0 0 u [] := by
  intro k
  have no (m : Nat) : ∀ n, k.lastCtl = some n → n < m := by intro n h; simp [k, opened, Conn.closed] at h
  obtain ⟨u, hu, -⟩ := frameFor_of (k := k) (type := 2) (b := sackBody) (plain := leBytes 8 1) (by decide +kernel) (by decide +kernel)
  obtain ⟨v, hv, -⟩ := frameFor_of (k := k) (type := 3) (b := nackBody) (plain := leBytes 8 0) (by decide +kernel) (by decide +kernel)
  obtain ⟨w, hw, -⟩ := frameFor_of (k := k) (type := 4) (b := probeBody) (plain := []) (by decide +kernel) (by decide +kernel)
  obtain ⟨y, hy, -⟩ := frameFor_of (k := { opened with held := true }) (type := 4) (b := probeBody) (plain := []) (by decide +kernel)
    (by decide +kernel)
  obtain ⟨z, hz, -⟩ := frameFor_of (k := k) (type := 5) (b := replyBody) (plain := []) (by decide +kernel) (by decide +kernel)
  exact ⟨⟨u, hu, no _⟩, by decide, rfl, by intro h; exact absurd (h 7 rfl) (by decide), ⟨v, hv, no _⟩, rfl, by decide, rfl, by decide,
    by decide, ⟨w, hw⟩, canSend_of rfl rfl rfl rfl, ⟨y, hy⟩, ⟨z, hz⟩⟩
theorem witness_framesSent :
    let m : NetMsg := ⟨0, 1, 1, readyMsg, .answer, .state⟩
    let s := (online opened).modNet 0 fun n => { n with queue := [(0, m)] }
    s.dieRuns (ioDie 0) = true ∧ CanSend s 0 0 zeroKey ∧ s.connReady 0 0 = true ∧ (s.net 0).queue = (0, m) :: [] ∧
    (s.reform m).bytes.length ≤ opened.maxSeg ∧
    opened.inflight + (s.reform m).bytes.length ≤ min opened.cwnd opened.window ∧ opened.seq < opened.cum + opened.segs ∧
    ({ opened with ctx := context 0 |>.set 46 0 |>.set 47 0 } : Conn).maxSeg < readyMsg.length ∧
    ({ opened with unacked := [seg 1 true] } : Conn).unacked = seg 1 true :: [] ∧ opened.unacked = [] ∧ opened.probe = none ∧
    (seg 1 true).sends < (s.reg (nr 0 0x5C)).toNat % 16 ∧ (s.reg (nr 0 0x5C)).toNat % 16 ≤ (seg 15 true).sends ∧
    ({ opened with seq := 64 } : Conn).cum + ({ opened with seq := 64 } : Conn).segs ≤ ({ opened with seq := 64 } : Conn).seq ∧
    (online { opened with held := true }).connReady 0 0 = false ∧ 0 < ({ opened with rxUnacked := 1 } : Conn).rxUnacked ∧
    ({ opened with probe := some (seg 1 false) } : Conn).probe = some (seg 1 false) :=
  ⟨by decide, ⟨by decide, by decide, by decide, by decide⟩, by decide⟩

/-- Queue pair 5 of IO-N. -/
def paired (k : Qp) : State := (online Conn.closed).modNet 0 fun n => { n with qps := [(5, k)] }
/-- The path of queue pair 5. -/
def pairPath : QpPath := ⟨false, [10, 0, 0, 1], [10, 0, 0, 1], List.replicate 6 0, none, 0, false, 49152, 0xFFFF, 5⟩

/-- The ICRC in arithmetic that the kernel evaluates at once. -/
def crcFast (n p c : Nat) : Nat :=
  Nat.rec (motive := fun _ => Nat → Nat) (fun c => c)
    (fun _ go c => go (Nat.xor (Nat.div c 2) (Nat.mul p (Nat.mod c 2)))) n c
theorem crcByte_fast (p : Nat) : ∀ n c, crcByte p c n = crcFast n p c
  | 0, _ => rfl
  | n + 1, c => by
    have h : crcFast (n + 1) p c = crcFast n p ((c / 2) ^^^ (p * (c % 2))) := rfl
    unfold crcByte
    rw [crcByte_fast p n, h]
    rcases Nat.mod_two_eq_zero_or_one c with e | e <;> simp [e]
def crc32Fast (l : List Nat) : Nat := (l.foldl (fun c b => crcFast 8 0xEDB88320 (c ^^^ b)) 0xFFFFFFFF) ^^^ 0xFFFFFFFF
theorem crc32_fast (l : List Nat) : crc32 l = crc32Fast l := by unfold crc32 crc32Of crc32Fast; simp only [crcByte_fast]
/-- What the ICRC of an IPv4 packet without options is taken over. -/
def icrcFast (ip hdr body : List Byte) : List Byte :=
  leBytes 4 (crc32Fast (toNats (List.replicate 8 0xFF ++ (ip.take 1 ++ [0xFF] ++ ((ip.drop 2).take 6) ++ [0xFF] ++ ((ip.drop 9).take 1) ++
    [0xFF, 0xFF] ++ ip.drop 12) ++ hdr.take 6 ++ [0xFF, 0xFF] ++ body.take 4 ++ [0xFF] ++ body.drop 5)))
theorem icrc_fast (ip hdr body : List Byte) : icrcOf false ip hdr body = icrcFast ip hdr body := by
  unfold icrcOf icrcFast; dsimp only; rw [crc32_fast]; rfl

/-- A RoCEv2 packet for queue pair 5 from its EtherType on, with the ICRC given or the right one. -/
def rocePacket (op psn : Nat) (rest : List Byte) (crc : Option (List Byte)) : List Byte :=
  let body := bthBytes op 0 0xFFFF 5 psn false ++ rest
  let ip := ipHeader pairPath (12 + body.length) 0
  let hdr := udpHeader pairPath 4791 (body ++ List.replicate 4 0) false
  [0x08, 0x00] ++ ip ++ hdr ++ body ++ crc.getD (icrcFast ip hdr body)

/-- What a packet for queue pair 5 must be, as a test. -/
def roceB (k : Qp) (packet : List Byte) (want : Option (Nat × RoceOp)) : Bool :=
  match udpOf (ethFrame 0 0 none packet) with
  | none => false
  | some u =>
    let b := u.body.take (u.body.length - 4)
    !u.v6 && decide (frameFate (ethFrame 0 0 none packet) true = .ok) && decide ((ethFrame 0 0 none packet).take 6 = (paired k).portMac 0) &&
      decide ((paired k).lctTarget 0 u = none) && decide ((paired k).roceTarget 0 u = some 5) && decide (16 ≤ u.body.length) &&
      decide (frameField b 5 3 = 5) && decide (want = if icrcFast u.ip u.hdr b = u.body.drop (u.body.length - 4) then
        some (frameField b 9 3, bthOp b) else none)

theorem roce_of {k : Qp} {packet : List Byte} {want : Option (Nat × RoceOp)} (h : roceB k packet want = true) :
    ∃ u, FrameAt (paired k) 0 0 (ethFrame 0 0 none packet) u ∧ (paired k).lctTarget 0 u = none ∧ (paired k).roceTarget 0 u = some 5 ∧
      roceOf u = want.map fun w => (5, w.1, w.2) := by
  unfold roceB at h
  split at h
  · exact absurd h (by decide)
  · rename_i u hu
    simp only [Bool.and_eq_true, Bool.not_eq_true', decide_eq_true_eq] at h
    obtain ⟨⟨⟨⟨⟨⟨⟨h1, h2⟩, h3⟩, h4⟩, h5⟩, h6⟩, h7⟩, h8⟩ := h
    refine ⟨u, ⟨rfl, rfl, rfl, h2, h3, hu⟩, h4, h5, ?_⟩
    unfold roceOf
    dsimp only
    rw [h1, icrc_fast, h8, h7]
    by_cases e : icrcFast u.ip u.hdr (List.take (u.body.length - 4) u.body) = List.drop (u.body.length - 4) u.body
    · rw [if_neg (by simp [e]; omega), if_pos e]; rfl
    · rw [if_pos (Or.inr e), if_neg e]; rfl

/-- Queue pair 5 is open, its next PSN the last. -/
def open5 : Qp := { Qp.closed with st := .opened, path := pairPath, recvPsn := 2 ^ 24 - 1 }
/-- A frame for queue pair 5 that is the given packet. -/
def Arrives (k : Qp) (packet : List Byte) (want : Option (Nat × RoceOp)) : Prop :=
  ∃ u, FrameAt (paired k) 0 0 (ethFrame 0 0 none packet) u ∧ (paired k).lctTarget 0 u = none ∧ (paired k).roceTarget 0 u = some 5 ∧
    roceOf u = want.map fun w => (5, w.1, w.2)

theorem witness_rocePackets :
    Arrives open5 (rocePacket 4 (2 ^ 24 - 1) readyMsg none) (some (2 ^ 24 - 1, .send true true readyMsg)) ∧
    Arrives open5 (rocePacket 0 (2 ^ 24 - 1) (leBytes 4 9) none) (some (2 ^ 24 - 1, .send true false (leBytes 4 9))) ∧
    Arrives open5 (rocePacket 0x11 0 (leBytes 4 0) none) (some (0, .ack)) ∧
    Arrives open5 (rocePacket 0x11 1 (leBytes 4 0x60) none) (some (1, .nak false)) ∧
    Arrives open5 (rocePacket 0x11 1 (leBytes 4 0x62) none) (some (1, .nak true)) ∧
    Arrives open5 (rocePacket 6 1 (leBytes 4 0) none) (some (1, .unsupported)) ∧
    Arrives open5 (rocePacket 0x81 0 (leBytes 16 0) none) (some (0, .cnp)) ∧
    Arrives open5 (rocePacket 4 0 (leBytes 4 0) (some (leBytes 4 0))) none :=
  ⟨roce_of (by decide +kernel), roce_of (by decide +kernel), roce_of (by decide +kernel), roce_of (by decide +kernel),
    roce_of (by decide +kernel), roce_of (by decide +kernel), roce_of (by decide +kernel), roce_of (by decide +kernel)⟩
theorem witness_roceMarked :
    frameCe (ethFrame 0 0 none ([8, 0, 0x45, 3] ++ List.replicate 46 0)) = true ∧
    frameCe (ethFrame 0 0 none (rocePacket 4 0 (leBytes 4 0) (some (leBytes 4 0)))) = false := by decide +kernel
theorem witness_queuePairs :
    let k := open5
    let m : NetMsg := ⟨0, 1, 1, readyMsg, .answer, .state⟩
    let sent : Qp := { k with unacked := [(0, 1, m), (1, 1, m)], retryMax := 7 }
    (paired k).dieRuns (ioDie 0) = true ∧
    ((paired k).net 0).qp 5 = k ∧ ((paired k).ports.get 0).up = true ∧ k.port = 0 ∧ readyMsg.length ≤ k.mtu ∧ k.partialMsg = [] ∧
    (member1 (paired k)).messageOk 0 false readyMsg = true ∧ (∀ y, (0, messageKey readyMsg) ∉ ((paired k).net y).applied) ∧
    psnDist k.recvPsn 0 < 2 ^ 23 ∧ 2 ^ 23 ≤ psnDist k.recvPsn (2 ^ 24 - 2) ∧
    sent.unacked = (0, 1, m) :: [(1, 1, m)] ∧ psnDist (0 + 1 - 1) 0 < 2 ^ 23 ∧ 2 ^ 23 ≤ psnDist (1 + 1 - 1) 0 ∧
    2 ^ 23 ≤ psnDist (0 + 1 - 1) (psnDist 1 0) ∧
    sent.retry < sent.retryMax ∧ k.retryMax ≤ k.retry ∧ (running.ports.get 0).up = false := by decide
theorem witness_portLanes :
    let k : PortState := ⟨true, 3, 0xF, false, 0, true⟩
    let s : State := { (running.setReg (Blk.port 0).base 3) with ports := running.ports.set 0 k }
    s.dieRuns (ioDie 0) = true ∧ s.ports.get 0 = k ∧ k.bad.getLsbD 3 = false ∧ k.lanes.getLsbD 3 = true ∧ k.lanes.getLsbD 7 = false ∧
    (bestRate ((s.reg (Blk.port 0).base).getLsbD 3) (1#8 <<< 3) ((s.reg (Blk.port 0).base).toNat % 8)).isSome = true ∧
    bestRate false (0xFF) 3 = none ∧ (s.net 0).conns = [] ∧ (s.net 0).qps = [] ∧ ({ k with bad := 8 } : PortState).bad.getLsbD 3 = true := by
  decide

/-! ### Registers, the host and the mailbox -/

theorem witness_plainWrites :
    let o := cr 31 0x68
    State.reset.regReach .plinth (BitVec.ofNat 32 o).toNat = .at o ∧ locate o = some (.course 31, 0x68) ∧
    (regRow (.course 31) 0x68).any (fun r => !r.wide) = true ∧ counters (.course 31) 0x68 = none ∧
    (regRow (.mem 7) 0xC).any (fun r => !r.wide) = true ∧ counters (.mem 7) 0xC = none ∧
    (regRow (.mortar 5) 8).any (fun r => !r.wide) = true ∧ counters (.fwu 3) 0 = none := by decide
theorem witness_noRegister :
    let o := cr 31 0x4
    State.reset.regReach .plinth (o + 0xFF8) = .at (o + 0xFF8) ∧ locate (o + 0xFF8) = some (.course 31, 0xFFC) ∧
    regRow (.course 31) 0xFFC = none ∧ (2#32).toNat % 4 ≠ 0 ∧ State.reset.host.up = false ∧
    (State.reset.setReg (dr 0 0x4000) 0).parted = false := by decide
theorem witness_pairs :
    let o := cr 31 0x50
    State.reset.regReach .plinth (o + 4) = .at (o + 4) ∧ locate (o + 4) = some (.course 31, 0x54) ∧
    (regRow (.course 31) 0x54).any (fun r => r.wide && !r.wo && r.isHigh 0x54) = true ∧ (Blk.course 31).base + (0x54 - 4) = o + 4 - 4 ∧
    (regRow (.course 31) 0x50).any (fun r => r.wide && !r.isHigh 0x50) = true ∧ State.reset.ringShut .plinth o = false ∧ State.reset.live (.course 31) 0x50 = none ∧
    State.reset.captured .plinth o = none ∧
    ({ State.reset with capture := [((.plinth, o), 7)] }).captured .plinth o = some 7 := by
  refine ⟨by decide, by decide, by decide, by decide, by decide, by decide, rfl, rfl, by decide⟩
theorem witness_counters :
    let o := dr 3 0x4028
    State.reset.regReach .plinth o = .at o ∧ locate o = some (.die 3, 0x4028) ∧ (regRow (.die 3) 0x4028).any (fun r => !r.wide) = true ∧
    (counters (.die 3) 0x4028).isSome = true ∧ (Blk.die 3).base + 0x4028 = o := by decide

/-- The device is READY, whole or partitioned, with its link up and every virtual function enabled. -/
def hosted (parted : Bool) : State :=
  { (State.reset.setReg (pr 0) (if parted then 0x45E else 0x5E)) with
    host := { State.reset.host with up := true, gen := 6, width := 16, vfEnabled := Vector.replicate 5 true } }

theorem witness_hosted :
    (hosted false).ready = true ∧ (hosted true).ready = true ∧ (hosted false).parted = false ∧ (hosted true).parted = true ∧
    (hosted false).fnLive 0 = true ∧ (∀ fn, (hosted true).fnLive fn = true) ∧ (hosted false).fnLive 4 = false ∧
    State.reset.ready = false ∧ (3#32).toNat % 4 ≠ 0 := by decide
theorem witness_bar2 :
    let s := hosted true
    let off := 2 ^ 30 - 64
    off + 64 ≤ s.host.bar2Size.get 4 ∧ (s.bar2Addr 4 off 64).isSome = true ∧ off + 64 ≤ (hosted false).host.bar2Size.get 0 ∧
    (List.range 64).all (fun i => !((hosted false).dirty (0 + i) 1)) = true ∧ (hosted false).bar2Addr 0 0 64 = some 0 ∧
    (((hosted false).setPoison 64 true).dirty (64 + 0) 1) = true ∧
    (((hosted false).setReg64 (Blk.host.base + 8) 0x8000000000).bar2Addr 0 0 64) = none ∧
    (let u := { State.reset with host := (hosted false).host }
     u.fnLive 0 = true ∧ u.ready = false ∧ 0 + 64 ≤ u.host.bar2Size.get 0) := by decide
theorem witness_doorbells :
    (31 * 4096 + 1020) % 4096 = 4 * 255 ∧ (31 * 4096 + 1020) / 4096 = (31 : Course).val ∧ (7 * 4096 + 1020) / 4096 = (7 : Fin 8).val ∧
    32 * 4096 / 4096 = 32 ∧ 1024 ≤ 1024 % 4096 := by decide
theorem witness_hostReads :
    let tr : Transfer := ⟨hostBase, sl, 64, 0, false, true, []⟩
    let x : Stream := { loading with inflight := [tr] }
    ((streaming x).course 0).stream 7 = x ∧ x.inflight = tr :: [] ∧ tr.awaitsHost = true ∧ loading.awaiting = none := by decide
theorem witness_functions :
    let s := hosted true
    let t := { s with host := { s.host with pba := [(2048 * 4 + 31, true)], msixEn := s.host.msixEn.set 4 true,
                                            msix := [(2048 * 4 + 31, ⟨0x1000, 5, false⟩)] } }
    (∀ e ∈ s.host.pba, ¬e.1 / 2048 = 4) ∧ t.host.pba = [(2048 * (4 : Fin 5).val + 31, true)] ∧ (t.msixEntry 4 31).masked = false ∧
    t.host.msixEn.get 4 = true ∧ t.host.fnMask.get 4 = false ∧
    (∀ i : Fin 5, (4 : Fin 5).val < i.val → s.host.vfEnabled.get i = false) ∧ 30 ≤ 37 ∧ 37 ≤ (if (4 : Fin 5).val = 0 then 39 else 37) ∧
    31 < s.vectors 4 ∧ s.vectors 4 ≤ 2047 ∧ SMap.get s.host.pba (2048 * 4 + 31) false = false := by decide
theorem witness_link :
    let p := { (State.reset.setReg (pr 0) 0xB) with boot := { State.reset.boot with perst := true } }
    (hosted false).host.up = true ∧ ({ p with boot := { p.boot with perst := false } }).boot.perst = false ∧ p.boot.perst = true ∧
    11 ≤ (p.reg (pr 0)).toNat % 16 ∧ p.host.up = false ∧ laneWidth .x4 < (hosted false).host.width := by decide

/-- Both rings of the mailbox are enabled, with 16 slots, at 1 MiB and 2 MiB; port 0 is up. -/
def mailing : State :=
  let s := ((online { opened with ctx := context 1 }).setReg (pr 0x208) 1).setReg (pr 0x228) 1
  (s.setReg64 (pr 0x200) 0x100000).setReg64 (pr 0x220) 0x200000
/-- A broadcast frame. -/
def broadcast : List Byte := List.replicate 6 0xFF ++ List.replicate 54 0

theorem witness_mailboxRings :
    Reaches mailing .plinth (pr 0x208) ∧ Reaches mailing .plinth (pr 0x228) ∧ (13 : Word).toNat / 2 % 8 = 6 ∧ 0x100000 % 64 = 0 ∧
    mailing.nearOk 0x100000 (10240 * 2 ^ (4 + 6)) = true ∧ ¬(15 : Word).toNat / 2 % 8 < 7 :=
  ⟨reaches_plinth _ (by decide), reaches_plinth _ (by decide), by decide⟩
theorem witness_plinthFrame : PlinthFrameAt mailing 0 broadcast :=
  ⟨by decide, by decide, by decide, by decide, fun u h => absurd h (by decide), by decide⟩
theorem witness_mailboxFrames :
    (mailing.ports.get 0).up = true ∧ frameFate broadcast true = .ok ∧ mailing.forPlinth 0 broadcast = true ∧ 0 < mailing.mboxRoom ∧
    mailing.nearOk ((mailing.reg64 (pr 0x200)).toNat + 10240 * ((mailing.reg (pr 0x210)).toNat % mailing.mboxSize 0x208)) 10240 = true ∧
    (mailing.setReg (pr 0x208) 0).mboxRoom = 0 ∧ mailing.boot.dropRaised = false ∧ frameFate broadcast false ≠ .ok ∧
    (running.ports.get 0).up = false := by decide
theorem witness_priv :
    let m : RxMsg := ⟨0, 0, leBytes 1 7 ++ leBytes 15 (2 ^ 8 * 0xFFFF) ++ leBytes 8 0⟩
    let s := mailing.modNet 0 fun n => { n with inbox := [m] }
    let f := (linked.setReg64 (fr 7 0x200) (BitVec.ofNat 64 (farBase + 7 * 0x8000000000))).setReg64 (fr 7 0x208)
      (BitVec.ofNat 64 (farBase + 7 * 0x8000000000))
    let w := ((((f.setReg (fr 7 0x210) 5).setReg (pr 0x208) 33).setReg64 (pr 0x240) (BitVec.ofNat 64 (farBase + 7 * 0x8000000000))).modNet 0
      fun n => { n with conns := [(0, { opened with ctx := context 3 })] })
    s.dieRuns (ioDie 0) = true ∧ s.linked (.net 0) (.net 0) = true ∧ (s.net 0).inbox = m :: [] ∧ byteAt m.bytes 0 = 7 ∧ s.privTarget 0 m.conn (privPayload m) = none ∧ 0 < s.mboxRoom ∧
    (w.privTarget 0 m.conn (leBytes 8 0 ++ leBytes 8 0 ++ leBytes 48 1)).isSome = true := by decide
theorem witness_mailboxSends :
    let s (kind port : Nat) := (mailing.setReg (pr 0x230) 1).store 0x200000 (leBytes 1 kind ++ leBytes 1 port ++ leBytes 2 0 ++ leBytes 2 4)
    let b (kind port : Nat) := (s kind port).bytes 0x200000 10
    (s 1 11).dieRuns 4 = true ∧ (s 2 0).linked (.net 0) (.net 0) = true ∧ 16 + 4 ≤ (((s 2 0).net 0).conn 0).maxSeg ∧
    ((s 1 11).reg (pr 0x228)).getLsbD 0 = true ∧ (s 1 11).reg (pr 0x22C) ≠ (s 1 11).reg (pr 0x230) ∧ (s 1 11).privHeld < 64 ∧
    (s 1 11).nearOk 0x200000 10240 = true ∧ byteAt (b 1 11) 0 = 1 ∧ byteAt (b 1 11) 1 = 11 ∧ byteAt (b 2 0) 0 = 2 ∧
    byteAt (b 3 0) 0 = 3 ∧ byteAt (b 1 12) 1 = 12 ∧
    (((s 2 0).net 0).conn 0).st ≠ .closed ∧ (((s 2 0).net 0).conn 0).channel ≠ 0 := by decide

/-! ### Power and clocks -/

theorem witness_leaveGranted :
    let s := runs fun c => { c with wait := some ⟨2, .leave 48 0 0⟩ }
    s.dieRuns (cdieDie 0) = true ∧ s.presented 0 0 = some ⟨.leave 0, 48, 0, 0⟩ ∧ (List.range 16).all (fun p => p == 0 || (s.presented 0 p).isNone) = true ∧
    (s.cdie 0).arb.latched = none ∧ (s.cdie 0).arb.kept = [] ∧
    (∀ i j : Fin 16, mapNum (s.cdie 0).arb.force i.val = mapNum (s.cdie 0).arb.force j.val → i = j) ∧
    48 ≤ s.effective 0 - (s.cdie 0).inUseSum ∧ 48 ≤ (s.reg (dr (cdieDie 0) 0x402C)).toNat ∧
    ((s.setReg (dr 0 0x402C) 47).reg (dr (cdieDie 0) 0x402C)).toNat < 48 := by decide
theorem witness_leaveVote :
    let s (o : Option (Fin 3)) (n : Option (Fin 3 × Nat)) := running.modCDie 3 fun x => { x with arb := { x.arb with out := o, odd := n } }
    ((s none (some (2, 2))).cdie 3).arb.out = none ∧ ((s none (some (2, 2))).cdie 3).arb.odd = some (2, 2) ∧
    ((s (some 1) none).cdie 3).arb.out = some 1 ∧ (1 : Fin 3) ≠ 2 := by decide
theorem witness_leaveKinds :
    let e := entry 0 (.msnPass pass)
    let q := (queued 0 [e] []).modCourse 0 fun c => c.modQueue 0 fun y => { y with waitStamp := some 0 }
    let f := running.modCDie 0 fun x => { x with fwuRun := some ⟨0, 1, 0, 0, 0, 0, none⟩ }
    (q.presented 0 0).any (fun x => x.kind == .queue 0 0) = true ∧ (f.presented 0 1).any (fun x => x.kind == .fwu 0) = true := by decide
theorem witness_budget :
    (∀ i ∈ [0, 4, 8, 0x10, 0x14, 0x18, 0x1C], State.reset.regReach .plinth (pr (0x1000 + i)) = .at (pr (0x1000 + i))) ∧
    (700 ≤ (State.reset.reg (pr 0x1000)).toNat ∧ (State.reset.reg (pr 0x1000)).toNat ≤ 1500) ∧
    (440 ≤ (State.reset.reg (pr 0x1008)).toNat ∧ (State.reset.reg (pr 0x1008)).toNat + 64 ≤ (State.reset.reg (pr 0x1004)).toNat) ∧
    (∀ d : Fin 4, 48 ≤ (State.reset.reg (pr (0x1010 + 4 * d.val))).toNat ∧ (State.reset.reg (pr (0x1010 + 4 * d.val))).toNat ≤ 1060) ∧
    4 * (State.reset.reg (pr 0x1010)).toNat ≤ (State.reset.reg (pr 0x1000)).toNat - (State.reset.reg (pr 0x1008)).toNat := by decide
theorem witness_sensors :
    let throttle := (State.reset.reg (dr 5 0x4020)).toNat % 256
    let crit := (State.reset.reg (dr 5 0x4020)).toNat / 256 % 256
    let hot (n : Nat) : State := State.reset.modDie 5 fun x => { x with temps := [(7, n)] }
    ((5 : Die).val < 4 ∨ (7 : Fin 16).val < 8) ∧ throttle < crit ∧ (((State.reset.die 5).temps.map (·.2)).foldl max 0) ≤ throttle ∧
    throttle < (((hot (throttle + 1)).die 5).temps.map (·.2)).foldl max 0 ∧ (((hot (throttle + 1)).die 5).temps.map (·.2)).foldl max 0 < crit := by
  decide
theorem witness_capInput :
    let s (on pin : Bool) := { State.reset with boot := { State.reset.boot with booted := on, capPin := pin } }
    (s true true).boot.booted = true ∧ ((s true true).cdie 3).capApplied ≠ (s true true).boot.capPin ∧ (s false true).boot.booted = false ∧
    ((s true false).cdie 3).capApplied = (s true false).boot.capPin := by decide
theorem witness_clocks :
    let p (a b : PllState) : State := State.reset.modDie 5 fun x => { x with started := true, pllA := a, pllB := b }
    ((p .locked .locked).die 5).started = true ∧ ((p .locked .locked).die 5).pll false = .locked ∧
    ((p .locked .locked).die 5).activeB = false ∧ ((p .locked .locked).die 5).pll true = .locked ∧
    ((p .locked .relocking).die 5).pll true = .relocking ∧ Reaches State.reset .plinth (dr 5 0x4004) :=
  ⟨by decide, by decide, by decide, by decide, by decide, reaches_of (by decide)⟩

/-! ### Reliability and error reporting -/

/-- A report of a unit. -/
def report (unit : Byte) : Report := ⟨0x0F0A, unit, 0, 0, false, false, false, false, 0, 0, 0⟩
/-- Die 5 with reports presented, records queued and one in the last-report buffer. -/
def reporting (rs : List Report) (n : Nat) (b : Option ErrRec) : State :=
  State.reset.modDie 5 fun x => { x with presented := rs, errQueue := List.replicate n ⟨0, report 1, false⟩, lastBuf := b }

theorem witness_selfTests :
    let x : SelfTest := ⟨1, 0, 0x3F, true, 5, false⟩
    let s := runs fun c => { c with selfTests := [x] }
    let d := State.reset.modDie 3 fun y => { y with selfTests := [⟨none, 0xC0⟩] }
    s.courseRuns 0 = true ∧ d.dieRuns 3 = true ∧ (State.reset.course 0).testing = none ∧
    ((s.modDie 0 fun y => { y with selfTests := [⟨some (0, 1), 0x40⟩] }).die 0).selfTests = [⟨some (0, 1), 0x40⟩] ∧
    (s.course 0).selfTests = [x] ∧ x.left ≠ 0 ∧ x.left &&& 0xC0 = 0 ∧ (s.course 0).arr.repoint = .none ∧ x.ntf = false ∧
    x.left.getLsbD 5 = true ∧ x.left.getLsbD 0 = true ∧ 7 < (s.course 0).arr.logical ∧ (s.course 0).ctl ≠ .fenced ∧
    (s.reg (cr 0 0x3814)).getLsbD 31 = false ∧ (running.course 0).testing = none ∧ (d.die 3).selfTests = ⟨none, 0xC0⟩ :: [] := by decide
theorem witness_courseFence :
    Reaches State.reset .plinth (cr 31 0x380C) ∧ (State.reset.course 31).ctl ≠ .fenced ∧ (State.reset.course 31).adopted = false ∧
    State.reset.quiesced 31 = true ∧ (State.reset.course 31).arr.healthy.getLsbD 8 = true ∧
    ((runs fun c => { c with ctl := .halted, arr := { c.arr with healthy := 0xFF } }).course 0).arr.healthy.getLsbD 8 = false ∧
    (runs fun c => { c with ctl := .halted }).quiesced 0 = true ∧ running.quiesced 0 = false :=
  ⟨reaches_of (by decide), by decide⟩
theorem witness_sram :
    let a := windowBase 31 + 8 * (3145727 : Fin 3145728).val / 64 * 64
    State.reset.poisoned a = false ∧ (State.reset.setPoison a true).poisoned a = true ∧ (State.reset.course 31).ctl ≠ .fenced ∧
    (State.reset.reg (cr 31 0x341C)).getLsbD 0 = false ∧ (State.reset.reg (cr 31 0x3418)).getLsbD 31 = false := by decide
theorem witness_mortarLinks :
    let full : MortarDir := (Vector.replicate 16 7).set 15 3
    let s := State.reset.modDie 5 fun x => { x with tx := x.tx.set 0 full }
    (edgeFar 5 0).isSome = true ∧ ((s.die 5).tx.get 0).get 15 = 3 ∧ (3 : Nat).testBit 7 = false ∧ laneCount 3 ≤ 2 ∧
    2 < laneCount (3 + 2 ^ 7) ∧ (s.modules 5 0 = 1) ∧ 2 < laneCount (((s.die 5).tx.get 0).get 0) ∧
    ((State.reset.die 5).tx.get 0).get 15 = 0 ∧ (State.reset.reg ((Blk.mortar 5).base + 0x28)).getLsbD 0 = false := by decide
theorem witness_reports :
    let e : ErrRec := ⟨9, report 1, false⟩
    ((reporting [report 2] 48 none).die 5).presented = [report 2] ∧ ((reporting [report 2] 48 none).die 5).errQueue.length = 48 ∧
    ((reporting [report 2] 47 none).die 5).errQueue.length < 48 ∧ ((reporting [report 2] 48 (some e)).die 5).lastBuf = some e ∧
    (State.reset.reg (dr 5 0x2000)).getLsbD 31 = false ∧ ((reporting [report 2, report 1] 46 none).die 5).errQueue.length < 47 ∧
    (report 1).rank < (report 2).rank ∧ ((reporting [] 31 (some e)).die 5).errQueue.length < 32 ∧
    (∀ i, i < 16 → State.reset.reg (dr 5 (0x2080 + 4 * i)) = 0) ∧ (State.reset.setReg (dr 5 0x20BC) 3).reg (dr 5 (0x2080 + 4 * 15)) ≠ 0 := by
  decide
theorem witness_errorRing :
    let s := ((reporting [] 1 none).setReg64 (dr 5 0x2008) 0x100000).setReg (dr 5 0x2004) 1
    Reaches State.reset .plinth (dr 5 0x2004) ∧ State.reset.ringShut .plinth (dr 5 0x2004) = false ∧
    ((State.reset.setReg (pr 0) 0x400).ringShut (.host 1) (dr 0 0x2004)) = true ∧ (33 : Word).toNat / 4 % 16 = 8 ∧ 0x100000 % (32 * 2 ^ (7 + 8)) = 0 ∧
    s.nearOk 0x100000 (32 * 2 ^ (7 + 8)) = true ∧ ¬(37 : Word).toNat / 4 % 16 ≤ 8 ∧ (s.die 5).errQueue = ⟨0, report 1, false⟩ :: [] ∧
    (s.reg (dr 5 0x2004)).getLsbD 0 = true ∧ (s.reg (dr 5 0x2014) - s.reg (dr 5 0x2010)).toNat ≠ 128 ∧ s.nearOk 0x100000 32 = true ∧
    ((s.setReg (dr 5 0x2014) 128).reg (dr 5 0x2014) - s.reg (dr 5 0x2010)).toNat = 128 :=
  ⟨reaches_of (by decide), by decide⟩

/-! ### Boot, the ledger and the key-wrapping key -/

/-- A boot that finds one thing about step 1. -/
def findings (r : PathResult) : BootEnv := ⟨[⟨1, 0, 0, r⟩], [], [], 0, .x16, true⟩
/-- A boot at a step, with units still to run and the paths of the first. -/
def booting (env : BootEnv) (step : Nat) (units : List Nat) (paths : Option (List Nat)) (hold : Bool) : State :=
  { State.reset with boot := { State.reset.boot with run := some ⟨env, step, units, paths, 1, [], [], []⟩, hold := hold } }
/-- A failed part. -/
def part : FailRec := ⟨0, 0x0C, 1, 0, 5⟩

theorem witness_powerLoss :
    let s := { State.reset with boot := { State.reset.boot with failures := [part] } }
    s.boot.failures = part :: [] ∧ s.ledgerUsed s.ledgerHalf < 16384 ∧ (s.flashPut (32 * 16383) (natLe 32 1)).ledgerUsed 0 = 16384 := by
  decide
theorem witness_bootStart :
    let s := State.reset
    let hot := s.modDie 5 fun x => { x with comparator := true }
    let r3 : LedgerRec := ⟨3, 0, 0, 0, 6, 0, part⟩
    s.boot.rstLow = true ∧ (∃ d, (hot.die d).comparator = true) ∧ hot.boot.rstLow = true ∧ hot.reg (pr 0) = 0 ∧
    ¬(∃ d, (s.die d).comparator = true) ∧ s.activeHalf = none ∧ (s.flashPut halfSize r3.bytes).activeHalf = some 1 ∧
    (((findings .fail).paths.find? fun f => f.step == 1 && f.unit == 0 && f.path == 0).map (·.result)) = some .fail ∧
    (((findings .hang).paths.find? fun f => f.step == 1 && f.unit == 0 && f.path == 0).map (·.result)) = some .hang ∧
    ({ s with boot := { s.boot with rstLow := false } }).boot.rstLow = false := by decide
theorem witness_bootHeld :
    let s := booting (findings .fail) 0 [] none true
    s.boot.hold = true ∧ s.boot.run.any (fun r => r.env == findings .fail && r.step == 0 && r.units.isEmpty) = true ∧
    State.reset.boot.hold = false := by decide
theorem witness_bootLimits :
    let s := booting (findings .hang) 1 [0] (some [0]) false
    let t := booting { findings .pass with flashOk := false } 13 [0] (some [0]) false
    s.boot.hold = false ∧ s.boot.run.any (fun r => r.units == [0] && r.paths == some [0] && r.env.flashOk && r.step ∈ [1, 2, 3, 4, 5, 7]) = true ∧
    s.ledgerUsed s.ledgerHalf < 16384 ∧
    t.boot.run.any (fun r => r.step == 13 && r.units == [0] && r.paths == some [0] && !r.env.flashOk && r.env.paths.all (·.step != 14)) = true := by
  decide
theorem witness_ledger :
    Reaches State.reset .plinth (pr 0xE0) ∧ State.reset.boot.failures = [] ∧ State.reset.ledgerUsed State.reset.ledgerHalf < 16384 :=
  ⟨reaches_of (by decide), by decide⟩
theorem witness_keyDerive :
    let s := { State.reset with boot := { State.reset.boot with helper := some [] } }
    Reaches State.reset .plinth (pr 0x160) ∧ s.boot.helper = some [] ∧ s.boot.kwkBusy = none ∧ onCurve s.kwkPeer = false ∧
    ({ s with boot := { s.boot with kwkBusy := some none } }).boot.kwkBusy = some none ∧
    ({ s with boot := { s.boot with kwkBusy := some (some [1]) } }).boot.kwkBusy = some (some [1]) :=
  ⟨reaches_of (by decide), by decide⟩

end Sys2Proof.Tests
end

/-! SUPPORT. Registers: which register an access reaches, what a write stores, what a read of a pair answers, and what a
counter control clears (R9 to R13, R113). -/

namespace Sys2Proof.Machine

/-! ### Where a register lies (R563) -/

/-- A located register lies at its block's base plus its offset in the block. -/
theorem base_add_of_locate {o k : Nat} {b : Blk} (h : locate o = some (b, k)) : b.base + k = o := by
  unfold locate at h
  simp only [ite_eq_iff, dite_eq_iff, reduceCtorEq, Option.some.injEq, Prod.mk.injEq, and_false, or_false, false_or] at h
  casesm* _ ∨ _, _ ∧ _, ∃ _, _
  all_goals
    subst_vars
    simp only [Blk.base]
    omega

/-- The first MiB of a compute die's range is its die block. -/
theorem locate_of_dieBlock {o : Nat} (hd : o / 0x4000000 < 4) (hr : o % 0x4000000 < 0x100000) :
    locate o = some (.die ⟨o / 0x4000000, by omega⟩, o % 0x4000000) := by
  simp [locate, hd, hr]

/-- Only registers of a die block are shut with the error ring. -/
theorem ringShut_of_locate {s : State} {a : Agent} {o k : Nat} {b : Blk} (h : locate o = some (b, k))
    (hb : ∀ d, b ≠ .die d) : s.ringShut a o = false := by
  by_contra hs
  simp only [State.ringShut, Bool.not_eq_false, Bool.and_eq_true, decide_eq_true_eq] at hs
  obtain ⟨⟨⟨⟨-, hd⟩, -⟩, hr⟩, -⟩ := hs
  rw [locate_of_dieBlock hd (by omega)] at h
  cases h
  exact hb _ rfl

/-! ### An access of a register (R9, R12) -/

section Access
variable {s : State} {a : Agent} {o off k : Nat} {b : Blk} {r : RegRow} {v : Word}

theorem writeReg_of_reach (ha : s.regReach a off = .at o) (hs : s.ringShut a o = false) : s.writeReg a off v = s.putReg o v := by
  simp [State.writeReg, ha, hs]

theorem writeReg_of_no_path (h : s.regReach a off = .zero ∨ s.regReach a off = .none) : s.writeReg a off v = s := by
  obtain h | h := h <;> simp [State.writeReg, h]

theorem readOut_of_reach (ha : s.regReach a off = .at o) :
    s.readOut a off = (s.getReg a o).2.emit (.regRead a off (s.getReg a o).1) := by
  simp [State.readOut, State.readReg, ha]

theorem putReg_of_no_register (h : locate o = none ∨ ∃ b k, locate o = some (b, k) ∧ regRow b k = none) :
    s.putReg o v = s := by
  obtain h | ⟨b, k, h, hr⟩ := h
  · simp [State.putReg, h]
  · simp [State.putReg, h, hr]

theorem putReg_word (hl : locate o = some (b, k)) (hr : regRow b k = some r) (hw : r.wide = false) :
    s.putReg o v = s.putWord b r k v := by
  simp [State.putReg, hl, hr, hw]

theorem putReg_low (hl : locate o = some (b, k)) (hr : regRow b k = some r) (hw : r.wide = true) (hh : r.isHigh k = false) :
    s.putReg o v = { s with latch := SMap.put s.latch o v 0 } := by
  simp [State.putReg, hl, hr, hw, hh]

theorem putReg_high (hl : locate o = some (b, k)) (hr : regRow b k = some r) (hw : r.wide = true) (hh : r.isHigh k = true) :
    s.putReg o v = s.putPair b r (k - 4) (v ++ s.lowLatch (o - 4)) := by
  simp [State.putReg, hl, hr, hw, hh]

/-! ### Registers that only hold their fields (R12) -/

/-- Offset `k` of block `b` is none of those whose write has an effect of its own. -/
def OnlyFields (b : Blk) (k : Nat) : Prop :=
  (∃ d, b = .mortar d) ∨ (∃ d, b = .fwu d) ∨
    (∃ g, b = .course g ∧ k ∉ [0x0, 0x58, 0xA0, 0xC20, 0x1040, 0x1304, 0x2004, 0x2008, 0x2018, 0x201C, 0x300C, 0x3010, 0x3418,
      0x3814, 0x380C] ∧ (k < 0xC00 ∨ 0xC20 ≤ k)) ∨
    (∃ m, b = .mem m ∧ k ∉ [0x4, 0x10, 0x30, 0x88, 0x2018, 0x1014, 0x2008])

theorem putCourse_of_onlyFields {g : Course} (h : OnlyFields (.course g) k) :
    s.putCourse g r k v = s.putPlain (.course g) r k v := by
  obtain ⟨_, h⟩ | ⟨_, h⟩ | ⟨_, h, hk, hp⟩ | ⟨_, h, -⟩ := h <;> cases h
  have hp : ¬(0xC00 ≤ k ∧ k < 0xC20) := by omega
  simp only [List.mem_cons, List.not_mem_nil, or_false, not_or] at hk
  simp [State.putCourse, hk, hp]

theorem putMem_of_onlyFields {m : Stack} (h : OnlyFields (.mem m) k) : s.putMem m r k v = s.putPlain (.mem m) r k v := by
  obtain ⟨_, h⟩ | ⟨_, h⟩ | ⟨_, h, -⟩ | ⟨_, h, hk⟩ := h <;> cases h
  simp only [List.mem_cons, List.not_mem_nil, or_false, not_or] at hk
  simp [State.putMem, hk]

theorem putWord_of_onlyFields (h : OnlyFields b k) (hc : counters b k = none) : s.putWord b r k v = s.putPlain b r k v := by
  unfold State.putWord
  rw [hc]
  obtain ⟨d, rfl⟩ | ⟨d, rfl⟩ | ⟨g, rfl, -⟩ | ⟨m, rfl, -⟩ := id h
  · rfl
  · rfl
  · exact putCourse_of_onlyFields h
  · exact putMem_of_onlyFields h

theorem ne_die_of_onlyFields (h : OnlyFields b k) (d : Die) : b ≠ .die d := by
  rintro rfl
  simp [OnlyFields] at h

/-- A write by the access codes, bit by bit. -/
theorem RegRow.getLsbD_after (r : RegRow) (old v : Word) {i : Nat} (h : i < 32) :
    (r.after old v).getLsbD i = bitAfter r old v i := by
  simp only [RegRow.after, bitAfter, BitVec.getLsbD_or, BitVec.getLsbD_and, BitVec.getLsbD_not, BitVec.getLsbD_ofNat, h,
    decide_true, Bool.true_and]
  cases r.mask.testBit i <;> simp [Bool.and_comm]

end Access

theorem registerWrite_sets_fields : plainWrites := by
  intro s a off v o k b r ha hl hr hw hc hb
  have hb : OnlyFields b k := hb
  have ht : s.writeReg a off.toNat v = s.setReg o (r.after (s.reg o) v) := by
    rw [writeReg_of_reach ha (ringShut_of_locate hl (ne_die_of_onlyFields hb)), putReg_word hl hr hw, putWord_of_onlyFields hb hc,
      State.putPlain, base_add_of_locate hl]
  refine ⟨_, congrArg Host.Outcome.next ht, fun i hi => ?_, fun p hp => s.setReg_reg_ne hp _, rfl, rfl⟩
  rw [State.setReg_reg, r.getLsbD_after _ _ hi]

theorem registerWrite_without_register : noRegister := by
  intro s a off v
  refine ⟨fun o ha hn => ?_, fun hm ha => ?_, fun g ha hp => ?_, fun fn ha hu => ?_⟩
  · have hw : s.writeReg a off.toNat v = s := by
      simp [State.writeReg, ha, putReg_of_no_register hn]
    exact congrArg Host.Outcome.next hw
  · refine congrArg Host.Outcome.next (writeReg_of_no_path (.inl ?_))
    obtain ⟨g, rfl⟩ | rfl := ha <;> simp [State.regReach, hm]
  · exact congrArg Host.Outcome.next (writeReg_of_no_path (.inl (by simp [ha, State.regReach, hp])))
  · exact congrArg Host.Outcome.next (writeReg_of_no_path (.inr (by simp [ha, State.regReach, State.fnLive, hu])))

/-! ### 64-bit pairs (R10) -/

section Pairs
variable {s : State} {a : Agent} {o k : Nat} {b : Blk} {r : RegRow}

theorem lowLatch_put (w : Word) : ({ s with latch := SMap.put s.latch o w 0 } : State).lowLatch o = w :=
  SMap.get_put_same o w 0 s.latch

theorem lowLatch_put_ne {p : Nat} (h : p ≠ o) (w : Word) :
    ({ s with latch := SMap.put s.latch o w 0 } : State).lowLatch p = s.lowLatch p :=
  SMap.get_put_other h w 0 0 s.latch

theorem captureHigh_captured (w : Word) : (s.captureHigh a o w).captured a o = some w := by
  simp [State.captured, State.captureHigh]

theorem release_captured : (s.release a o).captured a o = none := by
  simp [State.captured, State.release]

/-- What is captured for another agent or another pair stands. -/
theorem captureHigh_captured_ne {q : Agent × Nat} (h : q ≠ (a, o)) (w : Word) :
    (s.captureHigh a o w).captured q.1 q.2 = s.captured q.1 q.2 := by
  have hf : (fun e : (Agent × Nat) × Word => !decide (e.1 = (a, o)) && decide (e.1 = q)) = fun e => e.1 == q := by
    funext e
    by_cases he : e.1 = q <;> simp [he, h]
  simp [State.captured, State.captureHigh, Ne.symm h, List.find?_filter, hf]

theorem lowWord_toNat (w : DWord) : lowWord w.toNat = w.setWidth 32 := by
  simp [lowWord, BitVec.ofNat_toNat]

theorem highWord_toNat (w : DWord) : highWord w.toNat = (w >>> 32).setWidth 32 := by
  apply BitVec.eq_of_toNat_eq
  simp [highWord, Nat.shiftRight_eq_div_pow]

/-- A pair that reports no state reads as what it holds. -/
theorem regValue_stored (hw : r.wide = true) (hn : s.live b k = none) : s.regValue b r k = ((s.reg64 (b.base + k)).toNat, s) := by
  simp [State.regValue, hn, hw]

theorem getReg_low (hl : locate o = some (b, k)) (hr : regRow b k = some r) (hw : r.wide = true) (ho : r.wo = false)
    (hh : r.isHigh k = false) (hn : s.live b k = none) :
    s.getReg a o = ((s.reg64 o).setWidth 32, s.captureHigh a o ((s.reg64 o >>> 32).setWidth 32)) := by
  simp [State.getReg, hl, hr, hw, ho, hh, regValue_stored hw hn, base_add_of_locate hl, lowWord_toNat, highWord_toNat]

theorem getReg_high_captured {c : Word} (hl : locate o = some (b, k)) (hr : regRow b k = some r) (hw : r.wide = true)
    (ho : r.wo = false) (hh : r.isHigh k = true) (hc : s.captured a (o - 4) = some c) :
    s.getReg a o = (c, s.release a (o - 4)) := by
  simp [State.getReg, hl, hr, hw, ho, hh, hc]

theorem getReg_high_stored (hl : locate o = some (b, k)) (hr : regRow b k = some r) (hw : r.wide = true)
    (ho : r.wo = false) (hh : r.isHigh k = true) (hc : s.captured a (o - 4) = none) (hn : s.live b (k - 4) = none)
    (hb : b.base + (k - 4) = o - 4) : s.getReg a o = ((s.reg64 (o - 4) >>> 32).setWidth 32, s) := by
  simp [State.getReg, hl, hr, hw, ho, hh, hc, regValue_stored hw hn, hb, highWord_toNat]

/-- A pair whose new value does nothing but stand in its register. -/
theorem putPair_stored (h : (∃ g, b = .course g ∧ k ≠ 0x2010) ∨ (∃ f, b = .far f) ∨ (∃ n, b = .net n) ∨ b = .host ∨ b = .pkg)
    (v : DWord) : s.putPair b r k v = s.setReg64 (b.base + k)
      ((s.reg64 (b.base + k) &&& ~~~BitVec.ofNat 64 r.mask) ||| (v &&& BitVec.ofNat 64 r.mask)) := by
  obtain ⟨g, rfl, hk⟩ | ⟨f, rfl⟩ | ⟨n, rfl⟩ | rfl | rfl := h
  · simp [State.putPair, hk]
  all_goals rfl

end Pairs

theorem pair_accesses : pairs := by
  intro s a off v o k b r ha hl hr hw
  refine ⟨fun hh hs => ?_, fun hh hk _ hb hx => ?_, fun ho hh _ hn => ?_, fun ho hh _ _ hb => ⟨fun c hc => ?_, fun hc hn => ?_⟩⟩
  · exact ⟨_, congrArg Host.Outcome.next ((writeReg_of_reach ha hs).trans (putReg_low hl hr hw hh)), lowLatch_put v,
      fun p hp => lowLatch_put_ne hp v, rfl⟩
  · have hd : ∀ d, b ≠ .die d := by
      rintro d rfl
      simp at hx
    have hx : (∃ g, b = .course g ∧ k - 4 ≠ 0x2010) ∨ (∃ f, b = .far f) ∨ (∃ n, b = .net n) ∨ b = .host ∨ b = .pkg :=
      hx.imp_left fun ⟨g, hg, hne⟩ => ⟨g, hg, by omega⟩
    refine ⟨_, congrArg Host.Outcome.next ((writeReg_of_reach ha (ringShut_of_locate hl hd)).trans
      ((putReg_high hl hr hw hh).trans (putPair_stored hx _))), ?_, fun p hp => ?_, rfl⟩
    · rw [hb, State.setReg64_reg64]
    · exact State.setReg64_reg64_ne _ (hb ▸ hp) _
  · refine ⟨_, congrArg Host.Outcome.next (readOut_of_reach ha), ?_⟩
    rw [getReg_low hl hr hw ho hh hn]
    exact ⟨rfl, captureHigh_captured _, fun q hq => captureHigh_captured_ne hq _, rfl⟩
  · refine ⟨_, congrArg Host.Outcome.next (readOut_of_reach ha), ?_⟩
    rw [getReg_high_captured hl hr hw ho hh hc]
    exact ⟨rfl, release_captured, rfl⟩
  · refine congrArg Host.Outcome.next ((readOut_of_reach ha).trans ?_)
    rw [getReg_high_stored hl hr hw ho hh hc hn hb]

/-! ### Counter controls (R113) -/

/-- From s to t only 64-bit counters at the offsets `cs` from `base` have counted, with the free values, the ticking counters and
the courses that this takes. -/
def CountsOnly (base : Nat) (cs : List Nat) (s t : State) : Prop :=
  (∀ p, (∀ c ∈ cs, p ≠ base + c) → t.reg64 p = s.reg64 p) ∧
    ∃ w k f x, t = { s with wide := w, ticking := k, freeCtr := f, courses := x }

section Counts
variable {s t u : State} {base c : Nat} {cs : List Nat}

theorem CountsOnly.refl (s : State) : CountsOnly base cs s s := ⟨fun _ _ => rfl, _, _, _, _, rfl⟩

theorem CountsOnly.trans (h : CountsOnly base cs s t) (h' : CountsOnly base cs t u) : CountsOnly base cs s u := by
  obtain ⟨hr, w, k, f, x, rfl⟩ := h
  obtain ⟨hr', w', k', f', x', rfl⟩ := h'
  exact ⟨fun p hp => (hr' p hp).trans (hr p hp), w', k', f', x', rfl⟩

theorem CountsOnly.reg (h : CountsOnly base cs s t) (p : Nat) : t.reg p = s.reg p := by
  obtain ⟨-, _, _, _, _, rfl⟩ := h
  rfl

theorem countsOnly_foldl {α : Type} {f : State → α → State} {l : List α} (hf : ∀ a ∈ l, ∀ u, CountsOnly base cs u (f u a)) :
    CountsOnly base cs s (l.foldl f s) := by
  induction l generalizing s with
  | nil => exact .refl s
  | cons a l ih =>
    simp only [List.mem_cons, forall_eq_or_imp] at hf
    exact (hf.1 s).trans (ih hf.2)

theorem countsOnly_count (h : c ∈ cs) (ctrl n : Nat) : CountsOnly base cs s (s.count base ctrl c n) := by
  unfold State.count
  split
  · exact .refl s
  · exact ⟨fun p hp => State.setReg64_reg64_ne _ (hp c h) _, _, _, _, _, rfl⟩

theorem countsOnly_elapse (h : c ∈ cs) (ctrl : Nat) (on : Bool) : CountsOnly base cs s (s.elapse base ctrl c on) := by
  have hu : CountsOnly base cs s s.used := ⟨fun _ _ => rfl, _, _, _, _, rfl⟩
  have hn := hu.trans (countsOnly_count (s := s.used) h ctrl s.fresh.toNat)
  unfold State.elapse
  split
  · split
    · exact hn
    · exact hn.trans ⟨fun _ _ => rfl, _, _, _, _, rfl⟩
  · exact .refl s

theorem countsOnly_cyclesNow {g : Course} (h : c ∈ cs) : CountsOnly (Blk.course g).base cs s (s.cyclesNow g c) := by
  unfold State.cyclesNow
  split
  · exact countsOnly_elapse h _ _
  · exact .refl s

theorem countsOnly_modStream (g : Course) (n : Nat) (f : Stream → Stream) : CountsOnly base cs s (s.modStream g n f) :=
  ⟨fun _ _ => rfl, _, _, _, _, rfl⟩

theorem countsOnly_rearmElapse (g : Course) (n : Nat) : CountsOnly base cs s (s.rearmElapse g n) := by
  unfold State.rearmElapse
  dsimp only
  split
  · exact ⟨fun _ _ => rfl, _, _, _, _, rfl⟩
  · exact .refl s

theorem countsOnly_rearmSettle (g : Course) (clear : Bool) : CountsOnly base cs s (s.rearmSettle g clear) := by
  have he := countsOnly_foldl (base := base) (cs := cs) (s := s) (f := fun t n => t.rearmElapse g n)
    (l := (s.course g).str.streams.map (·.1)) fun n _ u => countsOnly_rearmElapse g n
  unfold State.rearmSettle
  dsimp only
  split
  · exact he.trans (countsOnly_foldl fun n _ u => countsOnly_modStream g n _)
  · exact he

/-- Before a counter control is written, only what it controls has counted. -/
theorem countsOnly_settleCycles (b : Blk) (k : Nat) (clear : Bool) : CountsOnly b.base cs s (s.settleCycles b k cs clear) := by
  unfold State.settleCycles
  split
  · next g =>
    have hc : CountsOnly (Blk.course g).base cs s (cs.foldl (fun t c => t.cyclesNow g c) s) :=
      countsOnly_foldl fun c hc u => countsOnly_cyclesNow hc
    dsimp only
    split
    · exact hc.trans (countsOnly_rearmSettle g clear)
    · exact hc
  · exact .refl s

/-- Only a course's counters count cycles that are settled at a write. -/
theorem settleCycles_of_ne_course {b : Blk} (h : ∀ g, b ≠ .course g) (k : Nat) (clear : Bool) :
    s.settleCycles b k cs clear = s := by
  unfold State.settleCycles
  split
  · exact absurd rfl (h _)
  · rfl

end Counts

section Clear
variable {s : State} {base k p : Nat} {b : Blk} {cs : List Nat × List Nat} {l : List Nat}

theorem foldl_setReg64_reg64 (v : DWord) :
    (l.foldl (fun t c => t.setReg64 (base + c) v) s).reg64 p = if p ∈ l.map (base + ·) then v else s.reg64 p := by
  induction l generalizing s with
  | nil => rfl
  | cons c l ih =>
    rw [List.foldl_cons, ih]
    by_cases hp : p = base + c
    · simp [hp]
    · simp [hp, State.setReg64_reg64_ne]

theorem foldl_setReg_reg (v : Word) :
    (l.foldl (fun t c => t.setReg (base + c) v) s).reg p = if p ∈ l.map (base + ·) then v else s.reg p := by
  induction l generalizing s with
  | nil => rfl
  | cons c l ih =>
    rw [List.foldl_cons, ih]
    by_cases hp : p = base + c
    · simp [hp]
    · simp [hp, State.setReg_reg_ne]

theorem foldl_setReg64_frame (v : DWord) : ∃ w, l.foldl (fun t c => t.setReg64 (base + c) v) s = { s with wide := w } := by
  induction l generalizing s with
  | nil => exact ⟨_, rfl⟩
  | cons c l ih => exact ih (s := s.setReg64 (base + c) v)

theorem foldl_setReg_frame (v : Word) : ∃ m, l.foldl (fun t c => t.setReg (base + c) v) s = { s with regs := m } := by
  induction l generalizing s with
  | nil => exact ⟨_, rfl⟩
  | cons c l ih => exact ih (s := s.setReg (base + c) v)

/-- The counters `cs` of the block at `base` at 0. -/
def State.cleared (s : State) (base : Nat) (cs : List Nat × List Nat) : State :=
  cs.2.foldl (fun t c => t.setReg (base + c) 0) (cs.1.foldl (fun t c => t.setReg64 (base + c) 0) s)

theorem cleared_frame : ∃ m w, s.cleared base cs = { s with regs := m, wide := w } := by
  obtain ⟨w, hw⟩ := foldl_setReg64_frame (s := s) (base := base) (l := cs.1) 0
  obtain ⟨m, hm⟩ := foldl_setReg_frame (s := { s with wide := w }) (base := base) (l := cs.2) 0
  exact ⟨m, w, by rw [State.cleared, hw, hm]⟩

theorem cleared_reg64 : (s.cleared base cs).reg64 p = if p ∈ cs.1.map (base + ·) then 0 else s.reg64 p := by
  rw [← foldl_setReg64_reg64]
  obtain ⟨m, hm⟩ := foldl_setReg_frame (s := cs.1.foldl (fun t c => t.setReg64 (base + c) 0) s) (base := base) (l := cs.2) 0
  rw [State.cleared, hm]
  rfl

theorem cleared_reg : (s.cleared base cs).reg p = if p ∈ cs.2.map (base + ·) then 0 else s.reg p := by
  obtain ⟨w, hw⟩ := foldl_setReg64_frame (s := s) (base := base) (l := cs.1) 0
  rw [State.cleared, foldl_setReg_reg, hw]
  rfl

/-- A write of 1 to CLEAR with FREEZE as given: the counters are settled and cleared, and FREEZE is stored. -/
theorem wrCounters_clear (freeze : Bool) : s.wrCounters b k cs (if freeze then 3 else 2) =
    ((s.settleCycles b k cs.1 true).cleared b.base cs).setReg (b.base + k) (if freeze then 1 else 0) := by
  cases freeze <;> rfl

/-- A control register is none of the counters that it controls: where it controls 32-bit counters, they lie above it. -/
theorem counters_ne_control {c : Nat} (h : counters b k = some cs) (hc : c ∈ cs.2) : c ≠ k := by
  unfold counters at h
  dsimp only at h
  (repeat' split at h) <;> cases h <;> simp at hc <;> omega

theorem counterClear_of_control {a : Agent} {off o : Nat} {r : RegRow} {freeze : Bool} (ha : s.regReach a off = .at o)
    (hl : locate o = some (b, k)) (hr : regRow b k = some r) (hw : r.wide = false) (hc : counters b k = some cs) :
    counterClear a off freeze s = s.wrCounters b k cs (if freeze then 3 else 2) := by
  simp [counterClear, ha, hl, hc, putReg_word hl hr hw, State.putWord]

end Clear

theorem counterClear_clears : countersClear := by
  intro s a off freeze o k b r cs ha hl hr hw hb hc
  have hx : counterClear a off.toNat freeze s =
      ((s.settleCycles b k cs.1 true).cleared b.base cs).setReg o (if freeze then 1 else 0) := by
    rw [counterClear_of_control ha hl hr hw hc, wrCounters_clear, hb]
  have hs := countsOnly_settleCycles (s := s) (cs := cs.1) b k true
  refine ⟨_, congrArg Host.Outcome.next hx, fun c hc1 => ?_, fun c hc2 => ?_, State.setReg_reg _ _ _, fun p hp hn => ?_,
    fun p hn => ?_, ?_, fun hg => ?_⟩
  · rw [State.setReg_reg64, cleared_reg64, if_pos (List.mem_map_of_mem hc1)]
  · have hne : b.base + c ≠ o := by
      have := counters_ne_control hc hc2
      omega
    rw [State.setReg_reg_ne _ hne, cleared_reg, if_pos (List.mem_map_of_mem hc2)]
  · have hm : p ∉ cs.2.map (b.base + ·) := by
      simpa [eq_comm] using hn
    rw [State.setReg_reg_ne _ hp, cleared_reg, if_neg hm, hs.reg]
  · have hm : p ∉ cs.1.map (b.base + ·) := by
      simpa [eq_comm] using hn
    rw [State.setReg_reg64, cleared_reg64, if_neg hm, hs.1 p hn]
  · obtain ⟨m, w, he⟩ := cleared_frame (s := s.settleCycles b k cs.1 true) (base := b.base) (cs := cs)
    obtain ⟨-, _, _, _, _, ht⟩ := hs
    rw [he, ht]
    rfl
  · obtain ⟨m, w, he⟩ := cleared_frame (s := s.settleCycles b k cs.1 true) (base := b.base) (cs := cs)
    rw [he, settleCycles_of_ne_course hg]
    exact ⟨rfl, rfl⟩

/-! ### Accesses of BAR0 that are not aligned 32-bit accesses (R9, R552) -/

theorem count_frame (s : State) (base ctrl cnt n : Nat) : ∃ w, s.count base ctrl cnt n = { s with wide := w } := by
  unfold State.count
  split
  · exact ⟨_, rfl⟩
  · exact ⟨_, rfl⟩

theorem capture1_frame (s : State) (o info addr : Nat) (q : Option Nat) :
    ∃ m w, s.capture1 o info q addr = { s with regs := m, wide := w } := by
  unfold State.capture1
  split
  · exact ⟨_, _, rfl⟩
  · cases q with
    | none => exact ⟨_, _, rfl⟩
    | some p => exact ⟨_, _, rfl⟩

/-- An outcome of R552 is a report of the host interface, and changes beside it registers only. -/
theorem hostFault_frame (s : State) (code : BitVec 16) (fn : Fin 5) (bar addr : Nat) : ∃ m w,
    s.hostFault code fn bar addr =
      { s.raise 4 { plainReport code 0x11 0 0xF with info := BitVec.ofNat 64 addr } with regs := m, wide := w } := by
  simp only [State.hostFault, State.raiseWith]
  generalize s.raise 4 { plainReport code 0x11 0 0xF with info := BitVec.ofNat 64 addr } = t
  obtain ⟨w, hw⟩ := count_frame t Blk.host.base 0x28 0x20 1
  rw [hw]
  obtain ⟨m, w', hm⟩ := capture1_frame { t with wide := w } (Blk.host.base + 0x10)
    (code.toNat + 65536 * fn.val + 524288 * bar) addr (some (Blk.host.base + 0x18))
  exact ⟨m, w', hm⟩

theorem bar0Misaligned_eq {s : State} {fn : Fin 5} {off size : Nat} {write : Bool} (hf : s.fnLive fn = true) (hr : s.ready = true)
    (ho : off < 0x4000000) (hm : off % 4 ≠ 0 ∨ size ≠ 4) : bar0Misaligned fn off size write s =
      if write then s.hostFault 0x1007 fn 0 off
      else (s.hostFault 0x1007 fn 0 off).emit (.completion fn false false (List.replicate size 0)) := by
  have hspan : ¬(if fn = 0 then 0x20000000 else 0x4000000) ≤ off := by
    split <;> omega
  have ha : ¬(off % 4 = 0 ∧ size = 4) := by omega
  simp [bar0Misaligned, hf, hr, hspan, ha]

theorem hostBar0Misaligned_raises : misaligned := by
  intro s fn off size write hf hr ho hm
  obtain ⟨m, w, he⟩ := hostFault_frame s 0x1007 fn 0 off.toNat
  refine ⟨_, congrArg Host.Outcome.next (bar0Misaligned_eq hf hr ho hm), ?_⟩
  rw [he]
  cases write with
  | true => exact ⟨⟨_, congrArg _ (State.raise_die _ _ _), rfl, rfl⟩, rfl, rfl, rfl, rfl, (List.append_nil _).symm⟩
  | false => exact ⟨⟨_, congrArg _ (State.raise_die _ _ _), rfl, rfl⟩, rfl, rfl, rfl, rfl, rfl⟩

/-- Settles O53: writes of fields, accesses that reach no register, pairs, counter controls, and misaligned host accesses, each by
the equation of its access. -/
theorem registerAccess : Obligations.RegisterAccess :=
  ⟨registerWrite_sets_fields, registerWrite_without_register, pair_accesses, counterClear_clears, hostBar0Misaligned_raises⟩

end Sys2Proof.Machine

/-! SUPPORT. Canon: every step keeps the canonical form (see Keep). -/

namespace Sys2Proof.Machine

/-- Every command keeps the canonical form and the queue of waiting commands, each by the lemma of its operation. -/
theorem exec_keep {p : Kept} {s : State} (h : s.Keep p) : ∀ c : Instr, OutKeep p (exec c s)
  | .registerWrite .. => execRegisterWrite_keep h
  | .regPairLowWrite .. => execRegPairLowWrite_keep h
  | .regPairHighWrite .. => execRegPairHighWrite_keep h
  | .regPairLowRead .. => execRegPairLowRead_keep h
  | .regPairHighRead .. => execRegPairHighRead_keep h
  | .hostBar0Misaligned .. => execHostBar0Misaligned_keep h
  | .counterClear .. => execCounterClear_keep h
  | .add .. => execAdd_keep h
  | .sub .. => execSub_keep h
  | .and .. => execAnd_keep h
  | .or .. => execOr_keep h
  | .xor .. => execXor_keep h
  | .shl .. => execShl_keep h
  | .shr .. => execShr_keep h
  | .sra .. => execSra_keep h
  | .mul .. => execMul_keep h
  | .mulhu .. => execMulhu_keep h
  | .min .. => execMin_keep h
  | .max .. => execMax_keep h
  | .minu .. => execMinu_keep h
  | .maxu .. => execMaxu_keep h
  | .addi .. => execAddi_keep h
  | .andi .. => execAndi_keep h
  | .ori .. => execOri_keep h
  | .xori .. => execXori_keep h
  | .shli .. => execShli_keep h
  | .shri .. => execShri_keep h
  | .srai .. => execSrai_keep h
  | .li .. => execLi_keep h
  | .lui .. => execLui_keep h
  | .ld .. => execLd_keep h
  | .ldw .. => execLdw_keep h
  | .st .. => execSt_keep h
  | .stw .. => execStw_keep h
  | .amov .. => execAmov_keep h
  | .aaddi .. => execAaddi_keep h
  | .aadd .. => execAadd_keep h
  | .smov .. => execSmov_keep h
  | .tallyRead .. => execTallyRead_keep h
  | .cmp .. => execCmp_keep h
  | .cmpi .. => execCmpi_keep h
  | .plog .. => execPlog_keep h
  | .jmp .. => execJmp_keep h
  | .jr .. => execJr_keep h
  | .eret .. => execEret_keep h
  | .halt .. => execHalt_keep h
  | .brk .. => execBrk_keep h
  | .nop .. => execNop_keep h
  | .tallyAdd .. => execTallyAdd_keep h
  | .tallySet .. => execTallySet_keep h
  | .tallyWait .. => execTallyWait_keep h
  | .fence .. => execFence_keep h
  | .leaveHold .. => execLeaveHold_keep h
  | .leaveRel .. => execLeaveRel_keep h
  | .lockAcq .. => execLockAcq_keep h
  | .lockRel .. => execLockRel_keep h
  | .rngBind .. => execRngBind_keep h
  | .rngRelease .. => execRngRelease_keep h
  | .diagSelftest .. => execDiagSelftest_keep h
  | .msnPass .. => execMsnPass_keep h
  | .msnTile .. => execMsnTile_keep h
  | .msnParityEncode .. => execMsnParityEncode_keep h
  | .msnParityDecode .. => execMsnParityDecode_keep h
  | .tblBuild .. => execTblBuild_keep h
  | .strArm .. => execStrArm_keep h
  | .strRearm .. => execStrRearm_keep h
  | .strResume .. => execStrResume_keep h
  | .walkLoad .. => execWalkLoad_keep h
  | .vecAdd .. => execVecAdd_keep h
  | .vecMul .. => execVecMul_keep h
  | .vecFma .. => execVecFma_keep h
  | .vecMax .. => execVecMax_keep h
  | .vecMin .. => execVecMin_keep h
  | .vecCvt .. => execVecCvt_keep h
  | .vecPadd .. => execVecPadd_keep h
  | .vecSum .. => execVecSum_keep h
  | .vecFn .. => execVecFn_keep h
  | .vecQbw16 .. => execVecQbw16_keep h
  | .vecQidx .. => execVecQidx_keep h
  | .fwuMm .. => execFwuMm_keep h
  | .drnOut .. => execDrnOut_keep h
  | .drnPartial .. => execDrnPartial_keep h
  | .redSend .. => execRedSend_keep h
  | .redAccum .. => execRedAccum_keep h
  | .redRing .. => execRedRing_keep h
  | .updPass1 .. => execUpdPass1_keep h
  | .updPass2 .. => execUpdPass2_keep h
  | .queueAppend .. => execQueueAppend_keep h
  | .engineInstrStart .. => execEngineInstrStart_keep h
  | .instrComplete .. => execInstrComplete_keep h
  | .completionRecordWrite .. => execCompletionRecordWrite_keep h
  | .waitExpiry .. => execWaitExpiry_keep h
  | .queueWaitExpiry .. => execQueueWaitExpiry_keep h
  | .ccrStart .. => execCcrStart_keep h
  | .ccrStop .. => execCcrStop_keep h
  | .courseReset .. => execCourseReset_keep h
  | .ibufInv .. => execIbufInv_keep h
  | .queueResume .. => execQueueResume_keep h
  | .queueFlush .. => execQueueFlush_keep h
  | .tallyAddReg .. => execTallyAddReg_keep h
  | .tallyPoisonClear .. => execTallyPoisonClear_keep h
  | .cqEnable .. => execCqEnable_keep h
  | .tallyAddRemote .. => execTallyAddRemote_keep h
  | .lockstepMismatch .. => execLockstepMismatch_keep h
  | .passBlockEnter .. => execPassBlockEnter_keep h
  | .creditEarlyReturn .. => execCreditEarlyReturn_keep h
  | .accumulationStep .. => execAccumulationStep_keep h
  | .residueCheckVisit .. => execResidueCheckVisit_keep h
  | .replayBegin .. => execReplayBegin_keep h
  | .replayEnd .. => execReplayEnd_keep h
  | .tblRunWritten .. => execTblRunWritten_keep h
  | .slotSwap .. => execSlotSwap_keep h
  | .drainRowRead .. => execDrainRowRead_keep h
  | .drainComplete .. => execDrainComplete_keep h
  | .fwuAccept .. => execFwuAccept_keep h
  | .fwuMmRun .. => execFwuMmRun_keep h
  | .transferForm .. => execTransferForm_keep h
  | .transferComplete .. => execTransferComplete_keep h
  | .ringCredit .. => execRingCredit_keep h
  | .strCmdResume .. => execStrCmdResume_keep h
  | .strCmdRelease .. => execStrCmdRelease_keep h
  | .tlbInvalidate .. => execTlbInvalidate_keep h
  | .ptBaseWrite .. => execPtBaseWrite_keep h
  | .bwSplitWrite .. => execBwSplitWrite_keep h
  | .outstandingWrite .. => execOutstandingWrite_keep h
  | .stallLimitExpiry .. => execStallLimitExpiry_keep h
  | .deadlockProbeHop .. => execDeadlockProbeHop_keep h
  | .bamongBlockDecoded .. => execBamongBlockDecoded_keep h
  | .memAccess .. => execMemAccess_keep h
  | .patrolVisit .. => execPatrolVisit_keep h
  | .retireGo .. => execRetireGo_keep h
  | .retireMigrationDone .. => execRetireMigrationDone_keep h
  | .raRequestArrive .. => execRaRequestArrive_keep h
  | .adderArbPhase .. => execAdderArbPhase_keep h
  | .raAdd .. => execRaAdd_keep h
  | .raOutcomeArrive .. => execRaOutcomeArrive_keep h
  | .redNoticeArrive .. => execRedNoticeArrive_keep h
  | .lockRequestArrive .. => execLockRequestArrive_keep h
  | .lockGrant .. => execLockGrant_keep h
  | .lockWaitTimeout .. => execLockWaitTimeout_keep h
  | .lockLeaseExpiry .. => execLockLeaseExpiry_keep h
  | .lockRelArrive .. => execLockRelArrive_keep h
  | .lockRenewalSend .. => execLockRenewalSend_keep h
  | .lockRenewalArrive .. => execLockRenewalArrive_keep h
  | .lockBreakNotice .. => execLockBreakNotice_keep h
  | .lockResetSweep .. => execLockResetSweep_keep h
  | .tornClear .. => execTornClear_keep h
  | .farAccess .. => execFarAccess_keep h
  | .cxlLaneFail .. => execCxlLaneFail_keep h
  | .cxlLinkLoss .. => execCxlLinkLoss_keep h
  | .farKeyLoad .. => execFarKeyLoad_keep h
  | .farKeyErase .. => execFarKeyErase_keep h
  | .farRegionEnable .. => execFarRegionEnable_keep h
  | .updSlicePartial .. => execUpdSlicePartial_keep h
  | .updRecord .. => execUpdRecord_keep h
  | .updAbort .. => execUpdAbort_keep h
  | .raBlocks .. => execRaBlocks_keep h
  | .raOutcome .. => execRaOutcome_keep h
  | .ringReady .. => execRingReady_keep h
  | .ringPart .. => execRingPart_keep h
  | .ringCopy .. => execRingCopy_keep h
  | .priv .. => execPriv_keep h
  | .ringWaitExpiry .. => execRingWaitExpiry_keep h
  | .maxclr .. => execMaxclr_keep h
  | .mcMaxclr .. => execMcMaxclr_keep h
  | .portLaneFail .. => execPortLaneFail_keep h
  | .roceFrameReceive .. => execRoceFrameReceive_keep h
  | .plinthFrame .. => execPlinthFrame_keep h
  | .lctDataReceive .. => execLctDataReceive_keep h
  | .lctSackReceive .. => execLctSackReceive_keep h
  | .lctNackReceive .. => execLctNackReceive_keep h
  | .lctProbeReceive .. => execLctProbeReceive_keep h
  | .lctProbeReplyReceive .. => execLctProbeReplyReceive_keep h
  | .lctAckDelayExpiry .. => execLctAckDelayExpiry_keep h
  | .lctRtoExpiry .. => execLctRtoExpiry_keep h
  | .lctIdleExpiry .. => execLctIdleExpiry_keep h
  | .lctSegmentSend .. => execLctSegmentSend_keep h
  | .connOpen .. => execConnOpen_keep h
  | .connClose .. => execConnClose_keep h
  | .connSwitch .. => execConnSwitch_keep h
  | .netKeyLoad .. => execNetKeyLoad_keep h
  | .netKeyErase .. => execNetKeyErase_keep h
  | .arbitrationPhase .. => execArbitrationPhase_keep h
  | .budgetWrite .. => execBudgetWrite_keep h
  | .thermalReading .. => execThermalReading_keep h
  | .pkgCapChange .. => execPkgCapChange_keep h
  | .powerCapApply .. => execPowerCapApply_keep h
  | .pllLost .. => execPllLost_keep h
  | .pllRelockEnd .. => execPllRelockEnd_keep h
  | .pllSwitchCmd .. => execPllSwitchCmd_keep h
  | .refclkLoss => execRefclkLoss_keep h
  | .refclkRestored => execRefclkRestored_keep h
  | .selftestPeriodic .. => execSelftestPeriodic_keep h
  | .selftestComplete .. => execSelftestComplete_keep h
  | .courseFence .. => execCourseFence_keep h
  | .arrayReadmit .. => execArrayReadmit_keep h
  | .sramScrubVisit .. => execSramScrubVisit_keep h
  | .mortarLaneFail .. => execMortarLaneFail_keep h
  | .flitCrcFail .. => execFlitCrcFail_keep h
  | .errorReport .. => execErrorReport_keep h
  | .errorRingWrite .. => execErrorRingWrite_keep h
  | .errorRingEnable .. => execErrorRingEnable_keep h
  | .overflowFlush .. => execOverflowFlush_keep h
  | .packageReset => execPackageReset_keep h
  | .bootStart .. => execBootStart_keep h
  | .bootStepTimeout => execBootStepTimeout_keep h
  | .pcieRetrainTimer .. => execPcieRetrainTimer_keep h
  | .failureRecord .. => execFailureRecord_keep h
  | .retryPrimary .. => execRetryPrimary_keep h
  | .perst .. => execPerst_keep h
  | .flr .. => execFlr_keep h
  | .hostBar2Access .. => execHostBar2Access_keep h
  | .doorbellWrite .. => execDoorbellWrite_keep h
  | .hostReadCompletion .. => execHostReadCompletion_keep h
  | .hostCplTimeout .. => execHostCplTimeout_keep h
  | .kwkDerive .. => execKwkDerive_keep h
  | .kwkDeriveDone => execKwkDeriveDone_keep h
  | .kwkClear .. => execKwkClear_keep h
  | .mboxRingEnable .. => execMboxRingEnable_keep h
  | .mboxTxSend => execMboxTxSend_keep h
  | .thermtripAnalog .. => execThermtripAnalog_keep h
  | .localAckTimeout .. => execLocalAckTimeout_keep h
  | .unplannedPowerLoss => execUnplannedPowerLoss_keep h
  | .comparatorRelease => execComparatorRelease_keep h
  | .configurationSpaceWrite .. => execConfigurationSpaceWrite_keep h
  | .msixTableWrite .. => execMsixTableWrite_keep h
  | .pcieLaneFailure .. => execPcieLaneFailure_keep h

/-- So does the canonical form of a state, through a command. -/
theorem exec_canon {c : Instr} {s t : State} (hs : s.canon = true) (h : exec c s = .next t) : t.canon = true :=
  (State.keep_kept.mp (exec_keep s.keep_self c t h)).1 hs

/-- Settles O3: the front command keeps the canonical form, which does not speak of the queue. -/
theorem stepsKeepCanonicalForm : Obligations.StepsKeepCanonicalForm := by
  intro s t hs h
  unfold step at h
  split at h
  · cases h
    exact hs
  · next c rest _ => exact exec_canon (s := { s with pending := rest }) hs h

end Sys2Proof.Machine

/-! SUPPORT. CourseMap: the course of a register block, and the physical array of a logical array (R24, R25). -/

namespace Sys2Proof.Machine

/-! ### Logical arrays (R25) -/

/-- The member at place j of the numbers of a range that `q` picks has j such numbers below it. -/
theorem countP_below_filter_range {q : Nat → Bool} {n j : Nat} (h : j < ((List.range n).filter q).length) :
    (List.range ((List.range n).filter q)[j]).countP q = j := by
  induction n with
  | zero => simp at h
  | succ n ih =>
    simp only [List.range_succ, List.filter_append] at h ⊢
    by_cases hj : j < ((List.range n).filter q).length
    · rw [List.getElem_append_left hj]
      exact ih hj
    · cases hq : q n with
      | false => simp [hq, hj] at h
      | true =>
        have he : j = ((List.range n).filter q).length := by
          simp [hq] at h
          omega
        subst he
        simp [hq, List.countP_eq_length_filter]

section
variable {a : ArrayState} {j : Nat}

theorem ArrayState.logical_eq : a.logical = min 8 ((List.range 9).countP fun p => a.mapped.getLsbD p) := by
  rw [List.countP_eq_length_filter]
  rfl

theorem ArrayState.phys_eq_getElem (hl : j < a.physical.length) : a.phys j = a.physical[j] := by
  simp [ArrayState.phys, hl]

theorem ArrayState.lt_physical_length (h : j < a.logical) : j < a.physical.length :=
  lt_of_lt_of_le h (min_le_right _ _)

theorem ArrayState.mapped_phys (h : j < a.logical) : a.mapped.getLsbD (a.phys j) = true := by
  have hl := ArrayState.lt_physical_length h
  rw [ArrayState.phys_eq_getElem hl]
  exact List.of_mem_filter (List.getElem_mem hl)

theorem ArrayState.countP_below_phys (h : j < a.logical) :
    (List.range (a.phys j)).countP (fun p => a.mapped.getLsbD p) = j := by
  have hl := ArrayState.lt_physical_length h
  rw [ArrayState.phys_eq_getElem hl]
  exact countP_below_filter_range hl

theorem ArrayState.physical_of_all (h : a.mapped = 0x1FF#9) : a.physical = List.range 9 := by
  rw [ArrayState.physical, h]
  rfl

end

/-! ### The register block of a course (R24, R563) -/

theorem locate_course (d : CDie) (k : Fin 8) {o : Nat} (ho : o < 0x100000) :
    locate (d.val * 0x4000000 + 0x100000 * (k.val + 1) + o) = some (.course (courseOf d k), o) := by
  have hd := d.isLt
  have hk := k.isLt
  have hdie : (d.val * 0x4000000 + 0x100000 * (k.val + 1) + o) / 0x4000000 = d.val := by omega
  have hoff : (d.val * 0x4000000 + 0x100000 * (k.val + 1) + o) % 0x4000000 = 0x100000 * (k.val + 1) + o := by omega
  have hnum : (0x100000 * (k.val + 1) + o) / 0x100000 - 1 = k.val := by omega
  have hin : (0x100000 * (k.val + 1) + o) % 0x100000 = o := by
    rw [Nat.mul_add_mod, Nat.mod_eq_of_lt ho]
  have hlo : ¬0x100000 * (k.val + 1) + o < 0x100000 := by omega
  have hhi : 0x100000 * (k.val + 1) + o < 0x900000 := by omega
  simp only [locate, hdie, hoff, hd, hlo, hhi, hin, hnum, dite_true, if_false]
  rfl

theorem reset_course (g : Course) : State.reset.course g = CourseState.reset := by
  simp [State.course, State.reset, Vector.get_eq_getElem]

/-- Settles O33: the blocks by arithmetic, the arrays because `physical` lists the mapped arrays in order. -/
theorem coursesAndArraysMap : Obligations.CoursesAndArraysMap := by
  refine ⟨fun d k => ⟨rfl, fun o ho => locate_course d k ho⟩, fun a => ⟨ArrayState.logical_eq, fun j hj => ?_, fun hm => ?_⟩,
    fun g => ?_⟩
  · exact ⟨ArrayState.mapped_phys hj, ArrayState.countP_below_phys hj⟩
  · have hp := ArrayState.physical_of_all hm
    refine ⟨by simp [ArrayState.logical, hp], fun j hj => ?_⟩
    have h9 : j < (List.range 9).length := by
      simp
      omega
    rw [ArrayState.phys, hp, List.getD_eq_getElem _ _ h9, List.getElem_range]
  · rw [reset_course]
    exact ⟨rfl, rfl⟩

end Sys2Proof.Machine

/-! SUPPORT. Reach: what an access of a course controller reaches, by region of the address map, and how its checks answer
(R29 to R36, R203, R209). -/

namespace Sys2Proof.Machine

/-! ### The regions of the map (R29) -/

section
variable {a : Nat}

theorem regionOf_near (h : a < 0x8000000000) : ∃ k, regionOf a = .near k := by
  simp [regionOf, nearEnd, h]

theorem regionOf_far (h : 0x10000000000 ≤ a) (h' : a < 0x50000000000) : ∃ l, regionOf a = .far l := by
  have hn : ¬a < 0x8000000000 := by omega
  simp [regionOf, nearEnd, farBase, hn, h, h']

theorem regionOf_regs (h : 0x1F0000000000 ≤ a) (h' : a < 0x1F0020000000) : regionOf a = .regs := by
  have hn : ¬a < 0x8000000000 := by omega
  have hf : ¬a < 0x50000000000 := by omega
  have hs : ¬a < 0x100040000000 := by omega
  simp [regionOf, nearEnd, farBase, sramBase, regBase, hn, hf, hs, h, h']

/-- Staging SRAM, host memory or a hole: no access of a controller goes there (R209). -/
def Region.shut : Region → Prop
  | .sram _ | .host | .none => True
  | _ => False

theorem regionOf_shut (hn : 0x8000000000 ≤ a) (hf : a < 0x10000000000 ∨ 0x50000000000 ≤ a)
    (hr : a < 0x1F0000000000 ∨ 0x1F0020000000 ≤ a) : (regionOf a).shut := by
  have hn' : ¬a < nearEnd := by simpa [nearEnd] using hn
  have hf' : ¬(farBase ≤ a ∧ a < farBase + 0x40000000000) := by
    simp only [farBase]
    omega
  have hr' : ¬(regBase ≤ a ∧ a < regBase + 0x20000000) := by
    simp only [regBase]
    omega
  unfold regionOf
  rw [dif_neg hn', dif_neg hf', if_neg hr']
  repeat' split
  all_goals trivial

end

/-! ### Reach in whole-package mode (R35, R36, R209) -/

section
variable {s : State} {g : Course} {a n p : Nat}

theorem target_of_shut (hw : s.parted = false) (hr : (regionOf a).shut) : s.target g a n = none := by
  have hp : s.physOf (g.val / 8) a = some a := by simp [State.physOf, hw]
  cases h : regionOf a with
  | near k => exact absurd hr (by simp [h, Region.shut])
  | far l => exact absurd hr (by simp [h, Region.shut])
  | regs => exact absurd hr (by simp [h, Region.shut])
  | sram k => simp [State.target, hp, h]
  | host => simp [State.target, hp, h]
  | none => simp [State.target, hp, h]

theorem target_near (hw : s.parted = false) (ha : a < 0x8000000000) :
    s.target g a n = if s.nearOk a n then some (.mem a) else none := by
  obtain ⟨k, hk⟩ := regionOf_near ha
  simp [State.target, State.physOf, hw, hk]

theorem target_far (hw : s.parted = false) (ha : 0x10000000000 ≤ a) (ha' : a < 0x50000000000) :
    s.target g a n = if s.farOk a n then some (.mem a) else none := by
  obtain ⟨l, hl⟩ := regionOf_far ha ha'
  simp [State.target, State.physOf, hw, hl]

theorem target_regs (hw : s.parted = false) (ha : 0x1F0000000000 ≤ a) (ha' : a < 0x1F0020000000) :
    s.target g a n = if n = 4 ∧ a + n ≤ 0x1F0020000000 then some (.reg (a - 0x1F0000000000)) else none := by
  have hp : s.physOf (g.val / 8) a = some a := by simp [State.physOf, hw]
  simp only [State.target, hp, regionOf_regs ha ha', hw, Bool.not_false, true_and]
  rfl

theorem accesses_reach : accessReach := by
  intro s g a n hw
  refine ⟨target_near hw, target_far hw, fun hn hf => target_of_shut hw (regionOf_shut hn (by omega) (by omega)),
    fun hf hr => target_of_shut hw (regionOf_shut (by omega) (by omega) (by omega)),
    fun hr => target_of_shut hw (regionOf_shut (by omega) (by omega) (by omega)), fun ha ha' hn => ?_, fun ha ha' => ?_⟩
  · rw [target_regs hw ha ha', if_neg (by simp [hn])]
  · rw [target_regs hw ha (by omega), if_pos ⟨rfl, ha'⟩]

/-! ### The checks of an access (R203 step 5, R209) -/

theorem dataAddr_eq_effAddr (s : State) (g : Course) (w : BitVec 56) : dataAddr s g w = (s.course g).effAddr w := by
  have hf : fld w 31 0 = (w.setWidth 32).toNat := by simp [fld]
  have hv : sext 32 (fld w 31 0) = (imm64 w).toInt := by
    rw [imm64, BitVec.toInt_signExtend_of_le (by decide), BitVec.toInt_eq_toNat_cond, hf, sext]
    split <;> split <;> omega
  rw [dataAddr, hv, BitVec.ofInt_add, BitVec.ofInt_natCast, BitVec.ofNat_toNat, BitVec.setWidth_eq, CourseState.effAddr,
    ← BitVec.signExtend_eq_setWidth_of_le _ (by decide)]
  rfl

theorem State.fetch_target : (s.fetch g).1.target g a n = s.target g a n := by
  obtain ⟨b, hb⟩ := s.fetch_fst g
  rw [hb]
  rfl

theorem State.fetch_effAddr (w : BitVec 56) : ((s.fetch g).1.course g).effAddr w = (s.course g).effAddr w := by
  obtain ⟨b, hb⟩ := s.fetch_fst g
  simp [hb, CourseState.effAddr, CourseState.ra]

theorem State.fetch_dirty : (s.fetch g).1.dirty p n = s.dirty p n := by
  obtain ⟨b, hb⟩ := s.fetch_fst g
  rw [hb]
  rfl

theorem readAny_near (hp : p < nearEnd) : s.readAny p n = (s.bytes p n, s.dirty p n, s) := by
  obtain ⟨k, hk⟩ := regionOf_near hp
  simp [State.readAny, hk]

end

section
variable {s : State} {g : Course} {w : BitVec 56} {n p : Nat} {body : State → Target → Addr → Act}

theorem execM_unreached (hi : Issues s g w [(42, 32)] false) (ht : s.target g (dataAddr s g w).toNat n = none) :
    execM n body g w s = (s.fetch g).1.takeException g 0x0504 0x8 ((dataAddr s g w).setWidth 64) := by
  rw [dataAddr_eq_effAddr] at ht ⊢
  rw [execM, State.issue_runs hi.running hi.fetched hi.assigned hi.legal hi.taken]
  simp [State.fetch_effAddr, State.fetch_target, ht, State.precise]

theorem execM_misaligned (hi : Issues s g w [(42, 32)] false) (ht : s.target g (dataAddr s g w).toNat n ≠ none)
    (ha : (dataAddr s g w).toNat % n ≠ 0) :
    execM n body g w s = (s.fetch g).1.takeException g 0x0503 0x8 ((dataAddr s g w).setWidth 64) := by
  obtain ⟨x, hx⟩ := Option.ne_none_iff_exists'.mp ht
  rw [dataAddr_eq_effAddr] at hx ha ⊢
  rw [execM, State.issue_runs hi.running hi.fetched hi.assigned hi.legal hi.taken]
  simp [State.fetch_effAddr, State.fetch_target, hx, ha, State.precise]

/-- An access that reaches nothing faults ISCON_ADDRESS, a misaligned one ISCON_ALIGN. -/
theorem access_faults {i : Instr} (hx : exec i s = .next (execM n body g w s)) (hi : Issues s g w [(42, 32)] false) :
    (s.target g (dataAddr s g w).toNat n = none → Faults i s g 0x0504 0x8 ((dataAddr s g w).setWidth 64)) ∧
    (s.target g (dataAddr s g w).toNat n ≠ none → (dataAddr s g w).toNat % n ≠ 0 →
      Faults i s g 0x0503 0x8 ((dataAddr s g w).setWidth 64)) :=
  ⟨fun ht => hx.trans (congrArg _ (execM_unreached hi ht)), fun ht ha => hx.trans (congrArg _ (execM_misaligned hi ht ha))⟩

/-- A load that finds poisoned near memory faults and writes no register. -/
theorem execLoad_poisoned (hi : Issues s g w [(42, 32)] false) (ht : s.target g (dataAddr s g w).toNat n = some (.mem p))
    (ha : (dataAddr s g w).toNat % n = 0) (hp : p < nearEnd) (hd : s.dirty p n = true) :
    execLoad n g w s = (s.fetch g).1.takeException g 0x0506 0x8 ((dataAddr s g w).setWidth 64) := by
  rw [dataAddr_eq_effAddr] at ht ha ⊢
  rw [execLoad, execM, State.issue_runs hi.running hi.fetched hi.assigned hi.legal hi.taken]
  simp [State.fetch_effAddr, State.fetch_target, ht, ha, readAny_near hp, State.fetch_dirty, hd, State.precise]

end

theorem accesses_fault : accessFaults := by
  intro s g w hi
  have poisons {n : Nat} (p : Nat) (ht : s.target g (dataAddr s g w).toNat n = some (.mem p))
      (ha : (dataAddr s g w).toNat % n = 0) (hp : p < nearEnd) (hd : s.dirty p n = true) :=
    congrArg (Host.Outcome.next : State → Out) (execLoad_poisoned hi ht ha hp hd)
  exact ⟨access_faults rfl hi, access_faults rfl hi, access_faults rfl hi, access_faults rfl hi, poisons, poisons⟩

/-- Settles O17: the faults by the checks that every access shares, the reach by the region that the address lies in. -/
theorem loadAndStoreReach : Obligations.LoadAndStoreReach := ⟨accesses_fault, accesses_reach⟩

end Sys2Proof.Machine

/-! SUPPORT. TallyMessages: a tally.add that goes to another course, and its arrival (R21, R223). -/

namespace Sys2Proof.Machine

section
variable {s : State} {g h : Course} {c : CourseState} {n : Fin 256} {v : Word}

/-! ### Tallies through the operations that leave them (R220) -/

theorem CourseState.endWait_tallies (k : Nat) : (c.endWait k).tallyV = c.tallyV ∧ (c.endWait k).tallyP = c.tallyP := by
  unfold CourseState.endWait CourseState.ws
  split
  · split <;> exact ⟨rfl, rfl⟩
  · exact ⟨rfl, rfl⟩

theorem CourseState.settleWait_tallies : c.settleWait.tallyV = c.tallyV ∧ c.settleWait.tallyP = c.tallyP := by
  unfold CourseState.settleWait
  split
  · exact CourseState.endWait_tallies _
  · exact ⟨rfl, rfl⟩

/-- What follows the tallies of a course changes none, no other course, and neither memory nor messages on their way. -/
structure KeepsTallies (g : Course) (s t : State) : Prop where
  others : ∀ h, h ≠ g → t.course h = s.course h
  tallyV : (t.course g).tallyV = (s.course g).tallyV
  tallyP : (t.course g).tallyP = (s.course g).tallyP
  mem : t.mem = s.mem
  msgs : t.msgs = s.msgs

theorem KeepsTallies.trans {s t u : State} (h : KeepsTallies g s t) (k : KeepsTallies g t u) : KeepsTallies g s u where
  others c hc := (k.others c hc).trans (h.others c hc)
  tallyV := k.tallyV.trans h.tallyV
  tallyP := k.tallyP.trans h.tallyP
  mem := k.mem.trans h.mem
  msgs := k.msgs.trans h.msgs

theorem Settles.keepsTallies {s t : State} (h : Settles g s t) : KeepsTallies g s t := by
  obtain ⟨hc, hs, hg, -⟩ := h
  have hV := congrArg CourseState.tallyV hg
  have hP := congrArg CourseState.tallyP hg
  have hm := congrArg State.mem hs
  have hg := congrArg State.msgs hs
  exact ⟨hc, hV, hP, hm, hg⟩

theorem State.settle_keepsTallies (s : State) (g : Course) : KeepsTallies g s (s.settle g) := by
  obtain ⟨t, ht, he⟩ := s.settle_eq g
  rw [he]
  have hw : KeepsTallies g t (t.modCourse g fun c => c.settleWait.settleWatches) := by
    refine ⟨fun c hc => t.modCourse_course_ne hc _, ?_, ?_, rfl, rfl⟩
    · rw [State.modCourse_course]
      exact CourseState.settleWait_tallies.1
    · rw [State.modCourse_course]
      exact CourseState.settleWait_tallies.2
  exact (ht.keepsTallies.trans hw).trans (State.noteHead_settles _ g).keepsTallies

theorem CourseState.tallyAdd_tallyVal : (c.tallyAdd n v).tallyVal n = c.tallyVal n + v := SMap.get_put_same _ _ _ _

theorem CourseState.tallyAdd_tallyPoi : (c.tallyAdd n v).tallyPoi n = c.tallyPoi n := SMap.get_put_same _ _ _ _

/-! ### A tally.add leaves (R223, R224) -/

theorem tallyNum_val (n : Fin 256) : tallyNum n.val = n := Fin.ext (Nat.mod_eq_of_lt n.isLt)

/-- The value of tally.add and tally.set where the field that IM leaves unused is 0. -/
theorem tallyOperand_eq {w : BitVec 56} (hu : if w.getLsbD 43 then fld w 42 38 = 0 else fld w 31 0 = 0) :
    c.tallyOperand w = some (if w.getLsbD 43 then BitVec.ofNat 32 (fld w 31 0) else (c.rs (fldS w 38)).setWidth 32) := by
  have hi : w.setWidth 32 = BitVec.ofNat 32 (fld w 31 0) := BitVec.eq_of_toNat_eq (by simp [fld])
  rw [← hi]
  unfold CourseState.tallyOperand zeros
  cases h : w.getLsbD 43 <;> simp_all

/-- Routes depend on the lanes of the dies alone (R19, R516). -/
theorem reachable_of_dies {t : State} (h : t.dies = s.dies) (m : Msg) : t.reachable m = s.reachable m := by
  have hop (a b : Nat) : t.hopUp a b = s.hopUp a b := by simp [State.hopUp, State.modules, State.die, h]
  rw [State.reachable, State.linked, State.reachable, State.linked]
  induction route m.src.die m.dst.die with
  | nil => rfl
  | cons a r ih =>
    cases r with
    | nil => rfl
    | cons b r => rw [hopsUp, hopsUp, hop, ih]

@[simp] theorem State.send_course (a b : Node) (m : MsgBody) : (s.send a b m).course h = s.course h := by
  unfold State.send
  dsimp only
  split <;> rfl

theorem State.fetch_send_msgs {a b : Node} {m : MsgBody} (hr : s.reachable ⟨a, b, m⟩ = true) :
    ((s.fetch g).1.send a b m).msgs = s.msgs ++ [⟨a, b, m⟩] := by
  obtain ⟨x, hx⟩ := s.fetch_fst g
  have hd : (s.fetch g).1.dies = s.dies := by simp [hx]
  have hm : (s.fetch g).1.msgs = s.msgs := by simp [hx]
  simp only [State.send, reachable_of_dies hd, hr, if_true, hm]

theorem State.issued_msgs : (s.issued g).msgs = s.msgs := by
  rw [State.issued_eq]

theorem tallyAdd_sends {w : BitVec 56} (hi : Issues s g w [] false) (hn : fld w 51 44 = n.val)
    (hu : if w.getLsbD 43 then fld w 42 38 = 0 else fld w 31 0 = 0) (hr : w.getLsbD 37 = true)
    (hv : (s.course g).v1 = false) (hp : s.parted = true → (fldS w 32).val / 8 = g.val / 8) :
    exec (.tallyAdd g w) s = .next ((((s.fetch g).1.send (.course g) (.course (fldS w 32)) (.tallyAdd n
      (if w.getLsbD 43 then BitVec.ofNat 32 (fld w 31 0) else ((s.course g).rs (fldS w 38)).setWidth 32))).issued g).modCourse g
        fun c => { c with pc := c.pc + 8 }) := by
  show Host.Outcome.next (State.issue _ _ _ _ _ _ _) = _
  rw [State.issue_runs hi.running hi.fetched hi.assigned hi.legal hi.taken]
  obtain ⟨x, hx⟩ := s.fetch_fst g
  have hv' : ((s.fetch g).1.course g).v1 = false := by simpa [hx] using hv
  have hp' : ¬((s.fetch g).1.parted = true ∧ ¬(fldS w 32).val / 8 = g.val / 8) := by
    rw [hx]
    exact fun h => h.2 (hp h.1)
  have hs : ((s.fetch g).1.course g).rs (fldS w 38) = (s.course g).rs (fldS w 38) := by simp [hx, CourseState.rs]
  simp [tallyOperand_eq hu, CourseState.tallyBad, hv', hr, hp', hs, hn, tallyNum_val]

/-! ### It arrives (R21, R223) -/

/-- The first message from one unit to another is taken, and the others stay in their order. -/
theorem takeFrom_append {src dst : Node} {p : MsgBody → Bool} {b : MsgBody} {before after : List Msg}
    (hb : ∀ m ∈ before, ¬(m.src = src ∧ m.dst = dst)) (hp : p b = true) :
    takeFrom src dst p (before ++ ⟨src, dst, b⟩ :: after) = some (⟨src, dst, b⟩, before ++ after) := by
  induction before with
  | nil => simp [takeFrom, hp]
  | cons m ms ih =>
    have hm : ¬(m.src = src ∧ m.dst = dst) := hb m (by simp)
    rw [List.cons_append, takeFrom, if_neg hm, ih fun x hx => hb x (by simp [hx])]
    rfl

theorem tallyAddRemote_eq {src dst : Course} {before after : List Msg}
    (hm : s.msgs = before ++ ⟨.course src, .course dst, .tallyAdd n v⟩ :: after)
    (hb : ∀ m ∈ before, ¬(m.src = .course src ∧ m.dst = .course dst)) :
    tallyAddRemote src dst s = (({ s with msgs := before ++ after }).modCourse dst fun c => c.tallyAdd n v).settle dst := by
  rw [tallyAddRemote, hm, takeFrom_append hb rfl]

end

/-- Settles O18: the instruction sends one message, and its arrival adds before the waits of the course settle. -/
theorem remoteTallyAdds : Obligations.RemoteTallyAdds := by
  refine ⟨?_, fun s src dst n x before after hm hb => ?_⟩
  · intro s g w n hi hn c dest x hu hr hv hp hl
    refine ⟨_, tallyAdd_sends hi hn hu hr hv hp, ?_⟩
    obtain ⟨b, hb⟩ := s.fetch_fst g
    refine ⟨?_, fun h hh => ?_, b, ?_⟩
    · rw [State.modCourse_msgs, State.issued_msgs, State.fetch_send_msgs hl]
    · rw [State.modCourse_course_ne _ hh, State.issued_course, State.send_course, hb, State.modCourse_course_ne _ hh]
    · rw [State.modCourse_course, State.issued_course, State.send_course, hb, State.modCourse_course]
      rfl
  · refine ⟨_, congrArg Host.Outcome.next (tallyAddRemote_eq hm hb), ?_⟩
    obtain ⟨ho, hV, hP, -, hms⟩ := State.settle_keepsTallies
      (({ s with msgs := before ++ after }).modCourse dst fun c => c.tallyAdd n x) dst
    rw [State.modCourse_course] at hV hP
    refine ⟨?_, ?_, hms, fun h hh => (ho h hh).trans (State.modCourse_course_ne _ hh _)⟩
    · rw [CourseState.tallyVal, hV]
      exact CourseState.tallyAdd_tallyVal
    · rw [CourseState.tallyPoi, hP]
      exact CourseState.tallyAdd_tallyPoi

end Sys2Proof.Machine

/-! SUPPORT. Passes: what the entry of a pass block, an accumulation step and an early return of credits leave, and what they
change (R28, R87, R98, R137, R473). -/

namespace Sys2Proof.Machine

/-- A relation that is reflexive and transitive, and holds over each step of a fold, holds over the fold. -/
theorem foldl_related {α β : Type} {R : β → β → Prop} (hrefl : ∀ x, R x x) (htrans : ∀ {x y z}, R x y → R y z → R x z)
    {f : β → α → β} (hf : ∀ x a, R x (f x a)) (l : List α) (x : β) : R x (l.foldl f x) :=
  List.foldlRecOn l f (hrefl x) fun _ h a _ => htrans h (hf _ a)

/-! ### Reports and counts -/

/-- From s to t nothing has changed but reports, registers and the free values used. -/
def Reports (s t : State) : Prop := ∃ d r w n, t = { s with dies := d, regs := r, wide := w, freeCtr := n }

section
variable {s t u : State} {g h : Course}

theorem Reports.refl (s : State) : Reports s s := ⟨_, _, _, _, rfl⟩

theorem Reports.trans (h : Reports s t) (k : Reports t u) : Reports s u := by
  obtain ⟨_, _, _, _, rfl⟩ := h
  obtain ⟨d, r, w, n, rfl⟩ := k
  exact ⟨d, r, w, n, rfl⟩

theorem Reports.course (h : Reports s t) (g : Course) : t.course g = s.course g := by
  obtain ⟨_, _, _, _, rfl⟩ := h
  rfl

theorem Reports.mem (h : Reports s t) : t.mem = s.mem := by
  obtain ⟨_, _, _, _, rfl⟩ := h
  rfl

theorem Reports.host (h : Reports s t) : t.host = s.host := by
  obtain ⟨_, _, _, _, rfl⟩ := h
  rfl

theorem State.count_reports (s : State) (a b c n : Nat) : Reports s (s.count a b c n) := by
  obtain ⟨w, hw⟩ := count_frame s a b c n
  exact ⟨s.dies, s.regs, w, s.freeCtr, hw⟩

theorem State.countC_reports (s : State) (g : Course) (a b n : Nat) : Reports s (s.countC g a b n) := s.count_reports ..

theorem State.orReg_reports (s : State) (o : Nat) (m : Word) : Reports s (s.orReg o m) := ⟨_, _, _, _, rfl⟩

theorem State.efirst_reports (s : State) (g : Course) (code : BitVec 16) (q : Nat) (pc : Addr) :
    Reports s (s.efirst g code q pc) := ⟨_, _, _, _, s.efirst_eq g code q pc⟩

theorem State.raiseWith_reports (s : State) (d : Die) (r : Report) (info : Option DWord) : Reports s (s.raiseWith d r info) := by
  unfold State.raiseWith
  split <;> exact ⟨_, _, _, _, rfl⟩

theorem State.raiseInstr_reports (s : State) (g : Course) (code : BitVec 16) (u : Byte) (sub : BitVec 4) (p tp : Bool) (pc : Addr)
    (info : Option DWord) : Reports s (s.raiseInstr g code u sub p tp pc info) := s.raiseWith_reports ..

theorem ite_reports {c : Prop} {_ : Decidable c} (ht : Reports s t) (hu : Reports s u) : Reports s (if c then t else u) := by
  split <;> assumption

/-! ### The other courses, the memory and the host interface -/

/-- From s to t the other courses than g, the memory and the host interface are as they were. -/
structure Apart (g : Course) (s t : State) : Prop where
  others : ∀ h, h ≠ g → t.course h = s.course h
  mem : t.mem = s.mem
  host : t.host = s.host

theorem Apart.refl (g : Course) (s : State) : Apart g s s := ⟨fun _ _ => rfl, rfl, rfl⟩

theorem Apart.trans (h : Apart g s t) (k : Apart g t u) : Apart g s u :=
  ⟨fun c hc => (k.others c hc).trans (h.others c hc), k.mem.trans h.mem, k.host.trans h.host⟩

theorem Reports.apart (h : Reports s t) (g : Course) : Apart g s t := ⟨fun c _ => h.course c, h.mem, h.host⟩

theorem State.modCourse_apart (s : State) (g : Course) (f : CourseState → CourseState) : Apart g s (s.modCourse g f) :=
  ⟨fun _ hc => s.modCourse_course_ne hc f, rfl, rfl⟩

end

/-! ### Started instructions of the MSN queue -/

section
variable {c d e : CourseState} {q : QueueId} {n : Nat} {i x : Started} {o : PassOp}

theorem CourseState.modQueue_queue (c : CourseState) (q : QueueId) (f : QueueState → QueueState) :
    (c.modQueue q f).queue q = f (c.queue q) := c.setQueue_queue q _

/-- A change of the started instructions that keeps their issue numbers keeps who is found. -/
theorem findStarted_of_map {f : Started → Started} (hf : ∀ x, (f x).e = x.e)
    (h : (d.queue q).started = (c.queue q).started.map f) : d.findStarted q n = (c.findStarted q n).map f := by
  rw [CourseState.findStarted, h, List.find?_map]
  simp only [Function.comp_def, hf]
  rfl

theorem findStarted_modStarted {f : Started → Started} (hf : ∀ x, (f x).e = x.e) (h : c.findStarted q n = some x) :
    (c.modStarted q n f).findStarted q n = some (f x) := by
  have hn : x.e.serial = n := by simpa using List.find?_some h
  rw [findStarted_of_map (c := c) (f := fun y => if y.e.serial = n then f y else y), h]
  · simp [hn]
  · intro y
    split <;> simp [hf]
  · rw [CourseState.modStarted, CourseState.modQueue_queue]

/-- From c to d the arrays are as they were, and the started instructions of the MSN queue are the same and have come as far. -/
structure KeepsMsn (c d : CourseState) : Prop where
  arr : d.arr = c.arr
  started : ∃ f : Started → Started, (∀ x, (f x).e = x.e ∧ (f x).prog = x.prog) ∧
    (d.queue 0).started = (c.queue 0).started.map f

theorem KeepsMsn.refl (c : CourseState) : KeepsMsn c c := ⟨rfl, id, fun _ => ⟨rfl, rfl⟩, (List.map_id _).symm⟩

theorem KeepsMsn.trans (h : KeepsMsn c d) (k : KeepsMsn d e) : KeepsMsn c e := by
  obtain ⟨ha, f, hf, hs⟩ := h
  obtain ⟨ka, f', kf, ks⟩ := k
  exact ⟨ka.trans ha, f' ∘ f, fun x => ⟨(kf _).1.trans (hf x).1, (kf _).2.trans (hf x).2⟩, by rw [ks, hs, List.map_map]⟩

theorem KeepsMsn.findStarted (h : KeepsMsn c d) (hx : c.findStarted 0 n = some x) :
    ∃ y, d.findStarted 0 n = some y ∧ y.prog = x.prog := by
  obtain ⟨-, f, hf, hs⟩ := h
  exact ⟨f x, by rw [findStarted_of_map (fun y => (hf y).1) hs, hx]; rfl, (hf x).2⟩

theorem keepsMsn_modStarted {f : Started → Started} (hf : ∀ x, (f x).e = x.e ∧ (f x).prog = x.prog) :
    KeepsMsn c (c.modStarted 0 n f) := by
  refine ⟨rfl, fun y => if y.e.serial = n then f y else y, fun y => ?_, ?_⟩
  · dsimp only
    split
    · exact hf y
    · exact ⟨rfl, rfl⟩
  · rw [CourseState.modStarted, CourseState.modQueue_queue]

theorem CourseState.settleMsn_keepsMsn (c : CourseState) : KeepsMsn c c.settleMsn := by
  refine ⟨rfl, _, fun x => ?_, by rw [CourseState.settleMsn, CourseState.modQueue_queue]⟩
  repeat' split
  all_goals exact ⟨rfl, rfl⟩

/-- The pass whose block enters next is a started msn.pass. -/
theorem findStarted_of_entering (h : c.entering = some (i, o)) : ∃ x, c.findStarted 0 i.e.serial = some x := by
  obtain ⟨y, hy, hb⟩ := Option.bind_eq_some_iff.mp h
  have he : i = y := by
    split at hb
    · cases hb
      rfl
    · cases hb
  rw [← Option.isSome_iff_exists, CourseState.findStarted, List.find?_isSome]
  exact ⟨i, he ▸ List.mem_of_find?_eq_some hy, by simp⟩

end

/-! ### Tokens of the arrays (R98) -/

section
variable {a : ArrayState} {c : CourseState} {j k n : Nat}

theorem ArrayState.tokens_setTokens (hj : j < 8) (l : List Token) : (a.setTokens j l).tokens j = l := by
  simp [ArrayState.tokens, ArrayState.setTokens, hj]

theorem ArrayState.tokens_setTokens_ne (h : k ≠ j) (l : List Token) : (a.setTokens j l).tokens k = a.tokens k := by
  simp [ArrayState.tokens, ArrayState.setTokens, h.symm]

theorem ArrayState.logical_le (a : ArrayState) : a.logical ≤ 8 := Nat.min_le_left _ _

/-- Tokens put behind those of the first n arrays. -/
theorem tokens_foldl_setTokens (ts : List Token) (hn : n ≤ 8) :
    ((List.range n).foldl (fun a j => a.setTokens j (a.tokens j ++ ts)) a).tokens j =
      if j < n then a.tokens j ++ ts else a.tokens j := by
  induction n with
  | zero => rfl
  | succ n ih =>
    have ih := ih (by omega)
    rw [List.range_succ, List.foldl_append, List.foldl_cons, List.foldl_nil]
    by_cases hj : j = n
    · subst hj
      rw [ArrayState.tokens_setTokens (by omega), ih]
      simp
    · rw [ArrayState.tokens_setTokens_ne hj, ih]
      simp [show j < n + 1 ↔ j < n by omega]

theorem CourseState.pushAll_tokens (ts : List Token) :
    (c.pushAll ts).arr.tokens j = if j < c.arr.logical then c.arr.tokens j ++ ts else c.arr.tokens j :=
  tokens_foldl_setTokens ts c.arr.logical_le

/-- The head of the tokens of array j is not an msn.tile. -/
def ArrayState.noTile (a : ArrayState) (j : Nat) : Prop := ∀ m p q e d, (a.tokens j).head? ≠ some (.openTile m p q e d)

theorem CourseState.openHeads_of_noTile (h : c.arr.noTile j) (n : Nat) : c.openHeads j n = c := by
  cases n with
  | zero => rfl
  | succ n =>
    unfold CourseState.openHeads
    split
    · next hc => exact (h _ _ _ _ _ (by rw [hc]; rfl)).elim
    · rfl

theorem CourseState.flow_of_noTile (h : c.arr.noTile j) : c.flow j = c.settleMsn := by
  rw [CourseState.flow, CourseState.openHeads_of_noTile h]

theorem CourseState.flowAll_keepsMsn (h : ∀ j, c.arr.noTile j) : KeepsMsn c c.flowAll := by
  unfold CourseState.flowAll
  generalize List.range c.arr.logical = l
  induction l generalizing c with
  | nil => exact KeepsMsn.refl c
  | cons j l ih =>
    rw [List.foldl_cons, CourseState.flow_of_noTile (h j)]
    exact c.settleMsn_keepsMsn.trans (ih fun j => h j)

theorem blockTokens_head {serial b m p q : Nat} {o : PassOp} {rows : List ChainRow} {scales : List (BitVec 128)} {skip d : Bool}
    {e : Int} : (blockTokens serial o b rows scales skip).head? ≠ some (.openTile m p q e d) := by
  intro h
  have := List.mem_of_head? h
  simp [blockTokens] at this

end

/-! ### A block enters (R87, R98) -/

section
variable {s : State} {g : Course} {i x : Started} {o : PassOp} {rows : List ChainRow} {b j : Nat}

theorem PassOp.rowsPer_pos (o : PassOp) : 0 < o.rowsPer := by
  unfold PassOp.rowsPer
  split <;> decide

theorem State.scaleEntry_reports (s : State) (g : Course) (a : Nat) : Reports s (s.scaleEntry g a).2 := by
  unfold State.scaleEntry
  split <;> exact ⟨_, _, _, _, rfl⟩

theorem State.scalesRead_reports (s : State) (g : Course) (o : PassOp) (l : List Nat) : Reports s (s.scalesRead g o l) := by
  unfold State.scalesRead
  exact foldl_related Reports.refl Reports.trans (fun t _ => t.scaleEntry_reports g _) l s

theorem State.damagedRows_apart (s : State) (g : Course) (i : Started) (rows : List ChainRow) :
    Apart g s (s.damagedRows g i rows) := by
  unfold State.damagedRows
  repeat' split
  · exact Apart.refl g s
  · exact (s.modCourse_apart g _).trans ((State.efirst_reports ..).apart g)
  · exact Apart.refl g s

theorem State.damagedRows_keepsMsn (s : State) (g : Course) (i : Started) (rows : List ChainRow) :
    KeepsMsn (s.course g) ((s.damagedRows g i rows).course g) := by
  unfold State.damagedRows
  repeat' split
  · exact KeepsMsn.refl _
  · rw [(State.efirst_reports ..).course g, State.instrPoison, State.modCourse_course]
    exact keepsMsn_modStarted fun x => ⟨rfl, rfl⟩
  · exact KeepsMsn.refl _

/-- The course once the tokens of block b have gone to its arrays and its pass has come to the next block. -/
def CourseState.entered (c : CourseState) (i : Started) (o : PassOp) (b : Nat) (rows : List ChainRow) (ts : List Token) :
    CourseState :=
  ((c.takeRows i.e.serial (b * o.rowsPer) o.rowsPer rows).pushAll ts).modStarted 0 i.e.serial fun x => { x with prog := b + 1 }

/-- The tokens of block b as the state gives its scale entries. -/
def State.tokensOf (s : State) (g : Course) (i : Started) (o : PassOp) (b : Nat) (rows : List ChainRow) : List Token :=
  blockTokens i.e.serial o b rows (s.blockScales g o (o.scaleNums b)) (o.skips i.e.skipEn rows)

theorem State.enterBlock_eq (s : State) (g : Course) (i : Started) (o : PassOp) (b : Nat) (rows : List ChainRow) :
    ∃ t, Apart g s t ∧ t.course g = (s.course g).entered i o b rows (s.tokensOf g i o b rows) ∧
      s.enterBlock g i o b rows = t.damagedRows g i rows := by
  have hr := s.scalesRead_reports g o (o.scaleNums b)
  have hskip (t : State) : Reports t (if o.skips i.e.skipEn rows then t.countC g 0x1030 0x1010 o.cycles else t) :=
    ite_reports (t.countC_reports ..) (Reports.refl t)
  have hcount (t : State) :=
    ((t.countC_reports g 0x1030 0x1008 o.cycles).trans (State.countC_reports _ g 0x1210 0x1208 o.rowsPer)).trans (hskip _)
  refine ⟨_, ?_, ?_, rfl⟩
  · exact (hr.apart g).trans ((State.modCourse_apart _ g _).trans ((State.modCourse_apart _ g _).trans ((hcount _).apart g)))
  · rw [(hcount _).course, State.modCourse_course, State.modCourse_course, hr.course]
    rfl

theorem State.enterBlock_apart : Apart g s (s.enterBlock g i o b rows) := by
  obtain ⟨t, ht, -, he⟩ := s.enterBlock_eq g i o b rows
  rw [he]
  exact ht.trans (t.damagedRows_apart g i rows)

theorem State.enterBlock_keepsMsn :
    KeepsMsn ((s.course g).entered i o b rows (s.tokensOf g i o b rows)) ((s.enterBlock g i o b rows).course g) := by
  obtain ⟨t, -, hc, he⟩ := s.enterBlock_eq g i o b rows
  rw [he, ← hc]
  exact t.damagedRows_keepsMsn g i rows

theorem CourseState.entered_findStarted {c : CourseState} {ts : List Token} (h : c.findStarted 0 i.e.serial = some x) :
    (c.entered i o b rows ts).findStarted 0 i.e.serial = some { x with prog := b + 1 } :=
  findStarted_modStarted (fun _ => rfl) (c := (c.takeRows i.e.serial (b * o.rowsPer) o.rowsPer rows).pushAll ts) h

theorem CourseState.entered_tokens {c : CourseState} {ts : List Token} :
    (c.entered i o b rows ts).arr.tokens j = if j < c.arr.logical then c.arr.tokens j ++ ts else c.arr.tokens j :=
  CourseState.pushAll_tokens (c := c.takeRows i.e.serial (b * o.rowsPer) o.rowsPer rows) ts

theorem CourseState.entered_noTile {c : CourseState} (hc : ∀ j, c.arr.tokens j = []) :
    (c.entered i o b rows (s.tokensOf g i o b rows)).arr.noTile j := by
  intro m p q e d
  rw [CourseState.entered_tokens, hc]
  split
  · exact blockTokens_head
  · simp

/-- Only the log of the course, its mark that it has overflowed, and a report follow from the check of the replay window. -/
theorem State.checkWindow_eq (s : State) (g : Course) : ∃ l v, Apart g s (s.checkWindow g) ∧
    (s.checkWindow g).course g = { s.course g with arr := { (s.course g).arr with log := l, overflow := v } } := by
  unfold State.checkWindow
  dsimp only
  split
  · exact ⟨_, _, Apart.refl g s, rfl⟩
  · next =>
    have hset (d : CourseState) : Apart g s (s.setCourse g d) := ⟨fun h hh => s.setCourse_course_ne hh d, rfl, rfl⟩
    split
    · have hr (t : State) : Reports t (t.raiseCourse g 0x0F05 0x0E 0xF none) := t.raiseWith_reports ..
      exact ⟨_, _, (hset _).trans ((hr _).apart g), by rw [(hr _).course, State.setCourse_course]; rfl⟩
    · exact ⟨_, _, hset _, by rw [State.setCourse_course]; rfl⟩

theorem State.checkWindow_apart (s : State) (g : Course) : Apart g s (s.checkWindow g) := by
  obtain ⟨_, _, h, -⟩ := s.checkWindow_eq g
  exact h

theorem State.checkWindow_findStarted (s : State) (g : Course) (q : QueueId) (n : Nat) :
    ((s.checkWindow g).course g).findStarted q n = (s.course g).findStarted q n := by
  obtain ⟨_, _, -, h⟩ := s.checkWindow_eq g
  rw [h]
  rfl

theorem State.checkWindow_tokens (s : State) (g : Course) (j : Nat) :
    ((s.checkWindow g).course g).arr.tokens j = (s.course g).arr.tokens j := by
  obtain ⟨_, _, -, h⟩ := s.checkWindow_eq g
  rw [h]
  rfl

/-- With nothing in flight before it, a block that enters opens no tile. -/
theorem State.enterBlock_flowAll_keepsMsn (hc : ∀ j, (s.course g).arr.tokens j = []) :
    KeepsMsn ((s.course g).entered i o b rows (s.tokensOf g i o b rows))
      (((s.enterBlock g i o b rows).modCourse g CourseState.flowAll).course g) := by
  have hk := State.enterBlock_keepsMsn (s := s) (g := g) (i := i) (o := o) (b := b) (rows := rows)
  rw [State.modCourse_course]
  refine hk.trans (CourseState.flowAll_keepsMsn fun j => ?_)
  rw [hk.arr]
  exact CourseState.entered_noTile hc

theorem zeroMark_of_no_advance (c : CourseState) (hz : i.e.zadvEn = false) : c.zeroMark i o = 0 := by
  simp [CourseState.zeroMark, hz]

/-- The entry of a block with nothing in its way and no check failing. -/
theorem passBlockEnter_enters (hp : (s.course g).arr.repoint = .none) (he : (s.course g).entering = some (i, o))
    (hk : i.killed = false) (hl : i.lead = false) (hf : (s.course g).slotsFree i.e.serial o = true)
    (hkind : i.prog = 0 → (s.course g).arr.kindOk o i.e.serial = true) (hz : i.e.zadvEn = false)
    (hready : (s.course g).runsReady i.e.serial o i.prog = true)
    (hrows : (s.course g).rowsAt i.e.serial (i.prog * o.rowsPer) o.rowsPer = some rows) :
    passBlockEnter g [] s = ((s.enterBlock g i o i.prog rows).modCourse g CourseState.flowAll).checkWindow g := by
  have hin : i.rowsIn o = i.prog * o.rowsPer := by simp [Started.rowsIn, hl]
  have hzero := zeroMark_of_no_advance (i := i) (o := o) (s.course g) hz
  have hnext : (s.course g).nextHop i o = some (rows, rows) := by
    simp [CourseState.nextHop, hzero, hready, hf, hl, hin, hrows]
  have hkind' : ¬(i.rowsIn o = 0 ∧ (s.course g).arr.kindOk o i.e.serial = false) := by
    rintro ⟨h0, h1⟩
    have hprog : i.prog = 0 := by
      rcases Nat.mul_eq_zero.mp (hin ▸ h0) with h | h
      · exact h
      · exact absurd h o.rowsPer_pos.ne'
    simp [hkind hprog] at h1
  have hgo : s.enterNext g i o rows = (s.enterBlock g i o i.prog rows).modCourse g CourseState.flowAll := by
    simp [State.enterNext, hzero, hl]
  have hrep : entryReports rows (s.course g).arr.logical [] = [] := rfl
  simp [passBlockEnter, hp, he, hk, hkind', hnext, hgo, hrep]

/-- A pass over runs of another kind. -/
theorem passBlockEnter_kindFault (hp : (s.course g).arr.repoint = .none) (he : (s.course g).entering = some (i, o))
    (hk : i.killed = false) (h0 : i.prog = 0) (hl : i.lead = false) (hkind : (s.course g).arr.kindOk o i.e.serial = false) :
    passBlockEnter g [] s = s.kindFault g i := by
  have hin : i.rowsIn o = 0 := by simp [Started.rowsIn, hl, h0]
  simp [passBlockEnter, hp, he, hk, hin, hkind]

end

/-! ### A fault of a started instruction (R239) -/

section
variable {s : State} {g : Course} {q : QueueId} {n : Nat} {i : Started} {code : BitVec 16} {unit : Byte} {sub : BitVec 4}
  {info : Option DWord}

theorem State.raiseWith_presents (s : State) (d : Die) (r : Report) (info : Option DWord) :
    ∃ v, ((s.raiseWith d r info).die d).presented = (s.die d).presented ++ [{ r with info := v }] := by
  cases info with
  | some v => exact ⟨v, by simp [State.raiseWith]⟩
  | none => exact ⟨s.fresh, by simp [State.raiseWith]⟩

theorem State.efirst_die (s : State) (g : Course) (code : BitVec 16) (k : Nat) (pc : Addr) (d : Die) :
    (s.efirst g code k pc).die d = s.die d := by
  rw [State.efirst_eq]
  rfl

theorem State.instrFault_course (h : (s.course g).findStarted q n = some i) :
    (s.instrFault g q n code unit sub info).course g = (s.course g).modStarted q n fun i =>
      { i with poison := true, code := if i.code = 0 then code else i.code } := by
  simp only [State.instrFault, h]
  rw [State.modCourse_course, (State.efirst_reports ..).course, (State.raiseInstr_reports ..).course]

theorem State.instrFault_presents (h : (s.course g).findStarted q n = some i) :
    ∃ r, ((s.instrFault g q n code unit sub info).die (courseDie g)).presented =
      (s.die (courseDie g)).presented ++ [r] ∧ r.code = code ∧ r.pc = i.e.pc := by
  simp only [State.instrFault, h]
  rw [State.modCourse_die, State.efirst_die]
  obtain ⟨v, hv⟩ := s.raiseWith_presents (courseDie g) _ info
  exact ⟨_, hv, rfl, rfl⟩

theorem kindFault_eq (ha : i.already = false) : s.kindFault g i = (s.instrFault g 0 i.e.serial 0x0103 0x02 0xF none).modCourse g
    fun c => c.modStarted 0 i.e.serial fun x => { x with killed := true } := by
  simp [State.kindFault, ha]

theorem kindFault_findStarted (ha : i.already = false) (h : (s.course g).findStarted 0 i.e.serial = some i) :
    ∃ x, ((s.kindFault g i).course g).findStarted 0 i.e.serial = some x ∧ x.killed = true ∧ x.poison = true := by
  have hp := findStarted_modStarted (f := fun i => { i with poison := true, code := if i.code = 0 then 0x0103 else i.code })
    (fun _ => rfl) h
  rw [kindFault_eq ha, State.modCourse_course, State.instrFault_course h]
  exact ⟨_, findStarted_modStarted (fun _ => rfl) hp, rfl, rfl⟩

theorem kindFault_arr (ha : i.already = false) (h : (s.course g).findStarted 0 i.e.serial = some i) :
    ((s.kindFault g i).course g).arr = (s.course g).arr := by
  rw [kindFault_eq ha, State.modCourse_course, State.instrFault_course h]
  rfl

theorem kindFault_presents (ha : i.already = false) (h : (s.course g).findStarted 0 i.e.serial = some i) :
    ∃ r, ((s.kindFault g i).die (courseDie g)).presented = (s.die (courseDie g)).presented ++ [r] ∧ r.code = 0x0103 ∧
      r.pc = i.e.pc := by
  rw [kindFault_eq ha, State.modCourse_die]
  exact State.instrFault_presents h

end

/-! ### A step is added (R28, R115, R137) -/

section
variable {s : State} {g : Course} {n j : Nat} {skip pz : Bool} {rest : List Token} {tile : Tile} {y : Cycle}

/-- The cells of a tile once the cycle has been added in array j. -/
def Tile.addedCells (tile : Tile) (a : ArrayState) (j : Nat) (y : Cycle) (skip pz : Bool) : Vector Cell 256 :=
  Vector.ofFn fun m : Fin 256 => y.cell a (a.phys j) tile.eref skip pz (tile.cells.get m) m.val

theorem Tile.addedCells_get (a : ArrayState) (m : Fin 256) :
    (tile.addedCells a j y skip pz).get m = y.cell a (a.phys j) tile.eref skip pz (tile.cells.get m) m.val := by
  simp [Tile.addedCells, Vector.get_eq_getElem]

/-- The course with a tile in an active slot. -/
def CourseState.setTile (c : CourseState) (k : Nat) (t : Tile) : CourseState :=
  { c with arr := { c.arr with active := SMap.ins c.arr.active k t } }

/-- The course with other tokens in an array. -/
def CourseState.setTokens (c : CourseState) (j : Nat) (l : List Token) : CourseState := { c with arr := c.arr.setTokens j l }

theorem State.accWindow_reports (s : State) (g : Course) (j slot n shift serial : Nat) :
    Reports s (s.accWindow g j slot n shift serial) := by
  have hset (t : State) (a : Nat) (v : Word) : Reports t (t.setReg a v) := ⟨_, _, _, _, rfl⟩
  have hreg : Reports s ((if (s.reg (cr g 0x1304)).getLsbD 2 then s else s.setReg (cr g 0x1328) (BitVec.ofNat 32
      (slot + 32 * j + 256 * (n / 16) + 4096 * (n % 16) + 65536 * (shift % 2048) + 0x80000000))).orReg (cr g 0x1304) 4) :=
    (ite_reports (Reports.refl s) (hset ..)).trans (State.orReg_reports ..)
  unfold State.accWindow
  rcases h : (s.course g).findStarted 0 serial with _ | i
  · exact hreg
  · exact ite_reports hreg (hreg.trans ((State.raiseInstr_reports ..).trans (State.efirst_reports ..)))

/-- The first contribution of a cycle above the window, which a skipped block does not have. -/
def State.aboveWindow (s : State) (g : Course) (j : Nat) (y : Cycle) (skip : Bool) (tile : Tile) : Option (Nat × Nat) :=
  if skip then none else y.firstAbove (s.course g).arr ((s.course g).arr.phys j) tile.eref

/-- A cycle changes the tile of its slot; beside it flags are set and reports are made. -/
theorem State.addCycle_eq (ht : SMap.find (s.course g).arr.active (32 * j + y.slot) = some tile) :
    ∃ hit, Reports (s.modCourse g fun c => c.setTile (32 * j + y.slot)
        { tile with cells := tile.addedCells (s.course g).arr j y skip pz, windowHit := hit })
      (s.addCycle g j n y skip pz) := by
  have hflag (t : State) (p : Bool) (m : Word) : Reports t (if p then t.orReg (cr g 0x1304) m else t) :=
    ite_reports (State.orReg_reports ..) (Reports.refl t)
  have hflags (t : State) (p p' : Bool) := (hflag t p 1).trans (hflag _ p' 2)
  unfold State.addCycle
  simp only [ht]
  refine ⟨tile.windowHit || (s.aboveWindow g j y skip tile).isSome, ?_⟩
  unfold State.aboveWindow
  generalize (if skip then none else y.firstAbove (s.course g).arr ((s.course g).arr.phys j) tile.eref) = above
  cases above with
  | none => exact hflags ..
  | some e => exact (hflags ..).trans (ite_reports (State.orReg_reports ..) (State.accWindow_reports ..))

variable (htok : (s.course g).arr.tokens j = .step n y.o y.blk y.sub y.rows y.scales skip pz :: rest)
  (hchain : (s.course g).arr.chainAhead j = true) (hdrain : (s.course g).drainAhead j y.slot n = false)
include htok hchain hdrain

theorem accumulationStep_adds (hok : ∀ r, r < 16 → ∀ l ∈ y.lineNos,
    ((s.course g).arr.line ((s.course g).arr.phys j) r l).ok = true) :
    accumulationStep g j s = (s.addCycle g j n y skip pz).modCourse g fun c => (c.setTokens j rest).flow j := by
  have hbad : ((List.range 16).any fun r => y.lineNos.any fun l =>
      !((s.course g).arr.line ((s.course g).arr.phys j) r l).ok) = false := by
    simp only [List.any_eq_false, List.mem_range, Bool.not_eq_true, Bool.not_eq_false']
    exact hok
  simp only [accumulationStep, htok, hchain, hdrain, hbad, Bool.not_true, Bool.or_self, Bool.false_eq_true, if_false]
  rfl

/-- The course once the step has been added: its tile, and its tokens without the step. -/
theorem accumulationStep_course (hok : ∀ r, r < 16 → ∀ l ∈ y.lineNos,
      ((s.course g).arr.line ((s.course g).arr.phys j) r l).ok = true)
    (htile : SMap.find (s.course g).arr.active (32 * j + y.slot) = some tile)
    (hhead : ∀ m p q e d, rest.head? ≠ some (.openTile m p q e d)) (hj : j < 8) :
    ∃ hit, Apart g s (accumulationStep g j s) ∧ (accumulationStep g j s).course g = (((s.course g).setTile (32 * j + y.slot)
      { tile with cells := tile.addedCells (s.course g).arr j y skip pz, windowHit := hit }).setTokens j rest).settleMsn := by
  obtain ⟨hit, hadd⟩ := State.addCycle_eq (n := n) (skip := skip) (pz := pz) (y := y) htile
  rw [accumulationStep_adds htok hchain hdrain hok]
  refine ⟨hit, ((s.modCourse_apart g _).trans (hadd.apart g)).trans (State.modCourse_apart _ g _), ?_⟩
  rw [State.modCourse_course, hadd.course, State.modCourse_course]
  refine CourseState.flow_of_noTile fun m p q e d => ?_
  rw [CourseState.setTokens, ArrayState.tokens_setTokens hj]
  exact hhead m p q e d

theorem accumulationStep_lineFault {r l : Nat} (hr : r < 16) (hl : l ∈ y.lineNos)
    (hbad : ((s.course g).arr.line ((s.course g).arr.phys j) r l).ok = false) :
    accumulationStep g j s = s.arrayFault g j 0x0106 := by
  have hany : ((List.range 16).any fun r => y.lineNos.any fun l =>
      !((s.course g).arr.line ((s.course g).arr.phys j) r l).ok) = true :=
    List.any_eq_true.mpr ⟨r, List.mem_range.mpr hr, List.any_eq_true.mpr ⟨l, hl, by rw [hbad]; rfl⟩⟩
  simp only [accumulationStep, htok, hchain, hdrain, hany, Bool.not_true, Bool.or_self, Bool.false_eq_true, if_false, if_true]

end

/-! ### Credits go back early (R473) -/

section
variable {s : State} {g : Course} {i x : Started} {q : QueueId} {n req k : Nat} {src : CreditSrc}

/-- Credits that go back change no queue. -/
theorem State.giveBack_findStarted :
    ((s.giveBack g req k src).course g).findStarted q n = (s.course g).findStarted q n := by
  unfold State.giveBack
  dsimp only
  repeat' split
  · rfl
  · rfl
  · rw [State.modCourse_course]
    rfl
  all_goals rfl

theorem State.giveBack_pool (h : req < 16) : (((s.giveBack g req k .pool).cdie (courseCDie g)).inUse.toList.getD req 0) =
    ((s.cdie (courseCDie g)).inUse.toList.getD req 0) - k := by
  simp [State.giveBack, h]

theorem returnsEarly_of {c : CourseState} {o : PassOp} (ho : i.orphan = false) (hr : i.restart = false)
    (he : i.earlyReturned = false) (hc : c.arr.logical + 4 ≤ i.credits) (hop : i.e.op = .msnPass o) (hs : c.restSkips i o = true)
    (hg : c.arr.unskippedGone i.e.serial = true) : c.returnsEarly i = true := by
  simp [CourseState.returnsEarly, ho, hr, he, hc, hop, hs, hg]

theorem creditEarlyReturn_returns (hh : ((s.course g).queue 0).started.head? = some i) (hr : (s.course g).returnsEarly i = true) :
    creditEarlyReturn g s = (s.modCourse g fun c => c.modStarted 0 i.e.serial fun x =>
      { x with credits := x.credits - (s.course g).arr.logical, earlyReturned := true }).giveBack g (requester g 0)
        (s.course g).arr.logical i.src := by
  obtain ⟨l, hl⟩ := List.head?_eq_some_iff.mp hh
  simp only [creditEarlyReturn, hl, List.find?_cons, hr]

theorem requester_lt (g : Course) (q : QueueId) : requester g q < 16 := by
  unfold requester
  split <;> omega

end

/-- Settles O36: each command by the equation of its case, and what its parts leave. -/
theorem passesRun : Obligations.PassesRun := by
  intro s g c a hruns hrep
  have runs (act : State → State) : Host.Outcome.next (s.ifCourse g act) = (.next (act s) : Out) :=
    congrArg _ (if_pos hruns)
  refine ⟨fun i o rows he hk hl hf hkind hz hready hrows htok => ?_, fun i o he hk h0 hl hkind hal hfind => ?_,
    fun j n o b k rows scales skip pz rest tile => ?_, fun j n o b k rows scales skip pz rest r l => ?_,
    fun i o ho hres hearly hcr hop hskips hgone hhead => ?_⟩
  · obtain ⟨x, hx⟩ := findStarted_of_entering he
    refine ⟨_, (runs _).trans (congrArg _ (passBlockEnter_enters hrep he hk hl hf hkind hz hready hrows)), ?_⟩
    have hkeep := State.enterBlock_flowAll_keepsMsn (i := i) (o := o) (b := i.prog) (rows := rows) htok
    have hapart := (State.enterBlock_apart (s := s) (g := g) (i := i) (o := o) (b := i.prog) (rows := rows)).trans
      ((State.modCourse_apart _ g CourseState.flowAll).trans (State.checkWindow_apart _ g))
    refine ⟨?_, fun j hj => ?_, hapart.others, hapart.mem⟩
    · obtain ⟨y, hy, hp⟩ := hkeep.findStarted (CourseState.entered_findStarted hx)
      exact ⟨y, by rw [State.checkWindow_findStarted, hy], hp⟩
    · rw [State.checkWindow_tokens, hkeep.arr, CourseState.entered_tokens, if_pos hj, htok]
      rfl
  · refine ⟨_, (runs _).trans (congrArg _ (passBlockEnter_kindFault hrep he hk h0 hl hkind)), ?_⟩
    exact ⟨kindFault_findStarted hal hfind, kindFault_arr hal hfind, kindFault_presents hal hfind⟩
  · intro y htok hj hchain hdrain hok htile hhead
    obtain ⟨hit, hapart, hcourse⟩ := accumulationStep_course (y := y) htok hchain hdrain hok htile hhead j.isLt
    refine ⟨_, runs _, ?_, ⟨{ tile with cells := tile.addedCells a j.val y skip pz, windowHit := hit }, ?_, rfl,
      Tile.addedCells_get a⟩, hapart.others, hapart.mem⟩
    · rw [hcourse]
      exact ArrayState.tokens_setTokens j.isLt rest
    · rw [hcourse]
      exact SMap.find_ins_same _ _ _
  · intro y htok hchain hdrain hr hl hbad
    exact (runs _).trans (congrArg _ (accumulationStep_lineFault (y := y) htok hchain hdrain hr hl hbad))
  · have hfind : c.findStarted 0 i.e.serial = some i := by
      obtain ⟨l, hl⟩ := List.head?_eq_some_iff.mp hhead
      simp [CourseState.findStarted, hl]
    have hreturns := returnsEarly_of ho hres hearly hcr hop hskips hgone
    refine ⟨_, (runs _).trans (congrArg _ (creditEarlyReturn_returns hhead hreturns)), ?_⟩
    refine ⟨⟨{ i with credits := i.credits - a.logical, earlyReturned := true }, ?_, rfl⟩, fun hsrc => ?_⟩
    · rw [State.giveBack_findStarted, State.modCourse_course]
      exact findStarted_modStarted (fun _ => rfl) hfind
    · rw [hsrc, State.giveBack_pool (requester_lt g 0)]
      rfl

end Sys2Proof.Machine

/-! SUPPORT. HostInterface: what resets of functions and courses, PERST# and the writes of configuration space and MSI-X tables
change and leave (R37, R231, R546 to R548, R553 to R555). -/

namespace Sys2Proof.Machine

/-! ### A course reset (R231) -/

section
variable {s t : State} {g h : Course}

theorem foldl_apart {α : Type} {f : State → α → State} (hf : ∀ t a, Apart g t (f t a)) (l : List α) (s : State) :
    Apart g s (l.foldl f s) := foldl_related (Apart.refl g) Apart.trans hf l s

theorem State.modCDie_apart (s : State) (d : CDie) (f : CDieState → CDieState) : Apart g s (s.modCDie d f) :=
  ⟨fun _ _ => rfl, rfl, rfl⟩

theorem State.modNet_apart (s : State) (x : IoDie) (f : NetState → NetState) : Apart g s (s.modNet x f) :=
  ⟨fun _ _ => rfl, rfl, rfl⟩

theorem State.send_eq (s : State) (a b : Node) (m : MsgBody) : ∃ l, s.send a b m = { s with msgs := l } := by
  unfold State.send
  dsimp only
  split
  · exact ⟨_, rfl⟩
  · exact ⟨_, rfl⟩

theorem State.send_apart (s : State) (a b : Node) (m : MsgBody) : Apart g s (s.send a b m) := by
  obtain ⟨l, hl⟩ := s.send_eq a b m
  rw [hl]
  exact ⟨fun _ _ => rfl, rfl, rfl⟩

theorem State.toStacks_eq (s : State) (g : Course) (b : MsgBody) : ∃ l, s.toStacks g b = { s with msgs := l } := by
  unfold State.toStacks
  generalize s.courseStacks g = ks
  induction ks generalizing s with
  | nil => exact ⟨_, rfl⟩
  | cons k ks ih =>
    obtain ⟨l, hl⟩ := s.send_eq (.course g) (.mem k) b
    obtain ⟨l', hl'⟩ := ih (s.send (.course g) (.mem k) b)
    exact ⟨l', by rw [List.foldl_cons, hl', hl]⟩

theorem State.giveBack_apart (s : State) (g : Course) (req n : Nat) (src : CreditSrc) : Apart g s (s.giveBack g req n src) := by
  unfold State.giveBack
  dsimp only
  repeat' split
  · exact Apart.refl g s
  · exact s.modCDie_apart _ _
  · exact s.modCourse_apart g _
  all_goals exact s.modCDie_apart _ _

theorem State.ungrant_apart (s : State) (g : Course) (q : QueueId) : Apart g s (s.ungrant g q) := by
  unfold State.ungrant
  split
  · exact (s.modCourse_apart g _).trans (State.giveBack_apart ..)
  · exact s.modCourse_apart g _

theorem State.releaseHold_apart (s : State) (g : Course) : Apart g s (s.releaseHold g) := by
  unfold State.releaseHold
  split
  · exact (s.modCourse_apart g _).trans (State.giveBack_apart ..)
  · exact Apart.refl g s

theorem State.withdrawLock_apart (s : State) (g : Course) : Apart g s (s.withdrawLock g) := by
  unfold State.withdrawLock
  split
  · exact s.send_apart ..
  · exact Apart.refl g s

theorem State.dropRequests_apart (s : State) (g : Course) : Apart g s (s.dropRequests g) :=
  foldl_apart (fun t _ => t.modCDie_apart _ _) _ s

theorem State.dropRing_apart (s : State) (g : Course) : Apart g s (s.dropRing g) := by
  unfold State.dropRing State.dropQueued
  split
  · exact foldl_apart (fun t _ => t.modNet_apart _ _) _ s
  · exact Apart.refl g s

theorem foldl_reports {α β : Type} {f : β → α → β} (st : β → State) (hf : ∀ x a, Reports (st x) (st (f x a))) (l : List α)
    (x : β) : Reports (st x) (st (l.foldl f x)) :=
  foldl_related (R := fun x y => Reports (st x) (st y)) (fun _ => Reports.refl _) Reports.trans hf l x

theorem State.raiseFar_reports (s : State) (l : LinkId) (code : BitVec 16) (info : Option DWord) :
    Reports s (s.raiseFar l code info) := s.raiseWith_reports ..

theorem State.freeBytes_reports (s : State) (n : Nat) : Reports s (s.freeBytes n).2 := ⟨_, _, _, _, rfl⟩

/-- Reading a line of far memory may be reported and counted, and takes free values (R335, R338). -/
theorem State.farReadLine_reports (s : State) (l : LinkId) (n : Nat) : Reports s (s.farReadLine l n).2.2 := by
  have hfar (t : State) (c : BitVec 16) (x : Option DWord) := t.raiseFar_reports l c x
  unfold State.farReadLine
  dsimp only
  split
  · exact s.freeBytes_reports 64
  · split
    · dsimp only
      exact (s.freeBytes_reports 64).trans (hfar _ _ _)
    · split
      · exact (hfar s _ _).trans (State.count_reports ..)
      · exact Reports.refl s

theorem State.farRead_reports (s : State) (a n : Nat) : Reports s (s.farRead a n).2.2 := by
  cases n with
  | zero => exact Reports.refl s
  | succ n =>
    unfold State.farRead
    refine foldl_reports (fun x : List Byte × Bool × State => x.2.2) (fun x i => ?_) _ ([], false, s)
    exact State.farReadLine_reports x.2.2 _ _

theorem State.readAny_reports (s : State) (a n : Nat) : Reports s (s.readAny a n).2.2 := by
  unfold State.readAny
  split
  · exact s.farRead_reports a n
  · exact Reports.refl s

theorem State.readMarked_reports (s : State) (a n : Nat) : Reports s (s.readMarked a n).2 := by
  unfold State.readMarked
  refine foldl_reports (fun x : List (Byte × Bool) × State => x.2) (fun x i => ?_) _ ([], s)
  exact State.readAny_reports x.2 _ _

theorem State.feedLine_apart (s : State) (g : Course) (n : Nat) (tbl : Bool) (x : Transfer) :
    Apart g s (s.feedLine g n tbl x) := by
  unfold State.feedLine
  exact ((s.readMarked_reports x.near x.len).apart g).trans (State.modCourse_apart _ g _)

theorem State.free_apart (s : State) (g : Course) (n : Nat) : Apart g s (s.free g n) := by
  unfold State.free
  exact (foldl_apart (fun t x => t.feedLine_apart g n _ x) _ s).trans (State.modCourse_apart _ g _)

theorem State.freeStreams_apart (s : State) (g : Course) : Apart g s (s.freeStreams g) :=
  (foldl_apart (fun t n => t.free_apart g n) _ s).trans (foldl_apart (fun t _ => t.modCourse_apart g _) _ _)

/-- A reset leaves its course overtaken, and nothing of the other courses, the memory and the host interface changed. -/
theorem State.courseReset_eq (s : State) (g : Course) :
    Apart g s (s.courseReset g) ∧ ∃ c : CourseState, (s.courseReset g).course g = c.overtaken := by
  unfold State.courseReset
  dsimp only
  generalize ht :
    ((((List.finRange 8).foldl (fun u q => u.ungrant g q) (s.withdrawLock g)).dropRequests g).dropRing g).freeStreams g = t
  have hs : Apart g s t := by
    rw [← ht]
    exact ((s.withdrawLock_apart g).trans (foldl_apart (fun t q => t.ungrant_apart g q) _ _)).trans
      ((State.dropRequests_apart _ g).trans ((State.dropRing_apart _ g).trans (State.freeStreams_apart _ g)))
  obtain ⟨l, hl⟩ := (((t.releaseHold g).modCourse g fun c => c.overtaken).resetRegs g).toStacks_eq g (.resetSweep g)
  rw [hl]
  refine ⟨hs.trans ((t.releaseHold_apart g).trans (((t.releaseHold g).modCourse_apart g _).trans ⟨fun _ _ => rfl, rfl, rfl⟩)),
    _, State.modCourse_course _ g _⟩

theorem CourseState.overtaken_ctl (c : CourseState) : c.overtaken.ctl = .halted ∨ c.overtaken.ctl = .fenced := by
  unfold CourseState.overtaken
  dsimp only
  split
  · exact .inr rfl
  · exact .inl rfl

theorem CourseState.overtaken_rs (c : CourseState) (i : Fin 32) : c.overtaken.rs i = 0 := by
  simp [CourseState.overtaken, CourseState.rs, Vector.get_eq_getElem]

theorem CourseState.overtaken_tallyVal (c : CourseState) (n : Fin 256) : c.overtaken.tallyVal n = 0 := rfl

/-- From s to t the courses of a list have been reset, and nothing of the others, the memory and the host interface has changed. -/
structure CoursesReset (gs : List Course) (s t : State) : Prop where
  inside : ∀ g ∈ gs, ∃ c : CourseState, t.course g = c.overtaken
  outside : ∀ g, g ∉ gs → t.course g = s.course g
  mem : t.mem = s.mem
  host : t.host = s.host

theorem foldl_courseReset (gs : List Course) (s : State) : CoursesReset gs s (gs.foldl (fun t g => t.courseReset g) s) := by
  induction gs generalizing s with
  | nil => exact ⟨fun _ h => absurd h List.not_mem_nil, fun _ _ => rfl, rfl, rfl⟩
  | cons g gs ih =>
    obtain ⟨hin, hout, hmem, hhost⟩ := ih (s.courseReset g)
    obtain ⟨hap, c, hc⟩ := s.courseReset_eq g
    refine ⟨fun h hh => ?_, fun h hh => ?_, hmem.trans hap.mem, hhost.trans hap.host⟩
    · by_cases hg : h ∈ gs
      · exact hin h hg
      · obtain rfl := (List.mem_cons.mp hh).resolve_right hg
        exact ⟨c, (hout h hg).trans hc⟩
    · rw [List.mem_cons, not_or] at hh
      exact (hout h hh.2).trans (hap.others h hh.1)

end

/-! ### A function reset (R548) -/

section
variable {s t : State} {fn i : Fin 5} {v : Nat}

theorem SMap.find_filter_key {V : Type} (q : Nat → Bool) (k : Nat) (m : SMap V) :
    SMap.find (m.filter fun e => q e.1) k = if q k then SMap.find m k else none := by
  induction m with
  | nil => simp [SMap.find]
  | cons e m ih =>
    obtain ⟨k', x⟩ := e
    by_cases hk : k = k'
    · subst hk
      cases hq : q k <;> simp [SMap.find, hq, ih]
    · cases hq : q k' <;> simp [SMap.find, hq, hk, ih]

/-- The host interface once a function has been reset. -/
def HostState.resetFn (h : HostState) (fn : Fin 5) : HostState :=
  { h with
    bme := h.bme.set fn false
    msixEn := h.msixEn.set fn false
    fnMask := h.fnMask.set fn false
    msix := h.msix.filter fun e => decide (e.1 / 2048 ≠ fn.val)
    pba := h.pba.filter fun e => decide (e.1 / 2048 ≠ fn.val)
    bar2Size := h.bar2Size.set fn 0x40000000 }

/-- From s to t nothing has changed but the host interface and registers, and the mode is the same. -/
structure HostOnly (s t : State) : Prop where
  frame : ∃ r w, t = { s with regs := r, wide := w, host := t.host }
  parted : t.parted = s.parted

theorem HostOnly.trans {u : State} (h : HostOnly s t) (k : HostOnly t u) : HostOnly s u := by
  obtain ⟨⟨_, _, ht⟩, hp⟩ := h
  obtain ⟨⟨r, w, hu⟩, kp⟩ := k
  refine ⟨⟨r, w, ?_⟩, kp.trans hp⟩
  rw [ht] at hu
  exact hu

theorem HostOnly.course (h : HostOnly s t) (g : Course) : t.course g = s.course g := by
  obtain ⟨⟨_, _, ht⟩, -⟩ := h
  rw [ht]
  rfl

theorem HostOnly.mem (h : HostOnly s t) : t.mem = s.mem := by
  obtain ⟨⟨_, _, ht⟩, -⟩ := h
  rw [ht]

theorem HostOnly.boot (h : HostOnly s t) : t.boot = s.boot := by
  obtain ⟨⟨_, _, ht⟩, -⟩ := h
  rw [ht]

theorem hostOnly_host (s : State) (h : HostState) : HostOnly s { s with host := h } := ⟨⟨_, _, rfl⟩, rfl⟩

theorem resetRange_reg {lo hi o : Nat} (h : o < lo ∨ hi ≤ o) : (s.resetRange lo hi).reg o = s.reg o := by
  have hq : (decide (o < lo) || decide (hi ≤ o)) = true := by simpa using h
  have hf := SMap.find_filter_key (fun k => decide (k < lo) || decide (hi ≤ k)) o s.regs
  rw [if_pos hq] at hf
  simp only [State.resetRange, State.reg, SMap.get, hf]

theorem State.resetFn_host (s : State) (fn : Fin 5) : (s.resetFn fn).host = s.host.resetFn fn := by
  unfold State.resetFn
  dsimp only
  split <;> rfl

/-- The registers of a function lie below those of the package, where the mode is. -/
theorem State.resetFn_hostOnly (s : State) (fn : Fin 5) : HostOnly s (s.resetFn fn) := by
  have hpkg (lo hi : Nat) (h : hi ≤ pr 0) : (s.resetRange lo hi).parted = s.parted := by
    rw [State.parted, State.parted, resetRange_reg (.inr h)]
  have hdie : (Blk.die (cdieDie (vfDie fn))).base + 0x8000 ≤ pr 0 := by
    simp only [Blk.base, cdieDie, pr]
    omega
  unfold State.resetFn
  dsimp only
  split
  · exact ⟨⟨_, _, rfl⟩, hpkg _ _ (by decide)⟩
  · exact ⟨⟨_, _, rfl⟩, hpkg _ _ hdie⟩

theorem foldl_hostOnly {α : Type} {f : State → α → State} (hf : ∀ t a, HostOnly t (f t a)) (l : List α) (s : State) :
    HostOnly s (l.foldl f s) := foldl_related (fun s => hostOnly_host s s.host) HostOnly.trans hf l s

theorem State.enableVfs_hostOnly (s : State) (n : Nat) : HostOnly s (s.enableVfs n) := by
  refine (foldl_hostOnly (fun t fn => ?_) _ s).trans (hostOnly_host _ _)
  split
  · exact t.resetFn_hostOnly fn
  · exact hostOnly_host t t.host

/-- With no function above the first n enabled, none is reset. -/
theorem enableVfs_of_none_above {n : Nat} (h : ∀ i : Fin 5, n < i.val → s.host.vfEnabled.get i = false) :
    s.enableVfs n = { s with host := { s.host with vfEnabled := Vector.ofFn fun fn => decide (fn.val ≤ n) } } := by
  have hstay (l : List (Fin 5)) : l.foldl (fun t fn =>
      if t.host.vfEnabled.get fn && decide (n < fn.val) then t.resetFn fn else t) s = s := by
    induction l with
    | nil => rfl
    | cons i l ih =>
      have hi : (s.host.vfEnabled.get i && decide (n < i.val)) = false := by
        by_cases hn : n < i.val
        · simp [h i hn]
        · simp [hn]
      rw [List.foldl_cons, hi]
      exact ih
  rw [State.enableVfs, hstay]

/-- The function i may send nothing, and its MSI-X table is as at reset. -/
def HostState.silent (h : HostState) (i : Fin 5) : Prop :=
  h.bme.get i = false ∧ ∀ v, v < 2048 → SMap.find h.msix (2048 * i.val + v) = none

theorem resetFn_silent (h : HostState) (i : Fin 5) : (h.resetFn i).silent i := by
  refine ⟨vector_get_set _ _ _, fun v hv => ?_⟩
  have hq : ¬decide ((2048 * i.val + v) / 2048 ≠ i.val) = true := by
    rw [decide_eq_true_eq, not_not]
    omega
  exact (SMap.find_filter_key (fun k => decide (k / 2048 ≠ i.val)) _ _).trans (if_neg hq)

theorem HostState.silent.resetFn {h : HostState} (hi : h.silent i) (fn : Fin 5) : (h.resetFn fn).silent i := by
  by_cases he : i = fn
  · subst he
    exact resetFn_silent h i
  · obtain ⟨hb, hm⟩ := hi
    refine ⟨(vector_get_set_ne _ he _).trans hb, fun v hv => ?_⟩
    refine (SMap.find_filter_key (fun k => decide (k / 2048 ≠ fn.val)) _ _).trans ?_
    rw [hm v hv]
    exact ite_self _

/-- Resets of functions leave each of them silent. -/
theorem foldl_resetFn_silent (l : List (Fin 5)) (s : State) (hi : i ∈ l ∨ s.host.silent i) :
    (l.foldl (fun t fn => t.resetFn fn) s).host.silent i := by
  induction l generalizing s with
  | nil => exact hi.resolve_left List.not_mem_nil
  | cons fn l ih =>
    refine ih _ ?_
    rw [State.resetFn_host]
    obtain hi | hi := hi
    · obtain rfl | hi := List.mem_cons.mp hi
      · exact .inr (resetFn_silent _ _)
      · exact .inl hi
    · exact .inr (hi.resetFn fn)

theorem foldl_resetFn_up (l : List (Fin 5)) (s : State) : (l.foldl (fun t fn => t.resetFn fn) s).host.up = s.host.up := by
  induction l generalizing s with
  | nil => rfl
  | cons fn l ih =>
    rw [List.foldl_cons, ih, State.resetFn_host]
    rfl

theorem msixEntry_of_silent (h : s.host.silent i) (hv : v < 2048) : s.msixEntry i v = ⟨0, 0, true⟩ := by
  rw [State.msixEntry, SMap.get, h.2 v hv]
  rfl

/-! ### FLR (R548) -/

theorem flr_of_dead (h : s.fnLive fn = false) : flr fn s = s := by simp [flr, h]

/-- FLR of the physical function of a whole package resets every course. -/
theorem flr_whole (hl : s.fnLive fn = true) (h0 : fn.val = 0) (hp : s.parted = false) :
    flr fn s = (List.finRange 32).foldl (fun t g => t.courseReset g) ((s.enableVfs 0).resetFn 0) := by
  have hq : ((s.enableVfs 0).resetFn 0).parted = false :=
    ((State.resetFn_hostOnly _ 0).parted.trans (s.enableVfs_hostOnly 0).parted).trans hp
  simp [flr, hl, h0, hq]

/-- FLR of a virtual function resets the courses of its die. -/
theorem flr_virtual (hl : s.fnLive fn = true) (h0 : fn.val ≠ 0) :
    flr fn s = ((List.finRange 8).map (courseOf (vfDie fn))).foldl (fun t g => t.courseReset g) (s.resetFn fn) := by
  simp [flr, hl, h0, List.foldl_map]

end

/-! ### PERST# (R548) -/

/-- From s to t reads of host memory have ended: only the streams of courses, reports, registers and free values have changed. -/
structure ReadsEnd (s t : State) : Prop where
  course : ∀ g, ∃ x, t.course g = { s.course g with str := x }
  mem : t.mem = s.mem
  host : t.host = s.host
  boot : t.boot = s.boot

section
variable {s t u : State} {g : Course}

theorem ReadsEnd.refl (s : State) : ReadsEnd s s := ⟨fun _ => ⟨_, rfl⟩, rfl, rfl, rfl⟩

theorem ReadsEnd.trans (h : ReadsEnd s t) (k : ReadsEnd t u) : ReadsEnd s u := by
  refine ⟨fun g => ?_, k.mem.trans h.mem, k.host.trans h.host, k.boot.trans h.boot⟩
  obtain ⟨x, hx⟩ := h.course g
  obtain ⟨y, hy⟩ := k.course g
  exact ⟨y, by rw [hy, hx]⟩

theorem Reports.readsEnd (h : Reports s t) : ReadsEnd s t := by
  obtain ⟨_, _, _, _, rfl⟩ := h
  exact ⟨fun _ => ⟨_, rfl⟩, rfl, rfl, rfl⟩

theorem foldl_readsEnd {α : Type} {f : State → α → State} (hf : ∀ t a, ReadsEnd t (f t a)) (l : List α) (s : State) :
    ReadsEnd s (l.foldl f s) := foldl_related ReadsEnd.refl ReadsEnd.trans hf l s

theorem State.modStream_readsEnd (s : State) (g : Course) (n : Nat) (f : Stream → Stream) : ReadsEnd s (s.modStream g n f) := by
  refine ⟨fun h => ?_, rfl, rfl, rfl⟩
  by_cases hh : h = g
  · subst hh
    exact ⟨_, s.modCourse_course h _⟩
  · exact ⟨_, s.modCourse_course_ne hh _⟩

theorem State.hostFault_reports (s : State) (code : BitVec 16) (fn : Fin 5) (bar addr : Nat) :
    Reports s (s.hostFault code fn bar addr) := by
  obtain ⟨m, w, hf⟩ := hostFault_frame s code fn bar addr
  exact ⟨_, m, w, s.freeCtr, hf⟩

theorem State.hostReadFails_readsEnd (s : State) (g : Course) (n : Nat) : ReadsEnd s (s.hostReadFails g n) := by
  unfold State.hostReadFails
  split
  · exact ReadsEnd.refl s
  · exact ((s.freeBytes_reports _).readsEnd.trans (State.modStream_readsEnd ..)).trans (State.hostFault_reports ..).readsEnd

theorem State.dropHostReads_readsEnd (s : State) : ReadsEnd s s.dropHostReads := by
  unfold State.dropHostReads
  refine foldl_readsEnd (fun t g => ?_) _ s
  refine foldl_readsEnd (fun u e => ?_) _ t
  exact foldl_readsEnd (fun v _ => v.hostReadFails_readsEnd g e.1) _ u

end

/-! ### Writes of configuration space and MSI-X tables (R546, R555) -/

section
variable {s : State} {fn f : Fin 5} {v w : Nat}

theorem configWrite_of_dead (h : s.fnLive fn = false) (c : CfgWrite) : configWrite fn c s = s := by simp [configWrite, h]

theorem configWrite_busMaster (hl : s.fnLive fn = true) (on : Bool) : configWrite fn (.busMaster on) s =
    ({ s with host := { s.host with bme := s.host.bme.set fn on } }).releaseVectors fn := by simp [configWrite, hl]

theorem configWrite_msix (hl : s.fnLive fn = true) (en mask : Bool) : configWrite fn (.msix en mask) s =
    ({ s with host := { s.host with msixEn := s.host.msixEn.set fn en, fnMask := s.host.fnMask.set fn mask } }).releaseVectors
      fn := by simp [configWrite, hl]

theorem configWrite_vfs (hl : s.fnLive fn = true) (h0 : fn = 0) (hp : s.parted = true) (n : Fin 5) :
    configWrite fn (.vfs n) s = s.enableVfs n.val := by
  subst h0
  simp [configWrite, hl, hp]

theorem configWrite_bar2Size (hl : s.fnLive fn = true) (k : Nat) : configWrite fn (.bar2Size k) s =
    if 30 ≤ k ∧ k ≤ (if fn.val = 0 then 39 else 37) then
      { s with host := { s.host with bar2Size := s.host.bar2Size.set fn (2 ^ k) } }
    else s := by simp only [configWrite, hl, Bool.not_true, Bool.false_eq_true, if_false]

theorem msixTableWrite_of_dead (h : s.fnLive fn = false) (v : Nat) (addr : DWord) (data : Word) (masked : Bool) :
    msixTableWrite fn v addr data masked s = s := by simp [msixTableWrite, h]

/-- A function with no message held sends none. -/
theorem releaseVectors_of_none_held (h : ∀ e ∈ s.host.pba, ¬e.1 / 2048 = fn.val) : s.releaseVectors fn = s := by
  have hnil : (s.host.pba.filter fun e => decide (e.1 / 2048 = fn.val)) = [] := by simpa using h
  rw [State.releaseVectors, hnil]
  rfl

/-- The one message held leaves once nothing holds it. -/
theorem releaseVectors_of_one_held (hp : s.host.pba = [(2048 * fn.val + v, true)]) (hv : v < 2048)
    (hm : (s.msixEntry fn v).masked = false) (he : s.host.msixEn.get fn = true) (hk : s.host.fnMask.get fn = false)
    (hb : s.host.bme.get fn = true) :
    s.releaseVectors fn = ({ s with host := { s.host with pba := [] } }).emit
      (.msix fn (s.msixEntry fn v).addr (s.msixEntry fn v).data) := by
  have hdiv : (2048 * fn.val + v) / 2048 = fn.val := by omega
  have hmod : (2048 * fn.val + v) % 2048 = v := by omega
  have hm' : (State.msixEntry { s with host := { s.host with pba := [] } } fn v).masked = false := hm
  simp only [State.releaseVectors, hp, List.filter_cons, hdiv, decide_true, if_true, List.filter_nil, List.foldl_cons,
    List.foldl_nil, hmod, State.releaseVector, SMap.get, SMap.find, Option.getD_some, SMap.put, SMap.del, State.vector, hm', hk, he,
    hb, Bool.not_true, Bool.or_self, Bool.false_eq_true, if_false]
  rfl

theorem msixTableWrite_eq {addr : DWord} {data : Word} {masked : Bool} (hl : s.fnLive fn = true) (hr : s.ready = true)
    (hv : v < s.vectors fn) (hh : SMap.get s.host.pba (2048 * fn.val + v) false = false) :
    msixTableWrite fn v addr data masked s = { s with host := { s.host with
      msix := SMap.put s.host.msix (2048 * fn.val + v) ⟨addr, data, masked⟩ ⟨0, 0, true⟩ } } := by
  simp [msixTableWrite, hl, hr, hv, State.releaseVector, hh]

theorem msixTableWrite_beyond {addr : DWord} {data : Word} {masked : Bool} (hv : s.vectors fn ≤ v) :
    msixTableWrite fn v addr data masked s = s := by
  simp [msixTableWrite, hv]

/-- Vectors of functions have places of their own in the tables. -/
theorem vectorKey_inj (hv : v < 2048) (hw : w < 2048) (h : 2048 * f.val + w = 2048 * fn.val + v) : (f, w) = (fn, v) := by
  have hf : f.val = fn.val := by omega
  have hvw : w = v := by omega
  rw [Fin.ext hf, hvw]

end

/-! ### The link (R546, R548) -/

section
variable {s : State} {w : LinkWidth}

theorem perst_deasserts (hp : s.boot.perst = true) (hstep : 10 ≤ (s.reg (pr 0)).toNat % 16) (k : Fin 4) (w : LinkWidth) :
    perst false (some (k, w)) s = ({ s with boot := { s.boot with perst := false } }).linkUp (6 - k.val) w := by
  simp [perst, hp, hstep]

theorem pcieRetrainTimer_trains (hstep : 11 ≤ (s.reg (pr 0)).toNat % 16) (hup : s.host.up = false) (hp : s.boot.perst = false)
    (w : LinkWidth) : pcieRetrainTimer (some w) s = s.linkUp 3 w := by
  simp [pcieRetrainTimer, hstep, hup, hp]

theorem pcieRetrainTimer_of_up (hup : s.host.up = true) (w : Option LinkWidth) : pcieRetrainTimer w s = s := by
  cases w <;> simp [pcieRetrainTimer, hup]

theorem pcieLaneFailure_narrows (hup : s.host.up = true) (hw : laneWidth w < s.host.width) :
    pcieLaneFailure (some w) s = { s with host := { s.host with width := laneWidth w } } := by
  simp [pcieLaneFailure, hup, hw]

theorem pcieLaneFailure_loses (hup : s.host.up = true) : pcieLaneFailure none s = s.linkDown := by
  simp [pcieLaneFailure, hup]

theorem pcieLaneFailure_of_down (hup : s.host.up = false) (w : Option LinkWidth) : pcieLaneFailure w s = s := by
  simp [pcieLaneFailure, hup]

end

theorem div_of_courseOf (d : CDie) (k : Fin 8) : (courseOf d k).val / 8 = d.val := by
  show (8 * d.val + k.val) / 8 = d.val
  omega

/-! ### The courses after an FLR, and the package after PERST# (R548, R562) -/

section
variable {s : State} {fn : Fin 5}

/-- The courses that FLR of the physical function of a whole package has reset. -/
theorem flr_whole_reset (hl : s.fnLive fn = true) (h0 : fn.val = 0) (hp : s.parted = false) :
    CoursesReset (List.finRange 32) ((s.enableVfs 0).resetFn 0) (flr fn s) := by
  rw [flr_whole hl h0 hp]
  exact foldl_courseReset _ _

theorem flr_whole_effect (hl : s.fnLive fn = true) (h0 : fn.val = 0) (hp : s.parted = false) :
    (∀ g : Course, (((flr fn s).course g).ctl = .halted ∨ ((flr fn s).course g).ctl = .fenced) ∧
      (∀ i, ((flr fn s).course g).rs i = 0) ∧ ∀ n, ((flr fn s).course g).tallyVal n = 0) ∧
    (flr fn s).host.bme.get 0 = false ∧ (flr fn s).mem = s.mem := by
  obtain ⟨hin, -, hmem, hhost⟩ := flr_whole_reset hl h0 hp
  refine ⟨fun g => ?_, ?_, hmem.trans ((State.resetFn_hostOnly _ 0).mem.trans (s.enableVfs_hostOnly 0).mem)⟩
  · obtain ⟨c, hc⟩ := hin g (List.mem_finRange g)
    rw [hc]
    exact ⟨c.overtaken_ctl, c.overtaken_rs, c.overtaken_tallyVal⟩
  · rw [hhost, State.resetFn_host]
    exact (resetFn_silent _ 0).1

/-- The courses that FLR of a virtual function has reset. -/
theorem flr_virtual_reset (hl : s.fnLive fn = true) (h0 : fn.val ≠ 0) :
    CoursesReset ((List.finRange 8).map (courseOf (vfDie fn))) (s.resetFn fn) (flr fn s) := by
  rw [flr_virtual hl h0]
  exact foldl_courseReset _ _

theorem flr_virtual_effect (hl : s.fnLive fn = true) (h0 : fn.val ≠ 0) :
    (∀ k : Fin 8, ∀ n, ((flr fn s).course (courseOf (vfDie fn) k)).tallyVal n = 0) ∧
    (∀ g : Course, g.val / 8 ≠ (vfDie fn).val → (flr fn s).course g = s.course g) ∧
    (flr fn s).host.bme.get fn = false ∧ (flr fn s).mem = s.mem := by
  obtain ⟨hin, hout, hmem, hhost⟩ := flr_virtual_reset hl h0
  have hreset := s.resetFn_hostOnly fn
  refine ⟨fun k n => ?_, fun g hg => ?_, ?_, hmem.trans hreset.mem⟩
  · obtain ⟨c, hc⟩ := hin _ (List.mem_map_of_mem (List.mem_finRange k))
    rw [hc]
    exact c.overtaken_tallyVal n
  · refine (hout g fun hm => ?_).trans (hreset.course g)
    obtain ⟨k, -, rfl⟩ := List.mem_map.mp hm
    exact hg (div_of_courseOf _ k)
  · rw [hhost, State.resetFn_host]
    exact (resetFn_silent _ fn).1

/-- The state once PERST# has ended the reads of host memory, the virtual functions and the link. -/
def State.perstUnlinked (s : State) : State :=
  (({ s with boot := { s.boot with perst := true } }).dropHostReads.enableVfs 0).linkDown

theorem perst_asserts (h : s.boot.perst = false) (link : Option (Fin 4 × LinkWidth)) :
    perst true link s = (List.finRange 5).foldl (fun t fn => t.resetFn fn) s.perstUnlinked := by
  simp [perst, h, State.perstUnlinked]

theorem State.perstUnlinked_reads (s : State) :
    ∃ t, ReadsEnd { s with boot := { s.boot with perst := true } } t ∧ HostOnly t s.perstUnlinked :=
  ⟨_, State.dropHostReads_readsEnd _, (State.enableVfs_hostOnly _ 0).trans (hostOnly_host _ _)⟩

theorem perst_effect (hp : s.boot.perst = false) (link : Option (Fin 4 × LinkWidth)) :
    (perst true link s).boot.perst = true ∧ (perst true link s).host.up = false ∧
    (∀ i, (perst true link s).host.bme.get i = false) ∧
    (∀ i v, v < 2048 → (perst true link s).msixEntry i v = ⟨0, 0, true⟩) ∧ (perst true link s).mem = s.mem ∧
    ∀ g : Course, ((perst true link s).course g).ctl = (s.course g).ctl ∧
      (∀ i, ((perst true link s).course g).rs i = (s.course g).rs i) ∧
      ∀ n, ((perst true link s).course g).tallyVal n = (s.course g).tallyVal n := by
  obtain ⟨t, hreads, hunlinked⟩ := s.perstUnlinked_reads
  have hreset := hunlinked.trans (foldl_hostOnly (fun t fn => t.resetFn_hostOnly fn) (List.finRange 5) _)
  have hsilent (i : Fin 5) := foldl_resetFn_silent (List.finRange 5) s.perstUnlinked (.inl (List.mem_finRange i))
  rw [perst_asserts hp link]
  refine ⟨?_, ?_, fun i => (hsilent i).1, fun i v hv => msixEntry_of_silent (hsilent i) hv, hreset.mem.trans hreads.mem, fun g => ?_⟩
  · rw [hreset.boot, hreads.boot]
  · exact foldl_resetFn_up _ _
  · obtain ⟨x, hx⟩ := hreads.course g
    rw [hreset.course, hx]
    exact ⟨rfl, fun _ => rfl, fun _ => rfl⟩

end

/-- Settles O55: each command by the equation of its case; resets by what they leave of courses, functions and streams. -/
theorem hostFunctionsAndLink : Obligations.HostFunctionsAndLink := by
  intro s fn h mine held
  have next {t u : State} (e : t = u) : (Host.Outcome.next t : Out) = .next u := congrArg _ e
  refine ⟨fun hl => ⟨fun hnone => ⟨fun on => ?_, fun en mask => ?_⟩, fun v e hp hv he hm hen hk => ?_,
      fun n h0 hp hab => ?_, fun k hlo hhi => ?_, fun k hk => ?_, fun v addr data masked hr hv hh => ?_,
      fun v addr data masked hv => next (msixTableWrite_beyond hv), fun h0 hp => ⟨_, rfl, flr_whole_effect hl h0 hp⟩,
      fun h0 => ⟨_, rfl, flr_virtual_effect hl h0⟩⟩,
    fun hd => ⟨next (flr_of_dead hd), fun c => next (configWrite_of_dead hd c),
      fun v addr data masked => next (msixTableWrite_of_dead hd v.val addr data masked)⟩,
    fun link hp => ⟨_, rfl, perst_effect hp link⟩, fun k w hp hstep => ⟨_, next (perst_deasserts hp hstep k w), rfl⟩,
    fun w hstep hup hp => ⟨_, next (pcieRetrainTimer_trains hstep hup hp w), rfl⟩,
    fun w hup => next (pcieRetrainTimer_of_up hup w), fun w hup hw => ⟨_, next (pcieLaneFailure_narrows hup hw), rfl⟩,
    fun hup => ⟨_, next (pcieLaneFailure_loses hup), rfl⟩, fun w hup => next (pcieLaneFailure_of_down hup w)⟩
  · exact ⟨_, next ((configWrite_busMaster hl on).trans (releaseVectors_of_none_held hnone)), rfl⟩
  · exact ⟨_, next ((configWrite_msix hl en mask).trans (releaseVectors_of_none_held hnone)), rfl⟩
  · subst he
    have hb : (h.bme.set fn true).get fn = true := vector_get_set _ _ _
    exact ⟨_, next ((configWrite_busMaster hl true).trans (releaseVectors_of_one_held hp hv hm hen hk hb)), rfl, rfl⟩
  · refine ⟨_, next ((configWrite_vfs hl h0 hp n).trans (enableVfs_of_none_above hab)), fun i => ?_, rfl⟩
    simp [Vector.get_eq_getElem]
  · exact ⟨_, next ((configWrite_bar2Size hl k).trans (if_pos ⟨hlo, hhi⟩)), rfl⟩
  · refine next ((configWrite_bar2Size hl k).trans (if_neg fun hin => ?_))
    exact hk.elim (fun hlo => absurd hin.1 (by omega)) fun hhi => absurd hin.2 (by omega)
  · refine ⟨_, next (msixTableWrite_eq hl hr hv hh), SMap.get_put_same _ _ _ _, fun f w hne hw => ?_, rfl, rfl, rfl, rfl⟩
    exact SMap.get_put_other (fun hk => hne (vectorKey_inj v.isLt hw hk)) _ _ _ _

end Sys2Proof.Machine

/-! SUPPORT. RemoteAdditions: an addition to a block, a request's way through the checks, the ports and the adder of its
controller, and the registers of the largest magnitudes (R68, R323 to R326, R377, R378, R384, R399, R400, R484). -/

namespace Sys2Proof.Machine

/-! ### One addition to a block (R68, R378) -/

section
variable {b : Rab} {w : Bw}

theorem maskOf_testBit {α : Type} (p : α → Bool) (d : α) : ∀ (l : List α) (i : Nat), i < l.length →
    (maskOf p l).testBit i = p (l.getD i d)
  | x :: xs, 0, _ => by cases hx : p x <;> simp [maskOf, hx]
  | x :: xs, i + 1, h => by
    have hd : ((if p x then 1 else 0) + 2 * maskOf p xs) / 2 = maskOf p xs := by
      split <;> omega
    rw [maskOf, Nat.testBit_succ, hd, maskOf_testBit p d xs i (by simpa using h), List.getD_cons_succ]

theorem rabMismatch_iff : rabMismatch b w = true ↔ w.exp = 0xFF ∨ (1 ≤ b.count ∧ w.exp ≠ b.exp) := by
  simp [rabMismatch]

theorem rabAdd_of_mismatch (h : rabMismatch b w = true) : (rabAdd b w).exp = b.exp ∧ (rabAdd b w).poison = 2 ^ 64 - 1 ∧
    (rabAdd b w).lanes = List.replicate 64 0 := by
  simp [rabAdd, h]

theorem rabAdd_counts (b : Rab) (w : Bw) : (rabAdd b w).count = min (b.count + 1) 0xFFFFFFFF ∧
    (rabAdd b w).overrange = min (b.overrange + w.overrange) 0xFFFFFFFF ∧
    (rabAdd b w).exceeded = (b.exceeded || decide (65536 < min (b.count + 1) 0xFFFFFFFF)) := by
  unfold rabAdd
  dsimp only
  split
  · exact ⟨rfl, rfl, rfl⟩
  · exact ⟨rfl, rfl, rfl⟩

theorem rabAdd_of_match (h : rabMismatch b w = false) : (rabAdd b w).exp = (if b.count = 0 then w.exp else b.exp) ∧
    (rabAdd b w).poison = b.poison ||| maskOf Option.isNone w.vals := by
  simp [rabAdd, h]

theorem rabAdd_lane {i : Nat} (h : rabMismatch b w = false) (hi : i < 64) : (rabAdd b w).lanes.getD i 0 =
    if (rabAdd b w).poison.testBit i then 0
    else rabSum (rabAdd b w).exceeded i (b.lanes.getD i 0) ((w.vals.getD i none).getD 0) := by
  simp [rabAdd, h, hi]

/-- Within COUNT's guarantee and the 48 bits of a lane the sum is exact. -/
theorem rabSum_exact {i : Nat} {l v : Int} (hlo : -(2 ^ 47) ≤ l + v) (hhi : l + v < 2 ^ 47) : rabSum false i l v = l + v := by
  simp only [rabSum, hlo, hhi]
  rfl

theorem rabAdd_blocks : blocksAdd := by
  intro b w
  obtain ⟨hcount, hover, hexc⟩ := rabAdd_counts b w
  have hexc' : (rabAdd b w).exceeded = (b.exceeded || decide (65536 < b.count + 1)) := by
    rw [hexc]
    congr 2
    exact propext (by omega)
  refine ⟨hcount, hover, hexc', fun ho => ?_, fun ho => ?_⟩
  · obtain ⟨he, hp, hl⟩ := rabAdd_of_mismatch (rabMismatch_iff.2 ho)
    exact ⟨he, fun i hi => by simp only [hp, Nat.testBit_two_pow_sub_one, hi, decide_true, hl, List.getD_replicate, and_self]⟩
  · have hm : rabMismatch b w = false := Bool.eq_false_iff.2 fun h => ho (rabMismatch_iff.1 h)
    obtain ⟨he, hp⟩ := rabAdd_of_match hm
    refine ⟨he, fun i hi hlen => ?_⟩
    have hbit : (rabAdd b w).poison.testBit i = (b.poison.testBit i || decide (w.vals.getD i none = none)) := by
      rw [hp, Nat.testBit_or, maskOf_testBit _ none _ _ (by omega)]
      cases w.vals.getD i none <;> rfl
    refine ⟨hbit, fun hpi => ?_, fun v hb hv hx hc hlo hhi => ?_⟩
    · rw [rabAdd_lane hm hi, if_pos hpi]
    · have hpi : (rabAdd b w).poison.testBit i = false := by
        rw [hbit, hb, hv]
        rfl
      have hxi : (rabAdd b w).exceeded = false := by
        rw [hexc', hx]
        simp only [Bool.false_or, decide_eq_false_iff_not]
        omega
      rw [rabAdd_lane hm hi, hpi, hxi, hv]
      exact rabSum_exact hlo hhi

end

/-! ### MAXCLR (R377, R399, R400) -/

section
variable {s : State} {a : Agent} {o k : Nat} {b : Blk} {r : RegRow} {v : Word}

/-- A command that reaches a 32-bit register of no die block is a write of that register. -/
theorem command_of_reaches (h : Reaches s a o) (hl : locate o = some (b, k)) (hb : ∀ d, b ≠ .die d) (hr : regRow b k = some r)
    (hw : r.wide = false) : s.command a o v = s.putWord b r k v := by
  obtain ⟨off, ha, hat⟩ := h
  rw [← putReg_word hl hr hw, ← writeReg_of_reach hat (ringShut_of_locate hl hb)]
  simp only [State.command, ha]

theorem locate_cr (g : Course) {o : Nat} (ho : o < 0x100000) : locate (cr g o) = some (.course g, o) := by
  have h := locate_course (courseCDie g) ⟨g.val % 8, by omega⟩ ho
  have hg : courseOf (courseCDie g) ⟨g.val % 8, by omega⟩ = g := by
    apply Fin.ext
    simp only [courseOf, courseCDie]
    omega
  rwa [hg] at h

theorem locate_mr (k : Stack) {o : Nat} (ho : o < 0x200000) : locate (mr k o) = some (.mem k, o) := by
  have hk := k.isLt
  have hd : mr k o / 0x4000000 = k.val / 2 := by
    simp only [mr, Blk.base]
    omega
  have hr : mr k o % 0x4000000 = 0x1000000 + k.val % 2 * 0x200000 + o := by
    simp only [mr, Blk.base]
    omega
  have hd4 : k.val / 2 < 4 := by omega
  obtain h2 | h2 := Nat.mod_two_eq_zero_or_one k.val
  · have he : (⟨2 * (k.val / 2), by omega⟩ : Stack) = k := Fin.ext (by simp only; omega)
    have h1 : ¬0x1000000 + o < 0x100000 := by omega
    have h3 : ¬0x1000000 + o < 0x900000 := by omega
    have h5 : 0x1000000 + o < 0x1200000 := by omega
    simp [locate, hd, hr, hd4, h2, he, h1, h3, h5]
  · have he : (⟨2 * (k.val / 2) + 1, by omega⟩ : Stack) = k := Fin.ext (by simp only; omega)
    have h1 : ¬0x1200000 + o < 0x100000 := by omega
    have h3 : ¬0x1200000 + o < 0x900000 := by omega
    have h4 : ¬0x1200000 + o < 0x1000000 := by omega
    have h5 : 0x1200000 + o < 0x1400000 := by omega
    simp [locate, hd, hr, hd4, h2, he, h1, h3, h4, h5]

theorem maxclr_clears (g : Course) (h : Reaches s a (cr g 0x300C)) : s.command a (cr g 0x300C) 1 = s.setReg (cr g 0x3008) 0 := by
  have hr : regRow (.course g) 0x300C = some (regWo 0x300C 0) := rfl
  exact command_of_reaches h (locate_cr g (by omega)) (fun _ => Blk.noConfusion) hr rfl

theorem mcMaxclr_clears (k : Stack) (h : Reaches s a (mr k 0x2008)) : s.command a (mr k 0x2008) 1 = s.setReg (mr k 0x2004) 0 := by
  have hr : regRow (.mem k) 0x2008 = some (regWo 0x2008 0) := rfl
  exact command_of_reaches h (locate_mr k (by omega)) (fun _ => Blk.noConfusion) hr rfl

theorem maxima_clear : maximaClear := fun _ _ =>
  ⟨fun g h => congrArg Host.Outcome.next (maxclr_clears g h), fun k h => congrArg Host.Outcome.next (mcMaxclr_clears k h)⟩

end

/-! ### What a controller's reports and counts leave -/

section
variable {s t u : State} {j k : Stack} {o base : Nat}

theorem mr_ne_mr (hne : o ≠ 0x48) (ho : o < 0x200000) : mr k 0x48 ≠ mr j o := by
  simp only [mr, Blk.base]
  omega

theorem mr_ne_cr (g : Course) (ho : o < 0x100000) : mr k 0x48 ≠ cr g o := by
  simp only [mr, cr, Blk.base]
  omega

theorem mr_ne_port (p : PortId) : mr k 0x48 ≠ (Blk.port p).base + o := by
  simp only [mr, Blk.base]
  omega

/-- From s to t nothing has changed but registers, free values and what is presented to the dies' reliability units; the routes
and the counts of additions performed (MEM_RA_BLOCKS, R342) are as they were. -/
structure Tells (s t : State) : Prop where
  reports : Reports s t
  tx : ∀ d, (t.die d).tx = (s.die d).tx
  adds : ∀ k, t.reg64 (mr k 0x48) = s.reg64 (mr k 0x48)

theorem Tells.refl (s : State) : Tells s s := ⟨.refl s, fun _ => rfl, fun _ => rfl⟩

theorem Tells.trans (h : Tells s t) (h' : Tells t u) : Tells s u :=
  ⟨h.reports.trans h'.reports, fun d => (h'.tx d).trans (h.tx d), fun k => (h'.adds k).trans (h.adds k)⟩

theorem Tells.mems (h : Tells s t) : t.mems = s.mems := by
  obtain ⟨⟨_, _, _, _, rfl⟩, -, -⟩ := h
  rfl

theorem Tells.courses (h : Tells s t) : t.courses = s.courses := by
  obtain ⟨⟨_, _, _, _, rfl⟩, -, -⟩ := h
  rfl

theorem Tells.msgs (h : Tells s t) : t.msgs = s.msgs := by
  obtain ⟨⟨_, _, _, _, rfl⟩, -, -⟩ := h
  rfl

theorem hopsUp_of_tx (h : ∀ d, (t.die d).tx = (s.die d).tx) (l : List Nat) : hopsUp t l = hopsUp s l := by
  have hop (a b : Nat) : t.hopUp a b = s.hopUp a b := by simp [State.hopUp, State.modules, h]
  induction l with
  | nil => rfl
  | cons a r ih =>
    cases r with
    | nil => rfl
    | cons b r => rw [hopsUp, hopsUp, hop, ih]

theorem Tells.reachable (h : Tells s t) (m : Msg) : t.reachable m = s.reachable m := hopsUp_of_tx h.tx _

theorem State.orReg_tells (s : State) (o : Nat) (m : Word) : Tells s (s.orReg o m) :=
  ⟨s.orReg_reports o m, fun _ => rfl, fun _ => rfl⟩

theorem State.count_tells {ctrl cnt n : Nat} (h : ∀ k, mr k 0x48 ≠ base + cnt) : Tells s (s.count base ctrl cnt n) := by
  refine ⟨s.count_reports base ctrl cnt n, fun d => ?_, fun k => ?_⟩
  · obtain ⟨w, hw⟩ := count_frame s base ctrl cnt n
    rw [hw]
    rfl
  · unfold State.count
    split
    · rfl
    · exact State.setReg64_reg64_ne _ (h k) _

theorem State.capture1_tells {info addr : Nat} {q : Option Nat} (h : ∀ p, q = some p → ∀ k, mr k 0x48 ≠ p) :
    Tells s (s.capture1 o info q addr) := by
  unfold State.capture1
  split
  · exact .refl s
  · cases q with
    | none => exact ⟨⟨_, _, _, _, rfl⟩, fun _ => rfl, fun _ => rfl⟩
    | some p => exact ⟨⟨_, _, _, _, rfl⟩, fun _ => rfl, fun k => State.setReg64_reg64_ne _ (h p rfl k) _⟩

theorem State.raise_tx (s : State) (d e : Die) (r : Report) : ((s.raise d r).die e).tx = (s.die e).tx := by
  by_cases h : e = d
  · subst h
    rw [State.raise_die]
  · rw [State.raise_die_ne _ h]

theorem State.raiseWith_tells (s : State) (d : Die) (r : Report) (info : Option DWord) : Tells s (s.raiseWith d r info) := by
  refine ⟨s.raiseWith_reports d r info, fun e => ?_, fun k => ?_⟩
  · cases info <;> exact State.raise_tx _ _ _ _
  · cases info <;> rfl

theorem State.efirst_tells (s : State) (g : Course) (code : BitVec 16) (q : Nat) (pc : Addr) : Tells s (s.efirst g code q pc) := by
  refine ⟨s.efirst_reports g code q pc, fun d => by rw [State.efirst_die], fun k => ?_⟩
  unfold State.efirst
  split
  · rfl
  · exact State.setReg64_reg64_ne _ (mr_ne_cr g (by omega)) _

end

/-! ### An outcome goes back (R384, R413) -/

section
variable {s t u : State} {g : Course} {x : IoDie}

/-- From s to t neither memory nor the controllers nor the counts of additions performed have changed. -/
structure KeepsAdders (s t : State) : Prop where
  mem : t.mem = s.mem
  mems : t.mems = s.mems
  adds : ∀ k, t.reg64 (mr k 0x48) = s.reg64 (mr k 0x48)

theorem KeepsAdders.refl (s : State) : KeepsAdders s s := ⟨rfl, rfl, fun _ => rfl⟩

theorem KeepsAdders.trans (h : KeepsAdders s t) (h' : KeepsAdders t u) : KeepsAdders s u :=
  ⟨h'.mem.trans h.mem, h'.mems.trans h.mems, fun k => (h'.adds k).trans (h.adds k)⟩

theorem Tells.keepsAdders (h : Tells s t) : KeepsAdders s t := ⟨h.reports.mem, h.mems, h.adds⟩

theorem State.modCourse_keepsAdders (s : State) (g : Course) (f : CourseState → CourseState) : KeepsAdders s (s.modCourse g f) :=
  ⟨rfl, rfl, fun _ => rfl⟩

theorem State.modNet_keepsAdders (s : State) (x : IoDie) (f : NetState → NetState) : KeepsAdders s (s.modNet x f) :=
  ⟨rfl, rfl, fun _ => rfl⟩

theorem State.send_keepsAdders (s : State) (a b : Node) (m : MsgBody) : KeepsAdders s (s.send a b m) := by
  obtain ⟨l, hl⟩ := s.send_eq a b m
  rw [hl]
  exact ⟨rfl, rfl, fun _ => rfl⟩

theorem ite_keepsAdders {c : Prop} {_ : Decidable c} (ht : KeepsAdders s t) (hu : KeepsAdders s u) :
    KeepsAdders s (if c then t else u) := by
  split <;> assumption

theorem State.instrFault_keepsAdders (s : State) (g : Course) (q : QueueId) (n : Nat) (code : BitVec 16) (unit : Byte)
    (sub : BitVec 4) (info : Option DWord) : KeepsAdders s (s.instrFault g q n code unit sub info) := by
  unfold State.instrFault
  split
  · exact .refl s
  · exact ((State.raiseWith_tells _ _ _ _).trans (State.efirst_tells _ _ _ _ _)).keepsAdders.trans
      (State.modCourse_keepsAdders _ _ _)

theorem State.redRefused_keepsAdders (s : State) (g : Course) (n : Nat) (code : BitVec 16) (remote first : Bool) :
    KeepsAdders s (s.redRefused g n code remote first) :=
  ite_keepsAdders ((State.instrFault_keepsAdders _ _ _ _ _ _ _ _).trans
    ((State.orReg_tells _ _ _).trans (State.capture1_tells (by simp))).keepsAdders) (.refl s)

theorem State.ringAdvance_keepsAdders (g : Course) : ∀ (n : Nat) (s : State), KeepsAdders s (s.ringAdvance g n)
  | 0, s => .refl s
  | n + 1, s => by
    have again (f : Ring → Ring) : KeepsAdders s ((s.modRing g f).ringAdvance g n) :=
      (State.modCourse_keepsAdders _ _ _).trans (State.ringAdvance_keepsAdders g n _)
    unfold State.ringAdvance
    split
    · exact .refl s
    · split
      · exact .refl s
      · exact ite_keepsAdders (again _) (.refl s)
      · exact ite_keepsAdders (.refl s) (ite_keepsAdders (again _) (ite_keepsAdders (again _) (again _)))
      · exact ite_keepsAdders ⟨rfl, rfl, fun _ => rfl⟩ (.refl s)

theorem State.ringGot_keepsAdders (s : State) (g : Course) (tag b : Nat) (code : BitVec 16) :
    KeepsAdders s (s.ringGot g tag b code) := by
  unfold State.ringGot
  split
  · exact .refl s
  · exact (ite_keepsAdders (.refl s) (s.redRefused_keepsAdders _ _ _ _ _)).trans
      ((State.modCourse_keepsAdders _ _ _).trans (State.ringAdvance_keepsAdders _ _ _))

theorem State.roceOut_keepsAdders (s : State) (x : IoDie) (q op psn : Nat) (areq : Bool) (p : List Byte) (mk : List Byte → OutMsg) :
    KeepsAdders s (s.roceOut x q op psn areq p mk) := by
  have used : KeepsAdders s s.used := ⟨rfl, rfl, fun _ => rfl⟩
  have emit (t : State) (m : OutMsg) : KeepsAdders t (t.emit m) := ⟨rfl, rfl, fun _ => rfl⟩
  exact used.trans (ite_keepsAdders ((emit _ _).trans (State.count_tells fun _ => mr_ne_port _).keepsAdders) (.refl _))

theorem State.sendPackets_keepsAdders (s : State) (x : IoDie) (q psn : Nat) (bs : List Byte) :
    KeepsAdders s (s.sendPackets x q psn bs) :=
  foldl_related KeepsAdders.refl KeepsAdders.trans (fun _ _ => State.roceOut_keepsAdders _ _ _ _ _ _ _ _) _ _

theorem State.roceSend_keepsAdders (s : State) (x : IoDie) (q : Nat) (m : NetMsg) : KeepsAdders s (s.roceSend x q m) := by
  unfold State.roceSend State.modQp
  exact (s.sendPackets_keepsAdders _ _ _ _).trans (State.modNet_keepsAdders _ _ _)

/-- An answer to a message has no instruction that could end with it (R433). -/
theorem State.netSend_keepsAdders (s : State) (src : Node) {m : NetMsg} (h : m.origin = .answer) (not : Option Nat) :
    KeepsAdders s (s.netSend src m not) := by
  have lost : KeepsAdders s (s.unreachable m.origin) := by
    rw [h]
    exact .refl s
  unfold State.netSend
  dsimp only
  split
  · exact lost
  · refine ite_keepsAdders (ite_keepsAdders (s.modNet_keepsAdders _ _) (.refl s)) ?_
    split
    · exact lost
    · exact ite_keepsAdders ((s.modNet_keepsAdders _ _).trans
        (ite_keepsAdders (State.roceSend_keepsAdders _ _ _ _) (State.modNet_keepsAdders _ _ _))) (.refl s)

theorem State.countTotal_keepsAdders (s : State) (x : IoDie) (j : NetJob) : KeepsAdders s (s.countTotal x j) := by
  unfold State.countTotal
  dsimp only
  split
  · exact .refl s
  · exact ite_keepsAdders ((s.modNet_keepsAdders _ _).trans (State.send_keepsAdders _ _ _ _)) (s.modNet_keepsAdders _ _)

theorem State.netJobDone_keepsAdders (s : State) (x : IoDie) (j : NetJob) : KeepsAdders s (s.netJobDone x j) :=
  (s.modNet_keepsAdders _ _).trans ((State.netSend_keepsAdders _ _ rfl _).trans (State.countTotal_keepsAdders _ _ _))

theorem State.netDecided_keepsAdders (s : State) (x : IoDie) (id i : Nat) (code : BitVec 16) :
    KeepsAdders s (s.netDecided x id i code) := by
  unfold State.netDecided
  dsimp only
  split
  · exact .refl s
  · have last {t : State} {c : Prop} {_ : Decidable c} {j : NetJob} (h : KeepsAdders s t) :
        KeepsAdders s (if c then t.netJobDone x j else t) := ite_keepsAdders (h.trans (t.netJobDone_keepsAdders x j)) h
    refine last ?_
    split
    · exact (s.modNet_keepsAdders _ _).trans (State.ringGot_keepsAdders _ _ _ _ _)
    · exact s.modNet_keepsAdders _ _

theorem State.raOutcome_keepsAdders (s : State) (k : Stack) (o : RaFrom) (code : BitVec 16) :
    KeepsAdders s (s.raOutcome k o code) := by
  cases o with
  | instr g n => exact s.send_keepsAdders _ _ _
  | net x id j => exact s.netDecided_keepsAdders _ _ _ _

theorem State.send_msgs {a b : Node} {m : MsgBody} (h : s.reachable ⟨a, b, m⟩ = true) :
    (s.send a b m).msgs = s.msgs ++ [⟨a, b, m⟩] := by
  simp [State.send, h]

/-- Once a controller has reported and counted, its answer to an instruction is the one message that leaves. -/
theorem Tells.send (h : Tells s t) (a b : Node) (m : MsgBody) : (t.send a b m).courses = s.courses ∧
    (s.reachable ⟨a, b, m⟩ = true → (t.send a b m).msgs = s.msgs ++ [⟨a, b, m⟩]) := by
  refine ⟨?_, fun hr => ?_⟩
  · obtain ⟨l, hl⟩ := t.send_eq a b m
    rw [hl]
    exact h.courses
  · rw [State.send_msgs ((h.reachable _).trans hr), h.msgs]

end

/-! ### A request arrives (R21, R325) -/

section
variable {s t : State} {k : Stack} {r : RaReq} {rest : List Msg}

/-- The oldest message for a destination is the next that it takes. -/
theorem takeMsg_of_oldest {m : Msg} {p : MsgBody → Bool} (hp : p m.body = true) {before after : List Msg}
    (hb : ∀ x ∈ before, x.dst ≠ m.dst) : takeMsg m.dst p [] (before ++ m :: after) = some (m, before ++ after) := by
  induction before with
  | nil => simp [takeMsg, hp]
  | cons x l ih =>
    have hx : x.dst ≠ m.dst := hb x (by simp)
    simp [takeMsg, hx, ih fun y hy => hb y (by simp [hy])]

theorem arrive_of_oldest {m : Msg} (h : Oldest s m rest) {p : MsgBody → Bool} (hp : p m.body = true) (f : State → Msg → State) :
    s.arrive m.dst p f = f { s with msgs := rest } m := by
  obtain ⟨before, after, hm, rfl, hb⟩ := h
  rw [State.arrive, hm, takeMsg_of_oldest hp hb]

theorem raRequestArrive_of_oldest {src : Node} (h : Oldest s ⟨src, .mem k, .raReq r⟩ rest) :
    raRequestArrive k s = ({ s with msgs := rest } : State).raArrive k r := arrive_of_oldest h rfl _

theorem raArrive_of_passes (h : s.raCheck k r = none) :
    s.raArrive k r = (s.modMem k fun m => { m with raQueue := m.raQueue ++ [(r, s.stamp, 0)] }).tick := by
  rw [State.raArrive, h]

theorem raArrive_of_fails {code : BitVec 16} (h : s.raCheck k r = some code) : s.raArrive k r =
    ((s.count (mbase k) 0x68 0x50 1).raiseMem k code (some (BitVec.ofNat 64 r.addr))).raOutcome k r.origin code := by
  rw [State.raArrive, h]

theorem raArrive_refuses {code : BitVec 16} {g : Course} {n : Nat} (h : s.raCheck k r = some code) (ho : r.origin = .instr g n) :
    (s.raArrive k r).mems = s.mems ∧ (s.raArrive k r).mem = s.mem ∧ (s.raArrive k r).courses = s.courses ∧
    (∃ x, ((s.raArrive k r).die (stackDie k)).presented = (s.die (stackDie k)).presented ++ [x] ∧ x.code = code ∧
      x.srcUnit = 0x0A ∧ x.info = BitVec.ofNat 64 r.addr) ∧
    (s.reachable ⟨.mem k, .course g, .raOutcome g n code⟩ = true →
      (s.raArrive k r).msgs = s.msgs ++ [⟨.mem k, .course g, .raOutcome g n code⟩]) := by
  have tells : Tells s ((s.count (mbase k) 0x68 0x50 1).raiseMem k code (some (BitVec.ofNat 64 r.addr))) :=
    (State.count_tells fun _ => mr_ne_mr (by omega) (by omega)).trans (State.raiseWith_tells _ _ _ _)
  obtain ⟨w, hw⟩ := count_frame s (mbase k) 0x68 0x50 1
  rw [raArrive_of_fails h, ho]
  obtain ⟨hc, hm⟩ := tells.send (.mem k) (.course g) (.raOutcome g n code)
  obtain ⟨l, hl⟩ := ((s.count (mbase k) 0x68 0x50 1).raiseMem k code (some (BitVec.ofNat 64 r.addr))).send_eq
    (.mem k) (.course g) (.raOutcome g n code)
  have keeps := tells.keepsAdders.trans (State.send_keepsAdders _ (.mem k) (.course g) (.raOutcome g n code))
  refine ⟨keeps.mems, keeps.mem, hc, ?_, hm⟩
  refine ⟨{ plainReport code 0x0A (BitVec.ofNat 8 (k.val % 2)) 0xF with info := BitVec.ofNat 64 r.addr }, ?_, rfl, rfl, rfl⟩
  rw [State.raOutcome, hl, hw]
  exact congrArg DieState.presented (State.raise_die _ _ _)

end

/-! ### The order of the sources (R477, R482) -/

section
variable {a : Arb} {r : Nat}

theorem Arb.num_of_none_kept (h : a.kept = []) (r : Nat) : a.num r = mapNum a.force r := by
  simp [Arb.num, h]

theorem Arb.phase_of_none_latched (hl : a.latched = none) (hk : a.kept = []) (holds : Nat → Bool) : a.phase holds = (a, false) := by
  cases a
  subst hl hk
  rfl

/-- The source whose number comes up in a phase. -/
theorem Arb.find_num (hinj : ∀ i j, i < 16 → j < 16 → a.num i = a.num j → i = j) (hr : r < 16) :
    ((List.range 16).find? fun i => a.num i == a.num r) = some r := by
  cases hf : (List.range 16).find? fun i => a.num i == a.num r with
  | none => exact absurd (List.find?_eq_none.1 hf r (List.mem_range.2 hr)) (by simp)
  | some x =>
    have hx : a.num x = a.num r := by simpa using List.find?_some hf
    rw [hinj x r (List.mem_range.1 (List.mem_of_find?_eq_some hf)) hr hx]

/-- Where no number is given twice, a phase comes to a source after those of higher numbers alone. -/
theorem Arb.order_split (hn : a.num r < 16) (hinj : ∀ i j, i < 16 → j < 16 → a.num i = a.num j → i = j) (hr : r < 16) :
    ∃ before after, a.order = before ++ r :: after ∧ ∀ x ∈ before, a.num r < a.num x := by
  obtain ⟨l, l', hl⟩ := List.append_of_mem (List.mem_reverse.2 (List.mem_range.2 hn))
  have hdec : ((List.range 16).reverse).Pairwise (· > ·) := List.pairwise_reverse.2 List.pairwise_lt_range
  rw [hl, List.pairwise_append] at hdec
  refine ⟨l.filterMap fun n => (List.range 16).find? fun i => a.num i == n,
    l'.filterMap fun n => (List.range 16).find? fun i => a.num i == n, ?_, fun x hx => ?_⟩
  · rw [Arb.order, hl, List.filterMap_append]
    exact congrArg _ (List.filterMap_cons_some (Arb.find_num hinj hr))
  · obtain ⟨n, hnl, hf⟩ := List.mem_filterMap.1 hx
    have hxn : a.num x = n := by simpa using List.find?_some hf
    rw [hxn]
    exact hdec.2.2 n hnl _ List.mem_cons_self

end

/-! ### What a source presents (R476; log entry 84) -/

section
variable {m : MemState} {r q : RaReq} {st ph st' ph' x : Nat}

theorem presents_of_none_wait (h : m.raQueue = []) (x : Nat) : m.presents x = none := by
  simp [MemState.presents, h]

theorem presents_of_one_waits (h : m.raQueue = [(r, st, ph)]) (x : Nat) :
    m.presents x = if r.src = x then some (r, st, ph) else none := by
  by_cases hx : r.src = x <;> simp [MemState.presents, MemState.behind, h, hx]

/-- Of two requests for different blocks neither is behind the other. -/
theorem presents_of_two_wait (h : m.raQueue = [(r, st, ph), (q, st', ph')]) (ha : q.addr ≠ r.addr) (x : Nat) :
    m.presents x = if r.src = x then some (r, st, ph) else if q.src = x then some (q, st', ph') else none := by
  by_cases hx : r.src = x
  · simp [MemState.presents, MemState.behind, h, hx, ha]
  · by_cases hy : q.src = x <;> simp [MemState.presents, MemState.behind, h, hx, hy, Ne.symm ha]

theorem mem_present {e : RaReq × Nat × Nat} (hx : x < 16) (h : m.presents x = some e) : e ∈ m.present :=
  List.mem_filterMap.2 ⟨x, List.mem_range.2 hx, h⟩

end

/-! ### Grants (R324, R484, R490) -/

/-- From s to t only registers and the free values used have changed. -/
def RegsOnly (s t : State) : Prop := ∃ r w n, t = { s with regs := r, wide := w, freeCtr := n }

/-- From s to t memory, the courses, the dies and the messages on their way are as they were. -/
structure PhaseLeaves (s t : State) : Prop where
  mem : t.mem = s.mem
  courses : t.courses = s.courses
  dies : t.dies = s.dies
  msgs : t.msgs = s.msgs

/-- Source x's request e has a port (R484). -/
def State.granted (s : State) (k : Stack) (x : Nat) (e : RaReq × Nat × Nat) : State :=
  (s.modMem k fun m => { m with raQueue := m.raQueue.filter (fun f => f.2.1 != e.2.1), raPorts := m.raPorts ++ [e.1] }).recordGrant
    (mbase k) 0xF8 0x100 x (e.2.2 + 1)

/-- A request that is among those left over has waited one phase more (R490). -/
def agedIn (left : List (RaReq × Nat × Nat)) (q : RaReq × Nat × Nat) : RaReq × Nat × Nat :=
  if left.any (fun e => e.2.1 == q.2.1) then (q.1, q.2.1, q.2.2 + 1) else q

section
variable {s t u : State} {k : Stack} {q : RaReq} {st ph x : Nat} {e : RaReq × Nat × Nat} {a : Arb}

theorem RegsOnly.refl (s : State) : RegsOnly s s := ⟨_, _, _, rfl⟩

theorem RegsOnly.trans (h : RegsOnly s t) (h' : RegsOnly t u) : RegsOnly s u := by
  obtain ⟨_, _, _, rfl⟩ := h
  obtain ⟨r, w, n, rfl⟩ := h'
  exact ⟨r, w, n, rfl⟩

theorem RegsOnly.memc (h : RegsOnly s t) (k : Stack) : t.memc k = s.memc k := by
  obtain ⟨_, _, _, rfl⟩ := h
  rfl

theorem recordGrant_regsOnly (s : State) (base ctrl o r n : Nat) : RegsOnly s (s.recordGrant base ctrl o r n) := by
  obtain ⟨w, hw⟩ := count_frame s base ctrl (o + 16 * r) 1
  unfold State.recordGrant State.recordWait
  rw [hw]
  dsimp only
  (repeat' split) <;> exact ⟨_, _, _, rfl⟩

theorem countWaits_regsOnly (s : State) (base ctrl o : Nat) (l : List Nat) : RegsOnly s (s.countWaits base ctrl o l) := by
  refine foldl_related RegsOnly.refl RegsOnly.trans (fun t r => ?_) l s
  unfold State.count32
  split
  · exact .refl t
  · exact ⟨_, _, _, rfl⟩

theorem PhaseLeaves.refl (s : State) : PhaseLeaves s s := ⟨rfl, rfl, rfl, rfl⟩

theorem PhaseLeaves.trans (h : PhaseLeaves s t) (h' : PhaseLeaves t u) : PhaseLeaves s u :=
  ⟨h'.mem.trans h.mem, h'.courses.trans h.courses, h'.dies.trans h.dies, h'.msgs.trans h.msgs⟩

theorem RegsOnly.leaves (h : RegsOnly s t) : PhaseLeaves s t := by
  obtain ⟨_, _, _, rfl⟩ := h
  exact ⟨rfl, rfl, rfl, rfl⟩

theorem State.modMem_leaves (s : State) (k : Stack) (f : MemState → MemState) : PhaseLeaves s (s.modMem k f) := ⟨rfl, rfl, rfl, rfl⟩

theorem State.granted_leaves (s : State) (k : Stack) (x : Nat) (e : RaReq × Nat × Nat) : PhaseLeaves s (s.granted k x e) :=
  (s.modMem_leaves k _).trans (recordGrant_regsOnly _ _ _ _ _ _).leaves

theorem State.granted_memc (s : State) (k : Stack) (x : Nat) (e : RaReq × Nat × Nat) : (s.granted k x e).memc k =
    { s.memc k with raQueue := (s.memc k).raQueue.filter (fun f => f.2.1 != e.2.1), raPorts := (s.memc k).raPorts ++ [e.1] } := by
  rw [State.granted, (recordGrant_regsOnly _ _ _ _ _ _).memc, State.modMem_memc]

/-- A source that presents nothing is passed over. -/
theorem grantPorts_of_none (hn : (s.memc k).presents x = none) (l : List Nat) : s.grantPorts k (x :: l) = s.grantPorts k l := by
  simp [State.grantPorts, hn]

theorem grantPorts_of_grant (he : (s.memc k).presents x = some e) (hl : (s.memc k).raPorts.length < 4) (l : List Nat) :
    s.grantPorts k (x :: l) = (s.granted k x e).grantPorts k l := by
  simp [State.grantPorts, he, hl, State.granted]

theorem grantPorts_append_of_none {l : List Nat} (hn : ∀ x ∈ l, (s.memc k).presents x = none) (l' : List Nat) :
    s.grantPorts k (l ++ l') = s.grantPorts k l' := by
  induction l with
  | nil => rfl
  | cons x l ih => rw [List.cons_append, grantPorts_of_none (hn x (by simp)), ih fun y hy => hn y (by simp [hy])]

theorem grantPorts_of_no_port (h : 4 ≤ (s.memc k).raPorts.length) (l : List Nat) : s.grantPorts k l = s := by
  induction l with
  | nil => rfl
  | cons x l ih =>
    cases hp : (s.memc k).presents x with
    | none => rw [grantPorts_of_none hp, ih]
    | some e => simp [State.grantPorts, hp, Nat.not_lt.2 h]

theorem grantPorts_of_none_wait (h : (s.memc k).raQueue = []) (l : List Nat) : s.grantPorts k l = s := by
  have hl := grantPorts_append_of_none (s := s) (k := k) (l := l) (fun x _ => presents_of_none_wait h x) []
  rwa [List.append_nil] at hl

theorem grantPorts_leaves (k : Stack) (l : List Nat) (s : State) : PhaseLeaves s (s.grantPorts k l) := by
  induction l generalizing s with
  | nil => exact .refl s
  | cons x l ih =>
    cases hp : (s.memc k).presents x with
    | none => exact grantPorts_of_none hp l ▸ ih s
    | some e =>
      by_cases hl : (s.memc k).raPorts.length < 4
      · exact grantPorts_of_grant hp hl l ▸ (s.granted_leaves k x e).trans (ih _)
      · rw [grantPorts_of_no_port (Nat.not_lt.1 hl)]
        exact .refl s

/-- A free port goes first to the source of the highest number that presents a request (R477, R484). -/
theorem grantPorts_highest (hn : a.num x < 16) (hinj : ∀ i j, i < 16 → j < 16 → a.num i = a.num j → i = j) (hx : x < 16)
    (he : (s.memc k).presents x = some e) (hhigh : ∀ y, a.num x < a.num y → (s.memc k).presents y = none)
    (hl : (s.memc k).raPorts.length < 4) : ∃ l, s.grantPorts k a.order = (s.granted k x e).grantPorts k l := by
  obtain ⟨before, after, ho, hb⟩ := Arb.order_split hn hinj hx
  exact ⟨after, by rw [ho, grantPorts_append_of_none fun y hy => hhigh y (hb y hy), grantPorts_of_grant he hl]⟩

/-! ### A phase (R324, R484, R490) -/

theorem portsLeft_eq (s : State) (k : Stack) (left : List (RaReq × Nat × Nat)) : ∃ t, RegsOnly s t ∧
    s.portsLeft k left = t.modMem k fun m => { m with raQueue := m.raQueue.map (agedIn left) } :=
  ⟨_, countWaits_regsOnly s _ _ _ _, rfl⟩

/-- The requests that a phase leaves over, where w is the state once it has granted. -/
def leftOver (s w : State) (k : Stack) : List (RaReq × Nat × Nat) :=
  (s.memc k).present.filter fun p => (w.memc k).raQueue.any fun q => q.2.1 == p.2.1

/-- A phase whose vote stands and that has no map to apply grants in the order of the map it has, and ages what it leaves over. -/
theorem adderArbPhase_grants (hl : (s.memc k).arb.latched = none) (hk : (s.memc k).arb.kept = []) : ∃ v, PhaseLeaves s v ∧
    (v.memc k).raQueue = (s.memc k).raQueue ∧ (v.memc k).raPorts = (s.memc k).raPorts ∧
    adderArbPhase k none s = (v.grantPorts k (s.memc k).arb.order).portsLeft k
      (leftOver s (v.grantPorts k (s.memc k).arb.order) k) := by
  let u := s.modMem k fun m => { m with arb := { m.arb with odd := none } }
  have hu : u.memc k = { s.memc k with arb := { (s.memc k).arb with odd := none } } := s.modMem_memc k _
  have hphase := Arb.phase_of_none_latched (a := (u.memc k).arb) (by rw [hu]; exact hl) (by rw [hu]; exact hk)
  have ha : adderArbPhase k none s = u.portPhase k := rfl
  refine ⟨u.modMem k fun m => { m with arb := (u.memc k).arb }, (s.modMem_leaves k _).trans (u.modMem_leaves k _), ?_, ?_, ?_⟩
  · rw [State.modMem_memc, hu]
  · rw [State.modMem_memc, hu]
  · rw [ha, State.portPhase]
    simp only [hphase]
    rw [hu]
    rfl

end

section
variable {s v : State} {k : Stack} {r q : RaReq} {st ph st' ph' : Nat} {left : List (RaReq × Nat × Nat)}

theorem portsLeft_leaves (s : State) (k : Stack) (left : List (RaReq × Nat × Nat)) : PhaseLeaves s (s.portsLeft k left) := by
  obtain ⟨t, ht, he⟩ := portsLeft_eq s k left
  rw [he]
  exact ht.leaves.trans (t.modMem_leaves k _)

theorem portsLeft_memc (s : State) (k : Stack) (left : List (RaReq × Nat × Nat)) :
    (s.portsLeft k left).memc k = { s.memc k with raQueue := (s.memc k).raQueue.map (agedIn left) } := by
  obtain ⟨t, ht, he⟩ := portsLeft_eq s k left
  rw [he, State.modMem_memc, ht.memc]

theorem agedIn_of_mem (h : (r, st, ph) ∈ left) : agedIn left (r, st, ph) = (r, st, ph + 1) :=
  if_pos (List.any_eq_true.2 ⟨_, h, beq_self_eq_true st⟩)

/-- A request that was presented and still waits is among those left over. -/
theorem mem_leftOver {w : State} (hr : r.src < 16) (hp : (s.memc k).presents r.src = some (r, st, ph))
    (hw : (w.memc k).raQueue = [(r, st, ph)]) : (r, st, ph) ∈ leftOver s w k := by
  simp [leftOver, mem_present hr hp, hw]

theorem mapNum_lt (m : DWord) (r : Nat) : mapNum m r < 16 := Nat.mod_lt _ (by omega)

section
variable (hl : (s.memc k).arb.latched = none) (hk : (s.memc k).arb.kept = []) (hr : r.src < 16)
  (hinj : ∀ i j, i < 16 → j < 16 → mapNum (s.memc k).arb.force i = mapNum (s.memc k).arb.force j → i = j)
include hl hk hr

include hinj in
theorem adderArbPhase_one_granted (hq : (s.memc k).raQueue = [(r, st, ph)]) (hports : (s.memc k).raPorts.length < 4) :
    PhaseLeaves s (adderArbPhase k none s) ∧ ((adderArbPhase k none s).memc k).raPorts = (s.memc k).raPorts ++ [r] ∧
    ((adderArbPhase k none s).memc k).raQueue = [] := by
  obtain ⟨v, hv, hvq, hvp, he⟩ := adderArbPhase_grants hl hk
  have hnum := Arb.num_of_none_kept hk
  have hpres := presents_of_one_waits (hvq.trans hq)
  obtain ⟨l, hg⟩ := grantPorts_highest (s := v) (k := k) (a := (s.memc k).arb) (x := r.src) (e := (r, st, ph))
    (by rw [hnum]; exact mapNum_lt _ _) (by simpa only [hnum] using hinj) hr (by rw [hpres, if_pos rfl])
    (fun y hy => by rw [hpres, if_neg (by rintro rfl; exact hy.false)]) (by rw [hvp]; exact hports)
  have hw : v.grantPorts k (s.memc k).arb.order = v.granted k r.src (r, st, ph) := by
    rw [hg, grantPorts_of_none_wait]
    simp [State.granted_memc, hvq, hq]
  rw [he, hw]
  refine ⟨(hv.trans (v.granted_leaves k _ _)).trans (portsLeft_leaves _ _ _), ?_, ?_⟩
  · simp [portsLeft_memc, State.granted_memc, hvp]
  · simp [portsLeft_memc, State.granted_memc, hvq, hq]

theorem adderArbPhase_one_waits (hq : (s.memc k).raQueue = [(r, st, ph)]) (hports : 4 ≤ (s.memc k).raPorts.length) :
    PhaseLeaves s (adderArbPhase k none s) ∧ ((adderArbPhase k none s).memc k).raPorts = (s.memc k).raPorts ∧
    ((adderArbPhase k none s).memc k).raQueue = [(r, st, ph + 1)] := by
  obtain ⟨v, hv, hvq, hvp, he⟩ := adderArbPhase_grants hl hk
  have hw : v.grantPorts k (s.memc k).arb.order = v := grantPorts_of_no_port (by rw [hvp]; exact hports) _
  have hpres : (s.memc k).presents r.src = some (r, st, ph) := by
    rw [presents_of_one_waits hq, if_pos rfl]
  rw [he, hw]
  refine ⟨hv.trans (portsLeft_leaves _ _ _), ?_, ?_⟩
  · rw [portsLeft_memc, hvp]
  · simp only [portsLeft_memc, hvq, hq, List.map_cons, List.map_nil, agedIn_of_mem (mem_leftOver hr hpres (hvq.trans hq))]

include hinj in
theorem adderArbPhase_two_wait (hq : (s.memc k).raQueue = [(r, st, ph), (q, st', ph')]) (hst : st ≠ st') (ha : q.addr ≠ r.addr)
    (hqs : q.src < 16) (hlt : mapNum (s.memc k).arb.force r.src < mapNum (s.memc k).arb.force q.src)
    (hports : (s.memc k).raPorts.length = 3) : PhaseLeaves s (adderArbPhase k none s) ∧
    ((adderArbPhase k none s).memc k).raPorts = (s.memc k).raPorts ++ [q] ∧
    ((adderArbPhase k none s).memc k).raQueue = [(r, st, ph + 1)] := by
  obtain ⟨v, hv, hvq, hvp, he⟩ := adderArbPhase_grants hl hk
  have hnum := Arb.num_of_none_kept hk
  have hne : r.src ≠ q.src := fun h => by simp [h] at hlt
  have hpres := presents_of_two_wait (hvq.trans hq) ha
  obtain ⟨l, hg⟩ := grantPorts_highest (s := v) (k := k) (a := (s.memc k).arb) (x := q.src) (e := (q, st', ph'))
    (by rw [hnum]; exact mapNum_lt _ _) (by simpa only [hnum] using hinj) hqs (by rw [hpres, if_neg hne, if_pos rfl])
    (fun y hy => by
      rw [hnum, hnum] at hy
      rw [hpres, if_neg (by rintro rfl; omega), if_neg (by rintro rfl; omega)]) (by rw [hvp]; omega)
  have hwq : ((v.granted k q.src (q, st', ph')).memc k).raQueue = [(r, st, ph)] := by
    simp [State.granted_memc, hvq, hq, hst]
  have hw : v.grantPorts k (s.memc k).arb.order = v.granted k q.src (q, st', ph') := by
    rw [hg, grantPorts_of_no_port]
    simp [State.granted_memc, hvp, hports]
  have hsp : (s.memc k).presents r.src = some (r, st, ph) := by
    rw [presents_of_two_wait hq ha, if_pos rfl]
  rw [he, hw]
  refine ⟨(hv.trans (v.granted_leaves k _ _)).trans (portsLeft_leaves _ _ _), ?_, ?_⟩
  · simp [portsLeft_memc, State.granted_memc, hvp]
  · simp only [portsLeft_memc, hwq, List.map_cons, List.map_nil, agedIn_of_mem (mem_leftOver hr hsp hwq)]

end
end

/-! ### A granted port adds (R323, R326, R378) -/

section
variable {s t : State} {k : Stack} {r : RaReq} {port : Fin 4}

theorem cleanLines_frame (s : State) (a n : Nat) : ∃ m, s.cleanLines a n = { s with memPoison := m } :=
  List.foldlRecOn (motive := fun t => ∃ m, t = { s with memPoison := m }) _ _ ⟨_, rfl⟩ fun t ht i _ => by
    obtain ⟨m, rfl⟩ := ht
    exact ⟨_, rfl⟩

/-- A clean write changes only memory and its poison marks. -/
theorem storeP_frame (s : State) (a : Nat) (bs : List Byte) :
    ∃ m p, s.storeP a bs false = { s with mem := m, memPoison := p } := by
  obtain ⟨p, hp⟩ := cleanLines_frame (s.putBytes a bs) a bs.length
  refine ⟨(s.putBytes a bs).mem, p, hp.trans ?_⟩
  rw [State.putBytes_eq]

theorem storeP_byte (s : State) (a : Nat) (bs : List Byte) (b : Nat) : (s.storeP a bs false).byte b =
    if a ≤ b ∧ b < a + bs.length then bs.getD (b - a) 0 else s.byte b := by
  obtain ⟨p, hp⟩ := cleanLines_frame (s.putBytes a bs) a bs.length
  rw [← State.putBytes_byte]
  show ((s.putBytes a bs).cleanLines a bs.length).byte b = _
  rw [hp]
  rfl

/-- The block at a request's address, or an empty one (R379). -/
def State.oldBlock (s : State) (r : RaReq) : Rab := if r.init then rabZero else rabRead (s.bytes r.addr 416)

/-- The bytes that an addition writes (R326). -/
def State.sumBytes (s : State) (r : RaReq) : List Byte := rabWrite (rabAdd (s.oldBlock r) (bwRead r.blk))

/-- The sum is written and counted (R326, R342). -/
def State.summed (s : State) (k : Stack) (r : RaReq) : State :=
  (s.storeP r.addr (s.sumBytes r) false).count (mbase k) 0x68 0x48 1

/-- COUNT_EXCEEDED of a block, once it is new, is flagged (R400). -/
def State.exceedTold (s : State) (k : Stack) (old new : Rab) : State :=
  if new.exceeded && !old.exceeded then s.orReg (mr k 0x2000) 4 else s

/-- An exponent mismatch is flagged, counted and captured, and reported unless the block was wholly poisoned before (R378, R400). -/
def State.mismatchTold (s : State) (k : Stack) (old : Rab) (w : Bw) (a : Nat) : State :=
  if rabMismatch old w then
    let t := ((s.orReg (mr k 0x2000) 1).count (mbase k) 0x2038 0x2030 1).capture1 (mr k 0x2018) (old.exp + 256 * w.exp)
      (some (mr k 0x2010)) a
    if old.poison = 2 ^ 64 - 1 then t else t.raiseMem k 0x0B04 none
  else s

/-- An addition writes its block and counts it, tells what it found, and answers. -/
theorem raAdd_eq (s : State) (k : Stack) (r : RaReq) : s.raAdd k r =
    (((s.summed k r).exceedTold k (s.oldBlock r) (rabAdd (s.oldBlock r) (bwRead r.blk))).mismatchTold k (s.oldBlock r)
      (bwRead r.blk) r.addr).raOutcome k r.origin 0 := rfl

theorem summed_frame (s : State) (k : Stack) (r : RaReq) :
    ∃ m p w, s.summed k r = { s with mem := m, memPoison := p, wide := w } := by
  obtain ⟨m, p, hs⟩ := storeP_frame s r.addr (s.sumBytes r)
  obtain ⟨w, hw⟩ := count_frame { s with mem := m, memPoison := p } (mbase k) 0x68 0x48 1
  exact ⟨m, p, w, by rw [State.summed, hs, hw]⟩

theorem summed_byte (s : State) (k : Stack) (r : RaReq) (b : Nat) : (s.summed k r).byte b =
    if r.addr ≤ b ∧ b < r.addr + (s.sumBytes r).length then (s.sumBytes r).getD (b - r.addr) 0 else s.byte b := by
  obtain ⟨w, hw⟩ := count_frame (s.storeP r.addr (s.sumBytes r) false) (mbase k) 0x68 0x48 1
  rw [← storeP_byte, State.summed, hw]
  rfl

/-- An addition counts, unless the counters are frozen (R113, R342). -/
theorem summed_adds (h : (s.reg (mr k 0x68)).getLsbD 0 = false) : (s.summed k r).reg64 (mr k 0x48) =
    BitVec.ofNat 64 (min ((s.reg64 (mr k 0x48)).toNat + 1) (2 ^ 64 - 1)) := by
  obtain ⟨m, p, hs⟩ := storeP_frame s r.addr (s.sumBytes r)
  have hf : ¬(({ s with mem := m, memPoison := p } : State).reg (mbase k + 0x68)).getLsbD 0 = true := Bool.eq_false_iff.1 h
  rw [State.summed, hs, State.count, if_neg hf]
  exact State.setReg64_reg64 _ _ _

theorem ite_tells {c : Prop} {_ : Decidable c} {u : State} (ht : Tells s t) (hu : Tells s u) : Tells s (if c then t else u) := by
  split <;> assumption

theorem exceedTold_tells (s : State) (k : Stack) (old new : Rab) : Tells s (s.exceedTold k old new) :=
  ite_tells (s.orReg_tells _ _) (.refl s)

theorem mismatchTold_tells (s : State) (k : Stack) (old : Rab) (w : Bw) (a : Nat) : Tells s (s.mismatchTold k old w a) := by
  have captured : Tells s (((s.orReg (mr k 0x2000) 1).count (mbase k) 0x2038 0x2030 1).capture1 (mr k 0x2018)
      (old.exp + 256 * w.exp) (some (mr k 0x2010)) a) :=
    (s.orReg_tells _ _).trans ((State.count_tells fun _ => mr_ne_mr (by omega) (by omega)).trans
      (State.capture1_tells fun p hp _ => Option.some.inj hp ▸ mr_ne_mr (by omega) (by omega)))
  exact ite_tells (ite_tells captured (captured.trans (State.raiseWith_tells _ _ _ _))) (.refl s)

/-- After the sum is written, an addition only tells and answers. -/
theorem raAdd_told (s : State) (k : Stack) (r : RaReq) : ∃ u, s.raAdd k r = u.raOutcome k r.origin 0 ∧ Tells (s.summed k r) u :=
  ⟨_, raAdd_eq s k r, (exceedTold_tells _ _ _ _).trans (mismatchTold_tells _ _ _ _ _)⟩

theorem raAdd_keepsAdders (s : State) (k : Stack) (r : RaReq) : KeepsAdders (s.summed k r) (s.raAdd k r) := by
  obtain ⟨u, hu, ht⟩ := raAdd_told s k r
  rw [hu]
  exact ht.keepsAdders.trans (u.raOutcome_keepsAdders k r.origin 0)

theorem raAdd_byte (s : State) (k : Stack) (r : RaReq) (b : Nat) : (s.raAdd k r).byte b =
    if r.addr ≤ b ∧ b < r.addr + (s.sumBytes r).length then (s.sumBytes r).getD (b - r.addr) 0 else s.byte b := by
  rw [← summed_byte s k, State.byte, State.byte, (raAdd_keepsAdders s k r).mem]

theorem raAdd_memc (s : State) (k : Stack) (r : RaReq) (j : Stack) : (s.raAdd k r).memc j = s.memc j := by
  obtain ⟨m, p, w, hs⟩ := summed_frame s k r
  rw [State.memc, (raAdd_keepsAdders s k r).mems, hs]
  rfl

theorem raAdd_adds (h : (s.reg (mr k 0x68)).getLsbD 0 = false) : (s.raAdd k r).reg64 (mr k 0x48) =
    BitVec.ofNat 64 (min ((s.reg64 (mr k 0x48)).toNat + 1) (2 ^ 64 - 1)) := by
  rw [(raAdd_keepsAdders s k r).adds, summed_adds h]

theorem raAdd_answers {g : Course} {n : Nat} (ho : r.origin = .instr g n) : (s.raAdd k r).courses = s.courses ∧
    (s.reachable ⟨.mem k, .course g, .raOutcome g n 0⟩ = true →
      (s.raAdd k r).msgs = s.msgs ++ [⟨.mem k, .course g, .raOutcome g n 0⟩]) := by
  obtain ⟨m, p, w, hs⟩ := summed_frame s k r
  have hdies : (s.summed k r).dies = s.dies := by rw [hs]
  have hcourses : (s.summed k r).courses = s.courses := by rw [hs]
  have hmsgs : (s.summed k r).msgs = s.msgs := by rw [hs]
  obtain ⟨u, hu, ht⟩ := raAdd_told s k r
  obtain ⟨hc, hm⟩ := ht.send (.mem k) (.course g) (.raOutcome g n 0)
  rw [hu, ho, ← hmsgs, ← reachable_of_dies hdies]
  exact ⟨hc.trans hcourses, hm⟩

theorem raAddPort_adds (hp : (s.memc k).raPorts[port.val]? = some r)
    (hf : ∀ q ∈ (s.memc k).raPorts.take port.val, q.addr ≠ r.addr) : raAddPort k port s =
      (s.raAdd k r).modMem k fun m => { m with raPorts := m.raPorts.eraseIdx port.val } := by
  have hany : ((s.memc k).raPorts.take port.val).any (fun q => q.addr == r.addr) = false := by simpa using hf
  simp only [raAddPort, hp, hany]
  rfl

theorem raAddPort_waits (hp : (s.memc k).raPorts[port.val]? = some r)
    (hf : ∃ q ∈ (s.memc k).raPorts.take port.val, q.addr = r.addr) : raAddPort k port s = s := by
  have hany : ((s.memc k).raPorts.take port.val).any (fun q => q.addr == r.addr) = true := by simpa using hf
  simp only [raAddPort, hp, hany, if_true]

end

/-! ### The parts of the obligation -/

theorem ifDie_of_runs {s : State} {d : Die} (h : s.dieRuns d = true) (f : State → State) : s.ifDie d f = f s := if_pos h

/-- R325's checks in their order, as the controller makes them. -/
theorem raCheck_eq (s : State) (k : Stack) (r : RaReq) : s.raCheck k r =
    if r.addr % 32 ≠ 0 ∨ stackOf r.addr ≠ k ∨ s.nearOk r.addr 416 = false then some 0x0807
    else if 3 ≤ byteAt r.blk 1 then some 0x0808
    else if s.tornAt r.addr 416 = true then some 0x0809
    else if s.anyPoison r.addr 416 = true then some 0x080A else none := by
  simp [State.raCheck, bwFlagsOk]

theorem requests_added : requestsAdded := by
  intro s k r hd m a bad answer
  have runs {t : State} {f : State → State} (e : f s = t) : (Host.Outcome.next (s.ifDie (stackDie k) f) : Out) = .next t := by
    rw [ifDie_of_runs hd, e]
  refine ⟨fun src rest ho => ?_, fun st ph hl hk hr hinj => ?_, fun port hp => ?_⟩
  · have hbad : ({ s with msgs := rest } : State).raCheck k r = bad := raCheck_eq s k r
    have harr := congrArg (Host.Outcome.next : State → Out) (raRequestArrive_of_oldest ho)
    refine ⟨fun hn => ?_, fun code g n hc hor => ⟨_, harr, ?_⟩⟩
    · exact harr.trans (congrArg _ (raArrive_of_passes (hbad.trans hn)))
    · obtain ⟨hmems, hmem, hcourses, hraised, hsent⟩ := raArrive_refuses (hbad.trans hc) hor
      have hroute : ({ s with msgs := rest } : State).reachable (answer g n code) = s.reachable (answer g n code) :=
        reachable_of_dies (s := s) (t := { s with msgs := rest }) rfl _
      exact ⟨hmems, hmem, hcourses, hraised, fun hr => hsent (hroute.trans hr)⟩
  · refine ⟨fun hq hfree => ⟨_, runs rfl, ?_⟩, fun hq hfull => ⟨_, runs rfl, ?_⟩,
      fun q st' ph' hq hst ha hqs hlt h3 => ⟨_, runs rfl, ?_⟩⟩
    · obtain ⟨leaves, hports, hqueue⟩ := adderArbPhase_one_granted hl hk hr hinj hq hfree
      exact ⟨hports, hqueue, leaves.mem, leaves.courses, leaves.msgs, leaves.dies⟩
    · obtain ⟨leaves, hports, hqueue⟩ := adderArbPhase_one_waits hl hk hr hq hfull
      exact ⟨hports, hqueue, leaves.mem, leaves.courses⟩
    · obtain ⟨leaves, hports, hqueue⟩ := adderArbPhase_two_wait hl hk hr hinj hq hst ha hqs hlt h3
      exact ⟨hports, hqueue, leaves.mem⟩
  · intro old bs
    refine ⟨fun hf => ⟨_, runs (raAddPort_adds hp hf), ?_⟩, fun hf => runs (raAddPort_waits hp hf)⟩
    refine ⟨raAdd_byte s k r, ?_, ?_, raAdd_adds, fun g n ho => raAdd_answers ho⟩
    · rw [State.modMem_memc, raAdd_memc]
    · rw [State.modMem_memc, raAdd_memc]

/-- Settles O46: an addition lane by lane; a request through its checks, its port and its addition; MAXCLR as a register write. -/
theorem remoteAdditions : Obligations.RemoteAdditions := ⟨rabAdd_blocks, requests_added, maxima_clear⟩

end Sys2Proof.Machine

/-! SUPPORT. EngineIssue: what an engine instruction does at issue, whatever its engine: it faults precisely, or enters its queue
with its operands (R183, R203, R204, R211, R212). -/

namespace Sys2Proof.Machine

/-! ### A fetch leaves everything that the checks at issue read (R199, R203) -/

section
variable (s : State) (g : Course) (w : BitVec 56)

theorem State.fetch_course : ∃ b, (s.fetch g).1.course g = { s.course g with ibuf := b } := by
  obtain ⟨b, hb⟩ := s.fetch_fst g
  exact ⟨b, by rw [hb, State.modCourse_course]⟩

/-- What does not depend on the instruction buffer of the course is as before the fetch. -/
theorem State.fetch_course_eq {α : Type} (f : CourseState → α) (hf : ∀ b, f { s.course g with ibuf := b } = f (s.course g)) :
    f ((s.fetch g).1.course g) = f (s.course g) := by
  obtain ⟨b, hb⟩ := s.fetch_course g
  rw [hb, hf]

@[simp] theorem State.fetch_rs (i : Fin 32) : ((s.fetch g).1.course g).rs i = (s.course g).rs i :=
  s.fetch_course_eq g (·.rs i) fun _ => rfl

@[simp] theorem State.fetch_ra (i : Fin 16) : ((s.fetch g).1.course g).ra i = (s.course g).ra i :=
  s.fetch_course_eq g (·.ra i) fun _ => rfl

@[simp] theorem State.fetch_arr : ((s.fetch g).1.course g).arr = (s.course g).arr := s.fetch_course_eq g (·.arr) fun _ => rfl

@[simp] theorem State.fetch_v1 : ((s.fetch g).1.course g).v1 = (s.course g).v1 := s.fetch_course_eq g (·.v1) fun _ => rfl

@[simp] theorem State.fetch_slice (a n : Nat) : (s.fetch g).1.slice g a n = s.slice g a n := by
  obtain ⟨b, hb⟩ := s.fetch_fst g
  rw [hb]
  rfl

@[simp] theorem drawn_fetch (sr : Bool) (rng n : Nat) : drawn ((s.fetch g).1.course g) sr rng n = drawn (s.course g) sr rng n :=
  s.fetch_course_eq g (drawn · sr rng n) fun _ => rfl

/-! ### The checks of TALLY (R211, R241) -/

/-- TALLY is one that the course's Iscon has, and 0 where TE leaves it unused. -/
def TallyUsable : Prop :=
  ((s.course g).v1 = true → w.getLsbD 43 = true → fld w 51 44 < 64) ∧ (w.getLsbD 43 = false → fld w 51 44 = 0)

end

section
variable {s t u : State} {g : Course} {w : BitVec 56} {q : QueueId} {e : QEntry} {op : EngineOp} {rows : Option Rows}
  {bs : List Binding}

theorem Room.tallyUsable (h : Room s g w q) : TallyUsable s g w := h.2

theorem tallyField_usable (h : TallyUsable s g w) (cls : BitVec 16) (a : Act) :
    tallyField ((s.fetch g).1.course g) w cls a = a := by
  obtain ⟨hv, h0⟩ := h
  unfold tallyField
  dsimp only
  cases ht : w.getLsbD 43 with
  | false => simp [h0 ht]
  | true =>
    have hb : ((s.fetch g).1.course g).tallyBad (fld w 51 44) = false := by
      rw [CourseState.tallyBad, State.fetch_v1]
      cases h1 : (s.course g).v1 with
      | false => rfl
      | true => simpa using hv h1 ht
    simp [hb]

/-! ### An instruction that its checks refuse (R203, R237) -/

section
variable {i : Instr} {z : List (Nat × Nat)} {v2 : Bool} {cls code : BitVec 16} {body : State → Act}

/-- The command takes the precise exception `code`, whatever CCR_EINFO holds (log entry 11). -/
def FaultsWith (i : Instr) (s : State) (g : Course) (code : BitVec 16) (sub : BitVec 4) : Prop :=
  ∃ (v : State) (x : DWord), (v = (s.fetch g).1 ∨ v = (s.fetch g).1.used) ∧ exec i s = .next (v.takeException g code sub x)

theorem issueEngine_precise {x : Option DWord} (hi : Issues s g w z v2) (ht : TallyUsable s g w)
    (hb : body (s.fetch g).1 = .fault code x) :
    s.issueEngine g w q z v2 cls body = (s.fetch g).1.precise g code (BitVec.ofNat 4 q.val) x := by
  rw [State.issueEngine, State.issue_runs hi.running hi.fetched hi.assigned hi.legal hi.taken, tallyField_usable ht, hb]

theorem engine_faults {x : DWord} (hx : exec i s = .next (s.issueEngine g w q z v2 cls body)) (hi : Issues s g w z v2)
    (ht : TallyUsable s g w) (hb : body (s.fetch g).1 = .fault code (some x)) : Faults i s g code (BitVec.ofNat 4 q.val) x :=
  hx.trans (congrArg _ (issueEngine_precise hi ht hb))

theorem engine_faultsWith (hx : exec i s = .next (s.issueEngine g w q z v2 cls body)) (hi : Issues s g w z v2)
    (ht : TallyUsable s g w) (hb : body (s.fetch g).1 = .fault code none) : FaultsWith i s g code (BitVec.ofNat 4 q.val) :=
  ⟨_, _, .inr rfl, hx.trans (congrArg _ (issueEngine_precise hi ht hb))⟩

end

/-! ### What enters a queue leaves outside its course (R212) -/

/-- From s to t nothing outside course g has changed but reports, registers, counters, free values and the place in the order of
events. -/
structure Outside (g : Course) (s t : State) : Prop where
  others : ∀ h, h ≠ g → t.course h = s.course h
  rest : { t with courses := s.courses, dies := s.dies, regs := s.regs, wide := s.wide, freeCtr := s.freeCtr, stamp := s.stamp } = s

theorem Outside.trans (h : Outside g s t) (k : Outside g t u) : Outside g s u where
  others c hc := (k.others c hc).trans (h.others c hc)
  rest := by rw [← h.rest, ← k.rest]

theorem Settles.outside (h : Settles g s t) : Outside g s t := ⟨h.1, h.2.1⟩

theorem Reports.outside (h : Reports s t) (g : Course) : Outside g s t := by
  refine ⟨fun c _ => h.course c, ?_⟩
  obtain ⟨_, _, _, _, rfl⟩ := h
  rfl

theorem State.modCourse_outside (s : State) (g : Course) (f : CourseState → CourseState) : Outside g s (s.modCourse g f) :=
  ⟨fun _ hc => s.modCourse_course_ne hc f, rfl⟩

theorem State.issued_reports (s : State) (g : Course) : Reports s (s.issued g) := s.countC_reports ..

/-- The check of the replay window changes the log of the course and its mark that it has overflowed, and may report (R501). -/
theorem State.checkWindow_reports (s : State) (g : Course) : ∃ l v,
    Reports (s.modCourse g fun c => { c with arr := { c.arr with log := l, overflow := v } }) (s.checkWindow g) := by
  unfold State.checkWindow
  dsimp only
  split
  · refine ⟨(s.course g).arr.log, (s.course g).arr.overflow, ?_⟩
    rw [State.modCourse, State.setCourse_self]
    exact Reports.refl s
  · refine ⟨((s.course g).arr.prune (s.course g).busySerials).log,
      ((s.course g).arr.prune (s.course g).busySerials).exceeds (s.course g).busySerials, ?_⟩
    exact ite_reports (State.raiseWith_reports ..) (Reports.refl _)

theorem State.checkWindow_outside (s : State) (g : Course) : Outside g s (s.checkWindow g) := by
  obtain ⟨_, _, h⟩ := s.checkWindow_reports g
  exact (s.modCourse_outside g _).trans (h.outside g)

/-! ### Slots in program order (R142) -/

theorem ArrayState.accept_progOpen (a : ArrayState) (o : BuildOp) (n : Nat) : (a.accept o n).progOpen = a.progOpen := by
  unfold ArrayState.accept
  exact List.foldlRecOn (motive := fun x : ArrayState => x.progOpen = a.progOpen) _ _ rfl fun _ h _ _ => h

theorem ArrayState.issued_progOpen (a : ArrayState) (q : QueueId) (e : QEntry) :
    (a.issued q e).progOpen = (a.turn e.op).progOpen := by
  unfold ArrayState.issued
  dsimp only
  split
  · exact ArrayState.accept_progOpen ..
  all_goals rfl

/-! ### An instruction enters its queue (R204, R212) -/

/-- What a queue holds after waits have left its head, where the entry at its end is no wait. -/
theorem QueueState.Passed.entries_append {x y : QueueState} {es : List QEntry} (h : x.Passed y) (hx : x.entries = es ++ [e])
    (he : e.waits = false) : ∃ k, y.entries = es.drop k ++ [e] := by
  obtain ⟨⟨ws, hws, hwait⟩, -⟩ := h
  rw [hx] at hws
  have hk : ws.length ≤ es.length := by
    by_contra hlt
    have hmem : e ∈ ws := by
      have hlen := congrArg List.length hws
      simp only [List.length_append, List.length_singleton] at hlen
      have hnil : y.entries = [] := List.length_eq_zero_iff.mp (by omega)
      rw [hnil, List.append_nil] at hws
      exact hws ▸ List.mem_append_right es (List.mem_singleton_self e)
    rw [hwait e hmem] at he
    cases he
  have hdrop := congrArg (List.drop ws.length) hws
  rw [List.drop_left, List.drop_append_of_le_length hk] at hdrop
  exact ⟨ws.length, hdrop.symm⟩

theorem QueueState.Passed.started {x y : QueueState} (h : x.Passed y) : y.started = x.started := (congrArg QueueState.started h.2 :)

/-- The course as the instruction of entry e is appended to queue q. -/
def CourseState.appended (c : CourseState) (q : QueueId) (e : QEntry) : CourseState :=
  { ({ c with serial := c.serial + 1, arr := c.arr.issued q e }).modQueue q fun y => { y with entries := y.entries ++ [e] } with
    pc := c.pc + 8, stalled := none }

theorem CourseState.appended_started (c : CourseState) (q r : QueueId) (e : QEntry) :
    ((c.appended q e).queue r).started = (c.queue r).started := by
  by_cases h : r = q
  · subst h
    exact (congrArg QueueState.started (CourseState.setQueue_queue ..) :)
  · exact (congrArg QueueState.started (CourseState.setQueue_queue_ne _ h _) :)

/-- Course d with everything put back as in c that placing an instruction in a queue may change. -/
def CourseState.unissued (c d : CourseState) : CourseState :=
  { d with
    queues := c.queues, watches := c.watches, records := c.records, pc := c.pc, serial := c.serial, stalled := c.stalled
    arr := c.arr }

/-- From c to d the instruction of entry e has entered queue q as its last entry, after waits that left the head of queues. -/
structure Queued (q : QueueId) (e : QEntry) (c d : CourseState) : Prop where
  rest : c.unissued d = c
  pc : d.pc = c.pc + 8
  serial : d.serial = c.serial + 1
  slots : d.arr.progOpen = (c.arr.turn e.op).progOpen
  started : ∀ r, (d.queue r).started = (c.queue r).started
  entries : ∃ k, (d.queue q).entries = (c.queue q).entries.drop k ++ [e]

theorem State.enqueue_settles (hw : (s.course g).wait = none) (hl : ((s.course g).queue q).entries.length < 64) :
    Settles g (s.modCourse g fun c => c.appended q e)
      ((s.modCourse g fun c => { c with serial := c.serial + 1, arr := c.arr.issued q e }).enqueue g q e) := by
  rw [State.enqueue, if_pos (by rw [State.modCourse_course]; exact hl), State.modCourse_modCourse]
  exact State.settle_settles (s.modCourse g fun c => c.appended q e) g (by rw [State.modCourse_course]; exact hw)

theorem queued_of_settles (he : e.waits = false) (h : Settles g (s.modCourse g fun c => c.appended q e) t) :
    Queued q e (s.course g) (t.course g) := by
  obtain ⟨-, -, hrest, hq⟩ := h
  rw [State.modCourse_course] at hrest hq
  refine ⟨?_, ?_, ?_, ?_, fun r => ?_, ?_⟩
  · exact (congrArg (s.course g).unissued hrest :)
  · exact (congrArg CourseState.pc hrest :)
  · exact (congrArg CourseState.serial hrest :)
  · exact (congrArg (·.arr.progOpen) hrest :).trans (ArrayState.issued_progOpen ..)
  · exact (hq r).started.trans (CourseState.appended_started ..)
  · exact (hq q).entries_append (congrArg QueueState.entries (CourseState.setQueue_queue ..) :) he

/-- The course and its surroundings once the instruction of entry e is in a queue that had room. -/
theorem State.enqueue_queued (hw : (s.course g).wait = none) (hl : ((s.course g).queue q).entries.length < 64)
    (he : e.waits = false)
    (ht : t = (s.modCourse g fun c => { c with serial := c.serial + 1, arr := c.arr.issued q e }).enqueue g q e) :
    Outside g s (t.checkWindow g) ∧ Queued q e (s.course g) ((t.checkWindow g).course g) := by
  have hs := ht ▸ s.enqueue_settles (e := e) hw hl
  obtain ⟨hrest, hpc, hserial, hslots, hstarted, hentries⟩ := queued_of_settles he hs
  obtain ⟨l, v, hr⟩ := t.checkWindow_reports g
  refine ⟨((s.modCourse_outside g _).trans hs.outside).trans (t.checkWindow_outside g), ?_⟩
  rw [hr.course, State.modCourse_course]
  exact ⟨hrest, hpc, hserial, hslots, hstarted, hentries⟩

theorem State.submit_stays (hw : (s.course g).wait = none) (hl : ((s.course g).queue q).entries.length < 64)
    (ho : ∀ n x o, op ≠ .queueWait n x o) : ∃ t, s.submit g w q op rows = .stay t ∧ Outside g s t ∧
      Queued q (s.entry g w op rows) (s.course g) (t.course g) := by
  have he : (s.entry g w op rows).waits = false := by
    unfold QEntry.waits
    split
    · next h => exact absurd h (ho _ _ _)
    · rfl
  exact ⟨_, rfl, State.enqueue_queued hw hl he rfl⟩

/-! ### What an instruction is given at issue (R183) -/

/-- From s to t course g has fetched, and has the bindings bs; counters may have counted. -/
def Supplied (g : Course) (bs : List Binding) (s t : State) : Prop :=
  ∃ b x, t = ({ s with wide := x }).modCourse g fun c => { c with ibuf := b, bindings := bs }

theorem State.fetch_supplied (s : State) (g : Course) : Supplied g (s.course g).bindings s (s.fetch g).1 := by
  obtain ⟨b, hb⟩ := s.fetch_fst g
  exact ⟨b, s.wide, hb⟩

theorem Supplied.trans {as : List Binding} (h : Supplied g as s t) (k : Supplied g bs t u) : Supplied g bs s u := by
  obtain ⟨a, _, rfl⟩ := h
  obtain ⟨b, x, rfl⟩ := k
  exact ⟨b, x, State.modCourse_modCourse { s with wide := x } g (fun c => { c with ibuf := a, bindings := as }) _⟩

theorem Supplied.outside (h : Supplied g bs s t) : Outside g s t := by
  obtain ⟨_, x, rfl⟩ := h
  exact ⟨fun c hc => State.modCourse_course_ne { s with wide := x } hc _, rfl⟩

theorem Supplied.course (h : Supplied g bs s t) : ∃ b, t.course g = { s.course g with ibuf := b, bindings := bs } := by
  obtain ⟨b, x, rfl⟩ := h
  exact ⟨b, State.modCourse_course { s with wide := x } g _⟩

/-- A binding after a consumer of n elements on the stream was given its rows. -/
def Binding.advanced (stream : BitVec 16) (n : Nat) (e : Binding) : Binding :=
  if e.stream = stream then { e with pos := e.pos + BitVec.ofNat 64 ((n + 511) / 512) } else e

/-- A consumer that may draw goes on with its rows. -/
theorem withRows_supplied {sr : Bool} {rng n : Nat} {r : Option Rows × List Binding} (h : drawn (s.course g) sr rng n = some r) :
    ∃ t, Supplied g r.2 s t ∧ ∀ code k, s.withRows g sr rng n code k = k t r.1 := by
  cases sr with
  | false =>
    obtain rfl := Option.some.inj h
    exact ⟨s, ⟨(s.course g).ibuf, s.wide, (s.setCourse_self g).symm⟩, fun _ _ => rfl⟩
  | true =>
    obtain ⟨b, hb, rfl⟩ := Option.map_eq_some_iff.mp h
    obtain ⟨x, hx⟩ := count_frame (s.modCourse g fun c =>
      { c with bindings := c.bindings.map (.advanced (BitVec.ofNat 16 rng) n) })
      (Blk.course g).base 0x1428 0x1420 ((n + 511) / 512)
    refine ⟨_, ⟨(s.course g).ibuf, x, hx⟩, fun code k => ?_⟩
    simp only [State.withRows, State.giveRows, CourseState.binding, hb, State.countC, if_true]
    rfl

/-! ### From the command to the queue -/

theorem issuing_wait (h : s.issuing g = true) : (s.course g).wait = none := by
  unfold State.issuing at h
  simp only [Bool.and_eq_true, Option.isNone_iff_eq_none] at h
  obtain ⟨⟨⟨-, hw⟩, -⟩, -⟩ := h
  exact hw

/-- An engine instruction whose checks pass and whose queue has room enters it. -/
theorem enters_of_submit {i : Instr} {z : List (Nat × Nat)} {v2 : Bool} {cls : BitVec 16} {body : State → Act}
    {p : BitVec 32 → Prop} (hx : exec i s = .next (s.issueEngine g w q z v2 cls body)) (hi : Issues s g w z v2)
    (hr : Room s g w q) (ho : ∀ n x o, op ≠ .queueWait n x o) (hu : Supplied g bs s u)
    (hb : body (s.fetch g).1 = u.submit g w q op rows) (hp : p ((s.course g).arr.turn op).progOpen) :
    Enters i s g w q op (rows, bs) p := by
  obtain ⟨b, hc⟩ := hu.course
  obtain ⟨t, ht, hout, hq⟩ := u.submit_stays (g := g) (w := w) (q := q) (op := op) (rows := rows)
    (by rw [hc]; exact issuing_wait hi.running) (by rw [hc]; exact hr.1) ho
  have hissue : s.issueEngine g w q z v2 cls body = t.issued g := by
    rw [State.issueEngine, State.issue_runs hi.running hi.fetched hi.assigned hi.legal hi.taken, tallyField_usable hr.tallyUsable,
      hb, ht]
  obtain ⟨hothers, hrest⟩ := (hu.outside.trans hout).trans ((t.issued_reports g).outside g)
  obtain ⟨hkeep, hpc, hserial, hslots, hstarted, k, hentries⟩ := hq
  rw [hc] at hkeep hpc hserial hslots hstarted hentries
  refine ⟨_, hx.trans (congrArg _ hissue), hothers, hrest, ?_⟩
  rw [State.issued_course]
  refine ⟨hpc, hserial, (congrArg CourseState.ctl hkeep :), fun j => (congrArg (·.rs j) hkeep :),
    fun j => (congrArg (·.ra j) hkeep :), fun j => (congrArg (·.rp j) hkeep :),
    fun n => ⟨(congrArg (·.tallyVal n) hkeep :), (congrArg (·.tallyPoi n) hkeep :)⟩, (congrArg CourseState.bindings hkeep :), hstarted, hslots ▸ hp, k, _, hentries, rfl, ?_, ?_, rfl, rfl, ?_, rfl⟩
  · exact (congrArg CourseState.pc hc :)
  · exact (congrArg CourseState.serial hc :)
  · exact Nat.mod_eq_of_lt (Nat.mod_lt _ (by decide))

end

end Sys2Proof.Machine

/-! SUPPORT. ArrayChecks: the checks at issue of msn.pass, msn.tile, tbl.build, drn.out, drn.partial and msn.parity, one equation for
each way that they end, and what enters the queues (R83, R86, R90, R94, R117, R133, R141, R142, R146, R149, R150, R443, R454). -/

namespace Sys2Proof.Machine

/-! ### Operands and addresses after a fetch (R199) -/

section
variable (s : State) (g : Course) (w : BitVec 56)

@[simp] theorem passOperands_fetch : passOperands ((s.fetch g).1.course g) w = passOperands (s.course g) w :=
  s.fetch_course_eq g (passOperands · w) fun _ => rfl

@[simp] theorem buildOperands_fetch : buildOperands ((s.fetch g).1.course g) w = buildOperands (s.course g) w :=
  s.fetch_course_eq g (buildOperands · w) fun _ => rfl

@[simp] theorem parityOperands_fetch : parityOperands ((s.fetch g).1.course g) w = parityOperands (s.course g) w :=
  s.fetch_course_eq g (parityOperands · w) fun _ => rfl

@[simp] theorem State.fetch_physOf (d a : Nat) : (s.fetch g).1.physOf d a = s.physOf d a := by
  obtain ⟨b, hb⟩ := s.fetch_fst g
  rw [hb]
  rfl

@[simp] theorem State.fetch_buildSource (o : BuildOp) : (s.fetch g).1.buildSource g o = s.buildSource g o := by
  simp only [State.buildSource, State.fetch_physOf, State.fetch_arr]

@[simp] theorem State.fetch_parityAddresses (o : ParityOp) : (s.fetch g).1.parityAddresses g o = s.parityAddresses g o := by
  simp only [State.parityAddresses, State.fetch_slice]

end

/-! ### How the checks end (R203) -/

section
variable {t : State} {g : Course} {w : BitVec 56}

section
variable {o : PassOp} {a : Nat}

theorem issuePass_operands (h : passOperands (t.course g) w = none) : issuePass g w t = .fault 0x0101 none := by
  simp [issuePass, h]

theorem issuePass_capacity (h : passOperands (t.course g) w = some o) (hf : o.fits = false) :
    issuePass g w t = .fault 0x0102 none := by
  simp [issuePass, h, hf]

theorem issuePass_slots (h : passOperands (t.course g) w = some o) (hf : o.fits = true)
    (hs : (t.course g).arr.allOpen (slotMask o.slot o.t) = false) : issuePass g w t = .fault 0x0302 none := by
  simp [issuePass, h, hf, hs]

theorem issuePass_address (h : passOperands (t.course g) w = some o) (hf : o.fits = true)
    (hs : (t.course g).arr.allOpen (slotMask o.slot o.t) = true) (ha : ∀ a, t.slice g o.iscale 16 = some a → a % 16 ≠ 0) :
    issuePass g w t = .fault 0x0101 (some (BitVec.ofNat 64 o.iscale)) := by
  cases hp : t.slice g o.iscale 16 with
  | none => simp [issuePass, h, hf, hs, hp]
  | some a => simp [issuePass, h, hf, hs, hp, guardAct, ha a hp]

theorem issuePass_submits (h : passOperands (t.course g) w = some o) (hf : o.fits = true)
    (hs : (t.course g).arr.allOpen (slotMask o.slot o.t) = true) (hp : t.slice g o.iscale 16 = some a) (ha : a % 16 = 0) :
    issuePass g w t = t.submit g w 0 (.msnPass { o with iscale := a }) none := by
  simp [issuePass, h, hf, hs, hp, guardAct, ha]

end

theorem issueTile_operands (h : 32 < fld w 41 37 + (fld w 36 32 + 1)) : issueTile g w t = .fault 0x0303 none := by
  simp [issueTile, h]

theorem issueTile_slots (h : fld w 41 37 + (fld w 36 32 + 1) ≤ 32) (hd : w.getLsbD 21 = false)
    (hs : (t.course g).arr.progOpen &&& slotMask (fld w 41 37) (fld w 36 32 + 1) ≠ 0) :
    issueTile g w t = .fault 0x0302 none := by
  rw [issueTile, if_neg (Nat.not_lt.mpr h), hd]
  exact if_pos (bne_iff_ne.mpr hs)

theorem issueTile_submits (h : fld w 41 37 + (fld w 36 32 + 1) ≤ 32)
    (hs : w.getLsbD 21 = false → (t.course g).arr.progOpen &&& slotMask (fld w 41 37) (fld w 36 32 + 1) = 0) :
    issueTile g w t =
      t.submit g w 0 (.msnTile (fld w 41 37) (fld w 36 32 + 1) (sext 10 (fld w 31 22)) (w.getLsbD 21)) none := by
  rw [issueTile, if_neg (Nat.not_lt.mpr h), if_neg]
  cases hd : w.getLsbD 21 with
  | false => simp [hs hd]
  | true => simp

section
variable {o p : BuildOp}

theorem issueBuild_operands (h : buildOperands (t.course g) w = none) : issueBuild g w t = .fault 0x0201 none := by
  simp [issueBuild, h]

theorem issueBuild_capacity (h : buildOperands (t.course g) w = some o) (hc : 64 < o.drun + o.count) :
    issueBuild g w t = .fault 0x0202 none := by
  simp [issueBuild, h, hc]

theorem issueBuild_address (h : buildOperands (t.course g) w = some o) (hc : o.drun + o.count ≤ 64)
    (hp : t.buildSource g o = none) : issueBuild g w t = .fault 0x0203 (some (BitVec.ofNat 64 o.addr)) := by
  simp [issueBuild, h, Nat.not_lt.mpr hc, hp]

theorem issueBuild_submits (h : buildOperands (t.course g) w = some o) (hc : o.drun + o.count ≤ 64)
    (hp : t.buildSource g o = some p) : issueBuild g w t = t.submit g w 1 (.tblBuild p) none := by
  simp [issueBuild, h, Nat.not_lt.mpr hc, hp]

end

section
variable {d : DrainOp} {size rng a : Nat}

theorem issueDrain_slots (hs : (t.course g).arr.allOpen (slotMask d.slot d.count) = false) :
    issueDrain g w size d rng t = .fault 0x0302 none := by
  simp [issueDrain, hs]

theorem issueDrain_rows (hs : (t.course g).arr.allOpen (slotMask d.slot d.count) = true)
    (hp : t.slice g d.dst (d.extent (t.course g).arr.logical) = some a) (ha : a % size = 0) :
    issueDrain g w size d rng t =
      t.withRows g d.sr rng (2048 * d.count) 0x0303 fun u rows => u.submit g w 5 (.drain { d with dst := a }) rows := by
  simp [issueDrain, hs, hp, guardAct, ha]

end

/-- The operands of a drn.out of format f. -/
def drnOutOp (c : CourseState) (w : BitVec 56) (f : OutFmt) : DrainOp :=
  ⟨fld w 41 37, fld w 36 32 + 1, false, f, decide (fld w 28 27 = 1), w.getLsbD 26, sext 7 (fld w 25 19), c.aFld w 15,
    (drainStrides c w).1, (drainStrides c w).2⟩

theorem issueDrnOut_operands (h : outFmtOf (fld w 31 29) = none ∨ 32 < fld w 41 37 + (fld w 36 32 + 1) ∨ 1 < fld w 28 27 ∨
    65536 ≤ (t.course g).sFld w 5) : issueDrnOut g w t = .fault 0x0303 none := by
  cases hf : outFmtOf (fld w 31 29) with
  | none => simp [issueDrnOut, hf]
  | some f =>
    simp only [issueDrnOut, hf]
    refine if_neg fun hok => ?_
    simp only [Bool.and_eq_true, decide_eq_true_eq] at hok
    obtain ⟨⟨⟨⟨⟨⟨hslots, hrm⟩, -⟩, -⟩, -⟩, hrng⟩, -⟩ := hok
    rcases h with h | h | h | h
    · simp [hf] at h
    all_goals omega

theorem issueDrnOut_drains {f : OutFmt} (hf : outFmtOf (fld w 31 29) = some f) (hn : fld w 41 37 + (fld w 36 32 + 1) ≤ 32)
    (hm : fld w 28 27 ≤ 1) (hb : f.isBS = true → (fld w 36 32 + 1) % 2 = 0) (hr : (drainStrides (t.course g) w).1 % f.size = 0)
    (hi : (drainStrides (t.course g) w).2 % f.size = 0) (hg : (t.course g).sFld w 5 < 65536)
    (hu : fld w 28 27 = 0 → fld w 9 5 = 0) :
    issueDrnOut g w t = issueDrain g w f.size (drnOutOp (t.course g) w f) ((t.course g).sFld w 5) t := by
  have hb' : (!f.isBS || decide ((fld w 36 32 + 1) % 2 = 0)) = true := by
    cases h : f.isBS with
    | false => rfl
    | true => simpa using hb h
  have hu' : fld w 28 27 = 1 ∨ fld w 9 5 = 0 := by
    rcases Nat.le_one_iff_eq_zero_or_eq_one.mp hm with h | h
    · exact .inr (hu h)
    · exact .inl h
  simp only [issueDrnOut, hf]
  exact if_pos (by simp only [hn, hm, hb', hr, hi, hg, hu', Bool.and_eq_true, Bool.or_eq_true, decide_eq_true_eq, and_self])

/-- The operands of a drn.partial. -/
def drnPartialOp (c : CourseState) (w : BitVec 56) : DrainOp :=
  ⟨fld w 41 37, fld w 36 32 + 1, true, .fp32, false, false, 0, c.aFld w 15, (drainStrides c w).1, (drainStrides c w).2⟩

theorem issueDrnPartial_operands (h : 32 < fld w 41 37 + (fld w 36 32 + 1) ∨ (t.course g).sFld w 10 % 16 ≠ 0) :
    issueDrnPartial g w t = .fault 0x0303 none := by
  simp only [issueDrnPartial, drainStrides]
  refine if_neg fun ⟨hn, hr, _⟩ => ?_
  omega

theorem issueDrnPartial_drains (hn : fld w 41 37 + (fld w 36 32 + 1) ≤ 32) (hr : (drainStrides (t.course g) w).1 % 16 = 0)
    (hi : (drainStrides (t.course g) w).2 % 16 = 0) :
    issueDrnPartial g w t = issueDrain g w 16 (drnPartialOp (t.course g) w) 0 t := by
  simp only [issueDrnPartial]
  exact if_pos ⟨hn, hr, hi⟩

theorem issueParity_submits {o p : ParityOp} (h : parityOperands (t.course g) w = some o) (hs : (t.course g).arr.progOpen = 0)
    (hp : t.parityAddresses g o = .ok p) : issueParity g w t = t.submit g w 0 (.msnParity p) none := by
  simp [issueParity, h, hs, hp]

end

/-! ### What enters the queues -/

section
variable {s : State} {g : Course} {w : BitVec 56}

/-- A drain whose checks pass enters with its rows and closes its slots. -/
theorem drain_enters {i : Instr} {z : List (Nat × Nat)} {body : State → Act} {d : DrainOp} {size rng a : Nat}
    {r : Option Rows × List Binding} (hx : exec i s = .next (s.issueEngine g w 5 z false 0x0303 body))
    (hi : Issues s g w z false) (hr : Room s g w 5) (hb : body (s.fetch g).1 = issueDrain g w size d rng (s.fetch g).1)
    (hs : (s.course g).arr.allOpen (slotMask d.slot d.count) = true)
    (hp : s.slice g d.dst (d.extent (s.course g).arr.logical) = some a) (ha : a % size = 0)
    (hd : drawn (s.course g) d.sr rng (2048 * d.count) = some r) :
    Enters i s g w 5 (.drain { d with dst := a }) r fun m => m = (s.course g).arr.progOpen &&& ~~~slotMask d.slot d.count := by
  obtain ⟨u, hu, hk⟩ := withRows_supplied (s := (s.fetch g).1) (by rwa [drawn_fetch])
  refine enters_of_submit hx hi hr nofun ((s.fetch_supplied g).trans hu) (hb.trans ?_) rfl
  rw [issueDrain_rows (by rwa [State.fetch_arr]) (by rwa [State.fetch_slice, State.fetch_arr]) ha, hk]

theorem arrays_enter : arrayEnter := by
  intro s g w c same n closed dst rs is
  have given := s.fetch_supplied g
  refine ⟨?_, ?_, ?_, ?_, ?_, ?_⟩
  · intro hi hr o a ho hf hs hp ha
    exact enters_of_submit rfl hi hr nofun given
      (issuePass_submits (by rwa [passOperands_fetch]) hf (by rwa [State.fetch_arr]) (by rwa [State.fetch_slice]) ha) rfl
  · intro hi hr hn hs
    exact enters_of_submit rfl hi hr nofun given (issueTile_submits hn (by rwa [State.fetch_arr])) rfl
  · intro hi hr o p ho hc hp
    exact enters_of_submit rfl hi hr nofun given
      (issueBuild_submits (by rwa [buildOperands_fetch]) hc (by rwa [State.fetch_buildSource])) rfl
  · intro hi hr f a r hf hn hm hb hrs his hg hu hs o hp ha hd
    have hbody : issueDrnOut g w (s.fetch g).1 = issueDrain g w f.size o (c.rs (fldS w 5)).toNat (s.fetch g).1 := by
      have h := issueDrnOut_drains (t := (s.fetch g).1) (g := g) hf hn hm hb
      simp only [drainStrides, drnOutOp, CourseState.sFld, CourseState.aFld, State.fetch_rs, State.fetch_ra] at h
      exact h hrs his hg hu
    exact drain_enters rfl hi hr hbody hs hp ha hd
  · intro hi hr a hn hrs his hs o hp ha
    have hbody : issueDrnPartial g w (s.fetch g).1 = issueDrain g w 16 o 0 (s.fetch g).1 := by
      have h := issueDrnPartial_drains (t := (s.fetch g).1) (g := g) hn
      simp only [drainStrides, drnPartialOp, CourseState.sFld, CourseState.aFld, State.fetch_rs, State.fetch_ra] at h
      exact h hrs his
    exact drain_enters rfl hi hr hbody hs hp ha rfl
  · intro hi hr o p ho hs hp
    have hbody := issueParity_submits (t := (s.fetch g).1) (g := g) (by rwa [parityOperands_fetch]) (by rwa [State.fetch_arr])
      (by rwa [State.fetch_parityAddresses])
    exact ⟨enters_of_submit rfl hi hr nofun given hbody rfl, enters_of_submit rfl hi hr nofun given hbody rfl⟩

end

/-! ### The columns of msn.pass (R83, R84, R217) -/

/-- The numbers of the enumerated fields (R217). -/
def PassMode.number : PassMode → Nat
  | .table => 0
  | .shift => 1
  | .popcount => 2

def IdxFmt.number : IdxFmt → Nat
  | .b1 => 0
  | .t2 => 1
  | .i2 => 2
  | .i4 => 3
  | .l4 => 4

def TblFmt.number : TblFmt → Nat
  | .bs8 => 0
  | .bs16 => 1
  | .b1 => 2

theorem passModeOf_eq_some {n : Nat} {m : PassMode} : passModeOf n = some m ↔ n = m.number := by
  cases m <;> unfold passModeOf <;> split <;> simp_all [PassMode.number]

theorem idxFmtOf_eq_some {n : Nat} {f : IdxFmt} : idxFmtOf n = some f ↔ n = f.number := by
  cases f <;> unfold idxFmtOf <;> split <;> simp_all [IdxFmt.number]

theorem tblFmtOf_eq_some {n : Nat} {f : TblFmt} : tblFmtOf n = some f ↔ n = f.number := by
  cases f <;> unfold tblFmtOf <;> split <;> simp_all [TblFmt.number]

theorem tokensOf_eq_some {n t : Nat} : tokensOf n = some t ↔ n ≤ 2 ∧ t = 2 ^ n := by
  match n with
  | 0 | 1 | 2 => simp [tokensOf, eq_comm]
  | n + 3 => simp [tokensOf]

theorem IdxFmt.exists_number {n : Nat} (h : n ≤ 4) : ∃ f : IdxFmt, n = f.number := by
  match n, h with
  | 0, _ => exact ⟨.b1, rfl⟩
  | 1, _ => exact ⟨.t2, rfl⟩
  | 2, _ => exact ⟨.i2, rfl⟩
  | 3, _ => exact ⟨.i4, rfl⟩
  | 4, _ => exact ⟨.l4, rfl⟩

theorem TblFmt.exists_number {n : Nat} (h : n ≤ 2) : ∃ f : TblFmt, n = f.number := by
  match n, h with
  | 0, _ => exact ⟨.bs8, rfl⟩
  | 1, _ => exact ⟨.bs16, rfl⟩
  | 2, _ => exact ⟨.b1, rfl⟩

section
variable {c : CourseState} {w : BitVec 56} {mode : PassMode} {ifmt : IdxFmt} {tfmt : TblFmt}

/-- G and TBASE of a pass that reads tables or table entries. -/
def WidePass (c : CourseState) (w : BitVec 56) : Prop := 16 ≤ c.sFld w 5 ∧ c.sFld w 5 % 16 = 0 ∧ fld w 22 10 % 8 = 0

/-- What each mode requires of the other columns, T apart from its range. -/
def PassValid (c : CourseState) (w : BitVec 56) (ifmt : IdxFmt) (tfmt : TblFmt) : PassMode → Prop
  | .table => ifmt ≠ .l4 ∧ tfmt ≠ .b1 ∧ WidePass c w ∧ fld w 25 24 = 0 ∧ w.getLsbD 23 = false ∧ fld w 32 31 < tfmt.q ∧
      if ifmt = .t2 then fld w 34 33 = 0 else fld w 34 33 < ifmt.planes
  | .shift => ifmt = .l4 ∧ tfmt ≠ .b1 ∧ WidePass c w ∧ w.getLsbD 23 = false ∧ fld w 34 33 = 0 ∧ fld w 32 31 = 0
  | .popcount => ifmt = .b1 ∧ tfmt = .b1 ∧ 1 ≤ c.sFld w 5 ∧ fld w 34 33 = 0 ∧ fld w 32 31 = 0 ∧ w.getLsbD 0 = false

/-- The operands of an msn.pass of the mode and formats. -/
def passOp (c : CourseState) (w : BitVec 56) (mode : PassMode) (ifmt : IdxFmt) (tfmt : TblFmt) : PassOp :=
  ⟨mode, ifmt, tfmt, fld w 34 33, fld w 32 31, fld w 30 26, 2 ^ fld w 25 24, w.getLsbD 23, fld w 22 10, c.sFld w 5, c.aFld w 1,
    w.getLsbD 0⟩

theorem passOperands_eq_some {o : PassOp} : passOperands c w = some o ↔ ∃ mode ifmt tfmt,
    fld w 41 40 = mode.number ∧ fld w 39 37 = ifmt.number ∧ fld w 36 35 = tfmt.number ∧ fld w 25 24 ≤ 2 ∧
    PassValid c w ifmt tfmt mode ∧ fld w 30 26 + 2 ^ fld w 25 24 ≤ 32 ∧ o = passOp c w mode ifmt tfmt := by
  constructor
  · intro h
    unfold passOperands at h
    split at h
    · next mode ifmt tfmt t hm hi hf ht =>
      obtain ⟨hle, rfl⟩ := tokensOf_eq_some.mp ht
      obtain ⟨hok, ho⟩ := Option.ite_none_right_eq_some.mp h
      obtain ⟨hvalid, hslots⟩ := (Bool.and_eq_true ..).mp hok
      refine ⟨mode, ifmt, tfmt, passModeOf_eq_some.mp hm, idxFmtOf_eq_some.mp hi, tblFmtOf_eq_some.mp hf, hle, ?_,
        of_decide_eq_true hslots, (Option.some.inj ho).symm⟩
      cases mode <;> simpa [PassValid, WidePass, and_assoc] using hvalid
    · cases h
  · rintro ⟨mode, ifmt, tfmt, hm, hi, hf, ht, hvalid, hslots, rfl⟩
    unfold passOperands
    rw [passModeOf_eq_some.mpr hm, idxFmtOf_eq_some.mpr hi, tblFmtOf_eq_some.mpr hf, tokensOf_eq_some.mpr ⟨ht, rfl⟩]
    refine if_pos ((Bool.and_eq_true ..).mpr ⟨?_, decide_eq_true hslots⟩)
    cases mode <;> simpa [PassValid, WidePass, and_assoc] using hvalid

theorem IdxFmt.number_le_three {f : IdxFmt} : f.number ≤ 3 ↔ f ≠ .l4 := by
  cases f <;> decide

theorem IdxFmt.number_eq_four {f : IdxFmt} : f.number = 4 ↔ f = .l4 := by
  cases f <;> decide

theorem IdxFmt.number_eq_zero {f : IdxFmt} : f.number = 0 ↔ f = .b1 := by
  cases f <;> decide

theorem TblFmt.number_le_one {f : TblFmt} : f.number ≤ 1 ↔ f ≠ .b1 := by
  cases f <;> decide

theorem TblFmt.number_eq_two {f : TblFmt} : f.number = 2 ↔ f = .b1 := by
  cases f <;> decide

theorem TblFmt.q_of_ne {f : TblFmt} (h : f ≠ .b1) : f.q = if f.number = 0 then 2 else 4 := by
  cases f with
  | b1 => exact absurd rfl h
  | bs8 => rfl
  | bs16 => rfl

/-- PLANE of a table pass; T2 takes its two planes at once (R84). -/
theorem IdxFmt.plane_of_ne {f : IdxFmt} {p : Nat} (h : f ≠ .l4) : (if f = .t2 then p = 0 else p < f.planes) ↔
    p < if f.number ≤ 1 then 1 else if f.number = 2 then 2 else 4 := by
  cases f with
  | l4 => exact absurd rfl h
  | b1 => exact Iff.rfl
  | t2 => exact Nat.lt_one_iff.symm
  | i2 => exact Iff.rfl
  | i4 => exact Iff.rfl

section
variable {i f : Nat} (hi : i = ifmt.number) (hf : f = tfmt.number)
include hi hf

theorem passValid_table : PassValid c w ifmt tfmt .table ↔ i ≤ 3 ∧ f ≤ 1 ∧ WidePass c w ∧ fld w 25 24 = 0 ∧
    w.getLsbD 23 = false ∧ fld w 32 31 < (if f = 0 then 2 else 4) ∧
    fld w 34 33 < (if i ≤ 1 then 1 else if i = 2 then 2 else 4) := by
  subst hi hf
  rw [IdxFmt.number_le_three, TblFmt.number_le_one]
  refine and_congr_right fun hl => and_congr_right fun hb => ?_
  rw [TblFmt.q_of_ne hb, IdxFmt.plane_of_ne hl]

theorem passValid_shift : PassValid c w ifmt tfmt .shift ↔ i = 4 ∧ f ≤ 1 ∧ WidePass c w ∧ w.getLsbD 23 = false ∧
    fld w 34 33 = 0 ∧ fld w 32 31 = 0 := by
  subst hi hf
  rw [IdxFmt.number_eq_four, TblFmt.number_le_one]
  rfl

theorem passValid_popcount : PassValid c w ifmt tfmt .popcount ↔ i = 0 ∧ f = 2 ∧ 1 ≤ c.sFld w 5 ∧ fld w 34 33 = 0 ∧
    fld w 32 31 = 0 ∧ w.getLsbD 0 = false := by
  subst hi hf
  rw [IdxFmt.number_eq_zero, TblFmt.number_eq_two]
  rfl

end

end

theorem passes_columns : passColumns := by
  intro c w mode ifmt tfmt plane slice t k wide table shift popcount
  refine ⟨?_, fun o ho => ?_⟩
  · rw [Option.isSome_iff_exists]
    constructor
    · rintro ⟨o, ho⟩
      obtain ⟨m, i, f, hm, hi, hf, ht, hv, hslots, -⟩ := passOperands_eq_some.mp ho
      refine ⟨?_, hslots⟩
      cases m with
      | table => exact .inl ⟨hm, (passValid_table hi hf).mp hv⟩
      | shift =>
        obtain ⟨hl, hb, hw, hrest⟩ := (passValid_shift hi hf).mp hv
        exact .inr (.inl ⟨hm, hl, hb, hw, ht, hrest⟩)
      | popcount =>
        obtain ⟨hl, hb, hrest⟩ := (passValid_popcount hi hf).mp hv
        exact .inr (.inr ⟨hm, hl, hb, ht, hrest⟩)
    · rintro ⟨⟨hm, hl, hb, hw, ht, hrest⟩ | ⟨hm, hl, hb, hw, ht, hrest⟩ | ⟨hm, hl, hb, ht, hrest⟩, hslots⟩
      all_goals
        obtain ⟨i, hi⟩ := IdxFmt.exists_number (n := ifmt) (by omega)
        obtain ⟨f, hf⟩ := TblFmt.exists_number (n := tfmt) (by omega)
      · exact ⟨_, passOperands_eq_some.mpr ⟨.table, i, f, hm, hi, hf, ht.trans_le (by decide),
          (passValid_table hi hf).mpr ⟨hl, hb, hw, ht, hrest⟩, hslots, rfl⟩⟩
      · exact ⟨_, passOperands_eq_some.mpr ⟨.shift, i, f, hm, hi, hf, ht, (passValid_shift hi hf).mpr ⟨hl, hb, hw, hrest⟩, hslots,
          rfl⟩⟩
      · exact ⟨_, passOperands_eq_some.mpr ⟨.popcount, i, f, hm, hi, hf, ht, (passValid_popcount hi hf).mpr ⟨hl, hb, hrest⟩,
          hslots, rfl⟩⟩
  · obtain ⟨_, _, _, -, -, -, -, -, -, rfl⟩ := passOperands_eq_some.mp ho
    exact ⟨rfl, rfl, rfl, rfl, rfl, rfl, rfl, rfl, rfl⟩

/-- Settles O23: each instruction by what its checks submit, the columns by the decoders of the enumerated fields. -/
theorem arrayInstructions : Obligations.ArrayInstructions := ⟨arrays_enter, passes_columns⟩

/-! ### The faults (R203, R237) -/

/-- Settles O26: each fault by the equation of the check that finds it, with TALLY passing the check that stands before it. -/
theorem arrayInstructionFaults : Obligations.ArrayInstructionFaults := by
  intro s g w hv h0 c n u faults
  have htally : TallyUsable s g w := ⟨hv, h0⟩
  refine ⟨fun hi => ⟨fun h => ?_, fun o h => ⟨fun hf => ?_, fun hf hs => ?_, fun hf hs ha => ?_⟩⟩,
    fun hi => ⟨fun h => ?_, fun h hd hs => ?_⟩,
    fun hi => ⟨fun h => ?_, fun o h => ⟨fun hc => ?_, fun hc hp => ?_⟩⟩, fun hi h => ?_,
    fun hi => ⟨fun h => ?_, fun hn hr his hs => ?_⟩⟩
  · exact engine_faultsWith (q := 0) rfl hi htally (issuePass_operands (by rwa [passOperands_fetch]))
  · exact engine_faultsWith (q := 0) rfl hi htally (issuePass_capacity (by rwa [passOperands_fetch]) hf)
  · exact engine_faultsWith (q := 0) rfl hi htally (issuePass_slots (by rwa [passOperands_fetch]) hf (by rwa [State.fetch_arr]))
  · exact engine_faults (q := 0) rfl hi htally (issuePass_address (by rwa [passOperands_fetch]) hf (by rwa [State.fetch_arr])
      (by rwa [State.fetch_slice]))
  · exact engine_faultsWith (q := 0) rfl hi htally (issueTile_operands h)
  · exact engine_faultsWith (q := 0) rfl hi htally (issueTile_slots h hd (by rwa [State.fetch_arr]))
  · exact engine_faultsWith (q := 1) rfl hi htally (issueBuild_operands (by rwa [buildOperands_fetch]))
  · exact engine_faultsWith (q := 1) rfl hi htally (issueBuild_capacity (by rwa [buildOperands_fetch]) hc)
  · exact engine_faults (q := 1) rfl hi htally (issueBuild_address (by rwa [buildOperands_fetch]) hc
      (by rwa [State.fetch_buildSource]))
  · exact engine_faultsWith (q := 5) rfl hi htally (issueDrnOut_operands (by rwa [CourseState.sFld, State.fetch_rs]))
  · exact engine_faultsWith (q := 5) rfl hi htally (issueDrnPartial_operands (by rwa [CourseState.sFld, State.fetch_rs]))
  · have hbody := issueDrnPartial_drains (t := (s.fetch g).1) (g := g) hn (by rwa [drainStrides, CourseState.sFld, State.fetch_rs])
      (by rwa [drainStrides, CourseState.sFld, State.fetch_rs])
    exact engine_faultsWith (q := 5) rfl hi htally (hbody.trans (issueDrain_slots (by rwa [State.fetch_arr])))

end Sys2Proof.Machine

/-! SUPPORT. ArrayFaults: what the failure of arrays leaves of a course, what its checks of residues find, and how its replay
begins and ends (R156, R498, R502 to R507, R511). -/

namespace Sys2Proof.Machine

/-- A command of a course that runs acts. -/
theorem ifCourse_runs {s : State} {g : Course} (h : s.courseRuns g = true) (act : State → State) :
    Host.Outcome.next (s.ifCourse g act) = (.next (act s) : Out) := congrArg _ (if_pos h)

/-! ### What fencing leaves (R511) -/

section
variable {s t u : State} {g : Course}

/-- From s to t course g has kept its control state, its wait, and which of its arrays are healthy and mapped. -/
structure KeepsService (g : Course) (s t : State) : Prop where
  ctl : (t.course g).ctl = (s.course g).ctl
  wait : (t.course g).wait = (s.course g).wait
  healthy : (t.course g).arr.healthy = (s.course g).arr.healthy
  mapped : (t.course g).arr.mapped = (s.course g).arr.mapped

theorem KeepsService.trans (h : KeepsService g s t) (k : KeepsService g t u) : KeepsService g s u :=
  ⟨k.ctl.trans h.ctl, k.wait.trans h.wait, k.healthy.trans h.healthy, k.mapped.trans h.mapped⟩

theorem KeepsService.of_course (h : t.course g = s.course g) : KeepsService g s t := by
  constructor <;> rw [h]

theorem KeepsService.refl (g : Course) (s : State) : KeepsService g s s := .of_course rfl

theorem State.modCourse_keepsService {f : CourseState → CourseState} (h : Course)
    (hf : ∀ c, (f c).ctl = c.ctl ∧ (f c).wait = c.wait ∧ (f c).arr.healthy = c.arr.healthy ∧ (f c).arr.mapped = c.arr.mapped) :
    KeepsService g s (s.modCourse h f) := by
  by_cases hg : g = h
  · subst hg
    obtain ⟨hc, hw, hh, hm⟩ := hf (s.course g)
    constructor <;> rw [State.modCourse_course] <;> assumption
  · exact .of_course (s.modCourse_course_ne hg f)

theorem State.giveBack_keepsService (s : State) (req n : Nat) (src : CreditSrc) : KeepsService g s (s.giveBack g req n src) := by
  unfold State.giveBack
  dsimp only
  repeat' split
  · exact .refl g s
  · exact .of_course rfl
  · exact s.modCourse_keepsService g fun _ => ⟨rfl, rfl, rfl, rfl⟩
  all_goals exact .of_course rfl

theorem State.ungrant_keepsService (s : State) (q : QueueId) : KeepsService g s (s.ungrant g q) := by
  unfold State.ungrant
  split
  · refine KeepsService.trans (s.modCourse_keepsService g fun _ => ?_) (State.giveBack_keepsService ..)
    exact ⟨rfl, rfl, rfl, rfl⟩
  · exact s.modCourse_keepsService g fun _ => ⟨rfl, rfl, rfl, rfl⟩

theorem CourseState.discardTallies_eq (c : CourseState) (es : List QEntry) :
    ∃ v p, c.discardTallies es = { c with tallyV := v, tallyP := p } := by
  unfold CourseState.discardTallies
  induction es generalizing c with
  | nil => exact ⟨_, _, rfl⟩
  | cons e es ih =>
    obtain ⟨v, p, h⟩ := ih (if e.te then c.tallyPoison e.tally else c)
    rw [List.foldl_cons, h]
    split <;> exact ⟨_, _, rfl⟩

theorem CourseState.discard_service (c : CourseState) (es : List QEntry) :
    let d := c.discardTallies es
    (d.ctl = c.ctl ∧ d.wait = c.wait) ∧ (d.arr.discard es).healthy = c.arr.healthy ∧ (d.arr.discard es).mapped = c.arr.mapped := by
  obtain ⟨v, p, h⟩ := c.discardTallies_eq es
  rw [h]
  exact ⟨⟨rfl, rfl⟩, rfl, rfl⟩

theorem State.flushQueue_keepsService (s : State) (q : QueueId) : KeepsService g s (s.flushQueue g q) := by
  unfold State.flushQueue
  refine KeepsService.trans (s.ungrant_keepsService q) (State.modCourse_keepsService g fun c => ?_)
  obtain ⟨⟨hc, hw⟩, hh, hm⟩ := (c.modQueue q fun y => { y with entries := [] }).discard_service ((s.course g).queue q).entries
  exact ⟨hc, hw, hh, hm⟩

theorem State.dropStalled_keepsService (s : State) : KeepsService g s (s.dropStalled g) := by
  unfold State.dropStalled
  split
  · next e _ =>
    refine s.modCourse_keepsService g fun c => ?_
    obtain ⟨⟨hc, hw⟩, hh, hm⟩ := c.discard_service [e]
    exact ⟨hc, hw, hh, hm⟩
  · exact .refl g s

theorem State.flushAll_keepsService (s : State) : KeepsService g s (s.flushAll g) :=
  s.dropStalled_keepsService.trans
    (foldl_related (KeepsService.refl g) KeepsService.trans (fun t q => t.flushQueue_keepsService q) _ _)

theorem State.releaseHold_keepsService (s : State) : KeepsService g s (s.releaseHold g) := by
  unfold State.releaseHold
  split
  · refine KeepsService.trans (s.modCourse_keepsService g fun _ => ?_) (State.giveBack_keepsService ..)
    exact ⟨rfl, rfl, rfl, rfl⟩
  · exact .refl g s

theorem State.endAdoption_keepsService (s : State) : KeepsService g s (s.endAdoption g) := by
  unfold State.endAdoption
  split
  · refine KeepsService.trans (s.modCourse_keepsService g fun _ => ?_) (State.modCourse_keepsService _ fun _ => ?_)
    all_goals exact ⟨rfl, rfl, rfl, rfl⟩
  · exact .refl g s

theorem Settles.keepsService (h : Settles g s t) : KeepsService g s t := by
  obtain ⟨-, -, hg, -⟩ := h
  have hc := congrArg CourseState.ctl hg
  have hw := congrArg CourseState.wait hg
  have hh := congrArg (·.arr.healthy) hg
  have hm := congrArg (·.arr.mapped) hg
  exact ⟨hc, hw, hh, hm⟩

theorem Reports.keepsService (h : Reports s t) : KeepsService g s t := .of_course (h.course g)

/-- What follows the change of the control state of a course that is fenced. -/
theorem fencing_keepsService (hw : (s.course g).wait = none) : KeepsService g s
    ((((((s.toStacks g (.breakNotice g)).flushAll g).releaseHold g).endAdoption g).settle g).raiseRel (courseDie g) 0x0F08
      (g.val % 8) none) := by
  obtain ⟨l, hl⟩ := s.toStacks_eq g (.breakNotice g)
  have hsent : KeepsService g s (s.toStacks g (.breakNotice g)) := .of_course (by rw [hl]; rfl)
  have hleft := ((hsent.trans (State.flushAll_keepsService _)).trans (State.releaseHold_keepsService _)).trans
    (State.endAdoption_keepsService _)
  have hsettled := (State.settle_settles _ g (hleft.wait.trans hw)).keepsService
  exact (hleft.trans hsettled).trans (State.raiseWith_reports ..).keepsService

/-- A course that is fenced runs no controller, and its arrays are in service or out of it as before. -/
theorem State.fence_course (s : State) (g : Course) : ((s.fence g).course g).ctl = .fenced ∧
    ((s.fence g).course g).arr.healthy = (s.course g).arr.healthy ∧ ((s.fence g).course g).arr.mapped = (s.course g).arr.mapped := by
  unfold State.fence
  split
  · next h => exact ⟨h, rfl, rfl⟩
  · obtain ⟨hc, -, hh, hm⟩ := fencing_keepsService (g := g)
      (s := s.modCourse g fun c => { c with ctl := .fenced, wait := none, stopReq := false }) (by rw [State.modCourse_course])
    rw [State.modCourse_course] at hc hh hm
    dsimp only at hc hh hm ⊢
    exact ⟨hc, hh, hm⟩

end

/-! ### Masks of arrays (R507; log entry 89) -/

section
variable {m : BitVec 9} {p q : Nat} {ps : List Nat}

/-- The mask without a list of physical arrays. -/
def without (m : BitVec 9) (ps : List Nat) : BitVec 9 := ps.foldl (fun m p => m &&& ~~~(1#9 <<< p)) m

theorem getLsbD_clear (m : BitVec 9) (p q : Nat) : (m &&& ~~~(1#9 <<< p)).getLsbD q = (m.getLsbD q && !(p == q)) := by
  by_cases hq : q < 9
  · have hone : (1#9 <<< p).getLsbD q = (p == q) := by
      rw [← BitVec.twoPow_eq, BitVec.getLsbD_twoPow]
      by_cases h : p = q <;> simp [h, hq]
    rw [BitVec.getLsbD_and, BitVec.getLsbD_not, hone]
    simp [hq]
  · simp [BitVec.getLsbD_of_ge _ q (Nat.le_of_not_lt hq)]

theorem getLsbD_without : (without m ps).getLsbD q = (m.getLsbD q && !ps.any (· == q)) := by
  unfold without
  induction ps generalizing m with
  | nil => simp
  | cons p ps ih => rw [List.foldl_cons, ih, getLsbD_clear, List.any_cons, Bool.not_or, Bool.and_assoc]

theorem clear_of_getLsbD (h : m.getLsbD p = false) : m &&& ~~~(1#9 <<< p) = m := by
  refine BitVec.eq_of_getLsbD_eq fun q _ => ?_
  rw [getLsbD_clear]
  by_cases hq : p = q
  · simp [← hq, h]
  · simp [hq]

theorem arraysOf_clear (m : BitVec 9) (p : Nat) : arraysOf (m &&& ~~~(1#9 <<< p)) = (arraysOf m).erase p := by
  rw [arraysOf, arraysOf, (List.nodup_range.filter _).erase_eq_filter, List.filter_filter]
  refine List.filter_congr fun q _ => ?_
  rw [getLsbD_clear, Bool.and_comm, bne, Bool.beq_comm]

theorem length_arraysOf_clear_le (m : BitVec 9) (p : Nat) :
    (arraysOf m).length ≤ (arraysOf (m &&& ~~~(1#9 <<< p))).length + 1 := by
  rw [arraysOf_clear, List.length_erase]
  split <;> omega

theorem length_arraysOf_without_le : (arraysOf (without m ps)).length ≤ (arraysOf m).length := by
  unfold without
  induction ps generalizing m with
  | nil => exact le_rfl
  | cons p ps ih =>
    rw [List.foldl_cons]
    refine ih.trans ?_
    rw [arraysOf_clear]
    exact List.length_erase_le

theorem seven_le_unmapped (h : 7 ≤ (arraysOf m).length) : 7 ≤ (arraysOf (ps.foldl unmapped m)).length := by
  induction ps generalizing m with
  | nil => exact h
  | cons p ps ih =>
    refine ih ?_
    unfold unmapped
    split
    · have := length_arraysOf_clear_le m p
      omega
    · exact h

/-- While 7 arrays are left, those that are mapped are those that are healthy. -/
theorem unmapped_eq_without (h : 7 ≤ (arraysOf (without m ps)).length) : ps.foldl unmapped m = without m ps := by
  induction ps generalizing m with
  | nil => rfl
  | cons p ps ih =>
    have hcons : without m (p :: ps) = without (m &&& ~~~(1#9 <<< p)) ps := rfl
    have hone : unmapped m p = m &&& ~~~(1#9 <<< p) := by
      unfold unmapped
      split
      · rfl
      · next hlen =>
        refine (clear_of_getLsbD ?_).symm
        by_contra hp
        have hmem : p ∈ arraysOf m := by
          have hlt := BitVec.lt_of_getLsbD (x := m) (i := p) (by simpa using hp)
          simpa [arraysOf, hlt] using hp
        have hle := length_arraysOf_without_le (m := m &&& ~~~(1#9 <<< p)) (ps := ps)
        rw [arraysOf_clear, List.length_erase_of_mem hmem] at hle
        rw [hcons] at h
        omega
    rw [List.foldl_cons, hone, hcons]
    exact ih (hcons ▸ h)

end

/-! ### Arrays fail (R502, R505 to R507) -/

section
variable {s : State} {g : Course} {js : List Nat} {j : Nat}

theorem ArrayState.accept_runs (a : ArrayState) (o : BuildOp) (n : Nat) : ∃ r, a.accept o n = { a with runs := r } := by
  unfold ArrayState.accept
  refine List.foldlRecOn (motive := fun x : ArrayState => ∃ r, x = { a with runs := r }) _ _ ⟨_, rfl⟩ ?_
  rintro _ ⟨r, rfl⟩ k -
  exact ⟨_, rfl⟩

theorem ArrayState.emptyRuns_runs (a : ArrayState) (again : LogEntry → Bool) : ∃ r, a.emptyRuns again = { a with runs := r } := by
  unfold ArrayState.emptyRuns
  refine List.foldlRecOn (motive := fun x : ArrayState => ∃ r, x = { a with runs := r }) _ _ ⟨_, rfl⟩ ?_
  rintro _ ⟨r, rfl⟩ l -
  split
  · split
    · obtain ⟨r', h⟩ := ArrayState.accept_runs { a with runs := r } _ l.e.serial
      exact ⟨r', h⟩
    · exact ⟨r, rfl⟩
  · exact ⟨r, rfl⟩

/-- Every active set is CLOSED and every shadow set EMPTY (R142). -/
def ArrayState.NoSets (a : ArrayState) : Prop := a.active = [] ∧ a.shadow = []

theorem CourseState.endWork_noSets (c : CourseState) (code : BitVec 16) : (c.endWork code).arr.NoSets := by
  obtain ⟨r, h⟩ := ArrayState.emptyRuns_runs { c.arr.cleared with log := c.arr.cleared.log.filter fun l => !l.completed }
    fun l => !c.busySerials.contains l.e.serial
  unfold CourseState.endWork
  dsimp only
  rw [h]
  exact ⟨rfl, rfl⟩

theorem CourseState.stopForReplay_noSets (c : CourseState) : c.stopForReplay.arr.NoSets := by
  obtain ⟨r, h⟩ := c.arr.cleared.emptyRuns_runs fun _ => true
  unfold CourseState.stopForReplay
  dsimp only
  rw [h]
  exact ⟨rfl, rfl⟩

theorem CourseState.onArrayQueues_queue (c : CourseState) (f : QueueId → QueueState → QueueState) {q : QueueId}
    (hq : q ∈ arrayQueues) : (c.onArrayQueues f).queue q = f q (c.queue q) := by
  have hsame (d : CourseState) (r : QueueId) : (d.modQueue r (f r)).queue r = f r (d.queue r) := d.modQueue_queue r _
  have hother (d : CourseState) {p r : QueueId} (h : r ≠ p) : (d.modQueue p (f p)).queue r = d.queue r :=
    d.setQueue_queue_ne h _
  simp only [arrayQueues, List.mem_cons, List.not_mem_nil, or_false] at hq
  simp only [CourseState.onArrayQueues, arrayQueues, List.foldl_cons, List.foldl_nil]
  rcases hq with rfl | rfl | rfl
  · rw [hother _ (by decide), hother _ (by decide), hsame]
  · rw [hother _ (by decide), hsame, hother _ (by decide)]
  · rw [hsame, hother _ (by decide), hother _ (by decide)]

/-- The healthy arrays of a course once logical arrays have failed. -/
def ArrayState.healthyWithout (a : ArrayState) (js : List Nat) : BitVec 9 := without a.healthy (js.map a.phys)

/-- The mapped arrays of a course once logical arrays have failed. -/
def ArrayState.mappedWithout (a : ArrayState) (js : List Nat) : BitVec 9 := (js.map a.phys).foldl unmapped a.mapped

/-- Course d with the masks that the arrays a have once logical arrays js have failed. -/
def CourseState.marked (d : CourseState) (a : ArrayState) (js : List Nat) : CourseState :=
  { d with arr := { d.arr with healthy := a.healthyWithout js, mapped := a.mappedWithout js } }

/-- The course with its arrays stopped for a repointing of physical array p. -/
def CourseState.stoppedAt (d : CourseState) (p : Nat) : CourseState := { d with arr := { d.arr with repoint := .stopped p } }

/-- The course with the queues of its arrays halted (R507). -/
def CourseState.reduced (c : CourseState) : CourseState :=
  (c.endWork 0x0F04).onArrayQueues fun _ y => { y with halt := .arraysReduced }

/-- The course with no replay to come, and its slots CLOSED in program order. -/
def CourseState.noReplay (d : CourseState) : CourseState :=
  { d with arr := { d.arr with progOpen := 0, repoint := .none, overflow := false } }

/-- The failure of logical arrays, by how many are left. -/
theorem arraysLost_eq (s : State) (g : Course) (js : List Nat) : ∃ t u : State,
    let a := (s.course g).arr
    let left := (arraysOf (a.healthyWithout js)).length
    let p := (js.map a.phys).headD 15
    s.arraysLost g js =
      if 8 ≤ left then
        if a.overflow then
          (t.modCourse g fun c => ((c.endWork 0x0F06).marked a js).stoppedAt p).raiseRel (courseDie g) 0x0F06 (g.val % 8) none
        else t.modCourse g fun c => (c.stopForReplay.marked a js).stoppedAt p
      else
        let v := u.modCourse g fun c => (c.reduced.marked a js).noReplay
        if left = 7 then v.raiseRel (courseDie g) 0x0F04 (g.val % 8) none else v.fence g := ⟨_, _, rfl⟩

theorem arraysLost_of_eight (h : 8 ≤ (arraysOf ((s.course g).arr.healthyWithout js)).length) : ∃ d : CourseState, d.arr.NoSets ∧
    (s.arraysLost g js).course g =
      (d.marked (s.course g).arr js).stoppedAt ((js.map (s.course g).arr.phys).headD 15) := by
  obtain ⟨t, u, he⟩ := arraysLost_eq s g js
  rw [he, if_pos h]
  split
  · rw [State.raiseRel, (State.raiseWith_reports ..).course, State.modCourse_course]
    exact ⟨_, CourseState.endWork_noSets _ 0x0F06, rfl⟩
  · rw [State.modCourse_course]
    exact ⟨_, CourseState.stopForReplay_noSets _, rfl⟩

theorem CourseState.reduced_halt (c : CourseState) {q : QueueId} (hq : q ∈ arrayQueues) :
    (c.reduced.queue q).halt = .arraysReduced := by
  rw [CourseState.reduced, CourseState.onArrayQueues_queue _ _ hq]

theorem arraysLost_of_seven (h : (arraysOf ((s.course g).arr.healthyWithout js)).length = 7) : ∃ c : CourseState,
    (s.arraysLost g js).course g = (c.reduced.marked (s.course g).arr js).noReplay := by
  obtain ⟨t, u, he⟩ := arraysLost_eq s g js
  rw [he, if_neg (by rw [h]; decide)]
  dsimp only
  rw [if_pos h, State.raiseRel, (State.raiseWith_reports ..).course, State.modCourse_course]
  exact ⟨_, rfl⟩

theorem arraysLost_of_fewer (h : (arraysOf ((s.course g).arr.healthyWithout js)).length < 7) :
    ((s.arraysLost g js).course g).ctl = .fenced ∧
      ((s.arraysLost g js).course g).arr.healthy = (s.course g).arr.healthyWithout js ∧
      ((s.arraysLost g js).course g).arr.mapped = (s.course g).arr.mappedWithout js := by
  obtain ⟨t, u, he⟩ := arraysLost_eq s g js
  rw [he, if_neg (by omega)]
  dsimp only
  rw [if_neg (by omega)]
  obtain ⟨hc, hh, hm⟩ := State.fence_course (u.modCourse g fun c => (c.reduced.marked (s.course g).arr js).noReplay) g
  rw [State.modCourse_course] at hh hm
  exact ⟨hc, hh, hm⟩

theorem arraysLost_masks (s : State) (g : Course) (js : List Nat) :
    ((s.arraysLost g js).course g).arr.healthy = (s.course g).arr.healthyWithout js ∧
      ((s.arraysLost g js).course g).arr.mapped = (s.course g).arr.mappedWithout js := by
  rcases lt_trichotomy (arraysOf ((s.course g).arr.healthyWithout js)).length 7 with h | h | h
  · exact (arraysLost_of_fewer h).2
  · obtain ⟨c, hc⟩ := arraysLost_of_seven h
    rw [hc]
    exact ⟨rfl, rfl⟩
  · obtain ⟨d, -, hd⟩ := arraysLost_of_eight h
    rw [hd]
    exact ⟨rfl, rfl⟩

/-! ### What arrays report in one cycle (R506) -/

/-- The course and its arrays are as before the records of the reports. -/
theorem arrayReports_eq (s : State) (g : Course) (rs : List (Nat × BitVec 16)) : ∃ t : State, t.course g = s.course g ∧
    s.arrayReports g rs = t.arraysLost g (rs.map (·.1)).eraseDups :=
  ⟨_, (foldl_related Reports.refl Reports.trans (fun t _ => t.raiseWith_reports ..) rs s).course g, rfl⟩

theorem any_phys_eraseDups (a : ArrayState) (rs : List (Nat × BitVec 16)) (p : Nat) :
    ((rs.map (·.1)).eraseDups.map a.phys).any (· == p) = rs.any fun r => a.phys r.1 == p := by
  rw [Bool.eq_iff_iff, List.any_eq_true, List.any_eq_true]
  simp

theorem headD_phys_eraseDups (a : ArrayState) (j : Nat) (code : BitVec 16) (more : List (Nat × BitVec 16)) :
    (((((j, code) :: more).map (·.1)).eraseDups).map a.phys).headD 15 = a.phys j := by
  rw [List.map_cons, List.eraseDups_cons, List.map_cons, List.headD_cons]

/-- What the reports of one cycle leave of their course, by how many of its arrays are left. -/
theorem arrayReports_leaves (s : State) (g : Course) (j : Nat) (code : BitVec 16) (more : List (Nat × BitVec 16)) :
    let a := (s.course g).arr
    let reports := (j, code) :: more
    let d := (s.arrayReports g reports).course g
    let left := (arraysOf d.arr.healthy).length
    (∀ p, d.arr.healthy.getLsbD p = (a.healthy.getLsbD p && !reports.any fun r => a.phys r.1 == p)) ∧
      (8 ≤ left → d.arr.repoint = .stopped (a.phys j) ∧ d.arr.active = [] ∧ d.arr.shadow = []) ∧
      (left = 7 → ∀ q ∈ arrayQueues, (d.queue q).halt = .arraysReduced) ∧ (left < 7 → d.ctl = .fenced) ∧
      (7 ≤ a.logical → 7 ≤ d.arr.logical) ∧ (a.mapped = a.healthy → 7 ≤ left → d.arr.mapped = d.arr.healthy) := by
  intro a reports d left
  obtain ⟨t, ht, he⟩ := arrayReports_eq s g reports
  have hd : d = (t.arraysLost g (reports.map (·.1)).eraseDups).course g := congrArg (State.course · g) he
  obtain ⟨hh, hm⟩ := arraysLost_masks t g (reports.map (·.1)).eraseDups
  rw [← hd] at hh hm
  have hleft : left = (arraysOf ((t.course g).arr.healthyWithout (reports.map (·.1)).eraseDups)).length :=
    congrArg (fun m => (arraysOf m).length) hh
  rw [ht] at hh hm
  refine ⟨fun p => ?_, fun h8 => ?_, fun h7 q hq => ?_, fun h7 => ?_, fun hl => ?_, fun hma h7 => ?_⟩
  · rw [hh, ArrayState.healthyWithout, getLsbD_without, any_phys_eraseDups]
  · obtain ⟨e, ⟨hact, hsh⟩, hc⟩ := arraysLost_of_eight (hleft ▸ h8)
    rw [hd, hc, ht]
    exact ⟨congrArg Repoint.stopped (headD_phys_eraseDups a j code more), hact, hsh⟩
  · obtain ⟨e, hc⟩ := arraysLost_of_seven (hleft.symm.trans h7)
    rw [hd, hc]
    exact e.reduced_halt hq
  · rw [hd]
    exact (arraysLost_of_fewer (hleft ▸ h7)).1
  · have h7 : 7 ≤ (arraysOf a.mapped).length := hl.trans (min_le_right _ _)
    rw [ArrayState.logical, ArrayState.physical, hm]
    exact le_min (by decide) (seven_le_unmapped h7)
  · rw [hm, hh, ArrayState.mappedWithout, hma]
    exact unmapped_eq_without (by rwa [hleft, ht] at h7)

/-! ### Residue visits (R156) -/

/-- The open tiles of a slot, by logical array. -/
def ArrayState.tilesOf (a : ArrayState) (slot : Nat) : List (Nat × Tile) :=
  (List.range a.logical).filterMap fun j => (SMap.find a.active (32 * j + slot)).map fun t => (j, t)

theorem ArrayState.mem_tilesOf {a : ArrayState} {slot : Nat} {e : Nat × Tile} :
    e ∈ a.tilesOf slot ↔ e.1 < a.logical ∧ SMap.find a.active (32 * e.1 + slot) = some e.2 := by
  obtain ⟨j, t⟩ := e
  simp only [ArrayState.tilesOf, List.mem_filterMap, List.mem_range, Option.map_eq_some_iff, Prod.mk.injEq]
  constructor
  · rintro ⟨k, hk, x, hx, rfl, rfl⟩
    exact ⟨hk, hx⟩
  · rintro ⟨hj, ht⟩
    exact ⟨j, hj, t, ht, rfl, rfl⟩

theorem ArrayState.nodup_tilesOf (a : ArrayState) (slot : Nat) : (a.tilesOf slot).Nodup := by
  refine List.Nodup.filterMap (fun j k e hj hk => ?_) List.nodup_range
  simp only [Option.mem_def, Option.map_eq_some_iff] at hj hk
  obtain ⟨_, -, rfl⟩ := hj
  obtain ⟨_, -, h⟩ := hk
  exact (congrArg Prod.fst h).symm

theorem residueVisit_clean {slot : Fin 32} (h : ∀ e ∈ (s.course g).arr.tilesOf slot.val, e.2.mismatch = false) :
    residueVisit g slot [] s = s.countC g 0x132C 0x1320 (256 * ((s.course g).arr.tilesOf slot.val).length) := by
  have hnone : ((s.course g).arr.tilesOf slot.val).filter (fun e => e.2.mismatch || [].any fun u : Fin 8 => u.val == e.1) = [] := by
    rw [List.filter_eq_nil_iff]
    intro e he
    simp [h e he]
  unfold residueVisit
  dsimp only
  rw [ArrayState.tilesOf] at hnone
  rw [hnone]
  rfl

theorem residueVisit_upset {slot : Fin 32} {j : Fin 8} {t : Tile} (ht : (j.val, t) ∈ (s.course g).arr.tilesOf slot.val)
    (h : ∀ e ∈ (s.course g).arr.tilesOf slot.val, e.1 ≠ j.val → e.2.mismatch = false) :
    residueVisit g slot [j] s =
      (s.countC g 0x132C 0x1320 (256 * ((s.course g).arr.tilesOf slot.val).length)).arrayFault g j.val 0x0104 := by
  have hone : ((s.course g).arr.tilesOf slot.val).filter (fun e => e.2.mismatch || [j].any fun u => u.val == e.1) = [(j.val, t)] := by
    have hcongr : ∀ e ∈ (s.course g).arr.tilesOf slot.val,
        (e.2.mismatch || [j].any fun u => u.val == e.1) = (e == (j.val, t)) := by
      intro e he
      by_cases hj : e.1 = j.val
      · have hfind := (ArrayState.mem_tilesOf.mp ht).2
        rw [← hj, (ArrayState.mem_tilesOf.mp he).2] at hfind
        have heq : e = (j.val, t) := Prod.ext hj (Option.some.inj hfind)
        simp [heq]
      · have hne : e ≠ (j.val, t) := fun heq => hj (congrArg Prod.fst heq)
        simp [h e he hj, Ne.symm hj, hne]
    rw [List.filter_congr hcongr, List.filter_beq, List.count_eq_one_of_mem ((s.course g).arr.nodup_tilesOf _) ht]
    rfl
  unfold residueVisit
  dsimp only
  rw [ArrayState.tilesOf] at hone
  rw [hone]
  rfl

/-! ### Replay (R502, R506) -/

theorem replayBegin_tested {p : Nat} (h : (s.course g).arr.repoint = .stopped p) :
    replayBegin g [] s = s.setCourse g { s.course g with arr := { (s.course g).arr with repoint := .replaying p } } := by
  unfold replayBegin
  rw [h]
  rfl

theorem replayBegin_failed {p : Nat} {j : Fin 8} (h : (s.course g).arr.repoint = .stopped p) (hj : j.val < (s.course g).arr.logical) :
    replayBegin g [j] s = (s.raiseRel (courseDie g) 0x0F09 (g.val % 8) none).arraysLost g [j.val] := by
  have hjs : ((([j] : List (Fin 8)).map (·.val)).eraseDups.filter fun j => decide (j < (s.course g).arr.logical)) = [j.val] := by
    rw [List.map_cons, List.map_nil, List.eraseDups_cons]
    simp [hj]
  unfold replayBegin
  simp only [h, hjs, List.foldl_cons, List.foldl_nil]

theorem State.checkWindow_presented (s : State) (g : Course) : ∃ more,
    ((s.checkWindow g).die (courseDie g)).presented = (s.die (courseDie g)).presented ++ more := by
  unfold State.checkWindow
  dsimp only
  split
  · exact ⟨[], (List.append_nil _).symm⟩
  · split
    · obtain ⟨v, hv⟩ := State.raiseWith_presents _ (courseDie g) (plainReport 0x0F05 0x0E (courseInst g) 0xF) none
      exact ⟨_, hv⟩
    · exact ⟨[], (List.append_nil _).symm⟩

theorem lowByte_of_or {x : DWord} {p : Nat} (hp : p < 9) : ((x &&& 0xFFFFFFFF00#64) ||| BitVec.ofNat 64 p).toNat % 256 = p := by
  have h8 : 256 = 2 ^ 8 := rfl
  have hmask : (0xFFFFFFFF00#64).toNat % 2 ^ 8 = 0 := rfl
  rw [BitVec.toNat_or, BitVec.toNat_and, h8, Nat.or_mod_two_pow, Nat.and_mod_two_pow, hmask, Nat.and_zero, Nat.zero_or,
    BitVec.toNat_ofNat]
  omega

/-- The report that a replay sends as it ends. -/
def State.repointed (s : State) (g : Course) (p : Nat) : Report :=
  { plainReport 0x0F03 0x0E (BitVec.ofNat 8 (g.val % 8)) 0xF with info := (s.fresh &&& 0xFFFFFFFF00#64) ||| BitVec.ofNat 64 p }

/-- The state as the replay of course g has ended for physical array p, before the check of the window. -/
def State.replayed (s : State) (g : Course) (p : Nat) : State :=
  ((s.modCourse g fun c => { c with arr := { c.arr with repoint := .none, overflow := false } }).used).raise (courseDie g)
    (s.repointed g p)

theorem State.replayed_course (s : State) (g : Course) (p : Nat) : (s.replayed g p).course g =
    { s.course g with arr := { (s.course g).arr with repoint := .none, overflow := false } } := by
  rw [State.replayed, State.raise_course, State.used_course, State.modCourse_course]

theorem State.replayed_presented (s : State) (g : Course) (p : Nat) :
    ((s.replayed g p).die (courseDie g)).presented = (s.die (courseDie g)).presented ++ [s.repointed g p] := by
  rw [State.replayed, State.raise_die]
  rfl

theorem replayEnd_done {p : Nat} (h : (s.course g).arr.repoint = .replaying p) (hd : (s.course g).replayDone = true) :
    replayEnd g s = (s.replayed g p).checkWindow g := by
  unfold replayEnd
  simp only [h, hd, if_true]
  rfl

end

/-- Settles O37: the visits by the open tiles of their slot, the failure of arrays by how many are left, and replay by the equation
of each of its two ends. -/
theorem arraysRepoint : Obligations.ArraysRepoint := by
  intro s g c a hruns
  have runs := ifCourse_runs hruns
  refine ⟨fun slot h => ?_, fun slot j hj ht h => ?_, fun j code more _ _ => ?_, fun p hp => ⟨?_, fun j hj => ?_⟩,
    fun p hp hrep hdone => ?_⟩
  · refine ⟨_, (runs _).trans (congrArg _ (residueVisit_clean fun e he => ?_)), ?_⟩
    · obtain ⟨hlt, hfind⟩ := ArrayState.mem_tilesOf.mp he
      exact h e.1 hlt e.2 hfind
    · obtain ⟨w, hw⟩ := count_frame s (Blk.course g).base 0x132C 0x1320 (256 * (a.tilesOf slot.val).length)
      rw [State.countC, hw]
      exact ⟨fun _ => rfl, rfl, rfl, rfl⟩
  · obtain ⟨t, ht⟩ := Option.isSome_iff_exists.mp ht
    refine ⟨_, (runs _).trans (congrArg _ (residueVisit_upset (ArrayState.mem_tilesOf.mpr ⟨hj, ht⟩) fun e he hne => ?_))⟩
    obtain ⟨hlt, hfind⟩ := ArrayState.mem_tilesOf.mp he
    exact h e.1 hlt hne e.2 hfind
  · exact arrayReports_leaves s g j code more
  · exact (runs _).trans (congrArg _ (replayBegin_tested hp))
  · exact (runs _).trans (congrArg _ (replayBegin_failed hp hj))
  · refine ⟨_, (runs _).trans (congrArg _ (replayEnd_done hrep hdone)), ?_⟩
    obtain ⟨l, v, -, hc⟩ := State.checkWindow_eq (s.replayed g p) g
    obtain ⟨more, hmore⟩ := State.checkWindow_presented (s.replayed g p) g
    rw [s.replayed_course] at hc
    rw [hc]
    refine ⟨rfl, rfl, s.repointed g p, more, hmore.trans ?_, rfl, lowByte_of_or hp⟩
    rw [s.replayed_presented, List.append_assoc]
    rfl

end Sys2Proof.Machine

/-! SUPPORT. StreamStalls: what the limit of a stall, a hop of a probe and a step of the index expander change and leave (R276 to
R279, R293, R297, R300, R301). -/

namespace Sys2Proof.Machine

/-! ### Reports of a course -/

section
variable {s t u : State} {g h : Course} {d : Die} {code : BitVec 16} {unit : Byte}

theorem Presents.of_die (hp : Presents s t d code unit) (hd : u.die d = t.die d) : Presents s u d code unit := by
  obtain ⟨r, hr, hc⟩ := hp
  exact ⟨r, by rw [hd, hr], hc⟩

theorem State.raiseWith_presents_report (s : State) (d : Die) (r : Report) (info : Option DWord) :
    Presents s (s.raiseWith d r info) d r.code r.srcUnit := by
  obtain ⟨v, hv⟩ := s.raiseWith_presents d r info
  exact ⟨_, hv, rfl, rfl⟩

theorem State.raiseWith_reg (s : State) (d : Die) (r : Report) (info : Option DWord) (o : Nat) :
    (s.raiseWith d r info).reg o = s.reg o := by
  unfold State.raiseWith
  split <;> rfl

/-! ### Stalls (R276, R277) -/

theorem State.stall_presents (s : State) (g : Course) : Presents s (s.stall g) (courseDie g) 0x0607 0x06 :=
  (s.raiseWith_presents_report (courseDie g) (plainReport 0x0607 0x06 (courseInst g) 0xF) none).of_die rfl

theorem State.stall_reg (s : State) (g : Course) : (s.stall g).reg (cr g 0x2048) = s.reg (cr g 0x2048) ||| 2 := by
  rw [State.stall, State.orReg, State.setReg_reg, State.raiseStr, State.raiseCourse, State.raiseWith_reg]

theorem demandStall_reports {p : Nat × Nat} {old : Option (Nat × Nat)} {mark : StreamEngine → StreamEngine} (h : old ≠ some p) :
    s.demandStall g (some p) old mark = (s.stall g).modCourse g fun c => { c with str := mark c.str } :=
  if_pos (by simp [h.symm])

/-- The probe of a stream that has waited too long goes out behind the others, in the place of an earlier one of its. -/
def CourseState.probe (c : CourseState) (n : Nat) : CourseState :=
  { c with str := { c.str with probes := (c.str.probes.filter fun p => p.head != n) ++ [⟨n, []⟩] } }

theorem stallLimitExpiry_stream {n : StreamId} (hon : s.stallOn g = true) (hw : ((s.course g).stream n.val).creditWait = true) :
    stallLimitExpiry g (.stream n) s = s.modCourse g fun c => c.probe n.val := by
  simp only [stallLimitExpiry, hon, hw, Bool.not_true, Bool.false_eq_true, if_false, if_true]
  rfl

theorem stallLimitExpiry_rows {p : Nat × Nat} (hon : s.stallOn g = true) (hd : (s.course g).rowDemand = some p)
    (hs : (s.course g).str.rowStall ≠ some p) : stallLimitExpiry g .rows s =
      (s.stall g).modCourse g fun c => { c with str := { c.str with rowStall := some p } } := by
  simp only [stallLimitExpiry, hon, hd, Bool.not_true, Bool.false_eq_true, if_false]
  exact demandStall_reports hs

theorem stallLimitExpiry_build {p : Nat × Nat} (hon : s.stallOn g = true) (hd : (s.course g).buildDemand = some p)
    (hs : (s.course g).str.buildStall ≠ some p) : stallLimitExpiry g .build s =
      (s.stall g).modCourse g fun c => { c with str := { c.str with buildStall := some p } } := by
  simp only [stallLimitExpiry, hon, hd, Bool.not_true, Bool.false_eq_true, if_false]
  exact demandStall_reports hs

theorem stallLimitExpiry_off {w : StallWaiter} (hoff : s.stallOn g = false) : stallLimitExpiry g w s = s := by
  simp [stallLimitExpiry, hoff]

/-! ### Streams of a course -/

theorem CourseState.setStream_stream (c : CourseState) (n : Nat) (x : Stream) : (c.setStream n x).stream n = x :=
  SMap.get_put_same n x _ _

theorem CourseState.setStream_stream_ne (c : CourseState) {n m : Nat} (h : m ≠ n) (x : Stream) :
    (c.setStream n x).stream m = c.stream m := SMap.get_put_other h x _ _ _

/-- Course c with streams l DEADLOCKED. -/
def CourseState.deadlocked (c : CourseState) (l : List Nat) : CourseState :=
  l.foldl (fun c n => c.setStream n { c.stream n with st := .deadlocked }) c

theorem deadlocked_stream (l : List Nat) (c : CourseState) (n : Nat) (h : n ∈ l ∨ (c.stream n).st = .deadlocked) :
    ((c.deadlocked l).stream n).st = .deadlocked := by
  unfold CourseState.deadlocked
  induction l generalizing c with
  | nil => exact h.resolve_left List.not_mem_nil
  | cons m l ih =>
    refine ih _ ?_
    by_cases hm : n = m
    · right
      rw [hm, CourseState.setStream_stream]
    · rw [CourseState.setStream_stream_ne _ hm]
      exact h.imp_left fun h => (List.mem_cons.mp h).resolve_left hm

theorem CourseState.deadlocked_eq (c : CourseState) (l : List Nat) :
    ∃ x, c.deadlocked l = { c with str := { c.str with streams := x } } := by
  unfold CourseState.deadlocked
  refine List.foldlRecOn (motive := fun d : CourseState => ∃ x, d = { c with str := { c.str with streams := x } }) _ _ ⟨_, rfl⟩ ?_
  rintro _ ⟨x, rfl⟩ n -
  exact ⟨_, rfl⟩

theorem foldl_modStream_deadlocked (s : State) (g : Course) (l : List (Nat × Nat)) :
    l.foldl (fun u p => u.modStream g p.2 fun x => { x with st := .deadlocked }) s =
      s.modCourse g fun c => c.deadlocked (l.map (·.2)) := by
  induction l generalizing s with
  | nil => exact (s.setCourse_self g).symm
  | cons p l ih =>
    rw [List.foldl_cons, ih, State.modStream, State.modCourse_modCourse]
    rfl

/-! ### A course of a cycle freezes (R279, R585) -/

/-- From s to t the controller of course g has been told to stop. -/
structure Stops (g : Course) (s t : State) : Prop where
  apart : Apart g s t
  str : (t.course g).str = (s.course g).str
  stalled : (t.course g).stalled = (s.course g).stalled
  ctl : (s.course g).stalled = none → (t.course g).ctl ≠ .running

theorem State.setCourse_apart (s : State) (g : Course) (c : CourseState) : Apart g s (s.setCourse g c) :=
  s.modCourse_apart g fun _ => c

theorem State.ctlStop_stops (s : State) (g : Course) : Stops g s (s.ctlStop g) := by
  unfold State.ctlStop
  dsimp only
  split
  · split
    · next h =>
      refine ⟨s.setCourse_apart g _, ?_, ?_, fun hn => absurd (hn.symm.trans h) nofun⟩
      all_goals rw [State.setCourse_course]
    · refine ⟨(s.setCourse_apart g _).trans (State.send_apart ..), ?_, ?_, fun _ => ?_⟩
      all_goals rw [State.send_course, State.setCourse_course]
      exact nofun
    · refine ⟨s.setCourse_apart g _, ?_, ?_, fun _ => ?_⟩
      all_goals rw [State.setCourse_course]
      exact nofun
  · next h => exact ⟨Apart.refl g s, rfl, rfl, fun _ => h⟩

/-- The streams of course k of a cycle are DEADLOCKED, and the course has stopped once no instruction stalls it. -/
structure Frozen (cycle : List (Nat × Nat)) (k : Nat) (c : CourseState) : Prop where
  streams : ∀ q ∈ cycle, q.1 = k → (c.stream q.2).st = .deadlocked
  frozenDl : c.str.frozenDl = true
  ctl : c.stalled = none → c.ctl ≠ .running

theorem freezeCourse_frozen (s : State) (k : Nat) (cycle : List (Nat × Nat)) :
    Apart (courseAt k) s (s.freezeCourse k cycle) ∧ Frozen cycle k ((s.freezeCourse k cycle).course (courseAt k)) ∧
      ((s.freezeCourse k cycle).course (courseAt k)).stalled = (s.course (courseAt k)).stalled := by
  unfold State.freezeCourse
  dsimp only
  rw [foldl_modStream_deadlocked]
  obtain ⟨hapart, hstr, hst, hctl⟩ := State.ctlStop_stops
    (s.modCourse (courseAt k) fun c => c.deadlocked ((cycle.filter fun p => p.1 == k).map (·.2))) (courseAt k)
  rw [State.modCourse_course] at hstr hst hctl
  have hstall : ((s.course (courseAt k)).deadlocked ((cycle.filter fun p => p.1 == k).map (·.2))).stalled =
      (s.course (courseAt k)).stalled := by
    obtain ⟨x, hx⟩ := (s.course (courseAt k)).deadlocked_eq ((cycle.filter fun p => p.1 == k).map (·.2))
    rw [hx]
  refine ⟨(s.modCourse_apart _ _).trans (hapart.trans (State.modCourse_apart _ _ _)), ⟨fun q hq hk => ?_, ?_, ?_⟩, ?_⟩
  all_goals rw [State.modCourse_course]
  · have hmem : q.2 ∈ (cycle.filter fun p => p.1 == k).map (·.2) :=
      List.mem_map_of_mem (List.mem_filter.mpr ⟨hq, by simpa using hk⟩)
    have hdead := deadlocked_stream _ (s.course (courseAt k)) q.2 (.inl hmem)
    unfold CourseState.stream at hdead ⊢
    dsimp only
    rw [hstr]
    exact hdead
  · exact fun h => hctl (hst.symm.trans h)
  · exact hst.trans hstall

theorem courseAt_ne {j k : Nat} (hj : j < 32) (hk : k < 32) (h : j ≠ k) : courseAt j ≠ courseAt k := by
  intro he
  have hv := congrArg Fin.val he
  simp only [courseAt] at hv
  omega

/-- All the courses of a cycle freeze, one by one. -/
theorem foldl_freezeCourse (cycle : List (Nat × Nat)) (ks : List Nat) (hks : ∀ k ∈ ks, k < 32) (s : State) :
    let t := ks.foldl (fun u k => u.freezeCourse k cycle) s
    t.mem = s.mem ∧ (∀ h, (t.course h).stalled = (s.course h).stalled) ∧
      ∀ k, k < 32 → k ∈ ks ∨ Frozen cycle k (s.course (courseAt k)) → Frozen cycle k (t.course (courseAt k)) := by
  induction ks generalizing s with
  | nil => exact ⟨rfl, fun _ => rfl, fun k _ h => h.resolve_left List.not_mem_nil⟩
  | cons j ks ih =>
    obtain ⟨hj, hks⟩ := List.forall_mem_cons.mp hks
    obtain ⟨hapart, hfrozen, hstalled⟩ := freezeCourse_frozen s j cycle
    obtain ⟨hmem, hst, hall⟩ := ih hks (s.freezeCourse j cycle)
    refine ⟨hmem.trans hapart.mem, fun h => (hst h).trans ?_, fun k hk h => hall k hk ?_⟩
    · by_cases he : h = courseAt j
      · rw [he, hstalled]
      · rw [hapart.others h he]
    · by_cases he : k = j
      · exact .inr (he ▸ hfrozen)
      · rw [hapart.others _ (courseAt_ne hk hj he)]
        exact h.imp_left fun h => (List.mem_cons.mp h).resolve_left he

/-! ### A deadlock is found (R277 to R279) -/

theorem State.deadlock_reports (s : State) (head : Nat × Nat) (cycle : List (Nat × Nat)) :
    Reports ((cycle.map (·.1)).eraseDups.foldl (fun u k => u.freezeCourse k cycle) s) (s.deadlock head cycle) := by
  unfold State.deadlock
  exact (foldl_related Reports.refl Reports.trans (fun _ _ => ⟨_, _, _, _, rfl⟩) _ _).trans
    ((State.raiseWith_reports ..).trans (State.orReg_reports ..))

/-- Every course of a cycle is frozen once its deadlock is found. -/
theorem deadlock_freezes {cycle : List (Nat × Nat)} (hc : ∀ q ∈ cycle, q.1 < 32) (s : State) (head : Nat × Nat) :
    (s.deadlock head cycle).mem = s.mem ∧
      (∀ h, ((s.deadlock head cycle).course h).stalled = (s.course h).stalled) ∧
      ∀ q ∈ cycle, Frozen cycle q.1 ((s.deadlock head cycle).course (courseAt q.1)) := by
  have hks : ∀ k ∈ (cycle.map (·.1)).eraseDups, k < 32 := fun k hk => by
    obtain ⟨q, hq, rfl⟩ := List.mem_map.mp (List.mem_eraseDups.mp hk)
    exact hc q hq
  have hreports := s.deadlock_reports head cycle
  obtain ⟨hmem, hstalled, hfrozen⟩ := foldl_freezeCourse cycle (cycle.map (·.1)).eraseDups hks s
  refine ⟨hreports.mem.trans hmem, fun h => ?_, fun q hq => ?_⟩
  · rw [hreports.course, hstalled]
  · rw [hreports.course]
    exact hfrozen q.1 (hc q hq) (.inl (List.mem_eraseDups.mpr (List.mem_map_of_mem hq)))

/-- The course once probe p has gone from the head of its probes, with those that stand in its place. -/
def CourseState.withProbes (c : CourseState) (l : List Probe) : CourseState := { c with str := { c.str with probes := l } }

variable {p : Probe} {rest : List Probe} {o : Nat × Nat}

theorem deadlockProbeHop_ends (hp : (s.course g).str.probes = p :: rest) (hpath : p.path = [])
    (ho : (s.streamOf (p.path.getLastD (g.val, p.head))).owner = none) :
    deadlockProbeHop g s = s.modCourse g fun c => c.withProbes rest := by
  simp only [deadlockProbeHop, hp, ho]
  exact if_pos hpath

theorem deadlockProbeHop_moves (hp : (s.course g).str.probes = p :: rest)
    (ho : (s.streamOf (p.path.getLastD (g.val, p.head))).owner = some o) (hne : o ≠ (g.val, p.head)) (hlen : p.path.length < 7) :
    deadlockProbeHop g s = s.modCourse g fun c => c.withProbes ({ p with path := p.path ++ [o] } :: rest) := by
  simp only [deadlockProbeHop, hp, ho, if_neg hne, if_pos hlen]
  exact s.modCourse_modCourse g _ _

theorem deadlockProbeHop_closes (hp : (s.course g).str.probes = p :: rest)
    (ho : (s.streamOf (p.path.getLastD (g.val, p.head))).owner = some (g.val, p.head)) :
    deadlockProbeHop g s =
      (s.modCourse g fun c => c.withProbes rest).deadlock (g.val, p.head) ((g.val, p.head) :: p.path) := by
  simp only [deadlockProbeHop, hp, ho, if_true]
  rfl

end

theorem stalls_and_deadlocks : stallsAndDeadlocks := by
  intro s g c hruns
  have runs := ifCourse_runs hruns
  have stalls (f : CourseState → CourseState) : Presents s ((s.stall g).modCourse g f) (courseDie g) 0x0607 0x06 :=
    (s.stall_presents g).of_die rfl
  refine ⟨fun hon => ⟨fun n hw => ?_, fun d hd hs => ?_, fun d hd hs => ?_⟩, fun w hoff => ?_, fun p rest hp =>
    ⟨fun ho hpath => ?_, fun q ho hne hlen => ?_, fun ho _ hq => ?_⟩⟩
  · refine ⟨_, (runs _).trans (congrArg _ (stallLimitExpiry_stream hon hw)), ⟨c.str.probes.filter fun p => p.head != n.val, ?_,
      fun p hp => ?_⟩, fun h hh => s.modCourse_course_ne hh _, rfl, rfl⟩
    · rw [State.modCourse_course]
      rfl
    · simpa using (List.mem_filter.mp hp).2
  · refine ⟨_, (runs _).trans (congrArg _ (stallLimitExpiry_rows hon hd hs)), ?_, stalls _, s.stall_reg g⟩
    rw [State.modCourse_course]
  · refine ⟨_, (runs _).trans (congrArg _ (stallLimitExpiry_build hon hd hs)), ?_, stalls _⟩
    rw [State.modCourse_course]
  · exact (runs _).trans (congrArg _ (stallLimitExpiry_off hoff))
  · refine ⟨_, (runs _).trans (congrArg _ (deadlockProbeHop_ends hp hpath ho)), ?_, rfl⟩
    rw [State.modCourse_course]
    rfl
  · refine ⟨_, (runs _).trans (congrArg _ (deadlockProbeHop_moves hp ho hne hlen)), ?_, rfl⟩
    rw [State.modCourse_course]
    rfl
  · have hcycle : ∀ q ∈ (g.val, p.head) :: p.path, q.1 < 32 := List.forall_mem_cons.mpr ⟨g.isLt, hq⟩
    obtain ⟨hmem, hstalled, hfrozen⟩ := deadlock_freezes hcycle (s.modCourse g fun c => c.withProbes rest) (g.val, p.head)
    refine ⟨_, (runs _).trans (congrArg _ (deadlockProbeHop_closes hp ho)), fun q hq => ?_, hmem⟩
    obtain ⟨hdead, hdl, hctl⟩ := hfrozen q hq
    refine ⟨hdead q hq rfl, hdl, fun hnone => hctl ((hstalled _).trans (Eq.trans ?_ hnone))⟩
    by_cases he : courseAt q.1 = g
    · rw [he, State.modCourse_course]
      rfl
    · rw [State.modCourse_course_ne _ he]

/-! ### The index expander (R293, R297, R300, R301) -/

section
variable {s : State} {g : Course} {p : FeedPass} {ps : List FeedPass}

theorem bamongBlockDecoded_expands (h : (s.course g).parityRuns = false) : bamongBlockDecoded g false s = s.expand g false 0 := by
  simp [bamongBlockDecoded, h]

theorem ExpState.release_first {e : ExpState} (he : e.passes = p :: ps) (k : Nat) (code : BitVec 16) (out : List (Byte × BitVec 16)) :
    e.release k code out = ⟨e.bytes ++ out, { p with inp := p.inp.drop k, rest := code } :: ps⟩ := by
  simp [ExpState.release, he]

theorem State.damagedUnit_presents (s : State) (g : Course) (stream off : Nat) (code : BitVec 16) :
    Presents s (s.damagedUnit g false stream off code) (courseDie g) code 0x04 ∧
      Reports s (s.damagedUnit g false stream off code) := by
  unfold State.damagedUnit
  obtain ⟨m, w, hw⟩ := capture1_frame (s.raiseCourse g code 0x04 0xF none) (cr g 0x1238)
    (code.toNat + 0 + 131072 * stream) off (some (cr g 0x1240))
  obtain ⟨w', hw'⟩ := count_frame ({ s.raiseCourse g code 0x04 0xF none with regs := m, wide := w }) (Blk.course g).base 0x1248 0x1230 1
  simp only [Bool.false_eq_true, if_false]
  rw [hw, State.countC, hw']
  exact ⟨(s.raiseWith_presents_report ..).of_die rfl, (s.raiseWith_reports ..).trans ⟨_, _, _, _, rfl⟩⟩

theorem State.damage_course (s : State) (n : Nat) (code : BitVec 16) (h : Course) : (s.damage n code).2.course h = s.course h := rfl

/-- The line that a RAW pass goes on noting as it delivers bytes of an undamaged one. -/
def FeedPass.notes (p : FeedPass) (line : Nat) : Option Nat := if p.noted = some line then some line else none

variable (he : (s.course g).idx.passes = p :: ps) (hroom : (s.course g).idx.bytes.length < 4096)
include he

theorem expand_finish (hs : p.step = .finish) :
    s.expand g false 0 = s.modCourse g fun c => { c with idx := { c.idx with passes := ps } } := by
  have he' : ((s.course g).exp false 0).passes = p :: ps := he
  simp only [State.expand, he', hs]
  rfl

theorem expand_wait (hs : p.step = .wait) : s.expand g false 0 = s := by
  have he' : ((s.course g).exp false 0).passes = p :: ps := he
  simp only [State.expand, he', hs]

include hroom

theorem expand_good {k : Nat} {out : List Byte} (hs : p.step = .good k out) : s.expand g false 0 =
    (s.countBlock g false).modCourse g fun c => { c with idx := c.idx.release k 0 (out.map fun b => (b, 0)) } := by
  have he' : ((s.course g).exp false 0).passes = p :: ps := he
  have hr : ((s.course g).exp false 0).room false = true := decide_eq_true hroom
  simp only [State.expand, he', hs, hr, Bool.not_true, Bool.false_eq_true, if_false]
  rfl

theorem expand_raw {k line : Nat} (hs : p.step = .raw k 0 line) : s.expand g false 0 = s.modCourse g fun c =>
    { c with idx := (c.idx.release k 0 ((p.inp.take k).map fun b => (b.b, 0))).note (p.notes line) } := by
  have he' : ((s.course g).exp false 0).passes = p :: ps := he
  have hr : ((s.course g).exp false 0).room false = true := decide_eq_true hroom
  simp only [State.expand, he', hs, hr, Bool.not_true, Bool.false_eq_true, if_false, true_or, if_true, ne_eq, not_true_eq_false,
    false_or, decide_eq_true_eq]
  rfl

theorem expand_bad {k len : Nat} {code : BitVec 16} (hs : p.step = .bad k len code) : ∃ t, Presents s t (courseDie g) code 0x04 ∧
    Reports s t ∧ s.expand g false 0 = (t.damage len code).2.modCourse g fun c =>
      { c with idx := c.idx.release k 0 (t.damage len code).1 } := by
  have he' : ((s.course g).exp false 0).passes = p :: ps := he
  have hr : ((s.course g).exp false 0).room false = true := decide_eq_true hroom
  obtain ⟨w, hw⟩ := count_frame s (Blk.course g).base 0x1248 0x1220 1
  obtain ⟨hp, hreports⟩ := (s.countBlock g false).damagedUnit_presents g p.stream (p.inp.headD ⟨0, false, 0⟩).off code
  refine ⟨_, ?_, (s.countC_reports g _ _ _).trans hreports, ?_⟩
  · obtain ⟨r, hr, hc⟩ := hp
    refine ⟨r, hr.trans ?_, hc⟩
    rw [State.countBlock, State.countC]
    simp only [Bool.false_eq_true, if_false]
    rw [hw]
    rfl
  · simp only [State.expand, he', hs, hr, Bool.not_true, Bool.false_eq_true, if_false]
    rfl

end

theorem expanders_release : expandersRelease := by
  intro s g p ps e hruns hpar he hroom
  have runs (t : State) (h : s.expand g false 0 = t) : exec (.bamongBlockDecoded g false) s = .next t :=
    congrArg _ ((if_pos hruns).trans ((bamongBlockDecoded_expands hpar).trans h))
  refine ⟨fun k out hs => ?_, fun k line hs => ?_, fun k len code hs => ?_, fun hs => runs _ (expand_finish he hs),
    fun hs => runs _ (expand_wait he hs)⟩
  · have hcount : Reports s (s.countBlock g false) := s.countC_reports ..
    obtain ⟨w, hw⟩ := count_frame s (Blk.course g).base 0x1248 0x1220 1
    have hdies : (s.countBlock g false).dies = s.dies := (congrArg State.dies hw :)
    refine ⟨_, runs _ (expand_good he hroom hs), ?_, hcount.mem, hdies⟩
    rw [State.modCourse_course, hcount.course, ExpState.release_first he]
  · refine ⟨_, runs _ (expand_raw he hroom hs), ?_, rfl, rfl⟩
    rw [State.modCourse_course, ExpState.release_first he]
    rfl
  · obtain ⟨t, hp, hreports, ht⟩ := expand_bad he hroom hs
    refine ⟨_, runs _ ht, ⟨(t.damage len code).1, ?_, ?_, fun b hb => ?_⟩, hp.of_die rfl, hreports.mem⟩
    · rw [State.modCourse_course, t.damage_course, hreports.course, ExpState.release_first he]
    · simp [State.damage]
    · obtain ⟨_, -, rfl⟩ := List.mem_map.mp hb
      rfl

/-- Settles O41: the stalls and probes by the equation of each case, a cycle by the freezing of its courses one by one, and the
expander by the step that its first pass takes. -/
theorem streamsStallAndExpand : Obligations.StreamsStallAndExpand := ⟨stalls_and_deadlocks, expanders_release⟩

end Sys2Proof.Machine

/-! SUPPORT. RunsAndDrains: what writing a run, the swap of a slot and a drain change and leave (R116, R123, R143, R144, R148 to R152,
R156). -/

namespace Sys2Proof.Machine

/-! ### Lines of a run in the tables (R114, R118) -/

section
variable {a : ArrayState} {j k n p q r l x y : Nat} {ls : List TblLine}

/-- What a run of consecutive writes leaves at a key. -/
theorem get_foldl_put {V : Type} [DecidableEq V] (f : Nat → V) (d : V) (m : SMap V) (b n key : Nat) :
    SMap.get ((List.range n).foldl (fun m i => SMap.put m (b + i) (f i) d) m) key d =
      if b ≤ key ∧ key < b + n then f (key - b) else SMap.get m key d := by
  induction n with
  | zero => exact (if_neg (by omega)).symm
  | succ n ih =>
    rw [List.range_succ, List.foldl_append, List.foldl_cons, List.foldl_nil]
    by_cases hk : key = b + n
    · rw [hk, SMap.get_put_same, if_pos (by omega), Nat.add_sub_cancel_left]
    · rw [SMap.get_put_other hk, ih]
      exact if_congr (by omega) rfl rfl

theorem ArrayState.line_putRun (hx : x < 16) : (a.putRun p r k ls).line p r (16 * k + x) = ls.getD x ⟨0, 0, 0, 0, 0⟩ := by
  have hget := get_foldl_put (fun i => ls.getD i ⟨0, 0, 0, 0, 0⟩) ⟨0, 0, 0, 0, 0⟩ a.tables (16384 * p + 1024 * r + 16 * k) 16
    (16384 * p + 1024 * r + (16 * k + x))
  rw [if_pos (by omega)] at hget
  refine hget.trans ?_
  congr 1
  omega

theorem ArrayState.line_putRun_ne (h : p ≠ q ∨ r ≠ y) (hr : r < 16) (hy : y < 16) (hk : k < 64) (hl : l < 1024) :
    (a.putRun q y k ls).line p r l = a.line p r l := by
  have hget := get_foldl_put (fun i => ls.getD i ⟨0, 0, 0, 0, 0⟩) ⟨0, 0, 0, 0, 0⟩ a.tables (16384 * q + 1024 * y + 16 * k) 16
    (16384 * p + 1024 * r + l)
  rw [if_neg (by omega)] at hget
  exact hget

theorem ArrayState.phys_injective (hj : j < a.logical) (hn : n < a.logical) (h : a.phys j = a.phys n) : j = n := by
  rw [ArrayState.phys_eq_getElem (ArrayState.lt_physical_length hj), ArrayState.phys_eq_getElem (ArrayState.lt_physical_length hn)] at h
  exact (List.nodup_range.filter _).getElem_inj_iff.mp h

theorem ArrayState.run_setRun (a : ArrayState) (k : Nat) (r : RunState) : (a.setRun k r).run k = r := SMap.get_put_same k r _ _

/-- The first n rows of run k put in the tables of their arrays. -/
def ArrayState.putRows (a : ArrayState) (k : Nat) (ls : List (List TblLine)) (n : Nat) : ArrayState :=
  (List.range n).foldl (fun a y => a.putRun (a.phys (y / 16)) (y % 16) k (ls.getD y [])) a

theorem ArrayState.putRows_succ (a : ArrayState) (k : Nat) (ls : List (List TblLine)) (n : Nat) : a.putRows k ls (n + 1) =
    (a.putRows k ls n).putRun ((a.putRows k ls n).phys (n / 16)) (n % 16) k (ls.getD n []) := by
  rw [ArrayState.putRows, List.range_succ, List.foldl_append]
  rfl

theorem ArrayState.putRows_tables (a : ArrayState) (k : Nat) (ls : List (List TblLine)) (n : Nat) :
    ∃ m, a.putRows k ls n = { a with tables := m } := by
  induction n with
  | zero => exact ⟨_, rfl⟩
  | succ n ih =>
    obtain ⟨m, hm⟩ := ih
    rw [ArrayState.putRows_succ, hm]
    exact ⟨_, rfl⟩

theorem ArrayState.putRows_phys (a : ArrayState) (k : Nat) (ls : List (List TblLine)) (n j : Nat) :
    (a.putRows k ls n).phys j = a.phys j := by
  obtain ⟨m, hm⟩ := a.putRows_tables k ls n
  rw [hm]
  rfl

theorem ArrayState.line_putRows (ls : List (List TblLine)) (hn : n ≤ 16 * a.logical) (hk : k < 64) (hy : y < n) (hx : x < 16) :
    (a.putRows k ls n).line (a.phys (y / 16)) (y % 16) (16 * k + x) = (ls.getD y []).getD x ⟨0, 0, 0, 0, 0⟩ := by
  induction n with
  | zero => omega
  | succ n ih =>
    rw [ArrayState.putRows_succ, ArrayState.putRows_phys]
    by_cases hyn : y = n
    · rw [hyn, ArrayState.line_putRun hx]
    · have hne : a.phys (y / 16) ≠ a.phys (n / 16) ∨ y % 16 ≠ n % 16 := by
        by_contra hsame
        rw [not_or, not_not, not_not] at hsame
        have hquot := ArrayState.phys_injective (by omega) (by omega) hsame.1
        omega
      rw [ArrayState.line_putRun_ne hne (by omega) (by omega) hk (by omega)]
      exact ih (by omega) (by omega)

end

/-! ### A run is written (R116, R126) -/

section
variable {s : State} {g : Course} {i : Started} {o : BuildOp}

/-- The course with every row of the next run of a build in its tables, and the run READY. -/
def CourseState.wrote (c : CourseState) (i : Started) (o : BuildOp) (ls : List (List TblLine)) : CourseState :=
  let k := o.drun + i.prog
  let a := c.arr.putRows k ls (16 * c.arr.logical)
  { c with arr := a.setRun k ⟨some (o.tag i.e.serial), (a.run k).pend.filter fun x => x.serial != i.e.serial⟩ }

/-- The lines of a run of a DIRECT build, row by row. -/
def State.directRows (s : State) (g : Course) (i : Started) (o : BuildOp) : List (List TblLine) :=
  (List.range (16 * (s.course g).arr.logical)).map fun y =>
    fillRun ((o.pairsIn i.prog).flatMap fun x => s.directLines o (s.course g).arr.logical y x)

theorem State.directRows_getD (s : State) (i : Started) (o : BuildOp) {y : Nat} (hy : y < 16 * (s.course g).arr.logical) :
    (s.directRows g i o).getD y [] =
      fillRun ((o.pairsIn i.prog).flatMap fun x => s.directLines o (s.course g).arr.logical y x) := by
  rw [State.directRows, List.getD_eq_getElem _ _ (by simpa using hy), List.getElem_map, List.getElem_range]

theorem CourseState.wrote_run (c : CourseState) (i : Started) (o : BuildOp) (ls : List (List TblLine)) :
    (c.wrote i o ls).arr.run (o.drun + i.prog) =
      ⟨some (o.tag i.e.serial), (c.arr.run (o.drun + i.prog)).pend.filter fun x => x.serial != i.e.serial⟩ := by
  obtain ⟨m, hm⟩ := c.arr.putRows_tables (o.drun + i.prog) ls (16 * c.arr.logical)
  unfold CourseState.wrote
  dsimp only
  rw [hm]
  exact ArrayState.run_setRun ..

theorem CourseState.wrote_line (c : CourseState) (i : Started) (o : BuildOp) (ls : List (List TblLine)) {x y : Nat}
    (hk : o.drun + i.prog < 64) (hy : y < 16 * c.arr.logical) (hx : x < 16) :
    (c.wrote i o ls).arr.line (c.arr.phys (y / 16)) (y % 16) (16 * (o.drun + i.prog) + x) =
      (ls.getD y []).getD x ⟨0, 0, 0, 0, 0⟩ := ArrayState.line_putRows ls le_rfl hk hy hx

theorem State.modStarted_arr (s : State) (g : Course) (q : QueueId) (n : Nat) (f : Started → Started) :
    ((s.modCourse g fun c => c.modStarted q n f).course g).arr = (s.course g).arr := by
  rw [State.modCourse_course]
  rfl

theorem State.writeRun_eq (he : o.expand = false) : Apart g s (s.writeRun g i o) ∧
    ((s.writeRun g i o).course g).arr = ((s.course g).wrote i o (s.directRows g i o)).arr := by
  have hlines : s.runLines g i o = some (s.directRows g i o, s) := by
    unfold State.runLines
    simp only [he, Bool.false_eq_true, if_false]
    rfl
  have hcount (t : State) := t.countC_reports g 0x1128 0x1110 (16 * (s.directRows g i o).length)
  have hwrote := State.modCourse_apart s g fun c => c.wrote i o (s.directRows g i o)
  have hcounted := hwrote.trans ((hcount _).apart g)
  unfold State.writeRun
  simp only [hlines]
  split
  · refine ⟨(hcounted.trans (State.modCourse_apart _ g _)).trans (State.modCourse_apart _ g _), ?_⟩
    rw [State.instrDone, State.modStarted_arr, State.modStarted_arr, (hcount _).course, State.modCourse_course]
    rfl
  · refine ⟨hcounted.trans (State.modCourse_apart _ g _), ?_⟩
    rw [State.modStarted_arr, (hcount _).course, State.modCourse_course]
    rfl

/-- A written run is READY in every row of every logical array. -/
theorem writeRun_ready (he : o.expand = false) (hk : o.drun + i.prog < 64) :
    let a := (s.course g).arr
    let k := o.drun + i.prog
    let t := (s.writeRun g i o).checkWindow g
    let b := (t.course g).arr
    b.run k = ⟨some (o.tag i.e.serial), (a.run k).pend.filter fun x => x.serial != i.e.serial⟩ ∧
      (∀ j r x, j < a.logical → r < 16 → x < 16 → b.line (a.phys j) r (16 * k + x) =
        (fillRun ((o.pairsIn i.prog).flatMap fun z => s.directLines o a.logical (16 * j + r) z)).getD x ⟨0, 0, 0, 0, 0⟩) ∧
      Apart g s t := by
  intro a k t b
  obtain ⟨hapart, harr⟩ := State.writeRun_eq (s := s) (g := g) (i := i) (o := o) he
  obtain ⟨l, v, hchecked, hc⟩ := (s.writeRun g i o).checkWindow_eq g
  have hb : b = { ((s.course g).wrote i o (s.directRows g i o)).arr with log := l, overflow := v } := by
    rw [← harr]
    exact congrArg CourseState.arr hc
  refine ⟨?_, fun j r x hj hr hx => ?_, hapart.trans hchecked⟩
  · rw [hb]
    exact (s.course g).wrote_run i o (s.directRows g i o)
  · have hy : 16 * j + r < 16 * a.logical := by omega
    have hline := (s.course g).wrote_line i o (s.directRows g i o) hk hy hx
    rw [show (16 * j + r) / 16 = j by omega, show (16 * j + r) % 16 = r by omega, s.directRows_getD i o hy] at hline
    rw [hb]
    exact hline

theorem tblRunWritten_writes (hr : (s.course g).arr.repoint = .none) (hb : (s.course g).building = some (i, o))
    (hw : (s.course g).mayWrite i o = true) (hh : (s.course g).arr.half0 = true ∨ (s.course g).arr.half1 = true) :
    tblRunWritten g none s = (s.writeRun g i o).checkWindow g := by
  have hhalf : (!(s.course g).arr.half0 && !(s.course g).arr.half1) = false := by
    rcases hh with h | h <;> simp [h]
  simp only [tblRunWritten, hr, hb, hw, hhalf, Bool.not_true, Bool.or_self, Bool.false_eq_true, if_false]

theorem tblRunWritten_fails {half : Fin 2} (hr : (s.course g).arr.repoint = .none) (hb : (s.course g).building = some (i, o))
    (hw : (s.course g).mayWrite i o = true) (hk : o.kind = .subset ∨ o.kind = .signed)
    (hh : (if half = 0 then (s.course g).arr.half0 else (s.course g).arr.half1) = true) :
    tblRunWritten g (some half) s = s.buildCheck g half := by
  have hhalf : (!(s.course g).arr.half0 && !(s.course g).arr.half1) = false := by
    split at hh <;> simp [hh]
  have htable : (decide (o.kind = .subset) || decide (o.kind = .signed)) = true := by simpa using hk
  simp only [tblRunWritten, hr, hb, hw, hhalf, htable, hh, Bool.not_true, Bool.or_self, Bool.and_self, Bool.false_eq_true, if_false,
    if_true]

/-- The course with a half of its table builder out of service. -/
def CourseState.withoutHalf (c : CourseState) (half : Fin 2) : CourseState :=
  { c with arr := if half = 0 then { c.arr with half0 := false } else { c.arr with half1 := false } }

theorem CourseState.withoutHalf_arr (c : CourseState) (half : Fin 2) :
    (if half = 0 then (c.withoutHalf half).arr.half0 else (c.withoutHalf half).arr.half1) = false ∧
      (c.withoutHalf half).arr.tables = c.arr.tables ∧ (c.withoutHalf half).arr.runs = c.arr.runs := by
  unfold CourseState.withoutHalf
  by_cases h : half = 0
  · rw [if_pos h, if_pos h]
    exact ⟨rfl, rfl, rfl⟩
  · rw [if_neg h, if_neg h]
    exact ⟨rfl, rfl, rfl⟩

theorem State.buildCheck_course (s : State) (g : Course) (half : Fin 2) :
    (s.buildCheck g half).course g = (s.course g).withoutHalf half := by
  have hr : Reports s (s.raiseCourse g 0x0204 0x03 0xF none) := s.raiseWith_reports ..
  rw [State.buildCheck, State.halfLost]
  dsimp only
  rw [State.modCourse_course, State.failed]
  exact congrArg (CourseState.withoutHalf · half) (hr.course g)

end

/-! ### Swaps (R143, R144) -/

section
variable {s : State} {g : Course} {c : CourseState} {i : Started} {j slot : Nat} {tile : Tile}

/-- From c to d the shadow sets and the swaps are as they were. -/
def KeepsShadows (c d : CourseState) : Prop := d.arr.shadow = c.arr.shadow ∧ d.arr.swaps = c.arr.swaps

theorem openIn_keepsShadows (c : CourseState) (j serial slot n : Nat) (eref : Int) : KeepsShadows c (c.openIn j serial slot n eref) := by
  unfold CourseState.openIn
  refine List.foldlRecOn (motive := KeepsShadows c) _ _ ⟨rfl, rfl⟩ fun d hd i _ => ?_
  dsimp only
  split <;> exact hd

theorem openHeads_keepsShadows (c : CourseState) (j fuel : Nat) : KeepsShadows c (c.openHeads j fuel) := by
  induction fuel generalizing c with
  | zero => exact ⟨rfl, rfl⟩
  | succ fuel ih =>
    unfold CourseState.openHeads
    split
    · next m slot cnt eref d rest _ =>
      obtain ⟨h1, h2⟩ := openIn_keepsShadows { c with arr := c.arr.setTokens j rest } j m slot cnt eref
      obtain ⟨k1, k2⟩ := ih (({ c with arr := c.arr.setTokens j rest }).openIn j m slot cnt eref)
      exact ⟨k1.trans h1, k2.trans h2⟩
    · exact ⟨rfl, rfl⟩

theorem flow_keepsShadows (c : CourseState) (j : Nat) : KeepsShadows c (c.flow j) := openHeads_keepsShadows ..

theorem swap_shadow (h : SMap.find c.arr.active (32 * j + slot) = some tile) :
    SMap.find (c.swap j slot i).arr.shadow (32 * j + slot) = some ⟨tile, i.e.serial, false⟩ ∧
      (c.swap j slot i).arr.swaps = c.arr.swaps ++ [(i.e.serial, j, slot)] := by
  unfold CourseState.swap
  simp only [h]
  obtain ⟨hs, hw⟩ := flow_keepsShadows _ j
  rw [hs, hw]
  exact ⟨SMap.find_ins_same _ _ _, rfl⟩

theorem slotSwap_swaps (hn : (s.course g).nextSwap j slot = some i) (hj : j < (s.course g).arr.logical)
    (he : SMap.find (s.course g).arr.shadow (32 * j + slot) = none) (hb : (s.course g).slotBusy j slot i.e.serial = false) :
    slotSwap g j slot s = (s.modCourse g fun c => c.swap j slot i).checkWindow g := by
  simp only [slotSwap, hn, he, hb]
  exact if_pos ⟨hj, rfl, rfl⟩

end

/-! ### Rows of a drain (R148 to R152, R156) -/

section
variable {s t : State} {g : Course} {i : Started} {d : DrainOp} {j p a : Nat} {held : Option (List Cell × Int)} {sh : Shadow}
  {bs : List Byte}

theorem State.instrPoison_apart (s : State) (g : Course) (q : QueueId) (n : Nat) (code : BitVec 16) :
    Apart g s (s.instrPoison g q n code) := s.modCourse_apart g _

/-- A row that is read is noted where its tile lies outside the window, and a tile counts as drained with its last row. -/
def State.rowRead (s : State) (g : Course) (i : Started) (r : Nat) (hit : Bool) : State :=
  let t := s.countC g 0x132C 0x1320 16
  let u := if r = 0 && hit then t.instrPoison g 5 i.e.serial 0x0301 else t
  if r = 15 then u.countC g 0x132C 0x1318 1 else u

theorem State.rowRead_apart (s : State) (g : Course) (i : Started) (r : Nat) (hit : Bool) : Apart g s (s.rowRead g i r hit) := by
  have hcount (t : State) (a b n : Nat) : Apart g t (t.countC g a b n) := (t.countC_reports g a b n).apart g
  have hpoison (t : State) : Apart g t (if r = 0 && hit then t.instrPoison g 5 i.e.serial 0x0301 else t) := by
    split
    · exact t.instrPoison_apart ..
    · exact .refl g t
  unfold State.rowRead
  dsimp only
  split
  · exact ((hcount ..).trans (hpoison _)).trans (hcount ..)
  · exact (hcount ..).trans (hpoison _)

/-- The state once row read p of the drain path of array j has gone through it. -/
def State.advanced (s : State) (g : Course) (j : Nat) (i : Started) (d : DrainOp) (p : Nat) (now : List Cell × Int) : State :=
  (s.modCourse g fun c => c.advance j i.e.serial (d.slot + (d.place p).1) p (16 * d.count) (decide ((d.place p).2 = 15))
    (some now)).checkWindow g

theorem State.advanced_apart (s : State) (g : Course) (j : Nat) (i : Started) (d : DrainOp) (p : Nat) (now : List Cell × Int) :
    Apart g s (s.advanced g j i d p now) := (s.modCourse_apart g _).trans (State.checkWindow_apart _ g)

theorem State.store_eq_storeP (s : State) (a : Nat) (bs : List Byte) : s.store a bs = s.storeP a bs false := rfl

/-- A row written to memory, and nothing else outside the course. -/
theorem row_written {u : State} {now : List Cell × Int} (ht : Apart g s t) (hu : u = (t.store a bs).advanced g j i d p now) :
    (∀ b, u.byte b = if a ≤ b ∧ b < a + bs.length then bs.getD (b - a) 0 else s.byte b) ∧
      ∀ h, h ≠ g → u.course h = s.course h := by
  have hadv := hu ▸ (t.store a bs).advanced_apart g j i d p now
  refine ⟨fun b => ?_, fun h hh => ?_⟩
  · have hbyte : u.byte b = (t.store a bs).byte b := congrArg (fun m => SMap.get m b (memDefault b)) hadv.mem
    have hold : t.byte b = s.byte b := congrArg (fun m => SMap.get m b (memDefault b)) ht.mem
    rw [hbyte, State.store_eq_storeP, storeP_byte, hold]
  · obtain ⟨m, q, hm⟩ := storeP_frame t a bs
    rw [hadv.others h hh, State.store_eq_storeP, hm]
    exact ht.others h hh

variable (hj : j < (s.course g).arr.logical) (hd : (s.course g).draining j = some (i, d, p, held))
  (hs : SMap.find (s.course g).arr.shadow (32 * j + (d.slot + (d.place p).1)) = some sh) (hn : sh.drain = i.e.serial)
  (hl : sh.lost = false)
include hj hd hs hn hl

theorem drainRowRead_upset : drainRowRead g j true s = (s.countC g 0x132C 0x1320 16).arrayFault g j 0x0104 := by
  simp only [drainRowRead, hj.not_ge, if_false, hd, hs, hn, hl, ne_eq, not_true_eq_false, Bool.not_false,
    Bool.true_or, Bool.and_self, if_true]

variable (hok : ((sh.tile.row (d.place p).2).any fun k => k.res != res7 k.a.toInt) = false)
include hok

theorem drainRowRead_unpaired (hp : d.paired = false) : drainRowRead g j false s =
    ((s.rowRead g i (d.place p).2 sh.tile.windowHit).store (d.dstOf (d.place p).1 j (d.place p).2)
      (d.rowOut i.e g (d.place p).1 j (d.place p).2 (sh.tile.row (d.place p).2) sh.tile.eref)).advanced g j i d p
        (sh.tile.row (d.place p).2, sh.tile.eref) := by
  simp only [drainRowRead, hj.not_ge, if_false, hd, hs, hn, hl, hok, hp, ne_eq, not_true_eq_false,
    Bool.or_self, Bool.and_false, Bool.false_eq_true]
  rfl

theorem drainRowRead_first (hp : d.paired = true) (heven : p % 2 = 0) : drainRowRead g j false s =
    (s.rowRead g i (d.place p).2 sh.tile.windowHit).advanced g j i d p (sh.tile.row (d.place p).2, sh.tile.eref) := by
  have hodd : decide (p % 2 = 1) = false := by
    rw [heven]
    rfl
  simp only [drainRowRead, hj.not_ge, if_false, hd, hs, hn, hl, hok, hp, hodd, ne_eq, not_true_eq_false,
    Bool.or_self, Bool.and_false, Bool.false_eq_true, if_true]
  rfl

theorem drainRowRead_second {x : List Cell × Int} (hp : d.paired = true) (hodd : p % 2 = 1) (hx : held = some x) :
    drainRowRead g j false s =
    ((s.rowRead g i (d.place p).2 sh.tile.windowHit).store (d.dstOf ((d.place p).1 / 2) j (d.place p).2)
      (d.pairOut i.e g ((d.place p).1 / 2) j (d.place p).2 x (sh.tile.row (d.place p).2, sh.tile.eref))).advanced g j i d p
        (sh.tile.row (d.place p).2, sh.tile.eref) := by
  have hodd : decide (p % 2 = 1) = true := decide_eq_true hodd
  simp only [drainRowRead, hj.not_ge, if_false, hd, hs, hn, hl, hok, hp, hodd, hx, ne_eq, not_true_eq_false,
    Bool.or_self, Bool.and_false, Bool.false_eq_true, if_true]
  rfl

end

/-! ### A drain is done (R152) -/

section
variable {s : State} {g : Course} {i : Started}

theorem findStarted_of_find {c : CourseState} {q : QueueId} {f : Started → Bool} (h : (c.queue q).started.find? f = some i) :
    ∃ x, c.findStarted q i.e.serial = some x := by
  rw [← Option.isSome_iff_exists, CourseState.findStarted, List.find?_isSome]
  exact ⟨i, List.mem_of_find?_eq_some h, by simp⟩

/-- The course with what it holds of a completed drn.* forgotten. -/
def CourseState.forgetDrain (c : CourseState) (n : Nat) : CourseState :=
  { c with arr := { c.arr with
    swaps := c.arr.swaps.filter fun x => x.1 != n, drained := c.arr.drained.filter fun x => x.1 != n } }

theorem drainComplete_done (hi : ((s.course g).queue 5).started.find? (fun i => !i.done && !i.orphan && !i.restart) = some i)
    (hd : ∀ j, j < (s.course g).arr.logical → (i.e.serial, j) ∈ (s.course g).arr.drained) :
    drainComplete g s = ((s.instrDone g 5 i.e.serial).modCourse g fun c => c.forgetDrain i.e.serial).checkWindow g := by
  have hall : ((List.range (s.course g).arr.logical).all fun j => (s.course g).arr.drained.contains (i.e.serial, j)) = true := by
    simpa using hd
  simp only [drainComplete, hi, hall, if_true]
  rfl

end

end Sys2Proof.Machine

/-! SUPPORT. FineWork: the tiles of an fwu.mm, what its run changes and leaves, and the elements of D in memory (R188, R191). -/

namespace Sys2Proof.Machine

/-! ### The tiles of an fwu.mm (R188, R191; log entry 104) -/

section
variable {s : State} {o : MmOp} {k n : Nat}

/-- The state with other courses and counters, which no tile reads or writes. -/
def State.beside (s : State) (c : Vector CourseState 32) (w : SMap DWord) : State := { s with courses := c, wide := w }

theorem beside_putBytes (c : Vector CourseState 32) (w : SMap DWord) (bs : List Byte) (s : State) (a : Nat) :
    (s.beside c w).putBytes a bs = (s.putBytes a bs).beside c w := by
  induction bs generalizing s a with
  | nil => rfl
  | cons b bs ih => exact ih (s.setByte a b) (a + 1)

theorem beside_store (c : Vector CourseState 32) (w : SMap DWord) (s : State) (a : Nat) (bs : List Byte) :
    (s.beside c w).store a bs = (s.store a bs).beside c w := by
  rw [State.store, State.store, beside_putBytes]
  unfold State.cleanLines
  exact List.foldl_hom (fun t : State => t.beside c w) fun _ _ => rfl

/-- The rows of tile k, computed from what memory holds. -/
def State.tileBytes (s : State) (o : MmOp) (k : Nat) (i : Nat) : List Byte :=
  (List.range (o.tileCols k).2).flatMap fun j => fwOut o.bf16Out (s.fwElem o ((o.tileRows k).1 + i) ((o.tileCols k).1 + j))

/-- Where row i of tile k lies in D. -/
def MmOp.rowAddr (o : MmOp) (k i : Nat) : Nat :=
  o.d + ((o.tileRows k).1 + i) * o.ldd + (if o.bf16Out then 2 else 4) * (o.tileCols k).1

theorem zipIdx_range (n : Nat) : (List.range n).zipIdx = (List.range n).map fun i => (i, i) :=
  List.ext_getElem (by simp) fun i _ _ => by simp

theorem State.runTile_eq (s : State) (o : MmOp) (k : Nat) : s.runTile o k =
    (List.range (o.tileRows k).2).foldl (fun t i => t.store (o.rowAddr k i) (s.tileBytes o k i)) s := by
  unfold State.runTile
  dsimp only
  rw [List.zipIdx_map, zipIdx_range, List.map_map, List.foldl_map]
  rfl

theorem beside_bytes (c : Vector CourseState 32) (w : SMap DWord) (s : State) (a n : Nat) :
    (s.beside c w).bytes a n = s.bytes a n := by
  induction n generalizing a with
  | zero => rfl
  | succ n ih => exact congrArg (s.byte a :: ·) (ih (a + 1))

theorem beside_fwRead (c : Vector CourseState 32) (w : SMap DWord) (s : State) (fp32 : Bool) (a : Nat) :
    (s.beside c w).fwRead fp32 a = s.fwRead fp32 a := by
  unfold State.fwRead State.rdN
  simp only [beside_bytes]
  rfl

theorem beside_tileBytes (c : Vector CourseState 32) (w : SMap DWord) (s : State) (o : MmOp) (k : Nat) :
    (s.beside c w).tileBytes o k = s.tileBytes o k := by
  funext i
  simp only [State.tileBytes, State.fwElem, beside_fwRead]

theorem beside_runTile (c : Vector CourseState 32) (w : SMap DWord) (s : State) (o : MmOp) (k : Nat) :
    (s.beside c w).runTile o k = (s.runTile o k).beside c w := by
  rw [State.runTile_eq, State.runTile_eq, beside_tileBytes]
  exact List.foldl_hom (fun t : State => t.beside c w) fun t _ => beside_store c w t _ _

/-- Tiles k to k + n - 1, one after the other. -/
def State.tilesFrom (s : State) (o : MmOp) (k n : Nat) : State := (List.range n).foldl (fun v i => v.runTile o (k + i)) s

theorem State.tilesFrom_succ (s : State) (o : MmOp) (k n : Nat) :
    s.tilesFrom o k (n + 1) = (s.runTile o k).tilesFrom o (k + 1) n := by
  unfold State.tilesFrom
  rw [List.range_succ_eq_map, List.foldl_cons, List.foldl_map]
  simp only [Nat.add_zero, Nat.succ_eq_add_one, Nat.add_assoc, Nat.add_comm 1]

theorem beside_tilesFrom (c : Vector CourseState 32) (w : SMap DWord) (s : State) (o : MmOp) (k n : Nat) :
    (s.beside c w).tilesFrom o k n = (s.tilesFrom o k n).beside c w :=
  List.foldl_hom (fun t : State => t.beside c w) fun t _ => beside_runTile c w t _ _

/-- Tiles change memory and its poison marks only. -/
theorem State.runTile_frame (s : State) (o : MmOp) (k : Nat) : ∃ m p, s.runTile o k = { s with mem := m, memPoison := p } := by
  rw [State.runTile_eq]
  refine List.foldlRecOn (motive := fun t => ∃ (m : SMap Byte) (p : SMap Bool), t = { s with mem := m, memPoison := p }) _ _
    ⟨s.mem, s.memPoison, rfl⟩ ?_
  rintro _ ⟨m, p, rfl⟩ i -
  exact storeP_frame { s with mem := m, memPoison := p } (o.rowAddr k i) (s.tileBytes o k i)

theorem State.tilesFrom_frame (s : State) (o : MmOp) (k n : Nat) :
    ∃ m p, s.tilesFrom o k n = { s with mem := m, memPoison := p } := by
  refine List.foldlRecOn (motive := fun t => ∃ (m : SMap Byte) (p : SMap Bool), t = { s with mem := m, memPoison := p }) _ _
    ⟨s.mem, s.memPoison, rfl⟩ ?_
  rintro _ ⟨m, p, rfl⟩ i -
  exact State.runTile_frame { s with mem := m, memPoison := p } o (k + i)

end

/-! ### The run (R191, R514) -/

section
variable {s : State} {u : CDie} {f : FwuEntry} {o : MmOp} {k n : Nat} {src : CreditSrc} {i : Started}

/-- The unit runs nothing, and the instruction that it ran is done. -/
def State.fwuFinished (s : State) (u : CDie) (f : FwuEntry) : State :=
  (s.modCDie u fun x => { x with fwuRun := none }).instrDone f.g 4 f.serial

theorem State.fwuFinished_course (s : State) (u : CDie) (f : FwuEntry) : (s.fwuFinished u f).course f.g =
    (s.course f.g).modStarted 4 f.serial fun i => { i with done := true } := by
  rw [State.fwuFinished, State.instrDone, State.modCourse_course, State.modCDie_course]

/-- With no check failed, the tiles that are left are computed and counted. -/
theorem fwuTiles_checked (u : CDie) (f : FwuEntry) (o : MmOp) (n k : Nat) (s : State) :
    ∃ w, State.fwuTiles u f o n k [] s = ((s.tilesFrom o k n).beside s.courses w).fwuFinished u f := by
  induction n generalizing k s with
  | zero => exact ⟨s.wide, rfl⟩
  | succ n ih =>
    obtain ⟨w, hw⟩ := count_frame (s.runTile o k) (fwuBase u) 0x18 0x8 ((o.tileRows k).2 * (o.tileCols k).2 * o.k)
    obtain ⟨m, p, hm⟩ := s.runTile_frame o k
    have hcourses : (s.runTile o k).courses = s.courses := (congrArg State.courses hm :)
    obtain ⟨w', hw'⟩ := ih (k + 1) ((s.runTile o k).beside s.courses w)
    have hcounted : (s.runTile o k).count (fwuBase u) 0x18 0x8 ((o.tileRows k).2 * (o.tileCols k).2 * o.k) =
        (s.runTile o k).beside s.courses w := by
      rw [hw, State.beside, ← hcourses]
    refine ⟨w', ?_⟩
    rw [beside_tilesFrom, ← State.tilesFrom_succ] at hw'
    rw [State.fwuTiles]
    show State.fwuTiles u f o n (k + 1) [] ((s.runTile o k).count (fwuBase u) 0x18 0x8 _) = _
    rw [hcounted, hw']
    rfl

theorem State.fwuRefill_self (h : (s.cdie (rowPartner u)).fwuOk = true ∨ (s.cdie (rowPartner u)).fwuHeld = []) :
    s.fwuRefill u = s := by
  unfold State.fwuRefill
  rcases h with h | h
  · refine List.foldlRecOn (motive := fun t => t = s) _ _ rfl ?_
    rintro _ rfl f -
    rw [h]
    rfl
  · rw [h]
    rfl

/-- The course of an fwu.mm once it has its credits and has run. -/
def CourseState.fwuRan (c : CourseState) (serial n : Nat) (src : CreditSrc) : CourseState :=
  (c.modStarted 4 serial fun i => { i with credits := n, src := src }).modStarted 4 serial fun i => { i with done := true }

/-- The state with credits given to an fwu.mm that starts to run. -/
def State.fwuCredited (s : State) (f : FwuEntry) (n : Nat) (src : CreditSrc) : State :=
  s.modCourse f.g fun c => c.modStarted 4 f.serial fun i => { i with credits := n, src := src }

/-- What an instruction that runs with no check failed comes to. -/
theorem fwuRunNow_checked (s : State) (u : CDie) (f : FwuEntry) (o : MmOp) (n : Nat) (src : CreditSrc) : ∃ w x,
    s.fwuRunNow u f o n src [] = { ((s.tilesFrom o f.tile (o.tiles - f.tile)).beside (s.fwuCredited f n src).courses w).fwuFinished u
      { f with granted := some (n, src) } with freeCtr := x } := by
  obtain ⟨w, hw⟩ := fwuTiles_checked u { f with granted := some (n, src) } o (o.tiles - f.tile) f.tile (s.fwuCredited f n src)
  have htiles : (s.fwuCredited f n src).tilesFrom o f.tile (o.tiles - f.tile) =
      (s.tilesFrom o f.tile (o.tiles - f.tile)).beside (s.fwuCredited f n src).courses s.wide := beside_tilesFrom ..
  rw [htiles] at hw
  exact ⟨w, _, congrArg (fun t : State => { t with freeCtr := t.freeCtr + 2 ^ 48 }) hw⟩

theorem fwuRunNow_leaves (s : State) (u : CDie) (f : FwuEntry) (o : MmOp) (n : Nat) (src : CreditSrc) :
    (s.fwuRunNow u f o n src []).mem = (s.tilesFrom o f.tile (o.tiles - f.tile)).mem ∧
      (∀ d, (s.fwuRunNow u f o n src []).cdie d = (s.modCDie u fun x => { x with fwuRun := none }).cdie d) ∧
      (s.fwuRunNow u f o n src []).course f.g = (s.course f.g).fwuRan f.serial n src := by
  obtain ⟨w, x, h⟩ := fwuRunNow_checked s u f o n src
  obtain ⟨m, p, hm⟩ := s.tilesFrom_frame o f.tile (o.tiles - f.tile)
  rw [h]
  refine ⟨rfl, fun d => ?_, ?_⟩
  · rw [hm]
    rfl
  · have hcredited : (s.fwuCredited f n src).course f.g =
        (s.course f.g).modStarted 4 f.serial fun i => { i with credits := n, src := src } := State.modCourse_course ..
    refine (State.fwuFinished_course ((s.tilesFrom o f.tile (o.tiles - f.tile)).beside (s.fwuCredited f n src).courses w) u
      { f with granted := some (n, src) }).trans ?_
    exact congrArg (fun c : CourseState => c.modStarted 4 f.serial fun i => { i with done := true }) hcredited

theorem fwuMmRun_granted (hok : (s.cdie u).fwuOk = true) (hrun : (s.cdie u).fwuRun = some f) (hg : f.granted = some (n, src))
    (hi : (s.course f.g).findStarted 4 f.serial = some i) (hop : i.e.op = .fwuMm o) :
    fwuMmRun u [] s = (s.fwuRunNow u f o n src []).fwuRefill u := by
  simp only [fwuMmRun, hok, hrun, State.fwuTry, hi, hop, hg, Bool.not_true, Bool.false_eq_true, if_false]

end

/-! ### Elements of D (R188) -/

section
variable {s : State} {o : MmOp} {k p q b n : Nat}

theorem length_flatMap_range {f : Nat → List Byte} {m : Nat} (h : ∀ i, (f i).length = m) (n : Nat) :
    ((List.range n).flatMap f).length = m * n := by
  simp [List.length_flatMap, h, Nat.mul_comm]

/-- Byte b of piece q of n pieces of m bytes each. -/
theorem getD_flatMap_range {f : Nat → List Byte} {m : Nat} (h : ∀ i, (f i).length = m) (hq : q < n) (hb : b < m) :
    ((List.range n).flatMap f).getD (m * q + b) 0 = (f q).getD b 0 := by
  induction n with
  | zero => omega
  | succ n ih =>
    rw [List.range_succ, List.flatMap_append, List.flatMap_singleton]
    by_cases he : q = n
    · rw [List.getD_append_right _ _ _ _ (by rw [length_flatMap_range h, he]; omega), length_flatMap_range h, he,
        Nat.add_sub_cancel_left]
    · have hlt : m * q + b < m * n := by
        have := Nat.mul_le_mul_left m (show q + 1 ≤ n by omega)
        rw [Nat.mul_add_one] at this
        omega
      rw [List.getD_append _ _ _ _ (by rwa [length_flatMap_range h])]
      exact ih (by omega)

/-- A byte of one of the pieces that are written one after the other, where no other piece reaches it. -/
theorem byte_foldl_store {addr : Nat → Nat} {bs : Nat → List Byte} {x : Nat} (hp : p < n)
    (hin : addr p ≤ x ∧ x < addr p + (bs p).length)
    (hout : ∀ i, i < n → i ≠ p → ¬(addr i ≤ x ∧ x < addr i + (bs i).length)) :
    ((List.range n).foldl (fun t i => t.store (addr i) (bs i)) s).byte x = (bs p).getD (x - addr p) 0 := by
  induction n with
  | zero => omega
  | succ n ih =>
    rw [List.range_succ, List.foldl_append, List.foldl_cons, List.foldl_nil, State.store_eq_storeP, storeP_byte]
    by_cases he : n = p
    · rw [he, if_pos hin]
    · rw [if_neg (hout n (by omega) he)]
      exact ih (by omega) fun i hi => hout i (by omega)

theorem length_fwOut (v : Nat) : (fwOut false v).length = 4 := leBytes_length 4 v

theorem length_tileBytes (h : o.bf16Out = false) (i : Nat) : (s.tileBytes o k i).length = 4 * (o.tileCols k).2 := by
  unfold State.tileBytes
  rw [h]
  exact length_flatMap_range (fun _ => length_fwOut _) _

theorem tileCols_le (h : 0 < (o.tileCols k).2) : (o.tileCols k).1 + (o.tileCols k).2 ≤ o.n := by
  simp only [MmOp.tileCols] at h ⊢
  omega

/-- A byte of a row of FP32 output is one of its element. -/
theorem tileBytes_getD (h : o.bf16Out = false) (i : Nat) (hq : q < (o.tileCols k).2) (hb : b < 4) : (s.tileBytes o k i).getD (4 * q + b) 0 =
    BitVec.ofNat 8 (s.fwElem o ((o.tileRows k).1 + i) ((o.tileCols k).1 + q) / 256 ^ b) := by
  unfold State.tileBytes
  rw [h, getD_flatMap_range (fun _ => length_fwOut _) hq hb]
  exact leBytes_get 4 _ b hb

/-- Rows of D do not overlap where a row fits its stride. -/
theorem runTile_byte (h : o.bf16Out = false) (hl : 4 * o.n ≤ o.ldd) (hp : p < (o.tileRows k).2) (hq : q < (o.tileCols k).2) (hb : b < 4) :
    (s.runTile o k).byte (o.d + ((o.tileRows k).1 + p) * o.ldd + 4 * ((o.tileCols k).1 + q) + b) =
      BitVec.ofNat 8 (s.fwElem o ((o.tileRows k).1 + p) ((o.tileCols k).1 + q) / 256 ^ b) := by
  have hcols := tileCols_le (o := o) (k := k) (by omega)
  have haddr (i : Nat) : o.rowAddr k i = o.d + ((o.tileRows k).1 + i) * o.ldd + 4 * (o.tileCols k).1 := by
    rw [MmOp.rowAddr, h]
    rfl
  rw [State.runTile_eq, byte_foldl_store hp]
  · rw [haddr, ← tileBytes_getD h p hq hb]
    congr 1
    omega
  · rw [haddr, length_tileBytes h]
    omega
  · intro i _ hne
    rw [haddr, length_tileBytes h]
    rcases Nat.lt_or_gt_of_ne hne with hlt | hlt
    · have hrow := Nat.mul_le_mul_right o.ldd (show (o.tileRows k).1 + i + 1 ≤ (o.tileRows k).1 + p by omega)
      rw [Nat.add_one_mul] at hrow
      omega
    · have hrow := Nat.mul_le_mul_right o.ldd (show (o.tileRows k).1 + p + 1 ≤ (o.tileRows k).1 + i by omega)
      rw [Nat.add_one_mul] at hrow
      omega

end

/-! ### The parts of the obligation -/

section
variable {s : State} {g : Course}

theorem modCDie_fwuOk (u d : CDie) : ((s.modCDie u fun x => { x with fwuRun := none }).cdie d).fwuOk = (s.cdie d).fwuOk ∧
    ((s.modCDie u fun x => { x with fwuRun := none }).cdie d).fwuHeld = (s.cdie d).fwuHeld := by
  by_cases h : d = u
  · rw [h, State.modCDie_cdie]
    exact ⟨rfl, rfl⟩
  · have hd : (s.modCDie u fun x => { x with fwuRun := none }).cdie d = s.cdie d := vector_get_set_ne _ h _
    rw [hd]
    exact ⟨rfl, rfl⟩

/-- A granted fwu.mm of a unit whose partner has nothing to hand over runs to its end. -/
theorem fwuMmRun_completes {u : CDie} {f : FwuEntry} {o : MmOp} {n : Nat} {src : CreditSrc} {i : Started}
    (hok : (s.cdie u).fwuOk = true) (hrun : (s.cdie u).fwuRun = some f) (hg : f.granted = some (n, src))
    (hi : (s.course f.g).findStarted 4 f.serial = some i) (hop : i.e.op = .fwuMm o)
    (hp : (s.cdie (rowPartner u)).fwuOk = true ∨ (s.cdie (rowPartner u)).fwuHeld = []) :
    ((fwuMmRun u [] s).cdie u).fwuRun = none ∧ ((fwuMmRun u [] s).cdie u).fwuHeld = (s.cdie u).fwuHeld ∧
      (∃ x, ((fwuMmRun u [] s).course f.g).findStarted 4 f.serial = some x ∧ x.done = true) ∧
      (fwuMmRun u [] s).mem = (s.tilesFrom o f.tile (o.tiles - f.tile)).mem := by
  obtain ⟨hmem, hcdie, hcourse⟩ := fwuRunNow_leaves s u f o n src
  have hself : fwuMmRun u [] s = s.fwuRunNow u f o n src [] := by
    rw [fwuMmRun_granted hok hrun hg hi hop]
    refine State.fwuRefill_self ?_
    obtain ⟨hk, hh⟩ := modCDie_fwuOk (s := s) u (rowPartner u)
    rwa [hcdie, hk, hh]
  rw [hself]
  refine ⟨?_, ?_, ?_, hmem⟩
  · rw [hcdie, State.modCDie_cdie]
  · rw [hcdie]
    exact (modCDie_fwuOk u u).2
  · rw [hcourse]
    exact ⟨_, findStarted_modStarted (fun _ => rfl) (findStarted_modStarted (fun _ => rfl) hi), rfl⟩

end

/-- Settles O38: each command by the equation of its case and what its parts leave. -/
theorem tablesSwapsAndDrains : Obligations.TablesSwapsAndDrains := by
  intro s g c a hruns hrep
  have runs := ifCourse_runs hruns
  refine ⟨fun i o hb hw hh he hk => ?_, fun i o half hb hw hkind hh => ?_, fun j slot i tile hn hj he hbusy hact => ?_,
    fun j i d p held sh hj hd => ?_, fun i hi hd => ?_, fun u f o n src i hdie hok hrun hg hi hop hp => ?_,
    fun o k hbf hl => ?_⟩
  · obtain ⟨hready, hlines, hapart⟩ := writeRun_ready (s := s) (g := g) he hk
    exact ⟨_, (runs _).trans (congrArg _ (tblRunWritten_writes hrep hb hw hh)), hready, hlines, hapart.others, hapart.mem⟩
  · refine ⟨_, (runs _).trans (congrArg _ (tblRunWritten_fails hrep hb hw hkind hh)), ?_⟩
    dsimp only
    rw [State.buildCheck_course]
    exact c.withoutHalf_arr half
  · refine ⟨_, (runs _).trans (congrArg _ (slotSwap_swaps hn hj he hbusy)), ?_⟩
    obtain ⟨l, v, hapart, hc⟩ := (s.modCourse g fun c => c.swap j.val slot.val i).checkWindow_eq g
    obtain ⟨hshadow, hswaps⟩ := swap_shadow (c := c) (i := i) hact
    rw [State.modCourse_course] at hc
    rw [hc]
    exact ⟨hshadow, hswaps, ((s.modCourse_apart g _).trans hapart).others⟩
  · intro y r hsh hdr hlost
    have hread := s.rowRead_apart g i r sh.tile.windowHit
    have sound (h : ∀ k ∈ sh.tile.row r, k.res = res7 k.a.toInt) :
        ((sh.tile.row r).any fun k => k.res != res7 k.a.toInt) = false := by
      simpa [List.any_eq_false] using h
    refine ⟨fun hok hp => ?_, fun hok hp heven => ?_, fun x hok hp hodd hx => ?_, 16, ?_⟩
    · exact ⟨_, (runs _).trans (congrArg _ (drainRowRead_unpaired hj hd hsh hdr hlost (sound hok) hp)), row_written hread rfl⟩
    · have hadv := hread.trans (State.advanced_apart _ g j.val i d p (sh.tile.row r, sh.tile.eref))
      exact ⟨_, (runs _).trans (congrArg _ (drainRowRead_first hj hd hsh hdr hlost (sound hok) hp heven)), hadv.mem, hadv.others⟩
    · exact ⟨_, (runs _).trans (congrArg _ (drainRowRead_second hj hd hsh hdr hlost (sound hok) hp hodd hx)), row_written hread rfl⟩
    · exact (runs _).trans (congrArg _ (drainRowRead_upset hj hd hsh hdr hlost))
  · refine ⟨_, (runs _).trans (congrArg _ (drainComplete_done hi hd)), ?_, ?_⟩
    · obtain ⟨x, hx⟩ := findStarted_of_find hi
      rw [State.checkWindow_findStarted, State.modCourse_course, State.instrDone, State.modCourse_course]
      exact ⟨_, findStarted_modStarted (fun _ => rfl) hx, rfl⟩
    · exact (State.checkWindow_apart _ g).mem
  · exact ⟨_, congrArg Host.Outcome.next (if_pos hdie), fwuMmRun_completes hok hrun hg hi hop hp⟩
  · intro r l p q b hp hq hb
    exact runTile_byte hbf hl hp hq hb

end Sys2Proof.Machine

/-! SUPPORT. Cells: residues modulo 7, what one addition does to a cell, and what each row of R137's table does (R137 to R139). -/

namespace Sys2Proof.Machine

/-! ### Residues modulo 7 (R138, R139) -/

theorem res7_modEq (v : Int) : (res7 v : Int) ≡ v [ZMOD 7] := by
  rw [res7, Int.toNat_of_nonneg (Int.emod_nonneg v (by decide))]
  exact Int.mod_modEq v 7

theorem res7_congr {v w : Int} (h : v ≡ w [ZMOD 7]) : res7 v = res7 w := congrArg Int.toNat h

/-- A base whose cube is 1 modulo 7 needs its exponent only modulo 3. -/
theorem pow_mod_three_modEq {b : Int} (hb : b ^ 3 ≡ 1 [ZMOD 7]) (n : Nat) : b ^ (n % 3) ≡ b ^ n [ZMOD 7] := by
  conv_rhs => rw [← Nat.div_add_mod n 3, pow_add, pow_mul]
  simpa using ((hb.pow (n / 3)).mul_right (b ^ (n % 3))).symm

/-- Division by 2^n is multiplication by 4^n modulo 7, where nothing is left over. -/
theorem sub_emod_mul_four_pow_modEq (c : Int) (n : Nat) : (c - c % 2 ^ n) * 4 ^ (n % 3) ≡ c / 2 ^ n [ZMOD 7] := by
  have hinv : (2 : Int) ^ n * 4 ^ n ≡ 1 [ZMOD 7] := by
    rw [← mul_pow]
    simpa using (show (2 * 4 : Int) ≡ 1 [ZMOD 7] by decide).pow n
  calc (c - c % 2 ^ n) * 4 ^ (n % 3)
      ≡ (c - c % 2 ^ n) * 4 ^ n [ZMOD 7] := (pow_mod_three_modEq (by decide) n).mul_left _
    _ = c / 2 ^ n * (2 ^ n * 4 ^ n) := by rw [sub_eq_of_eq_add' (Int.emod_add_mul_ediv c (2 ^ n)).symm]; ring
    _ ≡ c / 2 ^ n [ZMOD 7] := by simpa using hinv.mul_left (c / 2 ^ n)

/-- A sum less the number of times it wraps has the residue of the 96-bit value it wraps to, since 2^96 is 1 modulo 7 (R139). -/
theorem sub_wraps_modEq (v : Int) :
    v - (v - (BitVec.ofInt 96 v).toInt) / 2 ^ 96 ≡ (BitVec.ofInt 96 v).toInt [ZMOD 7] := by
  obtain ⟨q, hq⟩ : (2 ^ 96 : Int) ∣ v - (BitVec.ofInt 96 v).toInt := by
    rw [BitVec.toInt_ofInt]
    exact_mod_cast Int.dvd_self_sub_bmod
  rw [hq, Int.mul_ediv_cancel_left _ (by decide), Int.modEq_iff_dvd]
  exact ⟨-((2 ^ 96 - 1) / 7 * q), by omega⟩

/-! ### One addition to a cell (R139) -/

section
variable {k : Cell} {v r : Int}

/-- An addition changes the accumulator, modulo 2^96, and the residue. -/
theorem addTo_eq (k : Cell) (v r : Int) :
    k.addTo v r = { k with a := k.a + BitVec.ofInt 96 v, res := (k.addTo v r).res } := by
  simp [Cell.addTo, BitVec.ofInt_add]

/-- The residue still follows the accumulator when what is added comes with its own residue. -/
theorem addTo_res (hk : k.res = res7 k.a.toInt) (hr : r ≡ v [ZMOD 7]) :
    (k.addTo v r).res = res7 (k.addTo v r).a.toInt := by
  have hres : (k.res : Int) ≡ k.a.toInt [ZMOD 7] := hk ▸ res7_modEq _
  exact res7_congr (((hres.add hr).sub_right _).trans (sub_wraps_modEq _))

end

/-! ### One contribution, by the rows of R137's table -/

section
variable {k : Cell} {eref : Int} {x : Contrib}

theorem contribute_poison (hp : x.poison = true) : k.contribute eref x = { k with poison := true } := if_pos hp

theorem contribute_zero (hp : x.poison = false) (hc : x.c = 0) : k.contribute eref x = k := by
  simp [Cell.contribute, hp, hc]

theorem contribute_above (hp : x.poison = false) (hc : x.c ≠ 0) (hs : 48 < x.e - eref + 40) :
    k.contribute eref x = { k with window := true, poison := true } := by
  simp [Cell.contribute, hp, hc, hs]

theorem contribute_within (hp : x.poison = false) (hc : x.c ≠ 0) (h0 : 0 ≤ x.e - eref + 40) (hs : x.e - eref + 40 ≤ 48) :
    k.contribute eref x =
      k.addTo (x.c * 2 ^ (x.e - eref + 40).toNat) ((x.res : Int) * 2 ^ ((x.e - eref + 40).toNat % 3)) := by
  simp [Cell.contribute, hp, hc, h0, not_lt.mpr hs]

theorem contribute_below (hp : x.poison = false) (hc : x.c ≠ 0) (hs : x.e - eref + 40 < 0) :
    let n := (-(x.e - eref + 40)).toNat
    k.contribute eref x =
      { k.addTo (x.c / 2 ^ n) (((x.res : Int) - x.c % 2 ^ n) * 4 ^ (n % 3)) with
        underflow := k.underflow || decide (x.c % 2 ^ n ≠ 0) } := by
  simp only [Cell.contribute, hp, hc, show ¬48 < x.e - eref + 40 by omega, not_le.mpr hs, Bool.false_eq_true, if_false]

/-- RES stays the residue of the accumulator, whichever row a contribution meets. -/
theorem contribute_res (hk : k.res = res7 k.a.toInt) (hx : x.res = res7 x.c) :
    (k.contribute eref x).res = res7 (k.contribute eref x).a.toInt := by
  have hres : (x.res : Int) ≡ x.c [ZMOD 7] := hx ▸ res7_modEq _
  rcases hp : x.poison with _ | _
  · by_cases hc : x.c = 0
    · rwa [contribute_zero hp hc]
    rcases lt_or_ge 48 (x.e - eref + 40) with hs | hs
    · rwa [contribute_above hp hc hs]
    rcases lt_or_ge (x.e - eref + 40) 0 with h0 | h0
    · rw [contribute_below hp hc h0]
      exact addTo_res hk (((hres.sub_right _).mul_right _).trans (sub_emod_mul_four_pow_modEq _ _))
    · rw [contribute_within hp hc h0 hs]
      exact addTo_res hk (hres.mul (pow_mod_three_modEq (by decide) _))
  · rwa [contribute_poison hp]

end

/-- Settles O34: each row of the table by its equation; a zero contribution adds 0 in the rows that the statement does not keep
it out of. -/
theorem cellsAccumulateExactly : Obligations.CellsAccumulateExactly := by
  intro k eref x hk hx s d
  refine ⟨contribute_res hk hx, contribute_poison, contribute_zero, contribute_above, fun hp h0 hs => ?_, fun hp hs => ?_⟩
  · by_cases hc : x.c = 0
    · simp [d, contribute_zero hp hc, hc]
    · simp only [d, contribute_within hp hc h0 hs]
      exact addTo_eq k _ _
  · by_cases hc : x.c = 0
    · simp [d, contribute_zero hp hc, hc]
    · simp only [d, contribute_below hp hc hs]
      rw [addTo_eq]

end Sys2Proof.Machine

/-! SUPPORT. CourseInstructions: what an instruction that acts on its course, and goes on, leaves; the binding and release of rounding
streams; and the request for a self-test (R181, R182, R203, R211, R224, R237, R497). -/

namespace Sys2Proof.Machine

/-! ### An instruction that acts on its course (R203) -/

section
variable {s : State} {g : Course} {w : BitVec 56} {i : Instr} {z : List (Nat × Nat)} {v2 : Bool} {sub : BitVec 4}
  {body : State → Act}

/-- A fetch, a change of the course, the count of the instruction and the step to the next one change only the course. -/
theorem issued_onlyCourse (s : State) (g : Course) (f : CourseState → CourseState) :
    OnlyCourse s ((((s.fetch g).1.modCourse g f).issued g).modCourse g fun c => { c with pc := c.pc + 8 }) g := by
  obtain ⟨b, hb⟩ := s.fetch_fst g
  rw [hb, State.modCourse_modCourse, State.issued_modCourse, State.modCourse_modCourse]
  refine ⟨fun h hh => ?_, rfl, ?_⟩
  · rw [State.modCourse_course_ne _ hh, State.issued_course]
  · rw [State.issued_eq]
    rfl

/-- An instruction that has acted goes on behind it. -/
theorem State.issue_next {u : State} (hi : Issues s g w z v2) (hb : body (s.fetch g).1 = .next u) :
    s.issue g w sub z v2 body = (u.issued g).modCourse g fun c => { c with pc := c.pc + 8 } := by
  rw [State.issue_runs hi.running hi.fetched hi.assigned hi.legal hi.taken, hb]

/-- An instruction that changes its course by f completes with that change behind it. -/
theorem completes_onCourse {f : CourseState → CourseState} (hx : exec i s = .next (s.issue g w sub z v2 body))
    (hi : Issues s g w z v2) (hb : body (s.fetch g).1 = .next ((s.fetch g).1.modCourse g f)) :
    Completes i s fun t => OnlyCourse s t g ∧ ∃ b, t.course g =
      { f { s.course g with ibuf := b } with pc := (f { s.course g with ibuf := b }).pc + 8 } := by
  obtain ⟨b, hc⟩ := s.fetch_course g
  refine ⟨_, hx.trans (congrArg _ (State.issue_next hi hb)), issued_onlyCourse s g f, b, ?_⟩
  rw [State.modCourse_course, State.issued_course, State.modCourse_course, hc]

/-- An instruction whose own checks fail faults precisely. -/
theorem faults_of_body {code : BitVec 16} {x : DWord} (hx : exec i s = .next (s.issue g w sub z v2 body))
    (hi : Issues s g w z v2) (hb : body (s.fetch g).1 = .fault code (some x)) : Faults i s g code sub x := by
  refine hx.trans (congrArg _ ?_)
  rw [State.issue_runs hi.running hi.fetched hi.assigned hi.legal hi.taken, hb]
  rfl

end

/-! ### Bindings of rounding streams (R181, R182) -/

section
variable {s : State} {g : Course} {w : BitVec 56} {n : BitVec 16} {replica : Bool} {base : DWord}

theorem CourseState.binding_isSome {c : CourseState} : (c.binding n).isSome = true ↔ ∃ b ∈ c.bindings, b.stream = n := by
  simp [CourseState.binding]

@[simp] theorem State.fetch_bindings (s : State) (g : Course) : ((s.fetch g).1.course g).bindings = (s.course g).bindings :=
  s.fetch_course_eq g (·.bindings) fun _ => rfl

@[simp] theorem State.fetch_binding (s : State) (g : Course) (n : BitVec 16) :
    ((s.fetch g).1.course g).binding n = (s.course g).binding n := s.fetch_course_eq g (·.binding n) fun _ => rfl

@[simp] theorem State.fetch_newBinding (s : State) (g : Course) (n : BitVec 16) (replica : Bool) (base : DWord) :
    (s.fetch g).1.newBinding g n replica base = s.newBinding g n replica base := by
  obtain ⟨b, hb⟩ := s.fetch_fst g
  rw [hb]
  rfl

theorem State.bind_binds (hn : ((s.course g).binding n).isSome = false) (hl : (s.course g).bindings.length < 64) :
    s.bind g n replica base =
      .next (s.modCourse g fun c => { c with bindings := c.bindings ++ [s.newBinding g n replica base] }) := by
  simp [State.bind, hn, Nat.not_le.mpr hl]

theorem State.bind_bound (hn : ((s.course g).binding n).isSome = true) :
    s.bind g n replica base = .fault 0x0406 (some (n.setWidth 64)) := by
  simp [State.bind, hn]

theorem State.bind_full (hn : ((s.course g).binding n).isSome = false) (hl : 64 ≤ (s.course g).bindings.length) :
    s.bind g n replica base = .fault 0x0407 (some (n.setWidth 64)) := by
  simp [State.bind, hn, hl]

theorem State.unbind_releases (hn : ((s.course g).binding n).isSome = true) :
    s.unbind g n = .next (s.modCourse g fun c => { c with bindings := c.bindings.filter fun b => b.stream != n }) := by
  simp [State.unbind, hn]

theorem State.unbind_unbound (hn : ((s.course g).binding n).isSome = false) :
    s.unbind g n = .fault 0x0408 (some (n.setWidth 64)) := by
  simp [State.unbind, hn]

/-- The checks of rng.bind end in those of its binding, where the course runs v2 code. -/
theorem rngBind_body (hv : (s.course g).v1 = false) :
    (if ((s.fetch g).1.course g).v1 && w.getLsbD 50 then Act.fault 0x0401 (some 1)
      else (s.fetch g).1.bind g (rngStream w) (w.getLsbD 50) (((s.fetch g).1.course g).rs (fldS w 45))) =
      (s.fetch g).1.bind g (rngStream w) (w.getLsbD 50) ((s.course g).rs (fldS w 45)) := by
  rw [State.fetch_v1, hv, State.fetch_rs]
  rfl

/-- The checks of an rng.release whose unused fields are 0 end in those of its release. -/
theorem rngRelease_body (h0 : fld w 50 45 = 0) :
    (if !zeros w [(50, 45)] then Act.fault 0x0401 (some (badField w [(50, 50), (49, 45)]))
      else (s.fetch g).1.unbind g (rngStream w)) = (s.fetch g).1.unbind g (rngStream w) := by
  have hz : zeros w [(50, 45)] = true := by simp [zeros, h0]
  rw [hz]
  rfl

end

theorem rounding_streams : roundingStreams := by
  intro s g w hi c n key bound
  have isBound : bound ↔ (((s.fetch g).1.course g).binding n).isSome = true := by
    rw [State.fetch_binding, CourseState.binding_isSome]
  have unbound (h : ¬bound) : (((s.fetch g).1.course g).binding n).isSome = false :=
    Bool.eq_false_of_not_eq_true fun hb => h (isBound.mpr hb)
  refine ⟨fun hv => ⟨fun hb hl => ?_, fun hb => ?_, fun hb hl => ?_⟩, fun h0 => ⟨fun hb => ?_, fun hb => ?_⟩⟩
  · have hbind := State.bind_binds (replica := w.getLsbD 50) (base := c.rs (fldS w 45)) (unbound hb) (by rwa [State.fetch_bindings])
    rw [State.fetch_newBinding] at hbind
    refine completes_onCourse (f := fun c => { c with
      bindings := c.bindings ++ [s.newBinding g n (w.getLsbD 50) ((s.course g).rs (fldS w 45))] }) rfl hi ?_
    exact (rngBind_body hv).trans hbind
  · exact faults_of_body rfl hi ((rngBind_body hv).trans (State.bind_bound (isBound.mp hb)))
  · exact faults_of_body rfl hi ((rngBind_body hv).trans (State.bind_full (unbound hb) (by rwa [State.fetch_bindings])))
  · refine completes_onCourse (f := fun c => { c with bindings := c.bindings.filter fun x => x.stream != n }) rfl hi ?_
    exact (rngRelease_body h0).trans (State.unbind_releases (isBound.mp hb))
  · exact faults_of_body rfl hi ((rngRelease_body h0).trans (State.unbind_unbound (unbound hb)))

/-! ### A request for a self-test (R203, R211, R497) -/

section
variable {s : State} {g : Course} {w : BitVec 56} {u : BitVec 8} {pc : Addr} {te ntf : Bool} {tally : Fin 256}

/-- A self-test that is asked for joins those of its course, which is otherwise as it was. -/
theorem State.askTest_course : (s.askTest g u pc te tally ntf).course g =
    { s.course g with selfTests := (s.course g).selfTests ++ [⟨s.stamp, pc, u, te, tally, ntf⟩] } := by
  have ht (f : CourseState → CourseState) : (s.modCourse g f).tick.course g = f (s.course g) := s.modCourse_course g f
  unfold State.askTest
  dsimp only
  split
  · exact ht _
  · exact (State.modDie_course ..).trans (ht _)

theorem tallyField_unused (c : CourseState) (cls : BitVec 16) (a : Act) (ht : w.getLsbD 43 = false) (hn : fld w 51 44 ≠ 0) :
    tallyField c w cls a = .fault cls (some (BitVec.ofNat 64 (fld w 51 44))) := by
  rw [tallyField, ht]
  exact if_neg hn

end

theorem selfTest_instr : selfTestInstr := by
  intro s g w hi hv u unused
  have usable (h : ¬unused) : TallyUsable s g w := ⟨hv, fun ht => not_not.mp fun hn => h ⟨ht, hn⟩⟩
  refine ⟨fun hn hu => ?_, fun hn hu => ?_, fun ⟨ht, hn⟩ => ?_⟩
  · have hb : issueSelftest g w (s.fetch g).1 = .next ((s.fetch g).1.askTest g u ((s.fetch g).1.course g).pc (w.getLsbD 43)
        (tallyNum (fld w 51 44)) (w.getLsbD 42)) := (tallyField_usable (usable hn) ..).trans (if_neg hu)
    obtain ⟨b, hc⟩ := s.fetch_course g
    refine ⟨_, congrArg Host.Outcome.next (State.issue_next hi hb), ?_⟩
    beta_reduce
    rw [State.modCourse_course, State.issued_course, State.askTest_course, hc]
    exact ⟨rfl, _, rfl, rfl, rfl, rfl, rfl, rfl⟩
  · exact faults_of_body (body := issueSelftest g w) rfl hi ((tallyField_usable (usable hn) ..).trans (if_pos hu))
  · exact faults_of_body (body := issueSelftest g w) rfl hi (tallyField_unused _ _ _ ht hn)

/-- Settles O22: each instruction by how the checks of its stream, or of UNITS and TALLY, end. -/
theorem roundingAndSelfTest : Obligations.RoundingAndSelfTest := ⟨rounding_streams, selfTest_instr⟩

end Sys2Proof.Machine

/-! SUPPORT. EngineOperands: the checks at issue of the instructions of streams and walkers, of the fine-work unit, of gradient
reduction and of the parameter update, where they pass, and what enters the queues (R187, R219, R258, R260, R262, R274, R372, R380,
R387, R388). -/

namespace Sys2Proof.Machine

/-! ### Operands and addresses after a fetch (R199) -/

section
variable (s : State) (g : Course) (w : BitVec 56)

@[simp] theorem CourseState.fetch_sFld (k : Nat) : ((s.fetch g).1.course g).sFld w k = (s.course g).sFld w k :=
  s.fetch_course_eq g (·.sFld w k) fun _ => rfl

@[simp] theorem CourseState.fetch_aFld (k : Nat) : ((s.fetch g).1.course g).aFld w k = (s.course g).aFld w k :=
  s.fetch_course_eq g (·.aFld w k) fun _ => rfl

@[simp] theorem State.fetch_mmAddrs (d : Nat) (o : MmOp) : (s.fetch g).1.mmAddrs d o = s.mmAddrs d o := by
  simp only [State.mmAddrs, State.mmAddr, State.fetch_physOf]

@[simp] theorem State.fetch_maskOut (m : BitVec 8) : (s.fetch g).1.maskOut g m = s.maskOut g m := by
  obtain ⟨b, hb⟩ := s.fetch_fst g
  rw [hb]
  rfl

end

/-! ### How the checks pass (R203) -/

/-- The n bytes at address v of the course's map lie in near memory, at p, and v is aligned. -/
structure NearAt (s : State) (g : Course) (v n align p : Nat) : Prop where
  phys : s.physOf (g.val / 8) v = some p
  fits : p + n ≤ 0x8000000000
  near : p < 0x8000000000
  aligned : v % align = 0

section
variable {s t : State} {g : Course} {w : BitVec 56} {n v p align : Nat}

theorem NearAt.fetch (h : NearAt s g v n align p) : NearAt (s.fetch g).1 g v n align p :=
  ⟨by rw [State.fetch_physOf, h.phys], h.fits, h.near, h.aligned⟩

section
variable {k : StreamId}

theorem streamFld_eq_some (hk : (t.course g).sFld w 37 = k.val) : (t.course g).streamFld w = some k := by
  simp [CourseState.streamFld, hk]

theorem nearReg_eq_some (hv : (t.course g).aFld w 33 = v) (hn : NearAt t g v n align p) :
    t.nearReg g w n align = some p := by
  simp [State.nearReg, hv, hn.phys, nearEnd, hn.near, hn.fits, hn.aligned]

theorem issueStr_submits (mk : StreamId → EngineOp) (hk : (t.course g).sFld w 37 = k.val) :
    issueStr g w mk t = t.submit g w 2 (mk k) none := by
  rw [issueStr, streamFld_eq_some hk]

theorem issueStrAt_submits (mk : StreamId → Nat → EngineOp) (hk : (t.course g).sFld w 37 = k.val)
    (hv : (t.course g).aFld w 33 = v) (hn : NearAt t g v n align p) :
    issueStrAt g w n align mk t = t.submit g w 2 (mk k p) none := by
  rw [issueStrAt, streamFld_eq_some hk, nearReg_eq_some hv hn]

end

theorem issueFwuMm_submits {o : MmOp} {a b x d : Nat} (ho : (t.course g).mmOf w = o) (hd : (t.course g).mmDims w = true)
    (ha : (t.mmAddrs (g.val / 8) o).map (·.2) = [some a, some b, some x, some d]) :
    issueFwuMm g w t = t.submit g w 4 (.fwuMm { o with a := a, b := b, c := x, d := d }) none := by
  simp only [issueFwuMm, ho, hd, ha, Bool.not_true, Bool.false_eq_true, if_false]

section
variable {b a d : Nat}

theorem blockCount_eq_some (h1 : 1 ≤ b) (h2 : b ≤ 2 ^ 20) : blockCount b = some b := if_pos ⟨h1, h2⟩

theorem nearView_of_nearAt (h : NearAt t g v n align p) : t.nearView g v align = true := by
  simp [State.nearView, h.phys, nearEnd, h.near, h.aligned]

theorem withSlots_eq {act : Nat → Nat → Act} (h1 : 1 ≤ b) (h2 : b ≤ 2 ^ 20) (ha : v % 8 = 0)
    (hp : t.slice g v (280 * b) = some a) : t.withSlots g b v act = act b a := by
  simp only [State.withSlots, blockCount_eq_some h1 h2, State.slots, ha, if_true, hp]

theorem issueRedSend_submits (hb : (t.course g).sFld w 33 = b) (hd : (t.course g).sFld w 28 = d)
    (hv : (t.course g).aFld w 38 = v) (h1 : 1 ≤ b) (h2 : b ≤ 2 ^ 20) (h3 : d < 2 ^ 48) (ha : v % 8 = 0)
    (hp : t.slice g v (280 * b) = some a) (hn : NearAt t g d n 32 p) :
    issueRedSend g w t = t.submit g w 6 (.redSend a b d) none := by
  subst hb hd hv
  exact (withSlots_eq h1 h2 ha hp).trans (if_pos ⟨h3, nearView_of_nearAt hn⟩)

theorem issueRedAccum_submits (hb : (t.course g).sFld w 29 = b) (hd : (t.course g).aFld w 34 = d)
    (hv : (t.course g).aFld w 38 = v) (h1 : 1 ≤ b) (h2 : b ≤ 2 ^ 20) (ha : v % 8 = 0)
    (hp : t.slice g v (280 * b) = some a) (hn : NearAt t g d n 32 p) :
    issueRedAccum g w t = t.submit g w 6 (.redAccum a d b (w.getLsbD 28)) none := by
  subst hb hd hv
  exact (withSlots_eq h1 h2 ha hp).trans (if_pos (nearView_of_nearAt hn))

theorem issueRedRing_submits (hb : (t.course g).sFld w 33 = b) (hd : (t.course g).aFld w 38 = d) (h1 : 1 ≤ b)
    (h2 : b ≤ 2 ^ 20) (hf : fld w 32 31 < 3) (hn : NearAt t g d n 64 p) :
    issueRedRing g w t = t.submit g w 6 (.redRing d b (fld w 32 31)) none := by
  simp only [issueRedRing, hb, hd, blockCount_eq_some h1 h2, if_neg (Nat.not_le.mpr hf), nearView_of_nearAt hn, if_true]

end

theorem issueUpd_submits {m : BitVec 8} (second : Bool) (hv : (t.course g).aFld w 38 = v) (hn : NearAt t g v n 64 p)
    (hf : BitVec.ofNat 8 (fld w 37 30) = m) (hm : m ≠ 0) (ho : t.maskOut g m = false) :
    issueUpd second g w t = t.submit g w 7 (.updPass second p m) none := by
  have hm' : (m != 0) = true := bne_iff_ne.mpr hm
  simp only [issueUpd, hv, hn.phys, hf, guardAct, hn.aligned, nearEnd, hn.near, hm', ho, decide_true, Bool.and_self, Bool.not_false,
    if_true]

end

/-! ### What enters the queues -/

/-- Settles O24: each instruction by what its checks submit once it is fetched. -/
theorem engineInstructionsEnter : Obligations.EngineInstructionsEnter := by
  intro s g w c S A near enters
  have given := s.fetch_supplied g
  have hs := CourseState.fetch_sFld s g w
  have ha := CourseState.fetch_aFld s g w
  have nearAt {a n align p : Nat} : near a n align p → NearAt (s.fetch g).1 g a n align p :=
    fun ⟨hp, hf, hn, ha⟩ => NearAt.fetch ⟨hp, hf, hn, ha⟩
  have slice {v n a : Nat} (h : s.slice g v n = some a) : (s.fetch g).1.slice g v n = some a := by
    rwa [State.fetch_slice]
  refine ⟨fun hr n hn => ?_, fun hr hi a b x d hd hm => ?_,
    fun hr => ⟨fun hi h1 h2 h3 h4 a p hsl hp => ?_, fun hi h1 h2 h4 a p hsl hp => ?_, fun hi h1 h2 h3 p hp => ?_⟩,
    fun hr hi p hp => ?_⟩
  · have hk := (hs 37).trans hn
    refine ⟨fun hi p hp => ?_, fun hi => ?_, fun hi => ?_, fun hi p hp => ?_⟩
    · refine enters_of_submit rfl hi hr nofun given ?_ rfl
      exact issueStrAt_submits (fun n a => .strArm n a (w.getLsbD 32)) hk (ha 33) (nearAt hp)
    · refine enters_of_submit rfl hi hr nofun given ?_ rfl
      have hb := issueStr_submits (fun n => .strRearm n (((s.fetch g).1.course g).aFld w 33)) hk
      exact hb.trans (congrArg (fun v => State.submit _ g w 2 (.strRearm n v) none) (ha 33))
    · refine enters_of_submit rfl hi hr nofun given ?_ rfl
      exact issueStr_submits .strResume hk
    · refine enters_of_submit rfl hi hr nofun given ?_ rfl
      exact issueStrAt_submits (fun n a => .walkLoad n a (fld w 32 28 + 1)) hk (ha 33) (nearAt hp)
  · have ho : ((s.fetch g).1.course g).mmOf w = c.mmOf w := s.fetch_course_eq g (·.mmOf w) fun _ => rfl
    have hd' : ((s.fetch g).1.course g).mmDims w = true := (s.fetch_course_eq g (·.mmDims w) fun _ => rfl).trans hd
    exact enters_of_submit rfl hi hr nofun given (issueFwuMm_submits ho hd' (by rwa [State.fetch_mmAddrs])) rfl
  · exact enters_of_submit rfl hi hr nofun given
      (issueRedSend_submits (hs 33) (hs 28) (ha 38) h1 h2 h3 h4 (slice hsl) (nearAt hp)) rfl
  · exact enters_of_submit rfl hi hr nofun given
      (issueRedAccum_submits (hs 29) (ha 34) (ha 38) h1 h2 h4 (slice hsl) (nearAt hp)) rfl
  · exact enters_of_submit rfl hi hr nofun given (issueRedRing_submits (hs 33) (ha 38) h1 h2 h3 (nearAt hp)) rfl
  · intro m hm ho
    have hb (second : Bool) := issueUpd_submits second (ha 38) (nearAt hp) rfl hm (by rwa [State.fetch_maskOut])
    exact ⟨enters_of_submit rfl hi hr nofun given (hb false) rfl, enters_of_submit rfl hi hr nofun given (hb true) rfl⟩

end Sys2Proof.Machine

/-! SUPPORT. VectorOperands: the checks at issue of the instructions of the vector engine, where they pass, and what enters its
queue, with the rounding rows that a consumer is given (R163 to R165, R172, R175, R177, R183). -/

namespace Sys2Proof.Machine

/-! ### How the checks pass (R163 to R165, R172, R175, R177, R203) -/

section
variable {t : State} {g : Course} {w : BitVec 56} {d a b x e r : Nat}

theorem issueVecEl_submits (f : VecEl) (he : (t.course g).sFld w 21 = e)
    (hd : t.opnd g ((t.course g).aFld w 38) (4 * e) 4 = some d) (ha : t.opnd g ((t.course g).aFld w 34) (4 * e) 4 = some a)
    (hb : t.opnd g ((t.course g).aFld w 30) (4 * e) 4 = some b)
    (hx : (if f = .fma then t.opnd g ((t.course g).aFld w 26) (4 * e) 4 else some 0) = some x) :
    issueVecEl g w f t = t.submit g w 3 (.vecEl f d a b x e) none := by
  simp only [issueVecEl, he, hd, ha, hb, hx]

theorem issueVecCvt_rows {f : OutFmt} (hf : outFmtOf (fld w 33 31) = some f) (h32 : f ≠ .fp32) (hbs : f.isBS = false)
    (hm : fld w 30 29 ≤ 1) (hu : fld w 30 29 = 0 → fld w 20 16 = 0) (he : (t.course g).sFld w 21 = e)
    (hr : (t.course g).sFld w 16 = r) (hg : r < 65536) (hd : t.opnd g ((t.course g).aFld w 38) (f.size * e) f.size = some d)
    (ha : t.opnd g ((t.course g).aFld w 34) (4 * e) 4 = some a) :
    issueVecCvt g w t = t.withRows g (decide (fld w 30 29 = 1)) r e 0x0408 fun u rows =>
      u.submit g w 3 (.vecCvt d a f (decide (fld w 30 29 = 1)) (w.getLsbD 28) e) rows := by
  have hok : ¬(f = .fp32 ∨ f.isBS = true ∨ 1 < fld w 30 29 ∨ 65536 ≤ r ∨ fld w 30 29 = 0 ∧ fld w 20 16 ≠ 0) := by
    simp only [h32, hbs, Bool.false_eq_true, false_or]
    omega
  simp only [issueVecCvt, hf, he, hr, if_neg hok, hd, ha]

/-- The operands of a vec.padd with sP equal to p. -/
def paddOp (w : BitVec 56) (p : Nat) (f : OutFmt) (src dst : Nat) : PaddOp :=
  ⟨src, p % 2 ^ 32, fld w 28 21 + 1, p / 2 ^ 32, w.getLsbD 20, dst, f, decide (fld w 16 15 = 1), w.getLsbD 14, sext 7 (fld w 13 7)⟩

theorem issueVecPadd_rows {f : OutFmt} {p : Nat} (hf : outFmtOf (fld w 19 17) = some f)
    (hu : if w.getLsbD 20 then fld w 16 15 = 0 → fld w 6 2 = 0 else fld w 19 2 = 0) (hm : fld w 16 15 ≤ 1)
    (hp : (t.course g).sFld w 29 = p) (hr : (t.course g).sFld w 2 = r) (hg : w.getLsbD 20 = true → r < 65536)
    (hn : 1 ≤ fld w 28 21) (hs : p % 2 ^ 32 % 16 = 0) (h1 : 1 ≤ p / 2 ^ 32) (h2 : p / 2 ^ 32 ≤ 2 ^ 20)
    (hb : w.getLsbD 20 = true → f.isBS = true → p / 2 ^ 32 % 32 = 0)
    (ha : t.opnd g ((t.course g).aFld w 34) (fld w 28 21 * (p % 2 ^ 32) + 16 * (p / 2 ^ 32)) 16 = some a)
    (hd : t.opnd g ((t.course g).aFld w 38) (paddOp w p f ((t.course g).aFld w 34) ((t.course g).aFld w 38)).outBytes
      (if w.getLsbD 20 then f.size else 16) = some d) :
    issueVecPadd g w t = t.withRows g (w.getLsbD 20 && decide (fld w 16 15 = 1)) r (p / 2 ^ 32) 0x0408 fun u rows =>
      u.submit g w 3 (.vecPadd (paddOp w p f a d)) rows := by
  have hunused : (if w.getLsbD 20 then decide (fld w 16 15 = 0) && decide (fld w 6 2 ≠ 0) else decide (fld w 19 2 ≠ 0)) = false := by
    cases hc : w.getLsbD 20 <;> simp_all
  have hrng : (if w.getLsbD 20 then r else 0) < 65536 := by
    split
    · next hc => exact hg hc
    · decide
  have hok : ¬(false = true ∨ 1 < fld w 16 15 ∨ 65536 ≤ (if w.getLsbD 20 then r else 0) ∨ fld w 28 21 + 1 < 2 ∨
      p % 2 ^ 32 % 16 ≠ 0 ∨ p / 2 ^ 32 = 0 ∨ 2 ^ 20 < p / 2 ^ 32 ∨
      w.getLsbD 20 = true ∧ f.isBS = true ∧ p / 2 ^ 32 % 32 ≠ 0) := by
    rintro (h | h | h | h | h | h | h | ⟨hc, hf, h⟩)
    · cases h
    · omega
    · omega
    · omega
    · exact h hs
    · omega
    · omega
    · exact h (hb hc hf)
  simp only [paddOp] at hd ⊢
  simp only [issueVecPadd, hf, hp, hr, hunused, if_neg hok, Nat.add_sub_cancel, ha, hd]

theorem issueVecSum_submits {n p : Nat} (hn : (t.course g).sFld w 29 = n) (hp : (t.course g).sFld w 24 = p) (h1 : 1 ≤ n)
    (h2 : n < 2 ^ 32) (hs : p % 2 ^ 32 % 4 = 0) (h3 : 1 ≤ p / 2 ^ 32) (h4 : p / 2 ^ 32 ≤ 65536)
    (ha : t.opnd g ((t.course g).aFld w 34) ((p / 2 ^ 32 - 1) * (p % 2 ^ 32) + 4 * n) 4 = some a)
    (hd : t.opnd g ((t.course g).aFld w 38) (4 * (p / 2 ^ 32)) 4 = some d) :
    issueVecSum g w t = t.submit g w 3 (.vecSum d a n (p / 2 ^ 32) (p % 2 ^ 32) (w.getLsbD 23)) none := by
  have hok : ¬(n = 0 ∨ 2 ^ 32 ≤ n ∨ p % 2 ^ 32 % 4 ≠ 0 ∨ p / 2 ^ 32 = 0 ∨ 65536 < p / 2 ^ 32) := by omega
  simp only [issueVecSum, hn, hp, if_neg hok, ha, hd]

theorem issueVecFn_submits (hf : fld w 33 30 < 12) (he : (t.course g).sFld w 25 = e) (h1 : 1 ≤ e) (h2 : e ≤ 2 ^ 20)
    (ha : t.opnd g ((t.course g).aFld w 34) (4 * e) 4 = some a) (hd : t.opnd g ((t.course g).aFld w 38) (4 * e) 4 = some d) :
    issueVecFn g w t = t.submit g w 3 (.vecFn d a (fld w 33 30) e) none := by
  have hok : ¬(12 ≤ fld w 33 30 ∨ e = 0 ∨ 2 ^ 20 < e) := by omega
  simp only [issueVecFn, he, if_neg hok, ha, hd]

theorem issueVecQbw16_rows {nb z : Nat} (hz : (if w.getLsbD 29 then 16 else 4) = z) (hn : (t.course g).sFld w 19 = nb)
    (hr : (t.course g).sFld w 14 = r) (hu : w.getLsbD 28 = false → fld w 33 30 = 0) (hv : fld w 25 24 = 0 → fld w 18 14 = 0)
    (hk : fld w 27 26 ≤ 2) (hm : fld w 25 24 ≤ 1) (h1 : 1 ≤ nb) (h2 : nb ≤ 65536) (hg : r < 65536)
    (hx : (if w.getLsbD 28 then t.opnd g ((t.course g).aFld w 30) nb 1 else some 0) = some x)
    (hb : w.getLsbD 28 = true → ∀ b ∈ t.bytes x nb, b ≠ 0xFF)
    (ha : t.opnd g ((t.course g).aFld w 34) (64 * nb * z) z = some a)
    (hd : t.opnd g ((t.course g).aFld w 38) (280 * nb) 8 = some d) :
    issueVecQbw16 g w t = t.withRows g (decide (fld w 25 24 = 1)) r (64 * nb) 0x0408 fun u rows => u.submit g w 3
      (.vecQbw16 ⟨a, w.getLsbD 29, w.getLsbD 28, x, fld w 27 26, decide (fld w 25 24 = 1), d, nb⟩) rows := by
  have hunused : ((!w.getLsbD 28 && decide (fld w 33 30 ≠ 0)) || (decide (fld w 25 24 = 0) && decide (fld w 18 14 ≠ 0))) = false := by
    cases hc : w.getLsbD 28 <;> simp_all
  have hbad : (w.getLsbD 28 && (t.bytes x nb).any fun b => b == 0xFF) = false := by
    cases hc : w.getLsbD 28 with
    | false => rfl
    | true => simpa using hb hc
  have hok : ¬((false || false || decide (2 < fld w 27 26) || decide (1 < fld w 25 24) || decide (nb = 0) || decide (65536 < nb) ||
      decide (65536 ≤ r)) = true) := by
    simp only [Bool.or_eq_true, decide_eq_true_eq, Bool.false_eq_true, false_or]
    omega
  simp only [issueVecQbw16, hn, hr, hx, hunused, hbad, if_neg hok, hz, ha, hd]

theorem issueVecQidx_rows {f : IdxFmt} {p s q : Nat} (hf : idxFmtOf (fld w 29 27) = some f) (hp : (t.course g).sFld w 19 = p)
    (hs : (t.course g).sFld w 14 = s) (hr : (t.course g).sFld w 9 = r) (hm : fld w 25 24 ≤ 1) (h1 : p % 2 ^ 32 % 16 = 0)
    (h2 : p / 2 ^ 32 % 128 = 0) (h3 : p % 2 ^ 32 ≤ 2 ^ 20) (h4 : p / 2 ^ 32 ≤ 2 ^ 20)
    (h5 : s % (if w.getLsbD 26 then 280 else 4) = 0) (hg : r < 65536) (hu : fld w 25 24 = 0 → fld w 13 9 = 0)
    (ha : t.opnd g ((t.course g).aFld w 34)
      ((p % 2 ^ 32 - 1) * s + if w.getLsbD 26 then p / 2 ^ 32 / 64 * 280 else 4 * (p / 2 ^ 32)) (if w.getLsbD 26 then 8 else 4) = some a)
    (hd : t.opnd g ((t.course g).aFld w 38) (p % 2 ^ 32 / 16 * f.planes * (p / 2 ^ 32 / 64) * 128) 128 = some d)
    (hq : t.opnd g ((t.course g).aFld w 30) (p % 2 ^ 32 / 16 * (p / 2 ^ 32 / 128) * 16) 16 = some q) :
    issueVecQidx g w t = t.withRows g (decide (fld w 25 24 = 1)) r (p % 2 ^ 32 * (p / 2 ^ 32)) 0x0408 fun u rows =>
      u.submit g w 3
        (.vecQidx ⟨f, w.getLsbD 26, a, s, p % 2 ^ 32, p / 2 ^ 32, d, q, decide (fld w 25 24 = 1)⟩) rows := by
  have hok : ¬(1 < fld w 25 24 ∨ p % 2 ^ 32 % 16 ≠ 0 ∨ p / 2 ^ 32 % 128 ≠ 0 ∨ 2 ^ 20 < p % 2 ^ 32 ∨ 2 ^ 20 < p / 2 ^ 32 ∨
      s % (if w.getLsbD 26 then 280 else 4) ≠ 0 ∨ 65536 ≤ r ∨ fld w 25 24 = 0 ∧ fld w 13 9 ≠ 0) := by omega
  simp only [issueVecQidx, hf, hp, hs, hr, if_neg hok, ha, hd, hq]

end

/-! ### Operands after a fetch (R199) -/

section
variable (s : State) (g : Course)

@[simp] theorem State.fetch_opnd (v n align : Nat) : (s.fetch g).1.opnd g v n align = s.opnd g v n align := by
  simp only [State.opnd, State.fetch_slice]

@[simp] theorem State.fetch_bytes (a n : Nat) : (s.fetch g).1.bytes a n = s.bytes a n := by
  obtain ⟨b, hb⟩ := s.fetch_fst g
  rw [hb]
  exact beside_bytes _ s.wide s a n

end

/-! ### What enters the queue (R183, R204) -/

/-- A consumer of rounding rows whose checks pass enters with the rows it is given. -/
theorem enters_withRows {s : State} {g : Course} {w : BitVec 56} {q : QueueId} {i : Instr} {z : List (Nat × Nat)} {v2 : Bool}
    {cls code : BitVec 16} {body : State → Act} {op : EngineOp} {sr : Bool} {rng n : Nat} {r : Option Rows × List Binding}
    {p : BitVec 32 → Prop} (hx : exec i s = .next (s.issueEngine g w q z v2 cls body)) (hi : Issues s g w z v2)
    (hr : Room s g w q) (ho : ∀ n x o, op ≠ .queueWait n x o) (hd : drawn (s.course g) sr rng n = some r)
    (hb : body (s.fetch g).1 = (s.fetch g).1.withRows g sr rng n code fun u rows => u.submit g w q op rows)
    (hp : p ((s.course g).arr.turn op).progOpen) : Enters i s g w q op r p := by
  obtain ⟨u, hu, hk⟩ := withRows_supplied (s := (s.fetch g).1) (by rwa [drawn_fetch])
  exact enters_of_submit hx hi hr ho ((s.fetch_supplied g).trans hu) (hb.trans (hk ..)) hp

/-- Settles O25: each instruction by what its checks submit once it is fetched, with the rows of a consumer. -/
theorem vectorInstructionsEnter : Obligations.VectorInstructionsEnter := by
  intro s g w hr c S A enters entersWith
  have given := s.fetch_supplied g
  have hs := CourseState.fetch_sFld s g w
  have operand {k n align p : Nat} (h : s.opnd g (A k) n align = some p) :
      (s.fetch g).1.opnd g (((s.fetch g).1.course g).aFld w k) n align = some p := by
    rw [CourseState.fetch_aFld, State.fetch_opnd]
    exact h
  refine ⟨fun hi d a b hd ha hb => ?_, fun hi d a b x hd ha hb hx => ?_,
    fun hi f d a hf h32 hbs hm hg hu hd ha r hdraw => ?_, fun hi d a h1 h2 h3 h4 h5 ha hd => ?_,
    fun hi d a hf h1 h2 ha hd => ?_, fun hi f d a hf => ?_, fun hi a x d => ?_, fun hi f a d q hf => ?_⟩
  · have hbody (f : VecEl) (hf : f ≠ .fma) := issueVecEl_submits f (hs 21) (operand hd) (operand ha) (operand hb) (if_neg hf)
    exact ⟨enters_of_submit rfl hi hr nofun given (hbody .add nofun) rfl,
      enters_of_submit rfl hi hr nofun given (hbody .mul nofun) rfl,
      enters_of_submit rfl hi hr nofun given (hbody .max nofun) rfl,
      enters_of_submit rfl hi hr nofun given (hbody .min nofun) rfl⟩
  · exact enters_of_submit rfl hi hr nofun given
      (issueVecEl_submits .fma (hs 21) (operand hd) (operand ha) (operand hb) (operand hx)) rfl
  · exact enters_withRows rfl hi hr nofun hdraw
      (issueVecCvt_rows hf h32 hbs hm hu (hs 21) (hs 16) hg (operand hd) (operand ha)) rfl
  · exact enters_of_submit rfl hi hr nofun given
      (issueVecSum_submits (hs 29) (hs 24) h1 h2 h3 h4 h5 (operand ha) (operand hd)) rfl
  · exact enters_of_submit rfl hi hr nofun given (issueVecFn_submits hf (hs 25) h1 h2 (operand ha) (operand hd)) rfl
  · intro conv e o hu hm hg hn hst h1 h2 hb ha hd r hdraw
    exact enters_withRows rfl hi hr nofun hdraw
      (issueVecPadd_rows hf hu hm (hs 29) (hs 2) hg hn hst h1 h2 hb (operand ha) (operand hd)) rfl
  · intro part agreed z hu hv hk hm h1 h2 hg hx ha hd r hdraw
    have hxs : (if agreed then (s.fetch g).1.opnd g (((s.fetch g).1.course g).aFld w 30) (S 19) 1 else some 0) = some x := by
      cases hc : agreed with
      | false => exact congrArg some (hu hc).2.symm
      | true => exact operand (hx hc).1
    refine enters_withRows rfl hi hr nofun hdraw (issueVecQbw16_rows rfl (hs 19) (hs 14) (fun hc => (hu hc).1) hv hk hm h1 h2 hg hxs
      (fun hc => ?_) (operand ha) (operand hd)) rfl
    rw [State.fetch_bytes]
    exact (hx hc).2
  · intro bw n k hm h1 h2 h3 h4 h5 hg hu ha hd hq r hdraw
    exact enters_withRows rfl hi hr nofun hdraw
      (issueVecQidx_rows hf (hs 19) (hs 14) (hs 9) hm h1 h2 h3 h4 h5 hg hu (operand ha) (operand hd) (operand hq)) rfl

end Sys2Proof.Machine

/-! SUPPORT. EngineStarts: what an instruction at the head of its queue does once its engine can take it: it starts with its credits,
or presents the request for them (R186, R212, R213, R235, R474, R476). -/

namespace Sys2Proof.Machine

section
variable {s t u : State} {g : Course} {q : QueueId} {e : QEntry} {rest : List QEntry} {n : Nat} {src : CreditSrc}

/-! ### What letting the waits of a course end leaves (R213, R226) -/

/-- From s to t queues of course g may have lost entries at their head; the started instructions, the other courses, the memory and
the compute dies are as they were. -/
structure KeepsStarted (g : Course) (s t : State) : Prop where
  others : ∀ h, h ≠ g → t.course h = s.course h
  entries : ∀ q, ∃ k, ((t.course g).queue q).entries = ((s.course g).queue q).entries.drop k
  started : ∀ q, ((t.course g).queue q).started = ((s.course g).queue q).started
  mem : t.mem = s.mem
  cdies : t.cdies = s.cdies

theorem KeepsStarted.trans (h : KeepsStarted g s t) (k : KeepsStarted g t u) : KeepsStarted g s u where
  others c hc := (k.others c hc).trans (h.others c hc)
  entries q := by
    obtain ⟨a, ha⟩ := h.entries q
    obtain ⟨b, hb⟩ := k.entries q
    exact ⟨a + b, by rw [hb, ha, List.drop_drop]⟩
  started q := (k.started q).trans (h.started q)
  mem := k.mem.trans h.mem
  cdies := k.cdies.trans h.cdies

theorem Settles.keepsStarted (h : Settles g s t) : KeepsStarted g s t := by
  obtain ⟨hothers, hrest, -, hqueues⟩ := h
  refine ⟨hothers, fun q => ?_, fun q => (hqueues q).started, (congrArg State.mem hrest :), (congrArg State.cdies hrest :)⟩
  obtain ⟨⟨ws, hws, -⟩, -⟩ := hqueues q
  exact ⟨ws.length, by rw [hws, List.drop_left]⟩

/-- A change of course g that leaves its queues. -/
theorem State.modCourse_keepsStarted (s : State) {f : CourseState → CourseState} (hf : ∀ c, (f c).queues = c.queues) :
    KeepsStarted g s (s.modCourse g f) := by
  have hq (q : QueueId) : ((s.modCourse g f).course g).queue q = (s.course g).queue q := by
    rw [State.modCourse_course]
    exact congrArg (fun v : Vector QueueState 8 => v.get q) (hf _)
  exact ⟨fun _ hc => s.modCourse_course_ne hc f, fun q => ⟨0, by rw [hq]; rfl⟩, fun q => by rw [hq], rfl, rfl⟩

theorem CourseState.settleWait_queues (c : CourseState) : c.settleWait.queues = c.queues := by
  unfold CourseState.settleWait CourseState.endWait CourseState.ws
  repeat' split
  all_goals rfl

theorem State.settle_keepsStarted (s : State) (g : Course) : KeepsStarted g s (s.settle g) := by
  obtain ⟨t, ht, he⟩ := s.settle_eq g
  rw [he]
  have hw : KeepsStarted g t (t.modCourse g fun c => c.settleWait.settleWatches) :=
    t.modCourse_keepsStarted fun c => c.settleWait_queues
  exact (ht.keepsStarted.trans hw).trans (State.noteHead_settles _ g).keepsStarted

theorem Reports.keepsStarted (h : Reports s t) (g : Course) : KeepsStarted g s t := by
  obtain ⟨_, _, _, _, rfl⟩ := h
  exact ⟨fun _ _ => rfl, fun _ => ⟨0, rfl⟩, fun _ => rfl, rfl, rfl⟩

theorem State.checkWindow_keepsStarted (s : State) (g : Course) : KeepsStarted g s (s.checkWindow g) := by
  obtain ⟨l, v, h⟩ := s.checkWindow_reports g
  refine KeepsStarted.trans ?_ (h.keepsStarted g)
  exact s.modCourse_keepsStarted fun _ => rfl

/-! ### An instruction joins the started ones (R213, R235) -/

/-- An instruction as it starts with n credits. -/
def Started.fresh (e : QEntry) (n : Nat) (src : CreditSrc) : Started :=
  ⟨e, n, src, false, 0, false, false, false, 0, false, false, false, false⟩

/-- The queue once its head has started. -/
def QueueState.begun (y : QueueState) (e : QEntry) (n : Nat) (src : CreditSrc) : QueueState :=
  { y with entries := y.entries.tail, started := y.started ++ [.fresh e n src] }

theorem findStarted_eq_none {c : CourseState} (h : ∀ i ∈ (c.queue q).started, i.e.serial ≠ e.serial) :
    c.findStarted q e.serial = none :=
  List.find?_eq_none.mpr fun i hi => by simpa using h i hi

theorem CourseState.begin_of_new {c : CourseState} (h : c.findStarted q e.serial = none) (held : Bool) :
    c.begin q e held n src = c.modQueue q fun y => y.begun e n src := by
  rw [CourseState.begin, h]
  rfl

theorem Begun.keepsStarted {done : Bool} (h : Begun s t g q e rest n src done) (k : KeepsStarted g t u) :
    Begun s u g q e rest n src done := by
  obtain ⟨⟨a, ha⟩, hs, ho⟩ := h
  obtain ⟨b, hb⟩ := k.entries q
  exact ⟨⟨a + b, by rw [hb, ha, List.drop_drop]⟩, (k.started q).trans hs, fun c hc => (k.others c hc).trans (ho c hc)⟩

/-- From s to t no course other than g has changed, and queue q of course g has the same entries and the same started ones. -/
structure KeepsQueue (g : Course) (q : QueueId) (s t : State) : Prop where
  others : ∀ h, h ≠ g → t.course h = s.course h
  entries : ((t.course g).queue q).entries = ((s.course g).queue q).entries
  started : ((t.course g).queue q).started = ((s.course g).queue q).started

theorem KeepsQueue.refl (g : Course) (q : QueueId) (s : State) : KeepsQueue g q s s := ⟨fun _ _ => rfl, rfl, rfl⟩

theorem KeepsQueue.trans (h : KeepsQueue g q s t) (k : KeepsQueue g q t u) : KeepsQueue g q s u :=
  ⟨fun c hc => (k.others c hc).trans (h.others c hc), k.entries.trans h.entries, k.started.trans h.started⟩

theorem State.modQueue_keepsQueue (s : State) {f : QueueState → QueueState} (he : ∀ y, (f y).entries = y.entries)
    (hs : ∀ y, (f y).started = y.started) : KeepsQueue g q s (s.modCourse g fun c => c.modQueue q f) := by
  refine ⟨fun c hc => s.modCourse_course_ne hc _, ?_, ?_⟩
  · rw [State.modCourse_course, CourseState.modQueue_queue, he]
  · rw [State.modCourse_course, CourseState.modQueue_queue, hs]

/-- The head of a queue starts. -/
theorem KeepsQueue.begun (h : KeepsQueue g q s t) (he : ((s.course g).queue q).entries = e :: rest) :
    Begun s (t.modCourse g fun c => c.modQueue q fun y => y.begun e n src) g q e rest n src false := by
  refine ⟨⟨0, ?_⟩, ?_, fun c hc => (t.modCourse_course_ne hc _).trans (h.others c hc)⟩
  · rw [State.modCourse_course, CourseState.modQueue_queue, QueueState.begun, h.entries, he]
    rfl
  · rw [State.modCourse_course, CourseState.modQueue_queue, QueueState.begun, h.started]
    rfl

/-- The instruction that has just started is done, and it alone. -/
theorem Begun.instrDone (h : Begun s t g q e rest n src false)
    (hnew : ∀ i ∈ ((s.course g).queue q).started, i.e.serial ≠ e.serial) :
    Begun s (t.instrDone g q e.serial) g q e rest n src true := by
  obtain ⟨⟨k, hk⟩, hs, ho⟩ := h
  refine ⟨⟨k, ?_⟩, ?_, fun c hc => (t.modCourse_course_ne hc _).trans (ho c hc)⟩
  · rw [State.instrDone, State.modCourse_course, CourseState.modStarted, CourseState.modQueue_queue]
    exact hk
  · rw [State.instrDone, State.modCourse_course, CourseState.modStarted, CourseState.modQueue_queue]
    refine (congrArg (List.map _) hs).trans ?_
    rw [List.map_append, List.map_congr_left fun i hi => if_neg (hnew i hi), List.map_id']
    simp

/-! ### Leave (R235, R474, R476) -/

theorem State.leaveFor_eq (h : (s.course g).findStarted q e.serial = none) :
    s.leaveFor g q e = s.obtainLeave g q ((s.course g).need e.op) e.pc := by
  rw [State.leaveFor, CourseState.stillHeld, h]
  rfl

theorem State.obtainLeave_none {pc : Addr} : s.obtainLeave g q 0 pc = (s, some (0, .none)) := if_pos rfl

/-- A grant that is there is used up. -/
theorem State.obtainLeave_granted {need : Nat} {pc : Addr} (hn : need ≠ 0)
    (hg : ((s.course g).queue q).granted = some (n, src)) :
    ∃ t, KeepsQueue g q s t ∧ s.obtainLeave g q need pc = (t, some (n, src)) := by
  refine ⟨_, s.modQueue_keepsQueue (g := g) (q := q) (f := fun y => { y with granted := none, waitStamp := none, waitPhases := 0 })
    (fun _ => rfl) (fun _ => rfl), ?_⟩
  simp only [State.obtainLeave, if_neg hn, hg]

theorem State.obtainLeave_presents {need : Nat} {pc : Addr} (hn : need ≠ 0) (hg : ((s.course g).queue q).granted = none)
    (hh : (s.course g).hold = none) : s.obtainLeave g q need pc = (s.present g q need pc, none) := by
  simp only [State.obtainLeave, if_neg hn, hg, hh]

theorem State.present_requests {need : Nat} {pc : Addr} (hc : need ≤ s.dieCredits (courseCDie g))
    (hw : ((s.course g).queue q).waitStamp = none) : ((s.present g q need pc).course g).queue q =
      { (s.course g).queue q with waitStamp := some s.stamp, waitPhases := 0 } := by
  simp only [State.present, if_neg (Nat.not_lt.mpr hc), hw]
  rw [State.tick_course, State.modCourse_course, CourseState.modQueue_queue]

theorem State.present_halts {need : Nat} {pc : Addr} (hc : s.dieCredits (courseCDie g) < need) :
    s.present g q need pc = s.powerNeed g q pc := if_pos hc

theorem State.powerNeed_queue (s : State) (g : Course) (q : QueueId) (pc : Addr) :
    ((s.powerNeed g q pc).course g).queue q = { (s.course g).queue q with halt := .powerNeed } := by
  rw [State.powerNeed, (State.efirst_reports ..).course, (State.raiseInstr_reports ..).course, State.modCourse_course,
    CourseState.modQueue_queue]

theorem State.powerNeed_presents (s : State) (g : Course) (q : QueueId) (pc : Addr) :
    ∃ r, ((s.powerNeed g q pc).die (courseDie g)).presented = (s.die (courseDie g)).presented ++ [r] ∧ r.code = 0x0E02 ∧
      r.pc = pc := by
  obtain ⟨v, hv⟩ := State.raiseWith_presents
    (s.modCourse g fun c => c.modQueue q fun y => { y with halt := .powerNeed }) (courseDie g) _ none
  exact ⟨_, (congrArg DieState.presented (State.efirst_die ..)).trans hv, rfl, rfl⟩

/-! ### The head of a queue (R213, R235) -/

/-- The instruction of entry e is the next of queue q for its engine, which can take it; no started one has its issue number. -/
structure AtHead (s : State) (g : Course) (q : QueueId) (e : QEntry) : Prop where
  thaw : (s.course g).frozen q = false
  next : (s.course g).startNext q = some e
  fresh : ∀ i ∈ ((s.course g).queue q).started, i.e.serial ≠ e.serial
  accepted : s.accepts g e = true

theorem startNext_of_head {c : CourseState} (hh : (c.queue q).halt = .no) (he : (c.queue q).entries = e :: rest)
    (hr : c.arr.repoint = .none) : c.startNext q = some e := by
  simp only [CourseState.startNext, hh, he, hr, List.head?_cons, ite_self]

/-- The state with the counters of queue q counting (R112, R134, R160). -/
def State.ticked (s : State) (g : Course) (q : QueueId) : State := (waitCounters q).foldl (fun t o => t.startTicks (cr g o)) s

/-- The state once the instruction of entry e has joined the started ones, before it acts. -/
def State.starting (s : State) (g : Course) (q : QueueId) (e : QEntry) (n : Nat) (src : CreditSrc) : State :=
  (s.ticked g q).modCourse g fun c => c.modQueue q fun y => y.begun e n src

theorem State.ticked_keepsQueue (s : State) (g : Course) (q : QueueId) : KeepsQueue g q s (s.ticked g q) := by
  refine foldl_related (.refl g q) .trans (fun v o => ?_) _ s
  unfold State.startTicks
  split <;> exact ⟨fun _ _ => rfl, rfl, rfl⟩

theorem State.starting_begun (h : KeepsQueue g q s t) (he : ((s.course g).queue q).entries = e :: rest) :
    Begun s (t.starting g q e n src) g q e rest n src false := (h.trans (t.ticked_keepsQueue g q)).begun he

theorem KeepsQueue.findStarted (h : KeepsQueue g q s t) (k : Nat) :
    (t.course g).findStarted q k = (s.course g).findStarted q k := by
  rw [CourseState.findStarted, h.started, CourseState.findStarted]

/-- An instruction that is new starts, and does not start again. -/
theorem State.starting_eq (h : (s.course g).findStarted q e.serial = none) (held : Bool) :
    ((waitCounters q).foldl (fun t o => t.startTicks (cr g o)) (s.noteRepeat g q e)).modCourse g
      (fun c => c.begin q e held n src) = s.starting g q e n src := by
  have hrepeat : s.noteRepeat g q e = s := by
    unfold State.noteRepeat
    rw [h]
    split
    · next hsome => cases hsome
    · rfl
  have hticked : ((s.ticked g q).course g).findStarted q e.serial = none :=
    ((s.ticked_keepsQueue g q).findStarted e.serial).trans h
  rw [hrepeat]
  exact congrArg ((s.ticked g q).setCourse g) (CourseState.begin_of_new hticked held)

theorem instrStart_waits (h : AtHead s g q e) (hl : s.leaveFor g q e = (t, none)) : instrStart g q none s = t := by
  simp only [instrStart, h.thaw, h.next, h.accepted, hl, Bool.not_true, Bool.false_eq_true, if_false]

theorem instrStart_starts (h : AtHead s g q e) (hk : KeepsQueue g q s t) (hl : s.leaveFor g q e = (t, some (n, src)))
    (ha : (t.starting g q e n src).actStart g q e none = some u) :
    instrStart g q none s = ((u.strDone g q e).settle g).checkWindow g := by
  have hnew : (t.course g).findStarted q e.serial = none := (hk.findStarted e.serial).trans (findStarted_eq_none h.fresh)
  simp only [instrStart, h.thaw, h.next, h.accepted, hl, Bool.not_true, Bool.false_eq_true, if_false, State.starting_eq hnew, ha]

/-- What an instruction that acts comes to, once waits have ended behind it. -/
theorem instrStart_begins {done : Bool} (h : AtHead s g q e) (hk : KeepsQueue g q s t)
    (hl : s.leaveFor g q e = (t, some (n, src))) (ha : (t.starting g q e n src).actStart g q e none = some u) (hq : q ≠ 2)
    (hu : Begun s u g q e rest n src done) :
    Begun s (instrStart g q none s) g q e rest n src done ∧ (instrStart g q none s).mem = u.mem := by
  have hdone : u.strDone g q e = u := if_neg hq
  have hkeep := (u.settle_keepsStarted g).trans (State.checkWindow_keepsStarted _ g)
  rw [instrStart_starts h hk hl ha, hdone]
  exact ⟨hu.keepsStarted hkeep, hkeep.mem⟩

/-! ### What starts (R186, R213) -/

/-- A pass, a build or a drain does its work in later commands. -/
theorem actStart_later (h : (∃ o, e.op = .msnPass o) ∨ (∃ o, e.op = .tblBuild o) ∨ ∃ o, e.op = .drain o) :
    s.actStart g q e none = some s := by
  unfold State.actStart
  obtain ⟨o, ho⟩ | ⟨o, ho⟩ | ⟨o, ho⟩ := h
  all_goals
    rw [ho]
    rfl

section
variable {f : VecEl} {d a b x m : Nat}

theorem actStart_vecEl (h : e.op = .vecEl f d a b x m) :
    s.actStart g q e none = some ((s.runVecEl f d a b x m).instrDone g 3 e.serial) := by
  unfold State.actStart State.runVec
  rw [h]
  rfl

theorem beside_runVecEl (c : Vector CourseState 32) (w : SMap DWord) (s : State) :
    (s.beside c w).runVecEl f d a b x m = (s.runVecEl f d a b x m).beside c w := by
  have hread (v : Nat) : (s.beside c w).f32At v = s.f32At v := by
    unfold State.f32At State.rdN
    simp only [beside_bytes]
    rfl
  simp only [State.runVecEl, hread]
  exact beside_store c w s _ _

/-- The vector engine reads and writes no course, and computes the same whatever the courses hold. -/
theorem runVecEl_modCourse (s : State) (k : CourseState → CourseState) :
    ((s.modCourse g k).runVecEl f d a b x m).courses = (s.modCourse g k).courses ∧
      ((s.modCourse g k).runVecEl f d a b x m).mem = (s.runVecEl f d a b x m).mem := by
  have h := beside_runVecEl (f := f) (d := d) (a := a) (b := b) (x := x) (m := m) (s.modCourse g k).courses s.wide s
  exact ⟨(congrArg State.courses h :), (congrArg State.mem h :)⟩

end

theorem Begun.of_courses {done : Bool} (h : Begun s t g q e rest n src done) (hc : u.courses = t.courses) :
    Begun s u g q e rest n src done := by
  unfold Begun State.course at *
  rwa [hc]

/-! ### An fwu.mm is delivered (R186) -/

/-- The head of the FWU queue starts, and takes its place in the holding of the unit. -/
theorem fwuAccept_begins {v : CDie} {o : MmOp} (hh : ((s.course g).queue 4).halt = .no)
    (he : ((s.course g).queue 4).entries = e :: rest) (ho : e.op = .fwuMm o) (hv : s.unitOf (courseCDie g) = some v)
    (hd : s.dieRuns (cdieDie v) = true) (hw : (s.cdie v).fwuWaiting < 16) :
    Begun s (fwuAccept g s) g 4 e rest 0 .none false ∧
      ((fwuAccept g s).cdie v).fwuHeld = (s.cdie v).fwuHeld ++ [⟨g, e.serial, s.stamp, 0, 0, 0, none⟩] := by
  have haccept : fwuAccept g s = ((s.modCourse g fun c => c.modQueue 4 fun y => y.begun e 0 .none).modCDie v fun x =>
      { x with fwuHeld := x.fwuHeld ++ [⟨g, e.serial, s.stamp, 0, 0, 0, none⟩] }).tick := by
    simp only [fwuAccept, hh, he, ho, hv, hd, hw, decide_true, Bool.and_self, if_true, State.modCourse, CourseState.modQueue,
      QueueState.begun]
    rfl
  rw [haccept, State.tick_cdie, State.modCDie_cdie]
  exact ⟨((KeepsQueue.refl g 4 s).begun he).of_courses rfl, rfl⟩

end

/-- Settles O35: the leave of the head says whether it starts, presents its request or halts its queue; what starts acts by the
equation of its operation. -/
theorem instructionsStart : Obligations.InstructionsStart := by
  intro s g q e rest c y hruns hthaw hhalt he hfresh
  have hnew : c.findStarted q e.serial = none := findStarted_eq_none hfresh
  refine ⟨fun hacc hrep => ?_, fun u o hq ho hu hd hw => ?_⟩
  · have head : AtHead s g q e := ⟨hthaw, startNext_of_head hhalt he hrep, hfresh, hacc⟩
    have leave := State.leaveFor_eq hnew
    refine ⟨fun n src hq hn hg ho => ?_, fun hq ho => ?_, fun f d a b x n hq ho => ?_,
      fun hn hg hh hw => ⟨fun hc => ?_, fun hc => ?_⟩⟩
    · obtain ⟨t, hk, hl⟩ := State.obtainLeave_granted (pc := e.pc) hn hg
      have hact := actStart_later (s := t.starting g q e n src) (g := g) (q := q) (ho.imp_right .inl)
      exact ⟨_, ifCourse_runs hruns _, (instrStart_begins head hk (leave.trans hl) hact (by rintro rfl; simp at hq)
        (State.starting_begun hk he)).1⟩
    · have hl : s.leaveFor g q e = (s, some (0, .none)) := by
        obtain ⟨o, ho⟩ := ho
        rw [leave, ho]
        exact State.obtainLeave_none
      have hact := actStart_later (s := s.starting g q e 0 .none) (g := g) (q := q) (.inr (.inr ho))
      exact ⟨_, ifCourse_runs hruns _, (instrStart_begins head (.refl g q s) hl hact (by simp [hq])
        (State.starting_begun (.refl g q s) he)).1⟩
    · subst hq
      have hl : s.leaveFor g 3 e = (s, some (0, .none)) := by
        rw [leave, ho]
        exact State.obtainLeave_none
      obtain ⟨hcourses, hmem⟩ := runVecEl_modCourse (f := f) (d := d) (a := a) (b := b) (x := x) (m := n) (g := g) s
        fun c => c.modQueue 3 fun y => y.begun e 0 .none
      have hbegun := ((State.starting_begun (.refl g 3 s) he).of_courses hcourses).instrDone hfresh
      obtain ⟨hb, hm⟩ := instrStart_begins head (.refl g 3 s) hl (actStart_vecEl ho) (by decide) hbegun
      exact ⟨_, ifCourse_runs hruns _, hb, hm.trans hmem⟩
    · have hpresent := leave.trans (State.obtainLeave_presents hn hg hh)
      refine ⟨_, (ifCourse_runs hruns _).trans (congrArg _ (instrStart_waits head hpresent)), ?_⟩
      have hqueue := State.present_requests (pc := e.pc) hc hw
      exact ⟨(congrArg QueueState.waitStamp hqueue :), (congrArg QueueState.entries hqueue :),
        (congrArg QueueState.started hqueue :)⟩
    · have hpresent := leave.trans (State.obtainLeave_presents hn hg hh)
      rw [State.present_halts hc] at hpresent
      have hqueue := s.powerNeed_queue g q e.pc
      exact ⟨_, (ifCourse_runs hruns _).trans (congrArg _ (instrStart_waits head hpresent)),
        (congrArg QueueState.halt hqueue :), (congrArg QueueState.entries hqueue :), s.powerNeed_presents g q e.pc⟩
  · subst hq
    obtain ⟨hbegun, hheld⟩ := fwuAccept_begins hhalt he ho hu hd hw
    have hkeep := (fwuAccept g s).settle_keepsStarted g
    have htake : fwuTake g s = (fwuAccept g s).settle g := if_neg (Bool.not_eq_true _ ▸ hthaw)
    refine ⟨_, (ifCourse_runs hruns _).trans (congrArg _ htake), hbegun.keepsStarted hkeep, ?_⟩
    rw [State.cdie, hkeep.cdies]
    exact hheld

end Sys2Proof.Machine

/-! SUPPORT. ComputeForms: the instructions of formats R, I, A and of predicates, and the jumps, by the change that each makes to its
course (R200 to R208, R238). -/

namespace Sys2Proof.Machine

/-! ### Registers of a controller (R200) -/

theorem CourseState.wp_rp_ne (c : CourseState) {i j : Fin 8} (h : j ≠ i) (v : Bool) : (c.wp i v).rp j = c.rp j := by
  by_cases hi : i = 0 <;> by_cases hj : j = 0 <;> simp [CourseState.wp, CourseState.rp, hi, hj, vector_get_set_ne _ h]

/-- Settles O5: what each register reads after a write to it, and after a write to another. -/
theorem controllerRegisters : Obligations.ControllerRegisters := fun c =>
  ⟨c.rs_zero, c.rp_zero, c.ws_zero, c.wp_zero, fun _ v hi => ⟨c.ws_rs hi v, fun _ hj => c.ws_rs_ne hj v⟩,
    fun i v => ⟨c.wa_ra i v, fun _ hj => c.wa_ra_ne hj v⟩, fun _ v hi => ⟨c.wp_rp hi v, fun _ hj => c.wp_rp_ne hj v⟩⟩

theorem CourseState.ws_rs_eq (c : CourseState) (d : Fin 32) (v : DWord) : (c.ws d v).rs d = if d = 0 then 0 else v := by
  by_cases h : d = 0
  · simp [h]
  · rw [if_neg h, c.ws_rs h]

theorem CourseState.wp_rp_eq (c : CourseState) (d : Fin 8) (v : Bool) : (c.wp d v).rp d = if d = 0 then true else v := by
  by_cases h : d = 0
  · simp [h]
  · rw [if_neg h, c.wp_rp h]

/-! ### A register, the place of the controller and the instruction buffer change (R200) -/

section
variable {s t : State} {g : Course} {b : SMap IbufLine} {pc : Addr}

theorem setsS_of_course {d : Fin 32} {v : DWord} (ho : OnlyCourse s t g)
    (hc : t.course g = { ({ s.course g with ibuf := b }).ws d v with pc := pc }) : SetsS s t g d v pc := by
  refine ⟨ho, ?_, fun j hj => ?_, ?_, ?_⟩ <;> rw [hc]
  · exact CourseState.ws_rs_eq { s.course g with ibuf := b } d v
  · exact CourseState.ws_rs_ne { s.course g with ibuf := b } hj v
  · by_cases hd : d = 0 <;> simp [CourseState.ws, hd]

theorem setsA_of_course {d : Fin 16} {v : Addr} (ho : OnlyCourse s t g)
    (hc : t.course g = { ({ s.course g with ibuf := b }).wa d v with pc := pc }) : SetsA s t g d v pc := by
  refine ⟨ho, ?_, fun j hj => ?_, ?_, ?_⟩ <;> rw [hc]
  · exact CourseState.wa_ra { s.course g with ibuf := b } d v
  · exact CourseState.wa_ra_ne { s.course g with ibuf := b } hj v
  · rfl

theorem setsP_of_course {d : Fin 8} {v : Bool} (ho : OnlyCourse s t g)
    (hc : t.course g = { ({ s.course g with ibuf := b }).wp d v with pc := pc }) : SetsP s t g d v pc := by
  refine ⟨ho, ?_, fun j hj => ?_, ?_, ?_⟩ <;> rw [hc]
  · exact CourseState.wp_rp_eq { s.course g with ibuf := b } d v
  · exact CourseState.wp_rp_ne { s.course g with ibuf := b } hj v
  · by_cases hd : d = 0 <;> simp [CourseState.wp, hd]

theorem CourseState.ws_pc (c : CourseState) (d : Fin 32) (v : DWord) : (c.ws d v).pc = c.pc := by
  unfold CourseState.ws
  split <;> rfl

theorem CourseState.wp_pc (c : CourseState) (d : Fin 8) (v : Bool) : (c.wp d v).pc = c.pc := by
  unfold CourseState.wp
  split <;> rfl

end

/-! ### An instruction that writes one register (R203) -/

section
variable {s : State} {g : Course} {w : BitVec 56} {i : Instr} {z : List (Nat × Nat)} {v2 : Bool} {sub : BitVec 4}
  {body : State → Act}

theorem Completes.imp {p q : State → Prop} (h : Completes i s p) (hpq : ∀ t, p t → q t) : Completes i s q := by
  obtain ⟨t, hx, hp⟩ := h
  exact ⟨t, hx, hpq t hp⟩

theorem completes_setsS {d : Fin 32} {v : CourseState → DWord} (hx : exec i s = .next (s.issue g w sub z v2 body))
    (hi : Issues s g w z v2) (hb : body (s.fetch g).1 = .next ((s.fetch g).1.modCourse g fun c => c.ws d (v c)))
    (hv : ∀ b, v { s.course g with ibuf := b } = v (s.course g)) :
    Completes i s fun t => SetsS s t g d (v (s.course g)) (s.after g) :=
  (completes_onCourse hx hi hb).imp fun _ ⟨ho, b, hc⟩ =>
    setsS_of_course (b := b) ho (by rw [hc, hv, CourseState.ws_pc]; rfl)

theorem completes_setsA {d : Fin 16} {v : CourseState → Addr} (hx : exec i s = .next (s.issue g w sub z v2 body))
    (hi : Issues s g w z v2) (hb : body (s.fetch g).1 = .next ((s.fetch g).1.modCourse g fun c => c.wa d (v c)))
    (hv : ∀ b, v { s.course g with ibuf := b } = v (s.course g)) :
    Completes i s fun t => SetsA s t g d (v (s.course g)) (s.after g) :=
  (completes_onCourse hx hi hb).imp fun _ ⟨ho, b, hc⟩ => setsA_of_course (b := b) ho (by rw [hc, hv]; rfl)

theorem completes_setsP {d : Fin 8} {v : Bool} (hx : exec i s = .next (s.issue g w sub z v2 body))
    (hi : Issues s g w z v2) (hb : body (s.fetch g).1 = .next ((s.fetch g).1.modCourse g fun c => c.wp d v)) :
    Completes i s fun t => SetsP s t g d v (s.after g) :=
  (completes_onCourse hx hi hb).imp fun _ ⟨ho, b, hc⟩ =>
    setsP_of_course (b := b) ho (by rw [hc, CourseState.wp_pc]; rfl)

/-! ### Fields that must be 0 (R203 step 3) -/

theorem needZero_of_zero {a : Act} (h : ∀ f ∈ z, fld w f.1 f.2 = 0) : needZero w z a = a := by
  have : zeros w z = true := by simpa [zeros] using fun x y hf => h (x, y) hf
  simp [needZero, this]

theorem needZero_head {a : Act} {hi lo : Nat} (h : fld w hi lo ≠ 0) :
    needZero w ((hi, lo) :: z) a = .fault 0x0502 (some (BitVec.ofNat 64 (fld w hi lo))) := by
  simp [needZero, zeros, badField, h]

theorem needZero_second {a : Act} {hi lo hi' lo' : Nat} (h : fld w hi lo = 0) (h' : fld w hi' lo' ≠ 0) :
    needZero w [(hi, lo), (hi', lo')] a = .fault 0x0502 (some (BitVec.ofNat 64 (fld w hi' lo'))) := by
  simp [needZero, zeros, badField, h, h']

end

/-! ### Formats R and I (R206, R207) -/

section
variable {s : State} {g : Course} {w : BitVec 56} {i : Instr} {f : DWord → DWord → DWord} {z : List (Nat × Nat)} {v : DWord}

theorem execR_sets (hx : exec i s = .next (execR f g w s)) (hi : Issues s g w [(36, 0)] false)
    (hv : f ((s.course g).rs (fldS w 42)) ((s.course g).rs (fldS w 37)) = v) :
    Completes i s fun t => SetsS s t g (fldS w 47) v (s.after g) :=
  hv ▸ completes_setsS (v := fun c => f (c.rs (fldS w 42)) (c.rs (fldS w 37))) hx hi rfl fun _ => rfl

theorem execI_sets (hx : exec i s = .next (execI f z g w s)) (hi : Issues s g w [(41, 32)] false)
    (hz : ∀ f ∈ z, fld w f.1 f.2 = 0) (hv : f ((s.course g).rs (fldS w 42)) (imm64 w) = v) :
    Completes i s fun t => SetsS s t g (fldS w 47) v (s.after g) :=
  hv ▸ completes_setsS (v := fun c => f (c.rs (fldS w 42)) (imm64 w)) hx hi (needZero_of_zero hz) fun _ => rfl

end

theorem slt_eq_le_of_ne {a b : DWord} (h : a ≠ b) : a.slt b = decide (a.toInt ≤ b.toInt) := by
  have : a.toInt ≠ b.toInt := fun e => h (BitVec.eq_of_toInt_eq e)
  rw [BitVec.slt]
  exact decide_eq_decide.2 (by omega)

theorem ult_eq_le_of_ne {a b : DWord} (h : a ≠ b) : a.ult b = decide (a.toNat ≤ b.toNat) := by
  have : a.toNat ≠ b.toNat := fun e => h (BitVec.eq_of_toNat_eq e)
  rw [BitVec.ult]
  exact decide_eq_decide.2 (by omega)

/-- Settles O6: each instruction writes the value of its operator, and where the two operands of a minimum or maximum are equal the
two readings of the comparison pick equal values. -/
theorem registerFormResults : Obligations.RegisterFormResults := by
  intro s g w hi a b gives
  have least {x y : DWord} (hn : x = y ↔ a = b) : (if a.slt b then x else y) = if a.toInt ≤ b.toInt then x else y := by
    by_cases h : a = b
    · simp [hn.2 h]
    · simp [slt_eq_le_of_ne h]
  have leastU {x y : DWord} (hn : x = y ↔ a = b) : (if a.ult b then x else y) = if a.toNat ≤ b.toNat then x else y := by
    by_cases h : a = b
    · simp [hn.2 h]
    · simp [ult_eq_le_of_ne h]
  exact ⟨execR_sets rfl hi rfl, execR_sets rfl hi rfl, execR_sets rfl hi rfl, execR_sets rfl hi rfl, execR_sets rfl hi rfl,
    execR_sets rfl hi rfl, execR_sets rfl hi rfl, execR_sets rfl hi rfl, execR_sets rfl hi (BitVec.eq_of_toNat_eq (by simp; rfl)),
    execR_sets rfl hi rfl, execR_sets rfl hi (least Iff.rfl), execR_sets rfl hi (least eq_comm),
    execR_sets rfl hi (leastU Iff.rfl), execR_sets rfl hi (leastU eq_comm)⟩

end Sys2Proof.Machine

namespace Sys2Proof.Machine

/-! ### The immediate of an instruction (R206) -/

section
variable (w : BitVec 56)

theorem sext_fld_eq_toInt : sext 32 (fld w 31 0) = (imm64 w).toInt := by
  have hf : fld w 31 0 = (w.setWidth 32).toNat := by simp [fld]
  rw [imm64, BitVec.toInt_signExtend_of_le (by decide), BitVec.toInt_eq_toNat_cond, hf, sext]
  split <;> split <;> omega

theorem imm64_eq_ofInt : imm64 w = BitVec.ofInt 64 (sext 32 (fld w 31 0)) := by
  rw [sext_fld_eq_toInt, BitVec.ofInt_toInt]

theorem imm64_toNat_mod : (imm64 w).toNat % 2 ^ 32 = fld w 31 0 := by
  have hf : fld w 31 0 = (w.setWidth 32).toNat := by simp [fld]
  rw [hf, imm64, BitVec.toNat_signExtend, BitVec.toNat_setWidth_of_le (by decide)]
  have := (w.setWidth 32).isLt
  split <;> omega

theorem shamt_imm64 : shamt (imm64 w) = fld w 5 0 := by
  have hm := imm64_toNat_mod w
  simp only [fld, Nat.pow_zero, Nat.div_one] at hm ⊢
  unfold shamt
  omega

theorem luiValue_imm64 (a : DWord) : luiValue a (imm64 w) = BitVec.ofNat 64 (fld w 31 0 * 2 ^ 32) ||| (a &&& 0xFFFFFFFF#64) := by
  have hs : imm64 w <<< 32 = BitVec.ofNat 64 (fld w 31 0 * 2 ^ 32) := by
    apply BitVec.eq_of_toNat_eq
    have hm := imm64_toNat_mod w
    rw [BitVec.toNat_shiftLeft, BitVec.toNat_ofNat, Nat.shiftLeft_eq]
    omega
  rw [luiValue, hs]
  rfl

end

/-- Settles O7: the immediate is sign-extended, a shift takes its six lowest bits, and lui its 32 lowest. -/
theorem immediateFormResults : Obligations.ImmediateFormResults := by
  intro s g w hi a x n gives
  have plain {f : DWord → DWord → DWord} {c : Instr} (hx : exec c s = .next (execI f [] g w s)) : gives c (f a x) :=
    execI_sets hx hi (by simp) (by rw [imm64_eq_ofInt])
  have hl := luiValue_imm64 w a
  have shifts (h : fld w 31 6 = 0) {f : DWord → Nat → DWord} {c : Instr}
      (hx : exec c s = .next (execI (fun a b => f a (shamt b)) [(31, 6)] g w s)) : gives c (f a n) :=
    execI_sets hx hi (by simpa using h) (by rw [shamt_imm64])
  exact ⟨plain rfl, plain rfl, plain rfl, plain rfl,
    fun h => ⟨shifts h (f := (· <<< ·)) rfl, shifts h (f := (· >>> ·)) rfl, shifts h (f := BitVec.sshiftRight) rfl⟩,
    fun h => execI_sets rfl hi (by simpa using h) (imm64_eq_ofInt w), execI_sets rfl hi (by simp) hl⟩

/-! ### Format A (R206, R207) -/

/-- Settles O8: each instruction writes its address register or its s register; an address is cut to 48 bits. -/
theorem addressFormResults : Obligations.AddressFormResults := by
  intro s g w hi c x
  refine ⟨fun h h' => ?_, fun h => ?_, fun h => ?_, fun h h' => ?_⟩
  · exact completes_setsA (v := fun c => (c.rs (fldS w 38)).setWidth 48) rfl hi (needZero_of_zero (by simp [h, h'])) fun _ => rfl
  · have hv : BitVec.ofInt 48 ((c.ra (fldA w 43)).toNat + x) = c.effAddr w := dataAddr_eq_effAddr s g w
    exact hv ▸ completes_setsA (v := fun c => c.effAddr w) rfl hi (needZero_of_zero (by simpa using h)) fun _ => rfl
  · have hv : BitVec.ofNat 48 ((c.ra (fldA w 43)).toNat + (c.rs (fldS w 38)).toNat) =
        c.ra (fldA w 43) + (c.rs (fldS w 38)).setWidth 48 := by
      apply BitVec.eq_of_toNat_eq
      simp
    exact hv ▸ completes_setsA (v := fun c => c.ra (fldA w 43) + (c.rs (fldS w 38)).setWidth 48) rfl hi
      (needZero_of_zero (by simpa using h)) fun _ => rfl
  · have hv : BitVec.ofNat 64 (c.ra (fldA w 43)).toNat = (c.ra (fldA w 43)).setWidth 64 := BitVec.ofNat_toNat ..
    exact hv ▸ completes_setsS (v := fun c => (c.ra (fldA w 43)).setWidth 64) rfl hi
      (needZero_of_zero (by simp [h, h'])) fun _ => rfl

/-! ### Predicates (R207, R208) -/

@[simp] theorem State.fetch_rp (s : State) (g : Course) (i : Fin 8) : ((s.fetch g).1.course g).rp i = (s.course g).rp i :=
  s.fetch_course_eq g (·.rp i) fun _ => rfl

theorem compareCC_values (a b : DWord) :
    compareCC 0 a b = some (decide (a = b)) ∧ compareCC 1 a b = some (decide (a ≠ b)) ∧
    compareCC 2 a b = some (decide (a.toInt < b.toInt)) ∧ compareCC 3 a b = some (decide (b.toInt ≤ a.toInt)) ∧
    compareCC 4 a b = some (decide (a.toNat < b.toNat)) ∧ compareCC 5 a b = some (decide (b.toNat ≤ a.toNat)) := by
  refine ⟨rfl, ?_, rfl, ?_, rfl, ?_⟩ <;> refine congrArg some ?_
  · simp [bne]; rfl
  · simp [BitVec.slt, ← decide_not]
  · simp [BitVec.ult, ← decide_not]

theorem compareCC_reserved {a b : DWord} {cc : Nat} (h : 6 ≤ cc) : compareCC cc a b = none := by
  obtain ⟨k, rfl⟩ := Nat.exists_eq_add_of_le' h
  rfl

theorem logicFN_reserved {a b : Bool} {fn : Nat} (h : 4 ≤ fn) : logicFN fn a b = none := by
  obtain ⟨k, rfl⟩ := Nat.exists_eq_add_of_le' h
  rfl

section
variable {s : State} {g : Course} {w : BitVec 56} {i : Instr} {z : List (Nat × Nat)} {b : CourseState → DWord} {v : Bool}

theorem execC_sets (hx : exec i s = .next (execC z b g w s)) (hi : Issues s g w [(35, 32)] false)
    (hz : ∀ f ∈ z, fld w f.1 f.2 = 0) (hb : b ((s.fetch g).1.course g) = b (s.course g))
    (hv : compareCC (fld w 48 46) ((s.course g).rs (fldS w 41)) (b (s.course g)) = some v) :
    Completes i s fun t => SetsP s t g (fldP w 49) v (s.after g) := by
  refine completes_setsP hx hi ?_
  rw [needZero_of_zero hz, State.fetch_rs, hb, hv]
  rfl

theorem execC_reserved (hx : exec i s = .next (execC z b g w s)) (hi : Issues s g w [(35, 32)] false)
    (hz : ∀ f ∈ z, fld w f.1 f.2 = 0) (hc : 6 ≤ fld w 48 46) :
    Faults i s g 0x0502 0x8 (BitVec.ofNat 64 (fld w 48 46)) :=
  faults_of_body hx hi (by rw [needZero_of_zero hz, compareCC_reserved hc])

theorem plog_sets (hi : Issues s g w [(39, 0)] false)
    (hv : logicFN (fld w 48 46) ((s.course g).rp (fldP w 43)) ((s.course g).rp (fldP w 40)) = some v) :
    Completes (.plog g w) s fun t => SetsP s t g (fldP w 49) v (s.after g) := by
  refine completes_setsP rfl hi ?_
  rw [State.fetch_rp, State.fetch_rp, hv]
  rfl

end

/-- Settles O9: each value of CC and FN by the value of the comparison or function that it names, and none for the reserved ones. -/
theorem predicateResults : Obligations.PredicateResults := by
  intro s g w c compares faults
  refine ⟨fun hi => ?_, fun hi => ⟨fun hr => ?_, fun h => ?_, fun h => ?_, fun h => ?_, fun h => ?_⟩⟩
  · have value (i : Instr) (a b : DWord) (hc : ∀ v, compareCC (fld w 48 46) a b = some v →
        Completes i s fun t => SetsP s t g (fldP w 49) v (s.after g)) : compares i a b := by
      obtain ⟨h0, h1, h2, h3, h4, h5⟩ := compareCC_values a b
      intro v hv
      refine hc v ?_
      split at hv <;> simp_all only
    refine ⟨fun hz => value _ _ _ fun v hv => ?_, fun hz => value _ _ _ fun v hv => ?_, fun hr => ⟨fun hz => ?_, fun hz => ?_⟩⟩
    · exact execC_sets (z := [(31, 0)]) (b := fun c => c.rs (fldS w 36)) rfl hi (by simpa using hz) (State.fetch_rs ..) hv
    · exact execC_sets (z := [(40, 36)]) (b := fun _ => imm64 w) rfl hi (by simpa using hz) rfl (imm64_eq_ofInt w ▸ hv)
    · exact execC_reserved (z := [(31, 0)]) rfl hi (by simpa using hz) hr
    · exact execC_reserved (z := [(40, 36)]) rfl hi (by simpa using hz) hr
  · exact faults_of_body rfl hi (by rw [logicFN_reserved hr])
  all_goals exact plog_sets hi (by rw [h]; rfl)

end Sys2Proof.Machine

namespace Sys2Proof.Machine

/-! ### Jumps and control (R201, R207, R238) -/

section
variable {s : State} {g : Course} {w : BitVec 56} {i : Instr} {z : List (Nat × Nat)} {v2 : Bool} {sub : BitVec 4}
  {body : State → Act} {pc : Addr}

theorem completes_goto {f : CourseState → CourseState} (hx : exec i s = .next (s.issue g w sub z v2 body))
    (hi : Issues s g w z v2) (hb : body (s.fetch g).1 = .goto ((s.fetch g).1.modCourse g f) pc) :
    Completes i s fun t => OnlyCourse s t g ∧ ∃ b, t.course g = { f { s.course g with ibuf := b } with pc := pc } := by
  obtain ⟨b, hc⟩ := s.fetch_fst g
  have hrun := State.issue_runs (sub := sub) (body := body) hi.running hi.fetched hi.assigned hi.legal hi.taken
  rw [hb, hc, State.modCourse_modCourse] at hrun
  dsimp only at hrun
  rw [State.issued_modCourse, State.modCourse_modCourse] at hrun
  refine ⟨_, hx.trans (congrArg _ hrun), ⟨fun h hh => ?_, rfl, ?_⟩, b, ?_⟩
  · rw [State.modCourse_course_ne _ hh, State.issued_course]
  · rw [State.issued_eq]
    rfl
  · rw [State.modCourse_course, State.issued_course]

/-- A jump leaves the address after it in its link register. -/
theorem completes_jump {d : Fin 32} (hx : exec i s = .next (s.issue g w sub z v2 body)) (hi : Issues s g w z v2)
    (hb : body (s.fetch g).1 = .goto ((s.fetch g).1.modCourse g fun c => c.link d) pc) :
    Completes i s fun t => SetsS s t g d (BitVec.ofNat 64 (s.after g).toNat) pc :=
  (completes_goto hx hi hb).imp fun _ ⟨ho, b, hc⟩ =>
    setsS_of_course (b := b) ho (by rw [hc, CourseState.link, BitVec.ofNat_toNat]; rfl)

theorem jump_target (w : BitVec 56) (pc : Addr) :
    pc + 8 * (imm64 w).setWidth 48 = BitVec.ofInt 48 (pc.toNat + 8 * sext 32 (fld w 31 0)) := by
  rw [BitVec.ofInt_add, BitVec.ofInt_natCast, BitVec.ofNat_toNat, BitVec.setWidth_eq, BitVec.ofInt_mul, sext_fld_eq_toInt,
    ← BitVec.signExtend_eq_setWidth_of_le _ (by decide)]
  rfl

theorem State.fetch_reg64 (s : State) (g : Course) (o : Nat) : (s.fetch g).1.reg64 o = s.reg64 o := by
  obtain ⟨b, hb⟩ := s.fetch_fst g
  rw [hb, State.modCourse_reg64]

end

/-- Settles O10: a jump links and goes to its target, the other instructions change one part of the controller's state. -/
theorem jumpAndControlResults : Obligations.JumpAndControlResults := by
  intro s g w c link target
  have hpc : ((s.fetch g).1.course g).pc = c.pc := s.fetch_course_eq g (·.pc) fun _ => rfl
  refine ⟨fun hi => ⟨fun hz => ?_, fun hz ht => ?_, fun hz ht => ?_⟩, fun hi => ⟨?_, ?_, ?_⟩⟩
  · refine completes_jump rfl hi ?_
    rw [needZero_of_zero (by simpa using hz), hpc, jump_target]
  · refine completes_jump rfl hi ?_
    rw [needZero_of_zero (by simpa using hz), State.fetch_rs]
    exact if_pos ht
  · refine faults_of_body rfl hi ?_
    rw [needZero_of_zero (by simpa using hz), State.fetch_rs]
    exact if_neg ht
  · refine completes_goto (f := fun c => { c with inTrap := false }) rfl hi ?_
    rw [State.fetch_reg64]
  · exact completes_onCourse (f := fun c => { c with ctl := .halted }) rfl hi rfl
  · obtain ⟨b, hb⟩ := s.fetch_fst g
    refine completes_onCourse (f := id) rfl hi ?_
    rw [State.modCourse]
    exact congrArg Act.next (State.setCourse_self _ g).symm

/-! ### Fields that an instruction does not use, and brk (R203, R207, R237) -/

theorem unused_fields_fault : unusedFields := by
  intro _ _ _ _
  refine ⟨fun hi => ⟨fun h => ⟨?_, ?_, ?_⟩, fun h => ⟨?_, ?_⟩, fun h => ?_⟩,
    fun hi => ⟨fun h => ?_, fun h h' => ?second, fun h => ?_, fun h => ?_, fun h => ?_, fun h h' => ?second'⟩,
    fun hi => ⟨fun h => ?_, fun h => ?_⟩⟩
  case second | second' => exact faults_of_body rfl hi (needZero_second h h')
  all_goals exact faults_of_body rfl hi (needZero_head h)

theorem brk_faults : breakFaults := fun _ _ _ hi =>
  congrArg (Host.Outcome.next : State → Out) (State.issue_runs hi.running hi.fetched hi.assigned hi.legal hi.taken)

/-- Settles O14: the first field of its list that is not 0 is the one that an instruction names. -/
theorem operandAndBreakFaults : Obligations.OperandAndBreakFaults := ⟨unused_fields_fault, brk_faults⟩

/-! ### The words that a course issues (R198, R199, R202, R203) -/

theorem execM_issues {i : Instr} {s : State} {g : Course} {w : BitVec 56} {n : Nat} {act : State → Target → Addr → Act}
    (hx : exec i s = .next (execM n act g w s)) : ∃ body, exec i s = .next (s.issue g w 0x8 [(42, 32)] false body) := ⟨_, hx⟩

/-- Every instruction of a course is issued, and `wordOf` gives the arguments. -/
theorem exec_of_wordOf {i : Instr} {g : Course} {w : BitVec 56} {z : List (Nat × Nat)} {v2 : Bool} {sub : BitVec 4} (s : State)
    (h : wordOf i = some (g, w, z, v2, sub)) : ∃ body, exec i s = .next (s.issue g w sub z v2 body) := by
  cases i
  case ld | ldw | st | stw =>
    cases h
    exact execM_issues rfl
  all_goals cases h <;> exact ⟨_, rfl⟩

section
variable {s : State} {g : Course} {w : BitVec 56} {i : Instr} {z : List (Nat × Nat)} {v2 : Bool}

/-- A word with GN set and GP 0, with a bit set that is marked 0, or of an instruction that Iscon v1 lacks (R203 step 1, R241). -/
theorem illegal_of (h : (w.getLsbD 55 = true ∧ fld w 54 52 = 0) ∨ (∃ f ∈ z, fld w f.1 f.2 ≠ 0) ∨
    (v2 = true ∧ (s.course g).v1 = true)) : s.illegal g w z v2 = true := by
  have hz : zeros w z = false ↔ ∃ f ∈ z, fld w f.1 f.2 ≠ 0 := by simp [zeros]
  rcases h with ⟨hn, hp⟩ | h | ⟨hv, h1⟩
  · simp [State.illegal, hn, hp]
  · simp [State.illegal, hz.2 h]
  · simp [State.illegal, hv, h1]

theorem not_issuing_of_held (h : (s.course g).ctl ≠ .running ∨ (s.course g).wait ≠ none ∨ (s.course g).stalled ≠ none) :
    s.issuing g = false := by
  by_contra hr
  simp only [State.issuing, Bool.not_eq_false, Bool.and_eq_true, decide_eq_true_eq, Option.isNone_iff_eq_none] at hr
  obtain ⟨⟨⟨hc, hw⟩, hs⟩, -⟩ := hr
  exact h.elim (· hc) (·.elim (· hw) (· hs))

end

theorem false_guard_goes_on : falseGuard := by
  intro i s g w z v2 sub h hr hf hn hl hg
  obtain ⟨body, hx⟩ := exec_of_wordOf s h
  obtain ⟨b, hb⟩ := s.fetch_course g
  have hs := State.issue_skips (sub := sub) (body := body) hr hf hn hl hg
  have ho := issued_onlyCourse s g id
  rw [show (s.fetch g).1.modCourse g id = (s.fetch g).1 from State.setCourse_self _ g] at ho
  refine ⟨_, hx.trans (congrArg _ hs), ho, b, ?_⟩
  rw [State.modCourse_course, State.issued_course, hb]
  rfl

theorem held_issues_nothing : heldIssueNothing := by
  intro i s g w z v2 sub h hheld
  obtain ⟨body, hx⟩ := exec_of_wordOf s h
  exact hx.trans (congrArg _ (State.issue_waits (not_issuing_of_held hheld)))

/-- Settles O12: every instruction is issued, and issuing tests the controller's state first and the guard last. -/
theorem nothingIssues : Obligations.NothingIssues := ⟨false_guard_goes_on, held_issues_nothing⟩

theorem decoding_faults : decodeFaults := by
  intro i s g w z v2 sub h hr u
  obtain ⟨body, hx⟩ := exec_of_wordOf s h
  refine ⟨fun hf hn => ?_, fun hf hn hl => ?_, fun hf => ?_⟩ <;> refine hx.trans (congrArg _ ?_)
  · exact State.issue_reserved hr hf hn
  · exact State.issue_illegal hr hf hn (illegal_of hl)
  · exact State.issue_unfetched hr hf

/-! ### What a fetch reads (R199) -/

section
variable {s : State} {g : Course} {a : Nat}

theorem lineAt_of_empty {c : CourseState} (h : c.ibuf = []) : c.lineAt = none := by
  rw [CourseState.lineAt, h]
  rfl

/-- A fetch without a hit reads near memory and buffers the line of PC. -/
theorem fetch_of_miss (hp : s.physOf (g.val / 8) (s.course g).pc.toNat = some a) (hl : (s.course g).lineAt = none) :
    let pc := (s.course g).pc.toNat
    let line : IbufLine := ⟨pc / 65536, s.lineMask (a - a % 256), s.bytes (a - a % 256) 256⟩
    s.fetch g = if s.nearOk a 8 then
      (s.modCourse g fun c => { c with ibuf := SMap.ins c.ibuf (pc / 256 % 256) line }, !line.poison.testBit (pc / 64 % 4))
      else (s, false) := by
  unfold State.fetch
  simp only [hp, hl]
  cases s.nearOk a 8 <;> rfl

theorem lineMask_testBit (s : State) (a : Nat) {i : Nat} (h : i < 4) : (s.lineMask a).testBit i = s.dirty (a + 64 * i) 64 := by
  have hlen : i < ((List.range 4).map fun i => s.dirty (a + 64 * i) 64).length := by simpa using h
  rw [State.lineMask, maskOf_testBit id false _ i hlen, List.getD_eq_getElem _ _ hlen]
  simp

theorem fetch_reads : fetchReads := by
  intro s g a hp
  refine ⟨fun hb => ?_, fun v hv m => ?_⟩
  · have hl := lineAt_of_empty hb
    rw [fetch_of_miss hp hl]
    refine ⟨?_, fun hn => ?_, ?_⟩
    · cases hn : s.nearOk a 8 with
      | false => simp
      | true => simp [lineMask_testBit s _ (Nat.mod_lt _ (by decide : 0 < 4))]
    · rw [if_pos hn]
      dsimp only
      rw [State.modCourse_course]
      exact ⟨_, SMap.find_ins_same _ _ _⟩
    · simp [State.nextWord, hl, hp]
  · have hv' : (({ s with mem := m } : State).course g).lineAt = some v := hv
    simp only [State.nextWord, hv, hv']
    rfl

end

/-! ### The instruction that a word is (R201, R205) -/

section
variable {g : Course} {w : BitVec 64} {n : Nat}

theorem decodeInstr_of_opcode (r : Nat × (Course → BitVec 56 → Instr)) (hr : r ∈ opcodes) (h : (w >>> 56).toNat = r.1) :
    decodeInstr g w = some (r.2 g (w.setWidth 56)) := by
  unfold decodeInstr
  rw [h]
  clear h
  revert r
  exact List.map_inj_left.1 rfl

theorem decodeInstr_bindings (h : (w >>> 56).toNat = 0x48) :
    decodeInstr g w = some (if w.getLsbD 51 then .rngRelease g (w.setWidth 56) else .rngBind g (w.setWidth 56)) := by
  simp only [decodeInstr, h]

theorem decodeInstr_parity (h : (w >>> 56).toNat = 0x82) : decodeInstr g w =
    some (if w.getLsbD 41 || w.getLsbD 40 then .msnParityDecode g (w.setWidth 56) else .msnParityEncode g (w.setWidth 56)) := by
  simp only [decodeInstr, h]

theorem opcode_of_decodeInstr (h : decodeInstr g w ≠ none) : (w >>> 56).toNat ∈ 0x48 :: 0x82 :: opcodes.map (·.1) := by
  unfold decodeInstr at h
  split at h
  case h_79 => exact absurd rfl h
  all_goals
    rename_i e
    rw [e]
    decide

end

theorem opcodes_spell : opcodesSpell := by
  intro g w op
  refine ⟨decodeInstr_of_opcode, decodeInstr_bindings, fun h h41 => ?_,
    fun h => ⟨fun e => ?_, fun e => ?_, fun r hr e => ?_⟩, fun ⟨h1, h2, h⟩ => ?_⟩
  · rw [decodeInstr_parity h, h41, Bool.false_or]
  · exact nomatch (decodeInstr_bindings e).symm.trans h
  · exact nomatch (decodeInstr_parity e).symm.trans h
  · exact nomatch (decodeInstr_of_opcode r hr e).symm.trans h
  · by_contra hn
    rcases List.mem_cons.1 (opcode_of_decodeInstr hn) with e | hm
    · exact h1 e
    rcases List.mem_cons.1 hm with e | hm
    · exact h2 e
    obtain ⟨r, hr, e⟩ := List.mem_map.1 hm
    exact h r hr e.symm

/-- Settles O11: the faults by the order in which issuing tests, the fetch by its miss, and each opcode by its row. -/
theorem fetchAndDecodeFaults : Obligations.FetchAndDecodeFaults := ⟨decoding_faults, fetch_reads, opcodes_spell⟩

end Sys2Proof.Machine

/-! SUPPORT. Exceptions: the state after package reset (R198 to R200, R220), and what taking a precise exception writes, reports and
leaves (R237). -/

namespace Sys2Proof.Machine

/-! ### After package reset (R198 to R200, R220) -/

/-- Settles O4: every map of the reset state is empty, and every course is the same. -/
theorem resetState : Obligations.ResetState := by
  refine ⟨rfl, fun g => ?_⟩
  rw [reset_course]
  have hq (q : QueueId) : CourseState.reset.queue q = QueueState.reset := by
    simp [CourseState.queue, CourseState.reset, Vector.get_eq_getElem]
  refine ⟨rfl, by decide, by decide, by decide, fun _ => ⟨rfl, rfl⟩, rfl, rfl, fun q => ?_⟩
  rw [hq]
  exact ⟨rfl, rfl⟩

/-! ### Interrupts and notices (R331, R555) -/

section
variable {s t u : State} {g : Course}

/-- From s to t only interrupts and messages have gone out. -/
def Signals (s t : State) : Prop := ∃ h o m, t = { s with host := h, out := o, msgs := m }

theorem Signals.refl (s : State) : Signals s s := ⟨_, _, _, rfl⟩

theorem Signals.trans (h : Signals s t) (k : Signals t u) : Signals s u := by
  obtain ⟨_, _, _, rfl⟩ := h
  obtain ⟨_, _, _, rfl⟩ := k
  exact ⟨_, _, _, rfl⟩

theorem Signals.reads (h : Signals s t) : (∀ o, t.reg o = s.reg o) ∧ (∀ o, t.reg64 o = s.reg64 o) ∧ (∀ d, t.die d = s.die d) ∧
    (∀ g, t.course g = s.course g) ∧ t.mem = s.mem ∧ t.memPoison = s.memPoison := by
  obtain ⟨_, _, _, rfl⟩ := h
  exact ⟨fun _ => rfl, fun _ => rfl, fun _ => rfl, fun _ => rfl, rfl, rfl⟩

theorem State.irqMap_signals (s : State) (fn : Fin 5) (o : Nat) : Signals s (s.irqMap fn o) := by
  unfold State.irqMap State.vector
  dsimp only
  split
  · split <;> exact ⟨_, _, _, rfl⟩
  · exact .refl s

theorem State.irqCourse_signals (s : State) (g : Course) (k : Nat) : Signals s (s.irqCourse g k) := by
  unfold State.irqCourse
  dsimp only
  split
  · split
    · exact s.irqMap_signals _ _
    · exact .refl s
  · exact s.irqMap_signals _ _

theorem State.toStacks_signals (s : State) (g : Course) (b : MsgBody) : Signals s (s.toStacks g b) := by
  obtain ⟨l, hl⟩ := s.toStacks_eq g b
  exact ⟨_, _, l, hl⟩

/-- A controller that enters FAULTED changes its course, and interrupts and notices go out (R237, R331). -/
theorem State.enterFaulted_signals (s : State) (g : Course) :
    Signals (s.modCourse g fun c => { c with ctl := .faulted, nested := c.nested || c.inTrap }) (s.enterFaulted g) :=
  (State.irqCourse_signals _ g 1).trans (State.toStacks_signals _ g _)

end

/-! ### A precise exception (R237) -/

section
variable {s : State} {g : Course} {code : BitVec 16} {sub : BitVec 4} {einfo : DWord}

theorem cr_inj {a b : Nat} : cr g a = cr g b ↔ a = b := by simp [cr]

/-- The record of a precise exception. -/
def State.exceptionRecord (s : State) (g : Course) (code : BitVec 16) (sub : BitVec 4) (einfo : DWord) : Report :=
  { code := code, srcUnit := 0x01, srcInst := courseInst g, sub := sub, precise := true, tallyPoisoned := false, pcValid := true
    epochValid := true, epoch := (s.reg (cr g 0x1C)).setWidth 16, pc := (s.course g).pc, info := einfo }

/-- The registers and the record that a precise exception writes. -/
def State.excepted (s : State) (g : Course) (code : BitVec 16) (sub : BitVec 4) (einfo : DWord) : State :=
  (((s.setReg64 (cr g 0x20) ((s.course g).pc.setWidth 64)).setReg (cr g 0x28) (code.setWidth 32)).setReg64 (cr g 0x38) einfo).raise
    (courseDie g) (s.exceptionRecord g code sub einfo)

/-- A handler of the course takes the exception. -/
def State.handles (s : State) (g : Course) : Bool := (s.reg (cr g 0x2C)).getLsbD 0 && !(s.course g).inTrap

theorem State.excepted_reg {o : Nat} (h : o ≠ 0x28) : (s.excepted g code sub einfo).reg (cr g o) = s.reg (cr g o) := by
  rw [State.excepted, State.raise_reg, State.setReg64_reg, State.setReg_reg_ne _ (mt cr_inj.1 h), State.setReg64_reg]

theorem State.excepted_reg64 {o : Nat} (h : o ≠ 0x20) (h' : o ≠ 0x38) :
    (s.excepted g code sub einfo).reg64 (cr g o) = s.reg64 (cr g o) := by
  rw [State.excepted, State.raise_reg64, State.setReg64_reg64_ne _ (mt cr_inj.1 h'), State.setReg_reg64,
    State.setReg64_reg64_ne _ (mt cr_inj.1 h)]

/-- The causes that a precise exception writes. -/
theorem State.excepted_cause : (s.excepted g code sub einfo).reg64 (cr g 0x20) = (s.course g).pc.setWidth 64 ∧
    (s.excepted g code sub einfo).reg (cr g 0x28) = code.setWidth 32 ∧ (s.excepted g code sub einfo).reg64 (cr g 0x38) = einfo := by
  rw [State.excepted, State.raise_reg, State.raise_reg64, State.raise_reg64]
  refine ⟨?_, ?_, State.setReg64_reg64 _ _ _⟩
  · rw [State.setReg64_reg64_ne _ (mt cr_inj.1 (by decide)), State.setReg_reg64, State.setReg64_reg64]
  · rw [State.setReg64_reg, State.setReg_reg]

theorem State.raiseInstr_excepted :
    (((s.setReg64 (cr g 0x20) ((s.course g).pc.setWidth 64)).setReg (cr g 0x28) (code.setWidth 32)).setReg64 (cr g 0x38)
      einfo).raiseInstr g code 0x01 sub true false (s.course g).pc (some einfo) = s.excepted g code sub einfo := by
  rw [State.raiseInstr, State.setReg64_reg, State.setReg_reg_ne _ (mt cr_inj.1 (by decide)), State.setReg64_reg]
  rfl

/-- An exception is taken by the handler, or the controller enters FAULTED. -/
theorem State.takeException_eq : s.takeException g code sub einfo =
    if s.handles g then (s.excepted g code sub einfo).modCourse g fun c =>
      { c with inTrap := true, pc := (s.reg64 (cr g 0x30)).setWidth 48, wait := none }
    else ((s.excepted g code sub einfo).modCourse g fun c => { c with wait := none }).enterFaulted g := by
  have hreg : (s.excepted g code sub einfo).reg (cr g 0x2C) = s.reg (cr g 0x2C) := State.excepted_reg (by decide)
  have hvec : (s.excepted g code sub einfo).reg64 (cr g 0x30) = s.reg64 (cr g 0x30) := State.excepted_reg64 (by decide) (by decide)
  have hcourse : (s.excepted g code sub einfo).course g = s.course g := rfl
  unfold State.takeException
  dsimp only
  rw [State.raiseInstr_excepted, hreg, hvec, hcourse, State.handles]

/-- The course that an exception leaves: at its handler, or FAULTED. -/
def State.trapped (s : State) (g : Course) : CourseState :=
  if s.handles g then { s.course g with inTrap := true, pc := (s.reg64 (cr g 0x30)).setWidth 48, wait := none }
  else { s.course g with ctl := .faulted, wait := none, nested := (s.course g).nested || (s.course g).inTrap }

theorem State.takeException_signals :
    Signals ((s.excepted g code sub einfo).setCourse g (s.trapped g)) (s.takeException g code sub einfo) := by
  have hcourse : (s.excepted g code sub einfo).course g = s.course g := rfl
  rw [State.takeException_eq, State.trapped]
  split
  · rw [State.modCourse, hcourse]
    exact .refl _
  · have h := State.enterFaulted_signals ((s.excepted g code sub einfo).modCourse g fun c => { c with wait := none }) g
    rw [State.modCourse_modCourse, State.modCourse, hcourse] at h
    exact h

/-- Settles O13: the causes and the record are written before the controller goes on, which changes only its course. -/
theorem preciseExceptions : Obligations.PreciseExceptions := by
  intro s g code sub einfo t c d handled
  obtain ⟨hreg, hreg64, hdie, hcourse, hmem, hpoison⟩ :=
    (State.takeException_signals (s := s) (g := g) (code := code) (sub := sub) (einfo := einfo)).reads
  obtain ⟨hepc, hecause, heinfo⟩ := State.excepted_cause (s := s) (g := g) (code := code) (sub := sub) (einfo := einfo)
  have hd : d = s.trapped g := (hcourse g).trans (State.setCourse_course _ g _)
  have hpres : ((s.excepted g code sub einfo).die (courseDie g)).presented =
      (s.die (courseDie g)).presented ++ [s.exceptionRecord g code sub einfo] := by
    rw [State.excepted, State.raise_die]
    rfl
  refine ⟨(hreg64 _).trans hepc, (hreg _).trans hecause, (hreg64 _).trans heinfo,
    ⟨s.exceptionRecord g code sub einfo, (congrArg DieState.presented (hdie _)).trans hpres, rfl, rfl, rfl, rfl, rfl, rfl⟩,
    fun hh => hd.trans (if_pos hh), fun hh => hd.trans (if_neg (Bool.not_eq_true _ ▸ hh)),
    fun k hk => (hcourse k).trans (State.setCourse_course_ne _ hk _), hmem, hpoison⟩

end

end Sys2Proof.Machine

/-! SUPPORT. Accesses: what the loads and stores of a controller read and write (R209). -/

namespace Sys2Proof.Machine

/-! ### A read of data that is not poisoned changes nothing, and no course takes part in it (R209, R338) -/

section
variable {s t : State} {g : Course} {p n : Nat}

/-- The state with other courses. -/
def State.withCourses (s : State) (v : Vector CourseState 32) : State := { s with courses := v }

theorem farReadLine_clean {l : LinkId} (h : (s.farReadLine l n).2.1 = false) (v : Vector CourseState 32) :
    (s.withCourses v).farReadLine l n = ((s.farReadLine l n).1, false, s.withCourses v) := by
  have hup : (s.withCourses v).farUp l = s.farUp l := rfl
  have hmode : (s.withCourses v).farMode l (64 * n) = s.farMode l (64 * n) := rfl
  have hfar : (s.withCourses v).farc l = s.farc l := rfl
  unfold State.farReadLine at h ⊢
  rw [hup, hmode, hfar]
  cases hu : s.farUp l with
  | false => simp [hu] at h
  | true =>
    rw [hu] at h
    simp only [Bool.not_true, Bool.false_eq_true, if_false] at h ⊢
    split at h
    · simp at h
    · split at h
      · simp at h
      · simp_all

/-- A line is read behind those already read. -/
def gather (read : State → Nat → List Byte × Bool × State) (acc : List Byte × Bool × State) (i : Nat) :
    List Byte × Bool × State :=
  let (bs, p, t) := acc
  let (ls, q, t') := read t i
  (bs ++ ls, p || q, t')

theorem foldl_gather_poisoned (read : State → Nat → List Byte × Bool × State) (l : List Nat) (bs : List Byte) (t : State) :
    (l.foldl (gather read) (bs, true, t)).2.1 = true := by
  induction l generalizing bs t with
  | nil => rfl
  | cons i l ih => exact ih _ _

theorem foldl_gather_clean {read : State → Nat → List Byte × Bool × State}
    (hr : ∀ (t : State) (i : Nat), (read t i).2.1 = false → ∀ v, read (t.withCourses v) i = ((read t i).1, false, t.withCourses v))
    (l : List Nat) (bs : List Byte) (t : State) (h : (l.foldl (gather read) (bs, false, t)).2.1 = false)
    (v : Vector CourseState 32) : l.foldl (gather read) (bs, false, t.withCourses v) =
      ((l.foldl (gather read) (bs, false, t)).1, false, t.withCourses v) := by
  induction l generalizing bs t with
  | nil => rfl
  | cons i l ih =>
    have hstep : gather read (bs, false, t) i = (bs ++ (read t i).1, (read t i).2.1, (read t i).2.2) := rfl
    rw [List.foldl_cons, hstep] at h
    rw [List.foldl_cons, List.foldl_cons, hstep]
    cases hp : (read t i).2.1 with
    | true => simp [hp, foldl_gather_poisoned] at h
    | false =>
      have hself : (read t i).2.2 = t := congrArg (·.2.2) (hr t i hp t.courses)
      rw [hp, hself] at h
      rw [hself, show gather read (bs, false, t.withCourses v) i = (bs ++ (read t i).1, false, t.withCourses v) by
        simp [gather, hr t i hp v]]
      exact ih _ t h

theorem farRead_eq (s : State) (p n : Nat) : s.farRead p (n + 1) =
    (fun r : List Byte × Bool × State => ((r.1.drop (p % 64)).take (n + 1), r.2.1, r.2.2))
      ((List.range ((p + (n + 1) + 63) / 64 - p / 64)).foldl
        (gather fun t i => t.farReadLine ⟨(p - farBase) / 0x8000000000 % 8, by omega⟩ (p / 64 + i)) ([], false, s)) := by
  unfold State.farRead gather
  rfl

theorem farRead_clean (h : (s.farRead p n).2.1 = false) (v : Vector CourseState 32) :
    (s.withCourses v).farRead p n = ((s.farRead p n).1, false, s.withCourses v) := by
  cases n with
  | zero => rfl
  | succ n =>
    rw [farRead_eq] at h
    rw [farRead_eq, farRead_eq, foldl_gather_clean (fun t i ht => farReadLine_clean ht) _ _ _ h]

theorem readAny_clean (h : (s.readAny p n).2.1 = false) (v : Vector CourseState 32) :
    (s.withCourses v).readAny p n = ((s.readAny p n).1, false, s.withCourses v) := by
  have hbytes (a n : Nat) : (s.withCourses v).bytes a n = s.bytes a n := by
    induction n generalizing a with
    | zero => rfl
    | succ n ih =>
      rw [State.bytes, State.bytes, ih]
      rfl
  unfold State.readAny at h ⊢
  split at h
  · exact farRead_clean h v
  · have hd : (s.withCourses v).dirty p n = s.dirty p n := rfl
    simp_all

/-- What a controller reads once it has fetched. -/
theorem fetch_readAny_clean (h : (s.readAny p n).2.1 = false) :
    (s.fetch g).1.readAny p n = ((s.readAny p n).1, false, (s.fetch g).1) := by
  obtain ⟨b, hb⟩ := s.fetch_fst g
  rw [hb]
  exact readAny_clean h _

end

/-! ### Loads (R209) -/

section
variable {s : State} {g : Course} {w : BitVec 56} {i : Instr} {n p : Nat} {act : State → Target → Addr → Act}

/-- An access that reaches something where its alignment allows does what it is for. -/
theorem execM_issue (hi : Issues s g w [(42, 32)] false) {x : Target} (ht : s.target g (dataAddr s g w).toNat n = some x)
    (ha : (dataAddr s g w).toNat % n = 0) : execM n act g w s =
      s.issue g w 0x8 [(42, 32)] false fun _ => act (s.fetch g).1 x (dataAddr s g w) := by
  rw [dataAddr_eq_effAddr] at ht ha ⊢
  rw [execM, State.issue_runs hi.running hi.fetched hi.assigned hi.legal hi.taken,
    State.issue_runs hi.running hi.fetched hi.assigned hi.legal hi.taken]
  simp only [State.fetch_effAddr, State.fetch_target, ht, ha, if_true]

theorem execLoad_sets (hx : exec i s = .next (execLoad n g w s)) (hi : Issues s g w [(42, 32)] false)
    (ht : s.target g (dataAddr s g w).toNat n = some (.mem p)) (ha : (dataAddr s g w).toNat % n = 0)
    (hd : (s.readAny p n).2.1 = false) :
    Completes i s fun t => SetsS s t g (fldS w 47) (BitVec.ofNat 64 (leNat (s.readAny p n).1)) (s.after g) := by
  rw [execLoad, execM_issue hi ht ha] at hx
  refine completes_setsS (v := fun _ => BitVec.ofNat 64 (leNat (s.readAny p n).1)) hx hi ?_ fun _ => rfl
  simp only [fetch_readAny_clean hd, Bool.false_eq_true, if_false]
  rfl

/-- Settles O15: a clean read leaves the state, so the load only writes its register; a register is read as the course reads it. -/
theorem loadResults : Obligations.LoadResults := by
  intro s g w p hi a loads
  refine ⟨fun ht ha hd => execLoad_sets rfl hi ht ha hd, fun ht ha hd => execLoad_sets rfl hi ht ha hd, fun ht ha => ?_⟩
  refine congrArg (Host.Outcome.next : State → Out) ?_
  rw [execLoad, execM_issue hi ht ha]
  exact State.issue_next hi rfl

/-! ### Stores (R209) -/

/-- An instruction that acts once the controller stands at the next one. -/
theorem State.issue_post {z : List (Nat × Nat)} {v2 : Bool} {sub : BitVec 4} {body : State → Act} {u : State} {f : State → State}
    (hi : Issues s g w z v2) (hb : body (s.fetch g).1 = .post u f) :
    s.issue g w sub z v2 body = f ((u.issued g).modCourse g fun c => { c with pc := c.pc + 8 }) := by
  rw [State.issue_runs hi.running hi.fetched hi.assigned hi.legal hi.taken, hb]

theorem lt_nearEnd_of_near {k : Stack} (h : regionOf p = .near k) : p < nearEnd := by
  unfold regionOf at h
  split at h
  · assumption
  · repeat' split at h
    all_goals cases h

/-- What an access reaches of memory lies in near memory or in a far-memory window. -/
theorem regionOf_target {a : Nat} (ht : s.target g a n = some (.mem p)) : p < nearEnd ∨ ∃ l, regionOf p = .far l := by
  unfold State.target at ht
  cases hq : s.physOf (g.val / 8) a with
  | none => simp [hq] at ht
  | some q =>
    rw [hq] at ht
    dsimp only at ht
    split at ht
    next k hk =>
      obtain rfl : q = p := by simpa using (Option.ite_none_right_eq_some.1 ht).2
      exact .inl (lt_nearEnd_of_near hk)
    next l hl =>
      obtain rfl : q = p := by simpa using (Option.ite_none_right_eq_some.1 ht).2
      exact .inr ⟨l, hl⟩
    · simp at ht
    · simp at ht

/-- A store of at most a line's bytes to near memory leaves the poison marks. -/
theorem writeAny_near (hp : p < nearEnd) {bs : List Byte} (hl : bs.length < 64) (priv : Bool) :
    s.writeAny p bs false priv = s.putBytes p bs := by
  obtain ⟨k, hk⟩ := regionOf_near hp
  simp [State.writeAny, hk, State.storeP, State.store, State.cleanLines_short _ _ _ hl]

/-- What a store does as the controller goes on. -/
theorem execStore_writes (hi : Issues s g w [(42, 32)] false) (ht : s.target g (dataAddr s g w).toNat n = some (.mem p))
    (ha : (dataAddr s g w).toNat % n = 0) : execStore n g w s =
      (((s.fetch g).1.writeAny p (leBytes n ((s.course g).rs (fldS w 47)).toNat) false false).issued g).modCourse g fun c =>
        { c with pc := c.pc + 8 } := by
  rw [execStore, execM_issue hi ht ha]
  refine State.issue_next hi ?_
  rw [State.fetch_rs]

/-- Every byte of memory after a store of n bytes of v to near memory. -/
theorem putBytes_leBytes_byte (s : State) (p n v b : Nat) : (s.putBytes p (leBytes n v)).byte b =
    if p ≤ b ∧ b < p + n then BitVec.ofNat 8 (v / 256 ^ (b - p)) else s.byte b := by
  rw [State.putBytes_byte, leBytes_length]
  split
  · next h => rw [leBytes_get n v _ (by omega)]
  · rfl

theorem State.putBytes_modCourse (f : CourseState → CourseState) : ∀ (bs : List Byte) (s : State) (p : Nat),
    (s.modCourse g f).putBytes p bs = (s.putBytes p bs).modCourse g f
  | [], _, _ => rfl
  | b :: bs, s, p => State.putBytes_modCourse f bs (s.setByte p b) (p + 1)

theorem issued_withMem (s : State) (g : Course) (m : SMap Byte) :
    ({ s with mem := m } : State).issued g = { s.issued g with mem := m } := by
  have hfrozen : ({ s with mem := m } : State).reg ((Blk.course g).base + 0xD8) = s.reg ((Blk.course g).base + 0xD8) := rfl
  unfold State.issued State.countC State.count
  rw [hfrozen]
  split <;> rfl

theorem execStore_near (hx : exec i s = .next (execStore n g w s)) (hi : Issues s g w [(42, 32)] false)
    (ht : s.target g (dataAddr s g w).toNat n = some (.mem p)) (ha : (dataAddr s g w).toNat % n = 0) (hp : p < nearEnd)
    (hn : n < 64) : Completes i s fun t =>
      (∀ b, t.byte b = if p ≤ b ∧ b < p + n then BitVec.ofNat 8 (((s.course g).rs (fldS w 47)).toNat / 256 ^ (b - p))
        else s.byte b) ∧
      t.memPoison = s.memPoison ∧ t.wide = (s.issued g).wide ∧ (∀ h, h ≠ g → t.course h = s.course h) ∧
      (∃ b, t.course g = { s.course g with pc := s.after g, ibuf := b }) ∧
      { t with courses := s.courses, wide := s.wide, mem := s.mem } = s := by
  generalize hv : ((s.course g).rs (fldS w 47)).toNat = v
  have hw := execStore_writes hi ht ha
  obtain ⟨b, hb⟩ := s.fetch_fst g
  rw [hv, writeAny_near hp (by rwa [leBytes_length]), hb, State.putBytes_modCourse, State.issued_modCourse,
    State.modCourse_modCourse] at hw
  have hbyte := putBytes_leBytes_byte s p n v
  have hmem : s.putBytes p (leBytes n v) = { s with mem := (s.putBytes p (leBytes n v)).mem } := State.putBytes_eq _ s p
  generalize s.putBytes p (leBytes n v) = u at hw hbyte hmem
  generalize u.mem = m at hmem
  subst hmem
  rw [issued_withMem] at hw
  refine ⟨_, hx.trans (congrArg _ hw), hbyte, ?_, rfl, fun h hh => ?_, ⟨b, ?_⟩, ?_⟩
  · rw [State.modCourse_memPoison, State.issued_eq]
  · rw [State.modCourse_course_ne _ hh]
    exact State.issued_course h
  · rw [State.modCourse_course, show ({ s.issued g with mem := m } : State).course g = s.course g from State.issued_course g]
    rfl
  · rw [State.issued_eq]
    rfl

theorem execStore_far (hi : Issues s g w [(42, 32)] false) (ht : s.target g (dataAddr s g w).toNat n = some (.mem p))
    (ha : (dataAddr s g w).toNat % n = 0) (hp : nearEnd ≤ p) : execStore n g w s =
      (((s.fetch g).1.farWrite p (leBytes n ((s.course g).rs (fldS w 47)).toNat) false false).issued g).modCourse g fun c =>
        { c with pc := c.pc + 8 } := by
  obtain ⟨l, hl⟩ := (regionOf_target ht).resolve_left (Nat.not_lt.2 hp)
  rw [execStore_writes hi ht ha, State.writeAny, hl]

theorem execStore_register (hi : Issues s g w [(42, 32)] false) (ht : s.target g (dataAddr s g w).toNat n = some (.reg p))
    (ha : (dataAddr s g w).toNat % n = 0) : execStore n g w s =
      (((s.fetch g).1.issued g).modCourse g fun c => { c with pc := c.pc + 8 }).writeReg (.course g) p
        (((s.course g).rs (fldS w 47)).setWidth 32) := by
  rw [execStore, execM_issue hi ht ha, ← s.fetch_rs g]
  exact State.issue_post (f := fun u => u.writeReg (.course g) p ((((s.fetch g).1.course g).rs (fldS w 47)).setWidth 32)) hi rfl

/-- Settles O16: a store to near memory writes its bytes and no poison mark, one to a far window its lines, and one to a register
acts once the controller stands at the next instruction. -/
theorem storeResults : Obligations.StoreResults := by
  intro s g w p hi a v gone stores
  have near {i : Instr} {n : Nat} (hn : n < 64) (hx : exec i s = .next (execStore n g w s)) : stores i n := fun ht ha =>
    ⟨fun hp => execStore_near hx hi ht ha hp hn, fun hp => hx.trans (congrArg _ (execStore_far hi ht ha hp))⟩
  refine ⟨near (by decide) rfl, near (by decide) rfl, fun ht ha => ?_⟩
  rw [BitVec.ofNat_toNat]
  exact congrArg (Host.Outcome.next : State → Out) (execStore_register hi ht ha)

end

end Sys2Proof.Machine

/-! SUPPORT. Tallies: tally.add, tally.set and tally.read on the tallies of a course (R220, R223, R224). -/

namespace Sys2Proof.Machine

section
variable {s t u : State} {g : Course} {w : BitVec 56} {i : Instr} {z : List (Nat × Nat)} {v2 : Bool} {sub : BitVec 4}
  {body : State → Act} {n : Fin 256} {v : Word} {p : Bool}

/-! ### A tally is set (R220) -/

theorem CourseState.setTally_val (c : CourseState) (n : Fin 256) (v : Word) (p : Bool) (m : Fin 256) :
    (c.setTally n v p).tallyVal m = if m = n then v else c.tallyVal m := by
  split
  · next h => rw [h]; exact SMap.get_put_same _ _ _ _
  · next h => exact SMap.get_put_other (mt Fin.ext h) _ _ _ _

theorem CourseState.setTally_poi (c : CourseState) (n : Fin 256) (v : Word) (p : Bool) (m : Fin 256) :
    (c.setTally n v p).tallyPoi m = if m = n then p else c.tallyPoi m := by
  split
  · next h => rw [h]; exact SMap.get_put_same _ _ _ _
  · next h => exact SMap.get_put_other (mt Fin.ext h) _ _ _ _

/-- Course d is c but for its queues, watches and records. -/
def CourseState.Beside (c d : CourseState) : Prop :=
  { d with queues := c.queues, watches := c.watches, records := c.records } = c

/-- What does not depend on queues, watches and records is the same. -/
theorem CourseState.Beside.same {α : Type} {c d : CourseState} (h : c.Beside d) (f : CourseState → α)
    (hf : ∀ q w r, f { d with queues := q, watches := w, records := r } = f d) : f d = f c :=
  (hf _ _ _).symm.trans (congrArg f h)

theorem Outside.refl (g : Course) (s : State) : Outside g s s := ⟨fun _ _ => rfl, rfl⟩

theorem State.fetch_outside (s : State) (g : Course) : Outside g s (s.fetch g).1 := (s.fetch_supplied g).outside

/-- An instruction that goes on from state u leaves outside its course what u does. -/
theorem goes_on_outside (h : Outside g s u) : Outside g s ((u.issued g).modCourse g fun c => { c with pc := c.pc + 8 }) :=
  (h.trans ((u.issued_reports g).outside g)).trans (State.modCourse_outside _ g _)

/-- An instruction that sets a tally of its course, after which the waits see it. -/
theorem completes_setTally (hx : exec i s = .next (s.issue g w sub z v2 body)) (hi : Issues s g w z v2)
    (hb : body (s.fetch g).1 = .next (((s.fetch g).1.modCourse g fun c => c.setTally n v p).settle g)) :
    Completes i s fun t => (t.course g).tallyVal n = v ∧ (t.course g).tallyPoi n = p ∧
      (∀ m, m ≠ n → (t.course g).tallyVal m = (s.course g).tallyVal m ∧ (t.course g).tallyPoi m = (s.course g).tallyPoi m) ∧
      (t.course g).pc = s.after g ∧ (∀ i, (t.course g).rs i = (s.course g).rs i) ∧ QuietFor s t g := by
  obtain ⟨b, hc⟩ := s.fetch_course g
  have hw : ((s.fetch g).1.course g).wait = none := by
    rw [hc]
    exact issuing_wait hi.running
  have hset := State.settle_settles ((s.fetch g).1.modCourse g fun c => c.setTally n v p) g
    (by rw [State.modCourse_course]; exact hw)
  generalize (((s.fetch g).1.modCourse g fun c => c.setTally n v p).settle g) = u at hb hset
  have hout := goes_on_outside (((s.fetch_outside g).trans (State.modCourse_outside _ g _)).trans hset.outside)
  obtain ⟨-, -, hrest, -⟩ := hset
  rw [State.modCourse_course, hc] at hrest
  have hrest : ({ s.course g with ibuf := b }.setTally n v p).Beside (u.course g) := hrest
  refine ⟨_, hx.trans (congrArg _ (State.issue_next hi hb)), ?_⟩
  have hval (m : Fin 256) : (u.course g).tallyVal m = if m = n then v else (s.course g).tallyVal m :=
    (hrest.same (·.tallyVal m) fun _ _ _ => rfl).trans (CourseState.setTally_val { s.course g with ibuf := b } n v p m)
  have hpoi (m : Fin 256) : (u.course g).tallyPoi m = if m = n then p else (s.course g).tallyPoi m :=
    (hrest.same (·.tallyPoi m) fun _ _ _ => rfl).trans (CourseState.setTally_poi { s.course g with ibuf := b } n v p m)
  refine ⟨?_, ?_, fun m hm => ⟨?_, ?_⟩, ?_, fun j => ?_, hout.others, hout.rest, fun j => ?_, fun j => ?_, ?_, ?_⟩ <;>
    rw [State.modCourse_course, State.issued_course]
  · exact (hval n).trans (if_pos rfl)
  · exact (hpoi n).trans (if_pos rfl)
  · exact (hval m).trans (if_neg hm)
  · exact (hpoi m).trans (if_neg hm)
  · exact congrArg (· + 8) (hrest.same (·.pc) fun _ _ _ => rfl)
  · exact hrest.same (·.rs j) fun _ _ _ => rfl
  · exact hrest.same (·.ra j) fun _ _ _ => rfl
  · exact hrest.same (·.rp j) fun _ _ _ => rfl
  · exact hrest.same (·.bindings) fun _ _ _ => rfl
  · exact hrest.same (·.ctl) fun _ _ _ => rfl

/-! ### tally.add, tally.set and tally.read (R223, R224) -/

theorem fetch_tallyBad (hv : (s.course g).v1 = true → n.val < 64) : ((s.fetch g).1.course g).tallyBad n.val = false := by
  rw [CourseState.tallyBad, State.fetch_v1]
  cases h : (s.course g).v1 with
  | false => rfl
  | true => simpa using hv h

theorem fetch_tallyOperand (s : State) (g : Course) (w : BitVec 56) :
    ((s.fetch g).1.course g).tallyOperand w = (s.course g).tallyOperand w := s.fetch_course_eq g (·.tallyOperand w) fun _ => rfl

/-- REM and GC are the bits [37:32]. -/
theorem remote_zero (h : fld w 37 32 = 0) : w.getLsbD 37 = false ∧ fldS w 32 = 0 := by
  simp only [fld] at h
  constructor
  · rw [BitVec.getLsbD, Nat.testBit_eq_decide_div_mod_eq]
    simp only [decide_eq_false_iff_not]
    omega
  · apply Fin.ext
    simp only [fldS, fld]
    show _ = 0
    omega

theorem tallies_update : tallyUpdates := by
  intro s g w n hi hn hv c x hu hr rest
  have hop := (fetch_tallyOperand s g w).trans (tallyOperand_eq (c := s.course g) hu)
  have hbad := fetch_tallyBad (g := g) hv
  obtain ⟨hrem, hgc⟩ := remote_zero hr
  have hval : ((s.fetch g).1.course g).tallyVal n = c.tallyVal n := s.fetch_course_eq g (·.tallyVal n) fun _ => rfl
  have hpoi : ((s.fetch g).1.course g).tallyPoi n = c.tallyPoi n := s.fetch_course_eq g (·.tallyPoi n) fun _ => rfl
  refine ⟨completes_setTally rfl hi ?_, completes_setTally rfl hi ?_⟩
  · simp only [hop, hn, hbad, hrem, hgc, tallyNum_val, State.modCourse, CourseState.tallyAdd, hval, hpoi]
    rfl
  · have hz : zeros w [(37, 32)] = true := by simp [zeros, hr]
    simp only [hop, hn, hbad, tallyNum_val, hz]
    rfl

theorem tallies_read : tallyReads := by
  intro s g w n hi hn hv
  have hbad := fetch_tallyBad (g := g) hv
  refine completes_setsS (v := fun c => BitVec.ofNat 64 ((c.tallyVal n).toNat + if c.tallyPoi n then 2 ^ 32 else 0)) rfl hi ?_
    fun _ => rfl
  simp only [hn, hbad, tallyNum_val]
  rfl

/-- Settles O19: the tally of the number is set, or read, and letting the waits see it changes no register. -/
theorem tallyInstructions : Obligations.TallyInstructions := ⟨tallies_update, tallies_read⟩

end

end Sys2Proof.Machine

/-! SUPPORT. Waits: the waits of a controller and of its queues as they begin, end, are held and expire (R220, R225 to R229, R236,
R328, R330). -/

namespace Sys2Proof.Machine

/-! ### What settling leaves of a course (R220, R225) -/

section
variable {s t : State} {g : Course}

theorem CourseState.Beside.trans {c d e : CourseState} (h : c.Beside d) (k : d.Beside e) : c.Beside e := by
  unfold CourseState.Beside at h k ⊢
  rw [← h, ← k]

/-- Settling passes waits at the heads of queues, then ends the controller's wait, and then works on watches and records. -/
theorem State.settle_course (s : State) (g : Course) : ∃ c : CourseState, (s.course g).Beside c ∧
    (∀ q, ((s.course g).queue q).Passed (c.queue q)) ∧ c.settleWait.Beside ((s.settle g).course g) := by
  obtain ⟨t, ⟨-, -, hbeside, hpassed⟩, he⟩ := s.settle_eq g
  refine ⟨t.course g, hbeside, hpassed, ?_⟩
  have hn := (State.noteHead_settles (t.modCourse g fun c => c.settleWait.settleWatches) g).2.2.1
  rw [State.modCourse_course] at hn
  rw [he]
  have hw : (t.course g).settleWait.Beside (t.course g).settleWait.settleWatches := rfl
  exact hw.trans hn

theorem State.settle_others (s : State) {g h : Course} (hh : h ≠ g) : (s.settle g).course h = s.course h :=
  (s.settle_keepsTallies g).others h hh

theorem CourseState.settleWait_of_none {c : CourseState} (h : c.waitStatus = none) : c.settleWait = c := by
  rw [CourseState.settleWait, h]

theorem CourseState.settleWait_of_some {c : CourseState} {k : Nat} (h : c.waitStatus = some k) : c.settleWait = c.endWait k := by
  rw [CourseState.settleWait, h]

theorem CourseState.endWait_of_wait {c : CourseState} {d : Fin 32} {k : WaitKind} (h : c.wait = some ⟨d, k⟩) (v : Nat) :
    c.endWait v = { c.ws d (BitVec.ofNat 64 v) with wait := none, pc := c.pc + 8 } := by
  rw [CourseState.endWait, h]

/-- A controller's wait has ended with status v in sD, and the controller stands behind it (R225). -/
structure WaitEnded (c d : CourseState) (sd : Fin 32) (v : Nat) : Prop where
  wait : d.wait = none
  pc : d.pc = c.pc + 8
  status : d.rs sd = if sd = 0 then 0 else BitVec.ofNat 64 v
  rs : ∀ i, i ≠ sd → d.rs i = c.rs i

/-- A controller waits where it stands (R225). -/
structure WaitHeld (c d : CourseState) (sd : Fin 32) (k : WaitKind) : Prop where
  wait : d.wait = some ⟨sd, k⟩
  pc : d.pc = c.pc
  rs : ∀ i, d.rs i = c.rs i

theorem endWait_waitEnded {c : CourseState} {sd : Fin 32} {k : WaitKind} (h : c.wait = some ⟨sd, k⟩) (v : Nat) :
    WaitEnded c (c.endWait v) sd v := by
  rw [CourseState.endWait_of_wait h]
  exact ⟨rfl, rfl, c.ws_rs_eq sd _, fun i hi => c.ws_rs_ne hi _⟩

theorem WaitEnded.beside {c d c' d' : CourseState} {sd : Fin 32} {v : Nat} (h : WaitEnded c d sd v) (hd : d.Beside d')
    (hpc : c.pc = c'.pc) (hrs : ∀ i, c.rs i = c'.rs i) : WaitEnded c' d' sd v where
  wait := (hd.same (·.wait) fun _ _ _ => rfl).trans h.wait
  pc := (hd.same (·.pc) fun _ _ _ => rfl).trans (h.pc.trans (congrArg (· + 8) hpc))
  status := (hd.same (·.rs sd) fun _ _ _ => rfl).trans h.status
  rs i hi := (hd.same (·.rs i) fun _ _ _ => rfl).trans ((h.rs i hi).trans (hrs i))

/-! ### A controller's wait begins (R225, R226) -/

@[simp] theorem State.startTicks_course (s : State) (o : Nat) (h : Course) : (s.startTicks o).course h = s.course h := by
  unfold State.startTicks
  split <;> rfl

/-- The course as its controller begins a wait. -/
def CourseState.waiting (c : CourseState) (sd : Fin 32) (k : WaitKind) : CourseState := { c with wait := some ⟨sd, k⟩ }

theorem beginWait_settles (s : State) (g : Course) (sd : Fin 32) (k : WaitKind) (tm : Nat) : ∃ u : State, (∃ c : CourseState,
      ((s.course g).waiting sd k).Beside c ∧ (∀ q, ((s.course g).queue q).Passed (c.queue q)) ∧
      c.settleWait.Beside (u.course g)) ∧
    s.beginWait g sd k tm = if tm = 0 ∧ (u.course g).wait.isSome then waitExpiry g u else u := by
  refine ⟨_, ?_, rfl⟩
  have h := State.settle_course ((s.modCourse g fun c => { c with wait := some ⟨sd, k⟩ }).startTicks (cr g 0xD0)) g
  rw [State.startTicks_course, State.modCourse_course] at h
  exact h

/-- A wait whose event is present as it begins ends at once. -/
theorem beginWait_ends {sd : Fin 32} {k : WaitKind} {tm v : Nat}
    (h : ∀ c : CourseState, ((s.course g).waiting sd k).Beside c → (∀ q, ((s.course g).queue q).Passed (c.queue q)) →
      c.waitStatus = some v) : WaitEnded (s.course g) ((s.beginWait g sd k tm).course g) sd v := by
  obtain ⟨u, ⟨c, hb, hp, hu⟩, he⟩ := beginWait_settles s g sd k tm
  rw [CourseState.settleWait_of_some (h c hb hp)] at hu
  have hw : c.wait = some ⟨sd, k⟩ := hb.same (·.wait) fun _ _ _ => rfl
  have hended : WaitEnded (s.course g) (u.course g) sd v :=
    (endWait_waitEnded hw v).beside hu (hb.same (·.pc) fun _ _ _ => rfl) fun i => hb.same (·.rs i) fun _ _ _ => rfl
  rw [he, hended.wait, if_neg (by simp)]
  exact hended

/-- A wait whose event is not present waits, with a timeout that is not 0. -/
theorem beginWait_waits {sd : Fin 32} {k : WaitKind} {tm : Nat} (ht : tm ≠ 0)
    (h : ∀ c : CourseState, ((s.course g).waiting sd k).Beside c → (∀ q, ((s.course g).queue q).Passed (c.queue q)) →
      c.waitStatus = none) : WaitHeld (s.course g) ((s.beginWait g sd k tm).course g) sd k := by
  obtain ⟨u, ⟨c, hb, hp, hu⟩, he⟩ := beginWait_settles s g sd k tm
  rw [CourseState.settleWait_of_none (h c hb hp)] at hu
  rw [he, if_neg (by simp [ht])]
  refine ⟨?_, ?_, fun i => ?_⟩
  · exact (hu.same (·.wait) fun _ _ _ => rfl).trans (hb.same (·.wait) fun _ _ _ => rfl)
  · exact (hu.same (·.pc) fun _ _ _ => rfl).trans (hb.same (·.pc) fun _ _ _ => rfl)
  · exact (hu.same (·.rs i) fun _ _ _ => rfl).trans (hb.same (·.rs i) fun _ _ _ => rfl)

/-- An instruction that leaves the controller where its state has it. -/
theorem completes_stay {w : BitVec 56} {i : Instr} {z : List (Nat × Nat)} {v2 : Bool} {sub : BitVec 4} {body : State → Act}
    {p : CourseState → Prop} (hx : exec i s = .next (s.issue g w sub z v2 body)) (hi : Issues s g w z v2)
    (hb : ∃ u, body (s.fetch g).1 = .stay u ∧ p (u.course g)) : Completes i s fun t => p (t.course g) := by
  obtain ⟨u, hb, hp⟩ := hb
  refine ⟨u.issued g, hx.trans (congrArg _ ?_), ?_⟩
  · rw [State.issue_runs hi.running hi.fetched hi.assigned hi.legal hi.taken, hb]
  · show p ((u.issued g).course g)
    rwa [State.issued_course]

end

end Sys2Proof.Machine

namespace Sys2Proof.Machine

section
variable {s t : State} {g : Course} {q : QueueId} {e : QEntry} {n : Fin 256} {x : Word}

/-! ### What settles in the queues (R220, R226, R229) -/

/-- The queue once its head, a wait, has been passed. -/
def CourseState.passHead (c : CourseState) (q : QueueId) (rest : List QEntry) : CourseState :=
  c.modQueue q fun y => { y with entries := rest }

/-- What holds, and is kept as a wait at the head of queue q is passed or expires, holds once the queue has settled. -/
theorem State.settleQueue_keeps {P : CourseState → Prop} {g : Course} {q : QueueId}
    (hpass : ∀ (c : CourseState) e rest n x once, P c → (c.queue q).halt = .no → (c.queue q).entries = e :: rest →
      e.op = .queueWait n x once → c.reached n x = true → P (c.passHead q rest))
    (hexpire : ∀ (t : State) e rest n x, P (t.course g) → ((t.course g).queue q).halt = .no →
      ((t.course g).queue q).entries = e :: rest → e.op = .queueWait n x true → P ((t.qwaitExpire g q e n x rest).course g)) :
    ∀ (fuel : Nat) (t : State), P (t.course g) → P ((t.settleQueue g q fuel).course g)
  | 0, _, h => h
  | fuel + 1, t, h => by
    unfold State.settleQueue
    dsimp only
    split
    · next e rest hn he =>
      split
      · next n x once ho =>
        split
        · next hr =>
          refine State.settleQueue_keeps hpass hexpire fuel _ ?_
          rw [State.modCourse_course]
          exact hpass _ e rest n x once h hn he ho hr
        · split
          · next hnr honce => exact hexpire t e rest n x h hn he (honce ▸ ho)
          · exact h
      · exact h
    · exact h

theorem State.settle_keeps {P : CourseState → Prop} {g : Course}
    (hpass : ∀ (c : CourseState) q e rest n x once, P c → (c.queue q).halt = .no → (c.queue q).entries = e :: rest →
      e.op = .queueWait n x once → c.reached n x = true → P (c.passHead q rest))
    (hexpire : ∀ (t : State) q e rest n x, P (t.course g) → ((t.course g).queue q).halt = .no →
      ((t.course g).queue q).entries = e :: rest → e.op = .queueWait n x true → P ((t.qwaitExpire g q e n x rest).course g))
    (hsettle : ∀ c : CourseState, P c → P c.settleWait.settleWatches)
    (hnote : ∀ (c : CourseState) h, P c → P (c.modQueue 7 fun y => { y with head := h })) (s : State) (h : P (s.course g)) :
    P ((s.settle g).course g) := by
  have hfold : P (((List.finRange 8).foldl (fun u q => u.settleQueue g q 65) s).course g) :=
    List.foldlRecOn (motive := fun u : State => P (u.course g)) _ _ h
      fun u hu q _ => State.settleQueue_keeps (fun c => hpass c q) (fun t => hexpire t q) 65 u hu
  unfold State.settle
  dsimp only
  generalize (List.finRange 8).foldl (fun u q => u.settleQueue g q 65) s = u at hfold
  have hmid : P ((u.modCourse g fun c => c.settleWait.settleWatches).course g) := by
    rw [State.modCourse_course]
    exact hsettle _ hfold
  unfold State.noteHead
  dsimp only
  split
  · split
    · exact hmid
    · rw [State.tick_course, State.modCourse_course]
      exact hnote _ _ hmid
  · exact hmid

/-- The course and the reports that a queue's wait leaves as it expires (R228, R229). -/
theorem State.qwaitExpire_course (s : State) (g : Course) (q : QueueId) (e : QEntry) (n : Fin 256) (x : Word) (rest : List QEntry) :
    (s.qwaitExpire g q e n x rest).course g = if 64 ≤ (s.course g).watchesUsed then
      (s.course g).modQueue q fun y => { y with halt := .watchFull }
    else { (s.course g).modQueue q fun y => { y with entries := rest, halt := .qwait } with
      watches := (s.course g).watches ++ [⟨e.pc, .qwait q n x⟩] } := by
  unfold State.qwaitExpire
  split
  · rw [((State.raiseInstr_reports ..).trans (State.efirst_reports ..)).course, State.modCourse_course]
  · dsimp only
    rw [((State.raiseInstr_reports ..).trans (State.efirst_reports ..)).course, State.modCourse_course]

/-! ### A wait that a queue holds (R225, R226) -/

/-- Queue q has the entry e at its end, and the target that it waits for is not reached. -/
structure HoldsLast (q : QueueId) (e : QEntry) (n : Fin 256) (x : Word) (c : CourseState) : Prop where
  last : ∃ l, (c.queue q).entries = l ++ [e]
  unreached : c.reached n x = false

theorem HoldsLast.modQueue {c : CourseState} (h : HoldsLast q e n x c) {r : QueueId} {f : QueueState → QueueState}
    (hf : r = q → ∃ l, (f (c.queue q)).entries = l ++ [e]) : HoldsLast q e n x (c.modQueue r f) := by
  refine ⟨?_, h.unreached⟩
  by_cases hr : r = q
  · subst hr
    rw [CourseState.modQueue_queue]
    exact hf rfl
  · rw [CourseState.modQueue, CourseState.setQueue_queue_ne _ (Ne.symm hr)]
    exact h.last

/-- Another entry than the last is at the head of the queue, and the last stays. -/
theorem last_of_cons {l rest : List QEntry} {a : QEntry} (h : a :: rest = l ++ [e]) (hne : a ≠ e) : ∃ l', rest = l' ++ [e] := by
  cases l with
  | nil => exact absurd (List.cons.inj h).1 hne
  | cons b l => exact ⟨l, (List.cons.inj h).2⟩

theorem settle_holdsLast (ho : e.op = .queueWait n x false) (s : State) (h : HoldsLast q e n x (s.course g)) :
    HoldsLast q e n x ((s.settle g).course g) := by
  refine State.settle_keeps ?pass ?expire (fun c hc => ⟨?queue, ?tally⟩) (fun c k hc => hc.modQueue fun _ => hc.last) s h
  case pass =>
    refine fun c r a rest m y once hc _ ha hop hr => hc.modQueue fun hrq => ?_
    subst hrq
    obtain ⟨l, hl⟩ := hc.last
    refine last_of_cons (ha.symm.trans hl) ?_
    rintro rfl
    obtain ⟨rfl, rfl, -⟩ := EngineOp.queueWait.inj (hop.symm.trans ho)
    rw [hc.unreached] at hr
    cases hr
  case expire =>
    intro t r a rest m y ht _ ha hop
    rw [State.qwaitExpire_course]
    split
    · exact ht.modQueue fun _ => ht.last
    · have hm := ht.modQueue (r := r) (f := fun y => { y with entries := rest, halt := .qwait }) fun hrq => by
        subst hrq
        obtain ⟨l, hl⟩ := ht.last
        refine last_of_cons (ha.symm.trans hl) ?_
        rintro rfl
        exact nomatch (EngineOp.queueWait.inj (hop.symm.trans ho)).2.2
      exact ⟨hm.last, hm.unreached⟩
  case queue =>
    show ∃ l, (c.settleWait.queues.get q).entries = l ++ [e]
    rw [c.settleWait_queues]
    exact hc.last
  case tally =>
    obtain ⟨hV, hP⟩ := c.settleWait_tallies
    show (SMap.get c.settleWait.tallyP _ _ || decide ((SMap.get c.settleWait.tallyV _ _ - x).toNat < _)) = false
    rw [hV, hP]
    exact hc.unreached

/-! ### Tally waits as instructions (R220, R225) -/

theorem targets_reached : targetsReached := by
  intro c n x
  have hsub : (c.tallyVal n - x).toNat = ((c.tallyVal n).toNat + 2 ^ 32 - x.toNat) % 2 ^ 32 := by
    rw [BitVec.toNat_sub]
    have := x.isLt
    congr 1
    omega
  rw [CourseState.reached, hsub]
  simp

theorem waitStatus_tally {c d : CourseState} {sd : Fin 32} (h : (c.waiting sd (.tally n x)).Beside d) :
    d.waitStatus = if c.reached n x then some (if c.tallyPoi n then 2 else 0) else none := by
  have hw : d.wait = some ⟨sd, .tally n x⟩ := h.same (·.wait) fun _ _ _ => rfl
  have hr : d.reached n x = c.reached n x := h.same (·.reached n x) fun _ _ _ => rfl
  have hp : d.tallyPoi n = c.tallyPoi n := h.same (·.tallyPoi n) fun _ _ _ => rfl
  simp only [CourseState.waitStatus, hw, hr, hp]

theorem State.fetch_timeout (s : State) (g : Course) (i : Fin 32) : (s.fetch g).1.timeout g i = s.timeout g i := by
  obtain ⟨b, hb⟩ := s.fetch_fst g
  rw [hb, State.timeout, State.modCourse_course, State.modCourse_reg]
  rfl

theorem WaitEnded.fetched {d : CourseState} {sd : Fin 32} {v : Nat} (h : WaitEnded ((s.fetch g).1.course g) d sd v) :
    WaitEnded (s.course g) d sd v := by
  obtain ⟨b, hb⟩ := s.fetch_course g
  rw [hb] at h
  exact ⟨h.wait, h.pc, h.status, h.rs⟩

theorem WaitHeld.fetched {d : CourseState} {sd : Fin 32} {k : WaitKind} (h : WaitHeld ((s.fetch g).1.course g) d sd k) :
    WaitHeld (s.course g) d sd k := by
  obtain ⟨b, hb⟩ := s.fetch_course g
  rw [hb] at h
  exact ⟨h.wait, h.pc, h.rs⟩

/-- A wait at the end of a queue stays there as the queues settle, while its target is not reached. -/
theorem settled_wait (ho : e.op = .queueWait n x false) (hw : (s.course g).wait = none) (h : HoldsLast q e n x (s.course g)) :
    ((s.settle g).course g).pc = (s.course g).pc ∧ (∀ i, ((s.settle g).course g).rs i = (s.course g).rs i) ∧
      (((s.settle g).course g).queue q).entries.getLast? = some e := by
  obtain ⟨-, -, hb, -⟩ := s.settle_settles g hw
  obtain ⟨l, hlast⟩ := (settle_holdsLast ho s h).last
  generalize (s.settle g).course g = d at hb hlast
  have hb : (s.course g).Beside d := hb
  refine ⟨hb.same (·.pc) fun _ _ _ => rfl, fun i => hb.same (·.rs i) fun _ _ _ => rfl, ?_⟩
  rw [hlast, List.getLast?_concat]

/-- The course as the entry e of a wait is appended to queue q. -/
def CourseState.withWait (c : CourseState) (q : QueueId) (e : QEntry) : CourseState :=
  { c.modQueue q fun y => { y with entries := y.entries ++ [e] } with pc := c.pc + 8, stalled := none }

theorem CourseState.withWait_holdsLast (c : CourseState) (q : QueueId) (e : QEntry) (hr : c.reached n x = false) :
    HoldsLast q e n x (c.withWait q e) :=
  ⟨⟨_, congrArg QueueState.entries (CourseState.setQueue_queue ..)⟩, hr⟩

theorem State.enqueue_eq (hl : ((s.course g).queue q).entries.length < 64) :
    s.enqueue g q e = (s.modCourse g (·.withWait q e)).settle g := by
  rw [State.enqueue, if_pos hl]
  rfl

/-- A wait whose target is not reached enters a queue that has room, and stays at its end. -/
theorem enqueue_wait (ho : e.op = .queueWait n x false) (hw : (s.course g).wait = none)
    (hl : ((s.course g).queue q).entries.length < 64) (hr : (s.course g).reached n x = false) :
    ((s.enqueue g q e).course g).pc = (s.course g).pc + 8 ∧ (∀ i, ((s.enqueue g q e).course g).rs i = (s.course g).rs i) ∧
      (((s.enqueue g q e).course g).queue q).entries.getLast? = some e := by
  rw [State.enqueue_eq hl]
  have h := settled_wait (s := s.modCourse g (·.withWait q e)) (g := g) (q := q) ho
  rw [State.modCourse_course] at h
  exact h hw (CourseState.withWait_holdsLast _ q e hr)

theorem tallies_wait : tallyWaits := by
  intro s g w n tm hi hn hv htm c x due
  have hbad := fetch_tallyBad (g := g) hv
  have htm' : (s.fetch g).1.timeout g (fldS w 29) = some tm := (s.fetch_timeout g _).trans htm
  have hx : (((s.fetch g).1.course g).rs (fldS w 34)).setWidth 32 = x := by rw [State.fetch_rs]
  have hreached : ((s.fetch g).1.course g).reached n x = true ↔ due := by
    rw [s.fetch_course_eq g (·.reached n x) fun _ => rfl]
    simp [CourseState.reached, due, c]
  have hpoi : ((s.fetch g).1.course g).tallyPoi n = c.tallyPoi n := s.fetch_course_eq g (·.tallyPoi n) fun _ => rfl
  refine ⟨fun hq => ⟨fun hdue => ?_, fun hdue ht => ?_⟩, fun q hq hz hdue ht hl => ?_⟩
  · refine (completes_stay (p := fun d => WaitEnded c d (fldS w 47) (if c.tallyPoi n then 2 else 0)) rfl hi
      ⟨_, ?_, (beginWait_ends (k := .tally n x) (tm := tm) fun d hd _ => ?_).fetched⟩).imp fun t h => ?_
    · simp only [hn, hbad, htm', hx, hq, tallyNum_val]
      rfl
    · rw [waitStatus_tally hd, hpoi, if_pos (hreached.2 hdue)]
    · refine ⟨h.wait, h.pc, h.status.trans ?_, h.rs⟩
      split <;> [rfl; (split <;> rfl)]
  · refine (completes_stay (p := fun d => WaitHeld c d (fldS w 47) (.tally n x)) rfl hi
      ⟨_, ?_, (beginWait_waits (k := .tally n x) ht fun d hd _ => ?_).fetched⟩).imp fun t h => ⟨h.wait, h.pc, h.rs⟩
    · simp only [hn, hbad, htm', hx, hq, tallyNum_val]
      rfl
    · rw [waitStatus_tally hd, if_neg (mt hreached.1 hdue)]
  · obtain ⟨b, hb⟩ := s.fetch_course g
    have hq9 : ¬8 < q.val := by omega
    have hq8 : q.val ≠ 8 := by omega
    have hz' : zeros w [(51, 47)] = true := by simp [zeros, hz]
    have hmod : (⟨q.val % 8, by omega⟩ : QueueId) = q := Fin.ext (Nat.mod_eq_of_lt q.isLt)
    refine completes_stay (p := fun d => d.pc = s.after g ∧ (∀ i, d.rs i = c.rs i) ∧ ∃ e, (d.queue q).entries.getLast? = some e ∧
      e.op = .queueWait n x false ∧ e.pc = c.pc ∧ e.serial = c.serial) rfl hi
      ⟨((s.fetch g).1.modCourse g fun c => { c with serial := c.serial + 1 }).enqueue g q
        ⟨c.serial, c.pc, .queueWait n x false, false, 0, false, none, false, false⟩, ?_, ?_⟩
    · simp only [hn, hbad, htm', hx, hq, tallyNum_val, hq9, hq8, hz', hmod, ht, decide_false,
        Bool.false_eq_true, Bool.not_true, and_false, if_false]
      rw [hb]
    · have h := enqueue_wait (s := (s.fetch g).1.modCourse g fun c => { c with serial := c.serial + 1 }) (g := g) (q := q) (n := n)
        (x := x) (e := ⟨c.serial, c.pc, .queueWait n x false, false, 0, false, none, false, false⟩) rfl
      rw [State.modCourse_course] at h
      obtain ⟨hpc, hrs, hlast⟩ := h ((s.fetch_course_eq g (·.wait) fun _ => rfl).trans (issuing_wait hi.running))
        (by rw [hb]; exact hl) (Bool.eq_false_iff.2 (mt hreached.1 hdue))
      exact ⟨hpc.trans (congrArg (· + 8) (s.fetch_course_eq g (·.pc) fun _ => rfl)),
        fun i => (hrs i).trans (s.fetch_course_eq g (·.rs i) fun _ => rfl), _, hlast, rfl, rfl, rfl⟩

/-- Settles O20: a wait that begins is settled at once, and one that a queue takes stays at its end while its target is not
reached. -/
theorem tallyWaitsHold : Obligations.TallyWaits := ⟨targets_reached, tallies_wait⟩

end

end Sys2Proof.Machine

/-! SUPPORT. Waits as instructions: fence, the leave instructions and the lock instructions as they issue (R225, R236, R328, R330). -/

namespace Sys2Proof.Machine

section
variable {s u : State} {g : Course} {w : BitVec 56} {i : Instr}

/-! ### Fences (R225) -/

theorem fenced_of_empty {c : CourseState} {m : BitVec 8} {l : Nat}
    (h : ∀ q : QueueId, m.getLsbD q.val = true → (c.queue q).entries = [] ∧ (c.queue q).started = []) : c.fenced m l = true := by
  refine List.all_eq_true.2 fun q _ => ?_
  cases hm : m.getLsbD q.val
  · rfl
  · obtain ⟨he, hs⟩ := h q hm
    rw [he, hs]
    rfl

theorem not_fenced_of_started {c : CourseState} {m : BitVec 8} {l : Nat} {q : QueueId} {x : Started} (hm : m.getLsbD q.val = true)
    (hx : x ∈ (c.queue q).started) (ho : x.orphan = false) (hl : x.e.serial < l) : c.fenced m l = false := by
  refine List.all_eq_false.2 ⟨q, List.mem_finRange q, ?_⟩
  have hs : (c.queue q).started.all (fun i => i.orphan || decide (l ≤ i.e.serial)) = false :=
    List.all_eq_false.2 ⟨x, hx, by simp [ho, hl]⟩
  simp [hm, hs]

theorem QueueState.Passed.entries_nil {x y : QueueState} (h : x.Passed y) (hx : x.entries = []) : y.entries = [] := by
  obtain ⟨⟨ws, hws, -⟩, -⟩ := h
  exact (List.append_eq_nil_iff.1 (hws.symm.trans hx)).2

/-- Bit q of a mask of eight queues. -/
theorem getLsbD_ofNat_queue (n : Nat) (q : QueueId) : (BitVec.ofNat 8 n).getLsbD q.val = n.testBit q.val := by
  rw [BitVec.getLsbD_ofNat, decide_eq_true q.isLt, Bool.true_and]

theorem waitStatus_fence {c d : CourseState} {sd : Fin 32} {m : BitVec 8} {l : Nat} (h : (c.waiting sd (.fence m l)).Beside d) :
    d.waitStatus = if d.fenced m l then some 0 else none := by
  have hw : d.wait = some ⟨sd, .fence m l⟩ := h.same (·.wait) fun _ _ _ => rfl
  simp only [CourseState.waitStatus, hw]

theorem fence_waits : fenceWaits := by
  intro s g w tm hi htm c named
  have htm' : (s.fetch g).1.timeout g (fldS w 34) = some tm := (s.fetch_timeout g _).trans htm
  have hserial : ((s.fetch g).1.course g).serial = c.serial := s.fetch_course_eq g (·.serial) fun _ => rfl
  have hqueue (q : QueueId) : ((s.fetch g).1.course g).queue q = c.queue q := s.fetch_course_eq g (·.queue q) fun _ => rfl
  refine ⟨fun hempty => ?_, fun q x hq hx ho hl ht => ?_⟩
  · refine (completes_stay (p := fun d => WaitEnded c d (fldS w 47) 0) rfl hi ⟨_, ?_,
      (beginWait_ends (k := .fence (BitVec.ofNat 8 (fld w 46 39)) c.serial) (tm := tm) fun d hd hp => ?_).fetched⟩).imp
        fun t h => ⟨h.wait, h.pc, h.rs, h.status.trans (ite_self _)⟩
    · simp only [htm', hserial]
    · refine (waitStatus_fence hd).trans (if_pos (fenced_of_empty fun q hq => ?_))
      obtain ⟨he, hs⟩ := hempty q ((getLsbD_ofNat_queue _ q).symm.trans hq)
      have hpq := hp q
      rw [hqueue] at hpq
      exact ⟨hpq.entries_nil he, hpq.started.trans hs⟩
  · refine (completes_stay (p := fun d => WaitHeld c d (fldS w 47) (.fence (BitVec.ofNat 8 (fld w 46 39)) c.serial)) rfl hi ⟨_, ?_,
      (beginWait_waits ht fun d hd hp => ?_).fetched⟩).imp fun t h => ⟨⟨_, h.wait⟩, h.pc, h.rs⟩
    · simp only [htm', hserial]
    · have hpq := hp q
      rw [hqueue] at hpq
      rw [waitStatus_fence hd, not_fenced_of_started ((getLsbD_ofNat_queue _ q).trans hq) (hpq.started ▸ hx) ho hl]
      rfl

/-! ### Holds of leave (R236) -/

theorem State.fetch_stamp (s : State) (g : Course) : (s.fetch g).1.stamp = s.stamp := by
  obtain ⟨b, hb⟩ := s.fetch_fst g
  rw [hb]
  rfl

theorem State.releaseHold_some {h : Hold} (hh : (s.course g).hold = some h) :
    s.releaseHold g = (s.modCourse g fun c => { c with hold := none }).giveBack g (2 * (g.val % 8)) h.free .pool := by
  rw [State.releaseHold, hh]

theorem State.giveBack_pool_course (s : State) (g h : Course) (r k : Nat) : (s.giveBack g r k .pool).course h = s.course h := rfl

theorem State.issued_cdie (s : State) (g : Course) (d : CDie) : (s.issued g).cdie d = s.cdie d := by
  rw [State.issued_eq]
  rfl

theorem waitStatus_leave {c d : CourseState} {sd : Fin 32} {n o k : Nat} (h : (c.waiting sd (.leave n o k)).Beside d) :
    d.waitStatus = none := by
  have hw : d.wait = some ⟨sd, .leave n o k⟩ := h.same (·.wait) fun _ _ _ => rfl
  simp only [CourseState.waitStatus, hw]

theorem leave_instrs : leaveInstrs := by
  intro s g w c n
  refine ⟨fun tm hi htm ht hn hn' hhold hcred => ?_, fun h hi hh => ?_⟩
  · have htm' : (s.fetch g).1.timeout g (fldS w 37) = some tm := (s.fetch_timeout g _).trans htm
    have hhold' : ((s.fetch g).1.course g).hold = none := (s.fetch_course_eq g (·.hold) fun _ => rfl).trans hhold
    have hcred' : (s.fetch g).1.dieCredits (courseCDie g) = s.dieCredits (courseCDie g) := by
      obtain ⟨b, hb⟩ := s.fetch_fst g
      rw [hb, State.dieCredits, State.modCourse_reg]
      rfl
    have hrange : ¬(n = 0 ∨ 65535 < n) := by omega
    refine (completes_stay (p := fun d => WaitHeld c d (fldS w 47) (.leave n s.stamp 0)) rfl hi ⟨_, ?_,
      (beginWait_waits (s := (s.fetch g).1.tick) ht fun d hd _ => waitStatus_leave hd).fetched⟩).imp
        fun t h => ⟨h.wait, h.pc, h.rs⟩
    simp only [htm', hhold', hcred', State.fetch_stamp, State.fetch_rs]
    rw [if_neg hrange, if_neg (by simp), if_neg (Nat.not_lt.2 hcred)]
  · obtain ⟨b, hc⟩ := s.fetch_course g
    have hh' : ((s.fetch g).1.course g).hold = some h := (s.fetch_course_eq g (·.hold) fun _ => rfl).trans hh
    refine ⟨_, congrArg (Host.Outcome.next : State → Out) (State.issue_next hi rfl), ?_⟩
    beta_reduce
    rw [State.releaseHold_some hh', State.modCourse_cdie, State.issued_cdie, State.giveBack_pool (by omega), State.modCourse_course,
      State.issued_course, State.giveBack_pool_course, State.modCourse_course, hc]
    refine ⟨rfl, rfl, fun _ => rfl, ?_⟩
    obtain ⟨x, hx⟩ := s.fetch_fst g
    rw [hx]
    rfl

/-! ### Locks (R328, R330) -/

theorem State.startTicks_msgs (s : State) (o : Nat) : (s.startTicks o).msgs = s.msgs := by
  unfold State.startTicks
  split <;> rfl

theorem State.fetch_nearOk (s : State) (g : Course) (a n : Nat) : (s.fetch g).1.nearOk a n = s.nearOk a n := by
  obtain ⟨b, hb⟩ := s.fetch_fst g
  rw [hb]
  rfl

theorem State.fetch_reg (s : State) (g : Course) (o : Nat) : (s.fetch g).1.reg o = s.reg o := by
  obtain ⟨b, hb⟩ := s.fetch_fst g
  rw [hb, State.modCourse_reg]

theorem lock_instrs : lockInstrs := by
  intro s g w a ha c base len epoch
  obtain ⟨b, hc⟩ := s.fetch_course g
  refine ⟨fun tm hi htm hbase hlen hlen' hnear hr => ?_, fun hi ha' hr => ?_⟩
  · have htm' : (s.fetch g).1.timeout g (fldS w 33) = some tm := (s.fetch_timeout g _).trans htm
    have hok : base % 64 = 0 ∧ len % 64 = 0 ∧ 64 ≤ len ∧ s.nearOk a len = true := ⟨hbase, hlen, hlen', hnear⟩
    refine ⟨_, congrArg (Host.Outcome.next : State → Out) (State.issue_runs hi.running hi.fetched hi.assigned hi.legal hi.taken), ?_⟩
    simp only [htm', State.fetch_ra, State.fetch_rs, State.fetch_physOf, ha, State.fetch_nearOk, State.fetch_reg, State.fetch_stamp]
    rw [if_pos hok]
    refine ⟨?_, b, ?_⟩
    · rw [State.issued_msgs, State.startTicks_msgs, State.modCourse_msgs, State.tick_msgs]
      exact State.fetch_send_msgs hr
    · rw [State.issued_course, State.startTicks_course, State.modCourse_course, State.tick_course, State.send_course, hc]
  · refine ⟨_, congrArg (Host.Outcome.next : State → Out) (State.issue_next hi (u := (s.fetch g).1.send (.course g) (.mem (stackOf a))
      (.lockRel a g ((s.reg (cr g 0x1C)).setWidth 16))) ?_), ?_, b, ?_⟩
    · simp only [State.fetch_ra, State.fetch_physOf, ha, State.fetch_reg]
      exact if_pos ha'
    · rw [State.modCourse_msgs, State.issued_msgs]
      exact State.fetch_send_msgs hr
    · rw [State.modCourse_course, State.issued_course, State.send_course, hc]
      rfl

/-- Settles O21: each instruction by what its body does, and a wait by whether its event is there once the queues have settled. -/
theorem waitInstructions : Obligations.WaitInstructions := ⟨fence_waits, leave_instrs, lock_instrs⟩

end

end Sys2Proof.Machine

/-! SUPPORT. Expiry: the waits of a controller and of a queue that reach their timeout (R226 to R229). -/

namespace Sys2Proof.Machine

section
variable {s u : State} {g : Course} {d : Fin 32} {k : WaitKind}

/-- The course whose controller's wait has ended with TIMEOUT and has left the watch x. -/
def CourseState.timedOut (c : CourseState) (x : WatchKind) : CourseState :=
  { c.endWait 1 with watches := c.watches ++ [⟨c.pc, x⟩] }

theorem timedOut_waitEnded {c : CourseState} (h : c.wait = some ⟨d, k⟩) (x : WatchKind) : WaitEnded c (c.timedOut x) d 1 := by
  obtain ⟨hw, hpc, hst, hrs⟩ := endWait_waitEnded h 1
  exact ⟨hw, hpc, hst, hrs⟩

/-- What a controller's wait for a tally or a fence becomes as it expires (R227, R228). -/
theorem waitExpiry_watch {x : WatchKind} (h : ((s.settle g).course g).wait = some ⟨d, k⟩)
    (hx : (∃ n v, k = .tally n v ∧ x = .tally n v) ∨ ∃ m l, k = .fence m l ∧ x = .fence m l) :
    waitExpiry g s = if 64 ≤ ((s.settle g).course g).watchesUsed then (s.settle g).precise g 0x0507 0x8 none
      else (s.settle g).modCourse g (·.timedOut x) := by
  unfold waitExpiry CourseState.timedOut
  generalize s.settle g = t at h
  obtain ⟨n, v, rfl, rfl⟩ | ⟨m, l, rfl, rfl⟩ := hx <;> simp only [h, ge_iff_le]

theorem endWait_watches {c : CourseState} (h : c.wait = some ⟨d, k⟩) (v : Nat) : (c.endWait v).watches = c.watches := by
  rw [CourseState.endWait_of_wait h]
  dsimp only
  unfold CourseState.ws
  split <;> rfl

theorem waitExpiry_leave {n a b : Nat} (h : ((s.settle g).course g).wait = some ⟨d, .leave n a b⟩) :
    waitExpiry g s = (s.settle g).modCourse g (·.endWait 1) := by
  simp only [waitExpiry, h]

theorem queueWaitExpiry_expires {q : QueueId} {e : QEntry} {rest : List QEntry} {n : Fin 256} {v : Word} {once : Bool}
    (hh : (((s.settle g).course g).queue q).halt = .no) (he : (((s.settle g).course g).queue q).entries = e :: rest)
    (ho : e.op = .queueWait n v once) : queueWaitExpiry g q s = (s.settle g).qwaitExpire g q e n v rest := by
  simp only [queueWaitExpiry, hh, he, ho]

/-- The record of a queue's wait that expires with a watch free (R229). -/
theorem qwaitExpire_presented {q : QueueId} {e : QEntry} {n : Fin 256} {v : Word} {rest : List QEntry}
    (h : (u.course g).watchesUsed < 64) : ∃ r, ((u.qwaitExpire g q e n v rest).die (courseDie g)).presented =
      (u.die (courseDie g)).presented ++ [r] ∧ r.code = 0x0508 ∧ r.pc = e.pc := by
  rw [State.qwaitExpire, if_neg (Nat.not_le.2 h)]
  dsimp only
  rw [State.efirst_die]
  obtain ⟨v, hv⟩ := State.raiseWith_presents (u.modCourse g fun c =>
    { (c.modQueue q fun y => { y with entries := rest, halt := .qwait }) with
      watches := c.watches ++ [⟨e.pc, .qwait q n v⟩] }) (courseDie g) _ none
  exact ⟨_, hv, rfl, rfl⟩

/-- The course that a queue's wait leaves as it expires with a watch free (R229). -/
theorem qwaitExpire_leaves {q : QueueId} {e : QEntry} {n : Fin 256} {v : Word} {rest : List QEntry}
    (h : (u.course g).watchesUsed < 64) : (((u.qwaitExpire g q e n v rest).course g).queue q).halt = .qwait ∧
      (((u.qwaitExpire g q e n v rest).course g).queue q).entries = rest ∧
      ((u.qwaitExpire g q e n v rest).course g).watches = (u.course g).watches ++ [⟨e.pc, .qwait q n v⟩] := by
  rw [State.qwaitExpire_course, if_neg (Nat.not_le.2 h)]
  have hq := (u.course g).modQueue_queue q fun y => { y with entries := rest, halt := .qwait }
  exact ⟨congrArg QueueState.halt hq, congrArg QueueState.entries hq, rfl⟩

theorem State.qwaitExpire_others (u : State) (g : Course) (q : QueueId) (e : QEntry) (n : Fin 256) (v : Word) (rest : List QEntry)
    {h : Course} (hh : h ≠ g) : (u.qwaitExpire g q e n v rest).course h = u.course h := by
  unfold State.qwaitExpire
  split <;> exact (((State.raiseInstr_reports ..).trans (State.efirst_reports ..)).course h).trans (u.modCourse_course_ne hh _)

/-- A command of a course that runs has the effect of its act. -/
theorem completes_ifCourse {i : Instr} {act : State → State} {p : State → Prop} (hx : exec i s = .next (s.ifCourse g act))
    (hr : s.courseRuns g = true) (hp : p (act s)) : Completes i s p :=
  ⟨act s, hx.trans (ifCourse_runs hr act), hp⟩

/-- Settles O27: the queues settle first, and what still waits ends with TIMEOUT and a watch, or faults. -/
theorem waitsExpire : Obligations.WaitsExpire := by
  refine ⟨fun s g d k x hr hw hx => ⟨fun hl => completes_ifCourse rfl hr ?_, fun hl => ?_⟩,
    fun s g d n a b hr hw => completes_ifCourse rfl hr ?_, fun s g q e rest n v once hr hh he ho hl => completes_ifCourse rfl hr ?_⟩
  · obtain ⟨hwait, hpc, hstatus, hrs⟩ := timedOut_waitEnded hw x
    rw [waitExpiry_watch hw hx, if_neg (Nat.not_le.2 hl), State.modCourse_course]
    exact ⟨hwait, hpc, hstatus, hrs, rfl, fun h hh => (State.modCourse_course_ne _ hh _).trans (s.settle_others hh)⟩
  · exact (ifCourse_runs hr _).trans (congrArg _ ((waitExpiry_watch hw hx).trans (if_pos hl)))
  · obtain ⟨hwait, hpc, hstatus, -⟩ := endWait_waitEnded hw 1
    rw [waitExpiry_leave hw, State.modCourse_course]
    exact ⟨hwait, hpc, hstatus, endWait_watches hw 1⟩
  · obtain ⟨hhalt, hent, hwatch⟩ := qwaitExpire_leaves (u := s.settle g) (g := g) (q := q) (e := e) (rest := rest) (n := n) (v := v) hl
    rw [queueWaitExpiry_expires hh he ho]
    exact ⟨hhalt, hent, hwatch, fun h hh => (State.qwaitExpire_others _ g q e n v rest hh).trans (s.settle_others hh),
      qwaitExpire_presented hl⟩

end

end Sys2Proof.Machine

/-! SUPPORT. Controller registers: the commands that writes of CCR_CTRL, CCR_CQ_CTRL and the tally registers give (R198, R199, R221,
R233, R243, R585). -/

namespace Sys2Proof.Machine

section
variable {s : State} {a : Agent} {g : Course} {v : Word} {o : Nat}

/-! ### A write that reaches a register of the course block (R9) -/

/-- A command that reaches a 32-bit register of the course block that is no counter is a write of that register. -/
theorem courseCommand_of_reaches {r : RegRow} (h : Reaches s a (cr g o)) (ho : o < 0x100000) (hr : regRow (.course g) o = some r)
    (hw : r.wide = false) (hc : counters (.course g) o = none) : s.command a (cr g o) v = s.putCourse g r o v := by
  rw [command_of_reaches h (locate_cr g ho) (fun _ => Blk.noConfusion) hr hw, State.putWord, hc]

theorem ctrlCommand (h : Reaches s a (cr g 0)) : s.command a (cr g 0) v = s.wrCtrl g v :=
  courseCommand_of_reaches h (by omega) rfl rfl rfl

theorem cqCtrlCommand (h : Reaches s a (cr g 0x58)) : s.command a (cr g 0x58) v = s.wrCqCtrl g v :=
  courseCommand_of_reaches h (by omega) rfl rfl rfl

theorem qctrlCommand (h : Reaches s a (cr g 0xA0)) :
    s.command a (cr g 0xA0) v = s.wrQctrl g (v.setWidth 8) ((v >>> 8).setWidth 8) :=
  courseCommand_of_reaches h (by omega) rfl rfl rfl

theorem tallyAddCommand (h : Reaches s a (cr g 0xC20)) : s.command a (cr g 0xC20) v = s.wrTallyAdd g v :=
  courseCommand_of_reaches h (by omega) rfl rfl rfl

theorem tallyPoisonCommand (k : Fin 8) (h : Reaches s a (cr g (0xC00 + 4 * k.val))) :
    s.command a (cr g (0xC00 + 4 * k.val)) v = s.wrTallyPoison g k v := by
  obtain ⟨r, hr, hw, hc⟩ : ∃ r, regRow (.course g) (0xC00 + 4 * k.val) = some r ∧ r.wide = false ∧
      counters (.course g) (0xC00 + 4 * k.val) = none := by
    fin_cases k <;> exact ⟨_, rfl, rfl, rfl⟩
  rw [courseCommand_of_reaches h (by omega) hr hw hc]
  fin_cases k <;> rfl

/-! ### CCR_CTRL (R198, R199, R243, R585) -/

theorem wrCtrl_start : s.wrCtrl g 1 = s.ctlStart g := by simp [State.wrCtrl]

theorem wrCtrl_stop : s.wrCtrl g 2 = s.ctlStop g := by simp [State.wrCtrl]

theorem wrCtrl_ibufInv : s.wrCtrl g 8 = if (s.course g).ctl = .fenced then s else s.ibufInv g := by
  by_cases h : (s.course g).ctl = .fenced <;> simp [State.wrCtrl, h]

theorem State.ctlStop_not_running (h : (s.course g).ctl ≠ .running) : s.ctlStop g = s := if_neg h

theorem State.ctlStop_stalled (h : (s.course g).ctl = .running) (hst : (s.course g).stalled ≠ none) :
    s.ctlStop g = s.setCourse g { s.course g with stopReq := true } := by
  obtain ⟨x, hx⟩ := Option.ne_none_iff_exists'.1 hst
  rw [State.ctlStop]
  simp only [h, hx, if_true]

/-- A controller that waits for a lock withdraws its request as it stops (R230). -/
theorem State.ctlStop_lock {d : Fin 32} {b n x : Nat} (h : (s.course g).ctl = .running) (hst : (s.course g).stalled = none)
    (hw : (s.course g).wait = some ⟨d, .lock b n x⟩) :
    s.ctlStop g = (s.setCourse g { s.course g with ctl := .halted, wait := none }).send (.course g) (.mem (stackOf b))
      (.lockWithdraw b g ((s.reg (cr g 0x1C)).setWidth 16) x) := by
  rw [State.ctlStop]
  simp only [h, hst, hw, if_true]

theorem State.ctlStop_halts (h : (s.course g).ctl = .running) (hst : (s.course g).stalled = none)
    (hw : ∀ d b n x, (s.course g).wait ≠ some ⟨d, .lock b n x⟩) :
    s.ctlStop g = s.setCourse g { s.course g with ctl := .halted, wait := none } := by
  rw [State.ctlStop]
  simp only [h, hst, if_true]

/-- Settles O28: a write of CCR_CTRL is the command of its bit, by the cases of the controller's state. -/
theorem controllerStartsAndStops : Obligations.ControllerStartsAndStops := by
  intro s a g hr c
  have start : exec (.ccrStart a g) s = .next (s.ctlStart g) := congrArg Host.Outcome.next ((ctrlCommand hr).trans wrCtrl_start)
  have stop : exec (.ccrStop a g) s = .next (s.ctlStop g) := congrArg Host.Outcome.next ((ctrlCommand hr).trans wrCtrl_stop)
  have inv : exec (.ibufInv a g) s = .next (if (s.course g).ctl = .fenced then s else s.ibufInv g) :=
    congrArg Host.Outcome.next ((ctrlCommand hr).trans wrCtrl_ibufInv)
  refine ⟨fun h => start.trans (congrArg _ (if_pos h)), fun h => start.trans (congrArg _ (if_neg ?_)),
    fun h hst hw => stop.trans (congrArg _ (State.ctlStop_halts h hst hw)), fun d b n x h hst hw => ⟨_, stop, ?_⟩,
    fun h hst => stop.trans (congrArg _ (State.ctlStop_stalled h hst)),
    fun h => stop.trans (congrArg _ (State.ctlStop_not_running h)), fun h => inv.trans (congrArg _ (if_neg h)),
    fun h => inv.trans (congrArg _ (if_pos h))⟩
  · change ¬(c.ctl = .halted ∨ c.ctl = .faulted)
    obtain h | h := h <;> simp [h]
  · rw [State.ctlStop_lock h hst hw]
    exact ⟨(State.send_course ..).trans (State.setCourse_course ..),
      fun hm => State.send_msgs ((reachable_of_dies (s := s) (t := s.setCourse g _) rfl _).trans hm)⟩

/-! ### CCR_CQ_CTRL (R233) -/

theorem toNat_or_one (v : Word) : (v ||| 1).toNat = 2 * (v.toNat / 2) + 1 := by
  have hdiv : (v.toNat ||| 1) / 2 = v.toNat / 2 := by rw [Nat.or_div_two, Nat.or_zero]
  have hmod : (v.toNat ||| 1) % 2 = 1 := Nat.or_mod_two_eq_one.2 (.inr rfl)
  have h : (v ||| 1).toNat = v.toNat ||| 1 := BitVec.toNat_or ..
  omega

theorem toNat_and_3F (v : Word) : (v &&& 0x3F).toNat = v.toNat % 64 :=
  (BitVec.toNat_and ..).trans (Nat.and_two_pow_sub_one_eq_mod _ 6)

theorem toNat_and_3E (v : Word) : (v &&& 0x3E).toNat = 2 * (v.toNat / 2 % 32) := by
  have hdiv : (v.toNat &&& 0x3E) / 2 = v.toNat / 2 % 32 := by rw [Nat.and_div_two]; exact Nat.and_two_pow_sub_one_eq_mod _ 5
  have hmod : ¬(v.toNat &&& 0x3E) % 2 = 1 := fun h => absurd (Nat.and_mod_two_eq_one.1 h).2 (by decide)
  have h : (v &&& 0x3E).toNat = v.toNat &&& 0x3E := BitVec.toNat_and ..
  omega

/-- CCR_CQ_CTRL as a write with EN enables the queue: its bits, and EN. -/
theorem cqCtrl_enabled (v : Word) :
    BitVec.ofNat 32 ((v ||| 1).toNat % 64 - (v ||| 1).toNat % 2 + 1) = (v &&& 0x3F) ||| 1 := by
  apply BitVec.eq_of_toNat_eq
  rw [BitVec.toNat_ofNat, toNat_or_one, toNat_or_one, toNat_and_3F]
  omega

/-- CCR_CQ_CTRL as a write with EN that is refused: its bits without EN, and BADBASE. -/
theorem cqCtrl_refused (v : Word) :
    BitVec.ofNat 32 ((v ||| 1).toNat % 64 - (v ||| 1).toNat % 2 + 64) = (v &&& 0x3E) ||| 0x40 := by
  have hdisjoint : (v &&& 0x3E) &&& 0x40 = 0#32 := by rw [BitVec.and_assoc]; exact BitVec.and_zero
  rw [← BitVec.add_eq_or_of_and_eq_zero _ _ hdisjoint]
  apply BitVec.eq_of_toNat_eq
  have h40 : (0x40 : Word).toNat = 64 := rfl
  rw [BitVec.toNat_ofNat, BitVec.toNat_add, toNat_or_one, toNat_and_3E, h40]
  omega

/-- A write of CCR_CQ_CTRL with EN enables the queue where its base is good, and else sets BADBASE (R233). -/
theorem wrCqCtrl_en {size : Nat} (hs : size = v.toNat / 4 % 16) : s.wrCqCtrl g (v ||| 1) =
    if size ≤ 10 ∧ (s.reg64 (cr g 0x50)).toNat % (16 * 2 ^ (6 + size)) = 0 ∧
      ∃ p, s.physOf (g.val / 8) (s.reg64 (cr g 0x50)).toNat = some p ∧ s.nearOk p (16 * 2 ^ (6 + size)) = true
    then s.setReg (cr g 0x58) ((v &&& 0x3F) ||| 1) else s.setReg (cr g 0x58) ((v &&& 0x3E) ||| 0x40) := by
  have hsize : (v ||| 1).toNat / 4 % 16 = size := by rw [toNat_or_one]; omega
  have hen : (v ||| 1).getLsbD 0 = true := by simp
  rw [State.wrCqCtrl, hsize, cqCtrl_enabled, cqCtrl_refused, if_pos hen]
  cases s.physOf (g.val / 8) (s.reg64 (cr g 0x50)).toNat <;> simp [and_assoc]

theorem queue_enabled : queueEnabled := by
  intro s a g v hr base size bytes good
  have write : exec (.cqEnable a g v) s = .next (s.wrCqCtrl g (v ||| 1)) := congrArg Host.Outcome.next (cqCtrlCommand hr)
  exact ⟨fun h => write.trans (congrArg _ ((wrCqCtrl_en rfl).trans (if_pos h))),
    fun h => write.trans (congrArg _ ((wrCqCtrl_en rfl).trans (if_neg h)))⟩

/-! ### CCR_TALLY_ADD and CCR_TALLY_POISON (R221) -/

theorem get_filter_key (m : SMap Bool) (p : Nat → Bool) (k : Nat) :
    SMap.get (m.filter fun e => p e.1) k false = (SMap.get m k false && p k) := by
  rw [SMap.get, SMap.find_filter_key]
  cases p k
  · rw [Bool.and_false]; rfl
  · rw [Bool.and_true]; rfl

/-- The tallies of a course once the waits have seen a change of its tallies. -/
theorem settle_tallies (f : CourseState → CourseState) (n : Fin 256) :
    (((s.modCourse g f).settle g).course g).tallyVal n = (f (s.course g)).tallyVal n ∧
      (((s.modCourse g f).settle g).course g).tallyPoi n = (f (s.course g)).tallyPoi n := by
  have h := (s.modCourse g f).settle_keepsTallies g
  have hV := h.tallyV
  have hP := h.tallyP
  rw [State.modCourse_course] at hV hP
  exact ⟨congrArg (fun m => SMap.get m n.val 0) hV, congrArg (fun m => SMap.get m n.val false) hP⟩

theorem tally_registers : tallyRegisters := by
  intro s a g c
  refine ⟨fun v hr => ⟨_, congrArg Host.Outcome.next (tallyAddCommand hr), fun n => ?_⟩,
    fun k v hr => ⟨_, congrArg Host.Outcome.next (tallyPoisonCommand k hr), fun n => ?_⟩⟩
  · obtain ⟨hv, hp⟩ := settle_tallies (s := s) (g := g) (fun c => c.tallyAdd ⟨v.toNat % 256, by omega⟩ (v >>> 8)) n
    refine ⟨hv.trans ?_, hp.trans ?_, fun h hh => (State.settle_others _ hh).trans (s.modCourse_course_ne hh _)⟩
    · have hshift : v >>> 8 = BitVec.ofNat 32 (v.toNat / 256) := by
        apply BitVec.eq_of_toNat_eq
        rw [BitVec.toNat_ushiftRight, Nat.shiftRight_eq_div_pow, BitVec.toNat_ofNat]
        omega
      rw [CourseState.tallyAdd, CourseState.setTally_val]
      by_cases hn : n = ⟨v.toNat % 256, by omega⟩
      · rw [if_pos hn, if_pos (congrArg Fin.val hn), hn, hshift]
      · rw [if_neg hn, if_neg (mt Fin.ext hn)]
    · rw [CourseState.tallyAdd, CourseState.setTally_poi]
      split
      · next h => rw [h]
      · rfl
  · rw [State.wrTallyPoison, State.modCourse_course]
    refine ⟨rfl, ?_, fun h hh => s.modCourse_course_ne hh _⟩
    exact get_filter_key c.tallyP (fun m => !(decide (m / 32 = k.val) && v.getLsbD (m % 32))) n.val

end

end Sys2Proof.Machine

/-! SUPPORT. Queue control: FLUSH and RESUME of queues (R221, R229). -/

namespace Sys2Proof.Machine

section
variable {s t u : State} {a : Agent} {g : Course} {q r : QueueId}

/-! ### What the control of other queues leaves -/

/-- From s to t no value of a tally of course g, no other course, memory or message, and not the state of its controller has changed,
and a tally that was poisoned is. -/
structure Steers (g : Course) (s t : State) : Prop where
  val : ∀ n, (t.course g).tallyVal n = (s.course g).tallyVal n
  others : ∀ h, h ≠ g → t.course h = s.course h
  mem : t.mem = s.mem
  msgs : t.msgs = s.msgs
  ctl : (t.course g).ctl = (s.course g).ctl
  poi : ∀ n, (s.course g).tallyPoi n = true → (t.course g).tallyPoi n = true

theorem Steers.refl (g : Course) (s : State) : Steers g s s := ⟨fun _ => rfl, fun _ _ => rfl, rfl, rfl, rfl, fun _ => id⟩

theorem Steers.trans (h : Steers g s t) (k : Steers g t u) : Steers g s u where
  val n := (k.val n).trans (h.val n)
  others c hc := (k.others c hc).trans (h.others c hc)
  mem := k.mem.trans h.mem
  msgs := k.msgs.trans h.msgs
  ctl := k.ctl.trans h.ctl
  poi n hn := k.poi n (h.poi n hn)

theorem KeepsTallies.steers (h : KeepsTallies g s t) (hc : (t.course g).ctl = (s.course g).ctl) : Steers g s t where
  val n := congrArg (fun m => SMap.get m n.val 0) h.tallyV
  others := h.others
  mem := h.mem
  msgs := h.msgs
  ctl := hc
  poi n hn := (congrArg (fun m => SMap.get m n.val false) h.tallyP).trans hn

/-- The discarded entries with TE poison their tallies (R221). -/
theorem discardTallies_spec (c : CourseState) (es : List QEntry) : (∀ n, (c.discardTallies es).tallyVal n = c.tallyVal n) ∧
    (∀ n, c.tallyPoi n = true → (c.discardTallies es).tallyPoi n = true) ∧
    ∀ e ∈ es, e.te = true → (c.discardTallies es).tallyPoi e.tally = true := by
  induction es generalizing c with
  | nil => exact ⟨fun _ => rfl, fun _ => id, fun _ he => nomatch he⟩
  | cons e es ih =>
    obtain ⟨hv, hp, ht⟩ := ih (if e.te then c.tallyPoison e.tally else c)
    have hval (n : Fin 256) : (if e.te then c.tallyPoison e.tally else c).tallyVal n = c.tallyVal n := by
      split
      · rw [CourseState.tallyPoison, CourseState.setTally_val]
        split
        · next h => rw [h]
        · rfl
      · rfl
    have hpoi (n : Fin 256) (hn : c.tallyPoi n = true) : (if e.te then c.tallyPoison e.tally else c).tallyPoi n = true := by
      split
      · rw [CourseState.tallyPoison, CourseState.setTally_poi, hn]
        exact ite_self _
      · exact hn
    refine ⟨fun n => (hv n).trans (hval n), fun n hn => hp n (hpoi n hn), fun x hx hte => ?_⟩
    obtain rfl | hx := List.mem_cons.1 hx
    · refine hp _ ?_
      rw [if_pos hte, CourseState.tallyPoison, CourseState.setTally_poi, if_pos rfl]
    · exact ht x hx hte

theorem State.modCourse_steers {f : CourseState → CourseState} (hv : ∀ n, (f (s.course g)).tallyVal n = (s.course g).tallyVal n)
    (hp : ∀ n, (s.course g).tallyPoi n = true → (f (s.course g)).tallyPoi n = true) (hc : (f (s.course g)).ctl = (s.course g).ctl) :
    Steers g s (s.modCourse g f) := by
  refine ⟨?_, fun h hh => s.modCourse_course_ne hh f, rfl, rfl, ?_, ?_⟩ <;> rw [State.modCourse_course] <;> assumption

/-- The entries of queue q and whether it is halted are the same from s to t, and nothing but queue control has acted. -/
structure Spares (g : Course) (q : QueueId) (s t : State) : Prop where
  steers : Steers g s t
  entries : ((t.course g).queue q).entries = ((s.course g).queue q).entries
  halt : ((t.course g).queue q).halt = ((s.course g).queue q).halt

theorem Spares.refl (g : Course) (q : QueueId) (s : State) : Spares g q s s := ⟨.refl g s, rfl, rfl⟩

theorem Spares.trans (h : Spares g q s t) (k : Spares g q t u) : Spares g q s u :=
  ⟨h.steers.trans k.steers, k.entries.trans h.entries, k.halt.trans h.halt⟩

/-- A change of queue r that leaves the entries of queue q. -/
theorem State.modQueue_spares {f : QueueState → QueueState}
    (hf : r = q → ∀ y, (f y).entries = y.entries ∧ (f y).halt = y.halt) : Spares g q s (s.modCourse g fun c => c.modQueue r f) := by
  obtain ⟨he, hh⟩ : (((s.course g).modQueue r f).queue q).entries = ((s.course g).queue q).entries ∧
      (((s.course g).modQueue r f).queue q).halt = ((s.course g).queue q).halt := by
    by_cases h : r = q
    · subst h
      rw [CourseState.modQueue_queue]
      exact hf rfl _
    · rw [CourseState.modQueue, CourseState.setQueue_queue_ne _ (Ne.symm h)]
      exact ⟨rfl, rfl⟩
  refine ⟨State.modCourse_steers (fun _ => rfl) (fun _ => id) rfl, ?_, ?_⟩ <;> rwa [State.modCourse_course]

/-- Credits that go back change nothing of the course but the hold, and neither messages nor 32-bit registers. -/
theorem giveBack_course (s : State) (g : Course) (k n : Nat) (src : CreditSrc) : (s.giveBack g k n src).msgs = s.msgs ∧
    (s.giveBack g k n src).regs = s.regs ∧ ∃ h, (s.giveBack g k n src).course g = { s.course g with hold := h } := by
  unfold State.giveBack
  dsimp only
  repeat' split
  · exact ⟨rfl, rfl, _, rfl⟩
  · exact ⟨rfl, rfl, _, rfl⟩
  · exact ⟨rfl, rfl, _, State.modCourse_course ..⟩
  · exact ⟨rfl, rfl, _, rfl⟩
  · exact ⟨rfl, rfl, _, rfl⟩

theorem State.giveBack_spares (s : State) (g : Course) (q : QueueId) (k n : Nat) (src : CreditSrc) :
    Spares g q s (s.giveBack g k n src) := by
  obtain ⟨hmsgs, -, h, hc⟩ := giveBack_course s g k n src
  obtain ⟨hothers, hmem, -⟩ := s.giveBack_apart g k n src
  refine ⟨⟨fun m => ?_, hothers, hmem, hmsgs, ?_, fun m => ?_⟩, ?_, ?_⟩ <;> rw [hc]
  · rfl
  · exact id
  · rfl
  · rfl

/-- A queue's request that is withdrawn leaves the entries of every queue. -/
theorem State.ungrant_spares (s : State) (g : Course) (q r : QueueId) : Spares g q s (s.ungrant g r) := by
  unfold State.ungrant
  split
  · refine Spares.trans ?_ (State.giveBack_spares ..)
    exact State.modQueue_spares fun _ _ => ⟨rfl, rfl⟩
  · exact State.modQueue_spares fun _ _ => ⟨rfl, rfl⟩

/-! ### FLUSH (R221, R229) -/

/-- The course that a flush of queue q leaves, from the course once the queue's request is withdrawn. -/
def CourseState.flushed (c : CourseState) (q : QueueId) (es : List QEntry) : CourseState :=
  let d := (c.modQueue q fun y => { y with entries := [] }).discardTallies es
  { d with arr := d.arr.discard es }

theorem State.flushQueue_eq (s : State) (g : Course) (q : QueueId) : s.flushQueue g q =
    (s.ungrant g q).modCourse g (·.flushed q ((s.course g).queue q).entries) := rfl

/-- What a flush leaves of the tallies, the queues and the controller. -/
theorem CourseState.flushed_spec (c : CourseState) (q : QueueId) (es : List QEntry) :
    (∀ n, (c.flushed q es).tallyVal n = c.tallyVal n) ∧ (∀ n, c.tallyPoi n = true → (c.flushed q es).tallyPoi n = true) ∧
    (∀ e ∈ es, e.te = true → (c.flushed q es).tallyPoi e.tally = true) ∧ (c.flushed q es).ctl = c.ctl ∧
    ∀ r, (c.flushed q es).queue r = (c.modQueue q fun y => { y with entries := [] }).queue r := by
  obtain ⟨hv, hp, ht⟩ := discardTallies_spec (c.modQueue q fun y => { y with entries := [] }) es
  obtain ⟨v, p, he⟩ := (c.modQueue q fun y => { y with entries := [] }).discardTallies_eq es
  refine ⟨hv, hp, ht, ?_, fun r => ?_⟩
  · rw [CourseState.flushed, he]
    rfl
  · rw [CourseState.flushed, he]
    rfl

theorem flushQueue_steers (s : State) (g : Course) (q : QueueId) : Steers g s (s.flushQueue g q) := by
  rw [State.flushQueue_eq]
  obtain ⟨hv, hp, -, hc, -⟩ := ((s.ungrant g q).course g).flushed_spec q ((s.course g).queue q).entries
  exact (s.ungrant_spares g q q).steers.trans (State.modCourse_steers hv hp hc)

/-- A flush of another queue leaves the entries of queue q. -/
theorem flushQueue_spares (hr : r ≠ q) (s : State) : Spares g q s (s.flushQueue g r) := by
  have hq : ((s.flushQueue g r).course g).queue q = ((s.ungrant g r).course g).queue q := by
    obtain ⟨-, -, -, -, hq⟩ := ((s.ungrant g r).course g).flushed_spec r ((s.course g).queue r).entries
    rw [State.flushQueue_eq, State.modCourse_course, hq, CourseState.modQueue, CourseState.setQueue_queue_ne _ (Ne.symm hr)]
  obtain ⟨-, he, hh⟩ := s.ungrant_spares g q r
  exact ⟨flushQueue_steers s g r, (congrArg QueueState.entries hq).trans he, (congrArg QueueState.halt hq).trans hh⟩

/-- A flush of queue q empties it and poisons the tallies of its entries with TE. -/
theorem flushQueue_flushes (s : State) (g : Course) (q : QueueId) : (((s.flushQueue g q).course g).queue q).entries = [] ∧
    ∀ e ∈ ((s.course g).queue q).entries, e.te = true → ((s.flushQueue g q).course g).tallyPoi e.tally = true := by
  rw [State.flushQueue_eq, State.modCourse_course]
  obtain ⟨-, -, ht, -, hq⟩ := ((s.ungrant g q).course g).flushed_spec q ((s.course g).queue q).entries
  rw [hq, CourseState.modQueue_queue]
  exact ⟨rfl, ht⟩

/-! ### RESUME (R229) -/

/-- Nothing leaves the head of queue q as the queues settle: it is halted, or no wait is at its head. -/
def CourseState.Rests (c : CourseState) (q : QueueId) : Prop :=
  (c.queue q).halt ≠ .no ∨ ∀ e ∈ (c.queue q).entries.head?, ∀ n x o, e.op ≠ .queueWait n x o

/-- The entries of queue q and whether it is halted are those of y. -/
def CourseState.Like (c : CourseState) (q : QueueId) (y : QueueState) : Prop :=
  (c.queue q).entries = y.entries ∧ (c.queue q).halt = y.halt

theorem CourseState.Like.modQueue_ne {c : CourseState} {y : QueueState} (h : c.Like q y) (hr : r ≠ q) (f : QueueState → QueueState) :
    (c.modQueue r f).Like q y := by
  rw [CourseState.Like, CourseState.modQueue, CourseState.setQueue_queue_ne _ (Ne.symm hr)]
  exact h

theorem CourseState.Rests.no_wait {c d : CourseState} {e : QEntry} {rest : List QEntry} {n : Fin 256} {x : Word} {o : Bool}
    (h : c.Rests q) (hd : d.Like q (c.queue q)) (hh : (d.queue q).halt = .no) (he : (d.queue q).entries = e :: rest) :
    e.op ≠ .queueWait n x o := by
  obtain ⟨hent, hhalt⟩ := hd
  refine (h.resolve_left (not_not.2 (hhalt.symm.trans hh))) e ?_ n x o
  rw [← hent, he]
  rfl

theorem qwaitExpire_like {e : QEntry} {n : Fin 256} {x : Word} {rest : List QEntry} {y : QueueState} (hr : r ≠ q)
    (h : (s.course g).Like q y) : ((s.qwaitExpire g r e n x rest).course g).Like q y := by
  rw [State.qwaitExpire_course]
  split
  · exact h.modQueue_ne hr _
  · exact h.modQueue_ne hr fun y => { y with entries := rest, halt := .qwait }

/-- A queue that rests is as it was once the queues have settled. -/
theorem CourseState.Rests.settle (h : (s.course g).Rests q) : ((s.settle g).course g).Like q ((s.course g).queue q) := by
  refine State.settle_keeps (P := fun c => c.Like q ((s.course g).queue q)) (fun c r e rest n x o hc hh he ho _ => ?_)
    (fun t r e rest n x ht hh he ho => ?_) (fun c hc => ?_) (fun c k hc => ?_) s ⟨rfl, rfl⟩
  · exact hc.modQueue_ne (fun hr => by subst hr; exact h.no_wait hc hh he ho) _
  · exact qwaitExpire_like (fun hr => by subst hr; exact h.no_wait ht hh he ho) ht
  · show (c.settleWait.queues.get q).entries = _ ∧ (c.settleWait.queues.get q).halt = _
    rw [c.settleWait_queues]
    exact hc
  · by_cases hr : 7 = q
    · subst hr
      rw [CourseState.Like, CourseState.modQueue_queue]
      exact hc
    · exact hc.modQueue_ne hr _

theorem State.settleQueue_steers (s : State) (g : Course) (q : QueueId) (fuel : Nat) : Steers g s (s.settleQueue g q fuel) := by
  have h := State.settleQueue_settles g q fuel s
  exact h.keepsTallies.steers (congrArg CourseState.ctl h.2.2.1 :)

theorem resumeQueue_steers (s : State) (g : Course) (q : QueueId) : Steers g s (s.resumeQueue g q) :=
  (State.modCourse_steers (fun _ => rfl) (fun _ => id) rfl).trans (State.settleQueue_steers ..)

/-- A resumption of another queue leaves the entries of queue q. -/
theorem resumeQueue_spares (hr : r ≠ q) (s : State) : Spares g q s (s.resumeQueue g r) := by
  have h : ((s.resumeQueue g r).course g).Like q ((s.course g).queue q) := by
    refine State.settleQueue_keeps (P := fun c => c.Like q ((s.course g).queue q)) (fun c e rest n x o hc _ _ _ _ => hc.modQueue_ne hr _)
      (fun t e rest n x ht _ _ _ => qwaitExpire_like hr ht) 65 _ ?_
    rw [State.modCourse_course]
    exact CourseState.Like.modQueue_ne ⟨rfl, rfl⟩ hr _
  exact ⟨resumeQueue_steers s g r, h.1, h.2⟩

/-- A queue without a wait at its head is no longer halted once it is resumed, and holds what it did. -/
theorem resumeQueue_resumes (hw : ∀ e ∈ ((s.course g).queue q).entries.head?, ∀ n x o, e.op ≠ .queueWait n x o) :
    (((s.resumeQueue g q).course g).queue q).halt = .no ∧
      (((s.resumeQueue g q).course g).queue q).entries = ((s.course g).queue q).entries := by
  have h : ((s.resumeQueue g q).course g).Like q { (s.course g).queue q with halt := .no } := by
    have hno {d : CourseState} {e : QEntry} {rest : List QEntry} {n : Fin 256} {x : Word} {o : Bool}
        (hd : d.Like q { (s.course g).queue q with halt := .no }) (he : (d.queue q).entries = e :: rest) : e.op ≠ .queueWait n x o :=
      hw e (by rw [← show _ = ((s.course g).queue q).entries from hd.1, he]; rfl) n x o
    refine State.settleQueue_keeps (P := fun c => c.Like q { (s.course g).queue q with halt := .no })
      (fun c e rest n x o hc _ he ho _ => absurd ho (hno hc he)) (fun t e rest n x ht _ he ho => absurd ho (hno ht he)) 65 _ ?_
    rw [State.modCourse_course, CourseState.Like, CourseState.modQueue_queue]
    exact ⟨rfl, rfl⟩
  exact ⟨h.2, h.1⟩

/-! ### A write of CCR_QCTRL (R229) -/

/-- What a write of CCR_QCTRL does to one queue. -/
def State.steerQueue (g : Course) (resume flush : BitVec 8) (s : State) (q : QueueId) : State :=
  let u := if flush.getLsbD q.val && decide ((s.course g).ctl ≠ .running) then s.flushQueue g q else s
  if resume.getLsbD q.val && decide ((u.course g).ctl ≠ .fenced) && decide (((u.course g).queue q).halt ≠ .no)
  then u.resumeQueue g q else u

theorem wrQctrl_eq {resume flush : BitVec 8} :
    s.wrQctrl g resume flush = ((List.finRange 8).foldl (State.steerQueue g resume flush) s).settle g := rfl

theorem steerQueue_flush {flush : BitVec 8} : s.steerQueue g 0 flush q =
    if flush.getLsbD q.val = true ∧ (s.course g).ctl ≠ .running then s.flushQueue g q else s := by
  simp [State.steerQueue]

theorem steerQueue_resume {resume : BitVec 8} : s.steerQueue g resume 0 q =
    if resume.getLsbD q.val = true ∧ (s.course g).ctl ≠ .fenced ∧ ((s.course g).queue q).halt ≠ .no
    then s.resumeQueue g q else s := by
  simp [State.steerQueue, and_assoc]

theorem steerQueue_spares {resume flush : BitVec 8} (hr : r ≠ q) (s : State) : Spares g q s (s.steerQueue g resume flush r) := by
  unfold State.steerQueue
  dsimp only
  have hf : Spares g q s (if flush.getLsbD r.val && decide ((s.course g).ctl ≠ .running) then s.flushQueue g r else s) := by
    split
    · exact flushQueue_spares hr s
    · exact .refl g q s
  generalize (if flush.getLsbD r.val && decide ((s.course g).ctl ≠ .running) then s.flushQueue g r else s) = u at hf ⊢
  split
  · exact hf.trans (resumeQueue_spares hr _)
  · exact hf

theorem foldl_spares (resume flush : BitVec 8) {l : List QueueId} (hl : q ∉ l) (s : State) :
    Spares g q s (l.foldl (State.steerQueue g resume flush) s) :=
  List.foldlRecOn (motive := Spares g q s) l _ (.refl g q s) fun _ h _ hr => h.trans (steerQueue_spares (ne_of_mem_of_not_mem hr hl) _)

/-- A write of CCR_QCTRL acts on queue q once, before and after other queues. -/
theorem wrQctrl_queue (s : State) (g : Course) (resume flush : BitVec 8) (q : QueueId) : ∃ u v, Spares g q s u ∧
    Spares g q (u.steerQueue g resume flush q) v ∧ s.wrQctrl g resume flush = v.settle g := by
  obtain ⟨l, l', hl⟩ := List.append_of_mem (List.mem_finRange q)
  have hnodup := List.nodup_middle.1 (hl ▸ List.nodup_finRange 8)
  have hnot := (List.nodup_cons.1 hnodup).1
  rw [List.mem_append, not_or] at hnot
  refine ⟨_, _, foldl_spares resume flush hnot.1 s, foldl_spares resume flush hnot.2 _, ?_⟩
  rw [wrQctrl_eq, hl, List.foldl_append, List.foldl_cons]

/-- The bits of RESUME and of FLUSH in a word of CCR_QCTRL. -/
theorem qctrl_bits (m : BitVec 8) : (m.setWidth 32).setWidth 8 = m ∧ (m.setWidth 32 >>> 8).setWidth 8 = (0 : BitVec 8) ∧
    (m.setWidth 32 <<< 8).setWidth 8 = (0 : BitVec 8) ∧ ((m.setWidth 32 <<< 8) >>> 8).setWidth 8 = m := by
  have h := m.isLt
  have h0 : (0 : BitVec 8).toNat = 0 := rfl
  refine ⟨?_, ?_, ?_, ?_⟩ <;> apply BitVec.eq_of_toNat_eq <;>
    simp only [BitVec.toNat_setWidth, BitVec.toNat_ushiftRight, BitVec.toNat_shiftLeft, Nat.shiftRight_eq_div_pow,
      Nat.shiftLeft_eq, h0] <;> omega

theorem execQueueFlush_eq {mask : BitVec 8} (hr : Reaches s a (cr g 0xA0)) :
    exec (.queueFlush a g mask) s = .next (s.wrQctrl g 0 mask) := by
  obtain ⟨-, -, h0, hm⟩ := qctrl_bits mask
  have h := qctrlCommand (v := mask.setWidth 32 <<< 8) hr
  rw [h0, hm] at h
  exact congrArg Host.Outcome.next h

theorem execQueueResume_eq {mask : BitVec 8} (hr : Reaches s a (cr g 0xA0)) :
    exec (.queueResume a g mask) s = .next (s.wrQctrl g mask 0) := by
  obtain ⟨hm, h0, -, -⟩ := qctrl_bits mask
  have h := qctrlCommand (v := mask.setWidth 32) hr
  rw [h0, hm] at h
  exact congrArg Host.Outcome.next h

/-- What a write of CCR_QCTRL leaves (R221, R229). -/
structure Framed (g : Course) (s t : State) : Prop where
  val : ∀ n, (t.course g).tallyVal n = (s.course g).tallyVal n
  others : ∀ h, h ≠ g → t.course h = s.course h
  mem : t.mem = s.mem
  msgs : t.msgs = s.msgs

theorem Steers.framed_settle (h : Steers g s t) : Framed g s (t.settle g) := by
  obtain ⟨ho, hV, -, hm, hmsg⟩ := t.settle_keepsTallies g
  exact ⟨fun n => (congrArg (fun m => SMap.get m n.val 0) hV : _).trans (h.val n), fun c hc => (ho c hc).trans (h.others c hc),
    hm.trans h.mem, hmsg.trans h.msgs⟩

theorem settle_tallyPoi (n : Fin 256) : ((s.settle g).course g).tallyPoi n = (s.course g).tallyPoi n :=
  congrArg (fun m => SMap.get m n.val false) (s.settle_keepsTallies g).tallyP

/-- FLUSH empties the queue and poisons the tallies of its entries with TE, while the controller does not run (R221, R229). -/
theorem wrQctrl_flush {mask : BitVec 8} (hm : mask.getLsbD q.val = true) (hc : (s.course g).ctl ≠ .running) :
    (((s.wrQctrl g 0 mask).course g).queue q).entries = [] ∧
      (∀ e ∈ ((s.course g).queue q).entries, e.te = true → ((s.wrQctrl g 0 mask).course g).tallyPoi e.tally = true) ∧
      Framed g s (s.wrQctrl g 0 mask) := by
  obtain ⟨u, v, hu, hv, he⟩ := wrQctrl_queue s g 0 mask q
  rw [steerQueue_flush, if_pos ⟨hm, hu.steers.ctl ▸ hc⟩] at hv
  obtain ⟨hnil, hpoi⟩ := flushQueue_flushes u g q
  have hvnil := hv.entries.trans hnil
  have hrest : (v.course g).Rests q := .inr fun e h => by rw [hvnil] at h; cases h
  rw [he]
  refine ⟨hrest.settle.1.trans hvnil, fun e h hte => ?_, ((hu.steers.trans (flushQueue_steers u g q)).trans hv.steers).framed_settle⟩
  rw [settle_tallyPoi]
  exact hv.steers.poi _ (hpoi e (hu.entries ▸ h) hte)

/-- RESUME restarts a halted queue, unless the course is FENCED (R229). -/
theorem wrQctrl_resume {mask : BitVec 8} (hm : mask.getLsbD q.val = true) (hc : (s.course g).ctl ≠ .fenced)
    (hh : ((s.course g).queue q).halt ≠ .no) (hw : ∀ e ∈ ((s.course g).queue q).entries.head?, ∀ n x o, e.op ≠ .queueWait n x o) :
    (((s.wrQctrl g mask 0).course g).queue q).halt = .no ∧
      (((s.wrQctrl g mask 0).course g).queue q).entries = ((s.course g).queue q).entries ∧ Framed g s (s.wrQctrl g mask 0) := by
  obtain ⟨u, v, hu, hv, he⟩ := wrQctrl_queue s g mask 0 q
  rw [steerQueue_resume, if_pos ⟨hm, hu.steers.ctl ▸ hc, hu.halt ▸ hh⟩] at hv
  obtain ⟨hno, hent⟩ := resumeQueue_resumes (s := u) (g := g) (q := q) (hu.entries ▸ hw)
  have hvent := hv.entries.trans (hent.trans hu.entries)
  have hrest : (v.course g).Rests q := .inr (hvent ▸ hw)
  rw [he]
  exact ⟨hrest.settle.2.trans (hv.halt.trans hno), hrest.settle.1.trans hvent,
    ((hu.steers.trans (resumeQueue_steers u g q)).trans hv.steers).framed_settle⟩

theorem wrQctrl_resume_fenced {mask : BitVec 8} (hc : (s.course g).ctl = .fenced) (hh : ((s.course g).queue q).halt ≠ .no) :
    (((s.wrQctrl g mask 0).course g).queue q).halt = ((s.course g).queue q).halt ∧
      (((s.wrQctrl g mask 0).course g).queue q).entries = ((s.course g).queue q).entries ∧ Framed g s (s.wrQctrl g mask 0) := by
  obtain ⟨u, v, hu, hv, he⟩ := wrQctrl_queue s g mask 0 q
  rw [steerQueue_resume, if_neg fun h => h.2.1 (hu.steers.ctl.trans hc)] at hv
  have hsv := hu.trans hv
  have hrest : (v.course g).Rests q := .inl (hsv.halt ▸ hh)
  rw [he]
  exact ⟨hrest.settle.2.trans hsv.halt, hrest.settle.1.trans hsv.entries, hsv.steers.framed_settle⟩

theorem flush_and_resume : flushAndResume := by
  intro s a g mask q hr hm c y frame
  refine ⟨fun hc => ⟨_, execQueueFlush_eq hr, ?_⟩, fun hc hh hw => ⟨_, execQueueResume_eq hr, ?_⟩,
    fun hc hh => ⟨_, execQueueResume_eq hr, ?_⟩⟩
  · obtain ⟨he, hp, hf⟩ := wrQctrl_flush hm hc
    exact ⟨he, hp, hf.val, hf.others, hf.mem, hf.msgs⟩
  · obtain ⟨hh, he, hf⟩ := wrQctrl_resume hm hc hh hw
    exact ⟨hh, he, hf.val, hf.others, hf.mem, hf.msgs⟩
  · obtain ⟨hh, he, hf⟩ := wrQctrl_resume_fenced (mask := mask) hc hh
    exact ⟨hh, he, hf.val, hf.others, hf.mem, hf.msgs⟩

/-- Settles O32: each queue is flushed and resumed apart from the others, and a tally's register changes that tally alone. -/
theorem queueAndTallyCommands : Obligations.QueueAndTallyCommands := ⟨flush_and_resume, tally_registers⟩

end

end Sys2Proof.Machine

/-! SUPPORT. Completion: records of the completion queue, and instructions that enter and leave their queues (R212, R213, R221, R233,
R234, R473). -/

namespace Sys2Proof.Machine

section
variable {s t u : State} {g : Course} {q : QueueId}

/-! ### The completion queue (R233, R234) -/

theorem cqBytes_length (r : CqRecord) (v : Word) : (cqBytes r v).length = 16 := by
  simp [cqBytes, leBytes_length]

theorem State.store_byte (s : State) (a b : Nat) (bs : List Byte) (h : bs.length < 64) :
    (s.store a bs).byte b = if a ≤ b ∧ b < a + bs.length then bs.getD (b - a) 0 else s.byte b := by
  rw [State.store, State.cleanLines_short _ _ _ h, State.putBytes_byte]

/-- The state as the oldest record is written at a, before an interrupt goes out. -/
def State.recordWritten (s : State) (g : Course) (a : Nat) (r : CqRecord) (rs : List CqRecord) : State :=
  ((s.store a (cqBytes r (s.reg (cr g 0x60)))).setReg (cr g 0x60) (s.reg (cr g 0x60) + 1)).modCourse g fun c => { c with records := rs }

theorem State.store_short (s : State) (a : Nat) (bs : List Byte) (h : bs.length < 64) :
    s.store a bs = { s with mem := (s.putBytes a bs).mem } := by
  rw [State.store, State.cleanLines_short _ _ _ h]
  exact State.putBytes_eq bs s a

theorem store_course (s : State) (a : Nat) (bs : List Byte) (k : Course) (h : bs.length < 64) :
    (s.store a bs).course k = s.course k := by
  rw [State.store_short s a bs h]
  generalize (s.putBytes a bs).mem = m
  rfl

theorem State.finishTests_of_none (h : (s.course g).selfTests = []) : s.finishTests g = s := by
  rw [State.finishTests, h]
  rfl

theorem completionRecordWrite_idle {r : CqRecord} {rs : List CqRecord} (hr : (s.course g).records = r :: rs)
    (h : (s.reg (cr g 0x58)).getLsbD 0 = false ∨ (s.reg (cr g 0x60) - s.reg (cr g 0x5C)).toNat = s.cqSize g) :
    completionRecordWrite g s = s := by
  rw [completionRecordWrite, hr]
  obtain h | h := h
  · simp only [h, Bool.false_and, Bool.false_eq_true, if_false]
  · simp only [h, ne_eq, not_true_eq_false, decide_false, Bool.and_false, Bool.false_eq_true, if_false]

/-- A course without self-tests writes its oldest record where the queue is enabled and not full, and then may interrupt. -/
theorem completionRecordWrite_writes {r : CqRecord} {rs : List CqRecord} {a : Nat} (hr : (s.course g).records = r :: rs)
    (he : (s.reg (cr g 0x58)).getLsbD 0 = true) (hf : (s.reg (cr g 0x60) - s.reg (cr g 0x5C)).toNat ≠ s.cqSize g)
    (ht : (s.course g).selfTests = [])
    (ha : s.physOf (g.val / 8) ((s.reg64 (cr g 0x50)).toNat + 16 * ((s.reg (cr g 0x60)).toNat % s.cqSize g)) = some a)
    (hn : s.nearOk a 16 = true) : Signals (s.recordWritten g a r rs) (completionRecordWrite g s) := by
  have hmem : s.store a (cqBytes r (s.reg (cr g 0x60))) = _ := s.store_short a _ (by rw [cqBytes_length]; decide)
  have htests : ((s.recordWritten g a r rs).course g).selfTests = [] := by
    rw [State.recordWritten, State.modCourse_course, hmem]
    exact ht
  have heq : completionRecordWrite g s = (if (s.reg (cr g 0x58)).getLsbD 1 then (s.recordWritten g a r rs).irqCourse g 0
      else s.recordWritten g a r rs).finishTests g := by
    simp only [completionRecordWrite, hr, he, hf, ha, hn, ne_eq, not_false_eq_true, decide_true, Bool.and_true, if_true]
    rfl
  have hsig : Signals (s.recordWritten g a r rs) (if (s.reg (cr g 0x58)).getLsbD 1 then (s.recordWritten g a r rs).irqCourse g 0
      else s.recordWritten g a r rs) := by
    split
    · exact State.irqCourse_signals _ g 0
    · exact .refl _
  rw [heq, State.finishTests_of_none]
  · exact hsig
  · obtain ⟨-, -, -, hc, -⟩ := hsig.reads
    rw [hc]
    exact htests

theorem records_written : recordsWritten := by
  intro s g r rs c tail size full hr hrec
  refine ⟨fun a he hf ht ha hn => completes_ifCourse rfl hr ?_,
    fun h => (ifCourse_runs hr _).trans (congrArg _ (completionRecordWrite_idle hrec h))⟩
  obtain ⟨hreg, -, -, hcourse, hmem, -⟩ := (completionRecordWrite_writes hrec he hf ht ha hn).reads
  have hlen : (cqBytes r tail).length < 64 := by rw [cqBytes_length]; decide
  have hbyte (b : Nat) : (completionRecordWrite g s).byte b = (s.store a (cqBytes r tail)).byte b := by
    rw [State.byte, hmem]
    rfl
  have hstore (h : Course) : (s.store a (cqBytes r tail)).course h = s.course h := store_course s a _ h hlen
  rw [hreg, hcourse]
  refine ⟨?_, ?_, fun b => ?_, fun h hh => ?_, fun n => ?_⟩
  · rw [State.recordWritten, State.modCourse_course]
  · rw [State.recordWritten, State.modCourse_reg, State.setReg_reg]
  · rw [hbyte, State.store_byte _ _ _ _ hlen, cqBytes_length]
    rfl
  · rw [hcourse, State.recordWritten, State.modCourse_course_ne _ hh, State.setReg_course, hstore]
  · rw [State.recordWritten, State.modCourse_course, State.setReg_course, hstore]
    rfl

/-- Settles O31: EN is set where the base is good, and a record goes to the entry that CCR_CQ_TAIL names. -/
theorem completionQueueWorks : Obligations.CompletionQueueWorks := ⟨queue_enabled, records_written⟩

end

end Sys2Proof.Machine

/-! SUPPORT. QueueFlow: instructions that enter a queue that was full, and leave it as they complete (R212, R213, R221, R234,
R473). -/

namespace Sys2Proof.Machine

section
variable {s t u : State} {g : Course} {q : QueueId} {e : QEntry}

/-! ### The stalled instruction enters its queue (R212) -/

theorem waits_false (h : ∀ n x o, e.op ≠ .queueWait n x o) : e.waits = false := by
  unfold QEntry.waits
  split
  · next n x o ho => exact absurd ho (h n x o)
  · rfl

/-- A queue with room takes the entry at its end; nothing else of the course changes but that the controller stands behind it. -/
theorem enqueue_enters (hw : (s.course g).wait = none) (hl : ((s.course g).queue q).entries.length < 64)
    (he : e.waits = false) : (((s.course g).withWait q e).Beside ((s.enqueue g q e).course g)) ∧
      ∃ k, (((s.enqueue g q e).course g).queue q).entries = ((s.course g).queue q).entries.drop k ++ [e] := by
  rw [State.enqueue_eq hl]
  obtain ⟨-, -, hb, hq⟩ := (s.modCourse g (·.withWait q e)).settle_settles g (by rw [State.modCourse_course]; exact hw)
  rw [State.modCourse_course] at hb hq
  exact ⟨hb, (hq q).entries_append (congrArg QueueState.entries (CourseState.setQueue_queue ..)) he⟩

theorem queueAppend_enters (hst : (s.course g).stalled = some (q, e)) (hn : ((s.enqueue g q e).course g).stopReq = false) :
    queueAppend g s = s.enqueue g q e := by
  simp only [queueAppend, hst, hn, Bool.and_false, Bool.false_eq_true, if_false]

/-- A full queue takes nothing. -/
theorem enqueue_full (hst : (s.course g).stalled = some (q, e)) (hl : ((s.course g).queue q).entries.length = 64) :
    s.enqueue g q e = s.startTicks (cr g 0xC8) := by
  have hself : (s.modCourse g fun c => { c with stalled := some (q, e) }) = s := by
    rw [State.modCourse, ← hst]
    exact State.setCourse_self s g
  rw [State.enqueue, if_neg (by omega), hself]

theorem queueAppend_full (hst : (s.course g).stalled = some (q, e)) (hl : ((s.course g).queue q).entries.length = 64) :
    queueAppend g s = s.startTicks (cr g 0xC8) := by
  have hstalled : ((s.startTicks (cr g 0xC8)).course g).stalled = some (q, e) := by rw [State.startTicks_course]; exact hst
  simp only [queueAppend, hst, enqueue_full hst hl, hstalled, Option.isNone_some, Bool.false_and, Bool.false_eq_true, if_false]

theorem startTicks_ticking (s : State) (o : Nat) : { s.startTicks o with ticking := s.ticking } = s := by
  unfold State.startTicks
  split <;> rfl

theorem stalled_enters : stalledEnters := by
  intro s g q e c hr hst
  refine ⟨fun hl ho hsr hw => completes_ifCourse rfl hr ?_, fun hl => completes_ifCourse rfl hr ?_⟩
  · obtain ⟨hb, hent⟩ := enqueue_enters hw hl (waits_false ho)
    have hkeeps : ∀ h, h ≠ g → (s.enqueue g q e).course h = s.course h := fun h hh => by
      rw [State.enqueue_eq hl]
      exact (State.settle_others _ hh).trans (s.modCourse_course_ne hh _)
    have hmem : (s.enqueue g q e).mem = s.mem := by
      rw [State.enqueue_eq hl]
      exact (State.settle_keepsTallies _ g).mem
    rw [queueAppend_enters hst ((hb.same (·.stopReq) fun _ _ _ => rfl).trans hsr)]
    exact ⟨hb.same (·.stalled) fun _ _ _ => rfl, hb.same (·.pc) fun _ _ _ => rfl, hb.same (·.ctl) fun _ _ _ => rfl, hent,
      fun i => hb.same (·.rs i) fun _ _ _ => rfl, hkeeps, hmem⟩
  · rw [queueAppend_full hst hl]
    exact startTicks_ticking s _

/-! ### An instruction completes (R213, R221, R234, R473) -/

/-- Records are only added as the queues settle (R227). -/
theorem settle_records (s : State) (g : Course) : ∃ more, ((s.settle g).course g).records = (s.course g).records ++ more := by
  refine State.settle_keeps (P := fun c => ∃ more, c.records = (s.course g).records ++ more) (fun c r e rest n x o hc _ _ _ _ => hc)
    (fun t r e rest n x ht _ _ _ => ?_) (fun c hc => ?_) (fun c k hc => hc) s ⟨[], (List.append_nil _).symm⟩
  · rw [State.qwaitExpire_course]
    split
    · exact ht
    · exact ht
  · obtain ⟨more, hm⟩ := hc
    have hw : c.settleWait.records = c.records := by
      unfold CourseState.settleWait CourseState.endWait CourseState.ws
      repeat' split
      all_goals rfl
    refine ⟨more ++ (c.settleWait.watches.filter fun w => c.settleWait.met w.kind).map c.settleWait.lateRecord, ?_⟩
    rw [← List.append_assoc, ← hm, ← hw]
    rfl

/-- The course as an instruction that completes updates its tally (R221). -/
def CourseState.tallied (c : CourseState) (te poison : Bool) (n : Fin 256) : CourseState :=
  if te then (if poison then (c.tallyAdd n 1).tallyPoison n else c.tallyAdd n 1) else c

theorem completeEffects_eq (c : CourseState) (k : Nat) (pc : Addr) (te : Bool) (n : Fin 256) (ntf poison : Bool) (code : BitVec 16) :
    c.completeEffects k pc te n ntf poison code = { c.tallied te poison n with records := (c.tallied te poison n).records ++
      if ntf then [(c.tallied te poison n).notify k pc te n code (decide (code ≠ 0))] else [] } := by
  cases ntf
  · simp only [CourseState.completeEffects, Bool.false_eq_true, if_false, List.append_nil]
    rfl
  · rfl

theorem setTally_tallied (c : CourseState) (n : Fin 256) (v : Word) (p : Bool) : (c.setTally n v p).tallyVal n = v ∧
    (c.setTally n v p).tallyPoi n = p ∧
    ∀ m, m ≠ n → (c.setTally n v p).tallyVal m = c.tallyVal m ∧ (c.setTally n v p).tallyPoi m = c.tallyPoi m :=
  ⟨(c.setTally_val n v p n).trans (if_pos rfl), (c.setTally_poi n v p n).trans (if_pos rfl),
    fun m hm => ⟨(c.setTally_val n v p m).trans (if_neg hm), (c.setTally_poi n v p m).trans (if_neg hm)⟩⟩

theorem tallied_tallied (c : CourseState) (te poison : Bool) (n : Fin 256) : Tallied c (c.tallied te poison n) te poison n := by
  obtain ⟨hv, hp, ho⟩ := setTally_tallied c n (c.tallyVal n + 1) (c.tallyPoi n)
  cases te
  · exact ⟨rfl, (Bool.or_false _).symm, fun _ _ => ⟨rfl, rfl⟩⟩
  · cases poison
    · exact ⟨hv, hp.trans (Bool.or_false _).symm, ho⟩
    · obtain ⟨kv, kp, ko⟩ := setTally_tallied (c.tallyAdd n 1) n ((c.tallyAdd n 1).tallyVal n) true
      exact ⟨kv.trans hv, kp.trans (Bool.or_true _).symm,
        fun m hm => ⟨(ko m hm).1.trans (ho m hm).1, (ko m hm).2.trans (ho m hm).2⟩⟩

/-- A tally's update changes nothing else of the course. -/
theorem tallied_rest (c : CourseState) (te poison : Bool) (n : Fin 256) :
    (c.tallied te poison n).records = c.records ∧ (c.tallied te poison n).queues = c.queues := by
  cases te
  · exact ⟨rfl, rfl⟩
  · cases poison <;> exact ⟨rfl, rfl⟩

theorem Tallied.congr {c c' d d' : CourseState} {te poison : Bool} {n : Fin 256} (h : Tallied c d te poison n)
    (hV : c'.tallyV = c.tallyV) (hP : c'.tallyP = c.tallyP) (kV : d'.tallyV = d.tallyV) (kP : d'.tallyP = d.tallyP) :
    Tallied c' d' te poison n := by
  unfold Tallied CourseState.tallyVal CourseState.tallyPoi at *
  rwa [hV, hP, kV, kP]

/-- The state as a done instruction has left the started list and its credits have gone back. -/
def State.instrLeft (s : State) (g : Course) (q : QueueId) (i : Started) : State :=
  (s.modCourse g fun c => c.modQueue q fun y => { y with started := y.started.filter fun j => j.e.serial != i.e.serial }).giveBack g
    (requester g q) i.credits i.src

/-- The state with the effects of its completion. -/
def State.instrEffects (s : State) (g : Course) (q : QueueId) (i : Started) : State :=
  (s.instrLeft g q i).modCourse g fun c => c.completeEffects q.val i.e.pc i.e.te i.e.tally i.e.ntf i.poison i.code

theorem instrComplete_eq {i : Started} (hd : ((s.course g).queue q).nextDone = some i) (ho : i.orphan = false) (ha : i.already = false)
    (hn : i.e.ntf = true → (s.course g).watchesUsed < 64) : instrComplete g q s = (((s.instrEffects g q i).settle g).modCourse g
      fun c => { c with arr := c.arr.modLog i.e.serial fun l => { l with completed := true } }).checkWindow g := by
  have hhold : (!i.orphan && i.e.ntf && decide (64 ≤ (s.course g).watchesUsed)) = false := by
    cases hntf : i.e.ntf
    · rw [Bool.and_false, Bool.false_and]
    · rw [decide_eq_false (Nat.not_le.2 (hn hntf)), Bool.and_false]
  unfold instrComplete
  rw [hd]
  dsimp only
  rw [hhold, ho, ha, if_neg Bool.false_ne_true, Bool.or_self, if_neg Bool.false_ne_true]
  rfl

/-- What follows the effects of a completion leaves of the state. -/
structure Trails (g : Course) (s t : State) : Prop where
  others : ∀ h, h ≠ g → t.course h = s.course h
  arr : ∃ ar, t.course g = { s.course g with arr := ar }
  mem : t.mem = s.mem
  msgs : t.msgs = s.msgs
  cdies : t.cdies = s.cdies

theorem State.checkWindow_trails (s : State) (g : Course) (f : ArrayState → ArrayState) :
    Trails g s ((s.modCourse g fun c => { c with arr := f c.arr }).checkWindow g) := by
  obtain ⟨l, v, hr⟩ := (s.modCourse g fun c => { c with arr := f c.arr }).checkWindow_reports g
  have hc := hr.course
  obtain ⟨_, _, _, _, he⟩ := hr
  refine ⟨fun h hh => ?_, ⟨{ f (s.course g).arr with log := l, overflow := v }, ?_⟩, ?_, ?_, ?_⟩
  · rw [hc, State.modCourse_course_ne _ hh, State.modCourse_course_ne _ hh]
  · rw [hc, State.modCourse_course, State.modCourse_course]
  all_goals rw [he]; rfl

/-- The course once the instruction has left the started list. -/
theorem instrLeft_course (s : State) (g : Course) (q : QueueId) (i : Started) : ∃ h, (s.instrLeft g q i).course g =
    { (s.course g).modQueue q fun y => { y with started := y.started.filter fun j => j.e.serial != i.e.serial } with hold := h } := by
  obtain ⟨-, -, h, hc⟩ := giveBack_course (s.modCourse g fun c => c.modQueue q fun y =>
    { y with started := y.started.filter fun j => j.e.serial != i.e.serial }) g (requester g q) i.credits i.src
  rw [State.modCourse_course] at hc
  exact ⟨h, hc⟩

theorem instrLeft_apart (s : State) (g : Course) (q : QueueId) (i : Started) :
    Apart g s (s.instrLeft g q i) ∧ (s.instrLeft g q i).msgs = s.msgs :=
  ⟨(s.modCourse_apart g _).trans (State.giveBack_apart ..), (giveBack_course ..).1⟩

/-- The course with the effects of the completion: its tally, its record, and one started instruction fewer. -/
theorem instrEffects_course (s : State) (g : Course) (q : QueueId) (i : Started) :
    let d := (s.instrEffects g q i).course g
    Tallied (s.course g) d i.e.te i.poison i.e.tally ∧
    (d.queue q).started = ((s.course g).queue q).started.filter (fun j => j.e.serial != i.e.serial) ∧
    d.records = (s.course g).records ++ if i.e.ntf then [⟨i.e.pc, 1,
      (if i.e.te && d.tallyPoi i.e.tally then 2 else 0) + (if i.code ≠ 0 then 4 else 0),
      if i.e.te then BitVec.ofNat 8 i.e.tally.val else 0, BitVec.ofNat 8 q.val, i.code⟩] else [] := by
  obtain ⟨h, hl⟩ := instrLeft_course s g q i
  dsimp only
  rw [State.instrEffects, State.modCourse_course, completeEffects_eq]
  generalize (s.instrLeft g q i).course g = c1 at hl
  obtain ⟨hrec, hqueues⟩ := tallied_rest c1 i.e.te i.poison i.e.tally
  have hq := (s.course g).modQueue_queue q fun y => { y with started := y.started.filter fun j => j.e.serial != i.e.serial }
  have hc1 : (c1.queue q).started = ((s.course g).queue q).started.filter (fun j => j.e.serial != i.e.serial) :=
    (congrArg (fun c => (c.queue q).started) hl).trans (congrArg QueueState.started hq)
  refine ⟨(tallied_tallied c1 _ _ _).congr (congrArg CourseState.tallyV hl).symm (congrArg CourseState.tallyP hl).symm rfl rfl, ?_, ?_⟩
  · exact (congrArg (fun v : Vector QueueState 8 => (v.get q).started) hqueues).trans hc1
  · have hc : c1.records = (s.course g).records := (congrArg CourseState.records hl :)
    dsimp only
    rw [hrec, hc, CourseState.notify]
    simp only [decide_eq_true_eq]
    rfl

theorem instrComplete_credits {i : Started} {t : State} (ht : t.cdies = (s.instrLeft g q i).cdies) (hp : i.src = .pool) :
    (t.cdie (courseCDie g)).inUse.toList.getD (requester g q) 0 =
      (s.cdie (courseCDie g)).inUse.toList.getD (requester g q) 0 - i.credits := by
  have h : t.cdie (courseCDie g) = (s.instrLeft g q i).cdie (courseCDie g) := congrArg (fun v => v.get (courseCDie g)) ht
  rw [h, State.instrLeft, hp, State.giveBack_pool (requester_lt g q)]
  rfl

theorem instructions_complete : instructionsComplete := by
  intro s g q i c hr hd ho ha hn
  refine completes_ifCourse rfl hr ?_
  rw [instrComplete_eq hd ho ha hn]
  obtain ⟨hothers, ⟨ar, hcourse⟩, hmem, hmsgs, hcdies⟩ := ((s.instrEffects g q i).settle g).checkWindow_trails g
    fun a => a.modLog i.e.serial fun l => { l with completed := true }
  obtain ⟨htally, hstarted, hrec⟩ := instrEffects_course s g q i
  obtain ⟨hapart, hlmsgs⟩ := instrLeft_apart s g q i
  have hkt := (s.instrEffects g q i).settle_keepsTallies g
  have hks := (s.instrEffects g q i).settle_keepsStarted g
  obtain ⟨more, hmore⟩ := settle_records (s.instrEffects g q i) g
  have heffects : (s.instrEffects g q i).msgs = (s.instrLeft g q i).msgs ∧ (s.instrEffects g q i).mem = (s.instrLeft g q i).mem ∧
      (s.instrEffects g q i).cdies = (s.instrLeft g q i).cdies := ⟨rfl, rfl, rfl⟩
  have hothers' (h : Course) (hh : h ≠ g) : (s.instrEffects g q i).course h = s.course h :=
    (State.modCourse_course_ne _ hh _).trans (hapart.others h hh)
  obtain ⟨hemsgs, hemem, hecdies⟩ := heffects
  generalize ((((s.instrEffects g q i).settle g).modCourse g fun c =>
    { c with arr := c.arr.modLog i.e.serial fun l => { l with completed := true } }).checkWindow g) = w at *
  generalize (s.instrEffects g q i).settle g = u at *
  generalize s.instrEffects g q i = t at *
  have hpoi (n : Fin 256) : (w.course g).tallyPoi n = (t.course g).tallyPoi n := by
    rw [hcourse]
    exact congrArg (fun m => SMap.get m n.val false) hkt.tallyP
  have hsame : (w.course g).records = (u.course g).records := by rw [hcourse]
  refine ⟨?_, ?_, ⟨more, ?_⟩, fun n hp hcr => ?_, fun h hh => ?_, ?_, ?_⟩
  · exact htally.congr rfl rfl ((congrArg CourseState.tallyV hcourse).trans hkt.tallyV)
      ((congrArg CourseState.tallyP hcourse).trans hkt.tallyP)
  · rw [hcourse]
    exact (hks.started q).trans hstarted
  · rw [hsame, hmore, hrec, hpoi]
  · rw [← hcr]
    exact instrComplete_credits (hcdies.trans (hks.cdies.trans hecdies)) hp
  · exact (hothers h hh).trans ((hkt.others h hh).trans (hothers' h hh))
  · exact hmem.trans (hkt.mem.trans (hemem.trans hapart.mem))
  · exact hmsgs.trans (hkt.msgs.trans (hemsgs.trans hlmsgs))

/-- Settles O30: an entry is appended as its queue has room, and the effects of a completion outlast what follows them. -/
theorem queuesFillAndDrain : Obligations.QueuesFillAndDrain := ⟨stalled_enters, instructions_complete⟩

end

end Sys2Proof.Machine

/-! SUPPORT. Course reset: what it clears, what it keeps, and the epoch (R231, R244). -/

namespace Sys2Proof.Machine

section
variable {s t u : State} {g : Course}

/-! ### What comes before the course is cleared -/

/-- From s to t the registers, the state of course g's controller and whether its pair has failed are the same. -/
structure Awaits (g : Course) (s t : State) : Prop where
  regs : t.regs = s.regs
  ctl : (t.course g).ctl = (s.course g).ctl
  failed : (t.course g).ctrlFailed = (s.course g).ctrlFailed

theorem Awaits.refl (g : Course) (s : State) : Awaits g s s := ⟨rfl, rfl, rfl⟩

theorem Awaits.trans (h : Awaits g s t) (k : Awaits g t u) : Awaits g s u :=
  ⟨k.regs.trans h.regs, k.ctl.trans h.ctl, k.failed.trans h.failed⟩

theorem foldl_awaits {α : Type} {f : State → α → State} (hf : ∀ t a, Awaits g t (f t a)) (l : List α) (s : State) :
    Awaits g s (l.foldl f s) := foldl_related (Awaits.refl g) Awaits.trans hf l s

theorem State.modCourse_awaits {f : CourseState → CourseState} (hc : (f (s.course g)).ctl = (s.course g).ctl)
    (hf : (f (s.course g)).ctrlFailed = (s.course g).ctrlFailed) : Awaits g s (s.modCourse g f) := by
  refine ⟨rfl, ?_, ?_⟩ <;> rwa [State.modCourse_course]

theorem State.send_awaits (s : State) (a b : Node) (m : MsgBody) : Awaits g s (s.send a b m) := by
  obtain ⟨l, hl⟩ := s.send_eq a b m
  rw [hl]
  exact ⟨rfl, rfl, rfl⟩

theorem State.giveBack_awaits (s : State) (k n : Nat) (src : CreditSrc) : Awaits g s (s.giveBack g k n src) := by
  obtain ⟨-, hregs, h, hc⟩ := giveBack_course s g k n src
  refine ⟨hregs, ?_, ?_⟩ <;> rw [hc]

theorem State.ungrant_awaits (s : State) (q : QueueId) : Awaits g s (s.ungrant g q) := by
  unfold State.ungrant
  split
  · exact Awaits.trans (State.modCourse_awaits rfl rfl) (State.giveBack_awaits ..)
  · exact State.modCourse_awaits rfl rfl

theorem State.withdrawLock_awaits (s : State) (g : Course) : Awaits g s (s.withdrawLock g) := by
  unfold State.withdrawLock
  split
  · exact s.send_awaits ..
  · exact .refl g s

theorem State.modCDie_awaits (s : State) (d : CDie) (f : CDieState → CDieState) : Awaits g s (s.modCDie d f) := ⟨rfl, rfl, rfl⟩

theorem State.modNet_awaits (s : State) (x : IoDie) (f : NetState → NetState) : Awaits g s (s.modNet x f) := ⟨rfl, rfl, rfl⟩

theorem State.dropRequests_awaits (s : State) (g : Course) : Awaits g s (s.dropRequests g) :=
  foldl_awaits (fun t _ => t.modCDie_awaits _ _) _ s

theorem State.dropRing_awaits (s : State) (g : Course) : Awaits g s (s.dropRing g) := by
  unfold State.dropRing State.dropQueued
  split
  · exact foldl_awaits (fun t _ => t.modNet_awaits _ _) _ s
  · exact .refl g s

theorem State.releaseHold_awaits (s : State) (g : Course) : Awaits g s (s.releaseHold g) := by
  unfold State.releaseHold
  split
  · exact Awaits.trans (State.modCourse_awaits rfl rfl) (State.giveBack_awaits ..)
  · exact .refl g s

/-! ### Registers as memory is read -/

theorem State.raiseWith_regs (s : State) (d : Die) (r : Report) (info : Option DWord) : (s.raiseWith d r info).regs = s.regs := by
  unfold State.raiseWith
  split <;> rfl

theorem State.farReadLine_regs (s : State) (l : LinkId) (n : Nat) : (s.farReadLine l n).2.2.regs = s.regs := by
  unfold State.farReadLine
  dsimp only
  split
  · rfl
  · split
    · exact State.raiseWith_regs ..
    · split
      · obtain ⟨w, hw⟩ := count_frame (s.raiseFar l 0x0903 (some (BitVec.ofNat 64 (64 * n)))) (fr l 0) 0x20 0x10 1
        rw [hw]
        exact State.raiseWith_regs ..
      · rfl

theorem foldl_regs {α β : Type} {f : β → α → β} (st : β → State) (hf : ∀ x a, (st (f x a)).regs = (st x).regs) (l : List α)
    (x : β) : (st (l.foldl f x)).regs = (st x).regs :=
  foldl_related (R := fun x y => (st y).regs = (st x).regs) (fun _ => rfl) (fun h k => k.trans h) hf l x

theorem State.farRead_regs (s : State) (a n : Nat) : (s.farRead a n).2.2.regs = s.regs := by
  cases n with
  | zero => rfl
  | succ n =>
    unfold State.farRead
    refine foldl_regs (fun x : List Byte × Bool × State => x.2.2) (fun x i => ?_) _ ([], false, s)
    exact State.farReadLine_regs x.2.2 _ _

theorem State.readAny_regs (s : State) (a n : Nat) : (s.readAny a n).2.2.regs = s.regs := by
  unfold State.readAny
  split
  · exact s.farRead_regs a n
  · rfl

theorem State.readMarked_regs (s : State) (a n : Nat) : (s.readMarked a n).2.regs = s.regs := by
  unfold State.readMarked
  refine foldl_regs (fun x : List (Byte × Bool) × State => x.2) (fun x i => ?_) _ ([], s)
  exact State.readAny_regs x.2 _ _

/-! ### Streams (R282) -/

/-- The streams of course g are the same, and so is what a reset waits for. -/
structure Flows (g : Course) (s t : State) : Prop where
  awaits : Awaits g s t
  streams : (t.course g).str.streams = (s.course g).str.streams

theorem Flows.trans (h : Flows g s t) (k : Flows g t u) : Flows g s u := ⟨h.awaits.trans k.awaits, k.streams.trans h.streams⟩

theorem State.feedLine_flows (s : State) (g : Course) (n : Nat) (tbl : Bool) (x : Transfer) : Flows g s (s.feedLine g n tbl x) := by
  have hr := (s.readMarked_reports x.near x.len).course g
  have hread : Flows g s (s.readMarked x.near x.len).2 := by
    refine ⟨⟨s.readMarked_regs x.near x.len, ?_, ?_⟩, ?_⟩ <;> rw [hr]
  unfold State.feedLine
  refine hread.trans ⟨State.modCourse_awaits ?_ ?_, ?_⟩
  · cases tbl <;> rfl
  · cases tbl <;> rfl
  · rw [State.modCourse_course]
    cases tbl <;> rfl

/-- The course without its stream n, which keeps its reads that are under way. -/
theorem CourseState.freeStream_rest (c : CourseState) (n : Nat) : (c.freeStream n).ctl = c.ctl ∧
    (c.freeStream n).ctrlFailed = c.ctrlFailed ∧ ((c.freeStream n).stream n).st = .free ∧ ((c.freeStream n).stream n).prog = [] ∧
    ∀ m, m ≠ n → (c.freeStream n).stream m = c.stream m := by
  have hs := c.setStream_stream n { Stream.free with
    inflight := (c.stream n).inflight.map fun t => { t with stale := true }
    rearmStalls := (c.stream n).rearmStalls
    rearmWait := (c.stream n).rearmWait }
  exact ⟨rfl, rfl, congrArg Stream.st hs, congrArg Stream.prog hs, fun m hm => c.setStream_stream_ne hm _⟩

/-- From s to t streams of course g may have become FREE and lost their programs. -/
structure Drains (g : Course) (s t : State) : Prop where
  awaits : Awaits g s t
  free : ∀ m, ((s.course g).stream m).st = .free → ((t.course g).stream m).st = .free
  prog : ∀ m, ((s.course g).stream m).prog = [] → ((t.course g).stream m).prog = []

theorem Drains.refl (g : Course) (s : State) : Drains g s s := ⟨.refl g s, fun _ => id, fun _ => id⟩

theorem Drains.trans (h : Drains g s t) (k : Drains g t u) : Drains g s u :=
  ⟨h.awaits.trans k.awaits, fun m hm => k.free m (h.free m hm), fun m hm => k.prog m (h.prog m hm)⟩

theorem Flows.stream (h : Flows g s t) (m : Nat) : (t.course g).stream m = (s.course g).stream m :=
  congrArg (fun l => SMap.get l m Stream.free) h.streams

theorem Flows.refl (g : Course) (s : State) : Flows g s s := ⟨.refl g s, rfl⟩

/-- Freeing a stream makes it FREE and leaves the others. -/
theorem State.free_drains (s : State) (g : Course) (n : Nat) : Drains g s (s.free g n) ∧
    ((s.free g n).course g |>.stream n).st = .free := by
  unfold State.free
  dsimp only
  generalize hu : (((((s.course g).stream n).live.filter fun t => t.share == 3).foldl (fun u t => u.feedLine g n
    (match ((s.course g).stream n).desc with
      | some d => decide (d.kind = .feedTbl)
      | none => false) t) s)) = u
  have hf : Flows g s u := hu ▸ foldl_related (Flows.refl g) Flows.trans (fun t x => t.feedLine_flows g n _ x) _ s
  obtain ⟨hc, hx, hfree, hprog, hother⟩ := (u.course g).freeStream_rest n
  refine ⟨⟨hf.awaits.trans (State.modCourse_awaits hc hx), fun m hm => ?_, fun m hm => ?_⟩, ?_⟩ <;> rw [State.modCourse_course]
  · by_cases h : m = n
    · rw [h, hfree]
    · rw [hother m h, hf.stream, hm]
  · by_cases h : m = n
    · rw [h, hprog]
    · rw [hother m h, hf.stream, hm]
  · exact hfree

/-- A change of a stream that clears its program and keeps whether it is FREE. -/
theorem State.modStream_drains {f : Stream → Stream} (hst : ∀ x, (f x).st = x.st) (hp : ∀ x, (f x).prog = []) (s : State) (n : Nat) :
    Drains g s (s.modStream g n f) ∧ ((s.modStream g n f).course g |>.stream n).prog = [] := by
  unfold State.modStream
  have hsame := (s.course g).setStream_stream n (f ((s.course g).stream n))
  have hother (m : Nat) (h : m ≠ n) := (s.course g).setStream_stream_ne h (f ((s.course g).stream n))
  refine ⟨⟨State.modCourse_awaits rfl rfl, fun m hm => ?_, fun m hm => ?_⟩, ?_⟩ <;> rw [State.modCourse_course]
  · by_cases h : m = n
    · subst h
      rw [hsame, hst, hm]
    · rw [hother m h, hm]
  · by_cases h : m = n
    · subst h
      rw [hsame, hp]
    · rw [hother m h, hm]
  · rw [hsame, hp]

theorem mem_of_find {V : Type} : ∀ {m : SMap V} {k : Nat} {v : V}, SMap.find m k = some v → (k, v) ∈ m
  | (j, x) :: m, k, v, h => by
    rw [SMap.find] at h
    split at h
    · next hk =>
      rw [hk, Option.some.inj h]
      exact List.mem_cons_self
    · exact List.mem_cons_of_mem _ (mem_of_find h)

/-- A key that is not in a map gives the default. -/
theorem get_of_not_key {V : Type} {m : SMap V} {k : Nat} (d : V) (h : k ∉ m.map (·.1)) : SMap.get m k d = d := by
  rw [SMap.get]
  cases hf : SMap.find m k with
  | none => rfl
  | some v => exact absurd (List.mem_map_of_mem (mem_of_find hf)) h

/-- A stream that is not FREE is among those of the course that are not. -/
theorem mem_usedStreams {c : CourseState} {n : Nat} (h : (c.stream n).st ≠ .free) : n ∈ c.usedStreams := by
  cases hf : SMap.find c.str.streams n with
  | none =>
    refine absurd ?_ h
    rw [CourseState.stream, SMap.get, hf]
    rfl
  | some x =>
    have hx : c.stream n = x := by rw [CourseState.stream, SMap.get, hf]; rfl
    refine List.mem_map.2 ⟨(n, x), List.mem_filter.2 ⟨mem_of_find hf, ?_⟩, rfl⟩
    exact decide_eq_true (hx ▸ h)

/-- A step of a fold over a list that makes P hold of its element, where every step keeps what holds, makes P hold of each. -/
theorem foldl_reaches {α : Type} {f : State → α → State} {P : α → State → Prop} (hf : ∀ t a, P a (f t a))
    (hk : ∀ t a b, P b t → P b (f t a)) {l : List α} {a : α} (ha : a ∈ l) (s : State) : P a (l.foldl f s) := by
  induction l generalizing s with
  | nil => cases ha
  | cons b l ih =>
    rw [List.foldl_cons]
    obtain rfl | ha := List.mem_cons.1 ha
    · exact List.foldlRecOn (motive := P a) l f (hf s a) fun t h b _ => hk t b a h
    · exact ih ha _

/-- Every stream of the course is FREE once those that were not have been freed. -/
theorem freeUsed_drains (s : State) (g : Course) : Drains g s ((s.course g).usedStreams.foldl (fun u n => u.free g n) s) ∧
    ∀ n, ((((s.course g).usedStreams.foldl (fun u n => u.free g n) s).course g).stream n).st = .free := by
  have hd : Drains g s ((s.course g).usedStreams.foldl (fun u n => u.free g n) s) :=
    foldl_related (Drains.refl g) Drains.trans (fun t n => (t.free_drains g n).1) _ s
  refine ⟨hd, fun n => ?_⟩
  by_cases h : ((s.course g).stream n).st = .free
  · exact hd.free n h
  · exact foldl_reaches (P := fun n t => ((t.course g).stream n).st = .free) (fun t n => (t.free_drains g n).2)
      (fun t a b hb => (t.free_drains g a).1.free b hb) (mem_usedStreams h) s

/-- A stream of a course at reset keeps no program and no count of stalls (R282). -/
def Stream.cleared (x : Stream) : Stream := { x with prog := [], rearmStalls := 0, rearmWait := false }

/-- Every stream in the map of the course has been cleared. -/
def State.clearStreams (s : State) (g : Course) : State :=
  ((s.course g).str.streams.map (·.1)).foldl (fun u n => u.modStream g n Stream.cleared) s

/-- No stream of the course has a program once those in the map have been cleared. -/
theorem clearStreams_drains (s : State) (g : Course) : Drains g s (s.clearStreams g) ∧
    ∀ n, (((s.clearStreams g).course g).stream n).prog = [] := by
  have hstep (t : State) (n : Nat) := State.modStream_drains (g := g) (f := Stream.cleared) (fun _ => rfl) (fun _ => rfl) t n
  have hd : Drains g s (s.clearStreams g) := foldl_related (Drains.refl g) Drains.trans (fun t n => (hstep t n).1) _ s
  refine ⟨hd, fun n => ?_⟩
  by_cases h : n ∈ (s.course g).str.streams.map (·.1)
  · exact foldl_reaches (P := fun n t => ((t.course g).stream n).prog = []) (fun t n => (hstep t n).2)
      (fun t a b hb => (hstep t a).1.prog b hb) h s
  · exact hd.prog n (congrArg Stream.prog (get_of_not_key Stream.free h))

theorem State.freeStreams_eq (s : State) (g : Course) : Awaits g s (s.freeStreams g) ∧
    ∀ n, (((s.freeStreams g).course g).stream n).st = .free ∧ (((s.freeStreams g).course g).stream n).prog = [] := by
  obtain ⟨hu, hfree⟩ := freeUsed_drains s g
  obtain ⟨hc, hprog⟩ := clearStreams_drains ((s.course g).usedStreams.foldl (fun u n => u.free g n) s) g
  exact ⟨hu.awaits.trans hc.awaits, fun n => ⟨hc.free n (hfree n), hprog n⟩⟩

/-! ### The course and its registers after its reset (R231, R244) -/

theorem State.releaseHold_course (s : State) (g : Course) : (s.releaseHold g).course g = { s.course g with hold := none } := by
  cases h : (s.course g).hold with
  | none =>
    have hs : s.releaseHold g = s := by rw [State.releaseHold, h]
    rw [hs, ← h]
  | some x => rw [State.releaseHold_some h, State.giveBack_pool_course, State.modCourse_course]

theorem CourseState.overtaken_rp (c : CourseState) (i : Fin 8) : c.overtaken.rp i = decide (i = 0) := by
  have h : ∀ i : Fin 8, (if i = 0 then true else ((Vector.replicate 8 false).set 0 true).get i) = decide (i = 0) := by decide
  exact h i

theorem CourseState.overtaken_ra (c : CourseState) (i : Fin 16) : c.overtaken.ra i = 0 := by
  simp [CourseState.overtaken, CourseState.ra, Vector.get_eq_getElem]

theorem CourseState.overtaken_queue (c : CourseState) (q : QueueId) : c.overtaken.queue q = (c.queue q).overtaken q := by
  simp [CourseState.overtaken, CourseState.queue, Vector.get_eq_getElem]

theorem resetRegs_epoch (s : State) (g : Course) :
    (s.resetRegs g).reg (cr g 0x1C) = BitVec.ofNat 32 (((s.reg (cr g 0x1C)).toNat + 1) % 2 ^ 16) := by
  have hreg : (s.resetRegs g).reg (cr g 0x1C) = (s.reg (cr g 0x1C) + 1) &&& 0xFFFF := by
    rw [State.reg, epoch_reset]
    exact SMap.get_put_same ..
  have hmask : ((s.reg (cr g 0x1C) + 1) &&& 0xFFFF).toNat = (s.reg (cr g 0x1C) + 1).toNat % 2 ^ 16 :=
    (BitVec.toNat_and ..).trans (Nat.and_two_pow_sub_one_eq_mod _ 16)
  rw [hreg]
  apply BitVec.eq_of_toNat_eq
  rw [hmask, BitVec.toNat_ofNat, BitVec.toNat_add]
  have h1 : (1 : Word).toNat = 1 := rfl
  omega

theorem mode_kept (g : Course) : resetClears g (cr g 0x18) = false := by
  revert g
  decide

theorem resetRegs_mode (s : State) (g : Course) : (s.resetRegs g).reg (cr g 0x18) = s.reg (cr g 0x18) := by
  unfold State.reg State.resetRegs
  rw [SMap.get_put_other (mt cr_inj.1 (by decide)), SMap.get, SMap.find_filter_key (fun k => !resetClears g k), mode_kept]
  rfl

/-- The state just before a reset of course g clears it. -/
def State.resetReady (s : State) (g : Course) : State :=
  ((((((List.finRange 8).foldl (fun u q => u.ungrant g q) (s.withdrawLock g)).dropRequests g).dropRing g).freeStreams g).releaseHold g)

theorem State.resetReady_awaits (s : State) (g : Course) : Awaits g s (s.resetReady g) :=
  ((s.withdrawLock_awaits g).trans (foldl_awaits (fun t q => t.ungrant_awaits q) _ _)).trans
    ((State.dropRequests_awaits _ g).trans ((State.dropRing_awaits _ g).trans ((State.freeStreams_eq _ g).1.trans
      (State.releaseHold_awaits _ g))))

theorem State.resetReady_course (s : State) (g : Course) : ((s.resetReady g).course g).hold = none ∧
    ∀ n, (((s.resetReady g).course g).stream n).st = .free ∧ (((s.resetReady g).course g).stream n).prog = [] := by
  rw [State.resetReady, State.releaseHold_course]
  generalize ((((List.finRange 8).foldl (fun u q => u.ungrant g q) (s.withdrawLock g)).dropRequests g).dropRing g) = t
  obtain ⟨-, h⟩ := t.freeStreams_eq g
  generalize (t.freeStreams g).course g = c at h ⊢
  exact ⟨rfl, h⟩

/-- What is read once the state r has been cleared and the sweep sent. -/
theorem cleared_reads (r : State) (g : Course) (l : List Msg) :
    let t : State := { (r.modCourse g fun c => c.overtaken).resetRegs g with msgs := l }
    t.course g = (r.course g).overtaken ∧ t.reg (cr g 0x1C) = BitVec.ofNat 32 (((r.reg (cr g 0x1C)).toNat + 1) % 2 ^ 16) ∧
      t.reg (cr g 0x18) = r.reg (cr g 0x18) :=
  ⟨State.modCourse_course r g _, resetRegs_epoch (r.modCourse g fun c => c.overtaken) g,
    resetRegs_mode (r.modCourse g fun c => c.overtaken) g⟩

/-- A reset sends its sweep once the course and its registers are cleared. -/
theorem State.courseReset_reads (s : State) (g : Course) : (s.courseReset g).course g = ((s.resetReady g).course g).overtaken ∧
    (s.courseReset g).reg (cr g 0x1C) = BitVec.ofNat 32 (((s.reg (cr g 0x1C)).toNat + 1) % 2 ^ 16) ∧
    (s.courseReset g).reg (cr g 0x18) = s.reg (cr g 0x18) := by
  obtain ⟨l, hl⟩ : ∃ l, s.courseReset g = { ((s.resetReady g).modCourse g fun c => c.overtaken).resetRegs g with msgs := l } :=
    (((s.resetReady g).modCourse g fun c => c.overtaken).resetRegs g).toStacks_eq g (.resetSweep g)
  obtain ⟨hregs, -, -⟩ := s.resetReady_awaits g
  rw [hl]
  generalize s.resetReady g = r at hregs
  obtain ⟨hc, hepoch, hmode⟩ := cleared_reads r g l
  have hreg (o : Nat) : r.reg o = s.reg o := congrArg (fun m => SMap.get m o (BitVec.ofNat 32 (regReset o))) hregs
  rw [← hreg, ← hreg]
  exact ⟨hc, hepoch, hmode⟩

theorem wrCtrl_reset : s.wrCtrl g 4 = s.courseReset g := by simp [State.wrCtrl]

/-- Settles O29: what comes before leaves the registers and the controller's state, and what is cleared is that of R231. -/
theorem courseResetClears : Obligations.CourseResetClears := by
  intro s a g hr
  refine ⟨s.courseReset g, congrArg Host.Outcome.next ((ctrlCommand hr).trans wrCtrl_reset), ?_⟩
  obtain ⟨⟨hothers, hmem, -⟩, -⟩ := s.courseReset_eq g
  obtain ⟨-, hctl, hfailed⟩ := s.resetReady_awaits g
  obtain ⟨hhold, hstreams⟩ := s.resetReady_course g
  obtain ⟨hc, hepoch, hmode⟩ := s.courseReset_reads g
  generalize s.courseReset g = t at *
  dsimp only
  rw [hc]
  generalize (s.resetReady g).course g = c at hctl hfailed hhold hstreams
  have hstate : c.overtaken.ctl = if (s.course g).ctl = .fenced ∧ (s.course g).ctrlFailed = true then .fenced else .halted := by
    rw [← hctl, ← hfailed]
    simp only [CourseState.overtaken, Bool.and_eq_true, decide_eq_true_eq]
  refine ⟨hstate, rfl, rfl, rfl, c.overtaken_rs, c.overtaken_ra, c.overtaken_rp, fun n => ⟨rfl, rfl⟩, fun q => ?_, rfl, rfl, rfl, rfl,
    rfl, rfl, hhold, rfl, fun n => hstreams n.val, hepoch, hmode, hothers, hmem⟩
  rw [c.overtaken_queue]
  refine ⟨rfl, rfl, fun i hi => ?_⟩
  obtain ⟨x, -, rfl⟩ := List.mem_map.1 hi
  rfl

end

end Sys2Proof.Machine

/-! SUPPORT. Fencing: what a course that is fenced loses and keeps, and what its controller pair, its arrays and its memory do when
they fail (R221, R508 to R511, R515). -/

namespace Sys2Proof.Machine

section
variable {s t u : State} {g : Course} {q : QueueId}

/-! ### The queues of a course that is fenced (R221, R511) -/

/-- From s to t course g stays without a stalled instruction, and whether its pair has failed and is adopted stays. -/
structure Idles (g : Course) (s t : State) : Prop where
  stalled : (t.course g).stalled = (s.course g).stalled
  failed : (t.course g).ctrlFailed = (s.course g).ctrlFailed
  adopted : (t.course g).adopted = (s.course g).adopted

theorem Idles.refl (g : Course) (s : State) : Idles g s s := ⟨rfl, rfl, rfl⟩

theorem Idles.trans (h : Idles g s t) (k : Idles g t u) : Idles g s u :=
  ⟨k.stalled.trans h.stalled, k.failed.trans h.failed, k.adopted.trans h.adopted⟩

theorem State.modCourse_idles {f : CourseState → CourseState} (hst : (f (s.course g)).stalled = (s.course g).stalled)
    (hf : (f (s.course g)).ctrlFailed = (s.course g).ctrlFailed) (ha : (f (s.course g)).adopted = (s.course g).adopted) :
    Idles g s (s.modCourse g f) := by
  constructor <;> rwa [State.modCourse_course]

theorem State.ungrant_idles (s : State) (g : Course) (q : QueueId) : Idles g s (s.ungrant g q) := by
  unfold State.ungrant
  split
  · next n src _ =>
    refine Idles.trans ?_ ?_ (t := s.modCourse g fun c => c.modQueue q fun y =>
      { y with granted := none, waitStamp := none, waitPhases := 0 })
    · exact State.modCourse_idles rfl rfl rfl
    obtain ⟨-, -, h, hc⟩ := giveBack_course (s.modCourse g fun c => c.modQueue q fun y =>
      { y with granted := none, waitStamp := none, waitPhases := 0 }) g (requester g q) n src
    constructor <;> rw [hc]
  · exact State.modCourse_idles rfl rfl rfl

theorem CourseState.flushed_idles (c : CourseState) (q : QueueId) (es : List QEntry) : (c.flushed q es).stalled = c.stalled ∧
    (c.flushed q es).ctrlFailed = c.ctrlFailed ∧ (c.flushed q es).adopted = c.adopted := by
  obtain ⟨v, p, he⟩ := (c.modQueue q fun y => { y with entries := [] }).discardTallies_eq es
  rw [CourseState.flushed, he]
  exact ⟨rfl, rfl, rfl⟩

theorem State.flushQueue_idles (s : State) (g : Course) (q : QueueId) : Idles g s (s.flushQueue g q) := by
  rw [State.flushQueue_eq]
  obtain ⟨hst, hf, ha⟩ := ((s.ungrant g q).course g).flushed_idles q ((s.course g).queue q).entries
  exact (s.ungrant_idles g q).trans (State.modCourse_idles hst hf ha)

/-- The stalled instruction is discarded, which leaves the entries of every queue. -/
theorem State.dropStalled_spares (s : State) (g : Course) (q : QueueId) : Spares g q s (s.dropStalled g) ∧
    ((s.dropStalled g).course g).stalled = none ∧ ((s.dropStalled g).course g).ctrlFailed = (s.course g).ctrlFailed ∧
    ((s.dropStalled g).course g).adopted = (s.course g).adopted := by
  unfold State.dropStalled
  split
  · next e _ =>
    obtain ⟨hv, hp, -⟩ := discardTallies_spec (s.course g) [e]
    obtain ⟨v, p, he⟩ := (s.course g).discardTallies_eq [e]
    refine ⟨⟨State.modCourse_steers hv hp (by rw [he]), ?_, ?_⟩, ?_, ?_, ?_⟩ <;>
      rw [State.modCourse_course] <;> dsimp only <;> rw [he]
    · rfl
    · rfl
  · next h => exact ⟨.refl g q s, h, rfl, rfl⟩

/-- Every queue is flushed, and no instruction is stalled. -/
theorem State.flushAll_flushes (s : State) (g : Course) : Steers g s (s.flushAll g) ∧
    (∀ q, (((s.flushAll g).course g).queue q).entries = [] ∧
      ∀ e ∈ ((s.course g).queue q).entries, e.te = true → ((s.flushAll g).course g).tallyPoi e.tally = true) ∧
    ((s.flushAll g).course g).stalled = none ∧ ((s.flushAll g).course g).ctrlFailed = (s.course g).ctrlFailed ∧
    ((s.flushAll g).course g).adopted = (s.course g).adopted := by
  have hidle : Idles g (s.dropStalled g) (s.flushAll g) :=
    foldl_related (Idles.refl g) Idles.trans (fun t q => t.flushQueue_idles g q) _ _
  have hsteers : Steers g (s.dropStalled g) (s.flushAll g) :=
    foldl_related (Steers.refl g) Steers.trans (fun t q => flushQueue_steers t g q) _ _
  obtain ⟨hdrop, hst, hf, ha⟩ := s.dropStalled_spares g 0
  refine ⟨hdrop.steers.trans hsteers, fun q => ?_, hidle.stalled.trans hst, hidle.failed.trans hf, hidle.adopted.trans ha⟩
  obtain ⟨l, l', hl⟩ := List.append_of_mem (List.mem_finRange q)
  have hnot := (List.nodup_cons.1 (List.nodup_middle.1 (hl ▸ List.nodup_finRange 8))).1
  rw [List.mem_append, not_or] at hnot
  have hspare {k : List QueueId} (hk : q ∉ k) (t : State) : Spares g q t (k.foldl (fun t q => t.flushQueue g q) t) :=
    List.foldlRecOn (motive := Spares g q t) k _ (.refl g q t) fun _ h _ hr => h.trans (flushQueue_spares (ne_of_mem_of_not_mem hr hk) _)
  have hbefore := (s.dropStalled_spares g q).1.trans (hspare hnot.1 (s.dropStalled g))
  obtain ⟨hnil, hpoi⟩ := flushQueue_flushes (l.foldl (fun t q => t.flushQueue g q) (s.dropStalled g)) g q
  have hafter := hspare hnot.2 ((l.foldl (fun t q => t.flushQueue g q) (s.dropStalled g)).flushQueue g q)
  have hall : s.flushAll g = l'.foldl (fun t q => t.flushQueue g q)
      ((l.foldl (fun t q => t.flushQueue g q) (s.dropStalled g)).flushQueue g q) := by
    rw [State.flushAll, hl, List.foldl_append, List.foldl_cons]
  rw [hall]
  exact ⟨hafter.entries.trans hnil, fun e he hte => hafter.steers.poi _ (hpoi e (hbefore.entries ▸ he) hte)⟩

/-! ### Fencing (R511) -/

theorem partner_ne (g : Course) : partner g ≠ g := by
  revert g
  decide

/-- No course's adoption of g goes on. -/
theorem State.endAdoption_course (s : State) (g : Course) : (s.endAdoption g).course g = { s.course g with adopted := false } := by
  cases h : (s.course g).adopted with
  | false =>
    have hs : s.endAdoption g = s := by rw [State.endAdoption, if_neg (by simp [h])]
    rw [hs, ← h]
  | true => rw [State.endAdoption, if_pos h, State.modCourse_course_ne _ (partner_ne g).symm, State.modCourse_course]

theorem State.endAdoption_of_none (h : (s.course g).adopted = false) : s.endAdoption g = s := by
  rw [State.endAdoption, if_neg (by simp [h])]

theorem State.endAdoption_mem (s : State) (g : Course) : (s.endAdoption g).mem = s.mem := by
  unfold State.endAdoption
  split <;> rfl

/-- The controller of course g as it is fenced. -/
def CourseState.stopped (c : CourseState) : CourseState := { c with ctl := .fenced, wait := none, stopReq := false }

/-- The state of a course that is fenced before its waits settle and its report goes out. -/
def State.fencing (s : State) (g : Course) : State :=
  (((((s.modCourse g CourseState.stopped).toStacks g (.breakNotice g)).flushAll g).releaseHold g).endAdoption g)

theorem State.fence_eq (h : (s.course g).ctl ≠ .fenced) :
    s.fence g = ((s.fencing g).settle g).raiseRel (courseDie g) 0x0F08 (g.val % 8) none := if_neg h

/-- What fencing leaves of a course. -/
structure Fenced (c d : CourseState) : Prop where
  ctl : d.ctl = .fenced
  wait : d.wait = none
  stalled : d.stalled = none
  failed : d.ctrlFailed = c.ctrlFailed
  queues : ∀ q, (d.queue q).entries = [] ∧ ∀ e ∈ (c.queue q).entries, e.te = true → d.tallyPoi e.tally = true
  val : ∀ n, d.tallyVal n = c.tallyVal n

theorem State.fencing_fenced (s : State) (g : Course) : Fenced (s.course g) ((s.fencing g).course g) ∧ (s.fencing g).mem = s.mem ∧
    ((s.course g).adopted = false → ∀ h, h ≠ g → (s.fencing g).course h = s.course h) := by
  obtain ⟨l, hl⟩ := (s.modCourse g CourseState.stopped).toStacks_eq g (.breakNotice g)
  have hsent (h : Course) : ((s.modCourse g CourseState.stopped).toStacks g (.breakNotice g)).course h =
      (s.modCourse g CourseState.stopped).course h := by rw [hl]; rfl
  have hmem : ((s.modCourse g CourseState.stopped).toStacks g (.breakNotice g)).mem = s.mem := by rw [hl]; rfl
  have hstop := hsent g
  rw [State.modCourse_course] at hstop
  unfold State.fencing
  generalize (s.modCourse g CourseState.stopped).toStacks g (.breakNotice g) = t at hsent hmem hstop
  obtain ⟨hsteers, hqueues, hst, hf, ha⟩ := t.flushAll_flushes g
  have hwait := (t.flushAll_keepsService (g := g)).wait
  obtain ⟨hval, hothers, hm, -, hctl, -⟩ := hsteers
  have hcourse : (((t.flushAll g).releaseHold g).endAdoption g).course g =
      { (t.flushAll g).course g with hold := none, adopted := false } := by
    rw [State.endAdoption_course, State.releaseHold_course]
  have hheld : (((t.flushAll g).releaseHold g).course g).adopted = ((t.flushAll g).course g).adopted := by rw [State.releaseHold_course]
  refine ⟨?_, ?_, fun hadopt h hh => ?_⟩
  · rw [hcourse]
    generalize (t.flushAll g).course g = d at hqueues hst hf ha hwait hval hctl
    rw [hstop] at hqueues hf hwait hval hctl
    exact ⟨hctl, hwait, hst, hf, hqueues, hval⟩
  · rw [State.endAdoption_mem, (State.releaseHold_apart _ g).mem, hm, hmem]
  · rw [State.endAdoption_of_none, (State.releaseHold_apart _ g).others h hh, hothers h hh, hsent, State.modCourse_course_ne _ hh]
    rw [hheld, ha, hstop]
    exact hadopt

/-- A course that is fenced: its waits end, its queues are flushed, and REL_COURSE_FENCED is raised (R221, R511). -/
theorem State.fence_fenced (h : (s.course g).ctl ≠ .fenced) : Fenced (s.course g) ((s.fence g).course g) ∧ (s.fence g).mem = s.mem ∧
    ((s.course g).adopted = false → ∀ h, h ≠ g → (s.fence g).course h = s.course h) ∧
    ∃ r ∈ ((s.fence g).die (courseDie g)).presented, r.code = 0x0F08 ∧ r.srcUnit = 0x0E := by
  obtain ⟨hfenced, hmem, hothers⟩ := s.fencing_fenced g
  have hsettle := (s.fencing g).settle_settles g hfenced.wait
  rw [State.fence_eq h]
  generalize s.fencing g = t at *
  have hreports : Reports (t.settle g) ((t.settle g).raiseRel (courseDie g) 0x0F08 (g.val % 8) none) := State.raiseWith_reports ..
  obtain ⟨r, hr, hcode, hunit⟩ := (t.settle g).raiseWith_presents_report (courseDie g)
    (plainReport 0x0F08 0x0E (BitVec.ofNat 8 (g.val % 8)) 0xF) none
  have hkeeps := t.settle_keepsTallies g
  obtain ⟨-, -, hb, hq⟩ := hsettle
  have hpoi (n : Fin 256) := settle_tallyPoi (s := t) (g := g) n
  rw [hreports.course]
  generalize (t.settle g).course g = d at hb hq hpoi
  have hb : (t.course g).Beside d := hb
  refine ⟨⟨?_, ?_, ?_, ?_, fun q => ⟨(hq q).entries_nil (hfenced.queues q).1, fun e he hte => ?_⟩, fun n => ?_⟩, ?_,
    fun ha k hk => ?_, r, ?_, hcode, hunit⟩
  · exact (hb.same (·.ctl) fun _ _ _ => rfl).trans hfenced.ctl
  · exact (hb.same (·.wait) fun _ _ _ => rfl).trans hfenced.wait
  · exact (hb.same (·.stalled) fun _ _ _ => rfl).trans hfenced.stalled
  · exact (hb.same (·.ctrlFailed) fun _ _ _ => rfl).trans hfenced.failed
  · exact (hpoi _).trans ((hfenced.queues q).2 e he hte)
  · exact (hb.same (·.tallyVal n) fun _ _ _ => rfl).trans (hfenced.val n)
  · exact hreports.mem.trans (hkeeps.mem.trans hmem)
  · exact (hreports.course k).trans ((hkeeps.others k hk).trans (hothers ha k hk))
  · exact hr ▸ List.mem_append_right _ List.mem_cons_self

/-! ### The lockstep pair (R509, R510) -/

theorem State.raiseWith_reg64 (s : State) (d : Die) (r : Report) (info : Option DWord) (o : Nat) :
    (s.raiseWith d r info).reg64 o = s.reg64 o := by
  unfold State.raiseWith
  split <;> rfl

/-- A counter of the course block that is not frozen counts, up to its largest value. -/
theorem State.countC_reg64 {ctrl cnt n : Nat} (h : (s.reg (cr g ctrl)).getLsbD 0 = false) :
    (s.countC g ctrl cnt n).reg64 (cr g cnt) = BitVec.ofNat 64 (min ((s.reg64 (cr g cnt)).toNat + n) (2 ^ 64 - 1)) := by
  rw [State.countC, State.count, if_neg (by rw [show (Blk.course g).base + ctrl = cr g ctrl from rfl, h]; exact Bool.false_ne_true)]
  exact State.setReg64_reg64 ..

theorem State.countC_die (s : State) (g : Course) (ctrl cnt n : Nat) (d : Die) : (s.countC g ctrl cnt n).die d = s.die d := by
  obtain ⟨w, hw⟩ := count_frame s (Blk.course g).base ctrl cnt n
  rw [State.countC, hw]
  rfl

/-- The report of a mismatch. -/
def State.mismatched (s : State) (g : Course) : State := s.raiseWith (courseDie g) (plainReport 0x050B 0x0E (courseInst g) 0x8) none

theorem lockstepMismatch_eq {persists : Bool} (hf : (s.course g).ctrlFailed = false) (hc : (s.course g).ctl ≠ .fenced) :
    lockstepMismatch g persists s = if persists then (s.mismatched g).pairFailed g else (s.mismatched g).countC g 0x3828 0x3820 1 := by
  simp only [lockstepMismatch, hf, beq_eq_false_iff_ne.2 hc, Bool.or_self, Bool.false_eq_true, if_false]
  rfl

/-- The pair of course g has failed, which is recorded. -/
def State.unpaired (s : State) (g : Course) : State :=
  (s.modCourse g fun c => { c with ctrlFailed := true }).failed ⟨(courseDie g).val, 0x01, g.val % 8, 0, 0⟩

theorem State.unpaired_course (s : State) (g h : Course) :
    (s.unpaired g).course h = if h = g then { s.course g with ctrlFailed := true } else s.course h := by
  have hf : (s.unpaired g).course h = (s.modCourse g fun c => { c with ctrlFailed := true }).course h := rfl
  rw [hf]
  split
  · next hh => rw [hh, State.modCourse_course]
  · next hh => exact s.modCourse_course_ne hh _

/-- A partner takes a course over only while it runs its own alone (R510). -/
def State.partnerFree (s : State) (g : Course) : Prop :=
  (s.course (partner g)).adopted = false ∧ (s.course (partner g)).adopting = false ∧ (s.course (partner g)).ctl ≠ .fenced

theorem State.pairFailed_eq (s : State) (g : Course) : s.pairFailed g = if (s.course (partner g)).adopted ||
      (s.course (partner g)).adopting || (s.course (partner g)).ctl == .fenced then (s.unpaired g).fence g
    else (((s.unpaired g).modCourse g fun c => { c with adopted := true }).modCourse (partner g) fun c =>
      { c with adopting := true }).raiseRel (courseDie g) 0x0F07 (g.val % 8) none := by
  have hp : (s.unpaired g).course (partner g) = s.course (partner g) := (s.unpaired_course g _).trans (if_neg (partner_ne g))
  rw [← hp]
  rfl

/-- A pair that fails is taken over by its free partner (R510). -/
theorem State.pairFailed_free (h : s.partnerFree g) :
    (s.pairFailed g).course g = { s.course g with ctrlFailed := true, adopted := true } ∧
      (s.pairFailed g).course (partner g) = { s.course (partner g) with adopting := true } ∧
      ∀ h, h ≠ g → h ≠ partner g → (s.pairFailed g).course h = s.course h := by
  obtain ⟨ha, hd, hc⟩ := h
  have hg := s.unpaired_course g
  rw [State.pairFailed_eq, ha, hd, beq_eq_false_iff_ne.2 hc, if_neg (by decide)]
  generalize s.unpaired g = t at hg
  have hr (h : Course) := (State.raiseWith_reports ((t.modCourse g fun c => { c with adopted := true }).modCourse (partner g) fun c =>
      { c with adopting := true }) (courseDie g) (plainReport 0x0F07 0x0E (BitVec.ofNat 8 (g.val % 8)) 0xF) none).course h
  refine ⟨(hr g).trans ?_, (hr _).trans ?_, fun k hk hp => (hr k).trans ?_⟩
  · rw [State.modCourse_course_ne _ (partner_ne g).symm, State.modCourse_course, hg, if_pos rfl]
  · rw [State.modCourse_course, State.modCourse_course_ne _ (partner_ne g), hg, if_neg (partner_ne g)]
  · rw [State.modCourse_course_ne _ hp, State.modCourse_course_ne _ hk, hg, if_neg hk]

/-- A pair that fails without a free partner fences its course (R510). -/
theorem State.pairFailed_fences (h : ¬s.partnerFree g) (hc : (s.course g).ctl ≠ .fenced) :
    Fenced { s.course g with ctrlFailed := true } ((s.pairFailed g).course g) := by
  have hg := (s.unpaired_course g g).trans (if_pos rfl)
  have hbusy : ((s.course (partner g)).adopted || (s.course (partner g)).adopting || (s.course (partner g)).ctl == .fenced) = true := by
    by_contra hb
    rw [Bool.not_eq_true, Bool.or_eq_false_iff, Bool.or_eq_false_iff] at hb
    exact h ⟨hb.1.1, hb.1.2, beq_eq_false_iff_ne.1 hb.2⟩
  rw [State.pairFailed_eq, if_pos hbusy]
  have hf := (State.fence_fenced (s := s.unpaired g) (g := g) (by rw [hg]; exact hc)).1
  rwa [hg] at hf

theorem lockstep_pairs : lockstep := by
  intro s g c p free hr hf hc
  have hrep : Reports s (s.mismatched g) := State.raiseWith_reports ..
  have hcourse (h : Course) : (s.mismatched g).course h = s.course h := hrep.course h
  refine ⟨completes_ifCourse rfl hr ?_, fun hfree => completes_ifCourse rfl hr ?_, fun hfree => completes_ifCourse rfl hr ?_⟩ <;>
    rw [lockstepMismatch_eq hf hc]
  · rw [if_neg Bool.false_ne_true]
    refine ⟨fun h => ((State.countC_reports ..).course h).trans (hcourse h), fun hz => ?_, ?_⟩
    · rw [State.countC_reg64 (by rw [State.mismatched, State.raiseWith_reg]; exact hz), State.mismatched, State.raiseWith_reg64]
    · obtain ⟨r, hpr, hcode, hunit⟩ := s.raiseWith_presents_report (courseDie g) (plainReport 0x050B 0x0E (courseInst g) 0x8) none
      exact ⟨r, by rw [State.countC_die]; exact hpr, hcode, hunit⟩
  · rw [if_pos rfl]
    obtain ⟨h1, h2, h3⟩ := (s.mismatched g).pairFailed_free (g := g) (by rw [State.partnerFree, hcourse]; exact hfree)
    rw [hcourse] at h1 h2
    exact ⟨h1, h2, fun h hh hp => (h3 h hh hp).trans (hcourse h)⟩
  · rw [if_pos rfl]
    have h := (s.mismatched g).pairFailed_fences (g := g) (by rw [State.partnerFree, hcourse]; exact hfree) (by rwa [hcourse])
    exact ⟨h.ctl, h.failed, fun q => (h.queues q).1⟩

/-! ### FENCE and READMIT (R508, R511) -/

theorem courseCmdCommand {a : Agent} {v : Word} (h : Reaches s a (cr g 0x380C)) : s.command a (cr g 0x380C) v = s.wrCourseCmd g v :=
  courseCommand_of_reaches h (by omega) rfl rfl rfl

theorem wrCourseCmd_fence : s.wrCourseCmd g 1 = s.fence g := by simp [State.wrCourseCmd]

theorem State.fence_of_fenced (h : (s.course g).ctl = .fenced) : s.fence g = s := if_pos h

/-- A command that reaches a register acts. -/
theorem through_of_reaches {a : Agent} {o : Nat} {act : State → State} (h : Reaches s a o) : s.through a o act = act s := by
  obtain ⟨off, ha, hat⟩ := h
  simp only [State.through, ha, hat]

theorem State.readmit_refused {p : Nat} {ok : Bool}
    (h : s.quiesced g = false ∨ 9 ≤ p ∨ (s.course g).arr.healthy.getLsbD p = true) : s.readmit g p ok = s := by
  refine if_neg fun hb => ?_
  rw [Bool.and_eq_true, Bool.and_eq_true, decide_eq_true_eq, Bool.not_eq_true'] at hb
  obtain ⟨⟨hq, hp⟩, hh⟩ := hb
  obtain h | h | h := h
  · rw [hq] at h; cases h
  · omega
  · rw [hh] at h; cases h

theorem State.readmit_acts {p : Nat} (hq : s.quiesced g = true) (hp : p < 9) (hh : (s.course g).arr.healthy.getLsbD p = false)
    (ok : Bool) : s.readmit g p ok =
      let h := (s.course g).arr.healthy ||| (1#9 <<< p)
      if ok then s.setCourse g { s.course g with arr := { (s.course g).arr with
        healthy := h, mapped := if 7 ≤ (arraysOf h).length then h else (s.course g).arr.mapped, runs := [] } }
      else s.raiseRel (courseDie g) 0x0F09 (g.val % 8) none :=
  if_pos (by rw [hq, hh, decide_eq_true hp]; rfl)

theorem fence_and_readmit : fenceAndReadmit := by
  intro s a g hr c
  have fence : exec (.courseFence a g) s = .next (s.fence g) := congrArg Host.Outcome.next ((courseCmdCommand hr).trans wrCourseCmd_fence)
  have readmit (p : Fin 16) (ok : Bool) : exec (.arrayReadmit a g p ok) s = .next (s.readmit g p.val ok) :=
    congrArg Host.Outcome.next (through_of_reaches hr)
  refine ⟨fun hc ha => ⟨_, fence, ?_⟩, fun hc => fence.trans (congrArg _ (State.fence_of_fenced hc)),
    fun p hq hp hh => ⟨(readmit p true).trans (congrArg _ ?_), _, readmit p false, ?_⟩,
    fun p ok h => (readmit p ok).trans (congrArg _ (State.readmit_refused h))⟩
  · obtain ⟨h, hmem, hothers, hrec⟩ := State.fence_fenced hc
    exact ⟨h.ctl, h.wait, h.stalled, h.queues, h.val, hothers ha, hmem, hrec⟩
  · exact (State.readmit_acts hq hp hh true).trans (if_pos rfl)
  · rw [State.readmit_acts hq hp hh false]
    dsimp only
    rw [if_neg Bool.false_ne_true]
    have hrep : Reports s (s.raiseRel (courseDie g) 0x0F09 (g.val % 8) none) := State.raiseWith_reports ..
    refine ⟨?_, hrep.mem, State.raiseWith_presents_report ..⟩
    obtain ⟨_, _, _, _, he⟩ := hrep
    rw [he]

/-! ### Words of staging SRAM (R515) -/

/-- A capture of a record that is not valid (R161). -/
theorem State.capture1_captures {o info a addr : Nat} (h : (s.reg o).getLsbD 31 = false) :
    (s.capture1 o info (some a) addr).reg o = BitVec.ofNat 32 (0x80000000 + info) ∧
      (s.capture1 o info (some a) addr).reg64 a = BitVec.ofNat 64 addr := by
  have he : s.capture1 o info (some a) addr = (s.setReg o (BitVec.ofNat 32 (0x80000000 + info))).setReg64 a (BitVec.ofNat 64 addr) := by
    rw [State.capture1, if_neg (by rw [h]; exact Bool.false_ne_true)]
  rw [he]
  exact ⟨(State.setReg64_reg ..).trans (State.setReg_reg ..), State.setReg64_reg64 ..⟩

/-- An uncorrectable word is counted and captured, and its line is poisoned. -/
def State.sramLost (s : State) (g : Course) (scrub : Bool) (o : Nat) : State :=
  ((s.setPoison (windowBase g + o) true).countC g 0x341C 0x3408 1).capture1 (cr g 0x3418) (if scrub then 1 else 0)
    (some (cr g 0x3410)) o

/-- Nothing but registers and marks of poison changes as a word of staging SRAM is lost. -/
theorem State.sramLost_eq (s : State) (g : Course) (scrub : Bool) (o : Nat) : ∃ m w, s.sramLost g scrub o =
    { s.setPoison (windowBase g + o) true with regs := m, wide := w } := by
  obtain ⟨w, hw⟩ := count_frame (s.setPoison (windowBase g + o) true) (Blk.course g).base 0x341C 0x3408 1
  obtain ⟨m, w', hc⟩ := capture1_frame ((s.setPoison (windowBase g + o) true).countC g 0x341C 0x3408 1) (cr g 0x3418)
    (if scrub then 1 else 0) o (some (cr g 0x3410))
  exact ⟨m, w', by rw [State.sramLost, hc, State.countC, hw]⟩

theorem State.sramLost_captures {scrub : Bool} {o : Nat} (h : (s.reg (cr g 0x3418)).getLsbD 31 = false) :
    (s.sramLost g scrub o).reg (cr g 0x3418) = BitVec.ofNat 32 (0x80000000 + if scrub then 1 else 0) ∧
      (s.sramLost g scrub o).reg64 (cr g 0x3410) = BitVec.ofNat 64 o := by
  refine State.capture1_captures ?_
  obtain ⟨w, hw⟩ := count_frame (s.setPoison (windowBase g + o) true) (Blk.course g).base 0x341C 0x3408 1
  rw [State.countC, hw]
  exact h

/-- The marks of poison once a line is poisoned. -/
theorem State.setPoison_line {a : Nat} (ha : a % 64 = 0) (b : Nat) :
    (s.setPoison a true).poisoned b = if a ≤ b ∧ b < a + 64 then true else s.poisoned b := by
  unfold State.poisoned State.setPoison
  split
  · next h =>
    have hb : b / 64 = a / 64 := by omega
    rw [hb]
    exact SMap.get_put_same (a / 64) true false s.memPoison
  · have hb : b / 64 ≠ a / 64 := by omega
    exact SMap.get_put_other hb true false false s.memPoison

theorem windowBase_line (g : Course) (n : Nat) : (windowBase g + n / 64 * 64) % 64 = 0 := by
  unfold windowBase sramBase
  omega

theorem sramScrubVisit_lost {n : Fin 3145728} {scrub : Bool} (h : s.poisoned (windowBase g + 8 * n.val / 64 * 64) = false) :
    sramScrubVisit g (some n) .uncorrectable scrub s =
      (s.sramLost g scrub (8 * n.val / 64 * 64)).raiseRel (courseDie g) 0x0F0A (g.val % 8) none := by
  simp only [sramScrubVisit, h, Bool.false_eq_true, if_false]
  rfl

theorem sramScrubVisit_poisoned {n : Fin 3145728} {scrub : Bool} (h : s.poisoned (windowBase g + 8 * n.val / 64 * 64) = true) :
    sramScrubVisit g (some n) .uncorrectable scrub s = s := by
  simp only [sramScrubVisit, h, if_true]

/-- A command of a die that runs has the effect of its act. -/
theorem ifDie_runs {d : Die} {act : State → State} (h : s.dieRuns d = true) :
    (.next (s.ifDie d act) : Out) = .next (act s) := congrArg _ (if_pos h)

theorem sram_words : sramWords := by
  intro s g n scrub hr a
  refine ⟨fun w => ifDie_runs hr, fun w => ⟨_, ifDie_runs hr, ?_⟩, fun hp => ⟨_, ifDie_runs hr, ?_⟩,
    fun hp => (ifDie_runs hr).trans (congrArg _ (sramScrubVisit_poisoned hp)), fun hc => ⟨_, ifDie_runs hr, ?_⟩⟩
  · obtain ⟨x, hx⟩ := count_frame s (Blk.course g).base 0x341C 0x3400 1
    have he : sramScrubVisit g w .corrected scrub s = { s with wide := x } := hx
    exact ⟨(congrArg State.courses he :), (congrArg State.mem he :), (congrArg State.dies he :), (congrArg State.memPoison he :),
      State.countC_reg64⟩
  · obtain ⟨m, w, he⟩ := s.sramLost_eq g scrub (8 * n.val / 64 * 64)
    have hcap := State.sramLost_captures (s := s) (g := g) (scrub := scrub) (o := 8 * n.val / 64 * 64)
    have ho : a - windowBase g = 8 * n.val / 64 * 64 := Nat.add_sub_cancel_left ..
    rw [sramScrubVisit_lost hp, ho]
    generalize s.sramLost g scrub (8 * n.val / 64 * 64) = u at he hcap
    obtain ⟨d, r, x, k, hr⟩ : Reports u (u.raiseRel (courseDie g) 0x0F0A (g.val % 8) none) := State.raiseWith_reports ..
    have hreg (o : Nat) : (u.raiseRel (courseDie g) 0x0F0A (g.val % 8) none).reg o = u.reg o := State.raiseWith_reg ..
    have hreg64 (o : Nat) : (u.raiseRel (courseDie g) 0x0F0A (g.val % 8) none).reg64 o = u.reg64 o := State.raiseWith_reg64 ..
    have hpres : Presents u (u.raiseRel (courseDie g) 0x0F0A (g.val % 8) none) (courseDie g) 0x0F0A 0x0E :=
      State.raiseWith_presents_report ..
    have hdie : u.die (courseDie g) = s.die (courseDie g) := by rw [he]; rfl
    refine ⟨fun b => ?_, (congrArg State.mem hr :).trans (congrArg State.mem he :),
      (congrArg State.courses hr :).trans (congrArg State.courses he :),
      ?_, fun hv => ?_⟩
    · rw [← State.setPoison_line (s := s) (windowBase_line g (8 * n.val)), hr, he]
      rfl
    · obtain ⟨p, hp, hcode, hunit⟩ := hpres
      exact ⟨p, by rw [hp, hdie], hcode, hunit⟩
    · rw [hreg, hreg64]
      exact hcap hv
  · obtain ⟨h, hmem, -⟩ := State.fence_fenced hc
    exact ⟨h.ctl, hmem⟩

end

end Sys2Proof.Machine

/-! SUPPORT. Self-tests: how they are asked for, end clean, and what a checker that fails does (R221, R496 to R498). -/

namespace Sys2Proof.Machine

section
variable {s t u : State} {g : Course}

/-! ### What settling leaves (R220) -/

/-- The self-tests and the arrays of a course are as they were once its queues have settled. -/
theorem settle_units (s : State) (g : Course) : ((s.settle g).course g).selfTests = (s.course g).selfTests ∧
    ((s.settle g).course g).arr = (s.course g).arr := by
  refine State.settle_keeps (P := fun c => c.selfTests = (s.course g).selfTests ∧ c.arr = (s.course g).arr)
    (fun c r e rest n x o hc _ _ _ _ => hc) (fun t r e rest n x ht _ _ _ => ?_) (fun c hc => ?_) (fun c k hc => hc) s ⟨rfl, rfl⟩
  · rw [State.qwaitExpire_course]
    split
    · exact ht
    · exact ht
  · obtain ⟨hs, ha⟩ := hc
    have hw : c.settleWait.selfTests = c.selfTests ∧ c.settleWait.arr = c.arr := by
      unfold CourseState.settleWait CourseState.endWait CourseState.ws
      repeat' split
      all_goals exact ⟨rfl, rfl⟩
    exact ⟨hw.1.trans hs, hw.2.trans ha⟩

theorem qwaitExpire_reg {o : Nat} (ho : o ≠ cr g 0x40) (s : State) (q : QueueId) (e : QEntry) (n : Fin 256) (x : Word)
    (rest : List QEntry) : (s.qwaitExpire g q e n x rest).reg o = s.reg o := by
  have hefirst (u : State) (code : BitVec 16) (k : Nat) (pc : Addr) : (u.efirst g code k pc).reg o = u.reg o := by
    unfold State.efirst
    split
    · rfl
    · rw [State.setReg64_reg, State.setReg_reg_ne _ ho]
  have hraise (u : State) (code : BitVec 16) (unit : Byte) (sub : BitVec 4) (p tp : Bool) (pc : Addr) (info : Option DWord) :
      (u.raiseInstr g code unit sub p tp pc info).reg o = u.reg o := State.raiseWith_reg ..
  unfold State.qwaitExpire
  dsimp only
  split <;> rw [hefirst, hraise, State.modCourse_reg]

theorem settleQueue_reg {o : Nat} (ho : o ≠ cr g 0x40) (q : QueueId) :
    ∀ (fuel : Nat) (s : State), (s.settleQueue g q fuel).reg o = s.reg o
  | 0, _ => rfl
  | fuel + 1, s => by
    unfold State.settleQueue
    dsimp only
    split
    · split
      · split
        · rw [settleQueue_reg ho q fuel, State.modCourse_reg]
        · split
          · exact qwaitExpire_reg ho ..
          · rfl
      · rfl
    · rfl

/-- Settling writes no 32-bit register but CCR_EFIRST. -/
theorem settle_reg {o : Nat} (ho : o ≠ cr g 0x40) (s : State) : (s.settle g).reg o = s.reg o := by
  have hfold : ((List.finRange 8).foldl (fun u q => u.settleQueue g q 65) s).reg o = s.reg o :=
    foldl_related (R := fun x y : State => y.reg o = x.reg o) (fun _ => rfl) (fun h k => k.trans h)
      (fun t q => settleQueue_reg ho q 65 t) _ s
  have hnote (u : State) : (u.noteHead g).reg o = u.reg o := by
    unfold State.noteHead
    dsimp only
    split
    · split
      · rfl
      · rw [State.tick_reg, State.modCourse_reg]
    · rfl
  unfold State.settle
  dsimp only
  rw [hnote, State.modCourse_reg, hfold]

/-! ### Tests are asked for (R496) -/

/-- The state as a test of every group of course g is asked for: the course's part, and that of its die. -/
def State.asked (s : State) (g : Course) : State :=
  ((s.modCourse g fun c => { c with selfTests := c.selfTests ++ [⟨s.stamp, 0, 0xFF, false, 0, false⟩] }).tick).modDie (courseDie g)
    fun x => { x with selfTests := x.selfTests ++ [⟨some (g, s.stamp), 0xC0⟩] }

theorem selftestPeriodic_course : selftestPeriodic (.course g) s = s.asked g := by
  have hdie : ¬dieGroups 0xFF = 0 := by decide
  simp only [selftestPeriodic, State.askTest, if_neg hdie]
  rfl

theorem State.asked_course (s : State) (g h : Course) : (s.asked g).course h = if h = g then
    { s.course g with selfTests := (s.course g).selfTests ++ [⟨s.stamp, 0, 0xFF, false, 0, false⟩] } else s.course h := by
  rw [State.asked, State.modDie_course, State.tick_course]
  split
  · next hh => rw [hh, State.modCourse_course]
  · next hh => exact s.modCourse_course_ne hh _

theorem State.asked_die (s : State) (g : Course) : ((s.asked g).die (courseDie g)).selfTests =
    (s.die (courseDie g)).selfTests ++ [⟨some (g, s.stamp), 0xC0⟩] := by
  rw [State.asked, State.modDie_die, State.tick_die, State.modCourse_die]

/-! ### Tests end (R221, R496) -/

/-- The course's first test with groups 0 to 5 to test, where it has but one. -/
theorem testing_one {x : SelfTest} (h : (s.course g).selfTests = [x]) (hl : x.left ≠ 0) (hd : x.left &&& 0xC0 = 0) :
    (s.course g).testing = some x ∧ courseGroups x.left = x.left := by
  have hsplit : x.left &&& 0x3F = x.left := by
    have hall : x.left &&& (0x3F ||| 0xC0) = x.left := BitVec.and_allOnes
    rw [BitVec.and_or_distrib_left, hd] at hall
    exact BitVec.or_zero.symm.trans hall
  have hg : courseGroups x.left = x.left := hsplit
  refine ⟨?_, hg⟩
  rw [CourseState.testing, h, List.find?_cons, hg, bne_iff_ne.2 hl]

/-- The course as its only test ends clean or with its groups tested. -/
def CourseState.testEnded (c : CourseState) (x : SelfTest) : CourseState :=
  { (c.completeEffects 8 x.pc x.te x.tally false false 0) with selfTests := [] }

/-- A completion that writes no record and is not poisoned leaves the arrays, and does not read the tests. -/
theorem testEnded_units (c : CourseState) (x : SelfTest) (l : List SelfTest) : (c.testEnded x).arr = c.arr ∧
    ({ c with selfTests := l } : CourseState).testEnded x = c.testEnded x := by
  unfold CourseState.testEnded CourseState.completeEffects
  cases x.te <;> exact ⟨rfl, rfl⟩

theorem testPart_ends {x : SelfTest} (h : (s.course g).selfTests = [x]) (hn : x.ntf = false) :
    s.testPart g x.id x.left = (s.modCourse g (·.testEnded x)).settle g := by
  obtain ⟨id, pc, left, te, tally, ntf⟩ := x
  obtain rfl : ntf = false := hn
  have hpart : (s.course g).selfTests.map (fun y => if y.id = id then { y with left := y.left &&& ~~~left } else y) =
      [⟨id, pc, 0, te, tally, false⟩] := by
    rw [h, List.map_cons, List.map_nil, if_pos rfl, BitVec.and_not_self]
  have hmod : (s.modCourse g fun c => { c with selfTests := c.selfTests.map fun y =>
      if y.id = id then { y with left := y.left &&& ~~~left } else y }) =
      s.modCourse g fun c => { c with selfTests := [⟨id, pc, 0, te, tally, false⟩] } := by
    rw [State.modCourse, hpart]
    rfl
  have hnone : [(⟨id, pc, 0, te, tally, false⟩ : SelfTest)].filter (fun y => y.id != id) = [] := by simp
  rw [State.testPart, hmod, State.finishTests, State.modCourse_course, List.foldl_cons, List.foldl_nil, State.finishTest,
    if_neg (by simp), State.modCourse_modCourse]
  dsimp only
  rw [hnone]
  refine congrArg (fun c => (s.setCourse g c).settle g) ?_
  exact (testEnded_units (s.course g) ⟨id, pc, left, te, tally, false⟩ [⟨id, pc, 0, te, tally, false⟩]).2

/-- What the end of a test leaves. -/
structure TestOver (g : Course) (x : SelfTest) (s t : State) : Prop where
  others : ∀ h, h ≠ g → t.course h = s.course h
  mem : t.mem = s.mem
  tests : (t.course g).selfTests = []
  tallied : Tallied (s.course g) (t.course g) x.te false x.tally
  arr : (t.course g).arr = (s.course g).arr

theorem testEnded_over (s : State) (g : Course) (x : SelfTest) : TestOver g x s ((s.modCourse g (·.testEnded x)).settle g) := by
  have hk := (s.modCourse g (·.testEnded x)).settle_keepsTallies g
  obtain ⟨htests, harr⟩ := settle_units (s.modCourse g (·.testEnded x)) g
  rw [State.modCourse_course] at htests harr
  have hended : Tallied (s.course g) ((s.course g).testEnded x) x.te false x.tally := by
    rw [CourseState.testEnded, completeEffects_eq]
    exact tallied_tallied ..
  refine ⟨fun h hh => (hk.others h hh).trans (s.modCourse_course_ne hh _), hk.mem, htests, ?_,
    harr.trans (testEnded_units (s.course g) x []).1⟩
  have hV := hk.tallyV
  have hP := hk.tallyP
  rw [State.modCourse_course] at hV hP
  exact hended.congr rfl rfl hV hP

/-- What reports before the end of a test does not change what the test leaves. -/
theorem TestOver.of_reports {x : SelfTest} (hr : Reports s t) (h : TestOver g x t u) : TestOver g x s u where
  others k hk := (h.others k hk).trans (hr.course k)
  mem := h.mem.trans hr.mem
  tests := h.tests
  tallied := hr.course g ▸ h.tallied
  arr := h.arr.trans (congrArg CourseState.arr (hr.course g))

theorem testResult_groups {o : Nat} {m f : BitVec 8} : Reports s (s.testResult o m f) ∧
    ((s.reg o).getLsbD 31 = false → f = 0 → (s.testResult o m f).reg o = BitVec.ofNat 32 (0x80000000 + m.toNat)) := by
  unfold State.testResult
  split
  · next h => exact ⟨.refl s, fun hv => absurd h (by rw [hv]; exact Bool.false_ne_true)⟩
  · refine ⟨⟨_, _, _, _, rfl⟩, fun _ hf => ?_⟩
    subst hf
    have hand : m &&& ~~~(0 : BitVec 8) = m := BitVec.and_allOnes
    have hzero : (m &&& (0 : BitVec 8)).toNat = 0 := congrArg BitVec.toNat BitVec.and_zero
    rw [State.setReg_reg, hand, hzero, Nat.mul_zero, Nat.add_zero]

/-- A test of groups 0 to 5 that completes: it is shown and over, and then each checker that failed has its effect (R496, R498). -/
theorem selftestComplete_course {x : SelfTest} {f : TestFault} (h : (s.course g).selfTests = [x]) (hl : x.left ≠ 0)
    (hd : x.left &&& 0xC0 = 0) (hr : (s.course g).arr.repoint = .none) (hn : x.ntf = false) : ∃ u,
    TestOver g x s u ∧ ((s.reg (cr g 0x3814)).getLsbD 31 = false → f.groups = 0 →
      u.reg (cr g 0x3814) = BitVec.ofNat 32 (0x80000000 + x.left.toNat)) ∧
    selftestComplete (.course g) f s = (groupList (x.left &&& f.groups)).foldl (fun t k => t.latent g f (x.left &&& f.groups) k) u := by
  obtain ⟨htest, hgroups⟩ := testing_one h hl hd
  obtain ⟨hrep, hreg⟩ := testResult_groups (s := s) (o := cr g 0x3814) (m := x.left) (f := f.groups)
  have hends := testPart_ends (s := s.testResult (cr g 0x3814) x.left f.groups) (g := g) (by rw [hrep.course]; exact h) hn
  refine ⟨(s.testResult (cr g 0x3814) x.left f.groups).testPart g x.id x.left, ?_, fun hv hf => ?_, ?_⟩
  · rw [hends]
    exact (testEnded_over _ g x).of_reports hrep
  · rw [hends, settle_reg (mt cr_inj.1 (by decide)), State.modCourse_reg]
    exact hreg hv hf
  · simp only [selftestComplete, htest, hr, ne_eq, not_true_eq_false, if_false, hgroups]

/-! ### Checkers that fail (R498) -/

theorem groupList_of_mask {m : BitVec 8} : groupList (m &&& 0) = [] ∧ (m.getLsbD 5 = true → groupList (m &&& 0x20) = [5]) ∧
    (m.getLsbD 0 = true → groupList (m &&& 0x01) = [0]) := by
  refine ⟨?_, fun h => ?_, fun h => ?_⟩
  · have hz : m &&& 0 = 0 := BitVec.and_zero
    rw [hz]
    decide
  · have hm : m &&& 0x20 = 0x20 := (BitVec.and_twoPow m 5).trans (if_pos h)
    rw [hm]
    decide
  · have hm : m &&& 0x01 = 0x01 := (BitVec.and_twoPow m 0).trans (if_pos h)
    rw [hm]
    decide

theorem State.fence_mem (s : State) (g : Course) : (s.fence g).mem = s.mem := by
  by_cases h : (s.course g).ctl = .fenced
  · rw [State.fence_of_fenced h]
  · exact (State.fence_fenced h).2.1

theorem State.arraysLost_mem (s : State) (g : Course) (js : List Nat) : (s.arraysLost g js).mem = s.mem := by
  have hfail (ps : List Nat) (t : State) :
      (ps.foldl (fun t p => t.failed ⟨(courseDie g).val, 0x02, g.val % 8, 0, p⟩) t).mem = t.mem :=
    foldl_related (R := fun x y : State => y.mem = x.mem) (fun _ => rfl) (fun h k => k.trans h)
      (fun t p => (rfl : (t.failed _).mem = t.mem)) ps t
  have hgrant (t : State) : (arrayQueues.foldl (fun t q => t.ungrant g q) t).mem = t.mem :=
    foldl_related (R := fun x y : State => y.mem = x.mem) (fun _ => rfl) (fun h k => k.trans h)
      (fun t q => (t.ungrant_apart g q).mem) arrayQueues t
  have hraise (t : State) (code : BitVec 16) (info : Option DWord) : (t.raiseRel (courseDie g) code (g.val % 8) info).mem = t.mem :=
    (State.raiseWith_reports ..).mem
  have hcount (t : State) : (t.count (Blk.course g).base 0x3828 0x3818 1).mem = t.mem := (State.count_reports ..).mem
  unfold State.arraysLost
  dsimp only
  split
  · split
    · rw [hraise, State.modCourse_mem, hcount, hgrant, hfail]
    · rw [State.modCourse_mem, hcount, hgrant, hfail]
  · split
    · rw [hraise, State.modCourse_mem, hgrant, hfail]
    · rw [State.fence_mem, State.modCourse_mem, hgrant, hfail]

/-- A checker of group 5 that fails is reported. -/
theorem latent_five (s : State) (g : Course) (f : TestFault) (m : BitVec 8) :
    s.latent g f m 5 = s.raiseRel (courseDie g) 0x0F09 (g.val % 8) none := rfl

/-- A checker of group 0 that fails is reported, and the array that it guards fails. -/
theorem latent_zero {f : TestFault} (m : BitVec 8) (h : f.array.val < (s.course g).arr.logical) :
    s.latent g f m 0 = (s.raiseRel (courseDie g) 0x0F09 (g.val % 8) none).arraysLost g [f.array.val] := by
  have hc : (s.raiseRel (courseDie g) 0x0F09 (g.val % 8) none).course g = s.course g := (State.raiseWith_reports ..).course g
  exact if_pos (by rw [hc]; exact h)

/-- A command that does nothing does nothing, whether its course or die runs or not. -/
theorem ifCourse_idle {act : State → State} (h : act s = s) : s.ifCourse g act = s := by
  rw [State.ifCourse, h, ite_self]

theorem ifDie_idle {d : Die} {act : State → State} (h : act s = s) : s.ifDie d act = s := by
  rw [State.ifDie, h, ite_self]

theorem selftestComplete_untested (h : (s.course g).testing = none) (f : TestFault) : selftestComplete (.course g) f s = s := by
  simp only [selftestComplete, h]

/-- The test of a die's own schedule that is the die's first ends clean. -/
theorem selftestComplete_die {d : Die} {x : DieTest} {rest : List DieTest} {f : TestFault} (hd : d.val < 4)
    (hx : (s.die d).selfTests = x :: rest) (ho : x.owner = none) (hf : f.groups = 0) : selftestComplete (.die d) f s =
      (s.modDie d fun y => { y with selfTests := y.selfTests.erase x }).testResult (dr d 0x20D8) x.groups 0 := by
  have hw : s.testWaits x = false := by rw [State.testWaits, ho]
  have hnil : groupList (x.groups &&& 0) = [] := (groupList_of_mask (m := x.groups)).1
  simp only [selftestComplete, dif_pos hd, hx, List.find?_cons, hw, Bool.not_false, ho, hf, hnil, List.foldl_nil]

theorem selftestComplete_waits {d : Die} {x : DieTest} {i : Nat} (f : TestFault) (hx : (s.die d).selfTests = [x])
    (ho : x.owner = some (g, i)) (hr : (s.course g).arr.repoint ≠ .none) : selftestComplete (.die d) f s = s := by
  have hw : s.testWaits x = true := by
    rw [State.testWaits, ho]
    exact bne_iff_ne.2 hr
  simp only [selftestComplete, hx, List.find?_cons, hw, Bool.not_true, List.find?_nil, dite_eq_right_iff, implies_true]

theorem testResult_dies (s : State) (o : Nat) (m f : BitVec 8) : (s.testResult o m f).dies = s.dies := by
  unfold State.testResult
  split <;> rfl

/-- What the clean end of the first test of a die leaves. -/
theorem testResult_after {d : Die} {x : DieTest} {rest : List DieTest} (hx : (s.die d).selfTests = x :: rest) (o : Nat) (m f : BitVec 8) :
    let t := (s.modDie d fun y => { y with selfTests := y.selfTests.erase x }).testResult o m f
    (t.die d).selfTests = rest ∧ t.courses = s.courses ∧ (t.die d).presented = (s.die d).presented := by
  have hdies := testResult_dies (s.modDie d fun y => { y with selfTests := y.selfTests.erase x }) o m f
  obtain ⟨_, _, _, _, he⟩ := (testResult_groups (s := s.modDie d fun y => { y with selfTests := y.selfTests.erase x }) (o := o)
    (m := m) (f := f)).1
  have hdie := (congrArg (fun v => v.get d) hdies).trans (s.modDie_die d fun y => { y with selfTests := y.selfTests.erase x })
  refine ⟨(congrArg DieState.selfTests hdie).trans ?_, (congrArg State.courses he :), (congrArg DieState.presented hdie :)⟩
  rw [hx]
  exact List.erase_cons_head ..

theorem self_tests : selfTests := by
  intro s g c frame
  refine ⟨fun hr => completes_ifCourse rfl hr ?_, fun d => ⟨fun hr hd => ⟨_, ifDie_runs hr, ?_⟩, fun hd => ?_⟩,
    fun x f hr hx hl hdie hrep hn => ?_, fun ht f => congrArg Host.Outcome.next (ifCourse_idle (selftestComplete_untested ht f)),
    fun d x rest f hr hd hx ho hf => ⟨_, ifDie_runs hr, ?_⟩,
    fun d x i f hx ho hrep => congrArg Host.Outcome.next (ifDie_idle (selftestComplete_waits f hx ho hrep))⟩
  · rw [selftestPeriodic_course]
    refine ⟨⟨fun h hh => (s.asked_course g h).trans (if_neg hh), rfl⟩,
      ⟨⟨s.stamp, 0, 0xFF, false, 0, false⟩, ?_, rfl, rfl, rfl⟩, _, s.asked_die g, rfl⟩
    rw [s.asked_course, if_pos rfl]
  · have he : selftestPeriodic (.die d) s = s.modDie d fun x => { x with selfTests := x.selfTests ++ [⟨none, 0xC0⟩] } := if_pos hd
    rw [he]
    exact ⟨congrArg DieState.selfTests (State.modDie_die ..), rfl⟩
  · exact congrArg Host.Outcome.next (ifDie_idle (if_neg (Nat.not_lt.2 hd)))
  · obtain ⟨u, hover, hreg, he⟩ := selftestComplete_course (f := f) hx hl hdie hrep hn
    obtain ⟨hnone, hfive, hzero⟩ := groupList_of_mask (m := x.left)
    have hraise : Reports u (u.raiseRel (courseDie g) 0x0F09 (g.val % 8) none) := State.raiseWith_reports ..
    refine ⟨fun hf => completes_ifCourse rfl hr ?_, fun hf h5 => completes_ifCourse rfl hr ?_,
      fun hf h0 ha hc => completes_ifCourse rfl hr ?_⟩
    · rw [he, hf, hnone, List.foldl_nil]
      exact ⟨⟨hover.others, hover.mem⟩, hover.tests, hover.tallied, fun hv => hreg hv hf⟩
    · rw [he, hf, hfive h5, List.foldl_cons, List.foldl_nil, latent_five]
      obtain ⟨r, hr, hcode, hunit⟩ := u.raiseWith_presents_report (courseDie g)
        (plainReport 0x0F09 0x0E (BitVec.ofNat 8 (g.val % 8)) 0xF) none
      exact ⟨⟨fun h hh => (hraise.course h).trans (hover.others h hh), hraise.mem.trans hover.mem⟩,
        (congrArg CourseState.selfTests (hraise.course g)).trans hover.tests, r, hr ▸ List.mem_append_right _ List.mem_cons_self, hcode,
        hunit⟩
    · have hlogical : f.array.val < (u.course g).arr.logical := by rw [hover.arr]; exact ha
      rw [he, hf, hzero h0, List.foldl_cons, List.foldl_nil, latent_zero _ hlogical, State.arraysLost_mem]
      refine ⟨(arraysLost_masks _ g _).1.trans ?_, hraise.mem.trans hover.mem⟩
      rw [hraise.course, hover.arr]
      rfl
  · rw [selftestComplete_die hd hx ho hf]
    exact testResult_after hx _ _ _

/-- Settles O58: each failure by the rule of its part, and what a fenced course loses by the flush of its queues. -/
theorem failuresHandled : Obligations.FailuresHandled := ⟨lockstep_pairs, self_tests, fence_and_readmit, sram_words⟩

end

end Sys2Proof.Machine

/-! SUPPORT. StreamRegisters: what RELEASE and RESUME make of a stream, and what the writes of the stream engine's registers do (R263 to
R265, R270, R271, R274, R281). -/

namespace Sys2Proof.Machine

section
variable {s t u : State} {a : Agent} {g : Course} {n : Nat} {v : Word} {d : Desc} {f : Stream → Stream}

/-! ### What settling leaves, and a stream that changes -/

/-- What depends on no queue, watch or record, and not on the wait, the s registers and the place of the controller, is as it was once
the waits of the course have settled (R220). -/
theorem settle_same {α : Type} (f : CourseState → α) (hf : ∀ (c : CourseState) q w r x rs pc,
    f { c with queues := q, watches := w, records := r, wait := x, sregs := rs, pc := pc } = f c) (s : State) (g : Course) :
    f ((s.settle g).course g) = f (s.course g) := by
  obtain ⟨c, hb, -, hs⟩ := s.settle_course g
  have beside {c d : CourseState} (h : c.Beside d) : f d = f c :=
    h.same f fun q w r => hf d q w r d.wait d.sregs d.pc
  have hw : f c.settleWait = f c := by
    unfold CourseState.settleWait CourseState.endWait CourseState.ws
    repeat' split
    · exact hf c c.queues c.watches c.records none c.sregs (c.pc + 8)
    · exact hf c c.queues c.watches c.records none _ (c.pc + 8)
    · rfl
    · rfl
  exact (beside hs).trans (hw.trans (beside hb))

theorem State.modStream_stream (s : State) (g : Course) (n : Nat) (f : Stream → Stream) :
    ((s.modStream g n f).course g).stream n = f ((s.course g).stream n) := by
  rw [State.modStream, State.modCourse_course, CourseState.setStream_stream]

theorem State.modStream_apart (s : State) (g : Course) (n : Nat) (f : Stream → Stream) : Apart g s (s.modStream g n f) :=
  s.modCourse_apart g _

theorem Settles.apart (h : Settles g s t) : Apart g s t := by
  obtain ⟨hc, hs, -, -⟩ := h
  have hm := congrArg State.mem hs
  have hh := congrArg State.host hs
  exact ⟨hc, hm, hh⟩

theorem State.settle_apart (s : State) (g : Course) : Apart g s (s.settle g) := by
  obtain ⟨t, ht, he⟩ := s.settle_eq g
  rw [he]
  exact ht.apart.trans ((t.modCourse_apart g _).trans (State.noteHead_settles _ g).apart)

/-! ### A stream is freed (R263) -/

/-- What is left of a stream that is freed: its transfers that are formed, and the count of its stalls. -/
def Stream.freed (x : Stream) : Stream := { Stream.free with
  inflight := x.inflight.map fun t => { t with stale := true }, rearmStalls := x.rearmStalls, rearmWait := x.rearmWait }

/-- From s to t nothing of course g has changed but what its expanders hold. -/
def Feeds (g : Course) (s t : State) : Prop := ∃ i b, t.course g = { s.course g with idx := i, tbl := b }

theorem Feeds.trans (h : Feeds g s t) (k : Feeds g t u) : Feeds g s u := by
  obtain ⟨_, _, h⟩ := h
  obtain ⟨i, b, k⟩ := k
  exact ⟨i, b, by rw [k, h]⟩

theorem State.feedLine_feeds (s : State) (g : Course) (n : Nat) (tbl : Bool) (x : Transfer) : Feeds g s (s.feedLine g n tbl x) := by
  unfold State.feedLine
  dsimp only
  rw [Feeds, State.modCourse_course, (s.readMarked_reports x.near x.len).course]
  cases tbl <;> exact ⟨_, _, rfl⟩

/-- A course whose stream is freed changes in that stream and in what its expanders hold. -/
theorem State.free_course (s : State) (g : Course) (n : Nat) : ∃ i b, (s.free g n).course g =
    { (s.course g).setStream n ((s.course g).stream n).freed with idx := i, tbl := b } := by
  unfold State.free
  dsimp only
  rw [State.modCourse_course]
  generalize hu : (((s.course g).stream n).live.filter fun t => t.share == 3).foldl _ s = u
  obtain ⟨i, b, h⟩ : Feeds g s u := hu ▸ foldl_related (R := Feeds g) (fun _ => ⟨_, _, rfl⟩) Feeds.trans
    (fun t x => t.feedLine_feeds g n _ x) _ s
  rw [h]
  exact ⟨_, _, rfl⟩

theorem State.free_stream (s : State) (g : Course) (n : Nat) : ((s.free g n).course g).stream n = ((s.course g).stream n).freed := by
  obtain ⟨i, b, h⟩ := s.free_course g n
  rw [h]
  exact CourseState.setStream_stream ..

/-! ### RELEASE (R263, R281) -/

theorem strCmdCommand (h : Reaches s a (cr g 0x201C)) : s.command a (cr g 0x201C) v = s.wrStrCmd g v :=
  courseCommand_of_reaches h (by omega) rfl rfl rfl

/-- A write of STR_CMD names its stream in the low bits and its command above them. -/
theorem strCmd_eq (h : Reaches s a (cr g 0x201C)) {k : Nat} (hk : k < 4) (n : StreamId) :
    s.command a (cr g 0x201C) (BitVec.ofNat 32 (4096 * k + n.val)) =
      if k = 1 then s.strResume g n.val else if k = 2 then s.strRelease g n.val else s := by
  have hv : (BitVec.ofNat 32 (4096 * k + n.val)).toNat = 4096 * k + n.val := by
    rw [BitVec.toNat_ofNat]
    omega
  have hop : (4096 * k + n.val) / 4096 % 4 = k := by omega
  have hn : (4096 * k + n.val) % 2048 = n.val := by omega
  rw [strCmdCommand h, State.wrStrCmd, hv, hop, hn]
  split
  · rfl
  · rfl
  · next h1 h2 => rw [if_neg h1, if_neg h2]

theorem exec_strCmdRelease (h : Reaches s a (cr g 0x201C)) (n : StreamId) :
    exec (.strCmdRelease a g n) s = .next (s.strRelease g n.val) := congrArg Host.Outcome.next (strCmd_eq h (k := 2) (by omega) n)

theorem exec_strCmdResume (h : Reaches s a (cr g 0x201C)) (n : StreamId) :
    exec (.strCmdResume a g n) s = .next (s.strResume g n.val) := congrArg Host.Outcome.next (strCmd_eq h (k := 1) (by omega) n)

theorem strRelease_of_free (hx : ((s.course g).stream n).st = .free) : s.strRelease g n = s := by
  unfold State.strRelease
  simp only [hx]

/-- RELEASE poisons the end tally of a stream whose pass has not ended (R263). -/
theorem strRelease_eq (hx : ((s.course g).stream n).st ≠ .free) (hd : ((s.course g).stream n).desc = some d) :
    s.strRelease g n = if (d.een && decide (((s.course g).stream n).st ≠ .parked) && decide (((s.course g).stream n).st ≠ .done)) = true
      then ((s.free g n).modCourse g fun c => c.tallyPoison d.etally).settle g else s.free g n := by
  unfold State.strRelease
  dsimp only
  rw [hd]
  cases hst : ((s.course g).stream n).st
  case free => exact absurd hst hx
  all_goals simp

/-- What RELEASE leaves and changes. -/
theorem strRelease_releases (hx : ((s.course g).stream n).st ≠ .free) (hd : ((s.course g).stream n).desc = some d) :
    Apart g s (s.strRelease g n) ∧ ((s.strRelease g n).course g).stream n = ((s.course g).stream n).freed ∧
    ∀ m : Fin 256, ((s.strRelease g n).course g).tallyVal m = (s.course g).tallyVal m ∧
      ((s.strRelease g n).course g).tallyPoi m = ((s.course g).tallyPoi m || (d.een &&
        decide (((s.course g).stream n).st ≠ .parked) && decide (((s.course g).stream n).st ≠ .done) && decide (m = d.etally))) := by
  obtain ⟨i, b, hc⟩ := s.free_course g n
  have hstream := s.free_stream g n
  have hval (m : Fin 256) : ((s.free g n).course g).tallyVal m = (s.course g).tallyVal m := by rw [hc]; rfl
  have hpoi (m : Fin 256) : ((s.free g n).course g).tallyPoi m = (s.course g).tallyPoi m := by rw [hc]; rfl
  rw [strRelease_eq hx hd]
  cases hp : d.een && decide (((s.course g).stream n).st ≠ .parked) && decide (((s.course g).stream n).st ≠ .done)
  · rw [if_neg Bool.false_ne_true]
    exact ⟨s.free_apart g n, hstream, fun m => ⟨hval m, by rw [hpoi, Bool.false_and, Bool.or_false]⟩⟩
  · rw [if_pos rfl]
    have kept {α : Type} (f : CourseState → α) (hf) :=
      settle_same f hf ((s.free g n).modCourse g fun c => c.tallyPoison d.etally) g
    simp only [State.modCourse_course] at kept
    refine ⟨(s.free_apart g n).trans ((State.modCourse_apart _ g _).trans (State.settle_apart _ g)),
      (kept (·.stream n) fun _ _ _ _ _ _ _ => rfl).trans hstream, fun m => ⟨?_, ?_⟩⟩
    · refine (kept (·.tallyVal m) fun _ _ _ _ _ _ _ => rfl).trans ((CourseState.setTally_val ..).trans ?_)
      split
      · next h => rw [h, hval]
      · exact hval m
    · refine (kept (·.tallyPoi m) fun _ _ _ _ _ _ _ => rfl).trans ((CourseState.setTally_poi ..).trans ?_)
      rw [Bool.true_and]
      by_cases h : m = d.etally
      · rw [if_pos h, decide_eq_true h, Bool.or_true]
      · rw [if_neg h, decide_eq_false h, Bool.or_false, hpoi]

/-! ### Translation of an address (R270 to R272) -/

/-- From s to t the other courses, the memory, the host interface and the streams of course g are as they were. -/
structure KeepsStreams (g : Course) (s t : State) : Prop where
  apart : Apart g s t
  streams : (t.course g).str.streams = (s.course g).str.streams

theorem KeepsStreams.trans (h : KeepsStreams g s t) (k : KeepsStreams g t u) : KeepsStreams g s u :=
  ⟨h.apart.trans k.apart, k.streams.trans h.streams⟩

theorem KeepsStreams.stream (h : KeepsStreams g s t) (m : Nat) : (t.course g).stream m = (s.course g).stream m :=
  congrArg (fun l => SMap.get l m Stream.free) h.streams

theorem Reports.keepsStreams (h : Reports s t) (g : Course) : KeepsStreams g s t := ⟨h.apart g, by rw [h.course]⟩

theorem State.fillTlb_keepsStreams (s : State) (g : Course) (e : TlbEntry) : KeepsStreams g s (s.fillTlb g e) := by
  unfold State.fillTlb
  split
  · exact ⟨s.modCourse_apart g _, by rw [State.modCourse_course]⟩
  · have used : Reports s s.used := ⟨_, _, _, _, rfl⟩
    exact (used.keepsStreams g).trans ⟨s.used.modCourse_apart g _, by rw [State.modCourse_course]⟩

/-- Translation may fill the TLB and is counted (R270, R281); nothing else changes. -/
theorem State.translate_keepsStreams (s : State) (g : Course) (write : Bool) (va : Nat) :
    KeepsStreams g s (s.translate g write va).1 := by
  have use (t : State) (b : Bool) (p e : Except HaltCause Nat) : (if b then (t, p) else (t, e)).1 = t := by cases b <;> rfl
  have count := (s.countC_reports g 0x2090 0x2088 1).keepsStreams g
  unfold State.translate
  dsimp only
  split
  · exact (Reports.refl s).keepsStreams g
  · split
    · rw [use]
      exact (Reports.refl s).keepsStreams g
    · split
      · rw [use]
        exact count.trans (State.fillTlb_keepsStreams _ g _)
      · exact count

/-- The leaf entry for an address: from the TLB, or else from the course's table (R270). -/
def State.leafFor (s : State) (g : Course) (va : Nat) : Except HaltCause TlbEntry :=
  match (s.course g).str.tlb.find? fun e => e.holds va with
  | some e => .ok e
  | none => s.walkTable g va

theorem State.translate_snd (s : State) (g : Course) (write : Bool) (va : Nat) : (s.translate g write va).2 =
    if (s.reg64 (cr g 0x2010)).getLsbD 0 then (s.leafFor g va).bind fun e =>
      if (if write then e.w else e.r) then .ok (e.base + va % (if e.giant then 2 ^ 30 else 2 ^ 21)) else .error .permission
    else .error .noTable := by
  unfold State.translate State.leafFor
  cases (s.reg64 (cr g 0x2010)).getLsbD 0
  · rfl
  · simp only [Bool.not_true, Bool.false_eq_true, if_false, if_true]
    cases (s.course g).str.tlb.find? fun e => e.holds va with
    | some e => exact apply_ite Prod.snd _ _ _
    | none =>
      cases s.walkTable g va with
      | ok e => exact apply_ite Prod.snd _ _ _
      | error x => rfl

theorem State.resolve_eq (s : State) (g : Course) (d : Desc) (far len : Nat) : s.resolve g d far len =
    ((if d.phys then s else (s.translate g (decide (d.kind = .store)) far).1),
      (if d.phys then .ok far else (s.translate g (decide (d.kind = .store)) far).2).bind fun a =>
        match s.physOf (g.val / 8) a with
        | some p => if s.reach p len then .ok p else .error .address
        | none => .error .address) := by
  unfold State.resolve
  cases d.phys
  · dsimp only
    simp only [Bool.false_eq_true, if_false]
    cases (s.translate g (decide (d.kind = .store)) far).2 with
    | error x => rfl
    | ok a =>
      dsimp only [Except.bind]
      cases s.physOf (g.val / 8) a <;> rfl
  · simp only [if_true]
    dsimp only [Except.bind]
    cases s.physOf (g.val / 8) far <;> rfl

theorem State.resolve_keepsStreams (s : State) (g : Course) (d : Desc) (far len : Nat) :
    KeepsStreams g s (s.resolve g d far len).1 := by
  rw [State.resolve_eq]
  dsimp only
  split
  · exact (Reports.refl s).keepsStreams g
  · exact s.translate_keepsStreams g _ far

/-- What an address resolves to does not depend on the streams of the course. -/
theorem State.resolve_modStream (s : State) (g : Course) (n : Nat) (f : Stream → Stream) (d : Desc) (far len : Nat) :
    ((s.modStream g n f).resolve g d far len).2 = (s.resolve g d far len).2 := by
  have hw : (s.modStream g n f).walkTable g far = s.walkTable g far := rfl
  have htlb : ((s.modStream g n f).course g).str.tlb = (s.course g).str.tlb := by
    rw [State.modStream, State.modCourse_course]
    rfl
  have hl : (s.modStream g n f).leafFor g far = s.leafFor g far := by rw [State.leafFor, htlb, hw, State.leafFor]
  have hr : (s.modStream g n f).reg64 (cr g 0x2010) = s.reg64 (cr g 0x2010) := rfl
  rw [State.resolve_eq, State.resolve_eq, State.translate_snd, State.translate_snd, hl, hr]
  rfl

/-! ### RESUME (R274, R281) -/

/-- A stream that is ACTIVE again (R274). -/
def Stream.resumed (x : Stream) : Stream := { x with st := .active, cause := .none }

theorem walkOn_of_no_walk (hd : ((s.course g).stream n).desc = some d) (hw : d.walk = false) : s.walkOn g n = s := by
  simp [State.walkOn, hd, hw]

theorem strResume_of_not_halted (hx : ((s.course g).stream n).st ≠ .halted) : s.strResume g n = s := by
  unfold State.strResume
  dsimp only
  split
  · next h _ => exact absurd h hx
  · rfl

/-- A FEED stream that halted needs no translation to go on (R274). -/
theorem strResume_feed (hx : ((s.course g).stream n).st = .halted) (hd : ((s.course g).stream n).desc = some d) (hw : d.walk = false)
    (hk : d.kind.isFeed = true) : s.strResume g n = s.modStream g n Stream.resumed := by
  have hwalk : (s.modStream g n Stream.resumed).walkOn g n = s.modStream g n Stream.resumed :=
    walkOn_of_no_walk ((congrArg Stream.desc (s.modStream_stream g n Stream.resumed)).trans hd) hw
  have hr : (fun x : Stream => { x with st := .active, cause := .none }) = Stream.resumed := rfl
  simp only [State.strResume, hx, hd, hr, hwalk, hk, or_true, if_true]

/-- RESUME of a LOAD or STORE tries the transfer that halted again (R274). -/
theorem strResume_resolves {far near len p : Nat} (hx : ((s.course g).stream n).st = .halted)
    (hd : ((s.course g).stream n).desc = some d) (hw : d.walk = false) (hk : d.kind.isFeed = false)
    (hn : ((s.course g).stream n).next g = some (far, near, len)) (hp : (s.resolve g d far len).2 = .ok p) :
    s.strResume g n = ((s.modStream g n Stream.resumed).resolve g d far len).1 := by
  have hs := s.modStream_stream g n Stream.resumed
  have hwalk : (s.modStream g n Stream.resumed).walkOn g n = s.modStream g n Stream.resumed :=
    walkOn_of_no_walk ((congrArg Stream.desc hs).trans hd) hw
  have hr : (fun x : Stream => { x with st := .active, cause := .none }) = Stream.resumed := rfl
  have hst : ((s.course g).stream n).resumed.st = .active := rfl
  have hnext : ((s.course g).stream n).resumed.next g = some (far, near, len) := hn
  have hres : ((s.modStream g n Stream.resumed).resolve g d far len).2 = .ok p := (s.resolve_modStream g n _ d far len).trans hp
  simp only [State.strResume, hx, hd, hr, hwalk, hs, hst, hnext, hk, hres, ne_eq, not_true_eq_false, Bool.false_eq_true, or_self,
    if_false]

/-! ### The TLB and its table base (R270, R271) -/

theorem exec_tlbInvalidate (h : Reaches s a (cr g 0x2018)) : exec (.tlbInvalidate a g v) s = .next (s.tlbInv g) := by
  have hc : s.command a (cr g 0x2018) (v ||| 1) = if (v ||| 1).getLsbD 0 then s.tlbInv g else s :=
    courseCommand_of_reaches h (by omega) rfl rfl rfl
  exact congrArg Host.Outcome.next (hc.trans (if_pos (by simp)))

theorem append_halves (v : DWord) : (v >>> 32).setWidth 32 ++ v.setWidth 32 = v := by
  apply BitVec.eq_of_getLsbD_eq
  intro i hi
  rw [BitVec.getLsbD_append]
  by_cases h : i < 32
  · simp [h]
  · have : 32 + (i - 32) = i := by omega
    simp [h, this]
    omega

/-- The state with a value in STR_PT_BASE: its fields are written, and the TLB is emptied (R270, R271). -/
def State.basePut (s : State) (g : Course) (v : DWord) : State :=
  (s.setReg64 (cr g 0x2010) ((s.reg64 (cr g 0x2010) &&& ~~~0xFFFFFFE00001) ||| (v &&& 0xFFFFFFE00001))).tlbInv g

theorem basePut_low (h : Reaches s a (cr g 0x2010)) (w : Word) :
    s.command a (cr g 0x2010) w = { s with latch := SMap.put s.latch (cr g 0x2010) w 0 } := by
  obtain ⟨off, ha, hat⟩ := h
  have hl := locate_cr g (o := 0x2010) (by omega)
  have hr : regRow (.course g) 0x2010 = some (reg64 0x2010 0xFFFFFFE00001 0) := rfl
  simp only [State.command, ha]
  rw [writeReg_of_reach hat (ringShut_of_locate hl fun _ => Blk.noConfusion), putReg_low hl hr rfl rfl]

theorem basePut_high (h : Reaches s a (cr g 0x2014)) (w : Word) :
    s.command a (cr g 0x2014) w = s.basePut g (w ++ s.lowLatch (cr g 0x2010)) := by
  obtain ⟨off, ha, hat⟩ := h
  have hl := locate_cr g (o := 0x2014) (by omega)
  have hr : regRow (.course g) 0x2014 = some (reg64 0x2010 0xFFFFFFE00001 0) := rfl
  simp only [State.command, ha]
  rw [writeReg_of_reach hat (ringShut_of_locate hl fun _ => Blk.noConfusion), putReg_high hl hr rfl rfl]
  have hlow : cr g 0x2014 - 4 = cr g 0x2010 := by simp [cr]
  rw [hlow, State.putPair]
  exact if_pos rfl

theorem exec_ptBaseWrite {v : DWord} (hl : Reaches s a (cr g 0x2010)) (hh : Reaches s a (cr g 0x2014)) :
    exec (.ptBaseWrite a g v) s = .next (({ s with latch := SMap.put s.latch (cr g 0x2010) (v.setWidth 32) 0 } : State).basePut g v) := by
  have hr : Reaches { s with latch := SMap.put s.latch (cr g 0x2010) (v.setWidth 32) 0 } a (cr g 0x2014) := hh
  refine congrArg Host.Outcome.next ?_
  rw [basePut_low hl, basePut_high hr, lowLatch_put, append_halves]

/-! ### Bandwidth and outstanding transfers (R264, R265) -/

theorem exec_bwSplitWrite (h : Reaches s a (cr g 0x2004)) : exec (.bwSplitWrite a g v) s = .next (s.wrSplit g v) :=
  congrArg Host.Outcome.next (courseCommand_of_reaches h (by omega) rfl rfl rfl)

theorem exec_outstandingWrite (h : Reaches s a (cr g 0x2008)) : exec (.outstandingWrite a g v) s = .next (s.wrOutstanding g v) :=
  congrArg Host.Outcome.next (courseCommand_of_reaches h (by omega) rfl rfl rfl)

theorem forall_lt_three {p : Nat → Prop} : (∀ i, i < 3 → p i) ↔ p 0 ∧ p 1 ∧ p 2 := by
  refine ⟨fun h => ⟨h 0 (by omega), h 1 (by omega), h 2 (by omega)⟩, fun ⟨h0, h1, h2⟩ i hi => ?_⟩
  interval_cases i <;> assumption

/-- A split holds while the course is quiesced, and with three parts of 1 to 14 that make 16 together (R264). -/
theorem wrSplit_eq (s : State) (g : Course) (v : Word) : s.wrSplit g v =
    if s.quiesced g = true ∧ (∀ i, i < 3 → 1 ≤ v.toNat / 16 ^ i % 16 ∧ v.toNat / 16 ^ i % 16 ≤ 14) ∧
      v.toNat / 16 ^ 0 % 16 + v.toNat / 16 ^ 1 % 16 + v.toNat / 16 ^ 2 % 16 = 16 then s.setReg (cr g 0x2004) (v &&& 0xFFF)
    else s.setReg (cr g 0x2048) (s.reg (cr g 0x2048) ||| 1) := by
  unfold State.wrSplit
  refine if_congr ?_ rfl rfl
  simp [forall_lt_three, and_assoc, add_assoc]

/-- A limit of transfers outstanding is 1 to 512 in each share, and is written in whole-package mode only (R265). -/
theorem wrOutstanding_eq (s : State) (g : Course) (v : Word) : s.wrOutstanding g v =
    if s.parted = false ∧ ∀ i, i < 3 → 1 ≤ v.toNat / 1024 ^ i % 1024 ∧ v.toNat / 1024 ^ i % 1024 ≤ 512 then
      s.setReg (cr g 0x2008) (v &&& 0x3FFFFFFF)
    else s := by
  unfold State.wrOutstanding
  refine if_congr ?_ rfl rfl
  simp [forall_lt_three]

end

/-- Settles O39: each register's command by the cases of what it may do, RELEASE and RESUME by the state of the stream. -/
theorem streamCommands : Obligations.StreamCommands := by
  intro s a g c
  refine ⟨fun n hr => ?_, fun v hr => exec_tlbInvalidate hr, fun v hl hh => ⟨_, exec_ptBaseWrite hl hh, ?_⟩, fun v hr => ?_,
    fun v hr => ?_⟩
  · intro x
    refine ⟨fun d hx hd => ⟨_, exec_strCmdRelease hr n, ?_⟩, fun hx => ?_, fun d hx hd hw hk => ⟨_, exec_strCmdResume hr n, ?_⟩,
      fun d far near len p hx hd hw hk hn hp => ⟨_, exec_strCmdResume hr n, ?_⟩, fun hx => ?_⟩
    · obtain ⟨hapart, hstream, htallies⟩ := strRelease_releases hx hd
      rw [hstream]
      exact ⟨rfl, rfl, List.length_map .., htallies, hapart.others, hapart.mem⟩
    · rw [exec_strCmdRelease hr, strRelease_of_free hx]
    · rw [strResume_feed hx hd hw hk]
      exact ⟨s.modStream_stream g n.val _, (s.modStream_apart g n.val _).others, rfl⟩
    · rw [strResume_resolves hx hd hw hk hn hp]
      have hkeep := (s.modStream g n.val Stream.resumed).resolve_keepsStreams g d far len
      exact ⟨(hkeep.stream n.val).trans (s.modStream_stream g n.val _), hkeep.apart.mem⟩
    · rw [exec_strCmdResume hr, strResume_of_not_halted hx]
  · exact ⟨State.setReg64_reg64 .., State.modCourse_course .., fun h hh => State.modCourse_course_ne _ hh _, rfl, rfl⟩
  · intro p good
    rw [exec_bwSplitWrite hr, wrSplit_eq]
    exact ⟨fun h => congrArg Host.Outcome.next (if_pos h), fun h => congrArg Host.Outcome.next (if_neg h)⟩
  · intro p good
    rw [exec_outstandingWrite hr, wrOutstanding_eq]
    exact ⟨fun h => congrArg Host.Outcome.next (if_pos h), fun h => congrArg Host.Outcome.next (if_neg h)⟩

end Sys2Proof.Machine

/-! SUPPORT. Transfers: the bytes that a transfer moves, and what the forming and the completion of a stream's transfers and the arrival
of ring credit change and leave (R251 to R253, R255, R261, R272, R277, R278). -/

namespace Sys2Proof.Machine

/-! ### Bytes line by line (R255) -/

section
variable {s t : State} {a n k : Nat}

theorem State.bytes_length (s : State) : ∀ a n, (s.bytes a n).length = n
  | _, 0 => rfl
  | a, n + 1 => congrArg (· + 1) (State.bytes_length s (a + 1) n)

theorem State.bytes_add (s : State) : ∀ a m n, s.bytes a (m + n) = s.bytes a m ++ s.bytes (a + m) n
  | a, 0, n => by
    rw [Nat.zero_add]
    rfl
  | a, m + 1, n => by
    have ha : a + (m + 1) = a + 1 + m := by omega
    rw [Nat.succ_add, ha]
    exact congrArg (s.byte a :: ·) (State.bytes_add s (a + 1) m n)

theorem State.bytes_getD (s : State) : ∀ {n i : Nat} (a : Nat), i < n → (s.bytes a n).getD i 0 = s.byte (a + i)
  | n + 1, 0, a, _ => rfl
  | n + 1, i + 1, a, h => by
    have ha : a + (i + 1) = a + 1 + i := by omega
    rw [ha]
    exact State.bytes_getD s (a + 1) (Nat.lt_of_succ_lt_succ h)

/-- How far the first k of the lines that hold n bytes from a take them. -/
def lineCut (a n k : Nat) : Nat := min (a + n) (64 * (a / 64 + k)) - a

theorem lineCut_zero (a n : Nat) : lineCut a n 0 = 0 := by
  unfold lineCut
  omega

theorem lineCut_all (a n : Nat) : lineCut a n ((a + n + 63) / 64 - a / 64) = n := by
  unfold lineCut
  omega

/-- Line k of n bytes from a begins where the lines before it end. -/
theorem line_start (h : k < (a + n + 63) / 64 - a / 64) : max a (64 * (a / 64 + k)) = a + lineCut a n k := by
  unfold lineCut
  omega

theorem line_length (a n k : Nat) :
    min (a + n) (64 * (a / 64 + k) + 64) - max a (64 * (a / 64 + k)) = lineCut a n (k + 1) - lineCut a n k := by
  unfold lineCut
  omega

theorem lineCut_mono (a n k : Nat) : lineCut a n k ≤ lineCut a n (k + 1) ∧ lineCut a n k ≤ n := by
  unfold lineCut
  omega

theorem lineCut_lt (hn : 0 < n) (hk : k < (a + n + 63) / 64 - a / 64) : lineCut a n k < n := by
  unfold lineCut
  omega

/-- Near memory is read as it stands: the bytes of its first k lines. -/
theorem readMarked_lines (hn : 0 < n) (h : a + n ≤ nearEnd) (hk : k ≤ (a + n + 63) / 64 - a / 64) :
    ∃ bs, (List.range k).foldl (fun (acc : List (Byte × Bool) × State) i =>
      let line := a / 64 + i
      let lo := max a (64 * line)
      let m := min (a + n) (64 * line + 64) - lo
      let (bs, p, t) := acc.2.readAny lo m
      (acc.1 ++ bs.map fun b => (b, p), t)) ([], s) = (bs, s) ∧ bs.map (·.1) = s.bytes a (lineCut a n k) := by
  induction k with
  | zero =>
    rw [lineCut_zero]
    exact ⟨[], rfl, rfl⟩
  | succ k ih =>
    obtain ⟨bs, hf, hb⟩ := ih (Nat.le_of_succ_le hk)
    have hcut := lineCut_mono a n k
    have hlt := lineCut_lt hn hk
    have hnear : a + lineCut a n k < nearEnd := by omega
    rw [List.range_succ, List.foldl_append, hf, List.foldl_cons, List.foldl_nil]
    dsimp only
    rw [line_length, line_start hk, readAny_near hnear]
    refine ⟨_, rfl, ?_⟩
    rw [List.map_append, hb, List.map_map]
    refine (congrArg (s.bytes a _ ++ ·) (List.map_id _)).trans ?_
    rw [← State.bytes_add, Nat.add_sub_cancel' hcut.1]

theorem readMarked_near (s : State) (hn : 0 < n) (h : a + n ≤ nearEnd) :
    ∃ bs, s.readMarked a n = (bs, s) ∧ bs.map (·.1) = s.bytes a n := by
  obtain ⟨bs, hf, hb⟩ := readMarked_lines (s := s) hn h (Nat.le_refl _)
  rw [lineCut_all] at hb
  exact ⟨bs, hf, hb⟩

/-! ### Bytes written to a slice (R255) -/

/-- A write changes only memory and its poison marks, and the bytes as they are given. -/
theorem storeP_eq (s : State) (a : Nat) (bs : List Byte) (poison : Bool) :
    ∃ p, s.storeP a bs poison = { s.putBytes a bs with memPoison := p } := by
  cases poison
  · exact cleanLines_frame (s.putBytes a bs) a bs.length
  · refine List.foldlRecOn (motive := fun t : State => ∃ p, t = { s.putBytes a bs with memPoison := p }) _ _
      ⟨(s.putBytes a bs).memPoison, rfl⟩ ?_
    rintro _ ⟨p, rfl⟩ i -
    exact ⟨_, rfl⟩

theorem regionOf_sram (h : sramBase ≤ a) (h' : a < sramBase + 0x40000000) : ∃ g, regionOf a = .sram g := by
  have hn : ¬a < nearEnd := by
    simp only [nearEnd, sramBase] at h ⊢
    omega
  have hf : ¬(farBase ≤ a ∧ a < farBase + 0x40000000000) := by
    simp only [farBase, sramBase] at h ⊢
    omega
  unfold regionOf
  rw [dif_neg hn, dif_neg hf, dif_pos ⟨h, h'⟩]
  exact ⟨_, rfl⟩

theorem writeAny_sram (s : State) (h : sramBase ≤ a) (h' : a < sramBase + 0x40000000) (bs : List Byte) (poison priv : Bool) :
    s.writeAny a bs poison priv = s.storeP a bs poison := by
  obtain ⟨g, hg⟩ := regionOf_sram h h'
  rw [State.writeAny, hg]

/-- From s to t the bytes l stand at a, and nothing else has changed but poison marks. -/
structure Puts (s t : State) (a : Nat) (l : List Byte) : Prop where
  frame : ∃ m p, t = { s with mem := m, memPoison := p }
  byte : ∀ b, t.byte b = if a ≤ b ∧ b < a + l.length then l.getD (b - a) 0 else s.byte b

theorem storeP_puts (s : State) (a : Nat) (bs : List Byte) (poison : Bool) : Puts s (s.storeP a bs poison) a bs := by
  obtain ⟨p, hp⟩ := storeP_eq s a bs poison
  rw [hp]
  refine ⟨⟨(s.putBytes a bs).mem, p, ?_⟩, State.putBytes_byte bs s a⟩
  rw [State.putBytes_eq]

/-- Bytes written behind bytes that are written already. -/
theorem Puts.append {u : State} {l l' : List Byte} (h : Puts s t a l) (h' : Puts t u (a + l.length) l') : Puts s u a (l ++ l') := by
  obtain ⟨⟨_, _, ht⟩, hb⟩ := h
  obtain ⟨⟨m, p, hu⟩, hb'⟩ := h'
  refine ⟨⟨m, p, by rw [hu, ht]⟩, fun b => ?_⟩
  rw [hb', hb, List.length_append]
  by_cases h1 : a + l.length ≤ b ∧ b < a + l.length + l'.length
  · have hsub : b - a = l.length + (b - (a + l.length)) := by omega
    rw [if_pos h1, if_pos (by omega), hsub, List.getD_append_right _ _ _ _ (by omega), Nat.add_sub_cancel_left]
  · by_cases h2 : a ≤ b ∧ b < a + l.length
    · rw [if_neg h1, if_pos h2, if_pos (by omega), List.getD_append _ _ _ _ (by omega)]
    · rw [if_neg h1, if_neg h2, if_neg (by omega)]

theorem writeMarked_lines {bs : List (Byte × Bool)} (s : State) (hn : 0 < bs.length) (h : sramBase ≤ a)
    (h' : a + bs.length ≤ sramBase + 0x40000000)
    (hk : k ≤ (a + bs.length + 63) / 64 - a / 64) :
    Puts s ((((List.range k).map fun i =>
      let lo := max a (64 * (a / 64 + i))
      let hi := min (a + bs.length) (64 * (a / 64 + i) + 64)
      let p := (bs.drop (lo - a)).take (hi - lo)
      ((lo, p.map (·.1), p.any (·.2)) : Nat × List Byte × Bool)).foldl (fun t p => t.writeAny p.1 p.2.1 p.2.2 false) s)) a
      ((bs.map (·.1)).take (lineCut a bs.length k)) := by
  induction k with
  | zero =>
    rw [lineCut_zero]
    exact ⟨⟨_, _, rfl⟩, fun b => (if_neg (by simp)).symm⟩
  | succ k ih =>
    have ih := ih (Nat.le_of_succ_le hk)
    have hcut := lineCut_mono a bs.length k
    have hlt := lineCut_lt hn hk
    rw [List.range_succ, List.map_append, List.foldl_append, List.map_cons, List.map_nil, List.foldl_cons, List.foldl_nil]
    dsimp only
    rw [line_length, line_start hk, writeAny_sram _ (by omega) (by omega), Nat.add_sub_cancel_left, List.map_take, List.map_drop]
    have hlen : ((bs.map (·.1)).take (lineCut a bs.length k)).length = lineCut a bs.length k := by
      rw [List.length_take, List.length_map]
      omega
    have htake : (bs.map (·.1)).take (lineCut a bs.length (k + 1)) = (bs.map (·.1)).take (lineCut a bs.length k) ++
        ((bs.map (·.1)).drop (lineCut a bs.length k)).take (lineCut a bs.length (k + 1) - lineCut a bs.length k) := by
      rw [← List.take_add, Nat.add_sub_cancel' hcut.1]
    rw [htake]
    refine ih.append ?_
    rw [hlen]
    exact storeP_puts ..

/-- Data in a slice is written as it is given, whatever its poison. -/
theorem writeMarked_puts (s : State) {bs : List (Byte × Bool)} (hn : 0 < bs.length) (h : sramBase ≤ a)
    (h' : a + bs.length ≤ sramBase + 0x40000000) :
    Puts s (s.writeMarked a bs) a (bs.map (·.1)) := by
  have hp := writeMarked_lines s hn h h' (Nat.le_refl _)
  rw [lineCut_all] at hp
  rwa [List.take_of_length_le (by rw [List.length_map])] at hp

end

/-! ### A transfer is formed (R251, R252, R265, R272) -/

section
variable {s t u : State} {g : Course} {n : Nat} {d : Desc} {far near len p : Nat} {e : HaltCause}

/-- What a LOAD or STORE needs to form its next transfer: its stream is ACTIVE, on a course that no deadlock freezes, with a part of
its pass to form (R252). -/
structure Forms (s : State) (g : Course) (n : Nat) (d : Desc) (far near len : Nat) : Prop where
  active : ((s.course g).stream n).st = .active
  thawed : (s.course g).str.frozenDl = false
  desc : ((s.course g).stream n).desc = some d
  walk : d.walk = false
  kind : d.kind.isFeed = false
  spent : ((s.course g).stream n).spent = false
  next : ((s.course g).stream n).next g = some (far, near, len)
  len : len ≠ 0
  phys : d.phys = true

theorem State.resolve_phys (s : State) (g : Course) (hd : d.phys = true) (far len : Nat) : (s.resolve g d far len).1 = s := by
  rw [State.resolve_eq, if_pos hd]

theorem transferForm_mem (h : Forms s g n d far near len) : transferForm g n s = s.formMem g n d := by
  obtain ⟨hactive, hthawed, hdesc, hwalk, hkind, hspent, -, -, -⟩ := h
  simp only [transferForm, hactive, hthawed, walkOn_of_no_walk hdesc hwalk, hdesc, hspent, hkind, ne_eq, not_true_eq_false,
    Bool.false_eq_true, or_self, if_false]

/-- A transfer that reaches the device's own memory, with room for it in its share, is formed. -/
theorem transferForm_forms (h : Forms s g n d far near len) (hp : (s.resolve g d far len).2 = .ok p) (hdev : p < hostBase)
    (hroom : (s.course g).outstanding (shareOf g d p) < s.window g (shareOf g d p)) : transferForm g n s =
      s.modStream g n fun x => x.form ⟨p, near, len, shareOf g d p, decide (d.kind = .store), false, []⟩ := by
  simp only [transferForm_mem h, State.formMem, h.next, if_neg h.len, hp, State.resolve_phys s g h.phys, if_pos hroom,
    if_neg fun hh : hostBase ≤ p ∧ _ => Nat.not_le.2 hdev hh.1]

theorem transferForm_halts (h : Forms s g n d far near len) (he : (s.resolve g d far len).2 = .error e) :
    transferForm g n s = s.haltStream g n e far := by
  simp only [transferForm_mem h, State.formMem, h.next, if_neg h.len, he, State.resolve_phys s g h.phys]

theorem State.capture1_reports (s : State) (o info addr : Nat) (q : Option Nat) : Reports s (s.capture1 o info q addr) := by
  obtain ⟨r, w, h⟩ := capture1_frame s o info addr q
  exact ⟨s.dies, r, w, s.freeCtr, h⟩

theorem State.raiseStr_reports (s : State) (g : Course) (code : BitVec 16) (info : Option DWord) :
    Reports s (s.raiseStr g code info) := s.raiseWith_reports ..

/-- A stream that halts is the one thing in its course that changes, but under Iscon v1 (R272, R275). -/
theorem haltStream_halts (hv : (s.course g).v1 = false) (n : Nat) (e : HaltCause) (a : Nat) :
    (∀ h, (s.haltStream g n e a).course h = (s.modStream g n fun x => { x with st := .halted, cause := e }).course h) ∧
      (s.haltStream g n e a).mem = s.mem := by
  unfold State.haltStream
  dsimp only
  generalize ht : s.modStream g n (fun x => { x with st := .halted, cause := e }) = t
  have hreports : Reports t ((t.capture1 (cr g 0x2038) (n + 4096 * e.num) (some (cr g 0x2040)) a).raiseStr g e.code
      (some (BitVec.ofNat 64 a))) := (t.capture1_reports ..).trans (State.raiseStr_reports ..)
  generalize ((t.capture1 (cr g 0x2038) (n + 4096 * e.num) (some (cr g 0x2040)) a).raiseStr g e.code (some (BitVec.ofNat 64 a))) = u
    at hreports
  obtain ⟨-, -, -, hcourse, hmem, -⟩ := (u.irqCourse_signals g 2).reads
  have hv1 : ((u.irqCourse g 2).course g).v1 = false := by
    rw [hcourse, hreports.course, ← ht, State.modStream, State.modCourse_course]
    exact hv
  rw [if_neg (by rw [hv1]; exact Bool.false_ne_true)]
  exact ⟨fun h => (hcourse h).trans (hreports.course h), hmem.trans (hreports.mem.trans (ht ▸ rfl))⟩

/-! ### The oldest transfer completes (R255, R261, R281) -/

theorem State.progress_apart (s : State) (g : Course) (n len : Nat) : Apart g s (s.progress g n len) := by
  unfold State.progress
  dsimp only
  split
  · exact .refl g s
  · split
    · exact (s.modStream_apart g n _).trans ((State.modCourse_apart _ g _).trans (State.settle_apart _ g))
    · exact s.modStream_apart g n _

theorem State.startPass_apart (s : State) (g : Course) (n base : Nat) : Apart g s (s.startPass g n base) := by
  unfold State.startPass
  split
  · exact .refl g s
  · dsimp only
    split
    · exact (s.modStream_apart g n _).trans (State.modCourse_apart _ g _)
    · exact (s.modStream_apart g n _).trans (State.modCourse_apart _ g _)
    · exact s.modStream_apart g n _

theorem ite_apart {c : Prop} {_ : Decidable c} (ht : Apart g s t) (hu : Apart g s u) : Apart g s (if c then t else u) := by
  split <;> assumption

theorem State.passEnd_apart (s : State) (g : Course) (n : Nat) : Apart g s (s.passEnd g n) := by
  unfold State.passEnd
  dsimp only
  split
  · exact .refl g s
  · next d _ =>
    have htally : Apart g s (if d.een then (s.modCourse g fun c => c.tallyAdd d.etally 1).settle g else s) :=
      ite_apart ((s.modCourse_apart g _).trans (State.settle_apart _ g)) (.refl g s)
    generalize (if d.een then (s.modCourse g fun c => c.tallyAdd d.etally 1).settle g else s) = t at htally
    have hshut {f₁ f₂ : CourseState → CourseState} : Apart g s (match d.kind with
        | .feedIdx => t.modCourse g f₁
        | .feedTbl => t.modCourse g f₂
        | _ => t) := by
      split
      · exact htally.trans (t.modCourse_apart g _)
      · exact htally.trans (t.modCourse_apart g _)
      · exact htally
    split
    · exact hshut.trans ((State.modStream_apart _ g n _).trans (State.startPass_apart _ g n _))
    · exact hshut.trans (State.modStream_apart _ g n _)

theorem State.endIfSpent_apart (s : State) (g : Course) (n : Nat) : Apart g s (s.endIfSpent g n) :=
  ite_apart (s.passEnd_apart g n) (.refl g s)

/-- Transfer tr, the oldest of its stream, is a LOAD's from clean near memory into the slice of its course, and the stream has no ring. -/
structure Loads (s : State) (g : Course) (n : Nat) (tr : Transfer) (rest : List Transfer) (d : Desc) : Prop where
  inflight : ((s.course g).stream n).inflight = tr :: rest
  load : tr.store = false
  fresh : tr.stale = false
  share : tr.share < 3
  desc : ((s.course g).stream n).desc = some d
  nring : d.nring = false
  fring : d.fring = false
  far : tr.far + tr.len ≤ nearEnd
  backed : s.nearOk tr.far tr.len = true
  near : inSlice g tr.near tr.len = true
  len : 1 ≤ tr.len

theorem sliceEnd_le (g : Course) {a n : Nat} (h : inSlice g a n = true) : sramBase ≤ a ∧ a + n ≤ sramBase + 0x40000000 := by
  have hg := g.isLt
  rw [inSlice, Bool.and_eq_true, decide_eq_true_eq, decide_eq_true_eq] at h
  obtain ⟨hlo, hhi⟩ := h
  simp only [windowBase, sliceSize] at hlo hhi
  omega

/-- The data of a LOAD moves from near memory into the slice as it is. -/
theorem moveData_puts {tr : Transfer} (hs : tr.store = false) (hf : tr.far + tr.len ≤ nearEnd) (hok : s.nearOk tr.far tr.len = true)
    (hn : inSlice g tr.near tr.len = true) (hl : 1 ≤ tr.len) : Puts s (s.moveData g tr) tr.near (s.bytes tr.far tr.len) := by
  obtain ⟨bs, hread, hbytes⟩ := readMarked_near s hl hf
  have hnear : tr.far < nearEnd := by omega
  have hhost : ¬hostBase ≤ tr.far := by
    simp only [hostBase, nearEnd] at hnear ⊢
    omega
  have hserved : s.served tr.far tr.len = true := by
    obtain ⟨k, hk⟩ := regionOf_near hnear
    rw [State.served, State.reach, hk]
    dsimp only
    rw [hok, Bool.true_or]
  have hlen : bs.length = tr.len := by rw [← List.length_map, hbytes, State.bytes_length]
  obtain ⟨hlo, hhi⟩ := sliceEnd_le g hn
  unfold State.moveData
  rw [hs, if_neg Bool.false_ne_true, if_neg hhost, hserved, if_pos rfl, hread, ← hbytes]
  exact writeMarked_puts s (hlen ▸ hl) hlo (hlen ▸ hhi)

/-- A complete LOAD without rings: its data has moved and is counted, and the pass gains it and may end (R255, R261, R281). -/
theorem transferComplete_load {tr : Transfer} {rest : List Transfer} (h : Loads s g n tr rest d) : transferComplete g n s =
    (((((s.modStream g n fun x => { x with inflight := rest }).moveData g tr).countC g 0x2090 (shareCounter tr.share) tr.len).progress g n
      tr.len).endIfSpent g n) := by
  have hshare : tr.share ≠ 3 := by
    have := h.share
    omega
  have hdev : tr.far < hostBase := by
    have := h.far
    have := h.len
    simp only [nearEnd, hostBase] at *
    omega
  have hready : tr.ready = true := by simp [Transfer.ready, hdev]
  simp only [transferComplete, h.inflight, hready, h.fresh, h.desc, if_neg hshare, State.returnCredit, h.nring, h.fring, Bool.not_true,
    Bool.false_eq_true, if_false]

theorem transferComplete_loads {tr : Transfer} {rest : List Transfer} (h : Loads s g n tr rest d) :
    (∀ b, (transferComplete g n s).byte b =
      if tr.near ≤ b ∧ b < tr.near + tr.len then s.byte (tr.far + (b - tr.near)) else s.byte b) ∧
    ∀ h, h ≠ g → (transferComplete g n s).course h = s.course h := by
  generalize ht : (s.modStream g n fun x => { x with inflight := rest }) = t
  have hsame : Apart g s t := ht ▸ s.modStream_apart g n _
  have hbyte (b : Nat) : t.byte b = s.byte b := ht ▸ rfl
  obtain ⟨⟨m, p, hm⟩, hb⟩ := moveData_puts (s := t) (g := g) h.load h.far (ht ▸ h.backed) h.near h.len
  have hafter : Apart g (t.moveData g tr) (transferComplete g n s) := by
    rw [transferComplete_load h, ht]
    exact ((State.countC_reports ..).apart g).trans ((State.progress_apart ..).trans (State.endIfSpent_apart ..))
  refine ⟨fun b => ?_, fun h hh => (hafter.others h hh).trans ?_⟩
  · have hmem : (transferComplete g n s).byte b = (t.moveData g tr).byte b := congrArg (SMap.get · b (memDefault b)) hafter.mem
    rw [hmem, hb, State.bytes_length, hbyte]
    split
    · next hin => rw [State.bytes_getD _ _ (by omega), hbyte]
    · rfl
  · rw [hm]
    exact hsame.others h hh

/-- A read of an expander whose stream has been released just ends (R263, R299). -/
theorem transferComplete_stale {tr : Transfer} {rest : List Transfer} (hi : ((s.course g).stream n).inflight = tr :: rest)
    (hs : tr.stale = true) (h3 : tr.share = 3) : transferComplete g n s = s.modStream g n fun x => { x with inflight := rest } := by
  simp [transferComplete, hi, hs, h3, Transfer.ready]

/-! ### Ring credit arrives (R253, R277, R278) -/

/-- A stream with ring credit from stream frm of course src, whose waiting episode is over if it waits no longer. -/
def Stream.credit (x : Stream) (src frm len : Nat) : Stream :=
  { x.credited src frm len with stallReported := (x.credited src frm len).stallReported && (x.credited src frm len).creditWait }

theorem Stream.credited_stallReported (x : Stream) (src frm len : Nat) : (x.credited src frm len).stallReported = x.stallReported := by
  unfold Stream.credited
  dsimp only
  repeat' split
  all_goals rfl

/-- Credit reaches its stream, whose check ends. -/
theorem ringCredit_of_oldest {k : StreamId} {src : Course} {frm : StreamId} {len : Nat} {rest : List Msg}
    (h : Oldest s ⟨.course src, .course g, .ringCredit k frm len⟩ rest) : ringCredit g k.val s =
      (({ s with msgs := rest } : State).modStream g k.val fun x => x.credit src.val frm.val len).modCourse g fun c =>
        c.withProbes (c.str.probes.filter fun p => p.head != k.val) := arrive_of_oldest h (decide_eq_true rfl) _

end

/-- Settles O40: what is formed and what halts by what the far address resolves to, what completes by the data's way line by line. -/
theorem transfersFormAndComplete : Obligations.TransfersFormAndComplete := by
  intro s g n c x
  refine ⟨fun d far near len hr hst hdl hd hw hk hsp hn hl hph => ?_,
    fun tr rest d hr hi hst hsl hsh hd hnr hfr hfar hok hns hl _ => ⟨_, ifDie_runs hr, ?_⟩, fun tr rest hr hi hsl h3 => ?_,
    fun src frm len rest ho => ⟨_, rfl, ?_⟩⟩
  · have hf : Forms s g n.val d far near len := ⟨hst, hdl, hd, hw, hk, hsp, hn, hl, hph⟩
    refine ⟨fun p hp hdev hroom => completes_ifCourse rfl hr ?_, fun e he hv => completes_ifCourse rfl hr ?_⟩
    · have he : transferFormAny g (.stream n) s = _ := transferForm_forms hf hp hdev hroom
      rw [he]
      exact ⟨s.modStream_stream g n.val _, (s.modStream_apart g n.val _).others, rfl, rfl⟩
    · have hh : transferFormAny g (.stream n) s = _ := transferForm_halts hf he
      obtain ⟨hcourse, hmem⟩ := haltStream_halts hv n.val e far
      rw [hh, hcourse g, State.modStream_stream]
      refine ⟨rfl, rfl, hmem, ?_⟩
      rw [State.modStream, State.modCourse_course]
      rfl
  · exact transferComplete_loads ⟨hi, hst, hsl, hsh, hd, hnr, hfr, hfar, hok, hns, hl⟩
  · exact (ifDie_runs hr).trans (congrArg Host.Outcome.next (transferComplete_stale hi hsl h3))
  · rw [ringCredit_of_oldest ho]
    refine ⟨?_, fun p hp => ?_, rfl, fun h hh => ?_, rfl⟩
    · rw [State.modCourse_course]
      refine (State.modStream_stream ({ s with msgs := rest } : State) g n.val _).trans ?_
      rw [Stream.credit, Stream.credited_stallReported]
      rfl
    · rw [State.modCourse_course] at hp
      have := (List.mem_filter.1 hp).2
      simpa using this
    · rw [State.modCourse_course_ne _ hh]
      exact (State.modStream_apart ({ s with msgs := rest } : State) g n.val _).others h hh

end Sys2Proof.Machine

/-! SUPPORT. Reduction transfers: what leaves for the blocks of a red.send or a red.accum, what an outcome changes and leaves, and the
fault of an instruction of the RED queue (R247, R382 to R386). -/

namespace Sys2Proof.Machine

/-! ### What memory reads as (R36, R315, R331, R383, R390) -/

section
variable {s t u : State}

/-- From s to t near memory reads the same: its bytes and marks, its controllers, and the map of the partitions. -/
structure SameMemory (s t : State) : Prop where
  mem : t.mem = s.mem
  poison : t.memPoison = s.memPoison
  mems : t.mems = s.mems
  mode : t.reg (pr 0) = s.reg (pr 0)

theorem SameMemory.refl (s : State) : SameMemory s s := ⟨rfl, rfl, rfl, rfl⟩

theorem SameMemory.trans (h : SameMemory s t) (k : SameMemory t u) : SameMemory s u :=
  ⟨k.mem.trans h.mem, k.poison.trans h.poison, k.mems.trans h.mems, k.mode.trans h.mode⟩

theorem SameMemory.bytes (h : SameMemory s t) : ∀ a n, t.bytes a n = s.bytes a n
  | _, 0 => rfl
  | a, n + 1 => congrArg₂ List.cons (congrArg (fun m => SMap.get m a (memDefault a)) h.mem) (h.bytes (a + 1) n)

theorem SameMemory.memc (h : SameMemory s t) (k : Stack) : t.memc k = s.memc k := congrArg (fun m => Vector.get m k) h.mems

theorem SameMemory.dirty (h : SameMemory s t) (a n : Nat) : t.dirty a n = s.dirty a n := by
  have hp : t.anyPoison a n = s.anyPoison a n := by simp only [State.anyPoison, State.poisoned, h.poison]
  have ht : t.tornAt a n = s.tornAt a n := by
    unfold State.tornAt
    rw [h.memc]
  rw [State.dirty, State.dirty, hp, ht]

theorem SameMemory.parted (h : SameMemory s t) : t.parted = s.parted := congrArg (fun w : Word => w.getLsbD 10) h.mode

theorem SameMemory.physOf (h : SameMemory s t) (d a : Nat) : t.physOf d a = s.physOf d a := by
  rw [State.physOf, State.physOf, h.parted]

theorem SameMemory.nearOk (h : SameMemory s t) (a n : Nat) : t.nearOk a n = s.nearOk a n := by
  have hb (k : Stack) : t.stackBytes k = s.stackBytes k := by rw [State.stackBytes, State.stackBytes, h.memc]
  unfold State.nearOk
  simp only [hb]

theorem SameMemory.slotBlock (h : SameMemory s t) (a : Nat) : t.slotBlock a = s.slotBlock a := by
  rw [State.slotBlock, State.slotBlock, h.bytes, h.dirty]

end

/-! ### Messages that leave one after another -/

section
variable {s : State}

theorem State.send_of_reachable {a b : Node} {m : MsgBody} (h : s.reachable ⟨a, b, m⟩ = true) :
    s.send a b m = { s with msgs := s.msgs ++ [⟨a, b, m⟩] } := if_pos h

/-- Where each step lets its message leave whatever messages are there already, all of them leave in order. -/
theorem foldl_sends {f : State → Nat → State} {msg : Nat → Msg} {n : Nat}
    (hf : ∀ i < n, ∀ l, f { s with msgs := l } i = { s with msgs := l ++ [msg i] }) :
    (List.range n).foldl f s = { s with msgs := s.msgs ++ (List.range n).map msg } := by
  induction n with
  | zero => rw [List.range_zero, List.map_nil, List.append_nil, List.foldl_nil]
  | succ n ih =>
    rw [List.range_succ, List.foldl_append, ih fun i hi => hf i (Nat.lt_succ_of_lt hi), List.foldl_cons, List.foldl_nil,
      hf n (Nat.lt_succ_self n), List.map_append, List.append_assoc]
    rfl

end

/-! ### The oldest job of a course -/

section
variable {c : CourseState} {j : RedJob} {js : List RedJob}

theorem CourseState.job_head (hj : c.jobs = j :: js) : c.job j.serial = some j := by simp [CourseState.job, hj]

theorem CourseState.modJob_head (hj : c.jobs = j :: js) (hne : ∀ i ∈ js, i.serial ≠ j.serial) (f : RedJob → RedJob) :
    c.modJob j.serial f = { c with jobs := f j :: js } := by
  have hjs : js.map (fun i => if i.serial = j.serial then f i else i) = js :=
    (List.map_congr_left fun i hi => if_neg (hne i hi)).trans (List.map_id _)
  rw [CourseState.modJob, hj, List.map_cons, if_pos rfl, hjs]

theorem jobs_without_head (hne : ∀ i ∈ js, i.serial ≠ j.serial) : (j :: js).filter (fun i => i.serial != j.serial) = js := by
  rw [List.filter_cons_of_neg (by simp), List.filter_eq_self]
  exact fun i hi => bne_iff_ne.2 (hne i hi)

/-- The job once its next n blocks have left. -/
def State.jobSent (s : State) (j : RedJob) (n : Nat) : RedJob :=
  { j with formed := j.formed + n, lens := j.lens ++
      ((List.range n).map fun i => (s.slotBlock (j.src + 280 * (j.formed + i))).length) }

/-- The job once a block has its outcome. -/
def RedJob.answered (j : RedJob) (refused : Bool) : RedJob :=
  { j with returned := j.returned + 1, refused := refused, lens := j.lens.tail }

end

/-! ### A transfer of a red.send or a red.accum is formed (R247, R383) -/

section
variable {s t : State} {g : Course} {j : RedJob} {js : List RedJob}

/-- The oldest job of the course has blocks left, and the remote share has room for its next transfer (R247). -/
structure RedForms (s : State) (g : Course) (j : RedJob) (js : List RedJob) : Prop where
  jobs : (s.course g).jobs = j :: js
  serials : ∀ i ∈ js, i.serial ≠ j.serial
  left : j.formed < j.blocks
  room : (s.course g).outstanding 2 < s.window g 2

theorem RedForms.next (hf : RedForms s g j js) : ((s.course g).jobs.find? fun j => decide (j.formed < j.blocks)) = some j := by
  simp [hf.jobs, hf.left]

/-- The state as n blocks of the oldest job are counted as formed. -/
def State.redFormed (s : State) (g : Course) (j : RedJob) (js : List RedJob) (n : Nat) : State :=
  s.setCourse g { s.course g with jobs := s.jobSent j n :: js }

/-- The slots of the next n blocks of a job. -/
def RedJob.slots (j : RedJob) (n : Nat) : List Nat := (List.range n).map fun i => j.src + 280 * (j.formed + i)

theorem fitting_eq_take : ∀ (room : Nat) (l : List (List Byte)), fitting room l = l.take (fitting room l).length
  | _, [] => rfl
  | room, b :: bs => by
    rw [fitting]
    split
    · exact congrArg (b :: ·) (fitting_eq_take (room - b.length) bs)
    · rfl

/-- What the blocks of the next k slots do to the job, where a message takes the first n of them. -/
theorem jobSent_of_blocks (hf : RedForms s g j js) {k : Nat} {bs : List (List Byte)}
    (hb : bs = ((j.slots k).map s.slotBlock).take bs.length) :
    (s.modCourse g fun c => c.modJob j.serial fun j => { j with formed := j.formed + bs.length, lens := j.lens ++ bs.map (·.length) }) =
      s.redFormed g j js bs.length := by
  have hlen : bs.length ≤ k := by
    have h := congrArg List.length hb
    rw [List.length_take, List.length_map, RedJob.slots, List.length_map, List.length_range] at h
    omega
  have hmap : bs.map (·.length) = (List.range bs.length).map fun i => (s.slotBlock (j.src + 280 * (j.formed + i))).length := by
    conv_lhs => rw [hb]
    rw [RedJob.slots, List.map_map, ← List.map_take, List.take_range, Nat.min_eq_left hlen, List.map_map]
    rfl
  rw [State.modCourse, CourseState.modJob_head hf.jobs hf.serials, hmap]
  rfl

theorem sendBlock_sends {a k : Nat} (hp : s.physOf (g.val / 8) (j.dst + 416 * k) = some a) (ha : a < nearEnd)
    (hr : s.reachable ⟨.course g, .mem (stackOf a), .raReq ⟨raSource g (stackOf a), a, s.slotBlock (j.src + 280 * k), j.init,
      .instr g j.serial⟩⟩ = true) :
    s.sendBlock g j k = { s with msgs := s.msgs ++ [⟨.course g, .mem (stackOf a), .raReq ⟨raSource g (stackOf a), a,
      s.slotBlock (j.src + 280 * k), j.init, .instr g j.serial⟩⟩] } := by
  rw [State.sendBlock, hp]
  dsimp only
  rw [if_pos ha, State.send_of_reachable hr]

/-- To this package: each block leaves in a message of its own. -/
theorem formRed_local (hf : RedForms s g j js) (hpeer : j.peer = none) {at_ : Nat → Nat} {n : Nat}
    (hn : n = min 29 (j.blocks - j.formed))
    (hp : ∀ i, i < n → s.physOf (g.val / 8) (j.dst + 416 * (j.formed + i)) = some (at_ i) ∧ at_ i < nearEnd) {msg : Nat → Msg}
    (hm : ∀ i, msg i = ⟨.course g, .mem (stackOf (at_ i)), .raReq ⟨raSource g (stackOf (at_ i)), at_ i,
      s.slotBlock (j.src + 280 * (j.formed + i)), j.init, .instr g j.serial⟩⟩)
    (hr : ∀ i, i < n → s.reachable (msg i) = true) :
    formRed g s = { s.redFormed g j js n with msgs := s.msgs ++ (List.range n).map msg } := by
  have hlen : ((j.slots n).map s.slotBlock).length = n := by simp [RedJob.slots]
  have hgo := (jobSent_of_blocks hf (k := n) List.take_length.symm).trans (congrArg (s.redFormed g j js) hlen)
  have hform : formRed g s = (List.range n).foldl (fun u i => u.sendBlock g j (j.formed + i)) (s.redFormed g j js n) := by
    rw [formRed, hf.next]
    dsimp only
    rw [if_neg (Nat.not_le.2 hf.room), hpeer, ← hn]
    exact congrArg (List.foldl _ · (List.range n)) hgo
  rw [hform, foldl_sends (msg := msg)]
  · rfl
  · intro i hi l
    obtain ⟨hphys, hnear⟩ := hp i hi
    have same : SameMemory s { s.redFormed g j js n with msgs := l } := ⟨rfl, rfl, rfl, rfl⟩
    have hreach : State.reachable { s.redFormed g j js n with msgs := l } (msg i) = true :=
      (reachable_of_dies (s := s) (t := { s.redFormed g j js n with msgs := l }) rfl _).trans (hr i hi)
    rw [hm, ← same.slotBlock] at hreach
    rw [sendBlock_sends ((same.physOf _ _).trans hphys) hnear hreach, same.slotBlock, hm]

/-- To another member: as many of the blocks as fit leave in one message. -/
theorem formRed_remote (hf : RedForms s g j js) {rank : Nat} (hpeer : j.peer = some rank) {bs : List (List Byte)}
    (hb : bs = fitting (s.maxMessage (s.partOf g) j.group rank - 36) ((j.slots (min 29 (j.blocks - j.formed))).map s.slotBlock)) :
    formRed g s = (s.redFormed g j js bs.length).netMessage (.course g) (s.partOf g) j.group rank 0x01 (requestTag g j.serial)
      (leBytes 6 j.dst ++ leBytes 1 (j.ncourse + (if j.nen then 128 else 0)) ++ leBytes 1 j.ntally.val ++ leBytes 4 j.blocks ++
        leBytes 4 j.formed ++ leBytes 1 bs.length ++ leBytes 3 0 ++ bs.flatten) (.red g j.serial)
      (.slots ((j.slots (min 29 (j.blocks - j.formed))).take bs.length)) := by
  have hgo := jobSent_of_blocks hf (bs := bs) (hb ▸ fitting_eq_take _ _)
  rw [formRed, hf.next]
  dsimp only
  rw [if_neg (Nat.not_le.2 hf.room), hpeer]
  dsimp only
  rw [← hgo, hb]
  rfl

end

/-! ### A fault of an instruction of the RED queue (R398, R583) -/

section
variable {s t u : State} {g : Course} {n : Nat} {i : Started} {code : BitVec 16}

/-- What a fault does to a started instruction (R239). -/
def Started.faulted (i : Started) (code : BitVec 16) : Started :=
  { i with poison := true, code := if i.code = 0 then code else i.code }

/-- From s to t a started instruction of the RED queue of course g has faulted, and nothing else but reports, registers and counts has
changed. -/
structure RedFaults (s t : State) (g : Course) (n : Nat) (code : BitVec 16) : Prop where
  apart : Apart g s t
  msgs : t.msgs = s.msgs
  course : t.course g = (s.course g).modStarted 6 n (·.faulted code)
  presents : Presents s t (courseDie g) code 0x06

theorem State.redFault_eq (h : (s.course g).findStarted 6 n = some i) (code : BitVec 16) : s.redFault g n code =
    ((s.raiseInstr g code 0x06 0x6 false i.e.te i.e.pc none).efirst g code 6 i.e.pc).modCourse g
      fun c => c.modStarted 6 n (·.faulted code) := by
  rw [State.redFault, State.instrFault, h]
  rfl

theorem redFault_faults (h : (s.course g).findStarted 6 n = some i) (code : BitVec 16) : RedFaults s (s.redFault g n code) g n code := by
  have hreports : Reports s ((s.raiseInstr g code 0x06 0x6 false i.e.te i.e.pc none).efirst g code 6 i.e.pc) :=
    (s.raiseInstr_reports ..).trans (State.efirst_reports ..)
  rw [State.redFault_eq h]
  refine ⟨(hreports.apart g).trans (State.modCourse_apart _ g _), ?_, ?_, ?_⟩
  · obtain ⟨d, r, w, k, he⟩ := hreports
    rw [he]
    rfl
  · rw [State.modCourse_course, hreports.course]
  · exact (s.raiseWith_presents_report ..).of_die ((State.modCourse_die ..).trans (State.efirst_die ..))

/-- Flags and captures after the fault leave it as it is. -/
theorem RedFaults.flagged (h : RedFaults s t g n code) {r : SMap Word} {w : SMap DWord} :
    RedFaults s { t with regs := r, wide := w } g n code :=
  ⟨⟨h.apart.others, h.apart.mem, h.apart.host⟩, h.msgs, h.course, h.presents⟩

/-- A first refusal is a fault with the code RED_REFUSED (R384, R393). -/
theorem redRefused_faults (h : (s.course g).findStarted 6 n = some i) (code : BitVec 16) (remote : Bool) :
    RedFaults s (s.redRefused g n code remote true) g n 0x0B03 := by
  obtain ⟨r, w, he⟩ := capture1_frame ((s.redFault g n 0x0B03).orReg (cr g 0x3004) 2) (cr g 0x3010)
    (code.toNat + (if remote then 65536 else 0)) 0 none
  rw [State.redRefused, if_pos rfl, he]
  exact (redFault_faults h 0x0B03).flagged

end

/-! ### An outcome arrives (R384) -/

section
variable {s t : State} {g : Course} {j : RedJob} {js : List RedJob} {i : Started} {code : BitVec 16}

theorem raOutcomeArrive_of_oldest {src : Node} {h : Course} {n : Nat} {rest : List Msg}
    (ho : Oldest s ⟨src, .course g, .raOutcome h n code⟩ rest) :
    raOutcomeArrive g s = ({ s with msgs := rest } : State).redOutcome g n code false := arrive_of_oldest ho rfl _

/-- The state as the counts are w. -/
def State.withCounts (s : State) (w : SMap DWord) : State := { s with wide := w }

/-- An outcome counts, with the bytes of its block (R281). -/
theorem outcome_counts (s : State) (g : Course) (n : Nat) :
    ∃ w, (s.countC g 0x3038 0x3018 1).countC g 0x2090 0x2080 n = s.withCounts w := by
  obtain ⟨w, hw⟩ := count_frame s (Blk.course g).base 0x3038 0x3018 1
  obtain ⟨w', hw'⟩ := count_frame (s.withCounts w) (Blk.course g).base 0x2090 0x2080 n
  rw [State.countC, State.countC, hw]
  exact ⟨w', hw'⟩

/-- The state as the job has its next outcome. -/
def State.jobAnswered (s : State) (g : Course) (j : RedJob) (js : List RedJob) (refused : Bool) : State :=
  s.setCourse g { s.course g with jobs := j.answered refused :: js }

theorem jobAnswered_eq (hj : (s.course g).jobs = j :: js) (hne : ∀ i ∈ js, i.serial ≠ j.serial) (refused : Bool) :
    (s.modCourse g fun c => c.modJob j.serial fun _ => j.answered refused) = s.jobAnswered g j js refused := by
  rw [State.modCourse, CourseState.modJob_head hj hne]
  rfl

/-- A block that was added counts, and its job goes on, or ends with it. -/
theorem redOutcome_added (hj : (s.course g).jobs = j :: js) (hne : ∀ i ∈ js, i.serial ≠ j.serial) (remote : Bool) :
    ∃ w, s.redOutcome g j.serial 0 remote = if j.returned + 1 = j.blocks then
        ((s.withCounts w).jobAnswered g j js j.refused).jobDone g (j.answered j.refused)
      else (s.withCounts w).jobAnswered g j js j.refused := by
  obtain ⟨w, hw⟩ := outcome_counts s g (j.lens.headD 0)
  have hsame : (j.refused || (0 : BitVec 16) != 0) = j.refused := Bool.or_false _
  refine ⟨w, ?_⟩
  rw [State.redOutcome, CourseState.job_head hj]
  dsimp only
  rw [if_pos rfl, hw, hsame, ← jobAnswered_eq (s := s.withCounts w) hj hne]
  rfl

/-- The first refused block counts too, and poisons the instruction (R384). -/
theorem redOutcome_refused (hj : (s.course g).jobs = j :: js) (hne : ∀ i ∈ js, i.serial ≠ j.serial) (hcode : code ≠ 0)
    (hr : j.refused = false) (hlast : j.returned + 1 ≠ j.blocks) (h : (s.course g).findStarted 6 j.serial = some i) (remote : Bool) :
    ∃ w t, RedFaults (s.withCounts w) t g j.serial 0x0B03 ∧ s.redOutcome g j.serial code remote = t.jobAnswered g j js true := by
  obtain ⟨w, hw⟩ := outcome_counts s g (j.lens.headD 0)
  obtain ⟨w', hw'⟩ := count_frame (s.withCounts w) (Blk.course g).base 0x3038 0x3020 1
  have hfaults := redRefused_faults (s := s.withCounts w') h code remote
  have hjobs : (((s.withCounts w').redRefused g j.serial code remote true).course g).jobs = j :: js := by
    rw [hfaults.course]
    exact hj
  refine ⟨w', _, hfaults, ?_⟩
  have hcount : (s.withCounts w).countC g 0x3038 0x3020 1 = s.withCounts w' := hw'
  have hnow : (j.refused || code != 0) = true := Bool.or_eq_true_iff.2 (.inr (bne_iff_ne.2 hcode))
  rw [State.redOutcome, CourseState.job_head hj]
  dsimp only
  rw [if_neg hcode, hw, hcount, hnow, hr, ← jobAnswered_eq hjobs hne, if_neg hlast]
  rfl

/-- The end of a red.accum: its job is gone, and its instruction is done. -/
theorem jobDone_accum (hk : j.kind = .accum) (hj : (s.course g).jobs = j :: js) (hne : ∀ i ∈ js, i.serial ≠ j.serial) :
    s.jobDone g j = (s.setCourse g { s.course g with jobs := js }).instrDone g 6 j.serial := by
  have hjobs : (s.course g).jobs.filter (fun i => i.serial != j.serial) = js := by rw [hj, jobs_without_head hne]
  rw [State.jobDone, hk, State.modCourse, hjobs]

theorem reductionOutcomes (hj : (s.course g).jobs = j :: js) (hne : ∀ i ∈ js, i.serial ≠ j.serial) {src : Node} {h : Course}
    {rest : List Msg} (ho : Oldest s ⟨src, .course g, .raOutcome h j.serial 0⟩ rest) (hmore : j.returned + 1 < j.blocks) :
    (raOutcomeArrive g s).course g = { s.course g with jobs := j.answered j.refused :: js } ∧ (raOutcomeArrive g s).msgs = rest ∧
      (raOutcomeArrive g s).mem = s.mem ∧ (raOutcomeArrive g s).dies = s.dies ∧
      ∀ x, x ≠ g → (raOutcomeArrive g s).course x = s.course x := by
  obtain ⟨w, hw⟩ := redOutcome_added (s := { s with msgs := rest }) hj hne false
  rw [raOutcomeArrive_of_oldest ho, hw, if_neg hmore.ne]
  exact ⟨State.setCourse_course .., rfl, rfl, rfl, fun x hx => State.setCourse_course_ne _ hx _⟩

theorem accumEnds (hj : (s.course g).jobs = j :: js) (hne : ∀ i ∈ js, i.serial ≠ j.serial) {src : Node} {h : Course}
    {rest : List Msg} (ho : Oldest s ⟨src, .course g, .raOutcome h j.serial 0⟩ rest) (hlast : j.returned + 1 = j.blocks)
    (hk : j.kind = .accum) (hi : (s.course g).findStarted 6 j.serial = some i) :
    ((raOutcomeArrive g s).course g).jobs = js ∧ (raOutcomeArrive g s).msgs = rest ∧ (raOutcomeArrive g s).mem = s.mem ∧
      ∃ x, ((raOutcomeArrive g s).course g).findStarted 6 j.serial = some x ∧ x.done = true ∧ x.poison = i.poison := by
  obtain ⟨w, hw⟩ := redOutcome_added (s := { s with msgs := rest }) hj hne false
  have hdone := jobDone_accum (s := (({ s with msgs := rest } : State).withCounts w).jobAnswered g j js j.refused) (g := g)
    (j := j.answered j.refused) (js := js) hk (congrArg CourseState.jobs (State.setCourse_course ..)) hne
  rw [raOutcomeArrive_of_oldest ho, hw, if_pos hlast, hdone, State.instrDone, State.modCourse_course, State.setCourse_course,
    State.jobAnswered, State.setCourse_course]
  exact ⟨rfl, rfl, rfl, _, findStarted_modStarted (fun _ => rfl) hi, rfl, rfl⟩

theorem refusalPoisons (hj : (s.course g).jobs = j :: js) (hne : ∀ i ∈ js, i.serial ≠ j.serial) {src : Node} {h : Course}
    {rest : List Msg} (ho : Oldest s ⟨src, .course g, .raOutcome h j.serial code⟩ rest) (hcode : code ≠ 0)
    (hr : j.refused = false) (hmore : j.returned + 1 < j.blocks) (hi : (s.course g).findStarted 6 j.serial = some i) :
    ((raOutcomeArrive g s).course g).jobs = j.answered true :: js ∧ (raOutcomeArrive g s).msgs = rest ∧
      (raOutcomeArrive g s).mem = s.mem ∧
      (∃ x, ((raOutcomeArrive g s).course g).findStarted 6 j.serial = some x ∧ x.poison = true ∧ x.done = i.done) ∧
      Presents s (raOutcomeArrive g s) (courseDie g) 0x0B03 0x06 := by
  obtain ⟨w, t, hfaults, he⟩ := redOutcome_refused (s := { s with msgs := rest }) hj hne hcode hr hmore.ne hi false
  obtain ⟨hapart, hmsgs, hcourse, hpresents⟩ := hfaults
  rw [raOutcomeArrive_of_oldest ho, he, State.jobAnswered, State.setCourse_course, hcourse]
  exact ⟨rfl, hmsgs, hapart.mem, ⟨_, findStarted_modStarted (fun _ => rfl) hi, rfl, rfl⟩, hpresents⟩

end

/-! ### A notice arrives (R385) -/

theorem redNoticeArrive_of_oldest {s : State} {g : Course} {src : Node} {rest : List Msg} {n : Fin 256} {refused : Bool}
    (ho : Oldest s ⟨src, .course g, .notice n refused⟩ rest) :
    redNoticeArrive g s = (({ s with msgs := rest } : State).modCourse g (·.tallied true refused n)).settle g := arrive_of_oldest ho rfl _

theorem noticeTallied {s : State} {g : Course} {src : Node} {rest : List Msg} {n : Fin 256} {refused : Bool}
    (ho : Oldest s ⟨src, .course g, .notice n refused⟩ rest) :
    Tallied (s.course g) ((redNoticeArrive g s).course g) true refused n ∧ (redNoticeArrive g s).msgs = rest ∧
      (∀ h, h ≠ g → (redNoticeArrive g s).course h = s.course h) ∧ (redNoticeArrive g s).mem = s.mem := by
  obtain ⟨hothers, hV, hP, hmem, hmsgs⟩ :=
    (({ s with msgs := rest } : State).modCourse g (·.tallied true refused n)).settle_keepsTallies g
  rw [State.modCourse_course] at hV hP
  rw [redNoticeArrive_of_oldest ho]
  exact ⟨(tallied_tallied (s.course g) true refused n).congr rfl rfl hV hP, hmsgs,
    fun h hh => (hothers h hh).trans (State.modCourse_course_ne _ hh _), hmem⟩

/-- Settles O47: the blocks of the oldest job leave, each to its controller or as many as fit in one message; outcomes and notices are
counted as they arrive. -/
theorem reductionTransfers : Obligations.ReductionTransfers := by
  intro s g
  refine ⟨fun j js hj hne => ⟨fun hruns hthawed hleft hroom => ?_, fun src h rest hruns ho => ⟨fun hmore => ?_,
    fun i hlast hk hi => ?_⟩, fun src h rest code i hruns ho hcode hr hmore hi => ?_⟩, fun src rest n refused ho => ?_⟩
  · have hform : exec (.transferForm g .red) s = .next (formRed g s) := by
      refine (ifCourse_runs hruns _).trans ?_
      rw [transferFormAny, hthawed]
      rfl
    have hf : RedForms s g j js := ⟨hj, hne, hleft, hroom⟩
    refine ⟨fun at_ hpeer hp hr => ⟨_, hform, ?_⟩, fun rank hpeer => ?_⟩
    · rw [formRed_local hf hpeer rfl hp (fun _ => rfl) hr]
      exact ⟨rfl, congrArg CourseState.jobs (State.setCourse_course ..), rfl, fun h hh => State.setCourse_course_ne _ hh _⟩
    · exact hform.trans (congrArg _ (formRed_remote hf hpeer rfl))
  · exact ⟨_, ifDie_runs hruns, reductionOutcomes hj hne ho hmore⟩
  · exact ⟨_, ifDie_runs hruns, accumEnds hj hne ho hlast hk hi⟩
  · exact ⟨_, ifDie_runs hruns, refusalPoisons hj hne ho hcode hr hmore hi⟩
  · obtain ⟨⟨hv, hp, hrest⟩, hframe⟩ := noticeTallied ho
    exact ⟨_, rfl, hv, hp, hrest, hframe⟩

end Sys2Proof.Machine

/-! SUPPORT. Rings: the messages that a red.ring sends and takes, its waits, and the requests that RA_BLOCKS of another member become
(R390 to R395, R412, R415). -/

namespace Sys2Proof.Machine

/-! ### The inbox of an engine, and the ring that a message is for (R392) -/

section
variable {s : State} {x : IoDie} {m : RxMsg} {rest : List RxMsg} {g : Course} {r : Ring} {k from_ : Nat}

/-- The state as the inbox of an engine is `rest`. -/
def State.boxed (s : State) (x : IoDie) (rest : List RxMsg) : State := s.modNet x fun n => { n with inbox := rest }

theorem takeRx_of_inbox (h : InInbox s x m rest k) : s.takeRx x k = some (m, s.boxed x rest) := by
  obtain ⟨hbox, htype⟩ := h
  have hfind : (m :: rest).find? (fun m => byteAt m.bytes 0 == k) = some m := by simp [htype]
  rw [State.takeRx, hbox, hfind]
  dsimp only
  rw [List.erase_cons_head]
  rfl

theorem findSome?_finRange_eq {n : Nat} {β : Type} {f : Fin n → Option β} {i : Fin n} {y : β} (hi : f i = some y)
    (hne : ∀ j, j ≠ i → f j = none) : (List.finRange n).findSome? f = some y := by
  cases h : (List.finRange n).findSome? f with
  | none => rw [List.findSome?_eq_none_iff.1 h i (List.mem_finRange i)] at hi; cases hi
  | some z =>
    obtain ⟨j, -, hj⟩ := List.exists_of_findSome?_eq_some h
    by_cases hji : j = i
    · rw [← hj, hji, hi]
    · rw [hne j hji] at hj
      cases hj

theorem RingOf.ring (ho : RingOf s g r m from_) : (s.course g).ring = some r := by
  obtain ⟨h, -⟩ := ho
  exact h

theorem RingOf.rank (ho : RingOf s g r m from_) : rxRank m = from_ := by
  obtain ⟨-, -, -, -, -, h⟩ := ho
  exact h

theorem ringFor_of_ringOf (ho : RingOf s g r m from_) {p : Ring → Bool} (hp : p r = true) : s.ringFor m p = some (g, r) := by
  obtain ⟨hring, hothers, hpart, hgroup, hseq, -⟩ := ho
  refine findSome?_finRange_eq (i := g) ?_ fun h hh => ?_
  · rw [hring]
    simp [hpart, hgroup, hseq, hp]
  · rw [hothers h hh]

theorem ringFor_of_no_ring (h : ∀ g, (s.course g).ring = none) (p : Ring → Bool) : s.ringFor m p = none := by
  rw [State.ringFor, List.findSome?_eq_none_iff]
  intro g _
  rw [h]

theorem ringDiscard_of_no_ring (h : ∀ g, (s.course g).ring = none) :
    s.ringDiscard m = s.countC (courseAt (8 * m.part)) 0x3038 0x3030 1 := by
  rw [State.ringDiscard, List.find?_eq_none.2]
  · rfl
  · intro g _
    rw [h]
    simp

end

/-! ### A ring goes on (R391) -/

section
variable {s t u : State} {g : Course} {r : Ring} {n : Nat}

@[simp] theorem State.modRing_ring (s : State) (g : Course) (f : Ring → Ring) :
    ((s.modRing g f).course g).ring = (s.course g).ring.map f := congrArg CourseState.ring (s.modCourse_course g _)

theorem ringAdvance_initAdds (h : (s.course g).ring = some r) (hw : r.wait = .initAdds) : s.ringAdvance g (n + 1) = s := by
  rw [State.ringAdvance, h]
  dsimp only
  rw [hw]

theorem ringAdvance_ready (h : (s.course g).ring = some r) (hw : r.wait = .ready) (hr : r.readySeen = true) :
    s.ringAdvance g (n + 1) = (s.modRing g fun r => { r with wait := .chunk, sent := 0 }).ringAdvance g n := by
  rw [State.ringAdvance, h]
  dsimp only
  rw [hw]
  dsimp only
  rw [if_pos hr]

/-- A step that has blocks left to send waits for nothing else. -/
theorem ringAdvance_sending (h : (s.course g).ring = some r) (hw : r.wait = .chunk) (hs : r.sent < r.size r.sendChunk) :
    s.ringAdvance g (n + 1) = s := by
  rw [State.ringAdvance, h]
  dsimp only
  rw [hw]
  dsimp only
  rw [if_pos (.inl hs)]

end

/-! ### The next packs or copies leave (R390, R415) -/

section
variable {s t u : State} {g : Course} {r : Ring} {n b : Nat}

/-- A running ring has blocks of its step left to send, and the remote share has room for its next transfer (R247). -/
structure RingSends (s : State) (g : Course) (r : Ring) : Prop where
  ring : (s.course g).ring = some r
  chunk : r.wait = .chunk
  left : r.sent < r.size r.sendChunk
  room : (s.course g).outstanding 2 < s.window g 2

/-- The blocks bs leave in one message to the next member, from state u on. -/
def State.ringLeaves (u : State) (g : Course) (part : Nat) (r : Ring) (mtype : Nat) (bs : List (List Byte)) (src : MsgSrc) : State :=
  ((u.modRing g fun r => { r with sent := r.sent + bs.length, acks := r.acks + bs.length, flight := r.flight + 1
                                  lens := r.lens ++ bs.map (·.length) }).netMessage (.course g) part r.group r.next mtype r.rseq
    (leBytes 2 r.tag ++ leBytes 2 r.pos ++ leBytes 4 (r.lo r.sendChunk + r.sent) ++ leBytes 1 bs.length ++ leBytes 3 0 ++ bs.flatten)
    (.ring g r.serial) src).ringAdvance g 4

/-- Where the next n blocks of a ring lie. -/
def State.ringAddrs (s : State) (g : Course) (r : Ring) (n : Nat) : List (Option Nat) :=
  (List.range n).map fun i => s.ringAddr g r (r.lo r.sendChunk + r.sent + i)

/-- Blocks as ALLGATHER copies them; 0 where no stack holds the block. -/
def State.copies (s : State) (l : List (Option Nat)) : List (List Byte) :=
  l.map fun a => (a.map s.copiedBlock).getD (List.replicate 416 0)

theorem formRing_copies (h : RingSends s g r) (hg : r.gather = true) (hn : n = min (min 19 (r.size r.sendChunk - r.sent))
    ((s.maxMessage (s.partOf g) r.group r.next - 28) / 416)) : formRing g s =
      s.ringLeaves g (s.partOf g) r 0x05 (s.copies (s.ringAddrs g r n)) (ringSource .copies (s.ringAddrs g r n)) := by
  rw [formRing, h.ring]
  dsimp only
  rw [if_neg (by simp [h.chunk, h.left, h.room]), if_pos hg, hn]
  rfl

theorem copies_getD {i a : Nat} (hi : i < n) (ha : s.ringAddr g r (r.lo r.sendChunk + r.sent + i) = some a) :
    (s.copies (s.ringAddrs g r n)).getD i [] = s.copiedBlock a := by
  rw [State.copies, State.ringAddrs, List.map_map, List.getD_eq_getElem?_getD, List.getElem?_map, List.getElem?_range hi]
  simp only [Option.map_some, Function.comp, ha, Option.getD_some]

theorem formRing_packs (h : RingSends s g r) (hg : r.gather = false) {p : List (List Byte) × State}
    (hp : s.packs g (r.lo r.sendChunk + r.sent) (s.maxMessage (s.partOf g) r.group r.next - 28)
      (min 29 (r.size r.sendChunk - r.sent)) = p) :
    ∃ src, formRing g s = p.2.ringLeaves g (s.partOf g) r 0x04 p.1 src := by
  subst hp
  rw [formRing, h.ring]
  dsimp only
  rw [if_neg (by simp [h.chunk, h.left, h.room]), if_neg (by simp [hg])]
  exact ⟨_, rfl⟩

/-- From s to t memory reads the same, no message has left, and the ring of course g has its blocks in the same places and marked
the same. -/
structure KeepsBlocks (g : Course) (s t : State) : Prop where
  memory : SameMemory s t
  msgs : t.msgs = s.msgs
  ring : (t.course g).ring.map (fun r => (r.dst, r.marked)) = (s.course g).ring.map fun r => (r.dst, r.marked)

theorem KeepsBlocks.refl (g : Course) (s : State) : KeepsBlocks g s s := ⟨.refl s, rfl, rfl⟩

theorem KeepsBlocks.trans (h : KeepsBlocks g s t) (k : KeepsBlocks g t u) : KeepsBlocks g s u :=
  ⟨h.memory.trans k.memory, k.msgs.trans h.msgs, k.ring.trans h.ring⟩

/-- What has been reported since does not matter, while the mode is the same. -/
theorem Reports.keepsBlocks (h : Reports s t) (hr : t.reg (pr 0) = s.reg (pr 0)) (g : Course) : KeepsBlocks g s t := by
  obtain ⟨d, r, w, n, rfl⟩ := h
  exact ⟨⟨rfl, rfl, rfl, hr⟩, rfl, rfl⟩

theorem pr_ne_mr (k : Stack) {o : Nat} (ho : o < 0x200000) : pr 0 ≠ mr k o := by
  simp only [pr, mr, Blk.base]
  omega

theorem pr_ne_cr (g : Course) {o : Nat} (ho : o < 0x100000) : pr 0 ≠ cr g o := by
  simp only [pr, cr, Blk.base]
  omega

theorem State.setReg_keepsBlocks (s : State) (g : Course) {o : Nat} (ho : pr 0 ≠ o) (v : Word) : KeepsBlocks g s (s.setReg o v) :=
  ⟨⟨rfl, rfl, rfl, State.setReg_reg_ne _ ho v⟩, rfl, rfl⟩

theorem State.count_keepsBlocks (s : State) (g : Course) (base ctrl cnt n : Nat) : KeepsBlocks g s (s.count base ctrl cnt n) := by
  obtain ⟨w, hw⟩ := count_frame s base ctrl cnt n
  rw [hw]
  exact ⟨⟨rfl, rfl, rfl, rfl⟩, rfl, rfl⟩

theorem ite_keepsBlocks {c : Prop} {d : Decidable c} (ht : KeepsBlocks g s t) (hu : KeepsBlocks g s u) :
    KeepsBlocks g s (if c then t else u) := by
  split <;> assumption

theorem State.efirst_keepsBlocks (s : State) (g : Course) (code : BitVec 16) (q : Nat) (pc : Addr) :
    KeepsBlocks g s (s.efirst g code q pc) :=
  ite_keepsBlocks (.refl g s) ((s.setReg_keepsBlocks g (pr_ne_cr g (by omega)) _).trans ⟨⟨rfl, rfl, rfl, rfl⟩, rfl, rfl⟩)

theorem State.modCourse_keepsBlocks (s : State) (g : Course) {f : CourseState → CourseState}
    (hf : (f (s.course g)).ring.map (fun r => (r.dst, r.marked)) = (s.course g).ring.map fun r => (r.dst, r.marked)) :
    KeepsBlocks g s (s.modCourse g f) :=
  ⟨⟨rfl, rfl, rfl, rfl⟩, rfl, by rwa [State.modCourse_course]⟩

theorem State.packRange_keepsBlocks (s : State) (g : Course) (k : Stack) (r : Ring) : KeepsBlocks g s (s.packRange g k r) := by
  have hflag := s.setReg_keepsBlocks g (pr_ne_mr k (o := 0x2000) (by omega)) (s.reg (mr k 0x2000) ||| 2)
  refine ite_keepsBlocks hflag (hflag.trans ?_)
  have hfirst : KeepsBlocks g (s.orReg (mr k 0x2000) 2) ((((s.orReg (mr k 0x2000) 2).raiseMem k 0x0B05 none).orReg
      (cr g 0x3004) 1).instrPoison g 6 r.serial 0x0B05) :=
    (((State.raiseWith_reports ..).keepsBlocks (State.raiseWith_reg ..) g).trans
      (State.setReg_keepsBlocks _ g (pr_ne_cr g (by omega)) _)).trans (State.modCourse_keepsBlocks _ g rfl)
  refine hfirst.trans ?_
  have hlast (t : State) : KeepsBlocks g t (t.modRing g fun r => { r with range := true }) := by
    refine t.modCourse_keepsBlocks g ?_
    rw [Option.map_map]
    rfl
  split
  · exact (State.efirst_keepsBlocks ..).trans (hlast _)
  · exact hlast _

theorem State.maxReg_keepsBlocks (s : State) (g : Course) {o : Nat} (ho : pr 0 ≠ o) (v : Nat) : KeepsBlocks g s (s.maxReg o v) :=
  ite_keepsBlocks (s.setReg_keepsBlocks g ho _) (.refl g s)

theorem State.pack_keepsBlocks (s : State) (g : Course) (r : Ring) (b : Nat) : KeepsBlocks g s (s.pack g r b).2 := by
  unfold State.pack
  split
  · exact .refl g s
  · next a _ =>
    have hcounts := (s.count_keepsBlocks g (mbase (stackOf a)) 0x2038 0x2020 1).trans
      (State.count_keepsBlocks _ g (mbase (stackOf a)) 0x2038 0x2028 (s.packedBlock a (r.marked.contains b)).2.1)
    have hmax {c : Prop} {d : Decidable c} {v : Nat} := ite_keepsBlocks (d := d) hcounts
      (hcounts.trans (State.maxReg_keepsBlocks _ g (pr_ne_mr (stackOf a) (o := 0x2004) (by omega)) v))
    exact ite_keepsBlocks (hmax.trans (State.packRange_keepsBlocks ..)) hmax

theorem State.pack_of_addr {a : Nat} (ha : s.ringAddr g r b = some a) :
    (s.pack g r b).1 = (s.packedBlock a (r.marked.contains b)).1 := by
  rw [State.pack, ha]

theorem SameMemory.packedBlock (h : SameMemory s t) (a : Nat) (marked : Bool) : t.packedBlock a marked = s.packedBlock a marked := by
  rw [State.packedBlock, State.packedBlock, h.bytes, h.dirty]

/-- Where a ring's blocks lie, its place alone decides. -/
theorem SameMemory.ringAddr (h : SameMemory s t) {q : Ring} (hq : q.dst = r.dst) (b : Nat) : t.ringAddr g q b = s.ringAddr g r b := by
  have hok (a : Nat) : t.nearOk a 416 = s.nearOk a 416 := h.nearOk a 416
  rw [State.ringAddr, State.ringAddr, h.physOf, hq]
  simp only [hok]

/-- What packing up to n blocks from b on gives: no more than n, no longer than the room, each as it lies in memory. -/
structure Packs (s : State) (g : Course) (r : Ring) (b room n : Nat) (p : List (List Byte) × State) : Prop where
  count : p.1.length ≤ n
  fits : (p.1.map (·.length)).sum ≤ room
  keeps : KeepsBlocks g s p.2
  block : ∀ i a, i < p.1.length → s.ringAddr g r (b + i) = some a →
    p.1.getD i [] = (s.packedBlock a (r.marked.contains (b + i))).1

theorem Packs.none (s : State) (g : Course) (r : Ring) (b room n : Nat) : Packs s g r b room n ([], s) :=
  ⟨Nat.zero_le n, Nat.zero_le room, .refl g s, fun _ _ hi => absurd hi (Nat.not_lt_zero _)⟩

/-- A block packed before the others. -/
theorem Packs.cons {q : Ring} {room : Nat} {p : List (List Byte) × State} (hq : q.dst = r.dst ∧ q.marked = r.marked)
    (hx : (s.pack g r b).1.length ≤ room)
    (hp : Packs (s.pack g r b).2 g q (b + 1) (room - (s.pack g r b).1.length) n p) :
    Packs s g r b room (n + 1) ((s.pack g r b).1 :: p.1, p.2) := by
  obtain ⟨hcount, hfits, hkeeps, hblock⟩ := hp
  obtain ⟨hdst, hmarked⟩ := hq
  have hpack := s.pack_keepsBlocks g r b
  refine ⟨Nat.succ_le_succ hcount, ?_, hpack.trans hkeeps, fun i a hi ha => ?_⟩
  · rw [List.map_cons, List.sum_cons]
    omega
  · cases i with
    | zero => exact State.pack_of_addr ha
    | succ i =>
      have hb : b + 1 + i = b + (i + 1) := by omega
      have h := hblock i a (Nat.lt_of_succ_lt_succ hi) (by rw [hb, hpack.memory.ringAddr hdst, ha])
      rwa [hb, hmarked, hpack.memory.packedBlock] at h

theorem State.packs_packs (g : Course) : ∀ (n b room : Nat) (s : State) (r : Ring), (s.course g).ring = some r →
    Packs s g r b room n (s.packs g b room n)
  | 0, b, room, s, r, _ => .none s g r b room 0
  | n + 1, b, room, s, r, hr => by
    obtain ⟨q, hq, hplace⟩ : ∃ q, ((s.pack g r b).2.course g).ring = some q ∧ (q.dst, q.marked) = (r.dst, r.marked) := by
      have h := (s.pack_keepsBlocks g r b).ring
      rw [hr] at h
      exact Option.map_eq_some_iff.1 h
    rw [State.packs, hr]
    dsimp only
    split
    · exact .none s g r b room (n + 1)
    · next hlen => exact Packs.cons (Prod.mk.inj hplace) (Nat.not_lt.1 hlen) (State.packs_packs g n (b + 1) _ _ q hq)

end

/-! ### An answer leaves (R413) -/

section
variable {s t u : State} {x : IoDie}

/-- From s to t the courses are the same, and messages may only have come into the inbox of engine x. -/
structure KeepsInbox (x : IoDie) (s t : State) : Prop where
  courses : t.courses = s.courses
  inbox : ∃ more, (t.net x).inbox = (s.net x).inbox ++ more

theorem KeepsInbox.of_eq (hc : t.courses = s.courses) (hn : t.nets = s.nets) : KeepsInbox x s t :=
  ⟨hc, [], by rw [List.append_nil, State.net, hn]; rfl⟩

theorem KeepsInbox.refl (x : IoDie) (s : State) : KeepsInbox x s s := ⟨rfl, [], (List.append_nil _).symm⟩

theorem KeepsInbox.trans (h : KeepsInbox x s t) (k : KeepsInbox x t u) : KeepsInbox x s u := by
  obtain ⟨hc, l, hl⟩ := h
  obtain ⟨kc, l', kl⟩ := k
  exact ⟨kc.trans hc, l ++ l', by rw [kl, hl, List.append_assoc]⟩

theorem ite_keepsInbox {c : Prop} {_ : Decidable c} (ht : KeepsInbox x s t) (hu : KeepsInbox x s u) :
    KeepsInbox x s (if c then t else u) := by
  split <;> assumption

theorem State.modNet_keepsInbox (s : State) (x y : IoDie) {f : NetState → NetState}
    (hf : ∃ more, (f (s.net y)).inbox = (s.net y).inbox ++ more) : KeepsInbox x s (s.modNet y f) := by
  by_cases h : x = y
  · subst h
    exact ⟨rfl, by rwa [State.modNet_net]⟩
  · exact ⟨rfl, [], by rw [List.append_nil, State.net, State.modNet, vector_get_set_ne _ h]; rfl⟩

theorem State.roceOut_keepsInbox (s : State) (x y : IoDie) (q op psn : Nat) (areq : Bool) (p : List Byte) (mk : List Byte → OutMsg) :
    KeepsInbox x s (s.roceOut y q op psn areq p mk) := by
  have hcount (t : State) (base ctrl cnt n : Nat) : KeepsInbox x t (t.count base ctrl cnt n) := by
    obtain ⟨w, hw⟩ := count_frame t base ctrl cnt n
    rw [hw]
    exact .of_eq rfl rfl
  have hframe (t : State) (p : PortId) (m : OutMsg) : KeepsInbox x t (t.frameOut p m) :=
    ite_keepsInbox (KeepsInbox.trans (t := t.emit m) (.of_eq rfl rfl) (hcount ..)) (.refl x t)
  exact KeepsInbox.trans (t := s.used) (.of_eq rfl rfl) (hframe ..)

theorem State.sendPackets_keepsInbox (s : State) (x y : IoDie) (q psn : Nat) (bs : List Byte) :
    KeepsInbox x s (s.sendPackets y q psn bs) :=
  foldl_related (KeepsInbox.refl x) KeepsInbox.trans (fun _ _ => State.roceOut_keepsInbox _ _ _ _ _ _ _ _ _) _ _

theorem State.roceSend_keepsInbox (s : State) (x y : IoDie) (q : Nat) (m : NetMsg) : KeepsInbox x s (s.roceSend y q m) := by
  unfold State.roceSend State.modQp
  exact (s.sendPackets_keepsInbox x y _ _ _).trans (State.modNet_keepsInbox _ _ _ ⟨[], (List.append_nil _).symm⟩)

theorem State.netSend_keepsInbox (s : State) (x : IoDie) (src : Node) {m : NetMsg} (h : m.origin = .answer) (not : Option Nat) :
    KeepsInbox x s (s.netSend src m not) := by
  have lost : KeepsInbox x s (s.unreachable m.origin) := by
    rw [h]
    exact .refl x s
  have quiet {t : State} {y : IoDie} {f : NetState → NetState} (hf : (f (t.net y)).inbox = (t.net y).inbox) :
      KeepsInbox x t (t.modNet y f) := t.modNet_keepsInbox x y ⟨[], by rw [hf, List.append_nil]⟩
  unfold State.netSend
  dsimp only
  split
  · exact lost
  · refine ite_keepsInbox (ite_keepsInbox (s.modNet_keepsInbox x _ ⟨_, rfl⟩) (.refl x s)) ?_
    split
    · exact lost
    · exact ite_keepsInbox ((quiet rfl).trans (ite_keepsInbox (State.roceSend_keepsInbox _ _ _ _ _) (quiet rfl))) (.refl x s)

end

end Sys2Proof.Machine

/-! SUPPORT. Rings, continued: what each of a ring's messages, its outcomes and the expiry of its wait do (R391 to R395, R412, R413). -/

namespace Sys2Proof.Machine

/-! ### READY, parts and copies arrive (R391, R392) -/

section
variable {s t : State} {x : IoDie} {m : RxMsg} {rest : List RxMsg} {g : Course} {r : Ring}

theorem boxed_inbox (s : State) (x : IoDie) (rest : List RxMsg) : ((s.boxed x rest).net x).inbox = rest :=
  congrArg NetState.inbox (s.modNet_net x _)

/-- READY of the member that follows is noted, and the ring goes on. -/
theorem ringReady_notes (hi : InInbox s x m rest 0x03) (ho : RingOf s g r m r.next) (hpos : natAt m.bytes 16 2 = (r.pos + 1) % r.r)
    (hseen : r.readySeen = false) (hw : r.wait = .initAdds ∨ r.wait = .ready) :
    ringReady x s = ((s.boxed x rest).modRing g fun r => { r with readySeen := true }).ringAdvance g 4 := by
  have hfor := ringFor_of_ringOf (s := s.boxed x rest) ho (p := fun r => decide (natAt m.bytes 16 2 = (r.pos + 1) % r.r) &&
    decide (r.next = rxRank m) && !r.readySeen && (r.wait == .initAdds || r.wait == .ready))
    (by rcases hw with h | h <;> simp [hpos, ho.rank, hseen, h])
  rw [ringReady, takeRx_of_inbox hi]
  dsimp only
  rw [hfor]

theorem ringMatch_of (htag : natAt m.bytes 18 2 = (r.pos + r.r - 1) % r.r) (hprev : rxRank m = r.prev)
    (haw : r.awaits (natAt m.bytes 16 2) = true) (hlo : r.lo (r.chunkOf (natAt m.bytes 16 2)) ≤ natAt m.bytes 20 4)
    (hhi : natAt m.bytes 20 4 + byteAt m.bytes 24 ≤
      r.lo (r.chunkOf (natAt m.bytes 16 2)) + r.size (r.chunkOf (natAt m.bytes 16 2)))
    (hgot : ∀ i, i < byteAt m.bytes 24 → (natAt m.bytes 16 2, natAt m.bytes 20 4 + i) ∉ r.got) {gather : Bool}
    (hg : gather = decide (r.r - 1 ≤ natAt m.bytes 16 2)) : ringMatch m gather r = true := by
  simp only [ringMatch, htag, hprev, haw, hlo, hhi, hg, beq_self_eq_true, decide_true, Bool.and_true, Bool.true_and, List.all_eq_true,
    List.mem_range, Bool.not_eq_true', List.contains_eq_mem, decide_eq_false_iff_not]
  exact hgot

theorem ringPart_adds (hi : InInbox s x m rest 0x04) (ho : RingOf s g r m r.prev) (hm : ringMatch m false r = true) :
    ringPart x s = (s.boxed x rest).netBlocks x m 0x04 (natAt m.bytes 20 4) (fun k => r.dst + 416 * k)
      (splitBlocks (byteAt m.bytes 24) (m.bytes.drop 28)) (some (g, natAt m.bytes 16 2)) := by
  rw [ringPart, takeRx_of_inbox hi]
  dsimp only
  rw [ringFor_of_ringOf (s := s.boxed x rest) ho hm]

/-- The ring once block b has come with a tag. -/
def Ring.took (r : Ring) (tag b : Nat) : Ring := { r with got := r.got ++ [(tag, b)] }

/-- A block that has come counts as received; the ring waits on for what it has left to send. -/
theorem ringGot_sending {tag b : Nat} (hr : (s.course g).ring = some r) (hw : r.wait = .chunk) (hs : r.sent < r.size r.sendChunk) :
    s.ringGot g tag b 0 = s.modRing g (·.took tag b) := by
  have hring : ((s.modRing g (·.took tag b)).course g).ring = some (r.took tag b) :=
    (State.modRing_ring ..).trans (congrArg _ hr)
  have htook : (fun r : Ring => { r with
      got := r.got ++ [(tag, b)], refused := r.refused || (0 : BitVec 16) != 0
      marked := if (0 : BitVec 16) = 0 then r.marked else r.marked ++ [b] }) = (·.took tag b) := funext fun r => by simp [Ring.took]
  rw [State.ringGot, hr]
  dsimp only
  rw [if_pos rfl, htook]
  exact ringAdvance_sending hring hw hs

/-- What a copy of one block does to the state: its bytes are stored, and it counts as received. -/
structure Copied (s t : State) (x : IoDie) (g : Course) (r : Ring) (tag first a : Nat) (bs : List Byte) : Prop where
  byte : ∀ b, t.byte b = if a ≤ b ∧ b < a + bs.length then bs.getD (b - a) 0 else s.byte b
  ring : (t.course g).ring = some (r.took tag first)
  inbox : (t.net x).inbox = (s.net x).inbox
  others : ∀ h, h ≠ g → t.course h = s.course h

theorem ringCopyBlock_copies {tag b a : Nat} {bs : List Byte} (hr : (s.course g).ring = some r) (hw : r.wait = .chunk)
    (hs : r.sent < r.size r.sendChunk) (hp : s.physOf (g.val / 8) (r.dst + 416 * b) = some a) (hc : s.copyCheck a = 0) :
    ∃ t, s.ringCopyBlock g r tag b bs = (0, t) ∧ Copied s t x g r tag b a bs := by
  obtain ⟨n, p, he⟩ := storeP_frame s a bs
  have hr' : ((s.store a bs).course g).ring = some r := by rw [State.store_eq_storeP, he]; exact hr
  refine ⟨(s.store a bs).modRing g (·.took tag b), ?_, fun b => storeP_byte s a bs b, ?_, ?_, fun h hh => ?_⟩
  · rw [State.ringCopyBlock, hp]
    dsimp only
    rw [hc, if_pos rfl, ringGot_sending hr' hw hs]
  · rw [State.modRing_ring, hr', Option.map_some]
  · rw [State.store_eq_storeP, he]
    rfl
  · rw [State.modRing, State.modCourse_course_ne _ hh, State.store_eq_storeP, he]
    rfl

/-- The answer to a copy leaves with it. -/
theorem ringCopy_copies {a : Nat} (hi : InInbox s x m rest 0x05) (ho : RingOf s g r m r.prev) (hm : ringMatch m true r = true)
    (hn : byteAt m.bytes 24 = 1) (hs : r.sent < r.size r.sendChunk) (hw : r.wait = .chunk)
    (hp : s.physOf (g.val / 8) (r.dst + 416 * natAt m.bytes 20 4) = some a) (hc : s.copyCheck a = 0) :
    ∃ t, Copied (s.boxed x rest) t x g r (natAt m.bytes 16 2) (natAt m.bytes 20 4) a ((m.bytes.drop 28).take 416) ∧
      ∃ body, ringCopy x s = t.netMessage (.net x) m.part (rxGroup m) (rxRank m) 0x02 (rxTag m) body .answer .state := by
  obtain ⟨t, ht, hcopied⟩ := ringCopyBlock_copies (s := s.boxed x rest) (x := x) (tag := natAt m.bytes 16 2)
    (bs := (m.bytes.drop 28).take 416) ho.ring hw hs hp hc
  refine ⟨t, hcopied, ?_⟩
  rw [ringCopy, takeRx_of_inbox hi]
  dsimp only
  rw [ringFor_of_ringOf (s := s.boxed x rest) ho hm]
  dsimp only
  rw [hn, List.range_one, List.foldl_cons, List.foldl_nil]
  dsimp only
  rw [Nat.add_zero, Nat.mul_zero, Nat.add_zero, ht]
  exact ⟨_, rfl⟩

end

/-! ### Outcomes of the blocks that a ring has sent (R384, R393, R395) -/

section
variable {s t : State} {x : IoDie} {m : RxMsg} {rest : List RxMsg} {g : Course} {r : Ring}

/-- The ring once a block that it sent has its outcome. -/
def Ring.acked (r : Ring) : Ring := { r with acks := r.acks - 1, lens := r.lens.tail }

theorem ringOutcome_sending (hr : (s.course g).ring = some r) (hw : r.wait = .chunk) (hs : r.sent < r.size r.sendChunk) :
    ∃ w, s.ringOutcome g 0 = (s.withCounts w).modRing g Ring.acked := by
  obtain ⟨w, hcounts⟩ := outcome_counts s g (r.lens.headD 0)
  have hring : (((s.withCounts w).modRing g Ring.acked).course g).ring = some r.acked :=
    (State.modRing_ring ..).trans (congrArg _ hr)
  have hacked : (fun r : Ring => { r with acks := r.acks - 1, refused := r.refused || (0 : BitVec 16) != 0, lens := r.lens.tail }) =
      Ring.acked := funext fun r => by simp [Ring.acked]
  refine ⟨w, ?_⟩
  rw [State.ringOutcome, hr]
  dsimp only
  rw [if_pos rfl, hcounts, hacked]
  exact ringAdvance_sending hring hw hs

theorem raOutcomeReceive_ring (hi : InInbox s x m rest 0x02) (ho : RingOf s g r m r.next) (htype : byteAt m.bytes 16 = 0x04)
    (hn : byteAt m.bytes 17 = 1) (hcode : natAt m.bytes 24 2 = 0) :
    raOutcomeReceive x s = ((s.boxed x rest).modRing g fun r => { r with flight := r.flight - 1 }).ringOutcome g 0 := by
  rw [raOutcomeReceive, takeRx_of_inbox hi]
  dsimp only
  split
  · next h => exact absurd (h.symm.trans htype) (by decide)
  · rw [ringFor_of_ringOf (s := s.boxed x rest) ho (p := fun r => decide (r.next = rxRank m)) (by simp [ho.rank])]
    dsimp only
    rw [hn, List.range_one, List.map_cons, List.map_nil, Nat.mul_zero, Nat.add_zero, hcode]
    rfl

theorem raOutcomeReceive_red (hi : InInbox s x m rest 0x02) (htype : byteAt m.bytes 16 = 0x01) :
    raOutcomeReceive x s = ((List.range (byteAt m.bytes 17)).map fun i => BitVec.ofNat 16 (natAt m.bytes (24 + 2 * i) 2)).foldl
      (fun u c => u.redOutcome (courseAt (rxTag m).toNat) ((rxTag m).toNat / 32) c
        (decide ((s.boxed x rest).ownRank m.part (rxGroup m) ≠ some (rxRank m)))) (s.boxed x rest) := by
  rw [raOutcomeReceive, takeRx_of_inbox hi]
  dsimp only
  split
  · rfl
  · next h => exact absurd htype h

end

/-! ### RA_BLOCKS of another member (R385) -/

section
variable {s t : State} {x : IoDie} {m : RxMsg} {rest : List RxMsg}

theorem splitBlocks_length : ∀ (n : Nat) (bs : List Byte), (splitBlocks n bs).length = n
  | 0, _ => rfl
  | n + 1, bs => congrArg (· + 1) (splitBlocks_length n (bs.drop (bwLen bs)))

theorem totalAt_none (h : ∀ y, (s.net y).totals = []) (p : RaTotal → Bool) : s.totalAt p = none := by
  rw [State.totalAt, List.findSome?_eq_none_iff]
  intro y _
  rw [h]
  rfl

/-- The state as an engine has a job of received blocks. -/
def State.withNetJob (s : State) (x : IoDie) (m : RxMsg) (atype first : Nat) (bs : List (List Byte))
    (ring : Option (Course × Nat)) : State :=
  s.modNet x fun n => { n with nextJob := (s.net x).nextJob + 1, jobs := n.jobs ++
    [⟨(s.net x).nextJob, m.part, rxGroup m, rxRank m, rxTag m, atype, first, bs.map fun _ => none, ring⟩] }

/-- Where a stack holds every block, each becomes a request of its own. -/
theorem netBlocks_requests {atype first : Nat} {addr : Nat → Nat} {bs : List (List Byte)} {ring : Option (Course × Nat)}
    {at_ : Nat → Nat}
    (hp : ∀ i, i < bs.length → s.physOf m.part (addr (first + i)) = some (at_ i) ∧ at_ i < nearEnd) {msg : Nat → Msg}
    (hm : ∀ i, msg i = ⟨.net x, .mem (stackOf (at_ i)),
      .raReq ⟨11 + x.val, at_ i, bs.getD i [], false, .net x (s.net x).nextJob i⟩⟩)
    (hr : ∀ i, i < bs.length → s.reachable (msg i) = true) : s.netBlocks x m atype first addr bs ring =
      { s.withNetJob x m atype first bs ring with msgs := s.msgs ++ (List.range bs.length).map msg } := by
  refine foldl_sends (s := s.withNetJob x m atype first bs ring) fun i hi l => ?_
  obtain ⟨hphys, hnear⟩ := hp i hi
  have hphys' : State.physOf { s.withNetJob x m atype first bs ring with msgs := l } m.part (addr (first + i)) = some (at_ i) := hphys
  have hreach : State.reachable { s.withNetJob x m atype first bs ring with msgs := l } (msg i) = true :=
    (reachable_of_dies (s := s) (t := { s.withNetJob x m atype first bs ring with msgs := l }) rfl _).trans (hr i hi)
  rw [hm] at hreach ⊢
  rw [hphys']
  dsimp only
  rw [if_pos hnear, State.send_of_reachable hreach]

/-- What RA_BLOCKS tells of its red.send (R385, R412). -/
def raTotalOf (m : RxMsg) : RaTotal :=
  ⟨m.part, rxGroup m, rxRank m, rxTag m, natAt m.bytes 24 4, 0, false, byteAt m.bytes 22 % 32, decide (128 ≤ byteAt m.bytes 22),
    tallyNum (byteAt m.bytes 23)⟩

theorem raBlocks_first (hi : InInbox s x m rest 0x01) (h : ∀ y, (s.net y).totals = []) :
    raBlocks x s = ((s.boxed x rest).modNet x fun n => { n with totals := n.totals ++ [raTotalOf m] }).netBlocks x m 0x01
      (natAt m.bytes 28 4) (fun k => natAt m.bytes 16 6 + 416 * k) (splitBlocks (byteAt m.bytes 32) (m.bytes.drop 36)) none := by
  have hboxed (y : IoDie) : ((s.boxed x rest).net y).totals = [] := by
    by_cases hy : y = x
    · rw [hy]
      exact (congrArg NetState.totals (s.modNet_net x _)).trans (h x)
    · exact (congrArg NetState.totals (vector_get_set_ne _ hy _)).trans (h y)
  rw [raBlocks, takeRx_of_inbox hi]
  dsimp only
  rw [totalAt_none hboxed]
  rfl

end

/-! ### The wait of a ring expires (R394) -/

section
variable {s t : State} {g : Course} {r : Ring} {n : Nat} {i : Started} {code : BitVec 16}

theorem ring_waiting (h : r.wait = .ready ∧ r.readySeen = false ∨
    r.wait = .chunk ∧ r.size r.sendChunk ≤ r.sent ∧ r.received = false) :
    r.waiting = true := by
  rcases h with ⟨hw, hs⟩ | ⟨hw, hs, hr⟩
  · simp [Ring.waiting, hw, hs]
  · simp [Ring.waiting, hw, hs, hr]

theorem ring_not_waiting (h : r.wait = .initAdds ∨ r.wait = .finish ∨ r.wait = .ready ∧ r.readySeen = true ∨
    r.wait = .chunk ∧ r.received = true) : r.waiting = false := by
  rcases h with hw | hw | ⟨hw, hs⟩ | ⟨hw, hr⟩
  · simp [Ring.waiting, hw]
  · simp [Ring.waiting, hw]
  · simp [Ring.waiting, hw, hs]
  · simp [Ring.waiting, hw, hr]

/-- What is given up of the messages that wait changes the engines alone. -/
theorem dropQueued_frame (s : State) (o : MsgOrigin) : ∃ v, s.dropQueued o = { s with nets := v } := by
  refine List.foldlRecOn (motive := fun t : State => ∃ v, t = { s with nets := v }) _ _ ⟨s.nets, rfl⟩ ?_
  rintro _ ⟨v, rfl⟩ y -
  exact ⟨_, rfl⟩

/-- The first fault of the course is captured, and no other register changes. -/
theorem State.efirst_reg (s : State) (g : Course) (code : BitVec 16) (q : Nat) (pc : Addr) {o : Nat} (ho : o ≠ cr g 0x40) :
    (s.efirst g code q pc).reg o = s.reg o := by
  unfold State.efirst
  split
  · rfl
  · exact State.setReg_reg_ne _ ho _

theorem redFault_reg (h : (s.course g).findStarted 6 n = some i) {o : Nat} (ho : o ≠ cr g 0x40) :
    (s.redFault g n code).reg o = s.reg o := by
  rw [State.redFault_eq h, State.modCourse_reg, State.efirst_reg _ _ _ _ _ ho]
  exact State.raiseWith_reg ..

/-- A ring that still waits ends with RED_RING_TIMEOUT: its instruction is poisoned, and is done. -/
theorem ringWaitExpiry_ends (hr : (s.course g).ring = some r) (hw : r.waiting = true)
    (hi : (s.course g).findStarted 6 r.serial = some i) :
    ((ringWaitExpiry g s).course g).ring = none ∧ (ringWaitExpiry g s).mem = s.mem ∧
      Presents s (ringWaitExpiry g s) (courseDie g) 0x0B07 0x06 ∧
      (ringWaitExpiry g s).reg (cr g 0x3004) = s.reg (cr g 0x3004) ||| 8 ∧
      ∃ y, ((ringWaitExpiry g s).course g).findStarted 6 r.serial = some y ∧ y.done = true ∧ y.poison = true := by
  have hfaults := redFault_faults hi 0x0B07
  have hreg : (s.redFault g r.serial 0x0B07).reg (cr g 0x3004) = s.reg (cr g 0x3004) := redFault_reg hi (by simp [cr_inj])
  obtain ⟨hapart, -, hcourse, hpresents⟩ := hfaults
  rw [ringWaitExpiry, hr]
  dsimp only
  rw [if_pos hw]
  generalize s.redFault g r.serial 0x0B07 = t at hapart hcourse hpresents hreg
  obtain ⟨v, hv⟩ := dropQueued_frame (((t.orReg (cr g 0x3004) 8).modCourse g fun c => { c with ring := none }).instrDone g 6 r.serial)
    (.ring g r.serial)
  have hend : ((((t.orReg (cr g 0x3004) 8).modCourse g fun c => { c with ring := none }).instrDone g 6 r.serial).course g) =
      ({ (s.course g).modStarted 6 r.serial (·.faulted 0x0B07) with ring := none } : CourseState).modStarted 6 r.serial
        fun i => { i with done := true } := by
    rw [State.instrDone, State.modCourse_course, State.modCourse_course, ← hcourse]
    rfl
  have hdone := findStarted_modStarted (c := { (s.course g).modStarted 6 r.serial (·.faulted 0x0B07) with ring := none })
    (f := fun i => { i with done := true }) (fun _ => rfl) (findStarted_modStarted (f := (·.faulted 0x0B07)) (fun _ => rfl) hi)
  rw [hv]
  refine ⟨(congrArg CourseState.ring hend).trans rfl, hapart.mem, hpresents, ?_, ?_⟩
  · exact (State.setReg_reg ..).trans (congrArg (· ||| 8) hreg)
  · exact ⟨_, (congrArg (·.findStarted 6 r.serial) hend).trans hdone, rfl, rfl⟩

theorem ringWaitExpiry_idle (hr : (s.course g).ring = some r) (hw : r.waiting = false) : ringWaitExpiry g s = s := by
  rw [ringWaitExpiry, hr]
  simp [hw]

end

/-! ### The parts of the obligation -/

section
variable {s : State} {x : IoDie} {m : RxMsg} {rest : List RxMsg} {g : Course} {r : Ring}

theorem ringReady_waiting (hi : InInbox s x m rest 0x03) (ho : RingOf s g r m r.next) (hpos : natAt m.bytes 16 2 = (r.pos + 1) % r.r)
    (hseen : r.readySeen = false) (hw : r.wait = .initAdds) : ((ringReady x s).course g).ring = some { r with readySeen := true } ∧
      ((ringReady x s).net x).inbox = rest ∧ (ringReady x s).mem = s.mem := by
  have hring : (((s.boxed x rest).modRing g fun r => { r with readySeen := true }).course g).ring =
      some { r with readySeen := true } := (State.modRing_ring ..).trans (congrArg _ ho.ring)
  rw [ringReady_notes hi ho hpos hseen (.inl hw), ringAdvance_initAdds hring hw]
  exact ⟨hring, boxed_inbox .., rfl⟩

theorem ringReady_starts (hi : InInbox s x m rest 0x03) (ho : RingOf s g r m r.next) (hpos : natAt m.bytes 16 2 = (r.pos + 1) % r.r)
    (hseen : r.readySeen = false) (hw : r.wait = .ready) (hsize : 0 < r.size r.sendChunk) :
    ((ringReady x s).course g).ring = some { r with readySeen := true, wait := .chunk, sent := 0 } ∧
      ((ringReady x s).net x).inbox = rest ∧ (ringReady x s).mem = s.mem := by
  have hring : (((s.boxed x rest).modRing g fun r => { r with readySeen := true }).course g).ring =
      some { r with readySeen := true } := (State.modRing_ring ..).trans (congrArg _ ho.ring)
  have hnext := (State.modRing_ring ((s.boxed x rest).modRing g fun r => { r with readySeen := true }) g fun r =>
    { r with wait := .chunk, sent := 0 }).trans (congrArg _ hring)
  rw [ringReady_notes hi ho hpos hseen (.inr hw), ringAdvance_ready hring hw rfl, ringAdvance_sending hnext rfl hsize]
  exact ⟨hnext, boxed_inbox .., rfl⟩

theorem messages_discarded (h : ∀ g, (s.course g).ring = none) :
    (InInbox s x m rest 0x03 → ringReady x s = (s.boxed x rest).countC (courseAt (8 * m.part)) 0x3038 0x3030 1) ∧
    (InInbox s x m rest 0x04 → ringPart x s = (s.boxed x rest).countC (courseAt (8 * m.part)) 0x3038 0x3030 1) ∧
    (InInbox s x m rest 0x05 → ringCopy x s = (s.boxed x rest).countC (courseAt (8 * m.part)) 0x3038 0x3030 1) := by
  have hnone := ringFor_of_no_ring (s := s.boxed x rest) (m := m) h
  rw [← ringDiscard_of_no_ring (s := s.boxed x rest) h]
  refine ⟨fun hi => ?_, fun hi => ?_, fun hi => ?_⟩
  · rw [ringReady, takeRx_of_inbox hi]
    dsimp only
    rw [hnone]
  · rw [ringPart, takeRx_of_inbox hi]
    dsimp only
    rw [hnone]
  · rw [ringCopy, takeRx_of_inbox hi]
    dsimp only
    rw [hnone]

/-- A copy and its answer. -/
theorem ringCopy_answered {a : Nat} (hi : InInbox s x m rest 0x05) (ho : RingOf s g r m r.prev) (hm : ringMatch m true r = true)
    (hn : byteAt m.bytes 24 = 1) (hs : r.sent < r.size r.sendChunk) (hw : r.wait = .chunk)
    (hp : s.physOf (g.val / 8) (r.dst + 416 * natAt m.bytes 20 4) = some a) (hc : s.copyCheck a = 0) :
    let bs := (m.bytes.drop 28).take 416
    (∀ b, (ringCopy x s).byte b = if a ≤ b ∧ b < a + bs.length then bs.getD (b - a) 0 else s.byte b) ∧
      ((ringCopy x s).course g).ring = some { r with got := r.got ++ [(natAt m.bytes 16 2, natAt m.bytes 20 4)] } ∧
      (∃ more, ((ringCopy x s).net x).inbox = rest ++ more) ∧ ∀ h, h ≠ g → (ringCopy x s).course h = s.course h := by
  obtain ⟨t, ⟨hbyte, hring, hinbox, hothers⟩, body, he⟩ := ringCopy_copies hi ho hm hn hs hw hp hc
  rw [he]
  have hmem := (t.netSend_keepsAdders (.net x) (m := ⟨m.part, rxGroup m, rxRank m, netBytes 0x02 (rxGroup m)
    ((t.ownRank m.part (rxGroup m)).getD 0) (rxTag m) body, .answer, .state⟩) rfl none).mem
  obtain ⟨hcourses, more, hmore⟩ := t.netSend_keepsInbox x (.net x) (m := ⟨m.part, rxGroup m, rxRank m, netBytes 0x02 (rxGroup m)
    ((t.ownRank m.part (rxGroup m)).getD 0) (rxTag m) body, .answer, .state⟩) rfl none
  have hcourse (h : Course) := congrArg (fun v : Vector CourseState 32 => v.get h) hcourses
  refine ⟨fun b => ?_, ?_, ⟨more, ?_⟩, fun h hh => (hcourse h).trans (hothers h hh)⟩
  · exact (congrArg (fun v => SMap.get v b (memDefault b)) hmem).trans (hbyte b)
  · exact (congrArg CourseState.ring (hcourse g)).trans hring
  · rw [State.netMessage, hmore, hinbox, boxed_inbox]

theorem raOutcome_counted (hi : InInbox s x m rest 0x02) (ho : RingOf s g r m r.next) (htype : byteAt m.bytes 16 = 0x04)
    (hn : byteAt m.bytes 17 = 1) (hcode : natAt m.bytes 24 2 = 0) (hw : r.wait = .chunk) (hs : r.sent < r.size r.sendChunk) :
    ((raOutcomeReceive x s).course g).ring = some { r with acks := r.acks - 1, flight := r.flight - 1, lens := r.lens.tail } ∧
      ((raOutcomeReceive x s).net x).inbox = rest ∧ (raOutcomeReceive x s).mem = s.mem := by
  have hring : (((s.boxed x rest).modRing g fun r => { r with flight := r.flight - 1 }).course g).ring =
      some { r with flight := r.flight - 1 } := (State.modRing_ring ..).trans (congrArg _ ho.ring)
  obtain ⟨w, he⟩ := ringOutcome_sending hring hw hs
  rw [raOutcomeReceive_ring hi ho htype hn hcode, he]
  exact ⟨(State.modRing_ring ..).trans (congrArg _ hring), boxed_inbox .., rfl⟩

/-- The state as RA_BLOCKS has begun: its total, and the job of its blocks. -/
def State.blocksBegun (s : State) (x : IoDie) (m : RxMsg) (rest : List RxMsg) : State :=
  ((s.boxed x rest).modNet x fun n => { n with totals := n.totals ++ [raTotalOf m] }).withNetJob x m 0x01 (natAt m.bytes 28 4)
    (splitBlocks (byteAt m.bytes 32) (m.bytes.drop 36)) none

theorem blocksBegun_net (s : State) (x : IoDie) (m : RxMsg) (rest : List RxMsg) : (s.blocksBegun x m rest).net x =
    { s.net x with inbox := rest, totals := (s.net x).totals ++ [raTotalOf m], nextJob := (s.net x).nextJob + 1, jobs := (s.net x).jobs ++
      [⟨(s.net x).nextJob, m.part, rxGroup m, rxRank m, rxTag m, 0x01, natAt m.bytes 28 4,
        (splitBlocks (byteAt m.bytes 32) (m.bytes.drop 36)).map fun _ => none, none⟩] } := by
  simp only [State.blocksBegun, State.withNetJob, State.boxed, State.modNet_net]

/-- Where no total is counted yet, and a stack holds every block, RA_BLOCKS becomes a request for each. -/
theorem raBlocks_requests {at_ : Nat → Nat} (hi : InInbox s x m rest 0x01) (htot : ∀ y, (s.net y).totals = [])
    (hp : ∀ i, i < byteAt m.bytes 32 → s.physOf m.part (natAt m.bytes 16 6 + 416 * (natAt m.bytes 28 4 + i)) = some (at_ i) ∧
      at_ i < nearEnd) {msg : Nat → Msg}
    (hm : ∀ i, msg i = ⟨.net x, .mem (stackOf (at_ i)), .raReq ⟨11 + x.val, at_ i,
      (splitBlocks (byteAt m.bytes 32) (m.bytes.drop 36)).getD i [], false, .net x (s.net x).nextJob i⟩⟩)
    (hr : ∀ i, i < byteAt m.bytes 32 → s.reachable (msg i) = true) :
    raBlocks x s = { s.blocksBegun x m rest with msgs := s.msgs ++ (List.range (byteAt m.bytes 32)).map msg } := by
  have hlen := splitBlocks_length (byteAt m.bytes 32) (m.bytes.drop 36)
  have hjob : (((s.boxed x rest).modNet x fun n => { n with totals := n.totals ++ [raTotalOf m] }).net x).nextJob =
      (s.net x).nextJob := by simp only [State.boxed, State.modNet_net]
  have hreq := netBlocks_requests (s := (s.boxed x rest).modNet x fun n => { n with totals := n.totals ++ [raTotalOf m] }) (x := x)
    (m := m) (atype := 0x01) (first := natAt m.bytes 28 4) (addr := fun k => natAt m.bytes 16 6 + 416 * k)
    (bs := splitBlocks (byteAt m.bytes 32) (m.bytes.drop 36)) (ring := none) (at_ := at_) (msg := msg)
    (by rw [hlen]; exact hp) (by rw [hjob]; exact hm)
    (by rw [hlen]; exact fun i hi => (reachable_of_dies (s := s) (t := (s.boxed x rest).modNet x _) rfl _).trans (hr i hi))
  rw [raBlocks_first hi htot, hreq, hlen]
  rfl

end

/-- Settles O48: each message of a ring, its outcomes and the expiry of its wait go through the ring of the one course that runs one;
what a ring sends is formed block by block. -/
theorem ringsRun : Obligations.RingsRun := by
  intro s x m rest got hdie
  refine ⟨fun g r hruns hring hw hthawed hleft hroom => ?_,
    fun g r hi ho hpos hseen => ⟨fun hw => ?_, fun hw hsize => ?_⟩,
    fun g r ho hpos haw hlo hhi hgot => ⟨fun hi htag => ?_, fun a hi htag hn hs hw hp hc => ?_⟩,
    fun hnone _ => ?_, fun g r hi ho htype hn hcode hw hs => ?_, fun hi htype => ?_, fun at_ hi htot hp hr => ?_,
    fun g r i hruns hring hwait hi => ?_, fun g r hring hwait => ?_⟩
  · have hsends : RingSends s g r := ⟨hring, hw, hleft, hroom⟩
    have hform : exec (.transferForm g .ring) s = .next (formRing g s) := by
      refine (ifCourse_runs hruns _).trans ?_
      rw [transferFormAny, hthawed]
      rfl
    refine ⟨fun hg => ⟨s.copies (s.ringAddrs g r _), _, ?_, fun i a hi ha => ?_,
        hform.trans (congrArg _ (formRing_copies hsends hg rfl))⟩,
      fun hg => ?_⟩
    · simp only [State.copies, State.ringAddrs, List.length_map, List.length_range]
    · refine copies_getD ?_ ha
      simpa only [State.copies, State.ringAddrs, List.length_map, List.length_range] using hi
    · obtain ⟨src, hsrc⟩ := formRing_packs hsends hg rfl
      obtain ⟨hcount, hfits, hkeeps, hblock⟩ := State.packs_packs g (min 29 (r.size r.sendChunk - r.sent))
        (r.lo r.sendChunk + r.sent) (s.maxMessage (s.partOf g) r.group r.next - 28) s r hring
      exact ⟨_, _, src, hcount, hfits, hkeeps.memory.mem, hkeeps.msgs, hblock, hform.trans (congrArg _ hsrc)⟩
  · exact ⟨_, ifDie_runs hdie, ringReady_waiting hi ho hpos hseen hw⟩
  · exact ⟨_, ifDie_runs hdie, ringReady_starts hi ho hpos hseen hw hsize⟩
  · have hm := ringMatch_of (gather := false) hpos ho.rank haw hlo hhi hgot (decide_eq_false (Nat.not_le.2 htag)).symm
    exact (ifDie_runs hdie).trans (congrArg _ (ringPart_adds hi ho hm))
  · have hm := ringMatch_of (gather := true) hpos ho.rank haw hlo hhi hgot (decide_eq_true htag).symm
    exact ⟨_, ifDie_runs hdie, ringCopy_answered hi ho hm hn hs hw hp hc⟩
  · obtain ⟨hready, hpart, hcopy⟩ := messages_discarded (s := s) (x := x) (m := m) (rest := rest) hnone
    exact ⟨fun hi => (ifDie_runs hdie).trans (congrArg _ (hready hi)), fun hi => (ifDie_runs hdie).trans (congrArg _ (hpart hi)),
      fun hi => (ifDie_runs hdie).trans (congrArg _ (hcopy hi))⟩
  · exact ⟨_, ifDie_runs hdie, raOutcome_counted hi ho htype hn hcode hw hs⟩
  · exact (ifDie_runs hdie).trans (congrArg _ (raOutcomeReceive_red hi htype))
  · have hnet := blocksBegun_net s x m rest
    refine ⟨_, (ifDie_runs hdie).trans (congrArg _ (raBlocks_requests hi htot hp (fun _ => rfl) hr)), rfl,
      congrArg NetState.nextJob hnet, congrArg NetState.inbox hnet,
      ⟨_, congrArg NetState.jobs hnet, rfl, rfl, ?_⟩, ⟨raTotalOf m, ?_, rfl, rfl⟩, rfl, rfl⟩
    · exact (List.length_map _).trans (splitBlocks_length ..)
    · exact (congrArg NetState.totals hnet).trans (congrArg (· ++ [raTotalOf m]) (htot x))
  · exact ⟨_, ifCourse_runs hruns _, ringWaitExpiry_ends hring (ring_waiting hwait) hi⟩
  · exact congrArg _ (ifCourse_idle (ringWaitExpiry_idle hring (ring_not_waiting hwait)))

end Sys2Proof.Machine

/-! SUPPORT. Locks: how the outcome of a request of the lock table ends the wait of its course, the entries that a grant makes and
a release frees, and the requests that wait (R225, R328 to R333). -/

namespace Sys2Proof.Machine

section
variable {s t u : State} {k : Stack} {r : LockReq} {m : MemState} {ahead behind : List LockReq} {rest : List Msg}

/-! ### The outcome of a request (R225, R516) -/

/-- The outcome of a request changes nothing but its course. -/
theorem State.lockOutcome_eq (s : State) (k : Stack) (g : Course) (id status : Nat) :
    ∃ c, s.lockOutcome k g id status = { s with courses := c } := by
  unfold State.lockOutcome
  split <;> exact ⟨_, rfl⟩

theorem State.lockOutcome_outcome (s : State) (k : Stack) (g : Course) (id status : Nat) :
    Outcome s (s.lockOutcome k g id status) k g id status := by
  unfold State.lockOutcome
  refine ⟨fun d b n hw hl => ?_, fun d b n i hw hi => ?_, fun h hh => ?_⟩
  · obtain ⟨hwait, hpc, hrs, -⟩ := endWait_waitEnded hw status
    rw [if_pos hl, State.modCourse_course, hw]
    dsimp only
    rw [if_pos rfl]
    exact ⟨hwait, hpc, hrs⟩
  · split
    · rw [State.modCourse_course, hw]
      exact if_neg hi
    · rfl
  · split
    · exact State.modCourse_course_ne _ hh _
    · rfl

/-- An outcome is one from every state with the same courses and dies. -/
theorem Outcome.of_same {g : Course} {id status : Nat} (h : Outcome u t k g id status) (hc : u.courses = s.courses)
    (hd : u.dies = s.dies) : Outcome s t k g id status := by
  have hcourse (g : Course) : u.course g = s.course g := congrArg (fun v => Vector.get v g) hc
  have hlinked : u.linked (.mem k) (.course g) = s.linked (.mem k) (.course g) :=
    hopsUp_of_tx (fun d => congrArg (fun v => (Vector.get v d).tx) hd) _
  simpa only [Outcome, hcourse, hlinked] using h

/-! ### The test of a request (R329) -/

/-- A request is BROKEN by a TORN entry that it overlaps, and by nothing else. -/
theorem MemState.lockTest_broken_iff : m.lockTest ahead r = .broken ↔ ∃ e ∈ m.locks, ∃ l, e.2 = some l ∧ l.torn ≠ none ∧
    l.base < r.base + r.len ∧ r.base < l.base + l.len := by
  have hhit : (m.locks.any fun e => match e.2 with
      | some l => l.torn.isSome && overlap l.base l.len r.base r.len
      | none => false) = true ↔ ∃ e ∈ m.locks, ∃ l, e.2 = some l ∧ l.torn ≠ none ∧
        l.base < r.base + r.len ∧ r.base < l.base + l.len := by
    rw [List.any_eq_true]
    refine exists_congr fun e => and_congr_right fun _ => ?_
    cases e.2 with
    | none => simp
    | some l => simp [overlap, Option.isSome_iff_ne_none]
  rw [← hhit, MemState.lockTest]
  split
  · next h => exact ⟨fun _ => h, fun _ => rfl⟩
  · next h =>
    refine ⟨fun hb => ?_, fun hb => absurd hb h⟩
    split at hb <;> cases hb

/-! ### A grant (R329; log entry 13) -/

/-- The lowest FREE entry is free where some entry is. -/
theorem find_lowestFree {locks : SMap (Option LockEntry)} {j : Nat} (hj : SMap.find locks j = none) : ∀ n i, i ≤ j → j < i + n →
    SMap.find locks (lowestFree locks i n) = none
  | 0, _, hi, hn => by omega
  | n + 1, i, hi, hn => by
    rw [lowestFree]
    split
    · next h => exact Option.isNone_iff_eq_none.mp h
    · next h =>
      have hne : i ≠ j := fun e => h (by rw [e, hj]; rfl)
      exact find_lowestFree hj n (i + 1) (by omega) (by omega)

/-- A table of fewer than 1,024 entries has a FREE one. -/
theorem exists_free {locks : SMap (Option LockEntry)} (h : locks.length < 1024) : ∃ j, j < 1024 ∧ SMap.find locks j = none := by
  by_contra! hfull
  have hsub : List.range 1024 ⊆ locks.map (·.1) := fun j hj => by
    obtain ⟨v, hv⟩ := Option.ne_none_iff_exists'.mp (hfull j (List.mem_range.mp hj))
    exact List.mem_map.mpr ⟨_, mem_of_find hv, rfl⟩
  have hle := (List.nodup_range.subperm hsub).length_le
  rw [List.length_range, List.length_map] at hle
  omega

/-- From s to t the table of k has gained a HELD entry for a request, which has ended with EVENT. -/
structure Granted (s t : State) (k : Stack) (r : LockReq) : Prop where
  held : ∃ i, SMap.get (s.memc k).locks i none = none ∧
    SMap.get (t.memc k).locks i none = some ⟨r.base, r.len, r.owner, r.epoch, r.id, none⟩ ∧
    ∀ j, j ≠ i → SMap.get (t.memc k).locks j none = SMap.get (s.memc k).locks j none
  waiters : (t.memc k).waiters = (s.memc k).waiters
  outcome : Outcome s t k r.owner r.id 0
  msgs : t.msgs = s.msgs
  mem : t.mem = s.mem

/-- The table of k with the entry of a request. -/
def State.withEntry (s : State) (k : Stack) (r : LockReq) : State := s.modMem k fun m => { m with
  locks := SMap.put m.locks (lowestFree m.locks 0 1024) (some ⟨r.base, r.len, r.owner, r.epoch, r.id, none⟩) none }

theorem State.withEntry_locks (s : State) (k : Stack) (r : LockReq) : ((s.withEntry k r).memc k).locks =
    SMap.put (s.memc k).locks (lowestFree (s.memc k).locks 0 1024) (some ⟨r.base, r.len, r.owner, r.epoch, r.id, none⟩) none :=
  congrArg MemState.locks (State.modMem_memc ..)

theorem State.withEntry_waiters (s : State) (k : Stack) (r : LockReq) : ((s.withEntry k r).memc k).waiters = (s.memc k).waiters := by
  rw [State.withEntry, State.modMem_memc]

/-- A grant makes the entry, and otherwise counts and tells the course. -/
theorem State.lockGrant_eq (s : State) (k : Stack) (r : LockReq) : ∃ w c, s.lockGrant k r =
    { s.withEntry k r with wide := w, courses := c } := by
  obtain ⟨w, hw⟩ := count_frame (s.withEntry k r) (mbase k) 0x68 0x58 1
  obtain ⟨c, hc⟩ := State.lockOutcome_eq ((s.withEntry k r).count (mbase k) 0x68 0x58 1) k r.owner r.id 0
  exact ⟨w, c, hc.trans (by rw [hw])⟩

theorem State.lockGrant_outcome (s : State) (k : Stack) (r : LockReq) : Outcome s (s.lockGrant k r) k r.owner r.id 0 := by
  obtain ⟨w, hw⟩ := count_frame (s.withEntry k r) (mbase k) 0x68 0x58 1
  exact (State.lockOutcome_outcome ((s.withEntry k r).count (mbase k) 0x68 0x58 1) k r.owner r.id 0).of_same
    (by rw [hw]; rfl) (by rw [hw]; rfl)

theorem State.lockGrant_granted (h : (s.memc k).locks.length < 1024) : Granted s (s.lockGrant k r) k r := by
  obtain ⟨j, hj, hfree⟩ := exists_free h
  have hlow : SMap.find (s.memc k).locks (lowestFree (s.memc k).locks 0 1024) = none :=
    find_lowestFree hfree 1024 0 (Nat.zero_le j) (by omega)
  have hout := s.lockGrant_outcome k r
  obtain ⟨w, c, ht⟩ := s.lockGrant_eq k r
  have hlocks : ((s.lockGrant k r).memc k).locks = ((s.withEntry k r).memc k).locks := by rw [ht]; rfl
  rw [State.withEntry_locks] at hlocks
  refine ⟨⟨_, by rw [SMap.get, hlow]; rfl, ?_, fun j hj => ?_⟩, ?_, hout, by rw [ht]; rfl, by rw [ht]; rfl⟩
  · rw [hlocks]
    exact SMap.get_put_same ..
  · rw [hlocks]
    exact SMap.get_put_other hj ..
  · rw [← s.withEntry_waiters k r, ht]
    rfl

/-- The waiting requests of k. -/
def State.withWaiters (s : State) (k : Stack) (l : List LockReq) : State := s.modMem k fun m => { m with waiters := l }

theorem State.withWaiters_memc (s : State) (k : Stack) (l : List LockReq) : (s.withWaiters k l).memc k = { s.memc k with waiters := l } :=
  State.modMem_memc ..

/-! ### A request arrives (R21, R328, R329) -/

section
variable {src : Node} (h : Oldest s ⟨src, .mem k, .lockReq r⟩ rest)
include h

theorem lockRequestArrive_of_oldest : lockRequestArrive k s = ({ s with msgs := rest } : State).lockArrive k r :=
  arrive_of_oldest h rfl _

theorem lockRequestArrive_grants (ht : (s.memc k).lockTest (s.memc k).waiters r = .grant) :
    lockRequestArrive k s = ({ s with msgs := rest } : State).lockGrant k r := by
  have ht : (({ s with msgs := rest } : State).memc k).lockTest (({ s with msgs := rest } : State).memc k).waiters r = .grant := ht
  rw [lockRequestArrive_of_oldest h, State.lockArrive, ht]

theorem lockRequestArrive_breaks (ht : (s.memc k).lockTest (s.memc k).waiters r = .broken) :
    lockRequestArrive k s = ({ s with msgs := rest } : State).lockOutcome k r.owner r.id 3 := by
  have ht : (({ s with msgs := rest } : State).memc k).lockTest (({ s with msgs := rest } : State).memc k).waiters r = .broken := ht
  rw [lockRequestArrive_of_oldest h, State.lockArrive, ht]

theorem lockRequestArrive_waits (ht : (s.memc k).lockTest (s.memc k).waiters r = .wait) : lockRequestArrive k s =
    if r.once then ({ s with msgs := rest } : State).lockOutcome k r.owner r.id 1
    else ({ s with msgs := rest } : State).withWaiters k ((s.memc k).waiters ++ [r]) := by
  have ht : (({ s with msgs := rest } : State).memc k).lockTest (({ s with msgs := rest } : State).memc k).waiters r = .wait := ht
  rw [lockRequestArrive_of_oldest h, State.lockArrive, ht]
  rfl

end

/-- A request that ends without a grant leaves the table as it was. -/
theorem lockOutcome_ends (s : State) (k : Stack) (r : LockReq) (status : Nat) (rest : List Msg) :
    let t := ({ s with msgs := rest } : State).lockOutcome k r.owner r.id status
    t.mems = s.mems ∧ Outcome s t k r.owner r.id status ∧ t.msgs = rest := by
  obtain ⟨c, hc⟩ := ({ s with msgs := rest } : State).lockOutcome_eq k r.owner r.id status
  refine ⟨by rw [hc], ?_, by rw [hc]⟩
  exact (State.lockOutcome_outcome ({ s with msgs := rest } : State) k r.owner r.id status).of_same rfl rfl

/-! ### Requests that wait (R226, R329, R333) -/

/-- The first waiting request that the table can grant, behind those that it cannot. -/
theorem MemState.grantable_of_first : ∀ (ahead before : List LockReq), m.lockTest (before ++ ahead) r = .grant →
    (∀ x q y, ahead = x ++ q :: y → m.lockTest (before ++ x) q ≠ .grant) →
    m.grantable before (ahead ++ r :: behind) = some (before ++ ahead, r, behind)
  | [], before, hg, _ => by
    rw [List.append_nil] at hg ⊢
    rw [List.nil_append, MemState.grantable, if_pos hg]
  | a :: ahead, before, hg, hn => by
    have ha : m.lockTest before a ≠ .grant := List.append_nil before ▸ hn [] a ahead rfl
    have ih := MemState.grantable_of_first ahead (before ++ [a]) (by simpa using hg) fun x q y h => by
      simpa using hn (a :: x) q y (by rw [h]; rfl)
    rw [List.cons_append, MemState.grantable, if_neg ha, ih, List.append_assoc]
    rfl

theorem lockGrantNext_of_first (hw : (s.memc k).waiters = ahead ++ r :: behind) (hg : (s.memc k).lockTest ahead r = .grant)
    (hn : ∀ x y, ahead = x ++ y → ∀ q z, y = q :: z → (s.memc k).lockTest x q ≠ .grant) :
    s.lockGrantNext k = (s.withWaiters k (ahead ++ behind)).lockGrant k r := by
  have h := MemState.grantable_of_first (m := s.memc k) (behind := behind) ahead [] hg fun x q y h => hn x _ h q y rfl
  rw [State.lockGrantNext, hw, h]
  rfl

/-- A request that its time withdraws, which the table cannot grant. -/
theorem lockTimeout_of_waiting (hw : (s.memc k).waiters = ahead ++ r :: behind) (ha : ∀ q ∈ ahead, q.owner ≠ r.owner)
    (hg : (s.memc k).lockTest ahead r ≠ .grant) : s.lockTimeout k r.owner =
      (s.withWaiters k ((ahead ++ r :: behind).filter fun q => q.owner != r.owner)).lockOutcome k r.owner r.id 1 := by
  have hf : (ahead ++ r :: behind).find? (fun q => q.owner == r.owner) = some r := by
    rw [List.find?_append, List.find?_eq_none.mpr fun q hq => by simpa using ha q hq]
    simp
  have ht : (ahead ++ r :: behind).takeWhile (fun q => q.owner != r.owner) = ahead := by
    rw [List.takeWhile_append_of_pos fun q hq => by simpa using ha q hq]
    simp
  rw [State.lockTimeout, hw, hf]
  dsimp only
  rw [ht, if_neg hg, ← hw]
  rfl

/-! ### Releases (R330) -/

section
variable {src : Node} {base : Nat} {g : Course} {epoch : BitVec 16} (h : Oldest s ⟨src, .mem k, .lockRel base g epoch⟩ rest)
include h

theorem lockRelArrive_of_oldest :
    lockRelArrive k s = ({ s with msgs := rest } : State).lockRelease k base g epoch false := arrive_of_oldest h rfl _

theorem lockRelArrive_frees {i : Nat} {l : LockEntry} (hl : (s.memc k).locks = [(i, some l)]) (hb : l.base = base)
    (hg : l.owner = g) (he : l.epoch = epoch) (ht : l.torn = none) : lockRelArrive k s =
      ({ s with msgs := rest } : State).modMem k fun m => { m with locks := SMap.put m.locks i none none } := by
  have hl : (({ s with msgs := rest } : State).memc k).locks = [(i, some l)] := hl
  rw [lockRelArrive_of_oldest h, State.lockRelease, hl, List.find?_cons_of_pos (by simp [hb, hg, he, ht])]

theorem lockRelArrive_not_held (hn : ∀ e ∈ (s.memc k).locks, ∀ l, e.2 = some l →
    ¬(l.base = base ∧ l.owner = g ∧ l.epoch = epoch ∧ l.torn = none)) :
    lockRelArrive k s = ({ s with msgs := rest } : State).raiseMem k 0x0806 none := by
  rw [lockRelArrive_of_oldest h, State.lockRelease]
  split
  · next e hf =>
    have hp := List.find?_some hf
    have hm := hn e (List.mem_of_find?_eq_some hf)
    cases hl : e.2 with
    | none => rw [hl] at hp; cases hp
    | some l =>
      rw [hl] at hp
      exact absurd (by simpa [and_assoc] using hp) (hm l hl)
  · rfl

end

end

/-- Settles O43: an arrival, a grant, a timeout and a release of the lock table, each by the equation of its command. -/
theorem locksGrantAndRelease : Obligations.LocksGrantAndRelease := by
  intro s k r rest hr m held
  refine ⟨fun src ho => ⟨fun hg hlen _ => ?_, fun hb => ?_, fun hw hn => ?_, fun hw hn => ?_⟩, MemState.lockTest_broken_iff,
    fun ahead behind hw hg hlen _ hfirst => ?_, fun ahead behind hw hown hg => ?_, fun src g base epoch ho => ⟨?_, ?_⟩⟩
  · refine ⟨_, congrArg Host.Outcome.next (lockRequestArrive_grants ho hg), ?_⟩
    have h := State.lockGrant_granted (s := { s with msgs := rest }) (r := r) hlen
    exact ⟨h.held, h.waiters, h.outcome.of_same rfl rfl, h.msgs, h.mem⟩
  · exact ⟨_, congrArg Host.Outcome.next (lockRequestArrive_breaks ho hb), lockOutcome_ends s k r 3 rest⟩
  · refine ⟨_, congrArg Host.Outcome.next ((lockRequestArrive_waits ho hw).trans (if_neg (by simp [hn]))), ?_⟩
    have hm := ({ s with msgs := rest } : State).withWaiters_memc k (m.waiters ++ [r])
    exact ⟨by rw [hm], by rw [hm]; rfl, rfl, rfl⟩
  · exact ⟨_, congrArg Host.Outcome.next ((lockRequestArrive_waits ho hw).trans (if_pos hn)), lockOutcome_ends s k r 1 rest⟩
  · refine ⟨_, (ifDie_runs hr).trans (congrArg _ (lockGrantNext_of_first hw hg hfirst)), ?_⟩
    have hm := s.withWaiters_memc k (ahead ++ behind)
    have h := State.lockGrant_granted (s := s.withWaiters k (ahead ++ behind)) (k := k) (r := r) (by rwa [hm])
    obtain ⟨hheld, hwait, hout, -, hmem⟩ := h
    rw [hm] at hheld hwait
    exact ⟨hheld, hwait, hout.of_same rfl rfl, hmem⟩
  · refine ⟨_, (ifDie_runs hr).trans (congrArg _ (lockTimeout_of_waiting hw hown hg)), ?_⟩
    generalize hl : (ahead ++ r :: behind).filter (fun q => q.owner != r.owner) = l
    obtain ⟨c, hc⟩ := (s.withWaiters k l).lockOutcome_eq k r.owner r.id 1
    have hout := (s.withWaiters k l).lockOutcome_outcome k r.owner r.id 1
    have hm : ((s.withWaiters k l).lockOutcome k r.owner r.id 1).memc k = { m with waiters := l } := by
      rw [hc]
      exact s.withWaiters_memc k l
    refine ⟨fun q hq => ?_, by rw [hm], hout.of_same rfl rfl, by rw [hc]; rfl⟩
    rw [hm, ← hl] at hq
    simpa using (List.mem_filter.mp hq).2
  · intro i l hl hb hg he ht
    refine ⟨_, congrArg Host.Outcome.next (lockRelArrive_frees ho hl hb hg he ht), ?_, rfl, rfl, rfl⟩
    rw [State.modMem_memc]
    exact SMap.get_put_same i none none m.locks
  · intro hn
    refine ⟨_, congrArg Host.Outcome.next (lockRelArrive_not_held ho hn), ?_⟩
    have hp := State.raiseWith_presents_report ({ s with msgs := rest } : State) (stackDie k)
      (plainReport 0x0806 0x0A (BitVec.ofNat 8 (k.val % 2)) 0xF) none
    obtain ⟨d, x, w, n, he⟩ := State.raiseWith_reports ({ s with msgs := rest } : State) (stackDie k)
      (plainReport 0x0806 0x0A (BitVec.ofNat 8 (k.val % 2)) 0xF) none
    exact ⟨(congrArg State.mems he :), hp, (congrArg State.msgs he :)⟩

end Sys2Proof.Machine

/-! SUPPORT. Lines of near memory: which marks of poison a write sets and clears, what an error that is found in a line changes, and
how the channels of a stack retire (R314 to R321). -/

namespace Sys2Proof.Machine

section
variable {s t : State} {k : Stack} {line : Nat} {a : Nat} {bs : List Byte}

/-- The address of a line of a stack. -/
def lineAt (k : Stack) (line : Nat) : Nat := k.val * 0x1000000000 + 64 * line

theorem lineAt_aligned (k : Stack) (line : Nat) : lineAt k line % 64 = 0 := by
  unfold lineAt
  omega

/-! ### Marks of poison (R255, R315) -/

/-- The mark of a line is that of its 64 bytes. -/
theorem State.setPoison_marks (s : State) (ha : a % 64 = 0) (v : Bool) (b : Nat) :
    (s.setPoison a v).poisoned b = if a ≤ b ∧ b < a + 64 then v else s.poisoned b := by
  unfold State.poisoned State.setPoison
  split
  · have hb : b / 64 = a / 64 := by omega
    rw [hb]
    exact SMap.get_put_same ..
  · have hb : b / 64 ≠ a / 64 := by omega
    exact SMap.get_put_other hb ..

theorem State.putBytes_poisoned (s : State) (a : Nat) (bs : List Byte) (b : Nat) : (s.putBytes a bs).poisoned b = s.poisoned b := by
  rw [State.putBytes_eq]
  rfl

/-- A write of a whole line clears its mark. -/
theorem storeP_whole (ha : a % 64 = 0) (hl : bs.length = 64) (b : Nat) :
    (s.storeP a bs false).poisoned b = if a ≤ b ∧ b < a + 64 then false else s.poisoned b := by
  have hone : (a + 64) / 64 - (a + 63) / 64 = 1 := by omega
  have hat : 64 * ((a + 63) / 64) = a := by omega
  have he : s.storeP a bs false = (s.putBytes a bs).setPoison a false := by
    show (s.putBytes a bs).cleanLines a bs.length = _
    rw [hl, State.cleanLines, hone]
    simp [hat]
  rw [he, State.setPoison_marks _ ha, State.putBytes_poisoned]

/-- Poisoned data mark the line that they are written to. -/
theorem storeP_poison (ha : a % 64 = 0) {o : Nat} (hl : o + bs.length ≤ 64) (h1 : 1 ≤ bs.length) (b : Nat) :
    (s.storeP (a + o) bs true).poisoned b = if a ≤ b ∧ b < a + 64 then true else s.poisoned b := by
  have hone : (a + o + bs.length + 63) / 64 - (a + o) / 64 = 1 := by omega
  have hat : 64 * ((a + o) / 64) = a := by omega
  have he : s.storeP (a + o) bs true = (s.putBytes (a + o) bs).setPoison a true := by
    rw [State.storeP, if_pos rfl, hone]
    simp [hat]
  rw [he, State.setPoison_marks _ ha, State.putBytes_poisoned]

/-! ### Writes of a line (R315) -/

theorem memAccess_whole (hb : s.lineBacked k line = true) (hl : bs.length = 64) (p : Bool) (e : LineErr) :
    s.memAccess k line (some (0, bs, p)) e none = s.storeP (lineAt k line) bs p := by
  have hw : bs.take 64 = bs := List.take_of_length_le (by omega)
  rw [State.memAccess, if_pos hb]
  simp [hl, hw, lineAt]

/-- A write that finds no error writes its bytes where they belong in the line. -/
theorem memAccess_writes (hb : s.lineBacked k line = true) {o : Nat} (ho : o < 64) (hl : o + bs.length ≤ 64) (p : Bool) :
    s.memAccess k line (some (o, bs, p)) .ok none = s.storeP (lineAt k line + o) bs p := by
  have hw : bs.take (64 - o % 64) = bs := List.take_of_length_le (by omega)
  rw [State.memAccess, if_pos hb]
  dsimp only
  rw [hw, Nat.mod_eq_of_lt ho]
  split
  · next h =>
    rw [h.1, Nat.add_zero, lineAt]
  · rfl

theorem memAccess_reads (hb : s.lineBacked k line = true) (e : LineErr) :
    s.memAccess k line none e none = s.lineFound k line e false := if_pos hb

theorem patrolVisit_finds (h : 9 ≤ (s.reg (pr 0)).toNat % 16) (hb : s.lineBacked k line = true) (e : LineErr) :
    s.patrolVisit k line e false = s.lineFound k line e true := by
  simp [State.patrolVisit, h, hb]

theorem patrolVisit_early (h : (s.reg (pr 0)).toNat % 16 < 9) (e : LineErr) (sweep : Bool) : s.patrolVisit k line e sweep = s := by
  have hn : ¬9 ≤ (s.reg (pr 0)).toNat % 16 := by omega
  simp [State.patrolVisit, hn]

/-! ### A line that is lost (R314) -/

theorem lineUncorrectable_poisoned (h : s.poisoned (lineAt k line) = true) (patrol : Bool) :
    s.lineUncorrectable k line patrol = s := if_pos h

/-- A line that is found uncorrectable is marked, reported and captured. -/
structure LineLost (s t : State) (k : Stack) (line : Nat) (patrol : Bool) : Prop where
  only : OnlyMemBlock s t
  marks : ∀ b, t.poisoned b = if lineAt k line ≤ b ∧ b < lineAt k line + 64 then true else s.poisoned b
  reported : ∃ r, (t.die (stackDie k)).presented = (s.die (stackDie k)).presented ++ [r] ∧ r.code = 0x0802 ∧ r.srcUnit = 0x0A ∧
    r.info = BitVec.ofNat 64 (lineAt k line)
  captured : (s.reg (mr k 0x88)).getLsbD 31 = false →
    t.reg (mr k 0x88) = BitVec.ofNat 32 (0x80000000 + if patrol then 1 else 0) ∧
      t.reg64 (mr k 0x80) = BitVec.ofNat 64 (lineAt k line)

/-- The report of a line that is lost (R314, R583). -/
def lineReport (k : Stack) (line : Nat) : Report :=
  { plainReport 0x0802 0x0A (BitVec.ofNat 8 (k.val % 2)) 0xF with info := BitVec.ofNat 64 (lineAt k line) }

/-- The line is marked and reported; what remains is to count and capture it. -/
def State.lineTold (s : State) (k : Stack) (line : Nat) : State :=
  (s.setPoison (lineAt k line) true).raise (stackDie k) (lineReport k line)

theorem lineUncorrectable_lost (h : s.poisoned (lineAt k line) = false) (patrol : Bool) :
    LineLost s (s.lineUncorrectable k line patrol) k line patrol := by
  obtain ⟨w, hw⟩ := count_frame (s.lineTold k line) (mbase k) 0x68 0x40 1
  have ht : s.lineUncorrectable k line patrol = { s.lineTold k line with wide := w }.capture1 (mr k 0x88)
      (if patrol then 1 else 0) (some (mr k 0x80)) (lineAt k line) := by
    rw [← hw]
    exact if_neg (ne_true_of_eq_false h)
  obtain ⟨m, x, hc⟩ := capture1_frame { s.lineTold k line with wide := w } (mr k 0x88)
    (if patrol then 1 else 0) (lineAt k line) (some (mr k 0x80))
  rw [ht]
  refine ⟨?_, fun b => ?_, ⟨lineReport k line, ?_, rfl, rfl, rfl⟩, fun hv => State.capture1_captures hv⟩
  · rw [hc]
    exact ⟨rfl, rfl, rfl, rfl, rfl, rfl⟩
  · rw [hc, ← s.setPoison_marks (lineAt_aligned k line)]
    rfl
  · rw [hc]
    exact congrArg DieState.presented (State.raise_die ..)

/-! ### An error that is corrected (R314, R317) -/

/-- A counter that is not frozen counts, up to its largest value. -/
theorem State.count_reg64 {base ctrl cnt n : Nat} (h : (s.reg (base + ctrl)).getLsbD 0 = false) :
    (s.count base ctrl cnt n).reg64 (base + cnt) = BitVec.ofNat 64 (min ((s.reg64 (base + cnt)).toNat + n) (2 ^ 64 - 1)) := by
  rw [State.count, if_neg (ne_true_of_eq_false h), State.setReg64_reg64]
  rfl

/-- The corrected error of a line is counted, and the line is listed for its channel. -/
def State.lineNoted (s : State) (k : Stack) (line : Nat) (c : Fin 32) : State :=
  if (s.memc k).corrected.contains (c.val, line) then s.count (mbase k) 0x68 0x38 1
  else (s.count (mbase k) 0x68 0x38 1).modMem k fun m => { m with corrected := (c.val, line) :: m.corrected }

theorem lineNoted_eq (s : State) (k : Stack) (line : Nat) (c : Fin 32) : ∃ m, s.lineNoted k line c =
    { s.count (mbase k) 0x68 0x38 1 with mems := m } := by
  unfold State.lineNoted
  split <;> exact ⟨_, rfl⟩

theorem lineNoted_corrected (s : State) (k : Stack) (line : Nat) (c : Fin 32) : ((s.lineNoted k line c).memc k).corrected =
    if (s.memc k).corrected.contains (c.val, line) then (s.memc k).corrected else (c.val, line) :: (s.memc k).corrected := by
  obtain ⟨w, hw⟩ := count_frame s (mbase k) 0x68 0x38 1
  unfold State.lineNoted
  rw [hw]
  split
  · rfl
  · rw [State.modMem_memc]
    rfl

theorem lineFound_noted {c : Fin 32} (hh : s.holdsLine k c (64 * line) = true)
    (hn : ((s.memc k).corrected.filter fun e => e.1 == c.val).length < (s.reg (mr k 0xC)).toNat) (patrol : Bool) :
    s.lineFound k line (.corrected c) patrol = s.lineNoted k line c := by
  have hle : (((s.lineNoted k line c).memc k).corrected.filter fun e => e.1 == c.val).length ≤
      ((s.memc k).corrected.filter fun e => e.1 == c.val).length + 1 := by
    rw [lineNoted_corrected]
    split
    · exact Nat.le_succ _
    · rw [List.filter_cons_of_pos (by simp), List.length_cons]
  have hreg : (s.lineNoted k line c).reg (mr k 0xC) = s.reg (mr k 0xC) := by
    obtain ⟨w, hw⟩ := count_frame s (mbase k) 0x68 0x38 1
    obtain ⟨m, hm⟩ := lineNoted_eq s k line c
    rw [hm, hw]
    rfl
  have hlim : ¬(s.reg (mr k 0xC)).toNat < (((s.lineNoted k line c).memc k).corrected.filter fun e => e.1 == c.val).length := by
    omega
  rw [← hreg] at hlim
  exact (if_pos hh).trans (if_neg hlim)

/-! ### Channels retire (R319 to R321) -/

theorem retireCommand {g : Agent} {v : Word} (h : Reaches s g (mr k 4)) : s.command g (mr k 4) v = s.wrRetireCtrl k v := by
  have hr : regRow (.mem k) 4 = some (reg32 4 1 0) := rfl
  exact command_of_reaches h (locate_mr k (by omega)) (fun _ => Blk.noConfusion) hr rfl

/-- GO, with MODE as written. -/
theorem wrRetireCtrl_go (s : State) (k : Stack) (v : Word) :
    s.wrRetireCtrl k (v ||| 2) = (s.setReg (mr k 4) (v &&& 1)).retireGo k := by
  have hgo : (v ||| 2).getLsbD 1 = true := by simp
  have hmode : (v ||| 2) &&& 1 = v &&& 1 := by
    rw [BitVec.and_or_distrib_right]
    simp
  rw [State.wrRetireCtrl, if_pos hgo, hmode]

theorem retireGo_pending {c : Fin 32} (h : (s.memc k).cur = some (c, false)) :
    s.retireGo k = s.modMem k fun m => { m with removed := m.removed + 1, cur := some (c, true) } := by
  rw [State.retireGo, h]

theorem retireNext_idle (hf : (s.memc k).failing = []) : s.retireNext k = s := by
  rw [State.retireNext, hf]
  split
  · next h => cases h
  · rfl

theorem retireNext_begins {d : Fin 32} {ds : List (Fin 32)} (hc : (s.memc k).cur = none) (hf : (s.memc k).failing = d :: ds)
    (hm : (s.reg (mr k 4)).getLsbD 0 = false) :
    s.retireNext k = s.modMem k fun m => { m with failing := ds, cur := some (d, false) } := by
  rw [State.retireNext, hc, hf]
  exact if_neg (ne_true_of_eq_false hm)

/-- A channel is retired and reported, and no other migrates. -/
def State.channelRetired (s : State) (k : Stack) (c : Fin 32) : State :=
  ((s.orReg (mr k 0) (BitVec.ofNat 32 (2 ^ c.val))).raiseMem k 0x0803 none).modMem k fun m => { m with cur := none }

theorem migrationDone_of_migrating {c : Fin 32} (h : (s.memc k).cur = some (c, true)) :
    s.migrationDone k = (s.channelRetired k c).retireNext k := by
  rw [State.migrationDone, h]
  rfl

theorem channelRetired_memc (s : State) (k : Stack) (c : Fin 32) :
    ((s.channelRetired k c).memc k).cur = none ∧ ((s.channelRetired k c).memc k).failing = (s.memc k).failing := by
  obtain ⟨d, r, w, n, he⟩ := State.raiseWith_reports (s.orReg (mr k 0) (BitVec.ofNat 32 (2 ^ c.val))) (stackDie k)
    (plainReport 0x0803 0x0A (BitVec.ofNat 8 (k.val % 2)) 0xF) none
  rw [State.channelRetired, State.modMem_memc, State.raiseMem, he]
  exact ⟨rfl, rfl⟩

theorem channelRetired_reg (s : State) (k : Stack) (c : Fin 32) (o : Nat) :
    (s.channelRetired k c).reg o = (s.orReg (mr k 0) (BitVec.ofNat 32 (2 ^ c.val))).reg o := State.raiseWith_reg ..

theorem channelRetired_only (s : State) (k : Stack) (c : Fin 32) : OnlyMemBlock s (s.channelRetired k c) := by
  obtain ⟨d, r, w, n, he⟩ := State.raiseWith_reports (s.orReg (mr k 0) (BitVec.ofNat 32 (2 ^ c.val))) (stackDie k)
    (plainReport 0x0803 0x0A (BitVec.ofNat 8 (k.val % 2)) 0xF) none
  rw [State.channelRetired, State.raiseMem, he]
  exact ⟨rfl, rfl, rfl, rfl, rfl, rfl⟩

theorem channelRetired_presents (s : State) (k : Stack) (c : Fin 32) :
    Presents s (s.channelRetired k c) (stackDie k) 0x0803 0x0A :=
  (State.raiseWith_presents_report (s.orReg (mr k 0) (BitVec.ofNat 32 (2 ^ c.val))) (stackDie k)
    (plainReport 0x0803 0x0A (BitVec.ofNat 8 (k.val % 2)) 0xF) none).of_die rfl

end

/-! ### The parts of the obligation -/

theorem lines_of_near_memory : linesOfNearMemory := by
  intro s k line a found hr hb
  have whole (bs : List Byte) (e : LineErr) (hl : bs.length = 64) :
      exec (.memAccess k line (some (0, bs, false)) e none) s = .next (s.storeP a bs false) :=
    congrArg Host.Outcome.next (memAccess_whole hb hl false e)
  have write (o : Fin 64) (bs : List Byte) (p : Bool) (hl : o.val + bs.length ≤ 64) :
      exec (.memAccess k line (some (o, bs, p)) .ok none) s = .next (s.storeP (a + o.val) bs p) :=
    congrArg Host.Outcome.next (memAccess_writes hb o.isLt hl p)
  have read (e : LineErr) : exec (.memAccess k line none e none) s = .next (s.lineFound k line.val e false) :=
    congrArg Host.Outcome.next (memAccess_reads hb e)
  have patrol (h : 9 ≤ (s.reg (pr 0)).toNat % 16) (e : LineErr) :
      exec (.patrolVisit k line e false) s = .next (s.lineFound k line.val e true) :=
    (ifDie_runs hr).trans (congrArg _ (patrolVisit_finds h hb e))
  refine ⟨fun bs e hl => ⟨_, whole bs e hl, ?_⟩, fun o bs ho hl => ⟨_, write o bs false ho, ?_⟩,
    fun o bs ho h1 => ⟨_, write o bs true ho, (storeP_puts s _ bs true).byte, storeP_poison (lineAt_aligned k line.val) ho h1⟩,
    fun hp => ?_, fun hp => ?_, fun h e b => (ifDie_runs hr).trans (congrArg _ (patrolVisit_early h e b)), fun c hh hn => ?_⟩
  · obtain ⟨⟨m, p, he⟩, hbyte⟩ := storeP_puts s a bs false
    rw [hl] at hbyte
    exact ⟨hbyte, storeP_whole (lineAt_aligned k line.val) hl, by rw [he], by rw [he]⟩
  · have he := s.store_short (a + o.val) bs hl
    rw [State.store_eq_storeP] at he
    exact ⟨(storeP_puts s _ bs false).byte, by rw [he], by rw [he], by rw [he]⟩
  · have hlost (patrol : Bool) := lineUncorrectable_lost hp patrol
    obtain ⟨ho, hm, hrep, hcap⟩ := hlost false
    obtain ⟨ho', hm', hrep', hcap'⟩ := hlost true
    exact ⟨⟨_, read .uncorrectable, ho, hm, hrep, hcap⟩, fun h => ⟨_, patrol h .uncorrectable, ho', hm', hrep', hcap'⟩⟩
  · exact ⟨(read .uncorrectable).trans (congrArg _ (lineUncorrectable_poisoned hp false)),
      fun h => (patrol h .uncorrectable).trans (congrArg _ (lineUncorrectable_poisoned hp true))⟩
  · refine ⟨_, (read (.corrected c)).trans (congrArg _ (lineFound_noted hh hn false)), ?_⟩
    obtain ⟨w, hw⟩ := count_frame s (mbase k) 0x68 0x38 1
    obtain ⟨m, hm⟩ := lineNoted_eq s k line.val c
    have he := hm.trans (by rw [hw])
    refine ⟨by rw [he]; exact ⟨rfl, rfl, rfl, rfl, rfl, rfl⟩, by rw [he], by rw [he], ?_, fun hf => ?_⟩
    · rw [lineNoted_corrected]
      split
      · next hc => exact List.contains_iff_mem.mp hc
      · exact List.mem_cons_self
    · rw [hm]
      exact State.count_reg64 hf

theorem channels_retire : channelsRetire := by
  intro s k c hr
  have done (h : (s.memc k).cur = some (c, true)) : exec (.retireMigrationDone k) s = .next ((s.channelRetired k c).retireNext k) :=
    (ifDie_runs hr).trans (congrArg _ (migrationDone_of_migrating h))
  obtain ⟨hcur, hfail⟩ := channelRetired_memc s k c
  refine ⟨fun a v ha hc => ?_, fun hc hf => ?_, fun d ds hc hf hm => ?_⟩
  · refine ⟨_, congrArg Host.Outcome.next ((retireCommand ha).trans ((wrRetireCtrl_go s k v).trans (retireGo_pending hc))), ?_⟩
    exact ⟨⟨rfl, rfl, rfl, rfl, rfl, rfl⟩, by rw [State.modMem_memc], by rw [State.modMem_memc]; rfl, State.setReg_reg .., rfl⟩
  · refine ⟨_, (done hc).trans (congrArg _ (retireNext_idle (hfail.trans hf))), channelRetired_only s k c, hcur, ?_,
      channelRetired_presents s k c⟩
    rw [channelRetired_reg]
    exact State.setReg_reg ..
  · have hmode : ((s.channelRetired k c).reg (mr k 4)).getLsbD 0 = false := by
      rw [channelRetired_reg, State.orReg, State.setReg_reg_ne _ (by unfold mr; omega)]
      exact hm
    refine ⟨_, (done hc).trans (congrArg _ (retireNext_begins hcur (hfail.trans hf) hmode)), ?_⟩
    exact ⟨by rw [State.modMem_memc], by rw [State.modMem_memc]⟩

/-- Settles O42: an access to a line by what it writes and what it finds, and the retirement of a channel from GO to its end. -/
theorem nearMemoryLines : Obligations.NearMemoryLines := ⟨lines_of_near_memory, channels_retire⟩

end Sys2Proof.Machine

/-! SUPPORT. Far memory: the bytes of a line at its device and the poison of a line, the loss of lanes and of a link, and the writes
of key slots and regions (R334 to R339, R343). -/

namespace Sys2Proof.Machine

section
variable {s t : State} {l : LinkId} {line n o : Nat} {bs : List Byte} {p prot : Bool}

/-! ### The bytes that a device holds (R337; log entry 4) -/

/-- What a run of entries leaves at a key. -/
theorem find_foldl_ins {V : Type} (f : Nat → V) (m : SMap V) (b n key : Nat) :
    SMap.find ((List.range n).foldl (fun m i => SMap.ins m (b + i) (f i)) m) key =
      if b ≤ key ∧ key < b + n then some (f (key - b)) else SMap.find m key := by
  induction n with
  | zero => rw [if_neg (by omega)]; rfl
  | succ n ih =>
    rw [List.range_succ, List.foldl_append, List.foldl_cons, List.foldl_nil]
    by_cases hk : key = b + n
    · rw [hk, SMap.find_ins_same, if_pos (by omega), Nat.add_sub_cancel_left]
    · rw [SMap.find_ins_other hk, ih]
      exact if_congr (by omega) rfl rfl

/-- A line reads as the bytes that it was given. -/
theorem media64_putMedia (f : FarState) (n : Nat) (bs : List Byte) (p : Bool) {i : Nat} (hi : i < 64) :
    ((f.putMedia n bs p).media64 n).getD i 0 = bs.getD i 0 := by
  have hf : SMap.find (f.putMedia n bs p).media (64 * n + i) = some (bs.getD i 0) := by
    rw [FarState.putMedia, find_foldl_ins (fun i => bs.getD i 0), if_pos (by omega), Nat.add_sub_cancel_left]
  simp [FarState.media64, List.getD_eq_getElem?_getD, hi, hf]

theorem FarState.media64_length (f : FarState) (n : Nat) : (f.media64 n).length = 64 := by simp [FarState.media64]

/-- Bytes of a line over which others are written from o. -/
theorem getD_overwritten {old : List Byte} (ho : o + bs.length ≤ old.length) (i : Nat) :
    (old.take o ++ bs ++ old.drop (o + bs.length)).getD i 0 =
      if o ≤ i ∧ i < o + bs.length then bs.getD (i - o) 0 else old.getD i 0 := by
  have hl : (old.take o).length = o := by
    rw [List.length_take]
    omega
  split
  · next h =>
    rw [List.append_assoc, List.getD_append_right _ _ _ _ (by omega), hl, List.getD_append _ _ _ _ (by omega)]
  · next h =>
    by_cases hi : i < o
    · rw [List.append_assoc, List.getD_append _ _ _ _ (by omega)]
      simp [List.getD_eq_getElem?_getD, hi]
    · rw [List.getD_append_right _ _ _ _ (by rw [List.length_append]; omega), List.length_append, hl]
      have hsum : o + bs.length + (i - (o + bs.length)) = i := by omega
      simp [List.getD_eq_getElem?_getD, hsum]

/-! ### Accesses (R335, R337, R338) -/

/-- The line of far memory that a line of a link's window is. -/
def farLine (l : LinkId) (line : Nat) : Nat := (farBase + l.val * 0x8000000000) / 64 + line

/-- A link that is down reaches no device, and one that is up serves the lines that are backed. -/
theorem farAccess_reads (h : s.farOk (64 * farLine l line) 64 = true) :
    farAccess l line none prot false s = (s.farReadLine l (farLine l line)).2.2 := by
  unfold farLine at *
  simp [farAccess, h]

theorem farAccess_writes (h : s.farUp l = false ∨ s.farOk (64 * farLine l line) 64 = true) :
    farAccess l line (some (o, bs, p)) prot false s = s.farWriteLine l (farLine l line) o (bs.take (64 - o)) p prot := by
  unfold farLine at *
  obtain h | h := h <;> simp [farAccess, h]

theorem farWriteLine_down (h : s.farUp l = false) : s.farWriteLine l n o bs p prot = s.count (fr l 0) 0x20 0x18 1 := by
  simp [State.farWriteLine, h]

theorem farWriteLine_plain (h : s.farUp l = true) (hm : s.farMode l (64 * n) = .plain) : s.farWriteLine l n o bs p prot =
    s.modFar l fun f => f.putMedia n ((f.media64 n).take o ++ bs ++ (f.media64 n).drop (o + bs.length))
      (p || (!(decide (o = 0) && decide (bs.length = 64)) && SMap.get (s.farc l).poison n false)) := by
  simp only [State.farWriteLine, h, hm]
  rfl

theorem farReadLine_plain (h : s.farUp l = true) (hm : s.farMode l (64 * n) = .plain) : (s.farReadLine l n).2.2 =
    if SMap.get (s.farc l).poison n false then
      (s.raiseFar l 0x0903 (some (BitVec.ofNat 64 (64 * n)))).count (fr l 0) 0x20 0x10 1
    else s := by
  simp only [State.farReadLine, h, hm, Bool.not_true, Bool.false_eq_true, if_false]
  split <;> rfl

/-- A write of a line in no enabled region changes its bytes and its poison at the device, and nothing else (R337; log entry 12). -/
theorem farWriteLine_plain_writes (h : s.farUp l = true) (hm : s.farMode l (64 * n) = .plain) (ho : o + bs.length ≤ 64) :
    let t := s.farWriteLine l n o bs p prot
    (∀ i, i < 64 → ((t.farc l).media64 n).getD i 0 =
      if o ≤ i ∧ i < o + bs.length then bs.getD (i - o) 0 else ((s.farc l).media64 n).getD i 0) ∧
    SMap.get (t.farc l).poison n false = (p || (decide (bs.length < 64) && SMap.get (s.farc l).poison n false)) ∧
    (∀ j, j ≠ l → t.farc j = s.farc j) ∧ t.dies = s.dies ∧ t.mem = s.mem ∧ t.courses = s.courses := by
  rw [farWriteLine_plain h hm]
  refine ⟨fun i hi => ?_, ?_, fun j hj => vector_get_set_ne _ hj _, rfl, rfl, rfl⟩
  · rw [State.modFar_farc, media64_putMedia _ _ _ _ hi]
    exact getD_overwritten (by rw [FarState.media64_length]; exact ho) i
  · have hpart : (!(decide (o = 0) && decide (bs.length = 64))) = decide (bs.length < 64) := by
      by_cases hl : bs.length = 64
      · have ho : o = 0 := by omega
        simp [hl, ho]
      · have hlt : bs.length < 64 := by omega
        simp [hl, hlt]
    rw [State.modFar_farc, hpart]
    exact SMap.get_put_same ..

/-- A read of a poisoned line is reported and counted (R338). -/
theorem farReadLine_poisoned (h : s.farUp l = true) (hm : s.farMode l (64 * n) = .plain)
    (hp : SMap.get (s.farc l).poison n false = true) :
    Reports s (s.farReadLine l n).2.2 ∧ Presents s (s.farReadLine l n).2.2 (linkDie l) 0x0903 0x0F := by
  rw [farReadLine_plain h hm, if_pos hp]
  obtain ⟨w, hw⟩ := count_frame (s.raiseFar l 0x0903 (some (BitVec.ofNat 64 (64 * n)))) (fr l 0) 0x20 0x10 1
  have hrep : Presents s (s.raiseFar l 0x0903 (some (BitVec.ofNat 64 (64 * n)))) (linkDie l) 0x0903 0x0F :=
    State.raiseWith_presents_report ..
  exact ⟨(State.raiseFar_reports ..).trans (State.count_reports ..), hrep.of_die (by rw [hw]; rfl)⟩

theorem farReadLine_unpoisoned (h : s.farUp l = true) (hm : s.farMode l (64 * n) = .plain)
    (hp : SMap.get (s.farc l).poison n false = false) : (s.farReadLine l n).2.2 = s := by
  rw [farReadLine_plain h hm, if_neg (ne_true_of_eq_false hp)]

theorem Reports.fars (h : Reports s t) : t.fars = s.fars := by
  obtain ⟨_, _, _, _, rfl⟩ := h
  rfl

theorem Reports.courses (h : Reports s t) : t.courses = s.courses := by
  obtain ⟨_, _, _, _, rfl⟩ := h
  rfl

/-! ### Links (R334, R335) -/

/-- A link is lost: its window is not backed, and the loss is reported. -/
structure LinkGone (s t : State) (l : LinkId) : Prop where
  down : t.farUp l = false
  unbacked : t.reg64 (fr l 8) = 0
  reported : Presents s t (linkDie l) 0x0902 0x0F
  only : Reports s t

/-- FAR_STATUS and the capacity of a link that is lost. -/
def State.unlinked (s : State) (l : LinkId) : State :=
  (s.setReg (fr l 0) (s.reg (fr l 0) &&& 0x100)).setReg64 (fr l 8) 0

theorem unlinked_down (s : State) (l : LinkId) : (s.unlinked l).farUp l = false := by
  rw [State.farUp, State.unlinked, State.setReg64_reg, State.setReg_reg]
  simp

theorem linkLost_gone (h : s.farUp l = true) : LinkGone s (s.linkLost l) l := by
  have ht : s.linkLost l = (s.unlinked l).raiseFar l 0x0902 none := if_pos h
  have hp : Presents (s.unlinked l) ((s.unlinked l).raiseFar l 0x0902 none) (linkDie l) 0x0902 0x0F :=
    State.raiseWith_presents_report ..
  rw [ht]
  refine ⟨?_, ?_, hp, ?_⟩
  · rw [← unlinked_down s l, State.farUp, State.raiseFar, State.raiseWith_reg]
    rfl
  · rw [State.raiseFar, State.raiseWith_reg64]
    exact State.setReg64_reg64 ..
  · exact Reports.trans ⟨_, _, _, _, rfl⟩ (State.raiseFar_reports ..)

theorem linkLost_down (h : s.farUp l = false) : s.linkLost l = s := if_neg (ne_true_of_eq_false h)

/-- One half of a link has no failed lane where only one lane has failed. -/
theorem one_lane_one_half (lane : Fin 16) : ¬((1#16 <<< lane.val) &&& 0xFF ≠ 0 ∧ (1#16 <<< lane.val) &&& 0xFF00 ≠ 0) := by
  revert lane
  decide

theorem and_ne_zero_of_common {x m : BitVec 16} {i : Nat} (hx : x.getLsbD i = true) (hm : m.getLsbD i = true) : x &&& m ≠ 0 := by
  intro h
  have hi := congrArg (fun y : BitVec 16 => y.getLsbD i) h
  simp [hx, hm] at hi

/-- Lanes failed in both halves. -/
theorem both_halves {x : BitVec 16} {i j : Nat} (hi : i < 8) (hx : x.getLsbD i = true) (hj : 8 ≤ j) (hx' : x.getLsbD j = true) :
    x &&& 0xFF ≠ 0 ∧ x &&& 0xFF00 ≠ 0 := by
  have hlow : ∀ i : Fin 8, (0xFF#16).getLsbD i.val = true := by decide
  have hhigh : ∀ j : Fin 16, 8 ≤ j.val → (0xFF00#16).getLsbD j.val = true := by decide
  have hj' : j < 16 := BitVec.lt_of_getLsbD hx'
  exact ⟨and_ne_zero_of_common hx (hlow ⟨i, hi⟩), and_ne_zero_of_common hx' (hhigh ⟨j, hj'⟩ hj)⟩

/-- The link with its failed lanes noted, for the ledger too. -/
def State.lanesNoted (s : State) (l : LinkId) (bad : BitVec 16) : State :=
  (s.modFar l fun f => { f with bad := bad }).failed ⟨(linkDie l).val, 0x0F, l.val % 4, 0, bad.toNat⟩

theorem lanesNoted_bad (s : State) (l : LinkId) (bad : BitVec 16) : ((s.lanesNoted l bad).farc l).bad = bad := by
  show ((s.modFar l fun f => { f with bad := bad }).farc l).bad = bad
  rw [State.modFar_farc]

/-- A link at x8. -/
def State.halved (s : State) (l : LinkId) : State :=
  (s.setReg (fr l 0) ((s.reg (fr l 0) &&& 0xFFFFFF83) ||| BitVec.ofNat 32 (4 * 8))).raiseFar l 0x0901 none

theorem cxlLaneFail_eq {lane : Fin 16} (h : s.farUp l = true) (hb : (s.farc l).bad.getLsbD lane.val = false) :
    cxlLaneFail l lane s =
      let bad := (s.farc l).bad ||| (1#16 <<< lane.val)
      let t := s.lanesNoted l bad
      if bad &&& 0xFF ≠ 0 ∧ bad &&& 0xFF00 ≠ 0 then t.linkLost l else if s.linkWidth l = 16 then t.halved l else t := by
  have hc : ¬((!s.farUp l || (s.farc l).bad.getLsbD lane.val) = true) := by
    rw [h, hb]
    exact Bool.false_ne_true
  exact if_neg hc

theorem halved_reports (s : State) (l : LinkId) : Reports s (s.halved l) ∧ Presents s (s.halved l) (linkDie l) 0x0901 0x0F :=
  ⟨.trans ⟨_, _, _, _, rfl⟩ (State.raiseFar_reports ..), State.raiseWith_presents_report ..⟩

/-- The first lane of a x16 link that fails leaves the link at x8. -/
theorem cxlLaneFail_first {lane : Fin 16} (h : s.farUp l = true) (hb : (s.farc l).bad = 0) (hw : s.linkWidth l = 16) :
    cxlLaneFail l lane s = (s.lanesNoted l (1#16 <<< lane.val)).halved l := by
  have hbad : (s.farc l).bad ||| (1#16 <<< lane.val) = 1#16 <<< lane.val := by simp [hb]
  rw [cxlLaneFail_eq h (by simp [hb]), hbad]
  exact (if_neg (one_lane_one_half lane)).trans (if_pos hw)

/-- Failures in both halves lose the link. -/
theorem cxlLaneFail_both {lane : Fin 16} (h : s.farUp l = true) (hb : (s.farc l).bad.getLsbD lane.val = false)
    (hboth : (∃ i, i < 8 ∧ (s.farc l).bad.getLsbD i = true) ∧ 8 ≤ lane.val ∨
      (∃ i, 8 ≤ i ∧ (s.farc l).bad.getLsbD i = true) ∧ lane.val < 8) :
    cxlLaneFail l lane s = (s.lanesNoted l ((s.farc l).bad ||| (1#16 <<< lane.val))).linkLost l := by
  have hnew : ((s.farc l).bad ||| (1#16 <<< lane.val)).getLsbD lane.val = true := by simp
  have hold {i : Nat} (hi : (s.farc l).bad.getLsbD i = true) : ((s.farc l).bad ||| (1#16 <<< lane.val)).getLsbD i = true := by
    rw [BitVec.getLsbD_or, hi, Bool.true_or]
  rw [cxlLaneFail_eq h hb]
  refine if_pos ?_
  obtain ⟨⟨i, hi, hx⟩, hlane⟩ | ⟨⟨i, hi, hx⟩, hlane⟩ := hboth
  · exact both_halves hi (hold hx) hlane hnew
  · exact both_halves hlane hnew hi (hold hx)

theorem halved_width (s : State) (l : LinkId) : (s.halved l).linkWidth l = 8 := by
  have hw (r : Word) : r.toNat / 4 % 32 = ((r >>> 2).setWidth 5).toNat := by simp [Nat.shiftRight_eq_div_pow]
  have hbits (r : Word) : (((r &&& 0xFFFFFF83) ||| BitVec.ofNat 32 (4 * 8)) >>> 2).setWidth 5 = 8#5 := by
    ext i hi
    interval_cases i <;> simp
  rw [State.linkWidth, State.halved, State.raiseFar, State.raiseWith_reg, State.setReg_reg, hw, hbits]
  rfl

theorem halved_up (s : State) (l : LinkId) : (s.halved l).farUp l = s.farUp l := by
  rw [State.farUp, State.halved, State.raiseFar, State.raiseWith_reg, State.setReg_reg]
  simp [State.farUp]

/-! ### Key slots (R336, R338) -/

theorem locate_fr (l : LinkId) {o : Nat} (ho : o < 0x100000) : locate (fr l o) = some (.far l, o) := by
  have hl := l.isLt
  have hd : fr l o / 0x4000000 = 4 + l.val / 4 := by
    simp only [fr, Blk.base]
    omega
  have hr : fr l o % 0x4000000 = 0x1000000 + l.val % 4 * 0x100000 + o := by
    simp only [fr, Blk.base]
    omega
  unfold locate
  simp only [hd, hr]
  rw [dif_neg (by omega), dif_pos (by omega), if_neg (by omega), if_neg (by omega), dif_pos (by omega)]
  simp only [Option.some.injEq, Prod.mk.injEq, Blk.far.injEq, Fin.ext_iff]
  omega

theorem keyCommand {a : Agent} {w : Word} (h : Reaches s a (fr l 0x148)) : s.command a (fr l 0x148) w = s.wrFarKey l w := by
  have hr : regRow (.far l) 0x148 = some (regWo 0x148 0) := rfl
  exact command_of_reaches h (locate_fr l (by omega)) (fun _ => Blk.noConfusion) hr rfl

/-- A key slot of a link, by the low bits of FAR_KEY_CMD. -/
def State.withKey (s : State) (l : LinkId) (v : Word) (k : Option FarKey) : State :=
  s.modFar l fun f => { f with keys := f.keys.set (⟨v.toNat % 16, by omega⟩ : Fin 16) k }

theorem withKey_keys (s : State) (l : LinkId) (v : Word) (k : Option FarKey) :
    ((s.withKey l v k).farc l).keys = (s.farc l).keys.set (v.toNat % 16) k (by omega) := by
  rw [State.withKey, State.modFar_farc]

/-- What FAR_KEY_CMD names is the slot in its low bits. -/
theorem withKey_congr {v w : Word} (h : w.toNat % 16 = v.toNat % 16) (k : Option FarKey) : s.withKey l w k = s.withKey l v k := by
  simp only [State.withKey, h]

/-- The command that erases or loads a slot keeps the slot's number. -/
theorem keyCmd_slot (v : Word) {m : Word} (hm : m.setWidth 4 = 0#4) : (((v &&& 0x1F) ||| m).toNat % 16) = v.toNat % 16 := by
  have hw (x : Word) : x.toNat % 16 = (x.setWidth 4).toNat := by simp
  have hb : ((v &&& 0x1F) ||| m).setWidth 4 = v.setWidth 4 := by
    rw [BitVec.setWidth_or, hm]
    ext i hi
    interval_cases i <;> simp
  rw [hw, hw, hb]

theorem wrFarKey_erase (s : State) (l : LinkId) (v : Word) : s.wrFarKey l ((v &&& 0x1F) ||| 0x200) = s.withKey l v none := by
  have h9 : ((v &&& 0x1F) ||| 0x200).getLsbD 9 = true := by simp
  rw [← withKey_congr (keyCmd_slot v (m := 0x200) (by decide))]
  exact if_pos h9

section
variable (v : Word) (key : List Byte)

/-- LOAD with the slot named by v: what it does with the key that unwraps, if one does. -/
theorem wrFarKey_load : s.wrFarKey l ((v &&& 0x1F) ||| 0x100) =
    match s.unwrapKey (s.regBytes (fr l 0x100) 18) with
    | some key => if key.take 32 = key.drop 32 then (s.withKey l v none).orReg (fr l 0x14C) 0x80000000
      else s.withKey l v (some ⟨key, v.getLsbD 4⟩)
    | none => (s.withKey l v none).orReg (fr l 0x14C) 0x80000000 := by
  have h9 : ((v &&& 0x1F) ||| 0x100).getLsbD 9 = false := by simp
  have h8 : ((v &&& 0x1F) ||| 0x100).getLsbD 8 = true := by simp
  have h4 : ((v &&& 0x1F) ||| 0x100).getLsbD 4 = v.getLsbD 4 := by simp
  have hslot (k : Option FarKey) : s.withKey l ((v &&& 0x1F) ||| 0x100) k = s.withKey l v k :=
    withKey_congr (keyCmd_slot v (m := 0x100) (by decide)) k
  simp only [← hslot]
  rw [State.wrFarKey, if_neg (ne_true_of_eq_false h9), if_pos h8, h4]
  rfl

theorem wrFarKey_loads (hk : s.unwrapKey (s.regBytes (fr l 0x100) 18) = some key) (hne : key.take 32 ≠ key.drop 32) :
    s.wrFarKey l ((v &&& 0x1F) ||| 0x100) = s.withKey l v (some ⟨key, v.getLsbD 4⟩) := by
  rw [wrFarKey_load, hk]
  exact if_neg hne

theorem wrFarKey_fails (h : ∀ key, s.unwrapKey (s.regBytes (fr l 0x100) 18) = some key → key.take 32 = key.drop 32) :
    s.wrFarKey l ((v &&& 0x1F) ||| 0x100) = (s.withKey l v none).orReg (fr l 0x14C) 0x80000000 := by
  rw [wrFarKey_load]
  cases hk : s.unwrapKey (s.regBytes (fr l 0x100) 18) with
  | none => rfl
  | some key => exact if_pos (h key hk)

end

/-! ### Regions (R336, R343) -/

theorem regRow_farRegion (l : LinkId) (i : Fin 16) :
    regRow (.far l) (0x210 + 0x20 * i.val) = some (regRun 0x210 0x20 16 0xF7 0) := by
  have hrow : ∀ i : Fin 16, farRegs.find? (fun r => r.holds (0x210 + 0x20 * i.val)) = some (regRun 0x210 0x20 16 0xF7 0) := by
    decide
  simp [regRow, Blk.rows, hrow]

theorem regionCommand {a : Agent} {w : Word} (i : Fin 16) (h : Reaches s a (fr l (0x210 + 0x20 * i.val))) :
    s.command a (fr l (0x210 + 0x20 * i.val)) w = s.wrFarRegion l i w := by
  rw [command_of_reaches h (locate_fr l (by omega)) (fun _ => Blk.noConfusion) (regRow_farRegion l i) rfl, State.putWord]
  have hc : counters (.far l) (0x210 + 0x20 * i.val) = none := if_neg (by omega)
  have hi : (⟨(0x210 + 0x20 * i.val - 0x210) / 0x20 % 16, by omega⟩ : Fin 16) = i := Fin.ext (by simp only; omega)
  rw [hc]
  dsimp only
  rw [State.putFar, if_neg (by omega), if_pos (by omega), hi]

theorem wrFarRegion_refused {i : Fin 16} (h : s.farConflict l i = true) (v : Word) : s.wrFarRegion l i (v ||| 1) =
    (s.setReg (fr l (0x210 + 0x20 * i.val)) (v &&& 0xF6)).orReg (fr l 0) 0x100 := by
  have hen : (v ||| 1).getLsbD 0 = true := by simp
  have hv : (v ||| 1) &&& 0xF6 = v &&& 0xF6 := by
    rw [BitVec.and_or_distrib_right]
    simp
  rw [State.wrFarRegion, if_pos hen, if_pos h, hv]

theorem wrFarRegion_enables {i : Fin 16} (h : s.farConflict l i = false) (v : Word) : s.wrFarRegion l i (v ||| 1) =
    (s.setReg (fr l (0x210 + 0x20 * i.val)) ((v &&& 0xF6) ||| 1)).clrReg (fr l 0) 0x100 := by
  have hen : (v ||| 1).getLsbD 0 = true := by simp
  have hv : (v ||| 1) &&& 0xF7 = (v &&& 0xF6) ||| 1 := by
    have hm : (0xF7 : Word) = 0xF6 ||| 1 := by decide
    rw [hm, BitVec.and_or_distrib_left, BitVec.and_or_distrib_right]
    ext i hi
    by_cases h0 : i = 0 <;> simp [h0]
  rw [State.wrFarRegion, if_pos hen, if_neg (ne_true_of_eq_false h), hv]

end

/-- Settles O45: the accesses of a line, the failures of lanes and links, and the writes of key slots and regions, each by the equation
of its command. -/
theorem farMemoryWorks : Obligations.FarMemoryWorks := by
  intro s l hr f
  refine ⟨fun line => ?_, fun line d hd => ?_, fun lane hup hb hw => ?_, fun lane hup hb hboth => ?_, fun hup => ?_, fun hd => ?_,
    fun a v ha => ?_, fun a i v ha => ?_⟩
  · intro n hok hup hm
    refine ⟨fun o bs p ho => ?_, fun hp => ?_, fun hp => ?_⟩
    · have hbs : bs.take (64 - o.val) = bs := List.take_of_length_le (by omega)
      refine ⟨_, (ifDie_runs hr).trans (congrArg _ (farAccess_writes (.inr hok))), ?_⟩
      rw [hbs]
      exact farWriteLine_plain_writes hup hm ho
    · obtain ⟨hrep, hpres⟩ := farReadLine_poisoned hup hm hp
      exact ⟨_, (ifDie_runs hr).trans (congrArg _ (farAccess_reads hok)), hrep.fars, hpres, hrep.mem⟩
    · exact (ifDie_runs hr).trans (congrArg _ ((farAccess_reads hok).trans (farReadLine_unpoisoned hup hm hp)))
  · exact (ifDie_runs hr).trans (congrArg _ ((farAccess_writes (.inl hd)).trans (farWriteLine_down hd)))
  · obtain ⟨hrep, hpres⟩ := halved_reports (s.lanesNoted l (1#16 <<< lane.val)) l
    refine ⟨_, (ifDie_runs hr).trans (congrArg _ (cxlLaneFail_first hup hb hw)), ?_, halved_width .., (halved_up ..).trans hup,
      hpres, hrep.mem, hrep.courses⟩
    rw [State.farc, hrep.fars]
    exact lanesNoted_bad ..
  · have hgone := linkLost_gone (s := s.lanesNoted l (f.bad ||| (1#16 <<< lane.val))) hup
    exact ⟨_, (ifDie_runs hr).trans (congrArg _ (cxlLaneFail_both hup hb hboth)), hgone.down, hgone.unbacked, hgone.reported⟩
  · have hgone := linkLost_gone hup
    exact ⟨_, ifDie_runs hr, hgone.down, hgone.unbacked, hgone.only.fars, hgone.reported, hgone.only.mem, hgone.only.courses⟩
  · exact (ifDie_runs hr).trans (congrArg _ (linkLost_down hd))
  · intro slot
    exact ⟨⟨_, congrArg Host.Outcome.next ((keyCommand ha).trans (wrFarKey_erase s l v)), withKey_keys .., rfl, rfl⟩,
      fun key hk hne => ⟨_, congrArg Host.Outcome.next ((keyCommand ha).trans (wrFarKey_loads v key hk hne)), withKey_keys .., rfl, rfl⟩,
      fun hk => ⟨_, congrArg Host.Outcome.next ((keyCommand ha).trans (wrFarKey_fails v hk)), withKey_keys .., State.setReg_reg .., rfl⟩⟩
  · intro o
    have ho : fr l 0 ≠ o := by
      simp only [fr, o]
      omega
    refine ⟨fun hc => ⟨_, congrArg Host.Outcome.next ((regionCommand i ha).trans (wrFarRegion_enables hc v)), ?_⟩,
      fun hc => ⟨_, congrArg Host.Outcome.next ((regionCommand i ha).trans (wrFarRegion_refused hc v)), ?_⟩⟩
    · refine ⟨?_, ?_, rfl, rfl⟩
      · rw [State.clrReg, State.setReg_reg_ne _ ho.symm, State.setReg_reg]
      · rw [State.clrReg, State.setReg_reg]
        simp
    · refine ⟨?_, ?_, rfl, rfl⟩
      · rw [State.orReg, State.setReg_reg_ne _ ho.symm, State.setReg_reg]
      · rw [State.orReg, State.setReg_reg]
        simp

end Sys2Proof.Machine

/-! SUPPORT. The boot ledger and the key-wrapping key: what appending a record changes, and the commands that derive and drop the
key (R537, R543 to R545). -/

namespace Sys2Proof.Machine

section
variable {s t : State} {a : Agent} {ok : Bool} {h : Nat} {r : LedgerRec} {f : FailRec} {fs : List FailRec}

/-! ### The ledger is read from the flash (R543, R544) -/

theorem ledgerUsed_of_flash (he : t.boot.flash = s.boot.flash) (h : Nat) : t.ledgerUsed h = s.ledgerUsed h := by
  simp only [State.ledgerUsed, he]

theorem ledgerRecs_of_flash (he : t.boot.flash = s.boot.flash) (h : Nat) : t.ledgerRecs h = s.ledgerRecs h := by
  simp only [State.ledgerRecs, State.flashBytes, ledgerUsed_of_flash he, he]

theorem activeHalf_of_flash (he : t.boot.flash = s.boot.flash) : t.activeHalf = s.activeHalf := by
  simp only [State.activeHalf, ledgerRecs_of_flash he]

/-! ### A record is appended (R545) -/

theorem ledgerAppend_puts (hok : ok = true) (hn : s.ledgerUsed h < 16384) :
    s.ledgerAppend ok h r = s.flashPut (h * halfSize + 32 * s.ledgerUsed h) r.bytes := if_pos ⟨hok, hn⟩

theorem ledgerAppend_fails (hf : ok = false ∨ 16384 ≤ s.ledgerUsed h) : s.ledgerAppend ok h r = s.raiseLedger := by
  refine if_neg fun ⟨hok, hn⟩ => ?_
  obtain hf | hf := hf
  · exact ne_true_of_eq_false hf hok
  · omega

theorem State.raiseBoot_reports (s : State) (code : BitVec 16) (info : Option DWord) : Reports s (s.raiseBoot code info) :=
  s.raiseWith_reports ..

theorem State.raiseBoot_presents (s : State) (code : BitVec 16) (info : Option DWord) :
    Presents s (s.raiseBoot code info) 4 code 0x12 := s.raiseWith_presents_report 4 (plainReport code 0x12 0 0xF) info

theorem State.raiseBoot_regs (s : State) (code : BitVec 16) (info : Option DWord) : (s.raiseBoot code info).regs = s.regs :=
  s.raiseWith_regs ..

theorem Reports.boot (h : Reports s t) : t.boot = s.boot := by
  obtain ⟨_, _, _, _, rfl⟩ := h
  rfl

theorem failureRecord_none (h : s.boot.failures = []) : failureRecord ok s = s := by
  rw [failureRecord, h]

/-- The failures that no record stands for yet. -/
def State.withFailures (s : State) (fs : List FailRec) : State := { s with boot := { s.boot with failures := fs } }

/-- The oldest failure leaves the list as its record is appended. -/
theorem failureRecord_oldest (h : s.boot.failures = f :: fs) : failureRecord ok s =
    (s.withFailures fs).ledgerAppend ok s.ledgerHalf ⟨2, 0, 0, 0, s.bootNumber, 0, f⟩ := by
  rw [failureRecord, h]
  rfl

theorem failureRecord_fails (h : s.boot.failures = f :: fs) (hf : ok = false ∨ 16384 ≤ s.ledgerUsed s.ledgerHalf) :
    failureRecord ok s = (s.withFailures fs).raiseLedger :=
  (failureRecord_oldest h).trans (ledgerAppend_fails hf)

theorem ledger_records : ledgerRecords := by
  intro s a ok hr h n put
  refine ⟨fun hf => (ifDie_runs hr).trans (congrArg _ (failureRecord_none hf)), fun f fs hf => ⟨fun hok hn => ?_, fun hbad => ?_⟩,
    fun ha => ⟨fun hok hn => ?_, fun hbad => ?_⟩⟩
  · exact (ifDie_runs hr).trans (congrArg _ ((failureRecord_oldest hf).trans (ledgerAppend_puts hok hn)))
  · have hrep := (s.withFailures fs).raiseBoot_reports 0x1005 none
    exact ⟨_, (ifDie_runs hr).trans (congrArg _ (failureRecord_fails hf hbad)), hrep.boot, State.raiseBoot_regs .., hrep.courses,
      hrep.mem, State.raiseBoot_presents ..⟩
  · exact congrArg Host.Outcome.next ((through_of_reaches ha).trans (ledgerAppend_puts hok hn))
  · have hrep := s.raiseBoot_reports 0x1005 none
    exact ⟨_, congrArg Host.Outcome.next ((through_of_reaches ha).trans (ledgerAppend_fails hbad)), hrep.boot,
      State.raiseBoot_regs .., hrep.courses, hrep.mem, State.raiseBoot_presents ..⟩

/-! ### The key-wrapping key (R537) -/

theorem locate_pr {o : Nat} (ho : o < 0x4000000) : locate (pr o) = some (.pkg, o) := by
  have hd : pr o / 0x4000000 = 6 := by
    simp only [pr, Blk.base]
    omega
  have hr : pr o % 0x4000000 = o := by
    simp only [pr, Blk.base]
    omega
  simp [locate, hd, hr]

theorem kwkCommand {w : Word} (h : Reaches s a (pr 0x160)) : s.command a (pr 0x160) w = s.wrKwk w := by
  have hr : regRow .pkg 0x160 = some (regWo 0x160 0) := rfl
  exact command_of_reaches h (locate_pr (by omega)) (fun _ => Blk.noConfusion) hr rfl

/-- DERIVE. -/
theorem wrKwk_derives {q : List Byte} (hq : s.boot.helper = some q) (hb : s.boot.kwkBusy = none) :
    s.wrKwk 1 = { s with boot := { s.boot with kwkBusy := some (s.kwkOf q) } } := by
  simp [State.wrKwk, hq, hb]

/-- DERIVE with no identity, or while a derivation runs. -/
theorem wrKwk_waits (h : s.boot.helper = none ∨ s.boot.kwkBusy ≠ none) : s.wrKwk 1 = s := by
  obtain hq | hb := h
  · simp [State.wrKwk, hq]
  · obtain ⟨k, hk⟩ := Option.ne_none_iff_exists'.1 hb
    simp [State.wrKwk, hk]

theorem kwkOf_invalid (h : onCurve s.kwkPeer = false) (q : List Byte) : s.kwkOf q = none := by
  simp only [State.kwkOf, h, Bool.false_eq_true, if_false]

theorem kwkDeriveDone_idle (h : s.boot.kwkBusy = none) : kwkDeriveDone s = s := by
  rw [kwkDeriveDone, h]

/-- The key that a derivation gives takes the place of the one in force. -/
def State.keyed (s : State) (k : Option (List Byte)) : State := { s with boot := { s.boot with kwk := k, kwkBusy := none } }

/-- No key comes of an invalid point: BAD is set, and it is reported. -/
def State.keyRefused (s : State) : State := ((s.keyed none).orReg (pr 0x164) 0x80000000).raiseBoot 0x1006 none

theorem kwkDeriveDone_key {k : List Byte} (h : s.boot.kwkBusy = some (some k)) :
    kwkDeriveDone s = (s.keyed (some k)).irqPf 134 := by
  rw [kwkDeriveDone, h]
  rfl

theorem kwkDeriveDone_refused (h : s.boot.kwkBusy = some none) : kwkDeriveDone s = s.keyRefused.irqPf 134 := by
  rw [kwkDeriveDone, h]
  rfl

theorem State.irqPf_signals (s : State) (src : Nat) : Signals s (s.irqPf src) := s.irqMap_signals ..

theorem key_derived : keyDerived := by
  intro s a hr
  refine ⟨fun ha => ⟨fun q hq hb => ?_, fun hn => ?_, congrArg Host.Outcome.next (kwkCommand ha)⟩,
    fun hn => (ifDie_runs hr).trans (congrArg _ (kwkDeriveDone_idle hn)), fun k hk => ?_⟩
  · exact ⟨congrArg Host.Outcome.next ((kwkCommand ha).trans (wrKwk_derives hq hb)), fun hc => kwkOf_invalid hc q⟩
  · exact congrArg Host.Outcome.next ((kwkCommand ha).trans (wrKwk_waits hn))
  · cases k with
    | some key =>
      obtain ⟨x, o, m, hs⟩ := (s.keyed (some key)).irqPf_signals 134
      refine ⟨_, (ifDie_runs hr).trans (congrArg _ (kwkDeriveDone_key hk)), ?_⟩
      rw [hs]
      exact ⟨rfl, rfl, rfl, fun _ => ⟨rfl, rfl⟩, fun h => nomatch h⟩
    | none =>
      have hrep := ((s.keyed none).orReg (pr 0x164) 0x80000000).raiseBoot_reports 0x1006 none
      have hreg : s.keyRefused.reg (pr 0x164) = s.reg (pr 0x164) ||| 0x80000000 :=
        (State.raiseWith_reg ..).trans (State.setReg_reg ..)
      have hpres : Presents s s.keyRefused 4 0x1006 0x12 := State.raiseBoot_presents ..
      obtain ⟨x, o, m, hs⟩ := s.keyRefused.irqPf_signals 134
      refine ⟨_, (ifDie_runs hr).trans (congrArg _ (kwkDeriveDone_refused hk)), ?_⟩
      rw [hs]
      exact ⟨hrep.boot, hrep.courses, hrep.mem, fun h => absurd rfl h, fun _ => ⟨hreg, hpres⟩⟩

end

end Sys2Proof.Machine

/-! SUPPORT. Package reset and power loss: what lies outside the reset, and what a record that was being written leaves in the flash
(R344, R579 to R581, R586). -/

namespace Sys2Proof.Machine

section
variable {s t u : State}

theorem vector_get_ofFn {α : Type} {n : Nat} (f : Fin n → α) (i : Fin n) : (Vector.ofFn f).get i = f i := by
  show (Vector.ofFn f)[i.val] = f i
  simp

/-- In t all that the package holds is at its reset value; the media, the board's inputs and the comparators are those of s. -/
structure Cold (s t : State) : Prop where
  volatile : { t with dies := State.reset.dies, fars := State.reset.fars, boot := BootState.reset, freeCtr := 0, stamp := 0,
                      out := [], pending := [] } = State.reset
  dies : ∀ d, t.die d = { DieState.reset with comparator := (s.die d).comparator, refOk := (s.die d).refOk }
  fars : ∀ l, t.farc l = { FarState.reset with media := (s.farc l).media, poison := (s.farc l).poison }
  boot : { t.boot with flash := [], tripPin := false, capPin := false, perst := true } = BootState.reset
  capPin : t.boot.capPin = s.boot.capPin
  perst : t.boot.perst = s.boot.perst

theorem packageReset_cold (s : State) : Cold s s.packageReset where
  volatile := rfl
  dies _ := vector_get_ofFn ..
  fars _ := vector_get_ofFn ..
  boot := rfl
  capPin := rfl
  perst := rfl

/-- THERMTRIP_N stays asserted only while a comparator holds it (R581). -/
theorem packageReset_tripPin (s : State) :
    s.packageReset.boot.tripPin = true ↔ s.boot.tripPin = true ∧ ∃ d, (s.die d).comparator = true := by
  have hb : s.packageReset.boot.tripPin = (s.boot.tripPin && (List.finRange 6).any fun d => (s.die d).comparator) := rfl
  simp [hb]

/-- The state as a record that was being written leaves it, with another free value drawn. -/
def State.reflashed (s : State) (n : Nat) (m : SMap Byte) : State := { s with freeCtr := n, boot := { s.boot with flash := m } }

/-- Power is lost: a package reset with THERMTRIP_N released (R580). -/
def State.unpowered (s : State) : State := { s.packageReset with boot := { s.packageReset.boot with tripPin := false } }

theorem unpowered_cold (s : State) (n : Nat) (m : SMap Byte) : Cold s (s.reflashed n m).unpowered where
  volatile := rfl
  dies _ := vector_get_ofFn ..
  fars _ := vector_get_ofFn ..
  boot := rfl
  capPin := rfl
  perst := rfl

/-- What the flash holds once power has been lost (R545, R580): as much of a record as was written. -/
def CutShort (s : State) (m : SMap Byte) : Prop :=
  (s.boot.failures = [] → m = s.boot.flash) ∧ ∀ f rest, s.boot.failures = f :: rest →
    let h := s.ledgerHalf
    let n := s.ledgerUsed h
    let r : LedgerRec := ⟨2, 0, 0, 0, s.bootNumber, 0, f⟩
    (16384 ≤ n → m = s.boot.flash) ∧
      (n < 16384 → ∃ k, k ≤ 32 ∧ m = (s.flashPut (h * halfSize + 32 * n) (r.bytes.take k)).boot.flash)

theorem unplannedPowerLoss_eq (s : State) : ∃ n m, unplannedPowerLoss s = (s.reflashed n m).unpowered ∧ CutShort s m := by
  unfold unplannedPowerLoss
  cases hf : s.boot.failures with
  | nil =>
    refine ⟨s.freeCtr, s.boot.flash, rfl, fun _ => rfl, fun f rest h => ?_⟩
    rw [hf] at h
    cases h
  | cons f rest =>
    dsimp only
    split
    · next hn =>
      refine ⟨s.freeCtr + 1, _, rfl, fun h => ?_, fun g gs h => ⟨fun hfull => ?_, fun _ => ⟨s.fresh.toNat % 33, by omega, ?_⟩⟩⟩
      · rw [hf] at h
        cases h
      · omega
      · rw [hf] at h
        cases h
        rfl
    · next hn =>
      refine ⟨s.freeCtr, s.boot.flash, rfl, fun _ => rfl, fun g gs _ => ⟨fun _ => rfl, fun h => absurd h hn⟩⟩

theorem package_resets : packageResets := by
  intro s volatile
  obtain ⟨n, m, he, hcut, hcuts⟩ := unplannedPowerLoss_eq s
  have hp := packageReset_cold s
  have hu := unpowered_cold s n m
  refine ⟨⟨_, rfl, ⟨hp.volatile, hp.dies, hp.fars, hp.boot, hp.capPin, hp.perst⟩, rfl, packageReset_tripPin s⟩,
    ⟨_, congrArg Host.Outcome.next he, ⟨hu.volatile, hu.dies, hu.fars, hu.boot, hu.capPin, hu.perst⟩, rfl, hcut, hcuts⟩⟩

end

end Sys2Proof.Machine

/-! SUPPORT. Boot: what the plinth controller's records and reports leave, the start of a boot, the turns that it takes, and how a
path that fails ends it or lets it go on (R539 to R543, R581). -/

namespace Sys2Proof.Machine

section
variable {s t u : State} {r : BootRun} {env : BootEnv} {x p h fuel : Nat} {us ps : List Nat}

/-! ### What records and reports leave (R539, R545) -/

/-- From s to t only records of the ledger and reports of the plinth controller have been added. -/
structure Logs (s t : State) : Prop where
  frame : ∃ d n m, t = { s with dies := d, freeCtr := n, boot := { s.boot with flash := m } }
  kept : ∀ q ∈ (s.die 4).presented, q ∈ (t.die 4).presented
  comparator : ∀ d, (t.die d).comparator = (s.die d).comparator

theorem Logs.refl (s : State) : Logs s s := ⟨⟨_, _, _, rfl⟩, fun _ h => h, fun _ => rfl⟩

theorem Logs.trans (h : Logs s t) (k : Logs t u) : Logs s u := by
  obtain ⟨⟨_, _, _, rfl⟩, hk, hc⟩ := h
  obtain ⟨⟨d, n, m, rfl⟩, hk', hc'⟩ := k
  exact ⟨⟨d, n, m, rfl⟩, fun q hq => hk' q (hk q hq), fun d => (hc' d).trans (hc d)⟩

theorem Logs.reg (h : Logs s t) (o : Nat) : t.reg o = s.reg o := by
  obtain ⟨⟨_, _, _, rfl⟩, -, -⟩ := h
  rfl

theorem State.raiseBoot_logs (s : State) (code : BitVec 16) (info : Option DWord) : Logs s (s.raiseBoot code info) := by
  obtain ⟨q, hq, -, -⟩ := s.raiseBoot_presents code info
  refine ⟨?_, fun e he => ?_, fun d => ?_⟩
  · unfold State.raiseBoot State.raiseWith
    split <;> exact ⟨_, _, _, rfl⟩
  · rw [hq]
    exact List.mem_append_left _ he
  · have hc (v : State) (q : Report) : ((v.raise 4 q).die d).comparator = (v.die d).comparator := by
      by_cases hd : d = 4
      · rw [hd, State.raise_die]
      · rw [State.raise_die_ne _ hd]
    unfold State.raiseBoot State.raiseWith
    split
    · exact hc s _
    · exact hc s.used _

theorem State.raiseBoot_told (s : State) (code : BitVec 16) (info : Option DWord) :
    ∃ q ∈ ((s.raiseBoot code info).die 4).presented, q.code = code ∧ q.srcUnit = 0x12 := by
  obtain ⟨q, hq, hc⟩ := s.raiseBoot_presents code info
  exact ⟨q, by rw [hq]; simp, hc⟩

/-- A change of the flash. -/
theorem logs_flash (s : State) (m : SMap Byte) : Logs s { s with boot := { s.boot with flash := m } } :=
  ⟨⟨_, _, _, rfl⟩, fun _ h => h, fun _ => rfl⟩

theorem State.ledgerAppend_logs (s : State) (ok : Bool) (h : Nat) (q : LedgerRec) : Logs s (s.ledgerAppend ok h q) := by
  unfold State.ledgerAppend
  dsimp only
  split
  · exact logs_flash ..
  · exact s.raiseBoot_logs ..

theorem foldl_logs {α : Type} {f : State → α → State} (hf : ∀ s a, Logs s (f s a)) (l : List α) (s : State) : Logs s (l.foldl f s) :=
  foldl_related Logs.refl Logs.trans hf l s

/-- From s to t a boot has gone on: no course, no memory and no comparator has changed, no report is lost, and BOOT_FAULT_N
stays. -/
structure Along (s t : State) : Prop where
  courses : t.courses = s.courses
  mem : t.mem = s.mem
  faultPin : t.boot.faultPin = s.boot.faultPin
  kept : ∀ q ∈ (s.die 4).presented, q ∈ (t.die 4).presented
  comparator : ∀ d, (t.die d).comparator = (s.die d).comparator

theorem Along.trans (h : Along s t) (k : Along t u) : Along s u :=
  ⟨k.courses.trans h.courses, k.mem.trans h.mem, k.faultPin.trans h.faultPin, fun q hq => k.kept q (h.kept q hq),
    fun d => (k.comparator d).trans (h.comparator d)⟩

theorem Logs.along (h : Logs s t) : Along s t := by
  obtain ⟨⟨_, _, _, rfl⟩, hk, hc⟩ := h
  exact ⟨rfl, rfl, rfl, hk, hc⟩

/-- What changes only registers, what has gone out, and the boot but for BOOT_FAULT_N. -/
theorem along_of_same (hc : t.courses = s.courses) (hm : t.mem = s.mem) (hd : t.dies = s.dies)
    (hf : t.boot.faultPin = s.boot.faultPin) : Along s t := by
  have hdie (d : Die) : t.die d = s.die d := congrArg (fun v => Vector.get v d) hd
  exact ⟨hc, hm, hf, fun q hq => by rwa [hdie], fun d => by rw [hdie]⟩

/-! ### A path fails (R539, R541) -/

/-- A capture of a record that is not valid and has no address (R161). -/
theorem State.capture1_reg {o info : Nat} (hv : (s.reg o).getLsbD 31 = false) :
    (s.capture1 o info none 0).reg o = BitVec.ofNat 32 (0x80000000 + info) := by
  rw [State.capture1, if_neg (ne_true_of_eq_false hv)]
  exact State.setReg_reg ..

theorem State.capture1_reg_ne {o info q : Nat} (hq : q ≠ o) : (s.capture1 o info none 0).reg q = s.reg q := by
  unfold State.capture1
  split
  · rfl
  · exact State.setReg_reg_ne _ hq _

/-- The code of a path that fails (R541). -/
def BootRun.failCode (r : BootRun) (timeout : Bool) : Nat := if timeout then 0x1003 else if r.step = 4 then 0x1004 else 0x1001

/-- The ATTEMPT record of a path that fails. -/
def State.attemptFails (s : State) (r : BootRun) (x p : Nat) (timeout : Bool) : State :=
  s.attempt r x p (if timeout then 3 else 2) (r.failCode timeout) 0

/-- A path of x has failed, and the paths ps are left. -/
structure PathFails (s t : State) (r : BootRun) (x p : Nat) (ps : List Nat) (timeout : Bool) : Prop where
  along : Along s t
  attempted : ∀ q ∈ ((s.attemptFails r x p timeout).die 4).presented, q ∈ (t.die 4).presented
  boot : t.boot = { s.boot with flash := (s.attemptFails r x p timeout).boot.flash
                                run := s.boot.run.map fun r => { r with paths := some ps } }
  reported : ∃ q ∈ (t.die 4).presented, q.code = BitVec.ofNat 16 (r.failCode timeout) ∧ q.srcUnit = 0x12
  regs : ∀ o, o ≠ pr 0x10 → t.reg o = s.reg o
  captured : (s.reg (pr 0x10)).getLsbD 31 = false →
    t.reg (pr 0x10) = BitVec.ofNat 32 (0x80000000 + (r.failCode timeout + 65536 * r.step))

theorem attemptDetail_plain (h8 : r.step ≠ 8) (h10 : r.step ≠ 10) (h11 : r.step ≠ 11) (s : State) (p : Nat) :
    s.attemptDetail r.step p = (0, s) := by
  unfold State.attemptDetail
  split
  · next h => exact absurd h h8
  · next h => exact absurd h h10
  · next h => exact absurd h h11
  · rfl

theorem pathFailed_fails (h8 : r.step ≠ 8) (h10 : r.step ≠ 10) (h11 : r.step ≠ 11) (s : State) (x p : Nat) (ps : List Nat)
    (timeout : Bool) : PathFails s (s.pathFailed r x p ps timeout) r x p ps timeout := by
  have hlog : Logs s (s.attemptFails r x p timeout) := State.ledgerAppend_logs ..
  generalize hu : (s.attemptFails r x p timeout).raiseBoot (BitVec.ofNat 16 (r.failCode timeout)) none = u
  have hraise : Logs (s.attemptFails r x p timeout) u := hu ▸ State.raiseBoot_logs ..
  have htold : ∃ q ∈ (u.die 4).presented, q.code = BitVec.ofNat 16 (r.failCode timeout) ∧ q.srcUnit = 0x12 :=
    hu ▸ State.raiseBoot_told ..
  have hboot : u.boot = (s.attemptFails r x p timeout).boot := hu ▸ (State.raiseBoot_reports ..).boot
  have he : s.pathFailed r x p ps timeout = (u.capture1 (pr 0x10) (r.failCode timeout + 65536 * r.step) none 0).modRun
      fun r => { r with paths := some ps } := by
    rw [← hu, State.pathFailed, attemptDetail_plain h8 h10 h11]
    rfl
  have hreg (o : Nat) : u.reg o = s.reg o := (hlog.trans hraise).reg o
  have hne (o : Nat) (ho : o ≠ pr 0x10) := State.capture1_reg_ne (s := u) (info := r.failCode timeout + 65536 * r.step) ho
  have hcap := State.capture1_reg (s := u) (o := pr 0x10) (info := r.failCode timeout + 65536 * r.step)
  obtain ⟨m, w, hc⟩ := capture1_frame u (pr 0x10) (r.failCode timeout + 65536 * r.step) 0 none
  generalize u.capture1 (pr 0x10) (r.failCode timeout + 65536 * r.step) none 0 = v at *
  rw [he]
  have hdie : v.die 4 = u.die 4 := by rw [hc]; rfl
  refine ⟨(hlog.trans hraise).along.trans (along_of_same ?_ ?_ ?_ ?_), fun q hq => ?_, ?_, ?_, fun o ho => (hne o ho).trans (hreg o),
    fun hv => hcap (by rwa [hreg])⟩
  · rw [hc]; rfl
  · rw [hc]; rfl
  · rw [hc]; rfl
  · rw [hc]; rfl
  · exact hdie ▸ hraise.kept q hq
  · obtain ⟨d, n, m, hs⟩ := hlog.frame
    have hv : v.boot = (s.attemptFails r x p timeout).boot := by rw [hc]; exact hboot
    rw [State.modRun, hv, hs]
  · exact hdie ▸ htold

end

end Sys2Proof.Machine

/-! SUPPORT. The turns that a boot takes: entering a step of one unit, a path that fails, passes or runs on, a unit that has no path
left, and the end of the boot (R539 to R541). -/

namespace Sys2Proof.Machine

section
variable {s t u : State} {r : BootRun} {x p fuel : Nat} {us ps : List Nat} {timeout : Bool} {y : PathResult}

/-- What is left of the boot. -/
def State.withRun (s : State) (o : Option BootRun) : State := { s with boot := { s.boot with run := o } }

theorem modRun_eq (hr : s.boot.run = some r) (f : BootRun → BootRun) : s.modRun f = s.withRun (some (f r)) := by
  rw [State.modRun, hr]
  rfl

/-! ### Turns -/

theorem bootGo_idle (hr : s.boot.run = none) : s.bootGo fuel = s := by
  cases fuel with
  | zero => rfl
  | succ n => rw [State.bootGo, hr]

theorem bootGo_ends (hr : s.boot.run = some r) (hu : r.units = []) (h14 : r.step = 14) : s.bootGo (fuel + 1) = s.withRun none := by
  simp only [State.bootGo, hr, hu, h14, Nat.le_refl, if_true]
  rfl

theorem bootGo_next (hr : s.boot.run = some r) (hu : r.units = []) (hs : r.step < 14) : s.bootGo (fuel + 1) =
    ((s.setReg (pr 0) ((s.reg (pr 0) &&& 0xFFFFFFF0) ||| BitVec.ofNat 32 (r.step + 1))).withRun
      (some (r.atStep (r.step + 1)))).bootGo fuel := by
  rw [State.bootGo, hr]
  dsimp only
  rw [hu]
  dsimp only
  rw [if_neg (by omega), modRun_eq (s := s.setReg _ _) hr]

section
variable (hr : s.boot.run = some r) (hu : r.units = x :: us)
include hr hu

theorem bootGo_tries (hp : r.paths = none) (hk : s.skipsUnit r.step x = false) :
    s.bootGo (fuel + 1) = (s.withRun (some { r with paths := some (r.pathsOf x) })).bootGo fuel := by
  rw [State.bootGo, hr]
  dsimp only
  rw [hu, hp]
  dsimp only
  rw [if_neg (ne_true_of_eq_false hk), modRun_eq hr, hu]

theorem bootGo_exhausted (hp : r.paths = some []) : s.bootGo (fuel + 1) = (s.unitFailed r x).bootGo fuel := by
  simp only [State.bootGo, hr, hu, hp]

theorem bootGo_hangs (hp : r.paths = some (p :: ps)) (hy : r.result x p = .hang) : s.bootGo (fuel + 1) = s := by
  simp only [State.bootGo, hr, hu, hp, hy]

theorem bootGo_fails (hp : r.paths = some (p :: ps)) (hy : r.result x p = .fail) :
    s.bootGo (fuel + 1) = (s.pathFailed r x p ps false).bootGo fuel := by
  simp only [State.bootGo, hr, hu, hp, hy]

theorem bootGo_passes (hp : r.paths = some (p :: ps)) (hy : r.result x p = .pass) (ht : s.runPath r x p = some t) :
    s.bootGo (fuel + 1) = (t.pathPassed r x p).bootGo fuel := by
  simp only [State.bootGo, hr, hu, hp, hy, ht]

end

/-! ### A step of the whole package, which has one path (R540) -/

theorem pathsFrom_one (p : Nat) : pathsFrom 1 p = [0] := by
  cases p with
  | zero => rfl
  | succ n => simp [pathsFrom]

/-- Steps 1 and 14 have one unit, with one path, and skip nothing. -/
theorem pathsOf_single (hs : r.step = 1 ∨ r.step = 14) : r.pathsOf 0 = [0] := by
  obtain hs | hs := hs
  · simp [BootRun.pathsOf, hs, pathCount, pathsFrom_one]
  · simp [BootRun.pathsOf, hs, pathCount, pathsFrom_one]

/-- The run as it enters the step after r's, of one unit with one path. -/
def BootRun.entered (r : BootRun) : BootRun := { r.atStep (r.step + 1) with paths := some [0] }

/-- The boot has entered the step after r's. -/
def State.enters (s : State) (r : BootRun) : State :=
  (s.setReg (pr 0) ((s.reg (pr 0) &&& 0xFFFFFFF0) ||| BitVec.ofNat 32 (r.step + 1))).withRun (some r.entered)

theorem entered_units (hs : r.step = 0 ∨ r.step = 13) : r.entered.units = [0] := by
  show stepUnits (r.step + 1) = [0]
  obtain hs | hs := hs
  · rw [hs]; rfl
  · rw [hs]; rfl

theorem bootGo_enters (hr : s.boot.run = some r) (hu : r.units = []) (hs : r.step = 0 ∨ r.step = 13) :
    s.bootGo (fuel + 2) = (s.enters r).bootGo fuel := by
  have hskip (t : State) : t.skipsUnit (r.atStep (r.step + 1)).step 0 = false := by
    obtain hs | hs := hs
    · rw [hs]; rfl
    · rw [hs]; rfl
  have hstep : (r.atStep (r.step + 1)).step = 1 ∨ (r.atStep (r.step + 1)).step = 14 :=
    hs.imp (congrArg (· + 1)) (congrArg (· + 1))
  rw [bootGo_next hr hu (by omega), bootGo_tries (r := r.atStep (r.step + 1)) rfl (entered_units hs) rfl (hskip _), pathsOf_single hstep]
  rfl

theorem enters_along (s : State) (r : BootRun) : Along s (s.enters r) := along_of_same rfl rfl rfl rfl

theorem enters_reg (s : State) (r : BootRun) :
    (s.enters r).reg (pr 0) = (s.reg (pr 0) &&& 0xFFFFFFF0) ||| BitVec.ofNat 32 (r.step + 1) := s.setReg_reg ..

theorem enters_reg_ne {o : Nat} (ho : o ≠ pr 0) (s : State) (r : BootRun) : (s.enters r).reg o = s.reg o :=
  State.setReg_reg_ne _ ho _

/-- The low four bits of BOOT_STATUS, which name the step. -/
theorem step_nibble (w : Word) {n : Nat} (hn : n < 16) : ((w &&& 0xFFFFFFF0) ||| BitVec.ofNat 32 n).toNat % 16 = n := by
  have hw : (w.toNat &&& 0xFFFFFFF0) % 2 ^ 4 = 0 := by
    rw [Nat.and_mod_two_pow]
    exact Nat.and_zero _
  have hm : n % 2 ^ 32 % 2 ^ 4 = n := by omega
  rw [BitVec.toNat_or, BitVec.toNat_and, BitVec.toNat_ofNat]
  calc ((w.toNat &&& 0xFFFFFFF0) ||| n % 2 ^ 32) % 2 ^ 4 = _ := Nat.or_mod_two_pow
    _ = n := by rw [hw, hm, Nat.zero_or]

/-- Bits from 4 up are set without changing the step. -/
theorem or_step (w m : Word) (hm : m.toNat % 16 = 0) : (w ||| m).toNat % 16 = w.toNat % 16 := by
  rw [BitVec.toNat_or]
  calc (w.toNat ||| m.toNat) % 2 ^ 4 = _ := Nat.or_mod_two_pow
    _ = w.toNat % 2 ^ 4 := by rw [hm, Nat.or_zero]

theorem result_of_finding
    (h : (r.env.paths.find? fun f => f.step == r.step && f.unit == x && f.path == p).map (·.result) = some y) : r.result x p = y := by
  obtain ⟨f, hf, rfl⟩ := Option.map_eq_some_iff.1 h
  rw [BootRun.result, hf]

/-! ### A boot stops (R541) -/

theorem bootStop_reg (s : State) : s.bootStop.reg (pr 0) = s.reg (pr 0) ||| 0x20 := s.setReg_reg ..

theorem bootStop_reg_ne {o : Nat} (ho : o ≠ pr 0) (s : State) : s.bootStop.reg o = s.reg o := State.setReg_reg_ne _ ho _

theorem unitFailed_stops (hs : r.step ∈ [1, 2, 3, 4, 5, 7]) (s : State) (x : Nat) : s.unitFailed r x = s.bootStop := by
  unfold State.unitFailed
  simp only [List.mem_cons, List.not_mem_nil, or_false] at hs
  obtain hs | hs | hs | hs | hs | hs := hs
  all_goals rw [hs]; rfl

theorem PathFails.run (f : PathFails s t r x p ps timeout) (hr : s.boot.run = some r) :
    t.boot.run = some { r with paths := some ps } := by
  rw [f.boot, hr]
  rfl

/-- The last path of a step whose failure stops the boot has failed. -/
theorem bootGo_stops (f : PathFails s t r x p [] timeout) (hr : s.boot.run = some r) (hu : r.units = x :: us)
    (hs : r.step ∈ [1, 2, 3, 4, 5, 7]) : t.bootGo (fuel + 1) = t.bootStop := by
  rw [bootGo_exhausted (f.run hr) hu rfl, unitFailed_stops (by exact hs), bootGo_idle rfl]

theorem failCode_of (hs : r.step ≠ 4) : r.failCode timeout = if timeout then 0x1003 else 0x1001 := by
  rw [BootRun.failCode, if_neg hs]

/-- A boot that begins stops as step 1's path fails. -/
theorem bootGo_stops_first (hr : s.boot.run = some r) (h0 : r.step = 0) (hu : r.units = [])
    (hf : (r.env.paths.find? fun f => f.step == 1 && f.unit == 0 && f.path == 0).map (·.result) = some .fail) :
    StoppedFirst s (s.bootGo bootFuel) ∧ ∀ d, ((s.bootGo bootFuel).die d).comparator = (s.die d).comparator := by
  obtain ⟨q, hq⟩ : ∃ q, q = r.entered := ⟨_, rfl⟩
  obtain ⟨u, he⟩ : ∃ u, u = s.enters r := ⟨_, rfl⟩
  have hq1 : q.step = 1 := by rw [hq, BootRun.entered, h0]; rfl
  have hunits : q.units = [0] := hq ▸ entered_units (.inl h0)
  have hpaths : q.paths = some [0] := hq ▸ rfl
  have henv : q.env = r.env := hq ▸ rfl
  have hrun : u.boot.run = some q := by rw [he, hq]; rfl
  have halong : Along s u := he ▸ enters_along s r
  have hres : q.result 0 0 = .fail := result_of_finding (by rw [henv, hq1]; exact hf)
  have hfails := pathFailed_fails (r := q) (by omega) (by omega) (by omega) u 0 0 [] false
  have hend : s.bootGo bootFuel = (u.pathFailed q 0 0 [] false).bootStop := by
    calc s.bootGo bootFuel = u.bootGo (4093 + 1) := he ▸ bootGo_enters (fuel := 4094) hr hu (.inl h0)
      _ = (u.pathFailed q 0 0 [] false).bootGo (4092 + 1) := bootGo_fails hrun hunits hpaths hres
      _ = _ := bootGo_stops hfails hrun hunits (by rw [hq1]; decide)
  rw [hend]
  generalize u.pathFailed q 0 0 [] false = v at hfails
  have hstatus : v.reg (pr 0) = (s.reg (pr 0) &&& 0xFFFFFFF0) ||| BitVec.ofNat 32 1 := by
    rw [hfails.regs _ (by decide), he, enters_reg, h0]
  have hcode : q.failCode false = 0x1001 := failCode_of (by omega)
  have hrep := hfails.reported
  rw [hcode] at hrep
  have hall := halong.trans hfails.along
  refine ⟨⟨rfl, rfl, ?_, ?_, hrep, fun h31 => ?_, hall.courses, hall.mem⟩, hall.comparator⟩
  · rw [bootStop_reg, hstatus, or_step _ _ (by decide), step_nibble _ (by decide)]
  · rw [bootStop_reg]
    simp
  · have hu31 : (u.reg (pr 0x10)).getLsbD 31 = false := by rwa [he, enters_reg_ne (by decide)]
    rw [bootStop_reg_ne (by decide), hfails.captured hu31, hcode, hq1]
    rfl

end

end Sys2Proof.Machine

/-! SUPPORT. The start of a boot: the ledger gives its number and whether it begins on the primaries, and a comparator holds it at step
1 (R539 to R543, R581). -/

namespace Sys2Proof.Machine

section
variable {s t u : State} {env : BootEnv} {n x : Nat} {m : Word} {rs : List LedgerRec}

/-! ### What opening the ledger leaves (R542, R543) -/

/-- From s to t the ledger has been opened for boot n, with the bits m of BOOT_STATUS set. -/
structure Opened (s t : State) (env : BootEnv) (n : Nat) (m : Word) : Prop where
  along : Along s t
  rstLow : t.boot.rstLow = s.boot.rstLow
  run : ∃ r, t.boot.run = some r ∧ r.env = env ∧ r.step = 0 ∧ r.units = []
  number : t.reg (pr 4) = BitVec.ofNat 32 n
  status : t.reg (pr 0) = s.reg (pr 0) ||| m
  regs : ∀ o, o ≠ pr 0 → o ≠ pr 4 → t.reg o = s.reg o

/-- Boot n has its number, and is about to take its first step. -/
def State.numbered (s : State) (env : BootEnv) (n : Nat) (b : List (Nat × Nat × Nat)) (l : List FailRec) : State :=
  (s.setReg (pr 4) (BitVec.ofNat 32 n)).withRun (some ⟨env, 0, [], none, n, b, l, []⟩)

theorem Logs.numbered (h : Logs s u) (b : List (Nat × Nat × Nat)) (l : List FailRec) : Opened s (u.numbered env n b l) env n 0 where
  along := h.along.trans (along_of_same rfl rfl rfl rfl)
  rstLow := by
    obtain ⟨⟨_, _, _, rfl⟩, -, -⟩ := h
    rfl
  run := ⟨_, rfl, rfl, rfl, rfl⟩
  number := u.setReg_reg ..
  status := by
    show _ = s.reg (pr 0) ||| 0#32
    rw [BitVec.or_zero, ← h.reg]
    exact State.setReg_reg_ne _ (by decide) _
  regs o _ ho := (State.setReg_reg_ne _ ho _).trans (h.reg o)

theorem Opened.bits (h : Opened s t env n m) (k : Word) : Opened s (t.bootBits k) env n (m ||| k) where
  along := h.along.trans (along_of_same rfl rfl rfl rfl)
  rstLow := h.rstLow
  run := h.run
  number := (State.setReg_reg_ne _ (by decide) _).trans h.number
  status := by
    rw [← BitVec.or_assoc, ← h.status]
    exact t.setReg_reg ..
  regs o h0 h4 := (State.setReg_reg_ne _ h0 _).trans (h.regs o h0 h4)

/-- With no half in service the ledger is begun anew. -/
def State.renewed (s : State) (env : BootEnv) : State :=
  ((if env.flashOk then (s.flashErase 0).flashErase 1 else s).ledgerAppend env.flashOk 0
    ⟨3, 0, 0, 0, 0, 0, ⟨4, 0x12, 0, 0, 0⟩⟩).raiseLedger

theorem renewed_logs (s : State) (env : BootEnv) : Logs s (s.renewed env) := by
  have hf : Logs s (if env.flashOk then (s.flashErase 0).flashErase 1 else s) := by
    split
    · exact (logs_flash ..).trans (logs_flash ..)
    · exact .refl s
  exact (hf.trans (State.ledgerAppend_logs _ env.flashOk 0 ⟨3, 0, 0, 0, 0, 0, ⟨4, 0x12, 0, 0, 0⟩⟩)).trans (State.raiseBoot_logs _ 0x1005 none)

theorem openLedger_renews (h : s.activeHalf = none) :
    s.openLedger env = ((s.renewed env).numbered env 1 [] []).bootBits 0x900 := by
  rw [State.openLedger, h]
  rfl

theorem openLedger_none (h : s.activeHalf = none) : Opened s (s.openLedger env) env 1 0x900 ∧
    ∃ q ∈ ((s.openLedger env).die 4).presented, q.code = 0x1005 ∧ q.srcUnit = 0x12 := by
  rw [openLedger_renews h]
  have ho := ((renewed_logs s env).numbered (env := env) (n := 1) [] []).bits 0x900
  exact ⟨ho, State.raiseBoot_told _ 0x1005 none⟩

/-- A half with fewer than 512 free records is compacted into the other. -/
def State.compacts (s : State) (env : BootEnv) (h n : Nat) : State :=
  if 16384 - s.ledgerUsed h < 512 then
    if env.flashOk then (compaction (s.ledgerRecs h) ++ [(⟨3, 0, 0, 0, n, 0, ⟨4, 0x12, 0, 0, 0⟩⟩ : LedgerRec)]).foldl
      (fun t r => t.ledgerAppend true (1 - h) r) (s.flashErase (1 - h))
    else s.raiseLedger
  else s

theorem compacts_logs (s : State) (env : BootEnv) (h n : Nat) : Logs s (s.compacts env h n) := by
  unfold State.compacts
  split
  · split
    · exact (logs_flash ..).trans (foldl_logs (fun _ _ => State.ledgerAppend_logs ..) _ _)
    · exact s.raiseBoot_logs ..
  · exact .refl s

/-- The number of the boot after those that the records name. -/
def nextBoot (rs : List LedgerRec) : Nat := (rs.map (·.boot)).foldl max 0 + 1

/-- Every eighth boot begins on the primaries, and one that a CLEAR record asks for. -/
def onPrimaries (rs : List LedgerRec) : Bool :=
  decide (nextBoot rs % 8 = 0) || rs.any fun r => r.kind == 4 && r.boot + 1 == nextBoot rs

/-- Where the units begin: on the path that the latest ATTEMPT record found good. -/
def unitsBegin (rs : List LedgerRec) : List (Nat × Nat × Nat) :=
  (List.range 15).flatMap fun st => (stepUnits st).filterMap fun u =>
    match (latestAttempts rs).find? fun r => r.step == st && { r.part with detail := 0 } == unitPart st u with
    | some r => if r.outcome < 2 ∧ r.path < pathCount st then some (st, u, r.path) else none
    | none => none

theorem openLedger_counts (h : s.activeHalf = some x) : s.openLedger env =
    (if onPrimaries (s.ledgerRecs x) then ((s.compacts env x (nextBoot (s.ledgerRecs x))).setReg (pr 4)
        (BitVec.ofNat 32 (nextBoot (s.ledgerRecs x)))).bootBits 0x800
      else (s.compacts env x (nextBoot (s.ledgerRecs x))).setReg (pr 4) (BitVec.ofNat 32 (nextBoot (s.ledgerRecs x)))).withRun
    (some ⟨env, 0, [], none, nextBoot (s.ledgerRecs x), if onPrimaries (s.ledgerRecs x) then [] else unitsBegin (s.ledgerRecs x),
      ((liveFailures (s.ledgerRecs x)).map (·.part)).filter validPart, []⟩) := by
  simp only [State.openLedger, h]
  rfl

theorem openLedger_some (h : s.activeHalf = some x) : Opened s (s.openLedger env) env (nextBoot (s.ledgerRecs x))
    (if onPrimaries (s.ledgerRecs x) then 0x800 else 0) := by
  have ho (b l) := (compacts_logs s env x (nextBoot (s.ledgerRecs x))).numbered (env := env) (n := nextBoot (s.ledgerRecs x)) b l
  rw [openLedger_counts h]
  cases onPrimaries (s.ledgerRecs x) with
  | true => exact (ho _ _).bits 0x800
  | false => exact ho _ _

/-! ### The records of a half in service (R543) -/

/-- A half in service has a COMPACTED record. -/
theorem compacted_of_activeHalf (h : s.activeHalf = some x) : compacted (s.ledgerRecs x) ≠ none := by
  unfold State.activeHalf at h
  split at h
  · cases h
  · next h0 _ =>
    cases h
    rw [h0]
    exact Option.some_ne_none _
  · next _ h1 =>
    cases h
    rw [h1]
    exact Option.some_ne_none _
  · next h0 h1 =>
    split at h
    · cases h
      rw [h1]
      exact Option.some_ne_none _
    · cases h
      rw [h0]
      exact Option.some_ne_none _

theorem ledgerRecs_ne_nil (h : s.activeHalf = some x) : s.ledgerRecs x ≠ [] := fun he =>
  compacted_of_activeHalf h (he ▸ rfl)

/-- The greatest boot that the records name. -/
theorem nextBoot_spec (h : rs ≠ []) : ∃ n, nextBoot rs = n + 1 ∧ (∀ r ∈ rs, r.boot ≤ n) ∧ ∃ r ∈ rs, r.boot = n := by
  obtain ⟨q, qs, rfl⟩ := List.exists_cons_of_ne_nil h
  have hmax : ((q :: qs).map (·.boot)).max? = some (((q :: qs).map (·.boot)).foldl max 0) := by
    rw [List.map_cons, List.max?_cons', List.foldl_cons, Nat.zero_max]
  obtain ⟨hmem, hle⟩ := List.max?_eq_some_iff.1 hmax
  obtain ⟨r, hr, hb⟩ := List.mem_map.1 hmem
  exact ⟨_, rfl, fun r hr => hle _ (List.mem_map_of_mem hr), r, hr, hb⟩

theorem onPrimaries_iff (hn : nextBoot rs = n + 1) :
    onPrimaries rs = true ↔ (n + 1) % 8 = 0 ∨ ∃ r ∈ rs, r.kind = 4 ∧ r.boot = n := by
  simp [onPrimaries, hn]

theorem openLedger_opens (s : State) (env : BootEnv) : ∃ n m, m.toNat % 16 = 0 ∧ Opened s (s.openLedger env) env n m := by
  cases h : s.activeHalf with
  | none => exact ⟨_, _, by decide, (openLedger_none h).1⟩
  | some x =>
    refine ⟨_, _, ?_, openLedger_some h⟩
    cases onPrimaries (s.ledgerRecs x) with
    | true => rfl
    | false => rfl

/-! ### BOOT_START -/

/-- PKG_RST_N has risen. -/
def State.released (s : State) : State := { s with boot := { s.boot with rstLow := false } }

/-- The boot holds at step 1, or no longer does. -/
def State.holds (s : State) (on : Bool) : State := { s with boot := { s.boot with hold := on } }

theorem bootStart_out (h : s.boot.rstLow = false) : bootStart env s = s := by
  rw [bootStart, h]
  rfl

theorem any_hot (s : State) : ((List.finRange 6).any fun d => (s.die d).comparator) = true ↔ ∃ d, (s.die d).comparator = true := by
  simp

theorem Opened.hot (h : Opened s.released t env n m) : (∃ d, (t.die d).comparator = true) ↔ ∃ d, (s.die d).comparator = true :=
  exists_congr fun d => by rw [h.along.comparator d]; rfl

section
variable (hl : s.boot.rstLow = true)
include hl

theorem bootStart_holds (hot : ∃ d, (s.die d).comparator = true) :
    bootStart env s = ((s.released.openLedger env).holds true).bootBits 1 := by
  obtain ⟨n, m, hm, ho⟩ := openLedger_opens s.released env
  have hc := (any_hot _).2 (ho.hot.2 hot)
  rw [bootStart, hl]
  exact if_pos hc

theorem bootStart_goes (cool : ¬∃ d, (s.die d).comparator = true) :
    bootStart env s = (s.released.openLedger env).bootGo bootFuel := by
  obtain ⟨n, m, hm, ho⟩ := openLedger_opens s.released env
  have hc := mt (any_hot _).1 (mt ho.hot.1 cool)
  rw [bootStart, hl]
  exact if_neg hc

end

theorem held_reg (s : State) : ((s.holds true).bootBits 1).reg (pr 0) = s.reg (pr 0) ||| 1 := State.setReg_reg ..

theorem held_reg_ne {o : Nat} (ho : o ≠ pr 0) (s : State) : ((s.holds true).bootBits 1).reg o = s.reg o :=
  State.setReg_reg_ne _ ho _

/-- A boot that begins a ledger anew, as it holds (R542). -/
theorem held_none (h0 : s.reg (pr 0) = 0) (h : s.activeHalf = none) :
    let t := ((s.openLedger env).holds true).bootBits 1
    t.reg (pr 4) = 1 ∧ t.reg (pr 0) = 0x901 ∧ ∃ q ∈ (t.die 4).presented, q.code = 0x1005 ∧ q.srcUnit = 0x12 := by
  intro t
  obtain ⟨ho, htold⟩ := openLedger_none (env := env) h
  refine ⟨(held_reg_ne (by decide) _).trans ho.number, ?_, htold⟩
  rw [held_reg, ho.status, h0]
  rfl

/-- A boot that the ledger counts, as it holds (R543). -/
theorem held_some (h0 : s.reg (pr 0) = 0) (h : s.activeHalf = some x) :
    let t := ((s.openLedger env).holds true).bootBits 1
    ∃ n, (∀ r ∈ s.ledgerRecs x, r.boot ≤ n) ∧ (∃ r ∈ s.ledgerRecs x, r.boot = n) ∧ t.reg (pr 4) = BitVec.ofNat 32 (n + 1) ∧
      ((t.reg (pr 0)).getLsbD 11 = true ↔ (n + 1) % 8 = 0 ∨ ∃ r ∈ s.ledgerRecs x, r.kind = 4 ∧ r.boot = n) := by
  intro t
  have ho := openLedger_some (env := env) h
  obtain ⟨n, hn, hle, hmem⟩ := nextBoot_spec (ledgerRecs_ne_nil h)
  refine ⟨n, hle, hmem, ?_, ?_⟩
  · rw [held_reg_ne (by decide), ho.number, hn]
  · rw [held_reg, ho.status, h0, ← onPrimaries_iff hn]
    cases onPrimaries (s.ledgerRecs x) with
    | true => decide
    | false => decide

/-! ### COMPARATOR_RELEASE -/

/-- The comparators of some dies have released. -/
def State.cools (s : State) (l : List Die) : State := l.foldl (fun t d => t.modDie d fun x => { x with comparator := false }) s

theorem State.cools_frame (s : State) (l : List Die) : ∃ m, s.cools l = { s with dies := m } :=
  foldl_related (R := fun s t => ∃ m, t = { s with dies := m }) (fun _ => ⟨_, rfl⟩)
    (fun h k => by
      obtain ⟨_, rfl⟩ := h
      obtain ⟨m, rfl⟩ := k
      exact ⟨m, rfl⟩) (fun _ _ => ⟨_, rfl⟩) l s

theorem cools_die (l : List Die) (s : State) (d : Die) :
    (s.cools l).die d = { s.die d with comparator := (s.die d).comparator && decide (d ∉ l) } := by
  induction l generalizing s with
  | nil => simp [State.cools]
  | cons e l ih =>
    refine (ih _).trans ?_
    by_cases hd : d = e
    · subst hd
      rw [State.modDie_die]
      simp
    · rw [State.modDie_die_ne _ hd]
      simp [hd]

theorem State.cools_all (s : State) (d : Die) : (s.cools (List.finRange 6)).die d = { s.die d with comparator := false } := by
  rw [cools_die]
  simp

theorem comparatorRelease_idle (h : s.boot.hold = false) : comparatorRelease s = s.cools (List.finRange 6) := by
  obtain ⟨m, hm⟩ := s.cools_frame (List.finRange 6)
  have hb : ¬(s.cools (List.finRange 6)).boot.hold = true := by
    rw [hm]
    exact ne_true_of_eq_false h
  exact if_neg hb

theorem comparatorRelease_goes (h : s.boot.hold = true) :
    comparatorRelease s = ((s.cools (List.finRange 6)).holds false).bootGo bootFuel := by
  obtain ⟨m, hm⟩ := s.cools_frame (List.finRange 6)
  have hb : (s.cools (List.finRange 6)).boot.hold = true := by
    rw [hm]
    exact h
  exact if_pos hb

theorem StoppedFirst.from (h : StoppedFirst u t) (hr : u.reg (pr 0x10) = s.reg (pr 0x10)) (hc : u.courses = s.courses)
    (hm : u.mem = s.mem) : StoppedFirst s t := by
  obtain ⟨hrun, hpin, hstep, hbit, htold, hfail, hcs, hms⟩ := h
  exact ⟨hrun, hpin, hstep, hbit, htold, hr ▸ hfail, hcs.trans hc, hms.trans hm⟩

/-- The boot runs on in step 1. -/
theorem bootGo_hangs_first {r : BootRun} (hr : s.boot.run = some r) (h0 : r.step = 0) (hu : r.units = [])
    (hf : (r.env.paths.find? fun f => f.step == 1 && f.unit == 0 && f.path == 0).map (·.result) = some .hang) :
    s.bootGo bootFuel = s.enters r := by
  have h1 : r.entered.step = 1 := by rw [BootRun.entered, h0]; rfl
  have hres : r.entered.result 0 0 = .hang := result_of_finding (by rw [h1]; exact hf)
  calc s.bootGo bootFuel = (s.enters r).bootGo (4093 + 1) := bootGo_enters (fuel := 4094) hr hu (.inl h0)
    _ = s.enters r := bootGo_hangs rfl (entered_units (.inl h0)) rfl hres

theorem boot_begins : bootBegins := by
  intro s env hot first
  refine ⟨fun hl => congrArg Host.Outcome.next (bootStart_out hl),
    fun hl hh h0 => ⟨_, congrArg Host.Outcome.next (bootStart_holds hl hh), ?_⟩,
    fun hl hh hf => ⟨_, congrArg Host.Outcome.next (bootStart_goes hl hh), ?_⟩,
    fun hl hh hf => ⟨_, congrArg Host.Outcome.next (bootStart_goes hl hh), ?_⟩,
    fun hn => ⟨_, congrArg Host.Outcome.next (comparatorRelease_idle hn), s.cools_all, ?_⟩,
    fun r hh hr he h1 hu hf => ⟨_, congrArg Host.Outcome.next (comparatorRelease_goes hh), ?_⟩⟩
  · obtain ⟨n, m, hm, ho⟩ := openLedger_opens s.released env
    have h0' : s.released.reg (pr 0) = 0 := h0
    have hhalf : s.released.activeHalf = s.activeHalf := activeHalf_of_flash rfl
    refine ⟨rfl, ho.rstLow, ?_, ho.along.courses, ho.along.mem, fun hn => held_none h0' (hhalf.trans hn), fun x hx => ?_⟩
    · rw [held_reg, ho.status, h0', BitVec.or_comm, BitVec.or_comm 0 m, ← BitVec.or_assoc, or_step _ 0 rfl, or_step _ m hm]
      rfl
    · have hsome := held_some (env := env) h0' (hhalf.trans hx)
      rw [ledgerRecs_of_flash (t := s.released) (s := s) rfl] at hsome
      exact hsome
  · obtain ⟨n, m, hm, ho⟩ := openLedger_opens s.released env
    obtain ⟨r, hr, he, h0, hu⟩ := ho.run
    exact (bootGo_stops_first hr h0 hu (he ▸ hf)).1.from (ho.regs _ (by decide) (by decide)) ho.along.courses ho.along.mem
  · obtain ⟨n, m, hm, ho⟩ := openLedger_opens s.released env
    obtain ⟨r, hr, he, h0, hu⟩ := ho.run
    rw [bootGo_hangs_first hr h0 hu (he ▸ hf)]
    have hall := ho.along.trans (enters_along _ r)
    refine ⟨⟨_, rfl, congrArg (· + 1) h0, entered_units (.inl h0), rfl⟩, ?_, hall.faultPin, hall.courses, hall.mem⟩
    rw [enters_reg, h0, step_nibble _ (by decide)]
  · obtain ⟨m, hm⟩ := s.cools_frame (List.finRange 6)
    rw [hm]
  · obtain ⟨m, hm⟩ := s.cools_frame (List.finRange 6)
    have hrun : ((s.cools (List.finRange 6)).holds false).boot.run = some r := by rw [hm]; exact hr
    obtain ⟨hstop, hcmp⟩ := bootGo_stops_first hrun h1 hu (he ▸ hf)
    refine ⟨hstop.from ?_ ?_ ?_, fun d => (hcmp d).trans ?_⟩
    · rw [hm]; rfl
    · rw [hm]; rfl
    · rw [hm]; rfl
    · exact congrArg DieState.comparator (s.cools_all d)

end

end Sys2Proof.Machine

/-! SUPPORT. A step's limit: the path that runs fails, and the boot stops or goes on to READY (R539 to R541). -/

namespace Sys2Proof.Machine

section
variable {s t u : State} {r : BootRun} {x p fuel : Nat} {us ps : List Nat}

/-! ### BOOT_STEP_TIMEOUT -/

theorem bootStepTimeout_idle (h : s.boot.run = none ∨ s.boot.hold = true) : bootStepTimeout s = s := by
  obtain hn | hh := h
  · rw [bootStepTimeout, hn]
  · unfold bootStepTimeout
    split
    · rfl
    · split
      · exact if_pos hh
      · rfl

theorem bootStepTimeout_fails (hr : s.boot.run = some r) (hh : s.boot.hold = false) (hu : r.units = x :: us)
    (hp : r.paths = some (p :: ps)) : bootStepTimeout s = (s.pathFailed r x p ps true).bootGo bootFuel := by
  simp [bootStepTimeout, hr, hu, hp, hh]

/-- The ATTEMPT record of a path that has reached its limit, written or not (R545). -/
theorem attemptFails_flash (s : State) (r : BootRun) (x p : Nat) :
    (r.env.flashOk = true → s.ledgerUsed s.ledgerHalf < 16384 → (s.attemptFails r x p true).boot.flash =
      (s.flashPut (s.ledgerHalf * halfSize + 32 * s.ledgerUsed s.ledgerHalf)
        (LedgerRec.bytes ⟨1, r.step, p, 3, r.number, 0x1003, { unitPart r.step x with detail := 0 }⟩)).boot.flash) ∧
    (r.env.flashOk = false → (s.attemptFails r x p true).boot.flash = s.boot.flash ∧
      ∃ q ∈ ((s.attemptFails r x p true).die 4).presented, q.code = 0x1005) := by
  refine ⟨fun hok hn => congrArg (·.boot.flash) (ledgerAppend_puts hok hn), fun hf => ?_⟩
  have he : s.attemptFails r x p true = s.raiseLedger := ledgerAppend_fails (.inl hf)
  obtain ⟨q, hq, hc, -⟩ := s.raiseBoot_told 0x1005 none
  rw [he]
  exact ⟨congrArg BootState.flash (s.raiseBoot_reports 0x1005 none).boot, q, hq, hc⟩

/-! ### READY (R540) -/

theorem bootReady_signals (s : State) :
    Signals { s.bootBits 0x10 with boot := { s.boot with booted := true } } s.bootReady := State.irqPf_signals ..

theorem bootReady_along (s : State) : Along s s.bootReady := by
  obtain ⟨h, o, m, he⟩ := bootReady_signals s
  rw [he]
  exact along_of_same rfl rfl rfl rfl

theorem bootReady_boot (s : State) : s.bootReady.boot = { s.boot with booted := true } := by
  obtain ⟨h, o, m, he⟩ := bootReady_signals s
  rw [he]

theorem bootReady_reg (s : State) : s.bootReady.reg (pr 0) = s.reg (pr 0) ||| 0x10 := by
  rw [(bootReady_signals s).reads.1]
  exact s.setReg_reg ..

theorem mapOut_logs (s : State) (r : BootRun) (l : List FailRec) : Logs s (s.mapOut r l) :=
  foldl_logs (fun _ _ => State.ledgerAppend_logs ..) l s

/-- The run once the unit at hand is done with. -/
def BootRun.onward (r : BootRun) : BootRun := { r with units := r.units.drop 1, paths := none }

theorem onward_units (hu : r.units = [x]) : r.onward.units = [] := congrArg (List.drop 1) hu

/-- Step 14 passes without DEGRADED (R539). -/
theorem pathPassed_last (h14 : r.step = 14) (s : State) :
    ∃ t, Logs s t ∧ s.pathPassed r x 0 = t.modRun BootRun.onward := by
  refine ⟨(s.attempt r x 0 0 0 0).mapOut r (r.found x), (State.ledgerAppend_logs ..).trans (mapOut_logs ..), ?_⟩
  simp [State.pathPassed, h14, State.attemptDetail, -List.drop_one]
  rfl

/-- Step 14 has passed, and the boot has ended. -/
theorem bootGo_ready (hr : s.boot.run = some r) (h14 : r.step = 14) (hu : r.units = [x]) (hp : r.paths = some [0])
    (hf : ∀ f ∈ r.env.paths, f.step ≠ 14) :
    ∃ t, Logs s.bootReady t ∧ s.bootGo (fuel + 2) = t.withRun none := by
  have hnone : (r.env.paths.find? fun f => f.step == r.step && f.unit == x && f.path == 0) = none := by
    rw [List.find?_eq_none]
    intro f hm
    simp [h14, hf f hm]
  have hres : r.result x 0 = .pass := by
    rw [BootRun.result, hnone]
  have hpath : s.runPath r x 0 = some s.bootReady := by
    simp only [State.runPath, h14]
  obtain ⟨t, ht, he⟩ := pathPassed_last (x := x) h14 s.bootReady
  have hrun : t.boot.run = some r := by
    obtain ⟨⟨d, n, m, hs⟩, -, -⟩ := ht
    rw [hs]
    show s.bootReady.boot.run = some r
    rw [bootReady_boot]
    exact hr
  refine ⟨t, ht, ?_⟩
  rw [bootGo_passes hr hu hp hres hpath, he, modRun_eq hrun, bootGo_ends (r := r.onward) rfl (onward_units hu) h14]
  rfl

/-- Step 13's failure does not stop the boot (R540). -/
theorem unitFailed_firmware (h13 : r.step = 13) (s : State) (x : Nat) : s.unitFailed r x = s.modRun BootRun.onward := by
  simp only [State.unitFailed, h13]
  rfl

/-- Step 13's only path has failed: the boot goes on to READY. -/
theorem bootGo_after_firmware (hr : s.boot.run = some r) (h13 : r.step = 13) (hu : r.units = [x]) (hp : r.paths = some [])
    (hf : ∀ f ∈ r.env.paths, f.step ≠ 14) : ∃ u t, Along s u ∧ Logs u.bootReady t ∧ s.bootGo bootFuel = t.withRun none ∧
      u.reg (pr 0) = (s.reg (pr 0) &&& 0xFFFFFFF0) ||| BitVec.ofNat 32 14 := by
  have hskip : s.unitFailed r x = s.withRun (some r.onward) := (unitFailed_firmware h13 s x).trans (modRun_eq hr _)
  obtain ⟨q, hq⟩ : ∃ q, q = r.onward := ⟨_, rfl⟩
  have hq13 : q.step = 13 := hq ▸ h13
  have henv : q.entered.env = r.env := hq ▸ rfl
  obtain ⟨t, ht, he⟩ := bootGo_ready (s := (s.withRun (some q)).enters q) (fuel := 4091) rfl (congrArg (· + 1) hq13)
    (entered_units (.inr hq13)) rfl (henv ▸ hf)
  refine ⟨_, t, (along_of_same rfl rfl rfl rfl : Along s (s.withRun (some q))).trans (enters_along ..), ht, ?_, ?_⟩
  · calc s.bootGo bootFuel = (s.unitFailed r x).bootGo 4095 := bootGo_exhausted hr hu hp
      _ = (s.withRun (some q)).bootGo (4093 + 2) := by rw [hskip, hq]
      _ = ((s.withRun (some q)).enters q).bootGo (4091 + 2) := bootGo_enters rfl (hq ▸ onward_units hu) (.inr hq13)
      _ = t.withRun none := he
  · rw [enters_reg, hq13]
    rfl

theorem boot_limits : bootLimits := by
  intro s
  refine ⟨fun h => congrArg Host.Outcome.next (bootStepTimeout_idle h), ?_⟩
  intro r u us p hr hh hu hp h n rec0
  refine ⟨fun hs => ?_, fun h13 hus hf => ?_⟩
  · have hp8 : r.step ≠ 8 ∧ r.step ≠ 10 ∧ r.step ≠ 11 := by
      simp only [List.mem_cons, List.not_mem_nil, or_false] at hs
      omega
    obtain ⟨h8, h10, h11⟩ := hp8
    have f := pathFailed_fails h8 h10 h11 s u p [] true
    have hend := (bootStepTimeout_fails hr hh hu hp).trans (bootGo_stops (fuel := 4095) f hr hu hs)
    obtain ⟨hput, hlost⟩ := attemptFails_flash s r u p
    have hflash : (s.pathFailed r u p [] true).boot.flash = (s.attemptFails r u p true).boot.flash := by rw [f.boot]
    refine ⟨_, congrArg Host.Outcome.next hend, rfl, rfl, ?_, fun hok hn => hflash.trans (hput hok hn), fun hbad => ?_, f.reported,
      f.along.courses, f.along.mem⟩
    · rw [bootStop_reg]
      simp
    · obtain ⟨hsame, q, hq, hc⟩ := hlost hbad
      exact ⟨hflash.trans hsame, q, f.attempted q hq, hc⟩
  · have f := pathFailed_fails (r := r) (by omega) (by omega) (by omega) s u p [] true
    obtain ⟨v, t, hv, ht, he, hreg⟩ := bootGo_after_firmware (f.run hr) h13 (hus ▸ hu) rfl hf
    have hall := ((f.along.trans hv).trans (bootReady_along v)).trans ht.along
    have hstatus : (t.withRun none).reg (pr 0) = ((s.reg (pr 0) &&& 0xFFFFFFF0) ||| BitVec.ofNat 32 14) ||| 0x10 := by
      show t.reg (pr 0) = _
      rw [ht.reg, bootReady_reg, hreg, f.regs _ (by decide)]
    obtain ⟨q, hq, hc⟩ := f.reported
    refine ⟨t.withRun none, congrArg Host.Outcome.next ((bootStepTimeout_fails hr hh hu hp).trans he), rfl, ?_, ?_, ?_, ?_, hall.faultPin,
      ⟨q, ?_, hc⟩, hall.courses, hall.mem⟩
    · obtain ⟨⟨d, n, m, hs⟩, -, -⟩ := ht
      rw [hs]
      exact congrArg BootState.booted (bootReady_boot v)
    · rw [hstatus, or_step _ _ (by decide), step_nibble _ (by decide)]
    · rw [hstatus]
      simp
    · rw [hstatus]
      simp
    · exact ((hv.trans (bootReady_along v)).trans ht.along).kept q hq

/-- Settles O60: reset, boot, the boot ledger and the key-wrapping key. -/
theorem bootRuns : Obligations.BootRuns :=
  ⟨package_resets, boot_begins, boot_limits, ledger_records, key_derived⟩

end

end Sys2Proof.Machine
